-- ==== Sys2Proof/Word.lean ====
section
/-! DEFINITION. The word types of the part. Bit 0 is the least significant bit of every field and multi-byte
fields are little-endian (00_scope.md, R7). -/

namespace Sys2Proof

/-- A byte. -/
abbrev Byte := BitVec 8

/-- A scalar register, a flag, a timebase value: 64 bits. -/
abbrev Word := BitVec 64

/-- A 32-bit field: a local address, a UID, a control word. -/
abbrev Half := BitVec 32

end Sys2Proof
end

