-- ==== Sys2Proof/Units.lean ====
section
/-! DEFINITION. The units of the device, their states, and the plain data that commands and events carry
(01_architecture.md R14 to R26, R749; 08_core_programming.md R246). -/

namespace Sys2Proof

/-- A physical unit (R15). Core `c` is `die * 96 + cluster * 8 + core`, cluster `k` is `die * 12 + cluster`, channel
`n` is `die * 128 + INDEX`, port `p` is `die * 16 + INDEX` (R18 numbering of ports). Engine type 0 matrix, 1 vector,
2 scalar, 3 DMA. -/
inductive PUnit where
  | engine (c : Fin 192) (e : Fin 4)
  | core (c : Fin 192)
  | cluster (k : Fin 24)
  | die (d : Fin 2)
  | device
  | channel (n : Fin 256)
  | port (p : Fin 32)
  | attn (k : Fin 24)
  | seqEngine (d : Fin 2)
  | hostIf
  | vangaer
  | mgmt (d : Fin 2)
  deriving DecidableEq, Repr

/-- Unit states, from best to worst (R21). -/
inductive UState where
  | ready
  | degraded
  | notReady
  | resetting
  | fenced
  | outOfService
  deriving DecidableEq, Repr

/-- Roles (R590). -/
inductive Role where
  | operator
  | installer
  | maker
  | tenant
  deriving DecidableEq, Repr

/-- The fields of a core instruction word other than its opcode (R246). -/
structure CoreWord where
  pneg : Bool
  pred : Fin 8
  rd : Fin 32
  rs1 : Fin 32
  rs2 : Fin 32
  rs3 : Fin 32
  ctl : BitVec 32
  imm : BitVec 64
  deriving DecidableEq, Repr

/-- What a frame carries in its payload, in clear. The manual gives the header (15_onaux_fabric.md R534) and leaves the
layout of the payload, lengths included, open; `coll` data names its phase: contribution or gather. -/
inductive FrameBody where
  | read (len : Nat)
  | write (bytes : List (BitVec 8))
  | flagAdd (value : Nat)
  | readData (bytes : List (BitVec 8))
  | ack
  | nack (status : Nat)
  | collReady (collid inst hash : Nat)
  | collData (collid inst : Nat) (gather : Bool) (chunk rank off : Nat) (bytes : List (BitVec 8))
  | mgmt (kind : Nat) (args : List Nat)
  | time (kind value : Nat) (root : Bool)
  | digest (qpn seqno : Nat) (digest : BitVec 128)
  | keyx (nonce : BitVec 128) (gen : Nat) (installed : Bool)
  deriving DecidableEq, Repr

/-- A frame that arrives on a port (15_onaux_fabric.md R534, R535): header, payload as AES-256-GCM decrypts it, and whether the tag
verifies over it and over the header with CORR as zero, under the key of the slot its header names (DESIGN CHOICE, log entry 118:
the outcome of the decryption is the operand). -/
structure FrameIn where
  port : Fin 32
  hdr : BitVec 256
  body : FrameBody
  tagOk : Bool
  deriving DecidableEq, Repr

/-- A command or an atomic step as it comes from another device in a management frame (14_command_interface.md R474,
R508): the device, its name for the command, the sender's role, the header and the parameters. -/
structure RemoteIn where
  peer : Nat
  tid : Nat
  /-- Lease identifier of the sending device, 0 outside a lease. -/
  lease : Nat
  role : Role
  hdr : BitVec 512
  params : List (BitVec 512)
  deriving DecidableEq, Repr

/-- A sideband frame (15_onaux_fabric.md R557): TYPE, HOPS, DPOS, LEN, payload and CRC. -/
structure SbIn where
  kind : Nat
  hops : Nat
  dpos : Nat
  len : Nat
  payload : List (BitVec 8)
  crc : Nat
  deriving DecidableEq, Repr

/-- What the host interface gives a DMA entry's completion: the bytes its host reads returned, and whether a request
ended in an error. -/
structure HostData where
  bytes : List (BitVec 8)
  err : Bool
  deriving DecidableEq, Repr

/-- One time exchange (02_self_timed_operation.md R69, R523): the time root it goes back to, and how far this device lies behind it. -/
structure ExchIn where
  root : Nat
  offset : Int
  deriving DecidableEq, Repr

/-- A request for measurements (17_security_and_leasing.md R614): the block, and the requester's nonce. -/
structure MeasureIn where
  index : Nat
  nonce : BitVec 256
  deriving DecidableEq, Repr

/-- What moves the interface to ERROR (16_host_interface.md R581): the cause, and the stream or the session it concerns. -/
structure TdiErrorIn where
  cause : Nat
  subject : Nat
  deriving DecidableEq, Repr

/-- A key of a stream (16_host_interface.md R580): the set it goes into, and the key. -/
structure StreamKeyIn where
  keySet : Nat
  key : BitVec 256
  deriving DecidableEq, Repr

/-- A Translation Completion (13_address_translation.md R434): the page of the request it answers, the first page its range covers,
and for each page from there the translated page and its rights. -/
structure TransIn where
  asked : Nat
  page : Nat
  pages : List (Nat × Bool × Bool)
  deriving DecidableEq, Repr

/-- One sample of canary lines (implied paces), power and sensors (02_self_timed_operation.md R53, 19 R657, R661). -/
structure SampleIn where
  implied0 : List Nat
  implied1 : List Nat
  power : Nat
  temps0 : List Int
  temps1 : List Int
  deriving DecidableEq, Repr

/-- A unit's fault report (20_debug_and_telemetry.md R680). -/
structure ReportIn where
  reporter : Nat
  subject : Nat
  cls : Nat
  reason : Nat
  addr : Nat
  info : Nat
  deriving DecidableEq, Repr

/-- What the ECC of a line or word gives when it is read (12_memory_system.md R396). -/
inductive EccIn where
  | clean
  | corrected (lane : Nat)
  | uncorrectable
  deriving DecidableEq, Repr

/-- A request of the host (16_host_interface.md R567 to R577): a memory request to BAR 0 or 2, or 6 for a request to the function's
configuration space; offset, length, data of a write, the IDE stream it came on, whether its T bit is set, and whether
the Read Completion Boundary in force is 128 bytes. -/
structure TlpIn where
  rcb128 : Bool
  bar : Nat
  off : Nat
  len : Nat
  write : Bool
  data : List (BitVec 8)
  stream : Option Nat
  tbit : Bool
  deriving DecidableEq, Repr

/-- One command as fetched from a submission queue (14_command_interface.md R460, R471): a ring access that failed, or
the header and its parameter blocks, from the ring or through PPTR, with the error of the access through PPTR. -/
structure FetchIn where
  failed : Bool
  hdr : BitVec 512
  params : List (BitVec 512)
  perr : Bool
  deriving DecidableEq, Repr

/-- What the pins and the flash give at POR_N deassertion (22_package_pins_electrical.md R732 to R736). -/
structure PowerIn where
  straps : BitVec 3
  fwOk : Bool
  chainOk : Bool
  recordsOk : Bool
  deriving DecidableEq, Repr

/-- A loss of power (22_package_pins_electrical.md R743, R744): 0 POR_N, 1 a core or SRAM rail, 2 VAUX, 3 REFCLK; and
whether both core rails have been below 0.3 V. -/
structure LossIn where
  cause : Fin 4
  low : Bool
  deriving DecidableEq, Repr

/-- A Vangaer message (17_security_and_leasing.md R604): the session it came in, the bytes its signature covers, and the
signature. -/
structure VangaerIn where
  session : Nat
  body : List (BitVec 8)
  sig : BitVec 768
  deriving DecidableEq, Repr

/-- What a channel's MEM_TEST found (12_memory_system.md R416): failing lanes, failing lane-bursts and the offset of the
first failing line. -/
structure TestIn where
  lanes : BitVec 82
  errors : Nat
  firstOff : Nat
  deriving DecidableEq, Repr

end Sys2Proof
end

