-- ==== Sys2Proof/Syntax.lean ====
section
/-! DEFINITION. The commands and events of the device: one constructor per row of spec/opcode_table.json, in its order.
Core instructions carry the core and the fields of the instruction word (08_core_programming.md R246); commands of the
opcode table of 14_command_interface.md R490 carry the identifier the device gave the command when it fetched it. -/

namespace Sys2Proof

/-- The rows of the table of operations and events. -/
inductive Instr where
  /-- MGMT_SET_LIMITS (R654). -/
  | mgmtSetLimits (id : Nat)
  /-- MGMT_SET_PROFILE (R653). -/
  | mgmtSetProfile (id : Nat)
  /-- MGMT_OUT_OF_SERVICE_TAKE (R490). -/
  | mgmtOutOfServiceTake (id : Nat)
  /-- MGMT_OUT_OF_SERVICE_RESTORE (R644). -/
  | mgmtOutOfServiceRestore (id : Nat)
  /-- MGMT_RESET (R633). -/
  | mgmtReset (id : Nat)
  /-- MGMT_SET_IDENTITY (R522). -/
  | mgmtSetIdentity (id : Nat)
  /-- MGMT_FIRMWARE (R614). -/
  | mgmtFirmware (id : Nat)
  /-- QP_CREATE (R458). -/
  | qpCreate (id : Nat)
  /-- QP_DELETE (R458). -/
  | qpDelete (id : Nat)
  /-- MEM_TEST (R414). -/
  | memTest (id : Nat)
  /-- LEASE_OPEN (R602). -/
  | leaseOpen (id : Nat)
  /-- LEASE_CLOSE (R608). -/
  | leaseClose (id : Nat)
  /-- MEM_MAP (R446). -/
  | memMap (id : Nat)
  /-- DMA_COPY (R495). -/
  | dmaCopy (id : Nat)
  /-- FLAG_SET (R496). -/
  | flagSet (id : Nat)
  /-- FLAG_ADD (R496). -/
  | flagAdd (id : Nat)
  /-- FLAG_WAIT (R496). -/
  | flagWait (id : Nat)
  /-- KERNEL_LAUNCH (R494). -/
  | kernelLaunch (id : Nat)
  /-- GRAPH_RUN (R499). -/
  | graphRun (id : Nat)
  /-- SEQ_CONFIG (R354). -/
  | seqConfig (id : Nat)
  /-- SEQ_CREATE (R381). -/
  | seqCreate (id : Nat)
  /-- SEQ_DESTROY (R357). -/
  | seqDestroy (id : Nat)
  /-- SEQ_PREFILL (R380). -/
  | seqPrefill (id : Nat)
  /-- SEQ_STEP (R365). -/
  | seqStep (id : Nat) (d : HostData)
  /-- SEQ_DRAFT (R385). -/
  | seqDraft (id : Nat)
  /-- SEQ_COMMIT (R389). -/
  | seqCommit (id : Nat)
  /-- SEQ_RETRACT (R390). -/
  | seqRetract (id : Nat)
  /-- SEQ_SUSPEND (R357). -/
  | seqSuspend (id : Nat)
  /-- SEQ_RESUME (R393). -/
  | seqResume (id : Nat)
  /-- SEQ_EVICT (R357). -/
  | seqEvict (id : Nat)
  /-- PREFIX_PUBLISH (R382). -/
  | prefixPublish (id : Nat)
  /-- FAB_ROUTE_SET (R527). -/
  | fabRouteSet (id : Nat)
  /-- FAB_COLLECTIVE (R545). -/
  | fabCollective (id : Nat)
  /-- COLLECTIVE_ARM (R549). -/
  | collectiveArm (id : Nat)
  /-- COLLECTIVE_DISARM (R549). -/
  | collectiveDisarm (id : Nat)
  /-- PORT_ENABLE (R519). -/
  | portEnable (id : Nat)
  /-- PORT_DISABLE (R519). -/
  | portDisable (id : Nat)
  /-- PORT_RETRAIN (R519). -/
  | portRetrain (id : Nat)
  /-- PORT_LOOPBACK (R519). -/
  | portLoopback (id : Nat)
  /-- TELEM_READ (R672). -/
  | telemRead (id : Nat)
  /-- DUMP_COLLECT (R688). -/
  | dumpCollect (id : Nat)
  /-- STOP_GLOBAL_ARM (R692). -/
  | stopGlobalArm (id : Nat)
  /-- STOP_GLOBAL_FIRE (R693). -/
  | stopGlobalFire (id : Nat)
  /-- STOP_GLOBAL_DISARM (R692). -/
  | stopGlobalDisarm (id : Nat)
  /-- TRACE_CTL (R674). -/
  | traceCtl (id : Nat)
  /-- AUDIT_READ (R623). -/
  | auditRead (id : Nat)
  /-- GROUP_DEFINE (R24). -/
  | groupDefine (id : Nat)
  /-- GROUP_DISSOLVE (R504). -/
  | groupDissolve (id : Nat)
  /-- PERMISSION_REFUSAL_REPLY (R485). -/
  | permissionRefusalReply (id : Nat)
  /-- COMPLETION_WRITE (R466). -/
  | completionWrite (id : Nat)
  /-- COMMAND_TIMEOUT (R636). -/
  | commandTimeout (id : Nat)
  /-- HANG_DRAIN_END (R637). -/
  | hangDrainEnd (root : PUnit)
  /-- RESET_END (R631). -/
  | resetEnd (root : PUnit)
  /-- RESET_FAULT_ESCALATE (R635). -/
  | resetFaultEscalate (root : PUnit)
  /-- UNIT_READY (R630). -/
  | unitReady (u : PUnit)
  /-- REMOTE_COMMAND (R474). -/
  | remoteCommand (m : RemoteIn)
  /-- MEMBER_STATE_MESSAGE (R32). -/
  | memberStateMessage (fuid state stamp epoch : Nat)
  /-- ATOMIC_PREPARE (R508). -/
  | atomicPrepare (m : RemoteIn)
  /-- ATOMIC_DECISION (R511). -/
  | atomicDecision (lead key : Nat) (decision : Option Bool) (hits : Nat)
  /-- ATOMIC_IN_DOUBT (R512). -/
  | atomicInDoubt (lead key : Nat)
  /-- ATOMIC_DECISION_QUERY (R512). -/
  | atomicDecisionQuery (lead key : Nat)
  /-- ADD (R249). -/
  | add (c : Fin 192) (w : CoreWord)
  /-- SUB (R249). -/
  | sub (c : Fin 192) (w : CoreWord)
  /-- MUL (R249). -/
  | mul (c : Fin 192) (w : CoreWord)
  /-- MULHU (R249). -/
  | mulhu (c : Fin 192) (w : CoreWord)
  /-- AND (R249). -/
  | and (c : Fin 192) (w : CoreWord)
  /-- OR (R249). -/
  | or (c : Fin 192) (w : CoreWord)
  /-- XOR (R249). -/
  | xor (c : Fin 192) (w : CoreWord)
  /-- SHL (R249). -/
  | shl (c : Fin 192) (w : CoreWord)
  /-- SHR (R249). -/
  | shr (c : Fin 192) (w : CoreWord)
  /-- SRA (R249). -/
  | sra (c : Fin 192) (w : CoreWord)
  /-- CMP (R249). -/
  | cmp (c : Fin 192) (w : CoreWord)
  /-- PLOG (R249). -/
  | plog (c : Fin 192) (w : CoreWord)
  /-- LD (R254). -/
  | ld (c : Fin 192) (w : CoreWord)
  /-- ST (R254). -/
  | st (c : Fin 192) (w : CoreWord)
  /-- BR (R249). -/
  | br (c : Fin 192) (w : CoreWord)
  /-- BRL (R249). -/
  | brl (c : Fin 192) (w : CoreWord)
  /-- JR (R249). -/
  | jr (c : Fin 192) (w : CoreWord)
  /-- HALT (R245). -/
  | halt (c : Fin 192) (w : CoreWord)
  /-- FENCE (R272). -/
  | fence (c : Fin 192) (w : CoreWord)
  /-- FLSET (R273). -/
  | flset (c : Fin 192) (w : CoreWord)
  /-- FLWAIT (R274). -/
  | flwait (c : Fin 192) (w : CoreWord)
  /-- FLWAIT_TIMEOUT (R274). -/
  | flwaitTimeout (c : Fin 192) (w : CoreWord)
  /-- FLADD (R273). -/
  | fladd (c : Fin 192) (w : CoreWord)
  /-- CSR_READ (R255). -/
  | csrRead (c : Fin 192) (w : CoreWord)
  /-- CSR_WRITE (R255). -/
  | csrWrite (c : Fin 192) (w : CoreWord)
  /-- CSR_SET (R255). -/
  | csrSet (c : Fin 192) (w : CoreWord)
  /-- CSR_CLEAR (R255). -/
  | csrClear (c : Fin 192) (w : CoreWord)
  /-- FADD (R252). -/
  | fadd (c : Fin 192) (w : CoreWord)
  /-- FSUB (R252). -/
  | fsub (c : Fin 192) (w : CoreWord)
  /-- FMUL (R252). -/
  | fmul (c : Fin 192) (w : CoreWord)
  /-- FFMA (R252). -/
  | ffma (c : Fin 192) (w : CoreWord)
  /-- FDIV (R105). -/
  | fdiv (c : Fin 192) (w : CoreWord)
  /-- FSQRT (R105). -/
  | fsqrt (c : Fin 192) (w : CoreWord)
  /-- FMINMAX (R252). -/
  | fminmax (c : Fin 192) (w : CoreWord)
  /-- FCMP (R250). -/
  | fcmp (c : Fin 192) (w : CoreWord)
  /-- FCVT (R253). -/
  | fcvt (c : Fin 192) (w : CoreWord)
  /-- MMA (R146). -/
  | mma (c : Fin 192) (w : CoreWord)
  /-- CHAIN (R225). -/
  | chain (c : Fin 192) (w : CoreWord)
  /-- QUANT (R261). -/
  | quant (c : Fin 192) (w : CoreWord)
  /-- ACCLD (R262). -/
  | accld (c : Fin 192) (w : CoreWord)
  /-- VLD (R254). -/
  | vld (c : Fin 192) (w : CoreWord)
  /-- VST (R254). -/
  | vst (c : Fin 192) (w : CoreWord)
  /-- VACC (R270). -/
  | vacc (c : Fin 192) (w : CoreWord)
  /-- VADD (R252). -/
  | vadd (c : Fin 192) (w : CoreWord)
  /-- VSUB (R252). -/
  | vsub (c : Fin 192) (w : CoreWord)
  /-- VMUL (R252). -/
  | vmul (c : Fin 192) (w : CoreWord)
  /-- VFMA (R252). -/
  | vfma (c : Fin 192) (w : CoreWord)
  /-- VDIV (R252). -/
  | vdiv (c : Fin 192) (w : CoreWord)
  /-- VSQRT (R252). -/
  | vsqrt (c : Fin 192) (w : CoreWord)
  /-- VMINMAX (R252). -/
  | vminmax (c : Fin 192) (w : CoreWord)
  /-- VCMP (R250). -/
  | vcmp (c : Fin 192) (w : CoreWord)
  /-- VSEL (R249). -/
  | vsel (c : Fin 192) (w : CoreWord)
  /-- VCVT (R265). -/
  | vcvt (c : Fin 192) (w : CoreWord)
  /-- VDQ (R266). -/
  | vdq (c : Fin 192) (w : CoreWord)
  /-- VFN (R268). -/
  | vfn (c : Fin 192) (w : CoreWord)
  /-- VRED (R267). -/
  | vred (c : Fin 192) (w : CoreWord)
  /-- VQUANT (R263). -/
  | vquant (c : Fin 192) (w : CoreWord)
  /-- DMA (R279). -/
  | dma (c : Fin 192) (w : CoreWord)
  /-- WAITD (R283). -/
  | waitd (c : Fin 192) (w : CoreWord)
  /-- DMA_ENTRY_SUBMIT (R281). -/
  | dmaEntrySubmit (c : Fin 192) (seq : Nat)
  /-- DMA_ENTRY_COMPLETE (R298). -/
  | dmaEntryComplete (c : Fin 192) (seq : Nat) (d : HostData)
  /-- ATS_TRANSLATION_COMPLETION (R434). -/
  | atsTranslationCompletion (c : Fin 192) (seq : Nat) (t : TransIn)
  /-- PRG_RESPONSE (R435). -/
  | prgResponse (c : Fin 192) (seq : Nat) (code : Nat)
  /-- PRI_WAIT_EXPIRY (R435). -/
  | priWaitExpiry (c : Fin 192) (seq : Nat)
  /-- ATS_INVALIDATE_REQUEST (R437). -/
  | atsInvalidateRequest (itag : Nat) (pasid : Option Nat) (page npages : Nat)
  /-- INVALIDATE_COMPLETION (R441). -/
  | invalidateCompletion (itag : Nat)
  /-- INVALIDATE_READ_EXPIRY (R441). -/
  | invalidateReadExpiry (itag : Nat)
  /-- FABRIC_HOLD_EXPIRY (R526). -/
  | fabricHoldExpiry
  /-- GUARD_VERDICT (R196). -/
  | guardVerdict (c : Fin 192)
  /-- REPLAY_END (R210). -/
  | replayEnd (c : Fin 192)
  /-- FETCH (R332). -/
  | fetch (k : Fin 24) (r : Fin 8)
  /-- APPEND (R337). -/
  | append (k : Fin 24) (r : Fin 8)
  /-- STAGE (R339). -/
  | stage (k : Fin 24) (r : Fin 8)
  /-- XPOSE (R332). -/
  | xpose (k : Fin 24) (r : Fin 8)
  /-- MERGE (R348). -/
  | merge (k : Fin 24) (r : Fin 8)
  /-- STEPGRAPH_COMPLETE (R360). -/
  | stepgraphComplete
  /-- PLAN_RECEIVE (R372). -/
  | planReceive (lead dst : Nat) (plan : List Nat)
  /-- RUN_AHEAD_PREFETCH (R391). -/
  | runAheadPrefetch
  /-- CANARY_SAMPLE (R53). -/
  | canarySample (m : SampleIn)
  /-- PACE_PUBLISH (R55). -/
  | pacePublish
  /-- THERMAL_TRIP (R664). -/
  | thermalTrip (d : Fin 2) (sensor : Nat)
  /-- TB_SYNC_PULSE (R66). -/
  | tbSyncPulse
  /-- TIME_EXCHANGE (R69): the time of the root that the exchange goes back to (R523). -/
  | timeExchange (src : BitVec 2) (port : Fin 32) (offset : ExchIn)
  /-- ALIGN_TIMEOUT (R71). -/
  | alignTimeout
  /-- TIME_ROOT_PROBE (R68). -/
  | timeRootProbe
  /-- TIME_ROOT_PROBE_EXPIRY (R68). -/
  | timeRootProbeExpiry
  /-- FRAME_READ (R453). -/
  | frameRead (f : FrameIn)
  /-- FRAME_WRITE (R453). -/
  | frameWrite (f : FrameIn)
  /-- FRAME_FLAG_ADD (R453). -/
  | frameFlagAdd (f : FrameIn)
  /-- FRAME_READ_DATA (R524). -/
  | frameReadData (f : FrameIn)
  /-- FRAME_ACK (R302). -/
  | frameAck (f : FrameIn)
  /-- FRAME_NACK (R638). -/
  | frameNack (f : FrameIn)
  /-- FRAME_COLL (R547). -/
  | frameColl (f : FrameIn)
  /-- FRAME_MGMT (R536). -/
  | frameMgmt (f : FrameIn)
  /-- FRAME_TIME (R67). -/
  | frameTime (f : FrameIn)
  /-- FRAME_DIGEST (R554). -/
  | frameDigest (f : FrameIn)
  /-- FRAME_KEYX (R537). -/
  | frameKeyx (f : FrameIn)
  /-- DIGEST_MISSING_TIMEOUT (R554). -/
  | digestMissingTimeout (qpn seqno : Nat)
  /-- REKEY_TRIGGER (R539). -/
  | rekeyTrigger (peer : Nat)
  /-- REKEY_TIMEOUT (R540). -/
  | rekeyTimeout (peer : Nat)
  /-- FRAME_COUNTER_LIMIT (R541). -/
  | frameCounterLimit (peer : Nat)
  /-- COLLECTIVE_TRIGGER (R549). -/
  | collectiveTrigger (slot : Fin 64)
  /-- COLLECTIVE_INSTANCE_END (R550). -/
  | collectiveInstanceEnd (collid inst : Nat)
  /-- PORT_TRAINED (R516). -/
  | portTrained (p : Fin 32) (full : Bool)
  /-- PORT_LINK_LOSS (R524). -/
  | portLinkLoss (p : Fin 32)
  /-- PORT_RETRAIN_TIMER (R516). -/
  | portRetrainTimer (p : Fin 32)
  /-- SB_MARK_ORIGINATE (R559). -/
  | sbMarkOriginate
  /-- SB_MARK (R559). -/
  | sbMark (f : SbIn)
  /-- SB_STOP (R560). -/
  | sbStop (f : SbIn)
  /-- SB_MGMT (R561). -/
  | sbMgmt (f : SbIn)
  /-- SB_REPLY (R558). -/
  | sbReply (f : SbIn)
  /-- SB_BYPASS_ASSERT (R562). -/
  | sbBypassAssert
  /-- SB_BYPASS_OPEN (R562). -/
  | sbBypassOpen
  /-- FAULT_REPORT (R680). -/
  | faultReport (r : ReportIn)
  /-- FAULT_WINDOW_END (R684). -/
  | faultWindowEnd (d : Fin 2)
  /-- SCRUB_READ (R420). -/
  | scrubRead (addr : Nat) (e : EccIn)
  /-- CHANNEL_LOST (R413). -/
  | channelLost (n : Fin 256)
  /-- BRIDGE_FAULT (R404). -/
  | bridgeFault
  /-- HBM_CHANNEL_TRAINED (R410). -/
  | hbmChannelTrained (n : Fin 256) (rec : BitVec 64)
  /-- DOMAIN_DOZE (R648). -/
  | domainDoze (n : Fin 256)
  /-- DOMAIN_WAKE (R650). -/
  | domainWake (n : Fin 256)
  /-- DOMAIN_WAKE_COMPLETE (R650). -/
  | domainWakeComplete (n : Fin 256)
  /-- LEASE_CLOSE_DRAIN_END (R608). -/
  | leaseCloseDrainEnd
  /-- HBM_CLEAR_END (R426). -/
  | hbmClearEnd
  /-- HBM_VERIFY_END (R427). -/
  | hbmVerifyEnd (repairs : List (Nat × Nat)) (bad : List Nat)
  /-- FABRIC_SECRET (R605). -/
  | fabricSecret (m : VangaerIn)
  /-- MIRROR_SECRET (R605). -/
  | mirrorSecret (m : VangaerIn)
  /-- INSTALL_KEY (R605). -/
  | installKey (m : VangaerIn)
  /-- PLAIN_SECRET (R605). -/
  | plainSecret (m : VangaerIn)
  /-- VANGAER_REPLY (R605). -/
  | vangaerReply
  /-- GET_CERTIFICATE (R614). -/
  | getCertificate (session : Nat)
  /-- GET_MEASUREMENTS (R614). -/
  | getMeasurements (session : Nat) (index : MeasureIn)
  /-- K_SET_GO (R580). -/
  | kSetGo (session stream key : Nat)
  /-- LOCK_INTERFACE (R582). -/
  | lockInterface (session stream : Nat)
  /-- START_INTERFACE (R571). -/
  | startInterface (session : Nat) (nonce : Nat)
  /-- STOP_INTERFACE (R583). -/
  | stopInterface (session : Nat)
  /-- TDI_ERROR (R581). -/
  | tdiError (cause : TdiErrorIn)
  /-- FUNCTION_LEVEL_RESET (R587). -/
  | functionLevelReset
  /-- HOT_RESET (R587). -/
  | hotReset
  /-- LINK_DOWN (R587). -/
  | linkDown (rate width : Nat)
  /-- D3HOT_TO_D0 (R587). -/
  | d3hotToD0
  /-- PERST_N_ASSERT (R587). -/
  | perstNAssert
  /-- PERST_N_DEASSERT (R567). -/
  | perstNDeassert (rate width : Nat)
  /-- BAR2_READ (R575). -/
  | bar2Read (t : TlpIn)
  /-- BAR2_WRITE (R574). -/
  | bar2Write (t : TlpIn)
  /-- TLP_REFUSED (R572). -/
  | tlpRefused (t : TlpIn)
  /-- REGISTER_WRITE (R698). -/
  | registerWrite (t : TlpIn)
  /-- SQ_TAIL_DOORBELL (R459). -/
  | sqTailDoorbell (t : TlpIn) (fetched : List FetchIn)
  /-- CQ_HEAD_DOORBELL (R717). -/
  | cqHeadDoorbell (t : TlpIn)
  /-- EVENT_RING_HEAD_DOORBELL (R717). -/
  | eventRingHeadDoorbell (t : TlpIn)
  /-- MQ_ENABLE (R712). -/
  | mqEnable (t : TlpIn)
  /-- MQ_DISABLE (R713). -/
  | mqDisable (t : TlpIn)
  /-- EVENT_RING_ENABLE (R715). -/
  | eventRingEnable (t : TlpIn)
  /-- EVENT_RING_DISABLE (R715). -/
  | eventRingDisable (t : TlpIn)
  /-- BOOTSTRAP_GO (R724). -/
  | bootstrapGo (t : TlpIn)
  /-- MSIX_UNMASK (R577). -/
  | msixUnmask (t : TlpIn)
  /-- POR_N_DEASSERT (R625). -/
  | porNDeassert (p : PowerIn)
  /-- POWER_LOSS (R743). -/
  | powerLoss (l : LossIn)
  /-- STOP_ARM_EXPIRY (R692). -/
  | stopArmExpiry
  /-- AUDIT_CHECKPOINT (R621). -/
  | auditCheckpoint
  /-- PORT_SIGNAL_DETECTED (R516). -/
  | portSignalDetected (p : Fin 32)
  /-- LINK_RETRANSMIT (R514). -/
  | linkRetransmit (p : Fin 32) (index : Nat)
  /-- VC_CREDIT_RETURN (R525). -/
  | vcCreditReturn (p : Fin 32) (vc : Fin 4) (n : Nat)
  /-- INJECTION_TOKEN_REFILL (R531). -/
  | injectionTokenRefill
  /-- KEY_EXCHANGE (R579). -/
  | keyExchange (session : Nat)
  /-- KEY_PROG (R580). -/
  | keyProg (session stream : Nat) (keySet : StreamKeyIn)
  /-- MEM_TEST_END (R417). -/
  | memTestEnd (n : Fin 256) (r : TestIn)
  /-- HARDWARE_SCRUB_END (R608). -/
  | hardwareScrubEnd
  /-- ASKOC_SCRUB_END (R608). -/
  | askocScrubEnd
  /-- I3C_COMMAND (R590). -/
  | i3cCommand (blocks : List (BitVec 512))
  /-- GETSTATUS (R736). -/
  | getstatus
  /-- REGISTER_SNAPSHOT_READ (R699). -/
  | registerSnapshotRead (t : TlpIn)
  deriving DecidableEq, Repr

end Sys2Proof
end

