-- ==== Sys2Proof/Decode.lean ====
section
/-! DEFINITION. The block has no decoder of its own commands: the table of operations gives no row any bits, so a word
spells none. (Core instruction words are read at a core's program counter: Machine/Issue.lean, Machine/CoreDecode.lean.) -/

namespace Sys2Proof

/-- The command a word spells by the table's bits: none, since spec/opcode_table.json gives no row any bits. -/
def decodeTableWord (_nbits _w : Nat) : Option Instr := none

end Sys2Proof
end

