-- ==== Sys2Proof/Config.lean ====
section
/-! DEFINITION. What the manual leaves open, as constants without a body: nothing can be proved of their values. Each
is named in the assumption log. -/

namespace Sys2Proof.Config

/-- Free values, by the number of the draw (State.free). -/
opaque free : Nat → Nat

/-- Whether an access of the device to host memory completes in error: instant, PASID of the address space, address and length
(R471, R713, R715). -/
opaque hostError : Nat → Option Nat → Nat → Nat → Bool

/-- Random draws of Vangaer: keys, identifiers, nonces (R602, R603), by the number of the draw. -/
opaque random : Nat → Nat

/-- The word or line that an error befalls at an instant, and the error: 0 none, 1 one that cannot be corrected, 2 + lane one that
can (R396, R406). -/
opaque upset : Nat → Nat × Nat

/-- ns before the end of the scrub period at which the scrubber must have a stack out of self-refresh (R418, R651). -/
opaque scrubLead : Nat

/-- A byte of an HBM line read under another key than the one it was written under (R408): key generation of the line,
generation in force, device address, and the line's bytes. -/
opaque foreignByte : Nat → Nat → Nat → List Byte → Byte

/-- SHA-384 of a message (17_security_and_leasing.md). -/
opaque sha384 : List Byte → BitVec 384

/-- Whether an ECDSA P-384 signature verifies: public key, digest, signature. -/
opaque ecdsaOk : BitVec 768 → BitVec 384 → BitVec 768 → Bool

/-- An ECDSA P-384 signature of the device attestation key, by digest and draw. -/
opaque deviceSign : BitVec 384 → Nat → BitVec 768

/-- 64-byte blocks that a firmware image takes, by its first block: the manual does not give the image's format (R591, R614). -/
opaque imageBlocks : Nat → Nat

/-- The P-384 public key of an ephemeral private key, by its draw (R579, R602). -/
opaque ephemeralPub : Nat → BitVec 768

/-- The shared secret of ECDH over P-384: the draw of the private key, and the public key of the other side (R602). -/
opaque ecdh : Nat → BitVec 768 → BitVec 384

/-- The hash of an SPDM transcript: the session, and the bytes of the message under way; which messages before it are covered the SPDM
specification says (R579, R614). -/
opaque spdmHash : Nat → List Byte → BitVec 384

/-- The value type that the DMTF form gives a measurement block, by its index: the manual states that of the boot ROM alone (R614). -/
opaque measureType : Nat → Nat

/-- The digest of the boot ROM, which nothing changes (R614). -/
opaque bootRom : BitVec 384

/-- AES-256 counter-mode key stream for an audit entry's PRIV: K_A and SEQ (R620). -/
opaque auditStream : Nat → Nat → BitVec 448

/-- AES-256-GCM of a dump: K_D, dump number, header and body give the sealed body (R624). -/
opaque dumpSeal : Nat → Nat → List Byte → List Byte → List Byte

/-- The 16-byte tag of a sealed dump (R624). -/
opaque dumpTag : Nat → Nat → List Byte → List Byte → List Byte

/-- What a section of a captured dump holds where the manual gives it no layout: the capture's number, the section's type and its unit's
UID (R645, R689). -/
opaque dumpPart : Nat → Nat → Nat → List Byte

/-- AES-256-GCM: key, nonce, additional data and plain bytes give the cipher bytes and the 16-byte tag (R534, R535). -/
opaque gcmSeal : BitVec 256 → BitVec 96 → List (BitVec 8) → List (BitVec 8) → List (BitVec 8) × BitVec 128

/-- Payload words of a frame as bytes, by FPA and body: the manual gives the bodies no layout (R534). -/
opaque framePayload : Nat → FrameBody → List (BitVec 8)

/-- The 32-bit salt of the plain management key, by the device that sends: the manual does not state it (R535). -/
opaque mgmtSalt : Nat → BitVec 32

/-- The maker key in boot ROM (R592). -/
opaque makerKey : BitVec 768

/-- Digests of the firmware in force by image: index 2 to 5 (R614). -/
opaque measurement : Nat → BitVec 384 → BitVec 384

/-- The certificate chain of slot 0 (R614). -/
opaque certChain : List Byte

/-- Whether a firmware image bears the maker's signature, and its security version (R614). -/
opaque firmwareOk : List Byte → Bool
opaque firmwareVersion : List Byte → Nat

/-- mV by which VCORE falls and rises from one canary sample to the next (R59, R657), by the instant of the sample. -/
opaque vcoreFall : Nat → Nat
opaque vcoreRise : Nat → Nat

/-- The hold margin in mV before it is limited to 20 (R58), by the instant of the sample. -/
opaque holdMargin : Nat → Nat

/-- The rate steering that an offset calls for, before it is limited to 500 ppm (R69, R71). -/
opaque steer : Int → Int

/-- The forwarding delay of a device's sideband port in ns, about 40 (R558, R559). -/
opaque sbDelay : Nat

/-- The payload of ATOMIC_IN_DOUBT (0) and of ATOMIC_RESOLVED by outcome, 1 abort, 2 commit, 3 UNKNOWN: no layout is given
(R512). -/
opaque atomicPayload : Nat → Nat

/-- Payload of a sequence engine event, by type and what it is about: the manual gives CTX_FULL, CTX_DAMAGED, DEADLINE_MISS and
KV_FRAME_RETIRED no layout (R487). -/
opaque seqPayload : Nat → Nat → Nat → Nat

/-- Payload of a LANE_DEGRADED event by channel and lane: the manual gives it no layout (R412). -/
opaque lanePayload : Nat → Nat → Nat

/-- VFN and ACT functions within their error bounds (08_core_programming.md R268; 07_fused_chains.md): function code and
FP32 operand. -/
opaque vfn : Nat → BitVec 32 → BitVec 32

/-- exp2 of the exact difference of two FP32 values within its error bound (07_fused_chains.md R232, R235). -/
opaque exp2Diff : BitVec 32 → BitVec 32 → BitVec 32

end Sys2Proof.Config
end

