-- ==== Sys2Proof/Machine/Bits.lean ====
section
/-! DEFINITION. Bit fields, sign extension and byte order: the helpers every layout of the manual is read with
(00_scope.md, R7: bit 0 is least significant, byte 0 holds bits [7:0]). -/

namespace Sys2Proof.Machine

/-- Bits `[hi:lo]` of a natural number, as the manual writes a bit range (R7). -/
def bits (x hi lo : Nat) : Nat := (x >>> lo) % 2 ^ (hi + 1 - lo)

/-- Bit `[n]` of a natural number. -/
def bit (x n : Nat) : Bool := x.testBit n

/-- A Boolean as a bit. -/
def b2n (b : Bool) : Nat := if b then 1 else 0

/-- The `i`-th byte of a number laid out little-endian. -/
def byteOf (x i : Nat) : Byte := BitVec.ofNat 8 (x >>> (8 * i))

/-- The first `n` bytes of a number, lowest address first. -/
def leBytes (n x : Nat) : List Byte := (List.range n).map (byteOf x)

/-- The number that a run of bytes holds, little-endian. -/
def fromLe : List Byte → Nat
  | [] => 0
  | b :: bs => b.toNat + 256 * fromLe bs

/-- The low `n` bits of `x` read as two's complement. -/
def sext (n x : Nat) : Int :=
  let y := x % 2 ^ n
  if y < 2 ^ (n - 1) then (y : Int) else (y : Int) - (2 ^ n : Nat)

/-- An integer wrapped into `n` bits. -/
def wrapInt (n : Nat) (x : Int) : Nat := (x % ((2 ^ n : Nat) : Int)).toNat

/-- `⌈a / b⌉`. -/
def ceilDiv (a b : Nat) : Nat := if b = 0 then 0 else (a + b - 1) / b

/-- The bit width of a number: 0 for 0. -/
def bitLen (x : Nat) : Nat := if x = 0 then 0 else x.log2 + 1

/-- Element `i` of a bit string of `w`-bit elements, the string given as a number (R79). -/
def elemAt (w s i : Nat) : Nat := (s >>> (w * i)) % 2 ^ w

/-- The bit string of `w`-bit elements, element 0 lowest (R79). -/
def packElems (w : Nat) : List Nat → Nat
  | [] => 0
  | x :: xs => x % 2 ^ w + 2 ^ w * packElems w xs

end Sys2Proof.Machine
end

