-- ==== Sys2Proof/Machine/Smap.lean ====
section
/-! DEFINITION. Sparse tables in one canonical form: a list of key and value pairs with keys strictly rising and no
entry equal to what an unlisted key reads as. Memory (12_memory_system.md R398) and every large table of the part
are held so, and equal tables are equal data. -/

namespace Sys2Proof.Machine

/-- A sparse table: pairs of a key and a value. -/
abbrev Smap (α : Type) := List (Nat × α)

/-- What a key reads as: its entry, or `d` where it has none. -/
def smapGet {α : Type} (d : α) (m : Smap α) (k : Nat) : α :=
  match m with
  | [] => d
  | (j, v) :: m => if j = k then v else smapGet d m k

/-- The table with a key's entry taken out. -/
def smapDel {α : Type} (m : Smap α) (k : Nat) : Smap α :=
  match m with
  | [] => []
  | (j, v) :: m => if j = k then m else (j, v) :: smapDel m k

/-- The table with an entry put in its place, replacing the one the key had. -/
def smapIns {α : Type} (m : Smap α) (k : Nat) (v : α) : Smap α :=
  match m with
  | [] => [(k, v)]
  | (j, w) :: m =>
    if k < j then (k, v) :: (j, w) :: m
    else if j = k then (k, v) :: m
    else (j, w) :: smapIns m k v

/-- Writes a key; writing the default takes the entry out, so the form stays canonical. -/
def smapSet {α : Type} [DecidableEq α] (d : α) (m : Smap α) (k : Nat) (v : α) : Smap α :=
  if v = d then smapDel m k else smapIns m k v

/-- Writes a run of consecutive keys. -/
def smapSetRun {α : Type} [DecidableEq α] (d : α) (m : Smap α) (k : Nat) (vs : List α) : Smap α :=
  match vs with
  | [] => m
  | v :: vs => smapSetRun d (smapSet d m k v) (k + 1) vs

/-- Whether keys rise strictly, each above `lo`, and no entry is the default. -/
def smapWfFrom {α : Type} [DecidableEq α] (d : α) (lo : Nat) (m : Smap α) : Bool :=
  match m with
  | [] => true
  | (j, v) :: m => decide (lo ≤ j) && decide (v ≠ d) && smapWfFrom d (j + 1) m

/-- The canonical form of a table. -/
def smapWf {α : Type} [DecidableEq α] (d : α) (m : Smap α) : Bool := smapWfFrom d 0 m

/-- Drops every entry whose key lies in `[lo, hi)`: the range reads as the default again. -/
def smapClear {α : Type} (m : Smap α) (lo hi : Nat) : Smap α := m.filter fun e => !(lo ≤ e.1 && e.1 < hi)

end Sys2Proof.Machine
end

