-- ==== Sys2Proof/Machine/StateCore.lean ====
section
/-! DEFINITION. The state of the cores, their DMA queues, their chains and the attention units: plain data
(06_guarded_narrow_arithmetic.md, 07_fused_chains.md, 08_core_programming.md, 10_attention_and_kv.md,
13_address_translation.md). Every field's docstring gives its width, the rule that names it and its reset value. -/

namespace Sys2Proof.Machine

/-- A byte range of the device address map: first byte and length. -/
structure Rng where
  lo : Nat
  len : Nat
  deriving DecidableEq, Repr

/-- A tile descriptor as read (R257). -/
structure TileDesc where
  base : Nat
  sbase : Nat
  rstride : Nat
  rows : Nat
  cols : Nat
  sstride : Nat
  fmt : Nat
  gsz : Nat
  rsv : Nat
  deriving DecidableEq, Repr

/-- A stage entry of a chain descriptor as read (R220). -/
structure StageEnt where
  kind : Nat
  ofmt : Nat
  ctrl : Nat
  rsv : Nat
  param : Nat
  addr0 : Nat
  addr1 : Nat
  addr2 : Nat
  aux : Nat
  deriving DecidableEq, Repr

/-- A mask descriptor with its codes, as read at the chain's issue (R342, R344). -/
structure MaskDesc where
  codes : Nat
  bmbase : Nat
  bmstride : Nat
  ncode : Nat
  nbm : Nat
  rows : Nat
  rsv : Nat
  codeList : List Nat
  deriving DecidableEq, Repr

/-- A wide-weight block as read at the chain's start (R209). -/
structure WideBlock where
  dma : BitVec 512
  tile : TileDesc
  wstride : Int
  rsv : Nat
  deriving DecidableEq, Repr

/-- A chain as the device holds it once read: the header, the stages and every descriptor they name (R217, R259). -/
structure ChainProg where
  version : Nat
  nstg : Nat
  npro : Nat
  shape : Nat
  asel : Nat
  accKeep : Bool
  pfmt : Nat
  nt : Nat
  nlast : Nat
  b1stride : Int
  dcol0 : Nat
  hdrRsv : Nat
  a1 : TileDesc
  b1 : TileDesc
  dst : Option TileDesc
  stages : List StageEnt
  tailZero : Bool
  tiles : List (Option TileDesc)
  fbTile : Option TileDesc
  mask : Option MaskDesc
  blocks : List WideBlock
  deriving DecidableEq, Repr

/-- The last LOAD of held rows (R141). -/
structure HeldRec where
  shape : Nat
  asel : Nat
  fmt : Nat
  gsz : Nat
  mh : Nat
  kh : Nat
  deriving DecidableEq, Repr

/-- How the run of one chain differs from its program: the fall-back conversion of a replay (R191, R239), the
rebinding of operand tiles in a continuation (R207), and wide weights (R209). -/
structure ChainMode where
  fallback : Bool
  rebind : Option (TileDesc × TileDesc)
  wide : Bool
  deriving DecidableEq, Repr

/-- A chain that has run and whose verdict or replay is open (R199, R200), with what a replay restores. -/
structure PendChain where
  prog : ChainProg
  /-- Mode the chain was last run in. -/
  mode : ChainMode
  /-- Whether it holds a GUARD stage; a continuation without one is pending on the chain before it. -/
  guarded : Bool
  /-- Local address of the guard record (R187). -/
  record : Nat
  /-- Ordinal among the core's guarded chains naming the record since the dispatch (R194). -/
  ordinal : Nat
  /-- Local address of the guarded conversion's tensor record. -/
  tensor : Nat
  /-- Ranges the chain wrote: provisional (R199). -/
  writes : List Rng
  /-- Ranges the chain reads: writes to them wait (R203). -/
  reads : List Rng
  /-- Accumulator tiles at the chain's start. -/
  accAt : Smap (BitVec 48)
  /-- Bytes of the in-out ranges at the chain's start: row states and tensor records. -/
  inoutAt : List (Nat × List (BitVec 8))
  /-- Order number at the chain's issue: DMA chains from it on follow the chain (R202). -/
  ord : Nat
  /-- Byte offset of the CHAIN instruction from the entry address. -/
  offset : Nat
  deriving DecidableEq, Repr

/-- Where a pending verdict stands. A replay keeps the guard record and the participants as the verdict read them (R189). -/
inductive VerdictPhase where
  | open
  | replaying (wide : Bool) (since record : Nat) (parts : List Nat)
  | replayed (record : Nat) (parts : List Nat)
  deriving DecidableEq, Repr

/-- An instruction in the queue of the matrix or the vector engine (R243): its word, its scalar operands as read at issue, and the
ranges it has entered in the range tracker (R286). -/
structure QInstr where
  opc : Nat
  word : CoreWord
  /-- x[RS1], x[RS2], x[RS3]. -/
  ra : BitVec 64
  rb : BitVec 64
  rc : BitVec 64
  /-- Byte offset of the instruction from the entry address. -/
  offset : Nat
  /-- Its place among the core's queued instructions and DMA chains. -/
  ord : Nat
  reads : List Rng
  writes : List Rng
  /-- It has met a poisoned word while it waited on a verdict, and has reported it (R425). -/
  met : Bool
  deriving DecidableEq, Repr

/-- A slot that holds one page's translation or a fabric resolution (R281, R433). -/
structure XSlot where
  page : Nat
  filled : Bool
  xpage : Nat
  canRead : Bool
  canWrite : Bool
  stale : Bool
  deriving DecidableEq, Repr

/-- Phase of a DMA queue entry (R280 to R283, R434 to R440). `held` waits for a usable port. -/
inductive DmaPhase where
  | waiting
  | submitted
  | priWait (since limit : Nat)
  | started
  | ended (status : Nat)
  deriving DecidableEq, Repr

/-- One DMA queue entry (R276, R280, R281). -/
structure DmaEnt where
  /-- Submission order on this engine. -/
  seq : Nat
  /-- Chain number on this engine; entries of one chain share it. -/
  chain : Nat
  /-- Command that owns the chain, `none` for the core's program. -/
  owner : Option Nat
  desc : BitVec 512
  /-- `j` of R433. -/
  part : Nat
  phase : DmaPhase
  slots : List XSlot
  /-- Whether a page request was already answered with Success (R435). -/
  retried : Bool
  /-- Fabric resolutions: source, destination, flag (R447). -/
  srcFpa : Option Nat
  dstFpa : Option Nat
  flagFpa : Option Nat
  /-- Translation Requests that have had no completion: the page of each, and the pages of its PASID invalidated since, each as first
  page and count (R434, R438). -/
  xreqs : List (Nat × List (Nat × Nat))
  /-- Pieces of its host source that have been read, and host reads outstanding after them (R440, R441, R566). -/
  hostAt : Nat
  hostOut : Nat
  /-- Fabric requests outstanding. -/
  fabOut : Nat
  /-- Read data arrived from the fabric so far, in request order of its offset. -/
  fabData : Smap (BitVec 8)
  /-- All its bytes are at their destination; its fence or its flag addition may still be due. -/
  moved : Bool
  /-- The flag addition over the fabric has been sent. -/
  flagSent : Bool
  startedAt : Nat
  deriving DecidableEq, Repr

/-- What a core is doing (R241, R245, R288). -/
inductive CorePhase where
  | idle
  | running
  | stopping (status : Nat)
  deriving DecidableEq, Repr

/-- Telemetry counters of one engine (20_debug_and_telemetry.md R666 to R668), in ns and events. -/
structure EngCount where
  since : Nat
  busy : Nat
  idle : Nat
  stalls : List Nat
  instrs : Nat
  invalid : Nat
  deriving DecidableEq, Repr

/-- One core (R241 to R245, and the matrix, vector, scalar and DMA engines it holds). -/
structure CoreSt where
  /-- Core phase; 08 R241; reset idle. -/
  phase : CorePhase
  /-- Command whose launch the core runs; 08 R241, 14 R492; reset 0 (unused while idle), DESIGN CHOICE. -/
  launch : Nat
  /-- Rank within the launch; 08 R241; reset 0. -/
  rank : Nat
  /-- Entry address of the launch; 14 R492; reset 0, DESIGN CHOICE. -/
  entry : BitVec 32
  /-- Program counter, 64 bits; 08 R241; reset 0, DESIGN CHOICE. -/
  pc : BitVec 64
  /-- x0 to x31, 32 x 64 bits; 08 register table; reset 0, DESIGN CHOICE (a launch sets them, R241). -/
  x : Vector (BitVec 64) 32
  /-- p0 to p7, one bit each; 08 register table; reset false but p0, DESIGN CHOICE (R241 sets them). -/
  p : Vector Bool 8
  /-- v0 to v31, 32 x 2048 bits; 08 register table; reset 0, DESIGN CHOICE (R241 sets them). -/
  v : Vector (BitVec 2048) 32
  /-- FCSR of the scalar engine, 32 bits; 03 R107; reset 0 (spec). -/
  fcsrS : BitVec 32
  /-- FCSR of the vector engine, 32 bits; 03 R107; reset 0 (spec). -/
  fcsrV : BitVec 32
  /-- Accumulator tiles acc0 to acc7, totals keyed tile*4096 + row*64 + column, 48 bits; 05 R158; reset +0 (R163). -/
  acc : Smap (BitVec 48)
  /-- Held rows: element bits [31:0] and scale byte [39:32], keyed array row*64 + k; 04 R141; reset +0 (R144). -/
  held : Smap (BitVec 40)
  /-- Record of the last LOAD; 04 R141; reset none (R130: no LOAD since reset). -/
  heldRec : Option HeldRec
  /-- Matrix queue, at most 8 instructions in program order; 08 R243; reset empty. -/
  matQ : List QInstr
  /-- Vector queue, at most 32 instructions in program order; 08 R243; reset empty. -/
  vecQ : List QInstr
  /-- DMA queue entries and those waiting for a slot, in submission order; 08 R280; reset empty. -/
  dma : List DmaEnt
  /-- Next submission number of the DMA engine; model's own; reset 0. -/
  dmaNext : Nat
  /-- Next order number of a queued instruction or DMA chain; model's own; reset 0. -/
  chainNext : Nat
  /-- DMA status records not yet discarded: submission number, tag, status; 08 R283; reset empty. -/
  dmaStat : List (Nat × Nat × Nat)
  /-- Entries that failed with fabric writes unacknowledged: submission order, and the order they belong to (FFENCE, R276, R298). -/
  unacked : List (Nat × Nat)
  /-- The chain whose verdict is open; 06 R200; reset none. -/
  pend : Option PendChain
  /-- Where that verdict stands; 06 R207; reset open. -/
  verdict : VerdictPhase
  /-- The continuation run early; 06 R200; reset none. -/
  cont : Option PendChain
  /-- Rebinding owed to the next matrix-engine instruction after a replay, if it is a CHAIN; 06 R207, R211; reset none. -/
  rebind : Option (TileDesc × TileDesc)
  /-- Guarded chains presented per guard record since the dispatch; 06 R194; reset empty. -/
  guardSeq : Smap Nat
  /-- The dispatch they count for: the command of the core's last launch, or the SEQ_STEP it was a part of; 06 R193; reset 0. -/
  dispatch : Nat
  /-- Counters of the matrix, vector, scalar and DMA engine; 20 R666; reset 0. -/
  counts : Vector EngCount 4
  /-- Stall reason each engine was last found in, 0 for none; 20 R668, R675; reset 0. -/
  stall : Vector Nat 4
  deriving DecidableEq, Repr

/-- Counters all zero. -/
def EngCount.zero : EngCount := ⟨0, 0, 0, List.replicate 9 0, 0, 0⟩

/-- A core after power-on: engines idle, FCSR, accumulators and held rows at their reset values (R107, R144, R163). -/
def CoreSt.init : CoreSt :=
  { phase := .idle, launch := 0, rank := 0, entry := 0, pc := 0,
    x := Vector.replicate 32 0, p := (Vector.replicate 8 false).set 0 true, v := Vector.replicate 32 0,
    fcsrS := 0, fcsrV := 0, acc := [], held := [], heldRec := none, matQ := [], vecQ := [],
    dma := [], dmaNext := 0, chainNext := 0, dmaStat := [], unacked := [],
    pend := none, verdict := .open, cont := none, rebind := none, guardSeq := [], dispatch := 0, counts := Vector.replicate 4 EngCount.zero,
    stall := Vector.replicate 4 0 }

/-- A look-aside buffer entry: context, layer, page index or sprout, and the copy of the PTE (R324). -/
structure LabEnt where
  ctx : Nat
  layer : Nat
  page : Option Nat
  pte : BitVec 64
  deriving DecidableEq, Repr

/-- A staging directory entry: slot, frame number, frame version (R339). -/
structure StageDir where
  slot : Nat
  frame : Nat
  version : Nat
  deriving DecidableEq, Repr

/-- One cluster: its attention unit and its trace buffer. -/
structure ClusterSt where
  /-- Look-aside buffer, at most 64 entries, most recently used first; 10 R324; reset empty (R338). -/
  lab : List LabEnt
  /-- Staging directory, most recently fetched first; 10 R339; reset empty (R338). -/
  staging : List StageDir
  /-- Pages fetched in the step in flight: context, layer, page; 11 R391; reset none. -/
  fetched : List (Nat × Nat × Nat)
  /-- Attention requests that a verdict held when it was given up: ring, number, status, and the ranges that were provisional
  (R754); reset none. -/
  attnHeld : List (Nat × Nat × Nat × List Rng)
  /-- Trace: enabled classes and level, 32 bits; 20 R674; reset 0. -/
  traceCtl : BitVec 32
  /-- Trace records, oldest first, at most 8192; 20 R675; reset empty. -/
  trace : List (BitVec 128)
  /-- Trace records lost or overwritten; 20 R676; reset 0. -/
  traceLost : Nat
  deriving DecidableEq, Repr

/-- A cluster after power-on or reset. -/
def ClusterSt.init : ClusterSt := { lab := [], staging := [], fetched := [], attnHeld := [], traceCtl := 0, trace := [], traceLost := 0 }

end Sys2Proof.Machine
end

