-- ==== Sys2Proof/Machine/StateDev.lean ====
section
/-! DEFINITION. The state of everything outside the cores: timebase, pace and power, units and groups, memory, ports
and fabric, sequence engine, translation, commands, host interface, leases and keys, audit, faults, dumps, stops and
the sideband. Plain data. Each field's docstring gives its rule and its reset value. -/

namespace Sys2Proof.Machine

/-- The timebase island (02_self_timed_operation.md R64 to R73). -/
structure TbSt where
  /-- 64-bit ns count; 02 R64; reset 0 at power-on (R67). -/
  count : BitVec 64
  /-- 32-bit fractional accumulator; 02 timebase; reset 0, DESIGN CHOICE. -/
  frac : BitVec 32
  /-- FREQADJ, signed 32 bits; 02 R73; reset 0. -/
  freqAdj : BitVec 32
  /-- Island locked and internally aligned; 02 R66; reset false. -/
  locked : Bool
  /-- ALIGNED; 02 R69; reset 0. -/
  aligned : Bool
  /-- SOURCE 0 to 3; 02 R73; reset 0. -/
  source : BitVec 2
  /-- TIMEPORT in use; 02 R73; reset 0. -/
  port : BitVec 5
  /-- OFFSET, last measured, signed ns; 02 R73; reset 0. -/
  offset : Int
  /-- Consecutive exchanges within 2 ns; 02 R69; reset 0. -/
  good : Nat
  /-- Time of the last valid exchange with source 1 or 2, or of the unaligned report; 02 R71; reset 0. -/
  lastValid : Nat
  /-- Whether a first time source has been taken since power-on; 02 R67; reset false. -/
  sourced : Bool
  /-- Whether the device has held ALIGNED since power-on; 02 R68; reset false. -/
  everAligned : Bool
  /-- Time root in designation; 02 R72; reset from the identity record. -/
  root : Bool
  /-- Root serving time; 02 R68; reset false. -/
  serving : Bool
  /-- Probe in progress: start, and how far ahead of this device the largest answer is, ns; 02 R68; reset none. -/
  probe : Option (Nat × Nat)
  /-- Device number of the root followed; 15 R523; reset none. -/
  rootSeen : Option Nat
  /-- Last synchronisation pulse; 02 R66; reset 0. -/
  lastSync : Nat
  deriving DecidableEq, Repr

/-- Pace, voltage and temperature of one die (02 R52 to R61, R751, R752; 19 R652 to R662). -/
structure DiePace where
  /-- Excluded canary lines, one bit each; 02 R53; reset 0. -/
  excluded : BitVec 64
  /-- Floor in force, M steps/s; 02 R54; reset 0 (no record yet). -/
  floor : Nat
  /-- Median implied pace, M steps/s; 02 R61; reset 0. -/
  pace : Nat
  /-- FALLBACK; 02 R61; reset 0. -/
  fallback : Bool
  /-- BREACH; 02 R61; reset 0. -/
  breach : Bool
  /-- Die form of the pace record, 64 bits; 02 R751; reset 0. -/
  record : BitVec 64
  /-- Profile 0 to 2; 19 R652; reset DEFPROF. -/
  profile : Nat
  /-- VCORE, mV; 22 R740; reset 700. -/
  vcore : Nat
  /-- Cap trim, mV; 19 R657; reset 0. -/
  trim : Nat
  /-- Thermal derating, mV; 19 R662; reset 0. -/
  derate : Nat
  /-- Derating acts; 19 R662; reset false. -/
  derating : Bool
  /-- Whether TJ_HIGH was reported in this excursion; 19 R662; reset false. -/
  tjHigh : Bool
  /-- Tj, degrees C; 19 R661; reset 0, DESIGN CHOICE. -/
  tj : Int
  /-- MGMT_SET_PROFILE whose change still runs; 19 R653; reset none. -/
  changing : Option Nat
  /-- The die waits for its first record after power-on or reset; 02 R752; reset true. -/
  awaiting : Bool
  /-- Die form of the pace record as the last completed window left it; 17 R599; reset 0. -/
  winRecord : BitVec 64
  deriving DecidableEq, Repr

/-- A sample not yet published (02 R55): instant, per die floor, pace, fallback and profile at the sample (R61), and whether the
die has begun a reset since, so that its record of R752 stands. -/
structure PaceSample where
  instant : Nat
  profile0 : Nat
  profile1 : Nat
  skip0 : Bool
  skip1 : Bool
  floor0 : Nat
  floor1 : Nat
  pace0 : Nat
  pace1 : Nat
  fb0 : Bool
  fb1 : Bool
  deriving DecidableEq, Repr

/-- Device-wide pace and power (02 R55 to R62, 19 R657, R665, 21 R709). -/
structure PaceSt where
  /-- Device form of the pace record; 02 R61; reset 0 (none published). -/
  record : BitVec 64
  /-- Whether any record was published since power-on; 02 R752; reset false. -/
  published : Bool
  /-- Sample waiting for publication; 02 R55; reset none. -/
  sample : Option PaceSample
  /-- Last sample instant; 02 R52; reset none. -/
  lastSample : Option Nat
  /-- Record filtered for roles outside a lease; 21 R709; reset 0. -/
  winRecord : BitVec 64
  /-- BREACH or FALLBACK published since the step in flight began; 11 R369; reset false. -/
  breachSeen : Bool
  /-- Last ten power samples, W, newest first; 19 R657; reset empty. -/
  pHist : List Nat
  /-- PAVG; 19 R665; reset 0. -/
  pavg : Nat
  /-- Samples of the running 100 ms window: sum and number; 19 R665; reset 0. -/
  winSum : Nat
  winN : Nat
  /-- Highest Tj of the running window; reset 0. -/
  winTj : Int
  /-- PWIN; 19 R665; reset 0. -/
  pwin : Nat
  /-- TJWIN; 19 R665; reset 0. -/
  tjwin : Int
  /-- WINSTAMP, 32 bits; 19 R665; reset 0. -/
  winStamp : Nat
  /-- CAP; 19 R665; reset 0. -/
  cap : Bool
  /-- UNMET; 19 R665; reset 0. -/
  unmet : Bool
  /-- Time of the last PWR_CAP_UNMET report; 19 R658; reset none. -/
  unmetAt : Option Nat
  deriving DecidableEq, Repr

/-- The limits record in force (19 R654, 18 R642). -/
structure Limits where
  pcap : Nat
  /-- Bit p: profile p allowed. -/
  profok : BitVec 3
  defprof : Nat
  /-- PROFOK and DEFPROF of the last command, in force from the next LEASE_OPEN (R656). -/
  nextProfok : BitVec 3
  nextDefprof : Nat
  tjderate : Nat
  tjhyst : Nat
  cdoze : Nat
  kdoze : Nat
  /-- 1 disabled, 2 enabled. -/
  stkdoze : Nat
  scrubh : Nat
  ucount : Nat
  uwin : Nat
  dcount : Nat
  dwin : Nat
  deriving DecidableEq, Repr

/-- Limits at their Reset values (19 R654, 18 R642). -/
def Limits.default : Limits :=
  { pcap := 1200, profok := 0b111, defprof := 1, nextProfok := 0b111, nextDefprof := 1, tjderate := 100, tjhyst := 3,
    cdoze := 20, kdoze := 100, stkdoze := 1, scrubh := 24, ucount := 3, uwin := 60, dcount := 16, dwin := 600 }

/-- A physical unit's own state, epoch and last wrap (01 R21, R35 to R39; 18 R630). -/
structure UnitRec where
  own : UState
  epoch : BitVec 16
  lastWrap : Nat
  /-- Start of the bring-up, fence or reset that the next READY event measures (R630). -/
  startAt : Nat
  /-- CAUSE of the next READY event (R630). -/
  cause : Nat
  deriving DecidableEq, Repr

/-- A unit at power-on: NOT_READY, epoch 0x0001 (R37). -/
def UnitRec.init : UnitRec := ⟨.notReady, 1, 0, 0, 0⟩

/-- Every physical unit's record (01 R15). -/
structure UnitTab where
  engines : Vector UnitRec 768
  cores : Vector UnitRec 192
  clusters : Vector UnitRec 24
  dies : Vector UnitRec 2
  device : UnitRec
  channels : Vector UnitRec 256
  ports : Vector UnitRec 32
  attns : Vector UnitRec 24
  seqs : Vector UnitRec 2
  hostIf : UnitRec
  vangaer : UnitRec
  mgmts : Vector UnitRec 2
  deriving DecidableEq, Repr

/-- All units at power-on. -/
def UnitTab.init : UnitTab :=
  { engines := Vector.replicate 768 .init, cores := Vector.replicate 192 .init, clusters := Vector.replicate 24 .init,
    dies := Vector.replicate 2 .init, device := .init, channels := Vector.replicate 256 .init,
    ports := Vector.replicate 32 .init, attns := Vector.replicate 24 .init, seqs := Vector.replicate 2 .init,
    hostIf := .init, vangaer := .init, mgmts := Vector.replicate 2 .init }

/-- A direct member of a group (01 R23). -/
inductive Member where
  | unit (u : PUnit)
  | group (g : Nat)
  | remote (fuid : Nat)
  deriving DecidableEq, Repr

/-- A unit group (01 R22 to R36, 14 R502). -/
structure GroupRec where
  members : List Member
  /-- `none` for ALL, `some q` for QUORUM q. -/
  quorum : Option Nat
  /-- Defined inside a lease (R34). -/
  inLease : Bool
  /-- Epochs of the direct members when the group's epoch was last incremented (R40). -/
  sent : List (BitVec 16)
  deriving DecidableEq, Repr

/-- Groups, their epochs, and what remote members last reported (01 R22 to R40). -/
structure GroupSt where
  /-- Defined groups by GNUM; 01 R22; reset none. -/
  tab : Smap (Option GroupRec)
  /-- Group epochs by GNUM, default 0x0001; 01 R36, R37; reset 0x0001. -/
  epoch : Smap (BitVec 16)
  /-- Last wrap of each group epoch; 01 R39; reset 0. -/
  wrap : Smap Nat
  /-- Last state message of each remote member by FUID: state, stamp, epoch; 01 R32; reset none. -/
  remote : Smap (Option (UState × Nat × BitVec 16))
  /-- Memberships of local units in other devices' groups: unit UID, defining FUID, and whether it was made in a lease; 14 R503; reset none. -/
  foreign : List (Nat × Nat × Bool)
  deriving DecidableEq, Repr

/-- Memory: bytes of the device address map, poison marks, line tags, and the key each HBM line was written under
(12 R396 to R408). -/
structure MemSt where
  /-- Bytes by device address; 12 R398; unlisted reads 0, DESIGN CHOICE (training and self-test leave zeros, R410,
  R625). -/
  bytes : List Host.Cell
  /-- Poisoned 64-byte words by address / 64; 12 R396; reset none. -/
  poison : Smap Bool
  /-- Line tags by address / 64, 48 bits; 12 R405; reset 0. -/
  tags : Smap (BitVec 48)
  /-- Key generation + 1 a line was written under, 0 for its channel's base generation; 12 R408; reset 0. -/
  lineKey : Smap Nat
  /-- Generation of the XTS key in force in the channel controllers; 12 R408; reset 0. -/
  keyGen : Nat
  /-- Generations drawn so far; model's own; reset 1. -/
  keyNext : Nat
  deriving DecidableEq, Repr

/-- What has befallen one 64-byte word or line since it was last written whole (12 R396, R397, R406, R420, R424). -/
structure EccLine where
  /-- Errors that no read has met: 1 one that no code corrects, 2 + k one in lane `k` of an HBM line or in codeword `k % 8` of an
  SRAM word. -/
  errs : List Nat
  /-- A read has met such an error and set the poison bit. -/
  bad : Bool
  /-- That detection is still to be reported. -/
  due : Bool
  /-- Poisoned reads still to be counted. -/
  reads : Nat
  /-- Corrected errors still to be counted: 2 + lane each. -/
  fixed : List Nat
  deriving DecidableEq, Repr

/-- A word without an error. -/
def EccLine.none : EccLine := ⟨[], false, false, 0, []⟩

/-- Errors in stored words, outside their contents (12 R396, R406). -/
structure EccSt where
  /-- By address / 64; 12 R396, R406; reset none. -/
  lines : Smap EccLine
  /-- Corrected errors of the SRAM stores by UID; 12 R420; reset 0. -/
  counts : Smap Nat
  deriving DecidableEq, Repr

/-- One HBM channel (12 R410 to R417). -/
structure ChanSt where
  /-- Training record, 64 bits; 12 R411; reset 0 (not trained) with SUB0 and SUB1 0x7F, DESIGN CHOICE. -/
  train : BitVec 64
  /-- Key generation of lines not written since the last whole clear; 12 R408; reset 0. -/
  baseGen : Nat
  /-- The channel lost training while in use; 12 R413; reset false. -/
  lost : Bool
  /-- Every line of the channel is poisoned but those that memory's poison table names (R632); reset false. -/
  poisonAll : Bool
  /-- Corrected errors per lane: lane, times of the latest, newest first, at most 1025; 12 R412; reset none. -/
  laneErr : List (Nat × List Nat)
  /-- Lanes already reported since training; 12 R412; reset none. -/
  laneTold : List Nat
  /-- MEM_TEST in progress: command, channel state before it, start and length of the range; 12 R417; reset none. -/
  testing : Option (Nat × UState × Nat × Nat)
  deriving DecidableEq, Repr

/-- Link port states (15 R515) with loopback (R519). -/
inductive PortPhase where
  | down | training | up | up2 | disabled | loopback
  deriving DecidableEq, Repr

/-- A frame: 32-byte header, payload in clear, and once it is sealed the payload as it is sent and the tag (15 R534, R535). -/
structure FrameRec where
  hdr : BitVec 256
  body : FrameBody
  isSealed : Bool
  cipher : List (BitVec 8)
  tag : BitVec 128
  deriving DecidableEq, Repr

/-- One link port (15 R513 to R526). -/
structure PortSt where
  /-- State; 15 R515; reset DOWN. -/
  phase : PortPhase
  /-- AUTHFAIL, STALE, REPLAY counters; 15 R520; reset 0. -/
  authFail : Nat
  stale : Nat
  replay : Nat
  /-- Frames waiting for credit on each channel; 15 R525; reset empty. -/
  queue : List FrameRec
  /-- Frames sent and not acknowledged by the far end, at most 256; 15 R514; reset empty. -/
  replayBuf : List FrameRec
  /-- Credits of the four virtual channels; 15 R525; reset 0, DESIGN CHOICE. -/
  credits : Vector Nat 4
  /-- Time of the last retrain the port began by itself; 15 R516; reset none. -/
  lastRetrain : Option Nat
  /-- The port has lost its link and not trained since; 15 R516; reset false. -/
  lost : Bool
  deriving DecidableEq, Repr

/-- Keys and salts of one generation of a sealed link, each way (15 R537). -/
structure LinkKeys where
  sendKey : BitVec 256
  sendSalt : BitVec 32
  recvKey : BitVec 256
  recvSalt : BitVec 32
  deriving DecidableEq, Repr

/-- No keys yet. -/
def LinkKeys.init : LinkKeys := ⟨0, 0, 0, 0⟩

/-- A sealed link of the lease (15 R537 to R541). -/
structure LinkSt where
  peer : Nat
  gen : Nat
  /-- Installed generation per key slot. -/
  slot0 : Option Nat
  slot1 : Option Nat
  /-- Keys of each key slot (R537). -/
  keys0 : LinkKeys
  keys1 : LinkKeys
  /-- Nonces in force: this device's, the peer's. -/
  myNonce : BitVec 128
  peerNonce : BitVec 128
  /-- The peer has confirmed the generation. -/
  confirmed : Bool
  sendSlot : Nat
  sendCtr : Nat
  /-- Highest counter accepted and those accepted within the window, per slot (R538). -/
  high0 : Nat
  seen0 : List Nat
  high1 : Nat
  seen1 : List Nat
  /-- Lowest generation still accepted (R539). -/
  recvGen : Nat
  setAt : Nat
  /-- Trigger of the rekey in progress (R540). -/
  rekeyAt : Option Nat
  deriving DecidableEq, Repr

/-- Who waits for a fabric answer. -/
inductive FabOwner where
  | dma (c : Fin 192) (seq : Nat)
  | coll (collid inst : Nat)
  deriving DecidableEq, Repr

/-- An outstanding fabric request (15 R534). -/
structure OutReq where
  tid : Nat
  owner : FabOwner
  kind : Nat
  peer : Nat
  fpa : Nat
  len : Nat
  off : Nat
  deriving DecidableEq, Repr

/-- A collective instance in progress (15 R545 to R550). -/
structure CollInst where
  collid : Nat
  inst : Nat
  desc : BitVec 512
  /-- FAB_COLLECTIVE command that it completes, or the armed slot that fired it. -/
  cmd : Option Nat
  slot : Option Nat
  /-- Ready messages sent and SRC read (R547, R548). -/
  begun : Bool
  /-- Ranks whose ready message has arrived. -/
  ready : List Nat
  /-- SRC as read at the start. -/
  src : List (BitVec 8)
  /-- Contributions received: chunk, rank, byte offset, bytes. -/
  got : List (Nat × Nat × Nat × List (BitVec 8))
  /-- Data not yet sent: rank it goes to, and the frame. -/
  out : List (Nat × FrameBody)
  /-- DST bytes still to be written. -/
  due : Nat
  /-- Frames sent and not acknowledged. -/
  acksOut : Nat
  deriving DecidableEq, Repr

/-- A digest not yet matched (15 R554): queue pair, SEQNO, digest, tag, time. -/
structure DigestEnt where
  qpn : Nat
  seqno : Nat
  digest : BitVec 128
  tag : Nat
  at_ : Nat
  deriving DecidableEq, Repr

/-- The fabric interface (15 R521 to R556, 13 R450, R453). -/
structure FabSt where
  /-- Identity record in force, 512 bits; 15 R521; reset from configuration flash. -/
  ident : BitVec 512
  /-- Routing table: port set per device number; 15 R524; reset 0 (R528). -/
  routes : Smap (BitVec 32)
  /-- Requests from peers that wait for a verdict: accepted and not yet served; 06 R201 to R203; reset none. -/
  parked : List FrameIn
  /-- Injection tokens, bytes; 15 R531; reset 65,536, DESIGN CHOICE. -/
  tokens : Nat
  /-- Time of the last refill; reset 0. -/
  tokenAt : Nat
  /-- Sealed links of the lease; 15 R537; reset none. -/
  links : List LinkSt
  /-- Frames held: since when no port of their set is usable, where that is so, and those that wait for a link's set-up; 15 R526, R537;
  reset none. -/
  held : List (Option Nat × FrameRec)
  /-- Frames waiting for injection tokens, oldest first; 15 R531; reset none. -/
  waiting : List FrameRec
  /-- Management messages not yet framed, oldest first: destination, whether it belongs to the lease (R536), kind, contents; reset
  none. -/
  outbox : List (Nat × Bool × Nat × List Nat)
  /-- Outstanding requests; 15 R534; reset none. -/
  reqs : List OutReq
  /-- Next transaction identifier, 16 bits; 15 R534; reset 0, DESIGN CHOICE. -/
  tidNext : Nat
  /-- Stale-lease frame count and refused request count of the target; 13 R450, R453; reset 0. -/
  staleCount : Nat
  refusedCount : Nat
  /-- Frame counter and salt use of the plain management key; 15 R536; reset 0. -/
  mkeyCtr : Nat
  /-- Armed slots: descriptor and times fired; 15 R549; reset empty. -/
  slots : Smap (Option (BitVec 512 × Nat))
  /-- Instances in progress; 15 R547; reset none. -/
  insts : List CollInst
  /-- Instances started per COLLID; 15 R547; reset 0. -/
  instCount : Smap Nat
  /-- Ready messages received ahead: COLLID, instance, device, hash; 15 R547; reset none. -/
  earlyReady : List (Nat × Nat × Nat × Nat)
  /-- Local and partner digests not yet matched; 15 R554; reset none. -/
  digLocal : List DigestEnt
  digPartner : List DigestEnt
  deriving DecidableEq, Repr

/-- A context of the sequence engine (11 R356, R357). STATE 0 to 6 as R356 codes it. -/
structure CtxRec where
  state : Nat
  vmode : Nat
  recover : Bool
  apub : Bool
  sgrp : Nat
  drmax : Nat
  latns : Nat
  pfns : Nat
  pquota : Nat
  atquota : Nat
  /-- When its NEXT token became available, and when its SEQ_PREFILL was accepted (R362). -/
  nextStamp : Nat
  pfStamp : Nat
  len : Nat
  pend : Nat
  frames : Nat
  nextTok : Nat
  misses : Nat
  dnodes : Nat
  lastStep : Nat
  /-- The draft has been verified under VMODE HOST (R388). -/
  verified : Bool
  /-- Draft node entries (R385). -/
  draft : List (BitVec 128)
  /-- State to return to on SEQ_RESUME (R357). -/
  former : Nat
  /-- Acceptance order of the prefill in progress (R365). -/
  pfOrder : Nat
  /-- Recovery keeps NEXT (R393). -/
  keepNext : Bool
  deriving DecidableEq, Repr

/-- One entry of a step plan (11 R373). -/
structure PlanEnt where
  ctx : Nat
  kind : Nat
  nnode : Nat
  pos : Nat
  nt : Nat
  deriving DecidableEq, Repr

/-- A graph in progress: status of each node, and the sub-command of each started node (14 R497 to R499). -/
structure GraphRun where
  nodes : List (BitVec 512 × BitVec 512)
  subs : List (Option Nat)
  res : List (Option (Nat × Nat))
  deriving DecidableEq, Repr

/-- What a completed step has left in one context (11 R360 to R362, R369, R377). -/
structure StepRes where
  ctx : Nat
  /-- Its deadline before the step set NEXT, 0 for none (R369). -/
  deadline : Nat
  /-- Draft nodes accepted (R377). -/
  nacc : Nat
  /-- The step has set its NEXT (R362). -/
  sampled : Bool
  deriving DecidableEq, Repr

/-- The step in flight (11 R360 to R372). Its graph is its command's. -/
structure StepRun where
  cmd : Nat
  /-- The lead whose plan it runs; `none` for a step of this device. -/
  lead : Option Nat
  plan : List PlanEnt
  /-- Contexts left out with ST_NO_RESOURCE (R367). -/
  omitted : List Nat
  stepNo : Nat
  startAt : Nat
  predicted : Nat
  decPred : Nat
  /-- Time its guard replays have taken (R369). -/
  replayNs : Nat
  /-- Status and DETAIL once its results are applied here. -/
  ended : Option (Nat × Nat)
  /-- Followers with what they reported (R372). -/
  followers : List (Nat × Option Nat)
  /-- What its end has left in each context of the plan (R360). -/
  done : List StepRes
  /-- Rows of the tree bitmaps of its self-verify entries, by context (R346). -/
  bitmaps : List (Nat × List Nat)
  deriving DecidableEq, Repr

/-- The sequence engine (11 R353 to R393). -/
structure SeqSt where
  /-- Geometry record, 256 bits; 10 R311; reset none. -/
  geom : Option (BitVec 256)
  /-- Sequence configuration record, 1024 bits; 11 R353; reset none. -/
  cfg : Option (BitVec 1024)
  /-- Contexts by CTX; 11 R356; reset unallocated. -/
  ctxs : Smap (Option CtxRec)
  /-- Number of the last step; 11 R373; reset 0. -/
  stepNo : Nat
  /-- Correction factor; 11 R370; reset 1024. -/
  cf : Nat
  /-- Cost model that takes effect at the next step; 11 R354; reset none. -/
  nextCfg : Option (BitVec 1024)
  /-- Step in flight; 11 R360; reset none. -/
  step : Option StepRun
  /-- A plan of the lead that waits for its turn: the lead, PLANDST and its words; 11 R358, R372; reset none. -/
  planned : Option (Nat × Nat × List Nat)
  /-- A follower's last step until the lead tells when it finished: its number and results; 11 R362, R369; reset none. -/
  closing : Option (Nat × List StepRes)
  /-- Prefill acceptances so far; model's own; reset 0. -/
  pfCount : Nat
  /-- Followers of this lead, and the floor each last reported; 11 R372; reset none. -/
  setFloors : List (Nat × Option Nat)
  /-- Frames reserved for the contexts of the step in flight; 11 R367; reset none. -/
  reserve : Smap Nat
  /-- Prefix key, 128 bits; 11 R378; reset none. -/
  prefixKey : Option (BitVec 128)
  /-- Free-frame search hint: next frame to try; model's own; reset 0. -/
  nextFrame : Nat
  deriving DecidableEq, Repr

/-- An ATS invalidation in progress (13 R437 to R442). -/
structure InvalRec where
  itag : Nat
  /-- `none` for Global Invalidate. -/
  pasid : Option Nat
  page : Nat
  npages : Nat
  at_ : Nat
  expired : Bool
  /-- Entries with reads outstanding through matched slots: core, entry, and how far its reads had come. -/
  reads : List (Nat × Nat × Nat)
  deriving DecidableEq, Repr

/-- Translation and protection tables (13 R430 to R454). -/
structure XlateSt where
  /-- PASID table, records of 256 bits; 13 R431; reset empty. -/
  pasids : Vector (BitVec 256) 16
  /-- Segment table; 13 R446; reset empty. -/
  segs : Smap (BitVec 256)
  /-- Region table; 13 R452; reset empty. -/
  regions : Smap (BitVec 256)
  /-- Invalidations in progress, at most 32; 13 R442; reset none. -/
  invals : List InvalRec
  /-- ATS enabled by the host; 13 R436; reset false. -/
  atsOn : Bool
  deriving DecidableEq, Repr

/-- A queue pair (14 R455 to R473). -/
structure QpSt where
  sqlog : Nat
  cqlog : Nat
  prio : Nat
  pasid : Option Nat
  vec : Nat
  sqBase : Nat
  cqBase : Nat
  role : Role
  /-- SQ tail written, SQ head fetched (indices). -/
  sqTail : Nat
  sqHead : Nat
  /-- CQ tail written by the device, CQ head released by the host. -/
  cqTail : Nat
  cqHead : Nat
  /-- Every CQ entry is written and none released: the head then equals the tail (R466). -/
  cqFull : Bool
  phase : Bool
  /-- SEQNO expected next (R473). -/
  seqno : Nat
  /-- Fetching has stopped (R471, R713, R584). -/
  stopped : Bool
  /-- QP_DELETE commands accepted for the pair, waiting for the commands fetched from it; 0 for MQ_DISABLE (R458, R713). -/
  deleting : List Nat
  /-- What the ring holds of the entries before the tail that are not fetched yet: commands, in ring order (R459). -/
  ring : List FetchIn
  deriving DecidableEq, Repr

/-- Where a command came from (17 R590). -/
inductive Origin where
  | qp (n : Nat)
  | remote (src : Nat) (tid : Nat)
  | sideband
  | i3c
  | boot
  | sub (parent : Nat) (idx : Nat)
  /-- A pair that a reset of the host function took away (16 R587). -/
  | gone
  deriving DecidableEq, Repr

/-- Phase of a command. -/
inductive CmdPhase where
  | accepted
  | started
  | finished
  | refused
  | forwarded
  /-- It waits for ORDER before it goes to another device (R469, R474). -/
  | held
  deriving DecidableEq, Repr

/-- A command the device has fetched and not yet answered (14 R468 to R485, R505 to R512). -/
structure CmdRec where
  id : Nat
  origin : Origin
  role : Role
  hdr : BitVec 512
  params : List (BitVec 512)
  fetchedAt : Nat
  acceptedAt : Nat
  startedAt : Option Nat
  finishedAt : Nat
  phase : CmdPhase
  status : Nat
  detail : Nat
  mvptr : Nat
  /-- Epoch sent (its own, or the member's under R40). -/
  epoch : BitVec 16
  /-- The physical unit or group it acts on. -/
  target : Member
  /-- Fenced by its timeout (R636): root of the domain. -/
  hung : Option PUnit
  /-- Guard trips: first layer, trips, REPORTED, REPLAYED, WIDE, FBEXCEED (R214). -/
  trips : Nat
  tripLayer : Nat
  tripBits : BitVec 4
  /-- Trips per guard record: cluster, record, layer, trips, first comparisons, bits (R215). -/
  tripRecs : List (Nat × Nat × Nat × Nat × BitVec 5 × BitVec 4)
  /-- A group command's fan-out: distinct units sent the command and the epoch sent to each (R25, R40). -/
  fan : List (Member × BitVec 16)
  /-- Parts of a launch or fan-out that have ended: core or fan-out index, status, detail. -/
  parts : List (Nat × Nat × Nat)
  /-- Parts still to end. -/
  waitFor : List Nat
  /-- Nested groups of the target that were not sent the command (R28, R755). -/
  noGroups : List Nat
  /-- Progress of the opcode: values its later steps need. -/
  aux : List Nat
  /-- Authorisation: 0 none, 1 installer, 2 maker; AUTHSEQ (R591). -/
  auth : Nat × Nat
  /-- Prepared members and members that applied the commit (R508). -/
  prepared : List Nat
  applied : List Nat
  decided : Option Bool
  /-- Graph of GRAPH_RUN. -/
  graph : Option GraphRun
  /-- Host writes made, each with the place of its descriptor in the digest's order (R552). -/
  writes : List (Nat × List (BitVec 8))
  /-- Step output entries of SEQ_STEP (R377, R552). -/
  stepOut : List (BitVec 8)
  /-- Entries of a TELEM_READ to a group gathered so far: 0 for this device or 1 + another's number, UID, value (R30, R672). -/
  telem : List (Nat × Nat × Nat)
  /-- Events of the sequence engine that report on it, to be written after its host writes: type and two payload values (R303). -/
  evs : List (Nat × Nat × Nat)
  /-- The groups of its target's nesting, as they were when it started (R505, R755). -/
  tree : List (Nat × GroupRec)
  /-- A write to its member-vector buffer that another device asked for has completed in error (R471). -/
  hostBad : Bool
  deriving DecidableEq, Repr

/-- An atomic command this device holds prepared for a lead (14 R508 to R512). -/
structure PrepRec where
  lead : Nat
  key : Nat
  role : Role
  /-- Its acceptance stamp and its place in the order of acceptance, as the member counts them. -/
  acceptedAt : Nat
  order : Nat
  hdr : BitVec 512
  params : List (BitVec 512)
  deadline : Nat
  inDoubt : Bool
  lastAsk : Nat
  /-- What the prepare reserved: frames for a commit, the hit count for a prefill, the drawn identifier of a lease. -/
  reserve : List Nat
  deriving DecidableEq, Repr

/-- Commands and queues (14). -/
structure CmdSt where
  /-- Queue pairs by number; 14 R455; reset none (pair 0 by MQ_ENABLE). -/
  qps : Smap (Option QpSt)
  /-- Commands fetched and not answered, in fetch order; 14 R475; reset none. -/
  inflight : List CmdRec
  /-- Next command identifier; model's own; reset 1. -/
  nextId : Nat
  /-- Atomic commands prepared here for other leads; 14 R508; reset none. -/
  prepared : List PrepRec
  /-- Decision log: command, COMMIT and hit count, at most 4096; 14 R511; reset empty. -/
  decisions : List (Nat × Bool × Nat)
  /-- The pair among 1 to 255 whose turns these are, and how many are left; 14 R463; reset none. -/
  turn : Nat × Nat
  deriving DecidableEq, Repr

/-- An event ring in host memory (14 R486 to R488, 21 R714, R715). -/
structure RingSt where
  base : BitVec 64
  ctl : BitVec 64
  head : Nat
  tail : Nat
  /-- Every entry is written and none released: the head then equals the tail (R488). -/
  full : Bool
  phase : Bool
  seq : Nat
  lost : Nat
  deriving DecidableEq, Repr

/-- A ring at its reset values. -/
def RingSt.init : RingSt := ⟨0, 0, 0, 0, false, true, 1, 0⟩

/-- TDI states (16 R571). -/
inductive Tdi where
  | unlocked | locked | run | error
  deriving DecidableEq, Repr

/-- The host interface (16, 21). -/
structure HostSt where
  /-- Link in L0, rate code 1 to 6 and lanes; 16 R564, R565; reset down. -/
  linkUp : Bool
  rate : Nat
  width : Nat
  /-- The function answers memory requests; 16 R567, R756; reset false. -/
  ready : Bool
  /-- Addresses that configuration software gave BAR0 and BAR2; 16 R568; reset 0, PRESUMED. -/
  bar0At : BitVec 64
  bar2At : BitVec 64
  /-- PERST_N asserted; 22 pins; reset true, DESIGN CHOICE. -/
  perst : Bool
  /-- BAR2 requests that wait for a stack to be on, in order; 02 R51, 19 R650; reset none. -/
  parkedTlp : List TlpIn
  tdi : Tdi
  /-- Stream and session bound by LOCK_INTERFACE; 16 R582; reset none. -/
  bound : Option (Nat × Nat)
  /-- START_INTERFACE nonce generation; 16 R582; reset none. -/
  nonce : Option Nat
  /-- The TDI has been in RUN in this lease; 16 R582, R583; reset false. -/
  wasRun : Bool
  /-- MQ_SQBASE, MQ_CQBASE, MQ_CTL; 21 R711; reset 0. -/
  mqSq : BitVec 64
  mqCq : BitVec 64
  mqCtl : BitVec 64
  /-- Management and lease event rings; 21 R714; reset 0. -/
  mer : RingSt
  ler : RingSt
  /-- BAR2_BASE; 21 R721; reset 0x0000_0008_0000_0000. -/
  bar2 : BitVec 64
  /-- BOOT_QREC0 to BOOT_QREC7 as one queue record; 21 R723; reset 0. -/
  bootRec : BitVec 512
  /-- BOOT_CTL; 21 R723; reset 0. -/
  bootCtl : BitVec 64
  /-- MSI-X entries by vector; 21 R725; default Mask set, other fields 0. -/
  msix : Smap (BitVec 128)
  /-- Pending bits by vector; 16 R577; reset 0. -/
  pend : Smap Bool
  /-- Function mask; 16 R577; reset false, DESIGN CHOICE (PCIe). -/
  fmask : Bool
  /-- Vectors with a message outstanding; 14 R467; reset none. -/
  outst : Smap Bool
  /-- REFUSED_TLP; 21 R706; reset 0. -/
  refused : BitVec 64
  /-- NEWFAULT; 21 R705; reset 0. -/
  newFault : Bool
  /-- Snapshots of R699: readiness, PWR, LPWR, bootstrap record; reset none. -/
  snapRdy : Option (BitVec 512)
  snapPwr : Option (BitVec 128)
  snapLpwr : Option (BitVec 128)
  snapBoot : Option (BitVec 512)
  deriving DecidableEq, Repr

/-- The host interface at reset of its domain, link down. -/
def HostSt.init : HostSt :=
  { linkUp := false, rate := 0, width := 0, ready := false, bar0At := 0, bar2At := 0, perst := true, parkedTlp := [], tdi := .unlocked, bound := none,
    nonce := none, wasRun := false, mqSq := 0, mqCq := 0, mqCtl := 0, mer := .init, ler := .init,
    bar2 := 0x0000000800000000, bootRec := 0, bootCtl := 0, msix := [], pend := [], fmask := false, outst := [],
    refused := 0, newFault := false, snapRdy := none, snapPwr := none, snapLpwr := none, snapBoot := none }

/-- Steps of a close in progress (17 R608). -/
inductive ClosePhase where
  | drain (until_ : Nat)
  | hwScrub (until_ : Nat)
  | askoc (until_ : Nat)
  | hbmClear (until_ : Nat)
  | verify (until_ : Nat)
  deriving DecidableEq, Repr

/-- The lease (17 R600 to R613). -/
structure LeaseSt where
  /-- OPEN or CLOSING (LSTAT.STATE 1 or 2); 21 R703; reset false, false. -/
  openL : Bool
  closing : Option ClosePhase
  /-- Command that closes, if it completes at step 8, and VERIFY; reset none. -/
  closeCmd : Option Nat
  verify : Bool
  /-- The close closes an open lease (R611). -/
  hadLease : Bool
  id : BitVec 32
  profile : Nat
  mirror : Bool
  injrate : Nat
  openStamp : Nat
  tenant : BitVec 768
  epubGen : Nat
  /-- K_A and K_D while held, 256 bits each; 17 R602, R607; reset none. -/
  kA : Option Nat
  kD : Option Nat
  /-- Fabric and mirror secrets accepted in the lease; 17 R605; reset none. -/
  fabSecret : Option (BitVec 256)
  mirSecret : Option (BitVec 256)
  /-- SCRUBBED; 17 R615; reset false until R627. -/
  scrubbed : Bool
  /-- Identifier that audit entries carry until step 8 (R618); reset 0. -/
  logId : BitVec 32
  /-- SEQ of the lease's LEASE_OPENED entry; 17 R623; reset 0. -/
  openedSeq : Nat
  /-- Guard counts: verdicts, trips, replays, wide replays, FBEXCEED; 06 R216; reset 0. -/
  guards : List Nat
  /-- Dump numbers given in the lease; 17 R624; reset 0. -/
  dumpNo : Nat
  /-- Group numbers dissolved by the close, whose epochs step 8 increments (R34); reset none. -/
  dissolved : List Nat
  deriving DecidableEq, Repr

/-- An IDE stream (16 R580): Secure, key set in use, key sets programmed. -/
structure StreamSt where
  secure : Bool
  keySet : Nat
  key0 : Option (BitVec 256)
  key1 : Option (BitVec 256)
  deriving DecidableEq, Repr

/-- Vangaer, fuses and configuration flash (17, 22 R733 to R736). -/
structure SecSt where
  /-- SPDM sessions held, at most four; 16 R579; reset none. -/
  sessions : List Nat
  /-- Selective streams 0 to 3 and, as 4, the link IDE stream; 16 R580; reset not secure. -/
  streams : Vector StreamSt 5
  /-- Sessions that carried keys of IDE streams; 16 R585; reset none. -/
  ideSessions : List Nat
  /-- MAKERDBG, fuse: true while it is intact; 17 R615; reset true, DESIGN CHOICE. -/
  makerDbg : Bool
  /-- DBGOPEN and STOPPED; 17 R615; reset 0. -/
  dbgOpen : Bool
  stopped : Bool
  /-- The fabric stands halted by a stop; 20 R693; reset false. -/
  halted : Bool
  /-- INSTHASH slots used, and the installer key in force; 17 R605; reset none. -/
  instSlots : Nat
  /-- The digest that the slot in force holds, fuse, and the installer key stored in flash; 17 R592, R605, R615; reset 0. -/
  instHash : BitVec 384
  instKey : BitVec 768
  /-- SVN, SERIAL, GRADE fuses; 17 R615; reset 0, DESIGN CHOICE. -/
  svn : Nat
  serial : BitVec 128
  grade : Bool
  /-- AUTHSEQ last accepted for installer and maker; 17 R592; reset 0. -/
  authInst : Nat
  authMaker : Nat
  /-- Plain secret; 17 R605; reset none. -/
  plain : Option (BitVec 256)
  /-- Firmware image held for the next device reset, and digests in force; 17 R614; reset none, 0. -/
  fwNext : Option (BitVec 384 × Nat)
  fwNow : BitVec 384
  /-- Whether a firmware slot qualified at power-on; 22 R736; reset true, DESIGN CHOICE. -/
  fwOk : Bool
  /-- Audit chain check passed; 18 R626; reset true. -/
  chainOk : Bool
  /-- Replies due to Vangaer messages: time, status byte; 17 R605; reset none. -/
  replies : List (Nat × Nat)
  /-- Units out of service recorded in flash; 18 R643; reset none. -/
  flashOos : List PUnit
  /-- The device unit went out of service by escalation (DEVOOS), recorded in flash; 17 R616, 18 R643; reset false. -/
  flashEsc : Bool
  /-- Identity and limits kept in flash; 15 R521, 19 R654; reset 0 and the Reset values. -/
  flashIdent : BitVec 512
  flashLimits : Limits
  /-- A lease was open when power was lost: its identifier; 17 R612; reset none. -/
  lostLease : Option (BitVec 32)
  deriving DecidableEq, Repr

/-- The audit log (17 R618 to R623). -/
structure AuditSt where
  /-- Entries held, oldest first; 17 R618; reset none. -/
  entries : List (BitVec 1024)
  /-- CHAIN of the newest entry; 17 R618; reset 0 (48 zero bytes). -/
  chain : BitVec 384
  nextSeq : Nat
  /-- Entries below this SEQ are archived; 17 R623; reset 0. -/
  archived : Nat
  /-- Ranges archived beyond that, first and past; 17 R623; reset none. -/
  ahead : List (Nat × Nat)
  /-- Entries and time since the last checkpoint; 17 R621; reset 0. -/
  sinceCkpt : Nat
  ckptAt : Nat
  /-- Refusals not recorded; 17 R622; reset 0. -/
  gap : Nat
  deriving DecidableEq, Repr

/-- A fault record (20 R679); `lease` marks attribution (R686). -/
structure FaultRec where
  first : Nat
  last : Nat
  subject : Nat
  epoch : BitVec 16
  cls : Nat
  reason : Nat
  reports : Nat
  reporter : Nat
  dump : Nat
  seq : Nat
  addr : Nat
  info : Nat
  lease : Bool
  /-- UIDs of the groups whose members raised the fault (R31), each once. -/
  groups : List Nat
  deriving DecidableEq, Repr

/-- Unmatched reports of one class in a window (20 R684, R685). -/
structure FaultSum where
  cls : Nat
  reports : Nat
  window : Nat
  low : Nat
  high : Nat
  deriving DecidableEq, Repr

/-- One die's fault concentrator (20 R679 to R685). -/
structure FaultSt where
  /-- Records held, oldest first, at most 1024; 20 R681; reset none. -/
  recs : List FaultRec
  /-- SEQ of the latest record, 0 before the first; 21 R704; reset 0. -/
  seq : Nat
  /-- Summary mode; 20 R684; reset false. -/
  summary : Bool
  /-- Window start, unmatched reports in it, and per class; 20 R684; reset 0. -/
  window : Nat
  unmatched : Nat
  sums : List FaultSum
  /-- Latest summaries, oldest first, at most 64; 20 R685; reset none. -/
  kept : List FaultSum
  deriving DecidableEq, Repr

/-- A concentrator at power-on. -/
def FaultSt.init : FaultSt := ⟨[], 0, false, 0, 0, [], []⟩

/-- What a reset or fence in progress is at (18 R631 to R638). -/
inductive DomPhase where
  | draining (until_ : Nat)
  | resetting (since due : Nat)
  deriving DecidableEq, Repr

/-- A reset domain being fenced or reset. -/
structure DomAct where
  root : PUnit
  phase : DomPhase
  /-- READY cause: 1 hang, 2 command, 3 fault, 4 restore. -/
  cause : Nat
  /-- Commands that complete when it ends. -/
  cmds : List Nat
  startAt : Nat
  deriving DecidableEq, Repr

/-- Resets, escalation and bring-up (18). -/
structure ResetSt where
  /-- POR_N deasserted at, `none` while held; 18 R625; reset none. -/
  porAt : Option Nat
  /-- Domains being fenced or reset; 18 R631; reset none. -/
  acts : List DomAct
  /-- Resets that count: root UID and time; 18 R641; reset none. -/
  hist : List (Nat × Nat)
  /-- ALLREADY was reported; 18 R630; reset false. -/
  allReady : Bool
  /-- A BRIDGE_FAULT condition holds; 20 R687; reset false. -/
  bridge : Bool
  /-- The dies' fence waits for a prepared atomic member to apply its decision; 14 R510; reset false. -/
  bridgeDue : Bool
  /-- A thermal trip has occurred; 19 R664; reset false. -/
  tripped : Bool
  /-- Stores tested at bring-up: SCRUBBED may be set; 18 R627; reset false. -/
  scrubDone : Bool
  deriving DecidableEq, Repr

/-- A held dump (18 R645, 20 R672, R689). -/
structure DumpRec where
  no : Nat
  root : Nat
  stamp : Nat
  collected : Bool
  inLease : Bool
  /-- Its sections, at most 2 MiB; 20 R689. -/
  body : List Byte
  deriving DecidableEq, Repr

/-- A switched domain's record and whether it is off (19 R648 to R651, 20 R670). -/
structure DozeSt where
  off : Bool
  wakeAt : Option Nat
  offAt : Nat
  dozes : Nat
  dozeNs : Nat
  wakeNs : Nat
  idleAt : Nat
  /-- Until when the patrol scrubber's schedule keeps a stack on; 19 R651; reset 0. -/
  scrubTill : Nat
  deriving DecidableEq, Repr

/-- A switched domain, on. -/
def DozeSt.init : DozeSt := ⟨false, none, 0, 0, 0, 0, 0, 0⟩

/-- The sideband port (15 R557 to R563). -/
structure SbSt where
  /-- The bypass joins SB_IN to SB_OUT; 15 R562; reset true (POR_N held). -/
  bypass : Bool
  /-- The port is up; 15 R562; reset false. -/
  portUp : Bool
  /-- SB_BYPASS_N asserted; 22 pins; reset false, DESIGN CHOICE. -/
  pinLow : Bool
  /-- Next MARK due; 15 R559; reset 0. -/
  nextMark : Nat
  /-- When the last frame at SB_IN ends; 15 R562; reset 0. -/
  lastIn : Nat
  /-- The frame being sent on SB_OUT and when it ends, and those behind it; 15 R558; reset none. -/
  sending : Option (SbIn × Nat)
  queue : List SbIn
  /-- STOP frames that failed the checks; 15 R560; reset 0. -/
  stopFails : Nat
  deriving DecidableEq, Repr

/-- What leaves the device at a pin or on a link: the model's record of every write to host memory, message, frame
and reply. -/
inductive OutEv where
  | hostWrite (addr : Nat) (pasid : Option Nat) (tstream : Option Nat) (relaxed : Bool) (bytes : List (BitVec 8))
  | hostRead (addr : Nat) (pasid : Option Nat) (tstream : Option Nat) (len : Nat)
  | msix (vec : Nat)
  | atsRequest (core seq pasid page npages : Nat) (write priv exe : Bool) (tstream : Option Nat)
  | pageRequest (core seq pasid : Nat) (pages : List Nat) (write : Bool) (tstream : Option Nat)
  | invalComplete (itag : Nat)
  | readReply (bytes : List (BitVec 8)) (ur : Bool) (ep : List Bool)
  | configRetry
  | frame (port : Nat) (f : FrameRec)
  | sideband (f : SbIn)
  | sbAbort
  | i3c (bytes : List (BitVec 8))
  | spdm (kind : Nat) (bytes : List (BitVec 8))
  | tdisp (ok : Bool) (code : Nat)
  | syncPulse
  | pin (name : String) (high : Bool)
  deriving DecidableEq, Repr

end Sys2Proof.Machine
end

