-- ==== Sys2Proof/Machine/State.lean ====
section
/-! DEFINITION. The state of the whole device, the reasons a step can stop, and the state after reset: power good with
POR_N still held low and a blank configuration flash (22_package_pins_electrical.md R734, R741). -/

namespace Sys2Proof.Machine

/-- The machine's faults. No step of this model ends in a fault: every error the spec names is a status, a report or a
state of the device. The one constructor is kept so that the type is inhabited; nothing raises it (safe). -/
inductive Fault where
  /-- Raised by nothing; safe. -/
  | never
  deriving DecidableEq, Repr

/-- Refusals. -/
inductive Refusal where
  /-- Raised by an arm of `exec` for a command that has no meaning yet; safe (the machine stops). -/
  | notModelled (mnemonic : String)
  deriving DecidableEq, Repr

/-- The state of the device. -/
structure State where
  /-- Commands and events that wait, first in first out; model's own; reset empty. -/
  pending : List Instr
  /-- What has left the device, newest first; model's own record of its outputs; reset empty. -/
  out : List OutEv
  /-- Draws of free values so far; model's own; reset 0, DESIGN CHOICE. -/
  free : Nat
  /-- Timebase; 02 R64 to R73. -/
  tb : TbSt
  /-- Pace and power of the device; 02 R55 to R62, 19 R657, R665. -/
  pace : PaceSt
  /-- Pace, voltage and temperature of die 0 and die 1; 02 R52 to R61. -/
  dies : Vector DiePace 2
  /-- Limits record in force; 19 R654. -/
  limits : Limits
  /-- Units; 01 R15, R21, R35. -/
  units : UnitTab
  /-- Groups; 01 R22. -/
  groups : GroupSt
  /-- Memory; 12 R398. -/
  mem : MemSt
  /-- Errors in stored words; 12 R396, R406. -/
  ecc : EccSt
  /-- Cores; 08 R241. -/
  cores : Vector CoreSt 192
  /-- Clusters: attention units and trace buffers; 10 R324, R339, 20 R674. -/
  clusters : Vector ClusterSt 24
  /-- HBM channels; 12 R410. -/
  channels : Vector ChanSt 256
  /-- Link ports; 15 R515. -/
  ports : Vector PortSt 32
  /-- Switched domains by position: 0 to 191 cores, 192 to 215 clusters, 216 to 223 stacks, 224 to 255 ports; 19 R648. -/
  doze : Vector DozeSt 256
  /-- Fabric interface; 15 R521 to R556. -/
  fab : FabSt
  /-- Sequence engine; 11 R353 to R393. -/
  seq : SeqSt
  /-- Translation and protection; 13. -/
  xl : XlateSt
  /-- Commands and queues; 14. -/
  cmd : CmdSt
  /-- Host interface; 16, 21. -/
  host : HostSt
  /-- Lease; 17 R600 to R613. -/
  lease : LeaseSt
  /-- Vangaer, fuses and flash; 17, 22. -/
  sec : SecSt
  /-- Audit log; 17 R618 to R623. -/
  audit : AuditSt
  /-- Fault concentrators of die 0 and die 1; 20 R679. -/
  faults : Vector FaultSt 2
  /-- Resets and bring-up; 18. -/
  rst : ResetSt
  /-- Dumps held, oldest first, at most 32; 18 R646; reset none. -/
  dumps : List DumpRec
  /-- Dumps numbered outside leases so far; 17 R624; reset 0. -/
  dumpCount : Nat
  /-- Stop arming: token and expiry; 20 R692; reset none. -/
  stopArm : Option (Nat × Nat)
  /-- Sideband port; 15 R557 to R563. -/
  sb : SbSt
  /-- Straps sampled at POR_N: STRAP_SPIQ, STRAP_I3CA; 22 R732; reset 0, DESIGN CHOICE. -/
  straps : BitVec 3
  deriving DecidableEq, Repr

/-- The timebase at power-on (R67). -/
def TbSt.init : TbSt :=
  { count := 0, frac := 0, freqAdj := 0, locked := false, aligned := false, source := 0, port := 0, offset := 0,
    good := 0, lastValid := 0, sourced := false, everAligned := false, root := false, serving := false, probe := none,
    rootSeen := none, lastSync := 0 }

/-- A die at power-on: 0.70 V held by the regulator (R740), no record published (R752). -/
def DiePace.init : DiePace :=
  { excluded := 0, floor := 0, pace := 0, fallback := false, breach := false, record := 0, profile := 1, vcore := 700,
    trim := 0, derate := 0, derating := false, tjHigh := false, tj := 0, changing := none, awaiting := true, winRecord := 0 }

/-- Pace and power at power-on. -/
def PaceSt.init : PaceSt :=
  { record := 0, published := false, sample := none, lastSample := none, winRecord := 0, breachSeen := false,
    pHist := [], pavg := 0, winSum := 0, winN := 0, winTj := 0, pwin := 0, tjwin := 0, winStamp := 0, cap := false,
    unmet := false, unmetAt := none }

/-- Groups at power-on: none (R22), every epoch 0x0001 (R37). -/
def GroupSt.init : GroupSt := { tab := [], epoch := [], wrap := [], remote := [], foreign := [] }

/-- Memory at power-on: nothing listed. -/
def MemSt.init : MemSt := { bytes := [], poison := [], tags := [], lineKey := [], keyGen := 0, keyNext := 1 }

/-- No error in any word. -/
def EccSt.init : EccSt := { lines := [], counts := [] }

/-- An HBM channel at power-on: not trained, no lane replaced (R411). -/
def ChanSt.init : ChanSt :=
  { train := 0x07FFE00000000000, baseGen := 0, lost := false, poisonAll := false, laneErr := [], laneTold := [], testing := none }

/-- A port at power-on: DOWN (R515). -/
def PortSt.init : PortSt :=
  { phase := .down, authFail := 0, stale := 0, replay := 0, queue := [], replayBuf := [],
    credits := Vector.replicate 4 0, lastRetrain := none, lost := false }

/-- The fabric interface at power-on with a blank identity record. -/
def FabSt.init : FabSt :=
  { ident := 0, routes := [], parked := [], tokens := 65536, tokenAt := 0, links := [], held := [], waiting := [], outbox := [], reqs := [],
    tidNext := 0, staleCount := 0, refusedCount := 0, mkeyCtr := 0, slots := [], insts := [], instCount := [],
    earlyReady := [], digLocal := [], digPartner := [] }

/-- The sequence engine at power-on: not configured (R353), correction factor 1024 (R370). -/
def SeqSt.init : SeqSt :=
  { geom := none, cfg := none, ctxs := [], stepNo := 0, cf := 1024, nextCfg := none, step := none, planned := none, closing := none,
    pfCount := 0, setFloors := [], reserve := [], prefixKey := none, nextFrame := 0 }

/-- Translation tables at power-on: empty (R430). -/
def XlateSt.init : XlateSt :=
  { pasids := Vector.replicate 16 0, segs := [], regions := [], invals := [], atsOn := false }

/-- Queues at power-on: none (R455). -/
def CmdSt.init : CmdSt := { qps := [], inflight := [], nextId := 1, prepared := [], decisions := [], turn := (0, 0) }

/-- No lease (R600). -/
def LeaseSt.init : LeaseSt :=
  { openL := false, closing := none, closeCmd := none, verify := false, hadLease := false, id := 0, profile := 0,
    mirror := false, injrate := 0, openStamp := 0, tenant := 0, epubGen := 0, kA := none, kD := none,
    fabSecret := none, mirSecret := none, scrubbed := false, logId := 0, openedSeq := 0, guards := [0, 0, 0, 0, 0], dumpNo := 0,
    dissolved := [] }

/-- A stream not secure (R580). -/
def StreamSt.init : StreamSt := ⟨false, 0, none, none⟩

/-- Vangaer with blank configuration records (R734) and no fuse blown. -/
def SecSt.init : SecSt :=
  { sessions := [], streams := Vector.replicate 5 .init, ideSessions := [], makerDbg := true, dbgOpen := false, stopped := false,
    halted := false, instSlots := 0, instHash := 0, instKey := 0, svn := 0, serial := 0, grade := false, authInst := 0,
    authMaker := 0, plain := none, fwNext := none, fwNow := 0, fwOk := true, chainOk := true, replies := [],
    flashOos := [], flashEsc := false, flashIdent := 0, flashLimits := .default, lostLease := none }

/-- An empty audit log. -/
def AuditSt.init : AuditSt :=
  { entries := [], chain := 0, nextSeq := 0, archived := 0, ahead := [], sinceCkpt := 0, ckptAt := 0, gap := 0 }

/-- POR_N held low. -/
def ResetSt.init : ResetSt :=
  { porAt := none, acts := [], hist := [], allReady := false, bridge := false, bridgeDue := false, tripped := false, scrubDone := false }

/-- The sideband while POR_N is low: bypass closed (R729). -/
def SbSt.init : SbSt := { bypass := true, portUp := false, pinLow := false, nextMark := 0, lastIn := 0, sending := none, queue := [], stopFails := 0 }

/-- The device right after power is good, POR_N held. -/
def State.reset : State :=
  { pending := [], out := [], free := 0, tb := .init, pace := .init, dies := Vector.replicate 2 .init,
    limits := .default, units := .init, groups := .init, mem := .init, ecc := .init, cores := Vector.replicate 192 .init,
    clusters := Vector.replicate 24 .init, channels := Vector.replicate 256 .init, ports := Vector.replicate 32 .init,
    doze := Vector.replicate 256 .init, fab := .init, seq := .init, xl := .init, cmd := .init, host := .init,
    lease := .init, sec := .init, audit := .init, faults := Vector.replicate 2 .init, rst := .init, dumps := [],
    dumpCount := 0, stopArm := none, sb := .init, straps := 0 }

end Sys2Proof.Machine
end

