-- ==== Sys2Proof/Machine/Ops.lean ====
section
/-! DEFINITION. Named operations over the state that every family uses: the timebase, free values, outputs, units and
their identifiers, address maps and memory. -/

namespace Sys2Proof.Machine

/-- What a meaning answers. -/
abbrev Res := Host.Outcome State Fault Refusal

/-- The timebase, ns (R64). -/
def now (s : State) : Nat := s.tb.count.toNat

/-- A free value and the state that has drawn it. -/
def drawFree (s : State) : Nat × State := (Config.free s.free, { s with free := s.free + 1 })

/-- A random draw of Vangaer. -/
def drawRandom (s : State) : Nat × State := (Config.random s.free, { s with free := s.free + 1 })

/-- Sends something out of the device. -/
def emit (s : State) (e : OutEv) : State := { s with out := e :: s.out }

/-- A lease is open, from the commit of LEASE_OPEN to step 1 of LEASE_CLOSE (R703). -/
def leaseLive (s : State) : Bool := s.lease.openL && s.lease.closing.isNone

/-- Gives a management message to the fabric interface, which frames it at the tick (R536). `own`: the message belongs to the lease, if
one is live. -/
def sendMsg (s : State) (own : Bool) (peer kind : Nat) (args : List Nat) : State :=
  { s with fab := { s.fab with outbox := s.fab.outbox ++ [(peer, own && leaseLive s, kind, args)] } }

/-- Total read of a vector by a number. -/
def vget {α : Type} {n : Nat} (v : Vector α n) (d : α) (i : Nat) : α := v.toList.getD i d

/-- Write of a vector by a number; an index beyond the end changes nothing. -/
def vset {α : Type} {n : Nat} (v : Vector α n) (i : Nat) (x : α) : Vector α n := v.setIfInBounds i x

/-! ### Units (R14 to R17, R749) -/

/-- Die of a core, of a cluster. -/
def coreDie (c : Nat) : Nat := c / 96
def coreCluster (c : Nat) : Nat := c / 8
def coreRank (c : Nat) : Nat := c % 8

/-- `Fin` from a number, reduced; used where the number is in range. -/
def fin (n : Nat) [NeZero n] (i : Nat) : Fin n := Fin.ofNat n i

/-- KIND of a unit (R15). -/
def kindOf : PUnit → Nat
  | .engine _ _ => 0
  | .core _ => 1
  | .cluster _ => 2
  | .die _ => 3
  | .device => 4
  | .channel _ => 5
  | .port _ => 6
  | .attn _ => 7
  | .seqEngine _ => 8
  | .hostIf => 9
  | .vangaer => 10
  | .mgmt _ => 11

/-- A physical UID from its fields (R14). -/
def mkUid (kind die cluster core etype index : Nat) : Nat :=
  kind * 2 ^ 27 + die * 2 ^ 26 + cluster * 2 ^ 22 + core * 2 ^ 19 + etype * 2 ^ 17 + index * 2 ^ 8

/-- The UID of a unit (R14, R15). -/
def uidOf : PUnit → Nat
  | .engine c e => mkUid 0 (c / 96) (c / 8 % 12) (c % 8) e 0
  | .core c => mkUid 1 (c / 96) (c / 8 % 12) (c % 8) 0 0
  | .cluster k => mkUid 2 (k / 12) (k % 12) 0 0 0
  | .die d => mkUid 3 d 0 0 0 0
  | .device => mkUid 4 0 0 0 0 0
  | .channel n => mkUid 5 (n / 128) 0 0 0 (n % 128)
  | .port p => mkUid 6 (p / 16) 0 0 0 (p % 16)
  | .attn k => mkUid 7 (k / 12) (k % 12) 0 0 0
  | .seqEngine d => mkUid 8 d 0 0 0 0
  | .hostIf => mkUid 9 0 0 0 0 0
  | .vangaer => mkUid 10 0 0 0 0 0
  | .mgmt d => mkUid 11 d 0 0 0 0

/-- The unit that the fields of a UID point at, before unused fields are checked. -/
def uidUnit (n : Nat) : Option PUnit :=
  let d := bits n 26 26
  let cl := bits n 25 22
  let ix := bits n 16 8
  match bits n 30 27 with
  | 0 => some (.engine (fin 192 (d * 96 + cl * 8 + bits n 21 19)) (fin 4 (bits n 18 17)))
  | 1 => some (.core (fin 192 (d * 96 + cl * 8 + bits n 21 19)))
  | 2 => some (.cluster (fin 24 (d * 12 + cl)))
  | 3 => some (.die (fin 2 d))
  | 4 => some .device
  | 5 => some (.channel (fin 256 (d * 128 + ix)))
  | 6 => some (.port (fin 32 (d * 16 + ix)))
  | 7 => some (.attn (fin 24 (d * 12 + cl)))
  | 8 => some (.seqEngine (fin 2 d))
  | 9 => some .hostIf
  | 10 => some .vangaer
  | 11 => some (.mgmt (fin 2 d))
  | _ => none

/-- The unit a physical UID names; `none` for one that R16 rejects. -/
def unitOfUid (n : Nat) : Option PUnit :=
  match uidUnit n with
  | none => none
  | some u => if uidOf u = n then some u else none

/-- The lowest bit, within the UID, of the lowest bad field of a malformed physical UID (R16, R750). -/
def uidBadBit (n : Nat) : Nat :=
  let k := bits n 30 27
  let useCl := k ≤ 2 || k = 7
  let useCore := k ≤ 1
  let useE := k = 0
  let useIx := k = 5 || k = 6
  let ixMax := if k = 5 then 127 else 15
  if bits n 7 0 ≠ 0 then 0
  else if bits n 16 8 ≠ 0 && (!useIx || bits n 16 8 > ixMax) then 8
  else if bits n 18 17 ≠ 0 && !useE then 17
  else if bits n 21 19 ≠ 0 && !useCore then 19
  else if bits n 25 22 ≠ 0 && (!useCl || bits n 25 22 > 11) then 22
  else if bits n 26 26 ≠ 0 && (k = 4 || k = 9 || k = 10) then 26
  else 27

/-- The core a unit lies in or is. -/
def coreOf : PUnit → Option (Fin 192)
  | .engine c _ => some c
  | .core c => some c
  | _ => none

/-- The cluster of a core. -/
def clusterOfCore (c : Fin 192) : Fin 24 := fin 24 (c / 8)

/-- The die of a cluster. -/
def dieOfCluster (k : Fin 24) : Fin 2 := fin 2 (k / 12)

/-- The containers of a unit, innermost first, the device last (R749). -/
def containers : PUnit → List PUnit
  | .engine c _ => [.core c, .cluster (clusterOfCore c), .die (dieOfCluster (clusterOfCore c)), .device]
  | .core c => [.cluster (clusterOfCore c), .die (dieOfCluster (clusterOfCore c)), .device]
  | .cluster k => [.die (dieOfCluster k), .device]
  | .attn k => [.cluster k, .die (dieOfCluster k), .device]
  | .die _ => [.device]
  | .seqEngine d => [.die d, .device]
  | .mgmt d => [.die d, .device]
  | .channel n => [.die (fin 2 (n / 128)), .device]
  | .port p => [.die (fin 2 (p / 16)), .device]
  | .hostIf => [.device]
  | .vangaer => [.device]
  | .device => []

/-- Roots of the reset domains that hold a unit, innermost first (R631). -/
def domains : PUnit → List PUnit
  | .engine c _ => [.core c, .cluster (clusterOfCore c), .die (dieOfCluster (clusterOfCore c)), .device]
  | .core c => [.core c, .cluster (clusterOfCore c), .die (dieOfCluster (clusterOfCore c)), .device]
  | .cluster k => [.cluster k, .die (dieOfCluster k), .device]
  | .attn k => [.cluster k, .die (dieOfCluster k), .device]
  | .die d => [.die d, .device]
  | .seqEngine d => [.die d, .device]
  | .mgmt _ => [.device]
  | .port p => [.port p, .device]
  | .device => [.device]
  | .channel n => [.channel n]
  | .hostIf => [.hostIf]
  | .vangaer => []

/-- Every unit, in ascending UID order (R672). -/
def allUnits : List PUnit :=
  (List.finRange 192).flatMap (fun c => (List.finRange 4).map fun e => .engine c e)
    ++ (List.finRange 192).map .core ++ (List.finRange 24).map .cluster ++ (List.finRange 2).map .die ++ [.device]
    ++ (List.finRange 256).map .channel ++ (List.finRange 32).map .port ++ (List.finRange 24).map .attn
    ++ (List.finRange 2).map .seqEngine ++ [.hostIf, .vangaer] ++ (List.finRange 2).map .mgmt

/-- The units a unit contains (R749). -/
def contents (u : PUnit) : List PUnit := allUnits.filter fun v => u ∈ containers v

/-- The units of a reset domain, its root included (R631). -/
def domainUnits (root : PUnit) : List PUnit := allUnits.filter fun v => root ∈ domains v

/-- A unit's record. -/
def unitRec (t : UnitTab) : PUnit → UnitRec
  | .engine c e => vget t.engines .init (c * 4 + e)
  | .core c => t.cores[c]
  | .cluster k => t.clusters[k]
  | .die d => t.dies[d]
  | .device => t.device
  | .channel n => t.channels[n]
  | .port p => t.ports[p]
  | .attn k => t.attns[k]
  | .seqEngine d => t.seqs[d]
  | .hostIf => t.hostIf
  | .vangaer => t.vangaer
  | .mgmt d => t.mgmts[d]

/-- The table with a unit's record replaced. -/
def setUnitRec (t : UnitTab) (u : PUnit) (r : UnitRec) : UnitTab :=
  match u with
  | .engine c e => { t with engines := vset t.engines (c * 4 + e) r }
  | .core c => { t with cores := t.cores.set c r }
  | .cluster k => { t with clusters := t.clusters.set k r }
  | .die d => { t with dies := t.dies.set d r }
  | .device => { t with device := r }
  | .channel n => { t with channels := t.channels.set n r }
  | .port p => { t with ports := t.ports.set p r }
  | .attn k => { t with attns := t.attns.set k r }
  | .seqEngine d => { t with seqs := t.seqs.set d r }
  | .hostIf => { t with hostIf := r }
  | .vangaer => { t with vangaer := r }
  | .mgmt d => { t with mgmts := t.mgmts.set d r }

def getUnit (s : State) (u : PUnit) : UnitRec := unitRec s.units u

def modUnit (s : State) (u : PUnit) (f : UnitRec → UnitRec) : State :=
  { s with units := setUnitRec s.units u (f (getUnit s u)) }

def setOwn (s : State) (u : PUnit) (x : UState) : State := modUnit s u fun r => { r with own := x }

/-- Code of a state, in the state table's order (01_architecture.md). -/
def stateCode : UState → Nat
  | .ready => 0
  | .degraded => 1
  | .notReady => 2
  | .resetting => 3
  | .fenced => 4
  | .outOfService => 5

def stateOfCode : Nat → UState
  | 0 => .ready
  | 1 => .degraded
  | 2 => .notReady
  | 3 => .resetting
  | 4 => .fenced
  | _ => .outOfService

def worse (a b : UState) : UState := if stateCode a < stateCode b then b else a

/-- READY or DEGRADED. -/
def isReady (x : UState) : Bool := stateCode x ≤ 1

/-- Whether HBM is being cleared or verified, when every channel reports NOT_READY (R428). -/
def hbmBusy (s : State) : Bool :=
  match s.lease.closing with
  | some (.hbmClear _) => true
  | some (.verify _) => true
  | _ => false

/-- Whether the power manager holds a channel's stack controller off (R409, R648). -/
def stackOff (s : State) (n : Nat) : Bool := (vget s.doze .init (216 + n / 32)).off

/-- The worst of a unit's own state and what it takes over: FENCED and RESETTING of its domains (R637), OUT_OF_SERVICE
of its containers (R643, R644), NOT_READY of its cluster for a core, an engine or an attention unit (R629), and the
NOT_READY of a channel during a clear, a verify pass or a MEM_TEST (R417, R428). -/
def stateAwake (s : State) (u : PUnit) : UState :=
  let own := (getUnit s u).own
  let dom := (domains u).foldl (fun a r =>
    let x := (getUnit s r).own
    if x = .fenced ∨ x = .resetting then worse a x else a) own
  let con := (containers u).foldl (fun a r => if (getUnit s r).own = .outOfService then worse a .outOfService else a) dom
  match u with
  | .engine c _ => if isReady (getUnit s (.cluster (clusterOfCore c))).own then con else worse con .notReady
  | .core c => if isReady (getUnit s (.cluster (clusterOfCore c))).own then con else worse con .notReady
  | .attn k => if isReady (getUnit s (.cluster k)).own then con else worse con .notReady
  | .channel n => if hbmBusy s ∨ (s.channels[n]).testing.isSome then worse con .notReady else con
  | _ => con

/-- A unit's state with the NOT_READY of a channel whose stack controller is switched off (R51). -/
def baseState (s : State) (u : PUnit) : UState :=
  match u with
  | .channel n => if stackOff s n then worse (stateAwake s u) .notReady else stateAwake s u
  | _ => stateAwake s u

/-- ALLREADY: every in-service unit of the device is ready (R628); a stack that only dozes takes nothing from it (R13, R651;
DESIGN CHOICE, log entry 83). -/
def allReady (s : State) : Bool :=
  allUnits.all fun u => u = .device || isReady (stateAwake s u) || stateAwake s u = .outOfService

/-- The state a unit reports (R21, R629). -/
def reported (s : State) (u : PUnit) : UState :=
  let b := baseState s u
  let b := if u = .device ∧ isReady b ∧ ¬ allReady s then .notReady else b
  if isReady b then
    if b = .degraded ∨ (contents u).any (fun v => (getUnit s v).own = .outOfService ∨ (getUnit s v).own = .degraded)
    then .degraded else .ready
  else b

/-- A FUID of a UID of this device (R18). -/
def plainOf (s : State) : Nat := bits s.fab.ident.toNat 511 511
def devnumOf (s : State) : Nat := bits s.fab.ident.toNat 510 496

/-- This device as SRC and DST of a frame name it (R534). -/
def selfId (s : State) : Nat := plainOf s * 2 ^ 15 + devnumOf s

/-- The FUID of a UID on this device. -/
def fuidOf (s : State) (uid : Nat) : Nat := plainOf s * 2 ^ 63 + devnumOf s * 2 ^ 48 + uid

/-- The root of the innermost fenced or resetting domain that gives a unit its state (R483). -/
def fencedRoot (s : State) (u : PUnit) : PUnit :=
  ((domains u).find? fun r => (getUnit s r).own = .fenced ∨ (getUnit s r).own = .resetting).getD u

/-! ### Address maps (R398 to R401) -/

/-- Where a device address lies. -/
inductive Place where
  | die (d off : Nat)
  | cluster (k off : Nat)
  | scratch (c off : Nat)
  | hbm (off : Nat)
  deriving DecidableEq, Repr

def hbmBase : Nat := 0x800000000
def hbmEnd : Nat := 0x6800000000
def leaseHbmEnd : Nat := 0x67F0000000

/-- The store a device address lies in; `none` where the map has nothing (R398). -/
def placeOf (a : Nat) : Option Place :=
  if hbmBase ≤ a ∧ a < hbmEnd then some (.hbm (a - hbmBase))
  else if a < 0x800000000 then
    let d := a / 0x400000000
    let o := a % 0x400000000
    if o < 0x4000000 then some (.die d o)
    else if 0x100000000 ≤ o ∧ o < 0x100000000 + 12 * 0x4000000 then
      let c := (o - 0x100000000) / 0x4000000
      let q := (o - 0x100000000) % 0x4000000
      if q < 0x2800000 then some (.cluster (d * 12 + c) q) else none
    else if 0x200000000 ≤ o ∧ o < 0x200000000 + 12 * 0x8000000 then
      let c := (o - 0x200000000) / 0x8000000
      let r := (o - 0x200000000) % 0x8000000 / 0x800000
      let q := (o - 0x200000000) % 0x800000
      if q < 0x500000 ∧ r < 8 then some (.scratch (d * 96 + c * 8 + r) q) else none
    else none
  else none

/-- Bytes from an address to the end of its store. -/
def placeRoom (a : Nat) : Nat :=
  match placeOf a with
  | none => 0
  | some (.die _ o) => 0x4000000 - o
  | some (.cluster _ o) => 0x2800000 - o
  | some (.scratch _ o) => 0x500000 - o
  | some (.hbm o) => 0x6000000000 - o

/-- Whether a range lies in one store. -/
def inStore (a n : Nat) : Bool := n ≤ placeRoom a

/-- Device addresses of the stores (R398). -/
def dieStoreAt (d : Nat) : Nat := d * 0x400000000
def clusterStoreAt (k : Nat) : Nat := k / 12 * 0x400000000 + 0x100000000 + k % 12 * 0x4000000
def scratchAt (c : Nat) : Nat := c / 96 * 0x400000000 + 0x200000000 + c / 8 % 12 * 0x8000000 + c % 8 * 0x800000

/-- The tenant part of a die store ends here (R400). -/
def dieTenantEnd : Nat := 0x3000000

/-- Whether a range lies wholly in the tenant part of a die store (R400). -/
def inDieTenant (a n : Nat) : Bool :=
  match placeOf a with
  | some (.die _ o) => o + n ≤ dieTenantEnd
  | _ => false

/-- Whether a range lies in the lease HBM (R401). -/
def inLeaseHbm (a n : Nat) : Bool := hbmBase ≤ a && a + n ≤ leaseHbmEnd

/-- The channel of an HBM device address (R403). -/
def hbmChannel (a : Nat) : Nat :=
  let o := a - hbmBase
  ((o >>> 8) ^^^ (o >>> 16) ^^^ (o >>> 24)) % 256

/-- The byte offset of an HBM device address within its channel (R403). -/
def hbmOffset (a : Nat) : Nat :=
  let o := a - hbmBase
  (o >>> 16) * 256 + o % 256

/-- The device address of a channel's byte offset, the inverse of R403. -/
def hbmAddr (n off : Nat) : Nat :=
  let hi := off / 256
  let lo8 := (n ^^^ hi ^^^ (hi >>> 8)) % 256
  hbmBase + hi * 65536 + lo8 * 256 + off % 256

/-- A window of a core's local address map, as a device address; `peers` admits the other ranks' windows (R399). -/
def localPlace (k : Nat) (self : Option Nat) (a : Nat) : Option Nat :=
  if a < 0x500000 then self.map fun c => scratchAt c + a
  else if 0x1000000 ≤ a ∧ a < 0x1000000 + 8 * 0x800000 then
    let r := (a - 0x1000000) / 0x800000
    let q := (a - 0x1000000) % 0x800000
    if q < 0x500000 then
      match self with
      | some c => if c % 8 = r then some (scratchAt c + q) else none
      | none => some (scratchAt (k * 8 + r) + q)
    else none
  else if 0x10000000 ≤ a ∧ a < 0x12800000 then some (clusterStoreAt k + (a - 0x10000000))
  else if 0x20000000 ≤ a ∧ a < 0x24000000 then some (dieStoreAt (k / 12) + (a - 0x20000000))
  else none

/-- A local range of a core as a device address: in one window, and outside the system part of a die store (R399,
R400). -/
def coreRange (c : Fin 192) (a n : Nat) : Option Nat :=
  match localPlace (c / 8) (some c) a with
  | none => none
  | some p =>
    match placeOf p with
    | some (.die _ o) => if o + n ≤ dieTenantEnd then some p else none
    | _ => if inStore p n then some p else none

/-- The 64-byte word or line of an address. -/
def lineOf (a : Nat) : Nat := a / 64

/-- The words or lines a range touches. -/
def linesOf (a n : Nat) : List Nat :=
  if n = 0 then [] else (List.range (lineOf (a + n - 1) + 1 - lineOf a)).map (lineOf a + ·)

/-! ### Switched domains (R648) -/

/-- A request to a domain that is off starts its wake (R650). -/
def startWake (t : Nat) (d : DozeSt) : DozeSt :=
  if d.off && d.wakeAt.isNone then { d with wakeAt := some t, dozeNs := d.dozeNs + (t - d.offAt) } else d

/-- Notes work in a switched domain, by position: its idle time counts from here (R648), and it wakes (R650). -/
def touchDoze (s : State) (i : Nat) : State :=
  { s with doze := vset s.doze i { startWake (now s) (vget s.doze .init i) with idleAt := now s } }

/-- Notes an access to a cluster store or an HBM stack. -/
def touchAddr (s : State) (a : Nat) : State :=
  match placeOf a with
  | some (.cluster k _) => touchDoze s (192 + k)
  | some (.hbm _) => touchDoze s (216 + hbmChannel a / 32)
  | _ => s

/-- Notes an access to every store of a range. -/
def touchRange (s : State) (a n : Nat) : State :=
  if n = 0 then s else (List.range ((a + n - 1) / 64 + 1 - a / 64)).foldl (fun s i => touchAddr s (max a ((a / 64 + i) * 64))) s

/-- Whether an address lies in a store whose domain is switched off (R51, R648). -/
def domainOff (s : State) (a : Nat) : Bool :=
  match placeOf a with
  | some (.cluster k _) => (vget s.doze .init (192 + k)).off
  | some (.hbm _) => (vget s.doze .init (216 + hbmChannel a / 32)).off
  | _ => false

/-- Whether a range touches a store whose domain is switched off. -/
def rangeOff (s : State) (a n : Nat) : Bool := (linesOf a n).any fun l => domainOff s (l * 64)

/-! ### Memory (R396, R397, R405 to R408) -/

def isHbm (a : Nat) : Bool := hbmBase ≤ a && a < hbmEnd

/-- The key generation a line was written under (R408). -/
def lineGen (s : State) (line : Nat) : Nat :=
  match smapGet 0 s.mem.lineKey line with
  | 0 => (vget s.channels .init (hbmChannel (line * 64))).baseGen
  | g + 1 => g

/-- Whether a line reads as the decryption of other ciphertext (R408). -/
def lineForeign (s : State) (line : Nat) : Bool := isHbm (line * 64) && lineGen s line != s.mem.keyGen

/-- A byte as stored, without decryption. -/
def rawByte (s : State) (a : Nat) : Byte := smapGet 0 s.mem.bytes a

/-- A byte as an access under the key in force reads it (R407, R408). -/
def readByte (s : State) (a : Nat) : Byte :=
  if lineForeign s (lineOf a) then
    Config.foreignByte (lineGen s (lineOf a)) s.mem.keyGen a ((List.range 64).map fun i => rawByte s (lineOf a * 64 + i))
  else rawByte s a

/-- `n` bytes from an address. -/
def readBytes (s : State) (a n : Nat) : List Byte := (List.range n).map fun i => readByte s (a + i)

/-- A little-endian number of `n` bytes. -/
def readNat (s : State) (a n : Nat) : Nat := fromLe (readBytes s a n)

/-- Whether every line of a line's channel is poisoned but those the poison table names (R632). -/
def poisonBase (s : State) (line : Nat) : Bool :=
  isHbm (line * 64) && (vget s.channels .init (hbmChannel (line * 64))).poisonAll

/-- The errors of a word or line. -/
def eccOf (s : State) (line : Nat) : EccLine := smapGet .none s.ecc.lines line

def setEcc (s : State) (line : Nat) (e : EccLine) : State :=
  { s with ecc := { s.ecc with lines := smapSet .none s.ecc.lines line e } }

/-- Whether the poison bit of a word or line reads as set, a line of a lost channel included (R397, R413). -/
def poisonSet (s : State) (line : Nat) : Bool :=
  (smapGet false s.mem.poison line != poisonBase s line) || (eccOf s line).bad
    || (isHbm (line * 64) && (vget s.channels .init (hbmChannel (line * 64))).lost)

/-- Whether the errors of a word or line cannot be corrected: one of its own kind, two in one codeword of an SRAM word, or errors in
more than two lanes of a line (R396, R406). -/
def errsBad (line : Nat) (es : List Nat) : Bool :=
  es.contains 1 || (if isHbm (line * 64) then decide (2 < es.eraseDups.length) else !decide (es.map fun k => (k - 2) % 8).Nodup)

/-- Whether a read of a word or line finds it poisoned: its poison bit is set, or the read meets errors that it cannot correct
(R396, R406). -/
def poisoned (s : State) (line : Nat) : Bool := poisonSet s line || errsBad line (eccOf s line).errs

/-- Whether some ranges touch a line of a lost channel: writes to it fail with ST_POISONED (R413). -/
def channelsLost (s : State) (rs : List Rng) : Bool :=
  rs.any fun r => (linesOf r.lo r.len).any fun l => isHbm (l * 64) && (vget s.channels .init (hbmChannel (l * 64))).lost

/-- Whether a range touches a poisoned word. -/
def anyPoison (s : State) (a n : Nat) : Bool := (linesOf a n).any (poisoned s)

/-- The first poisoned address of a range. -/
def firstPoison (s : State) (a n : Nat) : Option Nat := (linesOf a n).find? (poisoned s)

/-- A word's errors once it is written whole: none are left, but what reads have met before is still to be reported (R424). -/
def freshEcc (e : EccLine) : EccLine := { e with errs := [], bad := false }

/-- The errors of words that are written whole, those that hold of `p`. -/
def freshLines (p : Nat → Bool) (xs : Smap EccLine) : Smap EccLine :=
  xs.filterMap fun x =>
    let e := if p x.1 then freshEcc x.2 else x.2
    if e = .none then none else some (x.1, e)

def setPoison (s : State) (line : Nat) (b : Bool) : State :=
  setEcc { s with mem := { s.mem with poison := smapSet false s.mem.poison line (b != poisonBase s line) } } line (freshEcc (eccOf s line))

/-- A read that meets an error: one it can correct is corrected, one it cannot sets the poison bit; the tick reports or counts it
(R396, R406, R420). -/
def meetError (s : State) (line : Nat) : State :=
  let e := eccOf s line
  if e.errs.isEmpty then s
  else if errsBad line e.errs then
    setEcc s line (if poisonSet s line then { e with errs := [] } else { e with errs := [], bad := true, due := true })
  else setEcc s line { e with errs := [], fixed := e.fixed ++ e.errs.eraseDups }

/-- A demand read of a word or line: what it meets, and one more read to be counted of a word already poisoned (R424). -/
def demandLine (s : State) (line : Nat) : State :=
  if poisonSet s line then
    let e := eccOf s line
    setEcc s line { e with reads := e.reads + 1 }
  else meetError s line

/-- A demand read of a range. -/
def demand (s : State) (a n : Nat) : State := (linesOf a n).foldl demandLine s

/-- A demand read of some ranges. -/
def demandAll (s : State) (rs : List Rng) : State := rs.foldl (fun s r => demand s r.lo r.len) s

/-- Makes a line that was written under another key one of the key in force, its bytes those it reads as: what the
merge read of a partial write does (R397, R408). -/
def adoptLine (s : State) (line : Nat) : State :=
  if lineForeign s line then
    let bs := readBytes s (line * 64) 64
    { s with mem := { s.mem with
        bytes := smapSetRun 0 s.mem.bytes (line * 64) bs
        lineKey := smapSet 0 s.mem.lineKey line (s.mem.keyGen + 1) } }
  else s

/-- One 64-byte word's part of a write: a whole word clears poison; a part keeps it, and its merge read may meet an error
(R397). -/
def writeLine (s : State) (a : Nat) (bs : List Byte) : State :=
  let line := lineOf a
  let whole := a % 64 = 0 ∧ bs.length = 64
  let s := if whole then s else meetError (adoptLine s line) line
  let s := { s with mem := { s.mem with bytes := smapSetRun 0 s.mem.bytes a bs } }
  if whole then
    let s := if isHbm a then
      let base := (vget s.channels .init (hbmChannel a)).baseGen
      let v := if base = s.mem.keyGen then 0 else s.mem.keyGen + 1
      { s with mem := { s.mem with lineKey := smapSet 0 s.mem.lineKey line v } } else s
    setPoison s line false
  else s

/-- Writes bytes, word by word. `fuel` is the number of words at most touched. -/
def writeWords (s : State) (fuel a : Nat) (bs : List Byte) : State :=
  match fuel with
  | 0 => s
  | f + 1 =>
    if bs.isEmpty then s
    else
      let n := 64 - a % 64
      writeWords (writeLine s a (bs.take n)) f (a + n) (bs.drop n)

/-- Writes bytes from an address. -/
def writeBytes (s : State) (a : Nat) (bs : List Byte) : State := writeWords s (bs.length / 64 + 2) a bs

/-- Writes a little-endian number of `n` bytes. -/
def writeNat (s : State) (a n x : Nat) : State := writeBytes s a (leBytes n x)

/-- Clears a range of an SRAM store: bytes zero, poison gone (R608). -/
def clearRange (s : State) (a n : Nat) : State :=
  { s with
    ecc := { s.ecc with lines := freshLines (fun l => a / 64 ≤ l && l < (a + n) / 64) s.ecc.lines }
    mem := { s.mem with
      bytes := smapClear s.mem.bytes a (a + n)
      poison := smapClear s.mem.poison (a / 64) ((a + n) / 64) } }

/-- Clears every line of one channel under the key in force: zero data, TAG 0, POISON 0 (R410). -/
def clearChannel (s : State) (n : Nat) : State :=
  let mine := fun a => isHbm a && hbmChannel a = n
  let s := { s with
    ecc := { s.ecc with lines := freshLines (fun l => mine (l * 64)) s.ecc.lines }
    mem := { s.mem with
      bytes := s.mem.bytes.filter fun e => !mine e.1
      poison := s.mem.poison.filter fun e => !mine (e.1 * 64)
      tags := s.mem.tags.filter fun e => !mine (e.1 * 64)
      lineKey := s.mem.lineKey.filter fun e => !mine (e.1 * 64) } }
  { s with channels := vset s.channels n { vget s.channels .init n with baseGen := s.mem.keyGen, poisonAll := false } }

/-- Clears all of HBM under the key in force (R426). -/
def clearHbm (s : State) : State :=
  { s with
      mem := { s.mem with
        bytes := s.mem.bytes.filter fun e => !isHbm e.1
        poison := s.mem.poison.filter fun e => !isHbm (e.1 * 64)
        tags := []
        lineKey := [] }
      ecc := { s.ecc with lines := freshLines (fun l => isHbm (l * 64)) s.ecc.lines }
      channels := s.channels.map fun c => { c with baseGen := s.mem.keyGen, poisonAll := false } }

/-- Installs a freshly drawn key in every channel controller (R407, R602, R608). -/
def installKey (s : State) : State :=
  { s with mem := { s.mem with keyGen := s.mem.keyNext, keyNext := s.mem.keyNext + 1 } }

/-- Memory's canonical form. -/
def memWf (m : MemSt) : Bool :=
  smapWf 0 m.bytes && smapWf false m.poison && smapWf 0 m.tags && smapWf 0 m.lineKey

end Sys2Proof.Machine
end

