-- ==== Sys2Proof/Machine/Report.lean ====
section
/-! DEFINITION. What the device writes on its own account: MSI-X messages, events, audit entries, fault records and
epoch changes (14_command_interface.md R467, R486 to R488; 16_host_interface.md R577; 17_security_and_leasing.md R618
to R622; 20_debug_and_telemetry.md R679 to R687; 01_architecture.md R35 to R42), and the expansion of groups that
epoch changes follow (R24 to R26). -/

namespace Sys2Proof.Machine

/-! ### MSI-X (R467, R577) -/

/-- An MSI-X table entry; the default has only its Mask bit set (R725). -/
def msixEntry (s : State) (vec : Nat) : BitVec 128 := smapGet (BitVec.ofNat 128 (2 ^ 96)) s.host.msix vec

/-- Whether a vector, or the function, is masked. -/
def msixMasked (s : State) (vec : Nat) : Bool := s.host.fmask || (msixEntry s vec).toNat.testBit 96

/-- Sends a vector's message, or sets its pending bit while it is masked. -/
def msixSend (s : State) (vec : Nat) : State :=
  if msixMasked s vec then { s with host := { s.host with pend := smapSet false s.host.pend vec true } }
  else emit { s with host := { s.host with outst := smapSet false s.host.outst vec true } } (.msix vec)

/-- A message after a completion or an event, unless one is outstanding on the vector (R467). -/
def msixNotify (s : State) (vec : Nat) : State := if smapGet false s.host.outst vec then s else msixSend s vec

/-! ### Requests to the host (R566, R573) -/

/-- The IDE stream on which requests for the lease go out with the T bit set: the bound one while the TDI is in RUN; `none` where T is
clear (R573). -/
def leaseStream (s : State) : Option Nat := if s.host.tdi = .run then s.host.bound.map (·.1) else none

/-- A write to host memory as memory requests of at most 512 bytes, Max_Payload_Size, cut where addresses are multiples of it (R566;
DESIGN CHOICE, log entry 136). -/
def hostPut (fuel : Nat) (s : State) (addr : Nat) (pasid tstream : Option Nat) (relaxed : Bool) (bs : List Byte) : State :=
  match fuel with
  | 0 => s
  | f + 1 =>
    if bs.isEmpty then s
    else
      let n := 512 - addr % 512
      hostPut f (emit s (.hostWrite addr pasid tstream relaxed (bs.take n))) (addr + n) pasid tstream relaxed (bs.drop n)

/-- Requests that a write of so many bytes takes at most. -/
def putFuel (n : Nat) : Nat := n / 512 + 2

/-! ### Event rings (R486 to R488, R714, R715) -/

def ringSize (r : RingSt) : Nat := 2 ^ bits r.ctl.toNat 60 57
def ringActive (r : RingSt) : Bool := r.ctl.toNat.testBit 62
def ringEnabled (r : RingSt) : Bool := r.ctl.toNat.testBit 63
def ringErr (r : RingSt) : Bool := r.ctl.toNat.testBit 61
def ringPasid (r : RingSt) : Option Nat := if r.ctl.toNat.testBit 56 then some (bits r.ctl.toNat 55 36) else none
def ringVec (r : RingSt) : Nat := bits r.ctl.toNat 35 25

/-- An event's fields but PHASE and SEQ, which the ring gives. -/
structure Event where
  typ : Nat
  subject : Nat
  epoch : Nat
  tag : Nat
  count : Nat
  payload : Nat
  deriving DecidableEq, Repr

/-- The 64 bytes of an event entry (R486). -/
def eventBytes (stamp : Nat) (r : RingSt) (e : Event) : List Byte :=
  leBytes 64 (stamp * 2 ^ 448 + e.typ * 2 ^ 432 + b2n r.phase * 2 ^ 431 + e.subject * 2 ^ 352 + e.epoch % 2 ^ 16 * 2 ^ 336
    + e.tag % 2 ^ 16 * 2 ^ 320 + r.seq * 2 ^ 288 + e.count % 2 ^ 32 * 2 ^ 256 + e.payload % 2 ^ 256)

def ringOf (s : State) (lease : Bool) : RingSt := if lease then s.host.ler else s.host.mer

def setRing (s : State) (lease : Bool) (r : RingSt) : State :=
  if lease then { s with host := { s.host with ler := r } } else { s with host := { s.host with mer := r } }

/-- Whether a ring write completes in error (R471, R715). -/
def ringFails (s : State) (r : RingSt) : Bool := Config.hostError (now s) (ringPasid r) (r.base.toNat + 64 * r.tail) 64

/-- Writes one entry at the ring's tail, which has room, and sends the ring's message (R488). A write that completes in error sets ERR
and stops the ring, and what the entry told of is counted as lost (R715). -/
def ringPush (s : State) (lease : Bool) (e : Event) : State :=
  let r := ringOf s lease
  let s := emit s (.hostWrite (r.base.toNat + 64 * r.tail) (ringPasid r) (if lease then leaseStream s else none) false (eventBytes (now s) r e))
  if ringFails s r then
    setRing s lease { r with ctl := r.ctl ||| BitVec.ofNat 64 (2 ^ 61), lost := r.lost + if e.typ = 0x000F then e.count else 1 }
  else
  let t := (r.tail + 1) % ringSize r
  let r := { r with
    tail := t
    full := t = r.head
    phase := if t = 0 then !r.phase else r.phase
    seq := if r.seq + 1 = 2 ^ 32 then 1 else r.seq + 1 }
  msixNotify (setRing s lease r) (ringVec r)

/-- The RING_OVERFLOW entry that reports lost events (R488). -/
def overflowEvent (s : State) (lost : Nat) : Event :=
  ⟨0x000F, fuidOf s (uidOf .device), (getUnit s .device).epoch.toNat, 0, min lost 0xFFFFFFFF, 0⟩

/-- The overflow report, if events were lost and the ring has room for it. -/
def ringReport (s : State) (lease : Bool) : State :=
  let r := ringOf s lease
  if r.lost = 0 || r.full || !(ringActive r && ringEnabled r && !ringErr r) then s
  else ringPush (setRing s lease { r with lost := 0 }) lease (overflowEvent s r.lost)

/-- Counts a lost event. -/
def ringLose (s : State) (lease : Bool) : State :=
  let r := ringOf s lease
  setRing s lease { r with lost := r.lost + 1 }

/-- Writes an event to a ring, or counts it where the ring is not active or full (R488, R589, R715). The lease ring's
writes are discarded once the TDI has left RUN (R584). -/
def ringEvent (s : State) (lease : Bool) (e : Event) : State :=
  let r := ringOf s lease
  if !(ringActive r && ringEnabled r && !ringErr r) then ringLose s lease
  else if lease && s.host.tdi ≠ .run then s
  else
    let s := ringReport s lease
    if (ringOf s lease).full then ringLose s lease else ringPush s lease e

/-- An event that concerns a unit of this device: the lease's ring while the lease holds it, to the end of its close (R571, R599), else
the management ring (R487). -/
def unitEvent (s : State) (typ uid epoch tag count payload : Nat) : State :=
  ringEvent s s.lease.openL ⟨typ, fuidOf s uid, epoch, tag, count, payload⟩

/-- The epoch of a unit. -/
def epochOf (s : State) (u : PUnit) : Nat := (getUnit s u).epoch.toNat

/-! ### Groups: expansion and epochs (R22 to R26, R35 to R42) -/

def groupRec (s : State) (g : Nat) : Option GroupRec := smapGet none s.groups.tab g
def groupEpoch (s : State) (g : Nat) : BitVec 16 := smapGet 1 s.groups.epoch g
def groupUid (g : Nat) : Nat := 2 ^ 31 + g

/-- Physical members reached from a group, nested groups opened, in definition order with repeats. -/
def expandAll (fuel : Nat) (s : State) (g : Nat) : List Member :=
  match fuel with
  | 0 => []
  | f + 1 =>
    match groupRec s g with
    | none => []
    | some r => r.members.flatMap fun m =>
        match m with
        | .group h => expandAll f s h
        | .unit u => [.unit u]
        | .remote x => [.remote x]

/-- The expansion of a group: distinct physical units, each once (R24, R25). -/
def expansion (s : State) (g : Nat) : List Member := (expandAll 4096 s g).eraseDups

/-- The local units of a group's expansion. -/
def expansionUnits (s : State) (g : Nat) : List PUnit :=
  (expansion s g).filterMap fun m => match m with | .unit u => some u | _ => none

/-- The groups defined, in ascending number. -/
def groupsDefined (s : State) : List Nat := (s.groups.tab.filter fun e => e.2.isSome).map (·.1)

/-- One more than an epoch, never 0 (R37). -/
def epochNext (e : BitVec 16) : BitVec 16 := if e = 0xFFFF then 1 else e + 1

/-- The epoch of a direct member as this device knows it. -/
def memberEpoch (s : State) (m : Member) : BitVec 16 :=
  match m with
  | .unit u => (getUnit s u).epoch
  | .group g => groupEpoch s g
  | .remote x => match smapGet none s.groups.remote x with
    | some (_, _, e) => e
    | none => 1

/-- The EPOCH_CHANGE event of a unit or group (R42), on the management ring where `mgmt` says so (R584). -/
def epochEvent (s : State) (mgmt : Bool) (uid epoch cause : Nat) : State :=
  ringEvent s (s.lease.openL && !mgmt) ⟨0x0002, fuidOf s uid, epoch, 0, 1, cause⟩

/-- Sends a unit's state and epoch to the devices whose groups name it (R32); message kind 4. It belongs to the lease where the
membership was made in it. -/
def sendState (s : State) (f : Nat × Nat × Bool) (u : PUnit) : State :=
  sendMsg s f.2.2 (f.2.1 / 2 ^ 48) 4 [fuidOf s f.1, stateCode (reported s u), now s, epochOf s u]

/-- Reports a change of a unit: its own state and that of every unit it holds or that holds it, where other devices' groups
name them (R32). The model's choice (log entry 123): a device sends at resets, changes of service, changes of readiness and epoch
increments, and not when a BRIDGE_FAULT fences its dies, when a MEM_TEST makes a channel NOT_READY, or in the HBM clear. -/
def tellState (s : State) (u : PUnit) : State :=
  s.groups.foreign.foldl (fun s f => match unitOfUid f.1 with
    | some v => if v = u || (containers v).contains u || (containers u).contains v then sendState s f v else s
    | none => s) s

/-- Reports a unit's new epoch. -/
def tellEpoch (s : State) (u : PUnit) : State :=
  (s.groups.foreign.filter fun f => f.1 = uidOf u).foldl (fun s f => sendState s f u) s

/-- Increments one physical unit's epoch (R35, R37, R42). -/
def bumpUnit (s : State) (mgmt : Bool) (cause : Nat) (u : PUnit) : State :=
  let r := getUnit s u
  let e := epochNext r.epoch
  let s := modUnit s u fun r => { r with epoch := e, lastWrap := if r.epoch = 0xFFFF then now s else r.lastWrap }
  epochEvent (tellEpoch s u) mgmt (uidOf u) e.toNat cause

/-- Increments a group number's epoch and records the epochs its members have then (R36, R40). -/
def bumpGroup (s : State) (mgmt : Bool) (cause g : Nat) : State :=
  let old := groupEpoch s g
  let e := epochNext old
  let tab := match groupRec s g with
    | some r => smapSet none s.groups.tab g (some { r with sent := r.members.map (memberEpoch s) })
    | none => s.groups.tab
  let s := { s with groups := { s.groups with
    epoch := smapSet 1 s.groups.epoch g e
    tab := tab
    wrap := if old = 0xFFFF then smapSet 0 s.groups.wrap g (now s) else s.groups.wrap } }
  epochEvent s mgmt (groupUid g) e.toNat cause

/-- Whether a group's expansion holds one of these units. -/
def groupHolds (s : State) (us : List PUnit) (g : Nat) : Bool := (expansionUnits s g).any fun u => u ∈ us

/-- Increments the epochs of units for one cause, and of every group that holds one of them, once each; `skip` names
group numbers that the caller increments itself (R35, R36). At one event the groups' epochs rise in ascending group number, so an
outer group's entry may name a nested group's epoch from before or after its own increment (R40; DESIGN CHOICE, log entry 124). -/
def bumpUnits (s : State) (mgmt : Bool) (cause : Nat) (us : List PUnit) (skip : List Nat) : State :=
  let s := us.foldl (fun s u => bumpUnit s mgmt cause u) s
  ((groupsDefined s).filter fun g => g ∉ skip && groupHolds s us g).foldl (fun s g => bumpGroup s mgmt cause g) s

/-! ### Audit log (R618 to R622) -/

/-- The private fields of an audit entry (R618). -/
structure AuditPriv where
  qpn : Nat
  opcode : Nat
  status : Nat
  target : Nat
  reason : Nat
  aux : Nat
  pdigest : BitVec 256
  deriving DecidableEq, Repr

/-- A command's entry with no private field but those named. -/
def AuditPriv.zero : AuditPriv := ⟨0, 0, 0, 0, 0, 0, 0⟩

def privBits (p : AuditPriv) : Nat :=
  p.qpn * 2 ^ 440 + p.opcode * 2 ^ 424 + p.status * 2 ^ 416 + p.target * 2 ^ 352 + p.reason * 2 ^ 320
    + p.aux * 2 ^ 256 + p.pdigest.toNat

/-- Entries the log holds at most (R622). -/
def auditCap : Nat := 1048576

/-- Room for `n` more entries: those not archived may not be overwritten (R622). -/
def auditRoom (s : State) (n : Nat) : Bool := s.audit.nextSeq - s.audit.archived + n ≤ auditCap

/-- Appends one entry, which has room: chains it and encrypts PRIV when VIS is 1 (R618, R620). -/
def auditAppend (s : State) (kind role path : Nat) (vis : Bool) (p : AuditPriv) : State :=
  let a := s.audit
  let key := match s.lease.kA with | some g => g | none => 0
  let priv := if vis then privBits p ^^^ (Config.auditStream key a.nextSeq).toNat else privBits p
  let lid := if s.lease.openL then s.lease.logId.toNat else 0
  let top := a.nextSeq * 2 ^ 960 + now s * 2 ^ 896 + kind * 2 ^ 880 + role * 2 ^ 876 + path * 2 ^ 874
    + b2n vis * 2 ^ 873 + lid * 2 ^ 832 + priv * 2 ^ 384
  let chain := Config.sha384 (leBytes 48 a.chain.toNat ++ leBytes 80 (top / 2 ^ 384))
  let es := a.entries ++ [BitVec.ofNat 1024 (top + chain.toNat)]
  { s with audit := { a with
      entries := es.drop (es.length - auditCap)
      chain := chain
      nextSeq := a.nextSeq + 1
      sinceCkpt := if kind = 0x0007 then 0 else a.sinceCkpt + 1
      ckptAt := if kind = 0x0007 then now s else a.ckptAt } }

/-- Records an entry, a LOG_GAP first where refusals went unrecorded; counts it where no room remains (R622). -/
def auditPut (s : State) (kind role path : Nat) (vis : Bool) (p : AuditPriv) : State :=
  if !auditRoom s 1 then { s with audit := { s.audit with gap := s.audit.gap + 1 } }
  else
    let s := if s.audit.gap = 0 then s
      else
        let g := s.audit.gap
        auditAppend { s with audit := { s.audit with gap := 0 } } 0x0008 4 3 false { AuditPriv.zero with aux := g }
    auditAppend s kind role path vis p

/-- A CHECKPOINT entry (R621). -/
def auditCheckpoint (s : State) : State := auditPut s 0x0007 4 3 false .zero

/-- A permission refusal's entry (R597, R618, R619): private while a lease is open. -/
def auditRefusal (s : State) (role path : Nat) (qpn opcode target reason : Nat) (pdigest : BitVec 256) : State :=
  auditPut s 0x0003 role path s.lease.openL
    { AuditPriv.zero with qpn := qpn, opcode := opcode, status := 0x02, target := target, reason := reason, pdigest := pdigest }

/-- A TDI state change during a lease (R619); AUX holds the new state. -/
def auditTdi (s : State) (code : Nat) : State :=
  if s.lease.openL then auditPut s 0x000A 4 3 false { AuditPriv.zero with aux := code } else s

/-! ### Fault concentrators (R679 to R687) -/

/-- The concentrator that receives a unit's reports. -/
def concentratorOf (u : PUnit) : Nat :=
  match u with
  | .die d => d
  | _ => match (containers u).find? (fun v => kindOf v = 3) with
    | some (.die d) => d
    | _ => 0

def setFaults (s : State) (d : Nat) (f : FaultSt) : State := { s with faults := vset s.faults d f }

/-- The next record number, from 1, wrapping to 1 (R679). -/
def faultSeqNext (n : Nat) : Nat := if n + 1 = 2 ^ 32 then 1 else n + 1

/-- The 512 bits of a fault record (R679). -/
def faultBits (r : FaultRec) : Nat :=
  r.first * 2 ^ 448 + r.last * 2 ^ 384 + r.subject * 2 ^ 320 + r.epoch.toNat * 2 ^ 304 + r.cls * 2 ^ 288
    + r.reason * 2 ^ 272 + r.reports * 2 ^ 240 + r.reporter * 2 ^ 208 + r.dump * 2 ^ 176 + r.seq * 2 ^ 144
    + r.addr * 2 ^ 64 + r.info

/-- The FAULT payload (R683). -/
def faultPayload (r : FaultRec) : Nat :=
  r.cls * 2 ^ 240 + r.reason * 2 ^ 224 + r.seq * 2 ^ 192 + r.reporter * 2 ^ 160 + r.dump * 2 ^ 128 + r.addr * 2 ^ 64
    + r.info

/-- The class's summary with one more report. -/
def sumsAdd (sums : List FaultSum) (cls window subject : Nat) : List FaultSum :=
  match sums with
  | [] => [⟨cls, 1, window, subject, subject⟩]
  | x :: xs => if x.cls = cls then { x with reports := x.reports + 1, low := min x.low subject, high := max x.high subject } :: xs
    else x :: sumsAdd xs cls window subject

/-- Whether a FUID names a unit of this device. -/
def isLocalFuid (s : State) (x : Nat) : Bool := x / 2 ^ 48 == plainOf s * 2 ^ 15 + devnumOf s

/-- The UIDs of the groups that hold the subject of a report (R31). -/
def faultGroups (s : State) (subject : Nat) : List Nat :=
  ((groupsDefined s).filter fun g => (expansion s g).any fun m => match m with
    | .unit u => isLocalFuid s subject && uidOf u = subject % 2 ^ 32
    | .remote x => x = subject
    | .group _ => false).map groupUid

/-- A fault report at concentrator `d`: merges into a held record, creates one, or is counted in summary mode (R680,
R681, R683, R684); the record takes the groups of its subject, and is written once whatever their number (R31; the layout of
R679 shows them nowhere, log entry 74). -/
def faultReport (s : State) (d subject : Nat) (epoch : BitVec 16) (cls reason reporter dump addr info : Nat) : State :=
  let f := vget s.faults .init d
  let t := now s
  if f.recs.any fun r => r.subject = subject && r.cls = cls && r.epoch = epoch then
    let recs := f.recs.map fun r =>
      if r.subject = subject && r.cls = cls && r.epoch = epoch then
        { r with reports := min (r.reports + 1) 0xFFFFFFFF, last := t, groups := (r.groups ++ faultGroups s subject).eraseDups } else r
    setFaults s d { f with recs := recs }
  else
    let f := { f with unmatched := f.unmatched + 1, sums := sumsAdd f.sums cls f.window subject }
    if f.summary || f.unmatched ≥ 257 then setFaults s d { f with summary := true }
    else
      let lease := s.lease.openL && isLocalFuid s subject
      let n := faultSeqNext f.seq
      let r : FaultRec := ⟨t, t, subject, epoch, cls, reason, 1, reporter, dump, n, addr, info, lease, faultGroups s subject⟩
      let recs := f.recs ++ [r]
      let s := setFaults s d { f with recs := recs.drop (recs.length - 1024), seq := n }
      let s := { s with host := { s.host with newFault := true } }
      ringEvent s (s.lease.openL && isLocalFuid s subject) ⟨0x000D, subject, epoch.toNat, 0, 1, faultPayload r⟩

/-- A report about a unit of this device by itself or its engine. -/
def faultUnit (s : State) (u : PUnit) (cls reason reporter addr info : Nat) : State :=
  faultReport s (concentratorOf u) (fuidOf s (uidOf u)) (getUnit s u).epoch cls reason reporter 0 addr info

/-- FAULT_N (R687). -/
def faultN (s : State) : Bool := s.rst.tripped || s.rst.bridge || (getUnit s .device).own = .outOfService

/-! ### Poison (R420 to R424) -/

/-- The unit a word or line belongs to (R421). -/
def placeUnit (a : Nat) : PUnit :=
  match placeOf a with
  | some (.die d _) => .die (fin 2 d)
  | some (.cluster k _) => .cluster (fin 24 k)
  | some (.scratch c _) => .core (fin 192 c)
  | some (.hbm _) => .channel (fin 256 (hbmChannel a))
  | none => .device

end Sys2Proof.Machine
end

