-- ==== Sys2Proof/Machine/CmdOps.lean ====
section
/-! DEFINITION. Commands: the header, status codes, records of commands in flight, starting, finishing and combining
the results of parts, and writes to the host's memory on a command's behalf (14_command_interface.md R468 to R485,
R504 to R507, R755; 06_guarded_narrow_arithmetic.md R214, R215). -/

namespace Sys2Proof.Machine

/-! ### The header (R468, R469) -/

def hOpcode (h : BitVec 512) : Nat := bits h.toNat 511 496
def hFlags (h : BitVec 512) : Nat := bits h.toNat 495 480
def hTimeout (h : BitVec 512) : Nat := bits h.toNat 479 448
def hTarget (h : BitVec 512) : Nat := bits h.toNat 447 384
def hEpoch (h : BitVec 512) : Nat := bits h.toNat 383 368
def hCtx (h : BitVec 512) : Nat := bits h.toNat 367 358
def hSeqno (h : BitVec 512) : Nat := bits h.toNat 351 320
def hDeadline (h : BitVec 512) : Nat := bits h.toNat 319 256
def hPlen (h : BitVec 512) : Nat := bits h.toNat 255 240
def hTag (h : BitVec 512) : Nat := bits h.toNat 239 224
def hPptr (h : BitVec 512) : Nat := bits h.toNat 223 160
def hMvbuf (h : BitVec 512) : Nat := bits h.toNat 159 96
def hMvcap (h : BitVec 512) : Nat := bits h.toNat 95 64
def hOrder (h : BitVec 512) : Bool := bit h.toNat 485
def hIrq (h : BitVec 512) : Bool := bit h.toNat 484
def hPmode (h : BitVec 512) : Nat := bits h.toNat 483 482
def hAbandon (h : BitVec 512) : Bool := bit h.toNat 481
def hFab (h : BitVec 512) : Bool := bit h.toNat 480

/-- A parameter block as one number, its first byte lowest. -/
def paramNat : List (BitVec 512) → Nat
  | [] => 0
  | b :: bs => b.toNat + 2 ^ 512 * paramNat bs

/-- The bytes of a parameter block. -/
def paramBytes (ps : List (BitVec 512)) : List Byte := ps.flatMap fun b => leBytes 64 b.toNat

/-- PDIGEST: the first 256 bits of the digest of a command's parameters (R618). -/
def paramDigest (ps : List (BitVec 512)) : BitVec 256 := BitVec.ofNat 256 ((Config.sha384 (paramBytes ps)).toNat >>> 128)

/-- The `i`-th 64-byte block of the parameters. -/
def paramBlock (ps : List (BitVec 512)) (i : Nat) : Nat := (ps.getD i 0).toNat

/-! ### Status codes (R483) -/

def stOk : Nat := 0x00
def stPartial : Nat := 0x01
def stRefused : Nat := 0x02
def stStaleEpoch : Nat := 0x03
def stDeadlineMissed : Nat := 0x04
def stTimeout : Nat := 0x05
def stFenced : Nat := 0x06
def stNotReady : Nat := 0x07
def stPoisoned : Nat := 0x08
def stGuardReplayed : Nat := 0x09
def stNoResource : Nat := 0x0A
def stBadParam : Nat := 0x0B
def stXlateFault : Nat := 0x0C
def stOutOfService : Nat := 0x0D

/-- Completing statuses (R483). -/
def completing (st : Nat) : Bool := st == stOk || st == stGuardReplayed || st == stDeadlineMissed

/-- DETAIL of ST_BAD_PARAM from the lowest bits of the fields a step finds bad (R483, R750). -/
def badDetail (pos : List Nat) : Nat := pos.foldl min 0xFFFF * 2 ^ 16

/-- A check: the position of the field's lowest bit when the condition fails. -/
def chk (ok : Bool) (pos : Nat) : List Nat := if ok then [] else [pos]

/-- Reserved ranges of a parameter block that are not zero. -/
def rsvBad (p : Nat) (rs : List (Nat × Nat)) : List Nat :=
  rs.filterMap fun r => if bits p r.1 r.2 = 0 then none else some (512 + r.2)

/-! ### Records of commands -/

def findCmd (s : State) (id : Nat) : Option CmdRec := s.cmd.inflight.find? fun c => c.id = id

def setInflight (s : State) (cs : List CmdRec) : State := { s with cmd := { s.cmd with inflight := cs } }

def updCmd (s : State) (id : Nat) (f : CmdRec → CmdRec) : State :=
  setInflight s (s.cmd.inflight.map fun c => if c.id = id then f c else c)

def dropCmd (s : State) (id : Nat) : State := setInflight s (s.cmd.inflight.filter fun c => c.id ≠ id)

def addCmd (s : State) (c : CmdRec) : State :=
  { s with cmd := { s.cmd with inflight := s.cmd.inflight ++ [c], nextId := c.id + 1 } }

def roleCode : Role → Nat
  | .operator => 0
  | .installer => 1
  | .maker => 2
  | .tenant => 3

/-- Whether the messages about a command belong to the lease: a tenant's do, but not those that close it (log entry 72). -/
def atomOwn (role : Role) (op : Nat) : Bool := role = .tenant && op ≠ 0x0202

/-- Sends a command (kind 11) or a prepare (kind 15) to another device, under a name of this device's choice (R474, R508). -/
def sendCmd (s : State) (kind peer tid : Nat) (role : Role) (h : BitVec 512) (ps : List (BitVec 512)) : State :=
  sendMsg s (role = .tenant) peer kind (tid :: roleCode role :: h.toNat :: ps.map (·.toNat))

/-- A command record at fetch. -/
def newCmd (s : State) (o : Origin) (role : Role) (h : BitVec 512) (ps : List (BitVec 512)) : CmdRec :=
  { id := s.cmd.nextId, origin := o, role := role, hdr := h, params := ps, fetchedAt := now s, acceptedAt := now s,
    startedAt := none, finishedAt := 0, phase := .accepted, status := 0, detail := 0, mvptr := 0,
    epoch := BitVec.ofNat 16 (hEpoch h), target := .unit .device, hung := none, trips := 0, tripLayer := 0,
    tripBits := 0, tripRecs := [], fan := [], parts := [], waitFor := [], noGroups := [], aux := [], auth := (0, 0),
    prepared := [], applied := [], decided := none, graph := none, writes := [], stepOut := [], telem := [], evs := [], tree := [], hostBad := false }

/-- The queue pair of a command's outermost origin: `none` for one that came another way. -/
def originQp (fuel : Nat) (s : State) (o : Origin) : Option Nat :=
  match fuel with
  | 0 => none
  | f + 1 =>
    match o with
    | .qp n => some n
    | .sub p _ => match findCmd s p with
      | some c => originQp f s c.origin
      | none => none
    | _ => none

def cmdQp (s : State) (c : CmdRec) : Option Nat := originQp 5 s c.origin

/-- The device and name of a command's outermost origin, where another device sent it (R474). -/
def originRemote (fuel : Nat) (s : State) (o : Origin) : Option (Nat × Nat) :=
  match fuel with
  | 0 => none
  | f + 1 =>
    match o with
    | .remote src tid => some (src, tid)
    | .sub p _ => match findCmd s p with
      | some c => originRemote f s c.origin
      | none => none
    | _ => none

def getQp (s : State) (n : Nat) : Option QpSt := smapGet none s.cmd.qps n

def setQp (s : State) (n : Nat) (q : Option QpSt) : State :=
  { s with cmd := { s.cmd with qps := smapSet none s.cmd.qps n q } }

/-- Pairs 1 to 255 that exist. -/
def tenantPairs (s : State) : List Nat := (s.cmd.qps.filter fun e => e.2.isSome && e.1 ≠ 0).map (·.1)

/-- Whether the lease's writes to host memory are sent: those of pairs 1 to 255 created by the tenant only while the TDI
is in RUN (R573, R584). -/
def tenantHostOpen (s : State) : Bool := s.host.tdi = .run

/-- Whether a command's write to host memory completes in error (R471). -/
def hostWriteFails (s : State) (c : CmdRec) (addr n : Nat) : Bool :=
  match (cmdQp s c).bind (getQp s) with
  | some q => Config.hostError (now s) q.pasid addr n
  | none => false

/-- Writes bytes to host memory for a command: in its pair's address space (R471), discarded where its pair is gone or
the lease's writes are (R584, R587). For a command of another device that device writes them: message kind 19 (R474). Commands that
came out of band have no host memory. -/
def hostWriteCmd (s : State) (c : CmdRec) (addr : Nat) (bs : List Byte) : State :=
  match cmdQp s c with
  | none => match originRemote 5 s c.origin with
    | some (src, tid) => if bs.isEmpty then s else sendMsg s (c.role = .tenant) src 19 (tid :: addr :: bs.map (·.toNat))
    | none => s
  | some n =>
    match getQp s n with
    | none => s
    | some q =>
      if bs.isEmpty then s
      else if q.role = .tenant then
        if tenantHostOpen s then hostPut (putFuel bs.length) s addr q.pasid (leaseStream s) false bs else s
      else hostPut (putFuel bs.length) s addr q.pasid none false bs

/-! ### Guard summaries (R214, R215) -/

/-- The guard summary of a command (R214). -/
def guardSummary (c : CmdRec) : Nat := c.tripLayer * 2 ^ 16 + min c.trips 255 * 2 ^ 8 + c.tripBits.toNat

/-- Two guard summaries as one: the earlier layer, trips added, bits joined (R214). Across members and devices the manual orders no
trips: the layer is that of the first member, in definition order, with trips (DESIGN CHOICE, log entry 128). -/
def guardJoin (a b : Nat) : Nat :=
  let layer := if bits a 15 8 = 0 then bits b 31 16 else bits a 31 16
  layer * 2 ^ 16 + min (bits a 15 8 + bits b 15 8) 255 * 2 ^ 8 + (bits a 3 0 ||| bits b 3 0)

/-- The GUARD_TRIP events of a command, in first-trip order (R215). They follow its host writes (R303). -/
def guardEvents (s : State) (c : CmdRec) : State :=
  c.tripRecs.foldl (fun s r =>
    let (cl, rec, layer, n, cmp, b) := r
    let k := fin 24 cl
    unitEvent s 0x0004 (uidOf (.cluster k)) (epochOf s (.cluster k)) (hTag c.hdr) 1
      (layer * 2 ^ 240 + rec * 2 ^ 208 + min n 0xFFFFFFFF * 2 ^ 176 + cmp.toNat * 2 ^ 171 + b.toNat * 2 ^ 160)) s

/-- Whether an opcode's DETAIL is the guard summary (R483). -/
def guardOpcode (op : Nat) : Bool := op / 256 == 4 || op / 256 == 5

/-! ### Results of a group (R28, R505, R506, R755) -/

def policyQuorum (r : GroupRec) : Bool := r.quorum.isSome

/-- The state of a group and of a direct member (R26, R32). A remote member that has sent no state message yet counts as
NOT_READY, with epoch 1 (`memberEpoch`) (DESIGN CHOICE, log entry 104). -/
def memberState (fuel : Nat) (s : State) (m : Member) : UState :=
  match fuel with
  | 0 => .notReady
  | f + 1 =>
    match m with
    | .unit u => reported s u
    | .remote x => match smapGet none s.groups.remote x with
      | some (st, _, _) => st
      | none => .notReady
    | .group g =>
      match groupRec s g with
      | none => .notReady
      | some r =>
        let sts := r.members.map (memberState f s)
        let worst := sts.foldl worse .ready
        match r.quorum with
        | none => worst
        | some q =>
          if (sts.filter isReady).length ≥ q then (if sts.all (· = .ready) then .ready else .degraded) else worst

def groupState (s : State) (g : Nat) : UState := memberState 4097 s (.group g)

/-- The position of a member in a fan-out. -/
def fanIndex (c : CmdRec) (m : Member) : Option Nat := (c.fan.map (·.1)).findIdx? (· = m)

def partOf (c : CmdRec) (i : Nat) : Option (Nat × Nat) := (c.parts.find? fun p => p.1 = i).map (·.2)

/-- Combines the statuses of direct members, skipped ones left out, as a reply (R506). -/
def combine (ms : List (Bool × Nat × Nat)) : Nat × Nat :=
  let sent := ms.filter fun m => !m.1
  let bad := ms.filter fun m => !m.1 && !completing m.2.1
  let gs := sent.foldl (fun a m => guardJoin a m.2.2) 0
  if sent.all fun m => completing m.2.1 then
    if sent.any fun m => m.2.1 = stDeadlineMissed then (stDeadlineMissed, gs)
    else if sent.any fun m => m.2.1 = stGuardReplayed then (stGuardReplayed, gs)
    else (stOk, gs)
  else if sent.any fun m => completing m.2.1 then (stPartial, bad.length)
  else match sent with
    | m :: _ => m.2
    | [] => (stOk, 0)

/-- The UID that a member stands for. -/
def memberUid (t : Member) : Nat :=
  match t with
  | .unit u => uidOf u
  | .group g => groupUid g
  | .remote x => x % 2 ^ 32

/-- The state with the groups of a command's target as they were when it started; groups never change after definition (R504). -/
def withTree (s : State) (c : CmdRec) : State :=
  { s with groups := { s.groups with tab := c.tree.foldl (fun t e => smapSet none t e.1 (some e.2)) s.groups.tab } }

/-- A direct member's entry: skipped, status, DETAIL (R28, R505, R506). `quorum`: its parent's policy is QUORUM, under which a nested
group that is not ready is skipped; under ALL it is sent the command and answers ST_NOT_READY (R27). A member with work outstanding
has ST_TIMEOUT with its UID (R33, R483). -/
def memberResult (fuel : Nat) (s : State) (c : CmdRec) (quorum : Bool) (m : Member) : Bool × Nat × Nat :=
  match fuel with
  | 0 => (true, stNotReady, 0)
  | f + 1 =>
    match m with
    | .group h =>
      if h ∈ c.noGroups then (quorum, stNotReady, groupUid h)
      else match groupRec s h with
        | none => (true, stNotReady, groupUid h)
        | some r => let x := combine (r.members.map (memberResult f s c r.quorum.isSome)); (false, x.1, x.2)
    | m =>
      match fanIndex c m with
      | none => (true, stNotReady, memberUid m)
      | some i => match partOf c i with
        | some (st, d) => (false, st, d)
        | none => (false, stTimeout, memberUid m)

/-- The reply of a group command (R506); only compute and sequence opcodes carry a guard summary. -/
def groupReply (s : State) (c : CmdRec) (g : Nat) : Nat × Nat :=
  let s := withTree s c
  match groupRec s g with
  | none => combine (c.fan.zipIdx.map fun m => match partOf c m.2 with
      | some (st, d) => (false, st, d)
      | none => (false, stTimeout, memberUid m.1.1))
  | some r =>
    let x := combine (r.members.map (memberResult 4097 s c r.quorum.isSome))
    if completing x.1 && !guardOpcode (hOpcode c.hdr) then (x.1, 0) else x

/-! ### The output of a TELEM_READ (R30, R672, R673) -/

def tmItem (p : Nat) : Nat := bits p 511 504
def tmSum (p : Nat) : Bool := bit p 503
def tmDest (p : Nat) : Nat := bits p 383 320

/-- Bytes of an item's entry (R672). -/
def itemSize (i : Nat) : Nat :=
  match i with
  | 0x01 => 128
  | 0x02 => 32
  | 0x03 => 16
  | 0x04 => 8
  | 0x05 => 8
  | 0x06 => 16
  | 0x07 => 64
  | 0x08 => 16
  | 0x09 => 8
  | 0x0A => 64
  | 0x0B => 40
  | 0x0C => 64
  | 0x0D => 16
  | _ => 32

/-- The sum of blocks of `n` 64-bit fields, field by field (R30). -/
def sumFields (n : Nat) (xs : List Nat) : Nat :=
  ((List.range n).map fun j => (xs.map fun x => bits x (64 * j + 63) (64 * j)).foldl (· + ·) 0 % 2 ^ 64 * 2 ^ (64 * j)).foldl (· + ·) 0

/-- The sum of an item's blocks (R30). SINCE of engine counters is no counter: `free` stands in it where the blocks differ. -/
def telemSum (i free : Nat) (xs : List Nat) : Nat :=
  if i = 0x01 then
    let since := bits (xs.headD 0) 1023 960
    (if xs.all fun x => bits x 1023 960 = since then since else free % 2 ^ 64) * 2 ^ 960 + sumFields 15 xs
  else sumFields (itemSize i / 8) xs

/-- Gathered entries as they are written: every physical unit once, in ascending UID order, or their sum (R30, R672). -/
def telemBytes (s : State) (c : CmdRec) (es : List (Nat × Nat × Nat)) : List Byte × State :=
  let i := tmItem (paramNat c.params)
  let es := es.foldl (fun (acc : List (Nat × Nat × Nat)) e => if acc.any fun f => f.1 = e.1 && f.2.1 = e.2.1 then acc else acc ++ [e]) []
  let vs := (es.mergeSort fun a b => a.2.1 < b.2.1 || (a.2.1 = b.2.1 && a.1 ≤ b.1)).map (·.2.2)
  if tmSum (paramNat c.params) then
    let x := drawFree s
    (leBytes (itemSize i) (telemSum i x.1 vs), x.2)
  else (vs.flatMap (leBytes (itemSize i)), s)

/-- Writes what a TELEM_READ to a group with members on other devices has gathered. -/
def telemWrite (s : State) (c : CmdRec) : State :=
  if hOpcode c.hdr = 0x0701 then
    let x := telemBytes s c c.telem
    hostWriteCmd x.2 c (tmDest (paramNat c.params)) x.1
  else s

/-! ### Finishing -/

/-- A command's status and DETAIL with its deadline and its guard trips taken in (R214, R479, R484). -/
def finalStatus (s : State) (c : CmdRec) (st detail : Nat) : Nat × Nat :=
  let d := if st = stOk ∧ guardOpcode (hOpcode c.hdr) ∧ c.fan.isEmpty ∧ c.phase ≠ .forwarded then guardSummary c else detail
  let st := if st = stOk ∧ c.trips > 0 then stGuardReplayed else st
  if completing st ∧ c.startedAt.isSome ∧ hDeadline c.hdr ≠ 0 ∧ now s > hDeadline c.hdr then (stDeadlineMissed, d)
  else (st, d)

/-- Keyed host writes in the order of their keys, equal keys in the order they came. -/
def insertKeyed (x : Nat × List Byte) : List (Nat × List Byte) → List (Nat × List Byte)
  | [] => [x]
  | y :: ys => if x.1 < y.1 then x :: y :: ys else y :: insertKeyed x ys

def sortKeyed (xs : List (Nat × List Byte)) : List (Nat × List Byte) := xs.foldl (fun a x => insertKeyed x a) []

/-- A part's host writes as those of part `i` of its command (R552). -/
def partWrites (c : CmdRec) (i : Nat) : List (Nat × List Byte) := (sortKeyed c.writes).map fun w => (i, w.2)

/-- Atomic opcodes, SEQ_PREFILL to a set among them (R384, R508). -/
def atomicOpcode (op : Nat) : Bool :=
  op = 0x0201 || op = 0x0202 || op = 0x0504 || op = 0x0507 || op = 0x0508 || op = 0x0801

/-- The first failing part by index, as status and DETAIL of an atomic command (R508). -/
def firstFail (ps : List (Nat × Nat × Nat)) : Nat × Nat :=
  match ps.foldl (fun (a : Option (Nat × Nat × Nat)) p =>
    if p.2.1 = stOk then a
    else match a with
      | none => some p
      | some q => if p.1 < q.1 then some p else some q) none with
  | some p => (p.2.1, p.1)
  | none => (stOk, 0)

/-- The index in definition order of the direct member that entry `i` of a fan-out belongs to (R508). A GROUP_DEFINE asks its
direct members first and then units of other devices in nested groups, whose groups' places its `aux` lists. -/
def directIndex (s : State) (c : CmdRec) (i : Nat) : Nat :=
  match c.target with
  | .group g => match groupRec s g, c.fan[i]? with
    | some r, some m => (r.members.findIdx? fun x => x = m.1 || (match x with | .group h => (expansion s h).contains m.1 | _ => false)).getD i
    | _, _ => i
  | _ =>
    let n := c.fan.length - (c.aux.length - 1)
    if hOpcode c.hdr = 0x0801 && n ≤ i then c.aux.getD (1 + i - n) i else i

/-- The reply of a decided atomic command whose members have all acknowledged (R508, R511); DETAIL of a commit is the lease
identifier or the vector size. -/
def atomicReply (s : State) (c : CmdRec) : Nat × Nat :=
  if c.decided = some true then (stOk, if hOpcode c.hdr = 0x0201 ∨ hOpcode c.hdr = 0x0801 then c.aux.headD 0 else 0)
  else
    let x := firstFail c.parts
    (x.1, directIndex s c x.2)

/-- An acknowledgement of member `i` of a decided command. -/
def takeAck (c : CmdRec) (i : Nat) : CmdRec :=
  { c with waitFor := c.waitFor.erase i, applied := if c.decided = some true then c.applied ++ [i] else c.applied }

/-- After a node of a graph has failed no further node starts (R499): those that wait to start are taken back. -/
def haltNodes (s : State) (p : Nat) : State :=
  let late := fun (d : CmdRec) => d.phase = .accepted && (match d.origin with | .sub q _ => q = p | _ => false)
  let ids := (s.cmd.inflight.filter late).map (·.id)
  let s := setInflight s (s.cmd.inflight.filter fun d => !late d)
  updCmd s p fun pc => { pc with graph := pc.graph.map fun g =>
    { g with subs := g.subs.map fun x => if x.any ids.contains then none else x } }

/-- Ends a command: its record waits for its completion; a part's result goes to the command it is a part of, and a
fan-out whose last part ends replies (R506). -/
def finishFuel (fuel : Nat) (s : State) (id st detail : Nat) : State :=
  match fuel with
  | 0 => s
  | f + 1 =>
    match findCmd s id with
    | none => s
    | some c =>
      if c.phase = .finished ∨ c.phase = .refused then s
      else
        let x := finalStatus s c st detail
        match c.origin with
        | .sub p i =>
          let s := dropCmd s id
          match findCmd s p with
          | none => s
          | some pc =>
            match pc.graph with
            | some g =>
              let s := updCmd s p fun pc => { pc with graph := some { g with res := g.res.set i (some x) }
                                                      writes := pc.writes ++ partWrites c i }
              if completing x.1 then s else haltNodes s p
            | none =>
              if pc.decided.isSome then
                let s := updCmd s p fun pc => takeAck pc i
                if (takeAck pc i).waitFor.isEmpty then
                  let r := atomicReply s pc
                  finishFuel f s p r.1 r.2
                else s
              else
              let s := updCmd s p fun pc => { pc with parts := pc.parts ++ [(i, x.1, x.2)]
                                                      tripRecs := pc.tripRecs ++ c.tripRecs
                                                      writes := pc.writes ++ partWrites c i }
              match findCmd s p with
              | none => s
              | some pc =>
                if (List.range pc.fan.length).all fun j => (partOf pc j).isSome then
                  match pc.target with
                  | .group g => let r := groupReply s pc g; finishFuel f (telemWrite s pc) p r.1 r.2
                  | _ => s
                else s
        | _ =>
          updCmd s id fun c => { c with phase := .finished, status := x.1, detail := x.2, finishedAt := now s }

/-- Ends a command with a status and DETAIL. -/
def finishCmd (s : State) (id st detail : Nat) : State := finishFuel 8 s id st detail

/-- Cores of a unit. -/
def unitCores (u : PUnit) : List Nat := ((u :: contents u).filterMap fun v => match v with | .core c => some c.val | _ => none)

/-- The part of a launch that lies in one member of its group: the failure of its core of the lowest UID, a deadline that one of its
cores ended after (R479), or its own trips; a guard record counts for the first member that holds its cluster (R214, R484, R506). -/
def memberPart (c : CmdRec) (i : Nat) (u : PUnit) : Nat × Nat × Nat :=
  let cs := unitCores u
  let mine := c.parts.filter fun p => p.1 ≥ 2 ^ 20 && cs.contains (p.1 - 2 ^ 20)
  let worst := mine.foldl (fun (a : Option (Nat × Nat × Nat)) p =>
    if completing p.2.1 then a
    else match a with
      | none => some p
      | some q => if p.1 < q.1 then some p else some q) none
  let late := mine.any fun p => p.2.1 = stDeadlineMissed
  let owner := fun (cl : Nat) => c.fan.findIdx? fun m => match m.1 with
    | .unit v => (unitCores v).any fun n => n / 8 = cl
    | _ => false
  let recs := c.tripRecs.filter fun r => owner r.1 = some i
  match worst with
  | some p => (i, p.2.1, p.2.2)
  | none =>
    if recs.isEmpty then (i, if late then stDeadlineMissed else stOk, 0)
    else (i, if late then stDeadlineMissed else stGuardReplayed, recs.foldl (fun g r => guardJoin g (r.2.2.1 * 2 ^ 16 + min r.2.2.2.1 255 * 2 ^ 8 + r.2.2.2.2.2.toNat)) 0)

/-- The reply of a command to a group once every part has ended. -/
def replyGroup (s : State) (id : Nat) : State :=
  match findCmd s id with
  | none => s
  | some c =>
    if (List.range c.fan.length).all fun j => (partOf c j).isSome then
      match c.target with
      | .group g => let r := groupReply s c g; finishCmd s id r.1 r.2
      | _ => s
    else s

/-- Ends one core's part of a launch; the launch finishes with its last part, with the failure of the core of the lowest
UID, or with the reply of its group (R484, R494, R506). Cores of a group's launch are kept as 2^20 + core. -/
def endPart (s : State) (id core st detail : Nat) : State :=
  match findCmd s id with
  | none => s
  | some c =>
    if core ∉ c.waitFor then s
    else
      let grp := match c.target with | .group _ => true | _ => false
      let st := if grp && completing st && hDeadline c.hdr ≠ 0 && decide (now s > hDeadline c.hdr) then stDeadlineMissed else st
      let parts := c.parts ++ [((if grp then 2 ^ 20 else 0) + core, st, detail)]
      let left := c.waitFor.erase core
      let s := updCmd s id fun c => { c with parts := parts, waitFor := left }
      if !left.isEmpty then s
      else if grp then
        let ms := c.fan.zipIdx.filterMap fun m => match m.1.1 with
          | .unit u => if (partOf c m.2).isSome then none else some (memberPart { c with parts := parts } m.2 u)
          | _ => none
        replyGroup (updCmd s id fun c => { c with parts := c.parts ++ ms }) id
      else
        let worst := parts.foldl (fun (a : Option (Nat × Nat × Nat)) p =>
          if completing p.2.1 then a
          else match a with
            | none => some p
            | some q => if p.1 < q.1 then some p else some q) none
        match worst with
        | some p => finishCmd s id p.2.1 p.2.2
        | none => finishCmd s id stOk 0

/-- A command that ends as a permission refusal after acceptance, with its audit entry (R485, R597); a part of a command ends with
ST_REFUSED. -/
def refuseCmd (s : State) (c : CmdRec) (reason : Nat) : State :=
  let path := match c.origin with | .qp _ => 0 | .i3c => 1 | .sideband => 2 | _ => 3
  let s := auditRefusal s (roleCode c.role) path ((cmdQp s c).getD 0) (hOpcode c.hdr) (hTarget c.hdr) reason (paramDigest c.params)
  match c.origin with
  | .sub _ _ => finishCmd s c.id stRefused 0
  | _ => updCmd s c.id fun k => { k with phase := .refused, status := stRefused, detail := 0, mvptr := 0 }

/-! ### Timeouts (R480) -/

/-- The default timeout of an opcode's class, ns. -/
def classTimeout (op : Nat) : Nat :=
  if op = 0x0120 then 60000000000
  else match op / 256 with
    | 1 => 1000000000
    | 2 => 200000000
    | 3 => 100000000
    | 4 => 1000000000
    | 5 => 100000000
    | 6 => 100000000
    | 7 => 100000000
    | _ => 10000000

/-- The length of a command's timeout from its ACCEPTED stamp (R480). A deadline already past counts as D = 0. -/
def cmdTimeout (h : BitVec 512) (accepted : Nat) : Nat :=
  let d := hDeadline h - accepted
  let t := if hTimeout h ≠ 0 then hTimeout h * 1000
    else if hDeadline h ≠ 0 then d + max 100000 (d / 4)
    else classTimeout (hOpcode h)
  let op := hOpcode h
  if op = 0x0201 ∨ op = 0x0202 ∨ op = 0x0104 ∨ op = 0x0703 then max t (classTimeout op) else t

/-! ### Starting -/

/-- Whether a command is of the opcode and waits to start. -/
def waiting (s : State) (id op : Nat) : Option CmdRec :=
  match findCmd s id with
  | some c => if hOpcode c.hdr = op ∧ c.phase = .accepted then some c else none
  | none => none

/-- Whether ORDER lets a command start: every earlier command of its SQ has finished (R469), a refused one 20 us after its fetch
(R485). -/
def orderMet (s : State) (c : CmdRec) : Bool :=
  !hOrder c.hdr || match c.origin with
    | .qp n => s.cmd.inflight.all fun e =>
        e.id ≥ c.id || e.origin ≠ .qp n || e.phase = .finished || (e.phase = .refused && decide (now s ≥ e.fetchedAt + 20000))
    | _ => true

/-- The epoch of a target. -/
def targetEpoch (s : State) (m : Member) : BitVec 16 := memberEpoch s m

/-- The last wrap of a target's epoch (R39). -/
def targetWrap (s : State) (m : Member) : Nat :=
  match m with
  | .unit u => (getUnit s u).lastWrap
  | .group g => smapGet 0 s.groups.wrap g
  | .remote _ => 0

/-- Whether a command is stale for its target: its epoch differs, or its accepted stamp precedes the target's last wrap (R39). -/
def staleFor (s : State) (m : Member) (epoch : BitVec 16) (accepted : Nat) : Bool :=
  epoch != targetEpoch s m || decide (accepted < targetWrap s m)

/-- The groups of a member's nesting, each once. -/
def nestTree (fuel : Nat) (s : State) (m : Member) : List (Nat × GroupRec) :=
  match fuel with
  | 0 => []
  | f + 1 =>
    match m with
    | .group g => match groupRec s g with
      | none => []
      | some r => ((g, r) :: r.members.flatMap (nestTree f s)).eraseDups
    | _ => []

/-- Marks a command started, with the groups it acts on. -/
def markStarted (s : State) (id : Nat) : State :=
  updCmd s id fun c => { c with phase := .started, startedAt := some (now s), tree := nestTree 4097 s c.target }

/-- What the start of a command gives: it must wait, it has ended, or it goes on. -/
inductive Start where
  | wait
  | ended (s : State)
  | go (s : State) (c : CmdRec)

/-- Starts a command of an opcode: ORDER (R469), an abandoned deadline (R477), the fence of its target (R51, R637) and
the second epoch check (R476); `check` is off for commands that R476 and R477 do not hold back. -/
def startCmd (s : State) (id op : Nat) : Start :=
  match waiting s id op with
  | none => .wait
  | some c =>
    if !orderMet s c then .wait
    else if hAbandon c.hdr ∧ now s ≥ hDeadline c.hdr then .ended (finishCmd s id stDeadlineMissed 0)
    else
      match c.target with
      | .unit u =>
        if staleFor s (.unit u) c.epoch c.acceptedAt then .ended (finishCmd s id stStaleEpoch (epochOf s u))
        else
          let b := baseState s u
          if (b = .fenced ∨ b = .resetting) ∧ op ≠ 0x0202 then
            .ended (finishCmd s id stFenced (uidOf (fencedRoot s u)))
          else .go (markStarted s id) { c with phase := .started, startedAt := some (now s) }
      | .group g =>
        if staleFor s (.group g) c.epoch c.acceptedAt then .ended (finishCmd s id stStaleEpoch (groupEpoch s g).toNat)
        else .go (markStarted s id) { c with phase := .started, startedAt := some (now s) }
      | .remote _ => .go (markStarted s id) { c with phase := .started, startedAt := some (now s) }

/-! ### Fan-out (R25, R28, R40, R506) -/

/-- The units and remote members a group command goes to, and the nested groups it does not reach, because they are not ready under
their own policy (R27) or skipped (R28). An atomic command asks every member to prepare, so that one that is not ready makes it fail
(R29, R508). -/
def fanOut (fuel : Nat) (s : State) (atomic : Bool) (g : Nat) : List (Member × BitVec 16) × List Nat :=
  match fuel with
  | 0 => ([], [])
  | f + 1 =>
    match groupRec s g with
    | none => ([], [])
    | some r =>
      (r.members.zip (r.sent ++ List.replicate r.members.length 0)).foldl (fun acc me =>
        let (m, e) := me
        match m with
        | .group h =>
          if atomic || isReady (groupState s h) then
            let x := fanOut f s atomic h
            (acc.1 ++ x.1, acc.2 ++ x.2)
          else (acc.1, acc.2 ++ [h])
        | m => if !atomic && r.quorum.isSome && !isReady (memberState 2 s m) then acc else (acc.1 ++ [(m, e)], acc.2)) ([], [])

/-- Whether an opcode is accepted by a unit that is out of service itself, in containers that are not: a restore (R644),
and ENABLE of a port that FAB_PORT_CTL holds down (R519). -/
def oosAccepts (s : State) (op : Nat) (ps : List (BitVec 512)) (u : PUnit) : Bool :=
  let p := paramNat ps
  if op = 0x0103 then !p.testBit 511
  else if op = 0x0603 then
    bits p 511 508 = 1 && (match u with | .port n => (s.ports[n]).phase = .disabled | _ => false) && !(s.sec.flashOos.contains u)
      && (containers u).all fun v => (getUnit s v).own ≠ .outOfService
  else false

/-- Keeps the first of several entries of one unit (R25). -/
def dedupFan (xs : List (Member × BitVec 16)) : List (Member × BitVec 16) :=
  xs.foldl (fun acc x => if acc.any fun y => y.1 = x.1 then acc else acc ++ [x]) []

/-- The header a member gets: TARGET its UID or FUID, EPOCH as R40 gives it, no member vector. -/
def memberHdr (h : BitVec 512) (target epoch : Nat) : BitVec 512 :=
  let x := h.toNat
  BitVec.ofNat 512 (bits x 511 481 * 2 ^ 481 + b2n (target / 2 ^ 32 ≠ 0) * 2 ^ 480 + bits x 479 448 * 2 ^ 448 + target * 2 ^ 384
    + epoch * 2 ^ 368 + bits x 367 160 * 2 ^ 160 + bits x 63 0)

/-! ### Targets (R17, R490) -/

/-- Roots of reset domains, and sequence engines (R631, R633, R688). -/
def resetUnit : PUnit → Bool
  | .core _ => true
  | .cluster _ => true
  | .die _ => true
  | .device => true
  | .channel _ => true
  | .port _ => true
  | .hostIf => true
  | .seqEngine _ => true
  | _ => false

/-- Whether an opcode may name a unit's kind (R490). -/
def kindAllowed (op : Nat) (u : PUnit) : Bool :=
  let k := kindOf u
  if op = 0x0103 ∨ op = 0x0701 then true
  else if op = 0x0104 ∨ op = 0x0702 then resetUnit u
  else if op = 0x0102 then k == 3 || k == 4
  else if op = 0x0110 ∨ op = 0x0111 then k == 9
  else if op = 0x0120 then k == 5
  else if op = 0x0302 then k == 0
  else if op = 0x0303 ∨ op = 0x0304 ∨ op = 0x0305 then k == 2 || k == 3
  else if op = 0x0401 then k == 1 || k == 2 || k == 3 || k == 4
  else if op / 256 = 5 then k == 8
  else if op = 0x0603 then k == 6
  else if op = 0x0704 then k == 2
  else if op = 0x0705 then k == 10
  else if op = 0x0802 then false
  else k == 4

/-- Whether an opcode may name a group (R490). -/
def groupAllowed (op : Nat) : Bool :=
  op = 0x0103 || op = 0x0104 || op = 0x0120 || op = 0x0201 || op = 0x0202 || op = 0x0302 || op = 0x0401
    || (op / 256 = 5 && op ≠ 0x0505) || op = 0x0602 || op = 0x0603 || op = 0x0701 || op = 0x0704 || op = 0x0802

/-- The position, within TARGET, of what keeps an opcode from a unit (R17, R490, R495). -/
def targetBad (op : Nat) (u : PUnit) : Option Nat :=
  if !kindAllowed op u then some 27
  else match u with
    | .engine _ e => if op = 0x0302 ∧ e.val ≠ 3 then some 17 else none
    | .seqEngine d => if d.val = 1 ∧ op ≠ 0x0701 ∧ op ≠ 0x0702 ∧ op ≠ 0x0104 then some 26 else none
    | _ => none

/-- Why a local member of a fan-out does not run its part: its status and DETAIL (R17, R39, R476, R483). -/
def fanCheck (s : State) (op : Nat) (ps : List (BitVec 512)) (u : PUnit) (epoch : BitVec 16) (accepted : Nat) : Option (Nat × Nat) :=
  let b := baseState s u
  match targetBad op u with
  | some p => some (stBadParam, badDetail [384 + p])
  | none =>
    if staleFor s (.unit u) epoch accepted then some (stStaleEpoch, epochOf s u)
    else if b = .outOfService && oosAccepts s op ps u then none
    else if b = .outOfService then some (stOutOfService, uidOf u)
    else if b = .fenced ∨ b = .resetting then some (stFenced, uidOf (fencedRoot s u))
    else if b = .notReady then some (stNotReady, uidOf u)
    else none

/-- Sends a group command to the units of its target's expansion, each as a part of its own with the epoch R40 gives;
`one` begins a local member's part and may end it at once. A remote member is sent the command (R474). -/
def fanCmd (s : State) (c : CmdRec) (g : Nat) : State :=
  let x := fanOut 4097 s false g
  let fan := dedupFan x.1
  let s := updCmd s c.id fun c => { c with fan := fan, noGroups := x.2 }
  let s := fan.zipIdx.foldl (fun s (me, i) =>
    match me.1 with
    | .unit u =>
      let h := memberHdr c.hdr (uidOf u) me.2.toNat
      let k := { newCmd s (.sub c.id i) c.role h c.params with
        acceptedAt := c.acceptedAt, fetchedAt := c.fetchedAt, epoch := me.2, target := .unit u, auth := c.auth }
      let s := addCmd s k
      match fanCheck s (hOpcode c.hdr) c.params u me.2 c.acceptedAt with
      | some x => finishCmd s k.id x.1 x.2
      | none => s
    | .remote fuid =>
      let h := memberHdr c.hdr fuid me.2.toNat
      let k := { newCmd s (.sub c.id i) c.role h c.params with
        acceptedAt := c.acceptedAt, phase := .forwarded, epoch := me.2, target := me.1 }
      sendCmd (addCmd s k) 11 (fuid / 2 ^ 48) k.id c.role h c.params
    | .group _ => s) s
  match findCmd s c.id with
  | some d => if d.fan.isEmpty ∧ d.phase = .started then
      let r := groupReply s d g
      finishCmd s c.id r.1 r.2 else s
  | none => s

/-- Runs a command's effect on a physical target, or sends it out over a group. -/
def runCmd (s : State) (id op : Nat) (onUnit : State → CmdRec → PUnit → State) : Res :=
  match startCmd s id op with
  | .wait => .next s
  | .ended s => .next s
  | .go s c =>
    match c.target with
    | .unit u => .next (onUnit s c u)
    | .group g => .next (fanCmd s c g)
    | .remote _ => .next s

end Sys2Proof.Machine
end

