-- ==== Sys2Proof/Machine/Float.lean ====
section
/-! DEFINITION. Floating-point values, rounding and the IEEE 754 operations of the vector and scalar engines
(03_number_formats.md R75, R102 to R113; 08_core_programming.md R250 to R253). A finite value is exact: a sign, a
magnitude and a power of two. Every operation is computed exactly (or with a sticky digit below the last place) and
rounded once. -/

namespace Sys2Proof.Machine

/-- Rounding attributes (R108). -/
inductive Rm where
  | rne | rtz | rdn | rup | rna
  deriving DecidableEq, Repr

/-- The attribute of a 3-bit code that is not reserved and not DYN (R108). -/
def rmOfCode (c : Nat) : Option Rm :=
  match c with
  | 0 => some .rne
  | 1 => some .rtz
  | 2 => some .rdn
  | 3 => some .rup
  | 4 => some .rna
  | _ => none

/-- A floating-point datum: a NaN with its payload, an infinity, or `(-1)^s * m * 2^e`. -/
inductive FVal where
  | nan (signalling s : Bool) (payload : Nat)
  | inf (s : Bool)
  | fin (s : Bool) (m : Nat) (e : Int)
  deriving DecidableEq, Repr

/-- An IEEE-shaped format: exponent width and fraction width (R75). -/
structure FFmt where
  eb : Nat
  fb : Nat
  deriving DecidableEq, Repr

/-- FP64 of R75. -/
def fmt64 : FFmt := ⟨11, 52⟩
/-- FP32 of R75. -/
def fmt32 : FFmt := ⟨8, 23⟩
/-- FP16 of R75. -/
def fmt16 : FFmt := ⟨5, 10⟩
/-- BF16 of R75. -/
def fmtB16 : FFmt := ⟨8, 7⟩
/-- E5M2 of R75, which has IEEE-shaped infinities and NaN. -/
def fmtE5M2 : FFmt := ⟨5, 2⟩

/-- Exponent bias `2^(eb-1) - 1`. -/
def fBias (f : FFmt) : Int := ((2 ^ (f.eb - 1) : Nat) : Int) - 1
/-- The exponent of the last place of a subnormal. -/
def fQmin (f : FFmt) : Int := 1 - fBias f - f.fb
/-- The largest exponent of the last place of a normal value. -/
def fQmax (f : FFmt) : Int := ((2 ^ f.eb : Nat) : Int) - 2 - fBias f - f.fb
/-- All exponent bits set. -/
def fExpOnes (f : FFmt) : Nat := 2 ^ f.eb - 1
/-- Width in bits. -/
def fWidth (f : FFmt) : Nat := 1 + f.eb + f.fb

/-- Reads a datum from its bits (R75). -/
def fDecode (f : FFmt) (x : Nat) : FVal :=
  let s := bit x (f.eb + f.fb)
  let e := bits x (f.eb + f.fb - 1) f.fb
  let m := x % 2 ^ f.fb
  if e = fExpOnes f then
    if m = 0 then .inf s else .nan (!bit m (f.fb - 1)) s (m % 2 ^ (f.fb - 1))
  else if e = 0 then .fin s m (fQmin f)
  else .fin s (2 ^ f.fb + m) (fQmin f + (e - 1))

/-- Whether rounding away from zero is called for: `odd` is the last kept bit, `half`/`above` compare the
discarded part with half a place (R108). -/
def roundsUp (rm : Rm) (s odd isHalf above inexact : Bool) : Bool :=
  match rm with
  | .rne => above || (isHalf && odd)
  | .rtz => false
  | .rdn => s && inexact
  | .rup => !s && inexact
  | .rna => above || isHalf

/-- Rounds `m * 2^e` to at most `p` significant bits with a last place of at least `2^qmin`: the new magnitude, the
exponent of its last place, and whether anything was lost. -/
def roundMag (rm : Rm) (s : Bool) (p : Nat) (qmin : Int) (m : Nat) (e : Int) : Nat × Int × Bool :=
  if m = 0 then (0, qmin, false)
  else
    let q := max (e + bitLen m - p) qmin
    if q ≤ e then (m <<< (e - q).toNat, q, false)
    else
      let sh := (q - e).toNat
      let lo := m % 2 ^ sh
      let hi := m >>> sh
      let h := 2 ^ (sh - 1)
      let up := roundsUp rm s (hi % 2 == 1) (lo == h) (decide (h < lo)) (lo != 0)
      (hi + b2n up, q, lo != 0)

/-- Compares two exact magnitudes `m * 2^e`. -/
def magCmp (m1 : Nat) (e1 : Int) (m2 : Nat) (e2 : Int) : Ordering :=
  let q := min e1 e2
  compare (m1 <<< (e1 - q).toNat) (m2 <<< (e2 - q).toNat)

/-- Exception flags of FCSR[4:0] (R107): NV, DZ, OF, UF, NX from bit 4 down. -/
abbrev FFlags := BitVec 5

/-- NV. -/
def flagNV : FFlags := 0x10#5
/-- DZ. -/
def flagDZ : FFlags := 0x08#5
/-- OF. -/
def flagOF : FFlags := 0x04#5
/-- UF. -/
def flagUF : FFlags := 0x02#5
/-- NX. -/
def flagNX : FFlags := 0x01#5

/-- A flag if a condition holds. -/
def flagIf (b : Bool) (f : FFlags) : FFlags := if b then f else 0#5

/-- The bits of an infinity. -/
def fInfBits (f : FFmt) (s : Bool) : Nat := b2n s <<< (f.eb + f.fb) ||| (fExpOnes f <<< f.fb)
/-- The bits of the largest finite value. -/
def fMaxBits (f : FFmt) (s : Bool) : Nat := fInfBits f s - 1
/-- The canonical NaN (R103). -/
def fCanonNaN (f : FFmt) : Nat := (fExpOnes f <<< f.fb) ||| (1 <<< (f.fb - 1))
/-- A zero. -/
def fZeroBits (f : FFmt) (s : Bool) : Nat := b2n s <<< (f.eb + f.fb)

/-- Packs a magnitude already rounded to the format, `m < 2^(fb+1)` or exactly `2^(fb+1)`, last place `2^q`. -/
def fPack (f : FFmt) (s : Bool) (m : Nat) (q : Int) : Nat :=
  let (m, q) := if m = 2 ^ (f.fb + 1) then (2 ^ f.fb, q + 1) else (m, q)
  let e : Nat := if m < 2 ^ f.fb then 0 else (q - fQmin f).toNat + 1
  b2n s <<< (f.eb + f.fb) ||| (e <<< f.fb) ||| (m % 2 ^ f.fb)

/-- IEEE overflow: infinity or the largest finite value by the attribute (R102). -/
def fOverflow (f : FFmt) (rm : Rm) (s : Bool) : Nat :=
  match rm with
  | .rtz => fMaxBits f s
  | .rdn => if s then fInfBits f s else fMaxBits f s
  | .rup => if s then fMaxBits f s else fInfBits f s
  | _ => fInfBits f s

/-- Whether a rounded magnitude lies beyond the format's largest finite value. -/
def fExceeds (f : FFmt) (m : Nat) (q : Int) : Bool :=
  decide (fQmax f < q) || (decide (q = fQmax f) && decide (2 ^ (f.fb + 1) ≤ m))

/-- Rounds an exact magnitude into the format: the bits and the flags OF, UF and NX. Underflow is detected after
rounding and, under `ftz`, a result that is subnormal after rounding becomes zero with UF and NX (R107, R111). With
`sat`, overflow gives the largest finite value (R102). -/
def fRound (f : FFmt) (rm : Rm) (ftz sat : Bool) (s : Bool) (m : Nat) (e : Int) : Nat × FFlags :=
  if m = 0 then (fZeroBits f s, 0#5)
  else
    let r := roundMag rm s (f.fb + 1) (fQmin f) m e
    let u := roundMag rm s (f.fb + 1) (e + bitLen m - (f.fb + 1)) m e
    let tiny := magCmp u.1 u.2.1 (2 ^ f.fb) (fQmin f) == .lt
    if fExceeds f r.1 r.2.1 then
      (if sat then fMaxBits f s else fOverflow f rm s, flagOF ||| flagNX)
    else if ftz && decide (0 < r.1) && decide (r.1 < 2 ^ f.fb) then
      (fZeroBits f s, flagUF ||| flagNX)
    else
      (fPack f s r.1 r.2.1, flagIf (tiny && r.2.2) flagUF ||| flagIf r.2.2 flagNX)

/-- DAZ: a subnormal operand is read as zero of its sign (R107). -/
def fDaz (f : FFmt) (daz : Bool) : FVal → FVal
  | .fin s m e => if daz && decide (e = fQmin f) && decide (m < 2 ^ f.fb) then .fin s 0 e else .fin s m e
  | v => v

/-- Environment of one operation: attribute, FTZ, DAZ. -/
structure FEnv where
  rm : Rm
  ftz : Bool
  daz : Bool
  deriving DecidableEq, Repr

/-- Whether a datum is a NaN. -/
def isNaN : FVal → Bool
  | .nan _ _ _ => true
  | _ => false

/-- Whether a datum is a signalling NaN. -/
def isSNaN : FVal → Bool
  | .nan sg _ _ => sg
  | _ => false

/-- A quieted NaN written into the format (R113). -/
def fQuiet (f : FFmt) (s : Bool) (p : Nat) : Nat :=
  b2n s <<< (f.eb + f.fb) ||| (fExpOnes f <<< f.fb) ||| (1 <<< (f.fb - 1)) ||| (p % 2 ^ (f.fb - 1))

/-- The result of an operation with a NaN operand: the first NaN, quieted, NV for a signalling one (R113). -/
def nanResult (f : FFmt) (ops : List FVal) : Option (Nat × FFlags) :=
  match ops.find? isNaN with
  | some (.nan _ s p) => some (fQuiet f s p, flagIf (ops.any isSNaN) flagNV)
  | _ => none

/-- The result of an invalid operation without NaN operands (R113). -/
def invalidResult (f : FFmt) : Nat × FFlags := (fCanonNaN f, flagNV)

/-- The sign of an exact zero sum: minus only when both terms are, or under roundTowardNegative. -/
def zeroSumSign (rm : Rm) (s1 s2 : Bool) : Bool := if s1 == s2 then s1 else rm == .rdn

/-- The exact sum of two finite values; a zero sum takes the sign `zs`. -/
def finAdd (zs : Bool) (s1 : Bool) (m1 : Nat) (e1 : Int) (s2 : Bool) (m2 : Nat) (e2 : Int) : FVal :=
  let q := min e1 e2
  let a := m1 <<< (e1 - q).toNat
  let b := m2 <<< (e2 - q).toNat
  if s1 == s2 then (if a + b = 0 then .fin zs 0 q else .fin s1 (a + b) q)
  else if a = b then .fin zs 0 q
  else if b < a then .fin s1 (a - b) q
  else .fin s2 (b - a) q

/-- Rounds an exact finite value, or passes an infinity. -/
def fFinish (f : FFmt) (env : FEnv) : FVal → Nat × FFlags
  | .fin s m e => fRound f env.rm env.ftz false s m e
  | .inf s => (fInfBits f s, 0#5)
  | .nan _ _ _ => invalidResult f

/-- Addition of two data, not NaN. -/
def fAddVals (f : FFmt) (env : FEnv) (a b : FVal) : Nat × FFlags :=
  match a, b with
  | .inf s, .inf t => if s == t then (fInfBits f s, 0#5) else invalidResult f
  | .inf s, _ => (fInfBits f s, 0#5)
  | _, .inf t => (fInfBits f t, 0#5)
  | .fin s m e, .fin t n g => fFinish f env (finAdd (zeroSumSign env.rm s t) s m e t n g)
  | _, _ => invalidResult f

/-- The negation of a datum. -/
def fNeg : FVal → FVal
  | .nan sg s p => .nan sg s p
  | .inf s => .inf !s
  | .fin s m e => .fin (!s) m e

/-- IEEE addition (R105). -/
def fAdd (f : FFmt) (env : FEnv) (x y : Nat) : Nat × FFlags :=
  let a := fDaz f env.daz (fDecode f x)
  let b := fDaz f env.daz (fDecode f y)
  match nanResult f [a, b] with
  | some r => r
  | none => fAddVals f env a b

/-- IEEE subtraction (R105). -/
def fSub (f : FFmt) (env : FEnv) (x y : Nat) : Nat × FFlags :=
  let a := fDaz f env.daz (fDecode f x)
  let b := fDaz f env.daz (fDecode f y)
  match nanResult f [a, b] with
  | some r => r
  | none => fAddVals f env a (fNeg b)

/-- The exact product of two data; `none` where it is invalid. -/
def fMulVals (a b : FVal) : Option FVal :=
  match a, b with
  | .nan _ _ _, _ => none
  | _, .nan _ _ _ => none
  | .inf s, .inf t => some (.inf (s != t))
  | .inf s, .fin t n _ => if n = 0 then none else some (.inf (s != t))
  | .fin s m _, .inf t => if m = 0 then none else some (.inf (s != t))
  | .fin s m e, .fin t n g => some (.fin (s != t) (m * n) (e + g))

/-- IEEE multiplication (R105). -/
def fMul (f : FFmt) (env : FEnv) (x y : Nat) : Nat × FFlags :=
  let a := fDaz f env.daz (fDecode f x)
  let b := fDaz f env.daz (fDecode f y)
  match nanResult f [a, b] with
  | some r => r
  | none =>
    match fMulVals a b with
    | some p => fFinish f env p
    | none => invalidResult f

/-- IEEE fused multiply-add, rounded once; zero times infinity plus a quiet NaN raises NV (R105, R113). -/
def fFma (f : FFmt) (env : FEnv) (x y z : Nat) : Nat × FFlags :=
  let a := fDaz f env.daz (fDecode f x)
  let b := fDaz f env.daz (fDecode f y)
  let c := fDaz f env.daz (fDecode f z)
  let badMul := !isNaN a && !isNaN b && (fMulVals a b).isNone
  match nanResult f [a, b, c] with
  | some r => (r.1, r.2 ||| flagIf badMul flagNV)
  | none =>
    match fMulVals a b with
    | some p => fAddVals f env p c
    | none => invalidResult f

/-- Quotient of two magnitudes with a sticky last digit: enough places for one correct rounding. -/
def divSticky (p m n : Nat) (e : Int) : Nat × Int :=
  let sh := p + 3 + bitLen n
  let q := (m <<< sh) / n
  let r := (m <<< sh) % n
  (2 * q + b2n (r != 0), e - sh - 1)

/-- IEEE division, correctly rounded (R105). -/
def fDiv (f : FFmt) (env : FEnv) (x y : Nat) : Nat × FFlags :=
  let a := fDaz f env.daz (fDecode f x)
  let b := fDaz f env.daz (fDecode f y)
  match nanResult f [a, b] with
  | some r => r
  | none =>
    match a, b with
    | .inf _, .inf _ => invalidResult f
    | .inf s, .fin t _ _ => (fInfBits f (s != t), 0#5)
    | .fin s _ _, .inf t => (fZeroBits f (s != t), 0#5)
    | .fin s m e, .fin t n g =>
      if n = 0 then (if m = 0 then invalidResult f else (fInfBits f (s != t), flagDZ))
      else if m = 0 then (fZeroBits f (s != t), 0#5)
      else
        let r := divSticky (f.fb + 1) m n (e - g)
        fRound f env.rm env.ftz false (s != t) r.1 r.2
    | _, _ => invalidResult f

/-- Integer square root by bisection on the bits of the root, `k` bits left. -/
def isqrtGo (n : Nat) : Nat → Nat → Nat
  | 0, r => r
  | k + 1, r => let t := r + 2 ^ k; isqrtGo n k (if t * t ≤ n then t else r)

/-- `⌊√n⌋`. -/
def isqrt (n : Nat) : Nat := isqrtGo n (bitLen n / 2 + 1) 0

/-- IEEE square root, correctly rounded (R105). -/
def fSqrt (f : FFmt) (env : FEnv) (x : Nat) : Nat × FFlags :=
  let a := fDaz f env.daz (fDecode f x)
  match nanResult f [a] with
  | some r => r
  | none =>
    match a with
    | .inf s => if s then invalidResult f else (fInfBits f s, 0#5)
    | .fin s m e =>
      if m = 0 then (fZeroBits f s, 0#5)
      else if s then invalidResult f
      else
        let k := 2 * (f.fb + 4) + (e % 2).toNat
        let n := m <<< k
        let r := isqrt n
        fRound f env.rm env.ftz false false (2 * r + b2n (r * r != n)) ((e - k) / 2 - 1)
    | _ => invalidResult f

/-- Order of two data that are not NaN; zeros compare equal. -/
def fOrd (a b : FVal) : Ordering :=
  match a, b with
  | .inf s, .inf t => if s == t then .eq else if s then .lt else .gt
  | .inf s, _ => if s then .lt else .gt
  | _, .inf t => if t then .gt else .lt
  | .fin s m e, .fin t n g =>
    if m = 0 ∧ n = 0 then .eq
    else if m = 0 then (if t then .gt else .lt)
    else if n = 0 then (if s then .lt else .gt)
    else if s != t then (if s then .lt else .gt)
    else if s then magCmp n g m e else magCmp m e n g
  | _, _ => .eq

/-- Sign of a datum. -/
def fSign : FVal → Bool
  | .nan _ s _ => s
  | .inf s => s
  | .fin s _ _ => s

/-- minimumNumber and maximumNumber: -0 is below +0, and the number wins over one NaN (R252). DESIGN CHOICE (log entry 109): nothing is
rounded, so FTZ flushes no subnormal result. -/
def fMinMax (f : FFmt) (env : FEnv) (isMax : Bool) (x y : Nat) : Nat × FFlags :=
  let a := fDaz f env.daz (fDecode f x)
  let b := fDaz f env.daz (fDecode f y)
  let nv := flagIf (isSNaN a || isSNaN b) flagNV
  let bitsOf (v : FVal) (raw : Nat) : Nat :=
    match v with
    | .fin s 0 _ => fZeroBits f s
    | _ => raw
  if isNaN a && isNaN b then (nanResult f [a, b]).getD (invalidResult f)
  else if isNaN a then (bitsOf b y, nv)
  else if isNaN b then (bitsOf a x, nv)
  else
    let aLess := match fOrd a b with
      | .lt => true
      | .gt => false
      | .eq => fSign a && !fSign b
    if aLess == isMax then (bitsOf b y, nv) else (bitsOf a x, nv)

/-- FP comparison by condition code 0 to 6 (R250). -/
def fCmp (f : FFmt) (daz : Bool) (cond : Nat) (x y : Nat) : Bool × FFlags :=
  let a := fDaz f daz (fDecode f x)
  let b := fDaz f daz (fDecode f y)
  let un := isNaN a || isNaN b
  let snan := isSNaN a || isSNaN b
  let o := fOrd a b
  let quiet := cond == 0 || cond == 1 || cond == 6
  let nv := flagIf (if quiet then snan else un) flagNV
  let res := match cond with
    | 0 => !un && o == .eq
    | 1 => un || o != .eq
    | 2 => !un && o == .lt
    | 3 => !un && o != .gt
    | 4 => !un && o == .gt
    | 5 => !un && o != .lt
    | _ => un
  (res, nv)

/-- Rounds an exact value to an integer (R175, R253): the integer, and whether anything was lost. -/
def roundToInt (rm : Rm) (s : Bool) (m : Nat) (e : Int) : Int × Bool :=
  let r := roundMag rm s (bitLen m + e.toNat + 1) 0 m e
  let v : Int := ((r.1 <<< r.2.1.toNat : Nat) : Int)
  (if s then -v else v, r.2.2)

/-- Conversion into a two's complement or unsigned integer range, nearest bound beyond it, 0 for NaN, NV in either
case (R253). -/
def fToInt (env : FEnv) (lo hi : Int) : FVal → Int × FFlags
  | .nan _ _ _ => (0, flagNV)
  | .inf s => (if s then lo else hi, flagNV)
  | .fin s m e =>
    let r := roundToInt env.rm s m e
    if r.1 < lo then (lo, flagNV)
    else if hi < r.1 then (hi, flagNV)
    else (r.1, flagIf r.2 flagNX)

/-- Conversion of a datum into an IEEE-shaped format: NaN becomes canonical (R103), overflow follows `sat` (R102),
an infinity stays (R104). -/
def fConvert (f : FFmt) (env : FEnv) (sat : Bool) : FVal → Nat × FFlags
  | .nan sg _ _ => (fCanonNaN f, flagIf sg flagNV)
  | .inf s => (fInfBits f s, 0#5)
  | .fin s m e => fRound f env.rm env.ftz sat s m e

/-- An integer as an exact value. -/
def fOfInt (x : Int) : FVal := .fin (decide (x < 0)) x.natAbs 0

end Sys2Proof.Machine
end

