-- ==== Sys2Proof/Machine/Formats.lean ====
section
/-! DEFINITION. The format codes, the element encodings of the matrix and quantiser formats, the split of wide
elements into pieces, and the conversions into every target (03_number_formats.md R74 to R104). -/

namespace Sys2Proof.Machine

/-- Whether a format code is not reserved (R74). -/
def fmtValid (c : Nat) : Bool := c ≤ 0x14

/-- Element width in bits of a format code (R74). -/
def fmtBits (c : Nat) : Nat :=
  match c with
  | 0x00 => 16
  | 0x01 => 16
  | 0x02 => 8
  | 0x03 => 8
  | 0x04 => 8
  | 0x05 => 8
  | 0x06 => 6
  | 0x07 => 6
  | 0x08 => 4
  | 0x09 => 8
  | 0x0A => 8
  | 0x0B => 4
  | 0x0C => 3
  | 0x0D => 2
  | 0x0E => 2
  | 0x0F => 32
  | 0x10 => 32
  | 0x11 => 32
  | 0x12 => 64
  | 0x13 => 8
  | 0x14 => 64
  | _ => 8

/-- Formats the matrix engine takes as operands (R74). -/
def fmtMatrix (c : Nat) : Bool := c ≤ 0x0E || c == 0x10 || c == 0x11

/-- Formats whose group scale is required: the MX formats (R74, R81). -/
def fmtScaleReq (c : Nat) : Bool := 0x04 ≤ c && c ≤ 0x09

/-- Formats whose group scale is optional: INT8, INT4, M3, M2, MT (R74, R81). -/
def fmtScaleOpt (c : Nat) : Bool := 0x0A ≤ c && c ≤ 0x0E

/-- Number of pieces an element is split into (R92). -/
def fmtPieces (c : Nat) : Nat :=
  if c = 0x01 then 2 else if c = 0x10 then 2 else if c = 0x11 then 3 else 1

/-- Group size of a GSZ code: 0 for none (R257). -/
def gszLen (g : Nat) : Nat := if g = 0 then 0 else 16 * 2 ^ g

/-- A small floating-point format with no infinity: sign, exponent and fraction widths; every pattern finite. -/
def tinyDecode (eb fb x : Nat) : FVal :=
  let s := bit x (eb + fb)
  let e := bits x (eb + fb - 1) fb
  let m := x % 2 ^ fb
  let bias : Int := ((2 ^ (eb - 1) : Nat) : Int) - 1
  let q : Int := 1 - bias - fb
  if e = 0 then .fin s m q else .fin s (2 ^ fb + m) (q + (e - 1))

/-- E4M3: exponent 15 is finite but for the all-ones fraction, which is NaN (R75). -/
def e4m3Decode (x : Nat) : FVal :=
  if x % 128 = 127 then .nan false (bit x 7) 0 else tinyDecode 4 3 x

/-- MT: 0, +1, -1; the invalid code 0b10 decodes as 0 (R77, R78). -/
def mtDecode (x : Nat) : FVal :=
  match x % 4 with
  | 1 => .fin false 1 0
  | 3 => .fin true 1 0
  | _ => .fin false 0 0

/-- Whether an element is the invalid MT code (R77, R78). -/
def mtInvalid (c x : Nat) : Bool := c == 0x0E && x % 4 == 2

/-- The value of an element of a format, before its group scale (R75 to R78). E8M0 and ACC48 are not elements. -/
def elemDecode (c x : Nat) : FVal :=
  match c with
  | 0x00 => fDecode fmtB16 x
  | 0x01 => fDecode fmt16 x
  | 0x02 => e4m3Decode x
  | 0x03 => fDecode fmtE5M2 x
  | 0x04 => e4m3Decode x
  | 0x05 => fDecode fmtE5M2 x
  | 0x06 => tinyDecode 3 2 x
  | 0x07 => tinyDecode 2 3 x
  | 0x08 => tinyDecode 2 1 x
  | 0x09 => let v := sext 8 x; .fin (decide (v < 0)) v.natAbs (-6)
  | 0x0A => fOfInt (sext 8 x)
  | 0x0B => fOfInt (sext 4 x)
  | 0x0C => fOfInt (sext 3 x)
  | 0x0D => fOfInt (sext 2 x)
  | 0x0E => mtDecode x
  | 0x0F => fDecode fmt32 x
  | 0x10 => fDecode fmt32 x
  | 0x11 => fDecode fmt32 x
  | 0x12 => fDecode fmt64 x
  | _ => .fin false 0 0

/-- Multiplies an exact value by a power of two. -/
def fScale (k : Int) : FVal → FVal
  | .fin s m e => .fin s m (e + k)
  | v => v

/-- The 18-bit common internal form of a value of at most 8 significant bits (R87). -/
def internalForm : FVal → BitVec 18
  | .nan _ s _ => BitVec.ofNat 18 (b2n s <<< 17 ||| 0x1FF <<< 8 ||| 0xC0)
  | .inf s => BitVec.ofNat 18 (b2n s <<< 17 ||| 0x1FF <<< 8 ||| 0x80)
  | .fin s m e =>
    if m = 0 then BitVec.ofNat 18 (b2n s <<< 17)
    else
      let sh : Int := 8 - bitLen m
      let sig := if 0 ≤ sh then m <<< sh.toNat else m >>> (-sh).toNat
      let ex : Int := e - sh + 7 + 255
      BitVec.ofNat 18 (b2n s <<< 17 ||| ex.toNat <<< 8 ||| sig % 256)

/-- Rounds a value to 8 significant bits, ties to even, with no exponent limit: the piece rounding of R98. -/
def round8 : FVal → FVal
  | .fin s m e => let r := roundMag .rne s 8 (e + bitLen m - 8) m e; .fin s r.1 r.2.1
  | v => v

/-- The leading 8 significant bits of a value, without rounding (R93). -/
def trunc8 : FVal → FVal
  | .fin s m e => let r := roundMag .rtz s 8 (e + bitLen m - 8) m e; .fin s r.1 r.2.1
  | v => v

/-- The exact difference of two finite values; a zero difference is +0. -/
def finSub : FVal → FVal → FVal
  | .fin s m e, .fin t n g => finAdd false s m e (!t) n g
  | a, _ => a

/-- Positive zero. -/
def fvZero : FVal := .fin false 0 0

/-- FP16 in two pieces: the second holds the remaining bits with the same sign (R93). -/
def splitFp16 (v : FVal) : List FVal :=
  match v with
  | .fin s _ _ =>
    let hi := trunc8 v
    match finSub v hi with
    | .fin _ m e => [hi, .fin s m e]
    | w => [hi, w]
  | _ => [v, fvZero]

/-- FP32S2 and FP32S3 pieces (R98). -/
def splitFp32 (n : Nat) (v : FVal) : List FVal :=
  match v with
  | .fin _ _ _ =>
    let hi := round8 v
    let r1 := finSub v hi
    let mid := round8 r1
    let lo := round8 (finSub r1 mid)
    if n = 2 then [hi, mid] else [hi, mid, lo]
  | _ => if n = 2 then [v, fvZero] else [v, fvZero, fvZero]

/-- The pieces of a matrix element of format `c` (R92, R93, R98). -/
def elemPieces (c x : Nat) : List FVal :=
  let v := elemDecode c x
  if c = 0x01 then splitFp16 v
  else if c = 0x10 then splitFp32 2 v
  else if c = 0x11 then splitFp32 3 v
  else [v]

/-- Whether both operands take the packed path (R90). -/
def packedPair (a b : Nat) : Bool := a == b && (a == 0x08 || (0x0B ≤ a && a ≤ 0x0E))

/-- Reduction indices per step on the packed path, 1 on the main path (R91). -/
def packFactor (a b : Nat) : Nat :=
  if packedPair a b then (if a = 0x08 ∨ a = 0x0B then 2 else 4) else 1

/-- Passes per reduction index of a pair (R92). -/
def passCount (a b : Nat) : Nat :=
  let pa := fmtPieces a
  let pb := fmtPieces b
  let s3 := (a == 0x11 && 2 ≤ pb) || (b == 0x11 && 2 ≤ pa)
  if a == 0x11 && b == 0x11 then 6
  else if s3 then 5
  else if (a == 0x10 && 2 ≤ pb) || (b == 0x10 && 2 ≤ pa) then 3
  else max pa pb

/-- The product of two pieces; `none` is NaN. A lower piece that is zero contributes nothing (R89, R96). -/
def pieceProd (ia ib : Nat) (a b : FVal) : Option (Option FVal) :=
  let zeroLow (i : Nat) (v : FVal) : Bool := i != 0 && (match v with | .fin _ 0 _ => true | _ => false)
  if zeroLow ia a || zeroLow ib b then none else some (fMulVals a b)

/-! ### Conversions into a target format (R101 to R104, R175, R176) -/

/-- Largest magnitude of a small floating-point or integer target as `m * 2^q`, for its negative or positive side. -/
def tgtMax (c : Nat) (neg : Bool) : Nat × Int :=
  match c with
  | 0x02 => (448, 0)
  | 0x04 => (448, 0)
  | 0x03 => (57344, 0)
  | 0x05 => (57344, 0)
  | 0x06 => (28, 0)
  | 0x07 => (15, -1)
  | 0x08 => (6, 0)
  | 0x09 => (if neg then 128 else 127, -6)
  | 0x0A => (if neg then 128 else 127, 0)
  | 0x0B => (if neg then 8 else 7, 0)
  | 0x0C => (if neg then 4 else 3, 0)
  | 0x0D => (if neg then 2 else 1, 0)
  | 0x0E => (1, 0)
  | _ => (1, 0)

/-- Exponent and fraction widths of the small floating-point targets. -/
def tgtFloat (c : Nat) : Option (Nat × Nat) :=
  match c with
  | 0x02 => some (4, 3)
  | 0x04 => some (4, 3)
  | 0x03 => some (5, 2)
  | 0x05 => some (5, 2)
  | 0x06 => some (3, 2)
  | 0x07 => some (2, 3)
  | 0x08 => some (2, 1)
  | _ => none

/-- Fraction places of an integer-valued target: 6 for MXINT8, 0 for the others. -/
def tgtIntFrac (c : Nat) : Nat := if c = 0x09 then 6 else 0

/-- The code of a small floating-point target for a magnitude that the target holds, last place `2^q`. -/
def tinyPack (eb fb : Nat) (s : Bool) (m : Nat) (q : Int) : Nat :=
  let bias : Int := ((2 ^ (eb - 1) : Nat) : Int) - 1
  let qmin : Int := 1 - bias - fb
  let (m, q) := if m = 2 ^ (fb + 1) then (2 ^ fb, q + 1) else (m, q)
  let e : Nat := if m < 2 ^ fb then 0 else (q - qmin).toNat + 1
  b2n s <<< (eb + fb) ||| e <<< fb ||| m % 2 ^ fb

/-- Outcome of one element conversion: the code, whether R101 saturated it, and the IEEE flags it would raise. -/
structure CvtRes where
  code : Nat
  sat : Bool
  flags : FFlags
  deriving DecidableEq, Repr

/-- Conversion of a finite value into a small floating-point target (R101, R102). -/
def cvtTiny (c eb fb : Nat) (rm : Rm) (satBit : Bool) (s : Bool) (m : Nat) (e : Int) : CvtRes :=
  let bias : Int := ((2 ^ (eb - 1) : Nat) : Int) - 1
  let qmin : Int := 1 - bias - fb
  let r := roundMag rm s (fb + 1) qmin m e
  let mx := tgtMax c s
  let maxR := roundMag .rtz s (fb + 1) qmin mx.1 mx.2
  let maxC := tinyPack eb fb s maxR.1 maxR.2.1
  let nx := flagIf r.2.2 flagNX
  let u := roundMag rm s (fb + 1) (e + bitLen m - (fb + 1)) m e
  let uf := flagIf (r.2.2 && magCmp u.1 u.2.1 (2 ^ fb) qmin == .lt) flagUF
  if magCmp r.1 r.2.1 mx.1 mx.2 == .gt then
    let o := flagOF ||| flagNX
    if (c = 0x02 ∨ c = 0x04) ∧ satBit = false then ⟨0x7F, false, o⟩
    else if (c = 0x03 ∨ c = 0x05) ∧ satBit = false then ⟨fOverflow fmtE5M2 rm s, false, o⟩
    else ⟨maxC, true, o⟩
  else ⟨tinyPack eb fb s r.1 r.2.1, false, nx ||| uf⟩

/-- Conversion of a finite value into an integer-valued target (R101, R176). -/
def cvtIntTgt (c : Nat) (rm : Rm) (s : Bool) (m : Nat) (e : Int) : CvtRes :=
  let r := roundToInt rm s m (e + tgtIntFrac c)
  let hi : Int := ((tgtMax c false).1 : Nat)
  let lo : Int := -(((tgtMax c true).1 : Nat) : Int)
  let v := if r.1 < lo then lo else if hi < r.1 then hi else r.1
  let sat := decide (r.1 < lo) || decide (hi < r.1)
  ⟨wrapInt (fmtBits c) v, sat, flagIf (r.2 || sat) flagNX ||| flagIf sat flagOF⟩

/-- Conversion of a value into a target format: NaN by R103, infinity by R104, finite values by R101 and R102. The
MX codes and the plain FP8 codes share their element encodings (R75), and the SAT bit rules both (R102). -/
def cvtTo (c : Nat) (rm : Rm) (satBit ftz : Bool) (v : FVal) : CvtRes :=
  let ieee (f : FFmt) : CvtRes :=
    match v with
    | .nan sg _ _ => ⟨fCanonNaN f, false, flagIf sg flagNV⟩
    | .inf s => ⟨fInfBits f s, false, 0#5⟩
    | .fin s m e =>
      let r := fRound f rm ftz satBit s m e
      ⟨r.1, satBit && (r.2 &&& flagOF != 0#5), r.2⟩
  match c with
  | 0x00 => ieee fmtB16
  | 0x01 => ieee fmt16
  | 0x0F => ieee fmt32
  | 0x12 => ieee fmt64
  | _ =>
    match tgtFloat c with
    | some (eb, fb) =>
      match v with
      | .nan sg _ _ =>
        ⟨if c = 0x02 ∨ c = 0x04 then 0x7F else if c = 0x03 ∨ c = 0x05 then 0x7E else 0, false, flagIf sg flagNV⟩
      | .inf s =>
        if c = 0x03 ∨ c = 0x05 then ⟨fInfBits fmtE5M2 s, false, 0#5⟩
        else
          let mx := tgtMax c s
          ⟨(cvtTiny 0x04 eb fb .rtz true s mx.1 mx.2).code, true, 0#5⟩
      | .fin s m e => cvtTiny c eb fb rm satBit s m e
    | none =>
      match v with
      | .nan _ _ _ => ⟨0, false, flagNV⟩
      | .inf s =>
        let mx := (tgtMax c s).1
        ⟨wrapInt (fmtBits c) (if s then -(mx : Int) else mx), true, flagNV⟩
      | .fin s m e => cvtIntTgt c rm s m e

end Sys2Proof.Machine
end

