-- ==== Sys2Proof/Machine/Accum.lean ====
section
/-! DEFINITION. The 48-bit totals, the chunk registers and the reductions of the array cells
(05_accumulation_and_quantisation.md R147 to R162; 03_number_formats.md R89 to R97; 04_matrix_arrays.md R120,
R134 to R137). -/

namespace Sys2Proof.Machine

/-- A total: SIGN [47], EXP [46:39], SIG [38:0] of the ACC48 container (R147). -/
abbrev Total := BitVec 48

/-- The canonical NaN total (R148). -/
def totNaN : Total := BitVec.ofNat 48 (0xFF <<< 39 ||| 0x4000000000)

/-- The value of a total (R148). -/
def totDecode (t : Total) : FVal :=
  let x := t.toNat
  let s := bit x 47
  let e := bits x 46 39
  let m := bits x 38 0
  if e = 0xFF then (if m = 0 then .inf s else .nan false s m)
  else if e = 0 then .fin s m (-164)
  else .fin s m ((e : Int) - 165)

/-- Rounds a value once to a total: 39 significant bits, ties to even, subnormal at 2^-164, infinity beyond the
largest finite total, canonical NaN (R149). -/
def totRound (v : FVal) : Total :=
  match v with
  | .nan _ _ _ => totNaN
  | .inf s => BitVec.ofNat 48 (b2n s <<< 47 ||| 0xFF <<< 39)
  | .fin s m e =>
    let r := roundMag .rne s 39 (-164) m e
    let (m, q) := if r.1 = 2 ^ 39 then (2 ^ 38, r.2.1 + 1) else (r.1, r.2.1)
    if 89 < q then BitVec.ofNat 48 (b2n s <<< 47 ||| 0xFF <<< 39)
    else
      let ex : Nat := if m < 2 ^ 38 then 0 else (q + 165).toNat
      BitVec.ofNat 48 (b2n s <<< 47 ||| ex <<< 39 ||| m)

/-- The exact sum of two data under the sign and NaN rules of R149. -/
def fvAdd (a b : FVal) : FVal :=
  match a, b with
  | .nan _ _ _, _ => .nan false false 0
  | _, .nan _ _ _ => .nan false false 0
  | .inf s, .inf t => if s == t then .inf s else .nan false false 0
  | .inf s, _ => .inf s
  | _, .inf t => .inf t
  | .fin s m e, .fin t n g => finAdd (s && t) s m e t n g

/-- Adds a value into a total with its one rounding (R149). -/
def totAdd (t : Total) (v : FVal) : Total := totRound (fvAdd (totDecode t) v)

/-- Rounds a chunk to 20 significant bits, ties to even (R150, R153). -/
def chunkRound : FVal → FVal
  | .fin s m e => let r := roundMag .rne s 20 (e + bitLen m - 20) m e; .fin s r.1 r.2.1
  | v => v

/-- Adds a product, or a packed step's exact sum, into a chunk (R153). -/
def chunkAdd (c v : FVal) : FVal := chunkRound (fvAdd c v)

/-- The exact scaling of a chunk or of a partial product by two E8M0 bytes; 0xFF makes it NaN (R86, R97, R154). -/
def scaleBy (sa sb : Nat) (v : FVal) : FVal :=
  if sa = 0xFF ∨ sb = 0xFF then .nan false false 0 else fScale ((sa : Int) + sb - 254) v

/-- One row of an operand as the array sees it: the pieces of each element, the scale byte of each element's group,
and the group length that ends chunks (R124, R151). -/
structure OpRow where
  elems : List (List FVal)
  scales : List Nat
  glen : Nat
  deriving DecidableEq, Repr

/-- A pair of elements met at one reduction index. -/
structure KPair where
  k : Nat
  a : List FVal
  sa : Nat
  b : List FVal
  sb : Nat
  deriving DecidableEq, Repr

/-- Pairs two element lists from index `k` on. -/
def pairUp (k : Nat) : List (List FVal) → List Nat → List (List FVal) → List Nat → List KPair
  | a :: as, sa :: sas, b :: bs, sb :: sbs => ⟨k, a, sa, b, sb⟩ :: pairUp (k + 1) as sas bs sbs
  | _, _, _, _ => []

/-- The pairs of one operand row and one operand column, in ascending reduction index (R120). -/
def rowPairs (a b : OpRow) : List KPair := pairUp 0 a.elems a.scales b.elems b.scales

/-- The product of two one-piece elements. -/
def headProd (p : KPair) : FVal :=
  match p.a, p.b with
  | x :: _, y :: _ => (fMulVals x y).getD (.nan false false 0)
  | _, _ => fvZero

/-- State of a single-pass reduction: the running packed step, the chunk, the total. -/
structure CellRun where
  stepSum : Option FVal
  chunk : FVal
  total : Total
  deriving DecidableEq, Repr

/-- One reduction index of a single-pass reduction: products of one step are summed exactly, the step's sum enters
the chunk, and a chunk that ends is scaled and promoted (R91, R152 to R155). -/
def cellIndex (q ga gb k1 : Nat) (r : CellRun) (p : KPair) : CellRun :=
  let v := match r.stepSum with
    | none => headProd p
    | some u => fvAdd u (headProd p)
  let last := decide (p.k + 1 = k1)
  let chunkEnd := last || (p.k + 1) % ga == 0 || (p.k + 1) % gb == 0
  if chunkEnd then ⟨none, fvZero, totAdd r.total (scaleBy p.sa p.sb (chunkAdd r.chunk v))⟩
  else if (p.k + 1) % q == 0 then ⟨none, chunkAdd r.chunk v, r.total⟩
  else ⟨some v, r.chunk, r.total⟩

/-- A single-pass reduction over some pairs, the last of them at index `k1 - 1` (R152 to R155). -/
def reduceSingle (q ga gb k1 : Nat) (ps : List KPair) (t : Total) : Total :=
  (ps.foldl (cellIndex q ga gb k1) ⟨none, fvZero, t⟩).total

/-- The passes of a pair of piece counts: `i + j` ascending, ties in ascending `i` (R95). -/
def passOrder (pa pb : Nat) : List (Nat × Nat) :=
  (List.range (max pa pb)).flatMap fun s =>
    ((List.range (s + 1)).map fun i => (i, s - i)).filter fun ij => ij.1 < pa && ij.2 < pb

/-- The partial product of a pass; `none` where a zero lower piece makes it contribute nothing (R96). -/
def passProd (a b : List FVal) (ij : Nat × Nat) : Option FVal :=
  (pieceProd ij.1 ij.2 (a.getD ij.1 fvZero) (b.getD ij.2 fvZero)).map (·.getD (.nan false false 0))

/-- The partial products of one reduction index in pass order. FP16 with FP16 forms its second pass as one exact sum
(R94). -/
def indexPartials (fp16pair : Bool) (p : KPair) : List FVal :=
  if fp16pair then
    let second := [(0, 1), (1, 0), (1, 1)].filterMap (passProd p.a p.b)
    (passProd p.a p.b (0, 0)).toList ++
      (match second with
       | [] => []
       | v :: vs => [vs.foldl fvAdd v])
  else (passOrder p.a.length p.b.length).filterMap (passProd p.a p.b)

/-- A multi-pass reduction: every partial product is scaled and added straight into the total (R97). -/
def reduceMulti (fp16pair : Bool) (ps : List KPair) (t : Total) : Total :=
  ps.foldl (fun t p => (indexPartials fp16pair p).foldl (fun t v => totAdd t (scaleBy p.sa p.sb v)) t) t

/-- Whether a pair of formats runs in more than one pass (R92). -/
def multiPass (fa fb : Nat) : Bool := fmtPieces fa != 1 || fmtPieces fb != 1

/-- The reduction of one cell over the pairs with index in `[k0, k1)`. -/
def reduceCell (fa fb : Nat) (a b : OpRow) (k0 k1 : Nat) (t : Total) : Total :=
  let ps := (rowPairs a b).filter fun p => k0 ≤ p.k && p.k < k1
  if multiPass fa fb then reduceMulti (fa == 0x01 && fb == 0x01) ps t
  else reduceSingle (packFactor fa fb) a.glen b.glen k1 ps t

/-- The K4 quarter length (R134). -/
def k4Quarter (k : Nat) : Nat := 32 * ceilDiv k 128

/-- The K4 reduction of one output element from its start value (R134 to R137). -/
def reduceK4 (fa fb : Nat) (a b : OpRow) (k : Nat) (t : Total) : Total :=
  let kq := k4Quarter k
  let quarter (c : Nat) (t0 : Total) : Total := reduceCell fa fb a b (c * kq) (min k ((c + 1) * kq)) t0
  let q0 := quarter 0 t
  let q1 := quarter 1 0#48
  let q2 := quarter 2 0#48
  let q3 := quarter 3 0#48
  totAdd (totAdd q0 (totDecode q1)) (totDecode (totAdd q2 (totDecode q3)))

/-- Readout to FP32: one rounding, subnormals kept, NaN canonical (R160). -/
def totToF32 (rm : Rm) (t : Total) : Nat × FFlags :=
  fConvert fmt32 ⟨rm, false, false⟩ false (totDecode t)

/-- A total loaded from an FP32 element (R162). -/
def totOfF32 (x : Nat) : Total := totRound (fDecode fmt32 x)

/-- A total loaded from an ACC48 container: normalised, NaN canonical, reserved bits ignored (R147, R162). -/
def totOfAcc48 (x : Nat) : Total := totRound (totDecode (BitVec.ofNat 48 x))

/-- Steps a matrix instruction occupies the engine for, waits apart (R146). -/
def mmaSteps (fa fb shape hr k : Nat) (drain : Bool) : Nat :=
  let q := packFactor fa fb
  let p := passCount fa fb
  let prod := if shape = 3 then p * k4Quarter k / q else p * ceilDiv k q
  1 + b2n (hr == 1) + prod + (if shape = 3 then 2 else 0) + b2n drain

end Sys2Proof.Machine
end

