-- ==== Sys2Proof/Machine/Quantiser.lean ====
section
/-! DEFINITION. The quantiser: its control word, the choice of a group's scale, the conversion of elements, and the
statistics tensor (05_accumulation_and_quantisation.md R169 to R186, R753; 03_number_formats.md R101 to R104). -/

namespace Sys2Proof.Machine

/-- The quantiser control word (R169). -/
structure QCtl where
  fmt : Nat
  gsz : Nat
  smode : Nat
  rm : Nat
  sat : Bool
  stats : Nat
  sinit : Bool
  rsv : Nat
  deriving DecidableEq, Repr

/-- Reads a quantiser control word (R169). -/
def qctlOf (x : Nat) : QCtl :=
  ⟨bits x 31 27, bits x 26 25, bits x 24 23, bits x 22 20, bit x 19, bits x 18 17, bit x 16, bits x 15 0⟩

/-- Whether a control word is valid for a source and a destination (R170). `srcAcc`: the source is an accumulator
tile; `outq`: the output quantiser is the one used; `dfmt`, `dgsz`: the destination descriptor's. -/
def qctlValid (q : QCtl) (srcAcc outq : Bool) (dfmt dgsz : Nat) : Bool :=
  fmtValid q.fmt && q.fmt != 0x10 && q.fmt != 0x11 && q.fmt != 0x13 &&
  (fmtScaleReq q.fmt || fmtScaleOpt q.fmt || q.gsz == 0) &&
  (!fmtScaleReq q.fmt || q.gsz != 0) &&
  q.smode != 3 && q.rm != 5 && q.rm != 6 && q.stats != 3 &&
  (q.stats != 2 || q.gsz != 0) &&
  q.fmt == dfmt && q.gsz == dgsz &&
  !(q.fmt == 0x12 && srcAcc) && !(q.fmt == 0x14 && !srcAcc) &&
  !(outq && q.gsz == 3) && q.rsv == 0

/-- emax of a target format (R173). -/
def qEmax (c : Nat) : Int :=
  match c with
  | 0x02 => 8
  | 0x04 => 8
  | 0x03 => 15
  | 0x05 => 15
  | 0x06 => 4
  | 0x07 => 2
  | 0x08 => 2
  | 0x09 => 0
  | 0x0A => 6
  | 0x0B => 2
  | 0x0C => 1
  | _ => 0

/-- Whether `|x| * 2^(127 - s)` does not exceed the target's bound on x's side (R173, FIT). -/
def fitsScale (c : Nat) (s : Nat) (v : FVal) : Bool :=
  match v with
  | .fin sg m e =>
    let mx := tgtMax c sg
    m == 0 || magCmp m (e + 127 - s) mx.1 mx.2 != .gt
  | _ => true

/-- The larger of two magnitudes, finite values only. -/
def maxMag (a b : Nat × Int) : Nat × Int := if magCmp a.1 a.2 b.1 b.2 == .lt then b else a

/-- The largest magnitude among finite values; `(0, 0)` where there is none or all are zero (R173). -/
def amaxOf (vs : List FVal) : Nat × Int :=
  vs.foldl (fun a v => match v with
    | .fin _ m e => if m = 0 then a else if a.1 = 0 then (m, e) else maxMag a (m, e)
    | _ => a) (0, 0)

/-- The scale byte of a group (R173, R174). `held`: the byte in the destination scale tensor. -/
def groupScale (q : QCtl) (held : Nat) (vs : List FVal) : Nat :=
  if q.smode = 2 then held
  else if vs.any isNaN then 0xFF
  else
    let a := amaxOf vs
    if a.1 = 0 then 127
    else if q.smode = 0 then
      let s : Int := (a.2 + bitLen a.1 - 1) - qEmax q.fmt + 127
      (max 0 (min 254 s)).toNat
    else ((List.range 255).find? fun s => vs.all (fitsScale q.fmt s)).getD 254

/-- Sums and counts of one group or of a tensor: FP64 bits of SSE and SSW, and the counts of R184. -/
structure QSums where
  sse : Nat
  ssw : Nat
  sat : Nat
  nan : Nat
  under : Nat
  deriving DecidableEq, Repr

/-- The arithmetic of the sums: round to nearest even, nothing flushed (R185). -/
def qEnv : FEnv := ⟨.rne, false, false⟩

/-- FP64 bits of an exact value. -/
def toF64 (v : FVal) : Nat := (fConvert fmt64 qEnv false v).1

/-- What one element adds to the statistics: `x` the wide value, `y` the value written, dequantised (R184). -/
def elemStats (x y : FVal) (saturated : Bool) (s : QSums) : QSums :=
  match x with
  | .nan _ _ _ => { s with nan := s.nan + 1 }
  | .inf _ => { s with sat := s.sat + 1 }
  | .fin _ m _ =>
    match y with
    | .fin _ n _ =>
      let xb := toF64 x
      let d := (fSub fmt64 qEnv xb (toF64 y)).1
      { s with
        ssw := (fAdd fmt64 qEnv s.ssw (fMul fmt64 qEnv xb xb).1).1
        sse := (fAdd fmt64 qEnv s.sse (fMul fmt64 qEnv d d).1).1
        sat := s.sat + b2n saturated
        under := s.under + b2n (m != 0 && n == 0) }
    | _ => { s with sat := s.sat + 1 }

/-- One converted element: its code and what the statistics need. -/
structure QElem where
  code : Nat
  x : FVal
  y : FVal
  sat : Bool
  deriving DecidableEq, Repr

/-- Converts one wide value under a scale byte (R101 to R104, R174, R175). -/
def quantElem (q : QCtl) (rm : Rm) (scale : Nat) (x : FVal) : QElem :=
  if scale = 0xFF then ⟨0, x, .nan false false 0, false⟩
  else
    let r := cvtTo q.fmt rm q.sat false (fScale (127 - (scale : Int)) x)
    ⟨r.code, x, fScale ((scale : Int) - 127) (elemDecode q.fmt r.code), r.sat⟩

/-- A converted group: its scale byte and its elements. -/
structure QGroup where
  scale : Nat
  elems : List QElem
  deriving DecidableEq, Repr

/-- Converts one group of wide values; without groups the scale is 2^0 (R82, R174). -/
def quantGroup (q : QCtl) (rm : Rm) (held : Nat) (xs : List FVal) : QGroup :=
  let s := if q.gsz = 0 then 127 else groupScale q held xs
  ⟨s, xs.map (quantElem q rm s)⟩

/-- Cuts a row into groups of `g` elements, the last one perhaps partial; `fuel` bounds the number of groups. -/
def chunksOf {α : Type} (g : Nat) : Nat → List α → List (List α)
  | 0, _ => []
  | _ + 1, [] => []
  | n + 1, x :: xs => (x :: xs).take g :: chunksOf g n ((x :: xs).drop g)

/-- The tensor record of R181. -/
structure TensorRec where
  elems : Nat
  sse : Nat
  ssw : Nat
  sat : Nat
  nan : Nat
  under : Nat
  groups : Nat
  worstRel : Nat
  worstGroup : Nat
  ops : Nat
  deriving DecidableEq, Repr

/-- The record set to zero (R169, SINIT). -/
def recZero : TensorRec := ⟨0, 0, 0, 0, 0, 0, 0, 0, 0, 0⟩

/-- Reads a tensor record from its 512 bits (R181). -/
def recOf (x : Nat) : TensorRec :=
  ⟨bits x 63 0, bits x 127 64, bits x 191 128, bits x 223 192, bits x 255 224, bits x 287 256, bits x 319 288,
   bits x 351 320, bits x 383 352, bits x 415 384⟩

/-- A saturating count of `w` bits (R181). -/
def satCount (w x : Nat) : Nat := min x (2 ^ w - 1)

/-- The 512 bits of a tensor record; counts saturate (R181). -/
def recBits (r : TensorRec) : Nat :=
  satCount 64 r.elems ||| r.sse <<< 64 ||| r.ssw <<< 128 ||| satCount 32 r.sat <<< 192 |||
  satCount 32 r.nan <<< 224 ||| satCount 32 r.under <<< 256 ||| satCount 32 r.groups <<< 288 |||
  r.worstRel <<< 320 ||| satCount 32 r.worstGroup <<< 352 ||| satCount 32 r.ops <<< 384

/-- FP32 bits of a value given as FP64 bits. -/
def f64to32 (x : Nat) : Nat := (fConvert fmt32 qEnv false (fDecode fmt64 x)).1

/-- The relative error of a group: the FP64 quotient rounded to FP32, 0 for both sums zero, +infinity for SSW zero
alone (R185). -/
def relOf (sse ssw : Nat) : Nat :=
  if ssw = 0 then (if sse = 0 then 0 else fInfBits fmt32 false)
  else f64to32 (fDiv fmt64 qEnv sse ssw).1

/-- The statistics of one group alone (R185). -/
def groupSums (g : QGroup) : QSums := g.elems.foldl (fun s e => elemStats e.x e.y e.sat s) ⟨0, 0, 0, 0, 0⟩

/-- The group entry's 128 bits (R182). -/
def groupEntryBits (g : QGroup) : Nat :=
  let s := groupSums g
  f64to32 s.sse ||| f64to32 s.ssw <<< 32 ||| satCount 8 g.elems.length <<< 64 ||| satCount 8 s.sat <<< 72 |||
  satCount 8 s.nan <<< 80 ||| satCount 8 s.under <<< 88 ||| g.scale <<< 96

/-- Adds one group's elements to the tensor record, and its relative error where the operation converts groups
(R184, R185, R753). `idx` is the group-entry index of R183. The first group of all is the first to reach WORST_REL, its
ratio 0 included (R181; DEDUCED). -/
def recAddGroup (hasGroups : Bool) (r : TensorRec) (idx : Nat) (g : QGroup) : TensorRec :=
  let s := g.elems.foldl (fun s e => elemStats e.x e.y e.sat s) ⟨r.sse, r.ssw, r.sat, r.nan, r.under⟩
  let r1 : TensorRec := { r with
    elems := r.elems + g.elems.length, sse := s.sse, ssw := s.ssw, sat := s.sat, nan := s.nan, under := s.under }
  if hasGroups then
    let gs := groupSums g
    let rel := relOf gs.sse gs.ssw
    let worse := r.groups == 0 || fOrd (fDecode fmt32 r.worstRel) (fDecode fmt32 rel) == .lt
    { r1 with
      groups := r.groups + 1
      worstRel := if worse then rel else r.worstRel
      worstGroup := if worse then idx else r.worstGroup }
  else r1

/-- A row as the quantiser writes it: the codes and the groups with their scale bytes, in column order. -/
structure QRow where
  groups : List QGroup
  deriving DecidableEq, Repr

/-- The codes of a row in column order. -/
def qrowCodes (r : QRow) : List Nat := r.groups.flatMap fun g => g.elems.map (·.code)

/-- Converts one row of wide values. `helds` are the bytes of the destination scale tensor from the first group on,
used under FIXED (R173 to R177). -/
def quantRow (q : QCtl) (rm : Rm) (helds : List Nat) (xs : List FVal) : QRow :=
  let g := if q.gsz = 0 then xs.length else gszLen q.gsz
  ⟨((chunksOf g xs.length xs).zipIdx).map fun p => quantGroup q rm (helds.getD p.2 127) p.1⟩

/-- Adds a row's groups to the record, the first at group-entry index `idx0` (R183, R185). -/
def recAddRow (hasGroups : Bool) (r : TensorRec) (idx0 : Nat) (row : QRow) : TensorRec :=
  row.groups.zipIdx.foldl (fun r p => recAddGroup hasGroups r (idx0 + p.2) p.1) r

end Sys2Proof.Machine
end

