-- ==== Sys2Proof/Machine/Operands.lean ====
section
/-! DEFINITION. Operand forms of core instructions: registers, the instruction word, lanes, local addresses and tile
descriptors (08_core_programming.md R241 to R259; 12_memory_system.md R399, R400). -/

namespace Sys2Proof.Machine

/-! ### Registers (08 "Registers") -/

def getCore (s : State) (c : Fin 192) : CoreSt := s.cores[c]

def putCore (s : State) (c : Fin 192) (x : CoreSt) : State := { s with cores := s.cores.set c x }

def modCore (s : State) (c : Fin 192) (f : CoreSt → CoreSt) : State := putCore s c (f (getCore s c))

def modCluster (s : State) (k : Fin 24) (f : ClusterSt → ClusterSt) : State :=
  { s with clusters := s.clusters.set k (f s.clusters[k]) }

/-- x register: x0 reads 0. -/
def xr (x : CoreSt) (r : Fin 32) : BitVec 64 := if r = 0 then 0 else x.x[r]

/-- Writes an x register: writes to x0 are ignored. -/
def setX (x : CoreSt) (r : Fin 32) (v : BitVec 64) : CoreSt := if r = 0 then x else { x with x := x.x.set r v }

/-- Predicate: p0 reads true. -/
def pr (x : CoreSt) (r : Fin 8) : Bool := if r = 0 then true else x.p[r]

/-- Writes a predicate: writes to p0 are ignored. -/
def setP (x : CoreSt) (r : Fin 8) (b : Bool) : CoreSt := if r = 0 then x else { x with p := x.p.set r b }

/-- The predicate a 5-bit field names; the field is at most 7 in a valid instruction. -/
def predField (r : Fin 32) : Fin 8 := fin 8 r

/-- v register as a number of 2048 bits. -/
def vr (x : CoreSt) (r : Fin 32) : Nat := x.v[r].toNat

def setV (x : CoreSt) (r : Fin 32) (v : Nat) : CoreSt := { x with v := x.v.set r (BitVec.ofNat 2048 v) }

/-! ### The instruction word (R246) -/

/-- The 128 bits of an instruction from its opcode and fields. -/
def wordBits (opc : Nat) (w : CoreWord) : Nat :=
  opc * 2 ^ 120 + b2n w.pneg * 2 ^ 119 + w.pred.val * 2 ^ 116 + w.rd.val * 2 ^ 111 + w.rs1.val * 2 ^ 106
    + w.rs2.val * 2 ^ 101 + w.rs3.val * 2 ^ 96 + w.ctl.toNat * 2 ^ 64 + w.imm.toNat

/-- Whether an opcode is in the opcode table (R249). -/
def opcKnown (o : Nat) : Bool :=
  (0x01 ≤ o && o ≤ 0x0A) || o == 0x10 || o == 0x11 || o == 0x14 || o == 0x15 || (0x18 ≤ o && o ≤ 0x1C)
    || (0x20 ≤ o && o ≤ 0x22) || o == 0x24 || (0x28 ≤ o && o ≤ 0x30) || (0x40 ≤ o && o ≤ 0x43)
    || (0x50 ≤ o && o ≤ 0x60) || o == 0x70 || o == 0x71

/-- Bits of a field. -/
def ctlBits (w : CoreWord) (hi lo : Nat) : Nat := bits w.ctl.toNat hi lo
def ctlBit (w : CoreWord) (n : Nat) : Bool := bit w.ctl.toNat n
def immBits (w : CoreWord) (hi lo : Nat) : Nat := bits w.imm.toNat hi lo

/-- The bits of each field that an instruction uses: the others must be zero (R246, R287). -/
structure FieldUse where
  rd : Nat
  rs1 : Nat
  rs2 : Nat
  rs3 : Nat
  ctl : Nat
  imm : Nat
  deriving DecidableEq, Repr

/-- Whether no unused field holds a bit. -/
def fieldsOk (u : FieldUse) (w : CoreWord) : Bool :=
  (w.rd.val &&& (31 - u.rd)) == 0 && (w.rs1.val &&& (31 - u.rs1)) == 0 && (w.rs2.val &&& (31 - u.rs2)) == 0
    && (w.rs3.val &&& (31 - u.rs3)) == 0 && (w.ctl.toNat &&& (2 ^ 32 - 1 - u.ctl)) == 0
    && (w.imm.toNat &&& (2 ^ 64 - 1 - u.imm)) == 0

/-- All bits of the immediate. -/
def immAll : Nat := 2 ^ 64 - 1

/-! ### Element types (R248) -/

/-- Element width of a TYPE code in bits; 0 for a reserved one. -/
def typeBits (t : Nat) : Nat :=
  match t with
  | 0 => 64
  | 1 => 32
  | 2 => 16
  | 3 => 16
  | 4 => 32
  | 5 => 8
  | 6 => 8
  | 7 => 8
  | 8 => 64
  | 9 => 64
  | _ => 0

/-- Lanes of a v register by TYPE. -/
def typeLanes (t : Nat) : Nat := if t ≤ 7 then 2048 / typeBits t else 0

/-- The IEEE-shaped format of TYPE 0 to 3. -/
def typeFmt (t : Nat) : FFmt :=
  match t with
  | 0 => fmt64
  | 1 => fmt32
  | 2 => fmt16
  | _ => fmtB16

/-- A lane of a register value. -/
def lane (t v i : Nat) : Nat := elemAt (typeBits t) v i

/-- All lanes of a register value. -/
def lanes (t v : Nat) : List Nat := (List.range (typeLanes t)).map (lane t v)

/-- A register value from its lanes. -/
def ofLanes (t : Nat) (xs : List Nat) : Nat := packElems (typeBits t) xs

/-! ### Addresses of a core (R254, R399, R400) -/

/-- The local address x[RS1] + IMM. -/
def eaOf (x : CoreSt) (w : CoreWord) : Nat := (xr x w.rs1 + w.imm).toNat

/-- The device address of an access of a core, where it is aligned and inside a window (R254). -/
def accessAt (c : Fin 192) (a n : Nat) : Option Nat := if a % n = 0 then coreRange c a n else none

/-- The device address of a flag a core names: 8-byte aligned, in its cluster store or its die store (R272). -/
def flagAt (c : Fin 192) (a : Nat) : Option Nat :=
  if a % 8 ≠ 0 then none
  else match coreRange c a 8 with
    | none => none
    | some p => match placeOf p with
      | some (.scratch _ _) => none
      | _ => some p

/-- A range of a core that must lie in its scratchpad (R260). -/
def scratchRange (c : Fin 192) (a n : Nat) : Option Nat :=
  match coreRange c a n with
  | none => none
  | some p => match placeOf p with
    | some (.scratch _ _) => some p
    | _ => none

/-- A range of a core that must lie in its scratchpad or its cluster store. -/
def localRange (c : Fin 192) (a n : Nat) : Option Nat :=
  match coreRange c a n with
  | none => none
  | some p => match placeOf p with
    | some (.die _ _) => none
    | _ => some p

/-! ### Tile descriptors (R257, R258) -/

/-- Reads the fields of a tile descriptor from its 256 bits. -/
def tileOf (x : Nat) : TileDesc :=
  { base := bits x 255 224, sbase := bits x 223 192, rstride := bits x 191 160, rows := bits x 159 144,
    cols := bits x 143 128, sstride := bits x 127 112, fmt := bits x 111 107, gsz := bits x 106 105,
    rsv := bits x 104 0 }

/-- Bytes of a row: its elements, the last byte filled (R79, R80). -/
def rowBytes (t : TileDesc) : Nat := ceilDiv (t.cols * fmtBits t.fmt) 8

/-- Bytes from the start of the first row to the end of the last. -/
def tileSpan (t : TileDesc) : Nat := if t.rows = 0 then 0 else (t.rows - 1) * t.rstride + rowBytes t

/-- Groups of a row. -/
def rowGroups (t : TileDesc) : Nat := if t.gsz = 0 then 0 else ceilDiv t.cols (gszLen t.gsz)

/-- Bytes from the start of the first row's scale bytes to the end of the last's. -/
def scaleSpan (t : TileDesc) : Nat := if t.rows = 0 ∨ t.gsz = 0 then 0 else (t.rows - 1) * t.sstride + rowGroups t

/-- Whether a tile descriptor is valid for a core (R258). A tile of no bytes lies where its base lies. -/
def tileValid (c : Fin 192) (t : TileDesc) : Bool :=
  let w := fmtBits t.fmt
  fmtValid t.fmt
    && (if fmtScaleReq t.fmt then t.gsz != 0 && t.sbase != 0
        else if fmtScaleOpt t.fmt then (t.gsz == 0) == (t.sbase == 0)
        else t.gsz == 0 && t.sbase == 0)
    && (w < 8 || t.base % (w / 8) == 0)
    && (t.rows ≤ 1 || t.rstride ≥ rowBytes t)
    && (t.rows ≤ 1 || t.sbase == 0 || t.sstride ≥ rowGroups t)
    && (coreRange c t.base (max 1 (tileSpan t))).isSome
    && (t.sbase == 0 || (coreRange c t.sbase (max 1 (scaleSpan t))).isSome)
    && t.rsv == 0

/-- What reading a descriptor gives: it is there, it may not lie there, or a word of it is poisoned. -/
inductive Fetched (α : Type) where
  | ok (x : α)
  | invalid
  | poison (addr : Nat)

/-- Reads `n` bytes of a descriptor that lies on an `n`-byte boundary in the core's scratchpad or cluster store (R257,
R276). -/
def readDesc (s : State) (c : Fin 192) (a n : Nat) : Fetched Nat :=
  if a % n ≠ 0 then .invalid
  else match localRange c a n with
    | none => .invalid
    | some p => if anyPoison s p n then .poison a else .ok (readNat s p n)

/-- Reads a tile descriptor and checks it. -/
def readTile (s : State) (c : Fin 192) (a : Nat) : Fetched TileDesc :=
  match readDesc s c a 32 with
  | .ok x => if tileValid c (tileOf x) then .ok (tileOf x) else .invalid
  | .invalid => .invalid
  | .poison p => .poison p

/-- The device address of a core's local address that is known to lie in a window. -/
def devAt (c : Fin 192) (a : Nat) : Nat := (coreRange c a 1).getD 0

/-- The bounding ranges of a tile and its scale tensor (R286). -/
def tileRanges (c : Fin 192) (t : TileDesc) : List Rng :=
  [⟨devAt c t.base, tileSpan t⟩] ++ (if t.sbase = 0 then [] else [⟨devAt c t.sbase, scaleSpan t⟩])

/-- The bytes a tile's rows and groups take, row by row. -/
def tileRowRngs (c : Fin 192) (t : TileDesc) : List Rng :=
  (List.range t.rows).flatMap fun m =>
    ⟨devAt c t.base + m * t.rstride, rowBytes t⟩
      :: (if t.gsz = 0 then [] else [⟨devAt c t.sbase + m * t.sstride, rowGroups t⟩])

/-- The bytes of one row as a number. -/
def tileRow (s : State) (c : Fin 192) (t : TileDesc) (m : Nat) : Nat :=
  readNat s (devAt c t.base + m * t.rstride) (rowBytes t)

/-- The element codes of a row, from column `k0`, `n` of them (R79). -/
def rowElems (s : State) (c : Fin 192) (t : TileDesc) (m k0 n : Nat) : List Nat :=
  let w := fmtBits t.fmt
  if n = 0 then []
  else
    let b0 := k0 * w / 8
    let b1 := ceilDiv ((k0 + n) * w) 8
    let x := readNat s (devAt c t.base + m * t.rstride + b0) (b1 - b0)
    (List.range n).map fun i => bits x (w * (k0 + i) - 8 * b0 + w - 1) (w * (k0 + i) - 8 * b0)

/-- The scale byte of group `g` of row `m`; 127 without a scale tensor (R82, R84). -/
def rowScale (s : State) (c : Fin 192) (t : TileDesc) (m g : Nat) : Nat :=
  if t.gsz = 0 then 127 else (readByte s (devAt c t.sbase + m * t.sstride + g)).toNat

/-- Writes element codes into a row from column `k0`: whole bytes; bits of a byte outside the elements keep their value
but for the bits of the row's last byte beyond its last element, which are zero (R79, R80). -/
def writeElems (s : State) (c : Fin 192) (t : TileDesc) (m k0 : Nat) (xs : List Nat) : State :=
  let w := fmtBits t.fmt
  let n := xs.length
  if n = 0 then s
  else
    let b0 := k0 * w / 8
    let b1 := ceilDiv ((k0 + n) * w) 8
    let a := devAt c t.base + m * t.rstride + b0
    let old := readNat s a (b1 - b0)
    let lo := k0 * w - 8 * b0
    let hi := lo + n * w
    let top := (old >>> hi <<< hi) % 2 ^ (t.cols * w - 8 * b0)
    writeNat s a (b1 - b0) (old % 2 ^ lo + packElems w xs * 2 ^ lo + top)

/-- The local address of a poisoned word in a tile's rows or scale bytes (R288). -/
def tilePoison (s : State) (c : Fin 192) (t : TileDesc) : Option Nat :=
  let at_ := fun (loc l : Nat) => loc + l * 64 - devAt c loc
  ((List.range t.rows).flatMap fun m =>
      ((linesOf (devAt c t.base + m * t.rstride) (rowBytes t)).filter (poisoned s)).map (at_ t.base)
        ++ (if t.gsz = 0 then []
            else ((linesOf (devAt c t.sbase + m * t.sstride) (rowGroups t)).filter (poisoned s)).map (at_ t.sbase))).head?

end Sys2Proof.Machine
end

