-- ==== Sys2Proof/Machine/Flags.lean ====
section
/-! DEFINITION. The floating-point control and status registers and every flag computation of the scalar and vector
engines (03_number_formats.md R107 to R112; 08_core_programming.md R252, R255). -/

namespace Sys2Proof.Machine

/-- Bits of FCSR that are RW: DAZ, FTZ, RM (R107). -/
def fcsrRw : Nat := 0x3E0

/-- RM of FCSR. -/
def fcsrRm (f : BitVec 32) : Nat := bits f.toNat 7 5

/-- The attribute of an instruction's rounding field; 7 takes FCSR.RM (R108). -/
def rmOf (f : BitVec 32) (field : Nat) : Rm := (rmOfCode (if field = 7 then fcsrRm f else field)).getD .rne

/-- Whether a rounding field is not reserved (R109). -/
def rmFieldOk (field : Nat) : Bool := field != 5 && field != 6

/-- The environment of an operation under FCSR and a rounding field. -/
def envOf (f : BitVec 32) (field : Nat) : FEnv := ⟨rmOf f field, f.toNat.testBit 8, f.toNat.testBit 9⟩

/-- FCSR with flags raised: flags are sticky (R110). -/
def raise (f : BitVec 32) (fl : FFlags) : BitVec 32 := f ||| fl.setWidth 32

/-- Flags of several lanes joined (R110). -/
def joinFlags (xs : List FFlags) : FFlags := xs.foldl (· ||| ·) 0

/-- A write of FCSR in CSR mode 1 to 3: RW fields written, set or cleared, RM kept where the result is 5 to 7, and flags
cleared by 1s in modes 1 and 3 (R109, R255). -/
def fcsrWrite (old : BitVec 32) (v mode : Nat) : BitVec 32 :=
  let o := old.toNat
  let m := match mode with
    | 1 => v
    | 2 => o ||| v
    | _ => o &&& (2 ^ 64 - 1 - v % 2 ^ 64)
  let rw := m &&& fcsrRw
  let rw := if bits rw 7 5 > 4 then (rw &&& 0x300) ||| (o &&& 0xE0) else rw
  let fl := if mode = 2 then o &&& 0x1F else (o &&& 0x1F) &&& (0x1F - (v &&& 0x1F))
  BitVec.ofNat 32 (rw ||| fl)

end Sys2Proof.Machine
end

