-- ==== Sys2Proof/Machine/Trace.lean ====
section
/-! DEFINITION. Trace buffers (20_debug_and_telemetry.md R674 to R678). The control word holds CORES in [25:18], TYPES in
[17:2], ENABLE in [1] and MODE in [0]. -/

namespace Sys2Proof.Machine

/-- Records a trace buffer holds. -/
def traceCap : Nat := 8192

/-- A trace record (R675). -/
def traceBits (stamp core etype typ data : Nat) : BitVec 128 :=
  BitVec.ofNat 128 (stamp % 2 ^ 48 * 2 ^ 80 + core * 2 ^ 77 + etype * 2 ^ 75 + typ * 2 ^ 69 + data % 2 ^ 64)

/-- Writes one record, or drops and counts it where the buffer is full under STOP (R676). -/
def tracePush (x : ClusterSt) (r : BitVec 128) : ClusterSt :=
  if x.traceCtl.toNat.testBit 0 && x.trace.length ≥ traceCap then { x with traceLost := x.traceLost + 1 }
  else
    let xs := x.trace ++ [r]
    { x with trace := xs.drop (xs.length - traceCap) }

/-- Whether a type is generated. -/
def traceOn (x : ClusterSt) (typ : Nat) : Bool := x.traceCtl.toNat.testBit 1 && x.traceCtl.toNat.testBit (2 + typ)

/-- A SYNC record, where the type is on. -/
def traceSync (t : Nat) (x : ClusterSt) : ClusterSt := if traceOn x 11 then tracePush x (traceBits t 0 0 11 t) else x

/-- What precedes a record: SYNC where STAMP[47:32] has changed, LOST where records were dropped (R676). -/
def traceLead (t : Nat) (x : ClusterSt) : ClusterSt :=
  let last := match x.trace.getLast? with
    | some r => bits r.toNat 127 112
    | none => bits t 47 32
  let x := if last = bits t 47 32 then x else traceSync t x
  if x.traceLost = 0 ∨ (x.traceCtl.toNat.testBit 0 && x.trace.length ≥ traceCap) ∨ !traceOn x 12 then x
  else tracePush { x with traceLost := 0 } (traceBits t 0 0 12 x.traceLost)

/-- A record of a core's engine. -/
def traceCore (s : State) (c : Fin 192) (etype typ data : Nat) : State :=
  let k := clusterOfCore c
  let x := s.clusters[k]
  if traceOn x typ && x.traceCtl.toNat.testBit (18 + c.val % 8) then
    { s with clusters := s.clusters.set k (tracePush (traceLead (now s) x) (traceBits (now s) (c.val % 8) etype typ data)) }
  else s

/-- A record of the cluster's own domain (R678). -/
def traceCluster (s : State) (k : Fin 24) (typ data : Nat) : State :=
  let x := s.clusters[k]
  if traceOn x typ then
    { s with clusters := s.clusters.set k (tracePush (traceLead (now s) x) (traceBits (now s) 0 0 typ data)) }
  else s

end Sys2Proof.Machine
end

