-- ==== Sys2Proof/Machine/Issue.lean ====
section
/-! DEFINITION. Fetch, issue, queues, waits and stops of core instructions (08_core_programming.md R241 to R247, R272, R278,
R285 to R288; 06_guarded_narrow_arithmetic.md R199 to R203). A scalar instruction takes its effect whole when it issues; a tile
instruction when its engine starts it, at once where nothing holds it and from its engine's queue otherwise. -/

namespace Sys2Proof.Machine

/-! ### Ranges (R285, R286) -/

def rngOverlap (a b : Rng) : Bool := 0 < a.len && 0 < b.len && a.lo < b.lo + b.len && b.lo < a.lo + a.len

def anyOverlap (xs ys : List Rng) : Bool := xs.any fun a => ys.any fun b => rngOverlap a b

/-- The bounding range of some ranges that are not empty. -/
def boundOf (xs : List Rng) : List Rng :=
  match xs.filter fun r => 0 < r.len with
  | [] => []
  | r :: rs => [rs.foldl (fun a b =>
      let lo := min a.lo b.lo
      ⟨lo, max (a.lo + a.len) (b.lo + b.len) - lo⟩) r]

/-! DMA descriptors (R276, R277). -/

def dNext (d : BitVec 512) : Nat := bits d.toNat 511 480
def dTag (d : BitVec 512) : Nat := bits d.toNat 479 464
def dSsp (d : BitVec 512) : Nat := bits d.toNat 463 460
def dDsp (d : BitVec 512) : Nat := bits d.toNat 459 456
def dDims (d : BitVec 512) : Nat := bits d.toNat 455 454
def dFence (d : BitVec 512) : Bool := bit d.toNat 453
def dFfence (d : BitVec 512) : Bool := bit d.toNat 452
def dFlagen (d : BitVec 512) : Bool := bit d.toNat 451
def dSaddr (d : BitVec 512) : Nat := bits d.toNat 447 384
def dDaddr (d : BitVec 512) : Nat := bits d.toNat 383 320
def dLen0 (d : BitVec 512) : Nat := bits d.toNat 319 288
def dCnt1 (d : BitVec 512) : Nat := bits d.toNat 287 272
def dCnt2 (d : BitVec 512) : Nat := bits d.toNat 271 256
def dSstr1 (d : BitVec 512) : Int := sext 32 (bits d.toNat 255 224)
def dSstr2 (d : BitVec 512) : Int := sext 32 (bits d.toNat 223 192)
def dDstr1 (d : BitVec 512) : Int := sext 32 (bits d.toNat 191 160)
def dDstr2 (d : BitVec 512) : Int := sext 32 (bits d.toNat 159 128)
def dFlagaddr (d : BitVec 512) : Nat := bits d.toNat 127 64
def dFlagval (d : BitVec 512) : Nat := bits d.toNat 63 32
def dPasid (d : BitVec 512) : Nat := bits d.toNat 31 12
def dCtxid (d : BitVec 512) : Nat := bits d.toNat 11 2

/-- Runs of a descriptor in its two outer dimensions (R277). -/
def dRuns (d : BitVec 512) : Nat × Nat :=
  (if dDims d = 2 then max (dCnt2 d) 1 else 1, if dDims d ≥ 1 then max (dCnt1 d) 1 else 1)

/-- Source and destination address of run (i2, i1), in its space. -/
def dSrcRun (d : BitVec 512) (i2 i1 : Nat) : Int := dSaddr d + i1 * dSstr1 d + i2 * dSstr2 d
def dDstRun (d : BitVec 512) (i2 i1 : Nat) : Int := dDaddr d + i1 * dDstr1 d + i2 * dDstr2 d

/-- The lowest address and the end of the runs of one side (R286). -/
def dSpan (f : Nat → Nat → Int) (n2 n1 len : Nat) : Int × Int :=
  let cs := [f 0 0, f 0 (n1 - 1), f (n2 - 1) 0, f (n2 - 1) (n1 - 1)]
  let lo := cs.foldl min (f 0 0)
  let hi := cs.foldl max (f 0 0)
  (lo, hi + len)

/-- Addresses of the runs of one side. -/
def runStarts (d : BitVec 512) (f : Nat → Nat → Int) : List Int :=
  (List.range (dRuns d).1).flatMap fun i2 => (List.range (dRuns d).2).map fun i1 => f i2 i1

/-- A local address of a core as a device address (R444 takes the local space of a descriptor as the core's local map).
-/
def dmaLocal (c : Fin 192) (a : Int) : Nat := if a < 0 then 0 else devAt c a.toNat

/-- The bounding device range of a descriptor's source or destination in the local and HBM spaces; where the runs of a local side lie
in several windows, it is taken over the device addresses of the runs (R286). -/
def dRange (c : Fin 192) (sp : Nat) (f : Nat → Nat → Int) (d : BitVec 512) : List Rng :=
  let r := dRuns d
  let x := dSpan f r.1 r.2 (dLen0 d)
  if sp = 0 then
    if (coreRange c x.1.toNat (x.2 - x.1).toNat).isSome then [⟨dmaLocal c x.1, (x.2 - x.1).toNat⟩]
    else boundOf ((runStarts d f).map fun a => ⟨dmaLocal c a, dLen0 d⟩)
  else if sp = 1 then [⟨x.1.toNat, (x.2 - x.1).toNat⟩]
  else []

def dReads (c : Fin 192) (d : BitVec 512) : List Rng := dRange c (dSsp d) (dSrcRun d) d
def dWrites (c : Fin 192) (d : BitVec 512) : List Rng := dRange c (dDsp d) (dDstRun d) d

/-- An accumulator tile of a core as a range of the tracker, beyond the device address map (R164, R286). -/
def accBase : Nat := 2 ^ 62
def accRng (tile : Nat) : Rng := ⟨accBase + tile, 1⟩
def isAcc (r : Rng) : Bool := accBase ≤ r.lo

/-- The flags in the core's own stores that a chain adds to (R289, R298). -/
def chainFlags (c : Fin 192) (ds : List (BitVec 512)) : List Rng :=
  (ds.filter fun d => dFlagen d && dFlagaddr d / 2 ^ 52 == 0).filterMap fun d => (flagAt c (dFlagaddr d)).map (⟨·, 8⟩)

/-- The four ranges of a chain of descriptors: reads and writes, each local and HBM apart (R286). -/
def chainReads (c : Fin 192) (ds : List (BitVec 512)) : List Rng :=
  boundOf ((ds.filter fun d => dSsp d = 0).flatMap (dReads c)) ++ boundOf ((ds.filter fun d => dSsp d = 1).flatMap (dReads c))
def chainWrites (c : Fin 192) (ds : List (BitVec 512)) : List Rng :=
  boundOf ((ds.filter fun d => dDsp d = 0).flatMap (dWrites c)) ++ boundOf ((ds.filter fun d => dDsp d = 1).flatMap (dWrites c))
    ++ chainFlags c ds

/-- Whether a DMA entry has ended. -/
def entEnded (e : DmaEnt) : Bool := match e.phase with | .ended _ => true | _ => false

/-- Whether an entry holds a queue slot (R281). -/
def entInQueue (e : DmaEnt) : Bool := match e.phase with | .ended _ => false | .waiting => false | _ => true

/-- Whether an entry has not begun to move bytes. -/
def notBegun (e : DmaEnt) : Bool :=
  match e.phase with
  | .waiting | .submitted => true
  | .priWait _ _ => e.startedAt == 0
  | _ => false

/-- What an entry is ordered with: 0 for the core program's entries, which one order holds, and a number of its own for each chain
of a command (R495; DEDUCED, log entry 148). -/
def entOrder (e : DmaEnt) : Nat := if e.owner.isNone then 0 else e.chain + 1

/-- Whether an earlier entry of an entry's order has a property. -/
def anyBefore (x : CoreSt) (e : DmaEnt) (p : DmaEnt → Bool) : Bool :=
  x.dma.any fun g => entOrder g = entOrder e && g.seq < e.seq && p g

/-- The core program's own entries, as against those of commands (R495). -/
def ownEnts (x : CoreSt) : List DmaEnt := x.dma.filter fun e => e.owner.isNone

/-- Each chain of the core program that still runs: its order number and its descriptors. -/
def liveChains (x : CoreSt) : List (Nat × List (BitVec 512)) :=
  let live := ((ownEnts x).filter fun e => !entEnded e).map (·.chain) |>.eraseDups
  live.map fun n => (n, ((ownEnts x).filter fun e => e.chain = n).map (·.desc))

/-- What stands in the range tracker for an instruction or a chain in flight. -/
structure Flight where
  ord : Nat
  reads : List Rng
  writes : List Rng

/-- The queued instructions and live DMA chains of a core. -/
def coreFlights (c : Fin 192) (x : CoreSt) : List Flight :=
  (x.matQ ++ x.vecQ).map (fun q => ⟨q.ord, q.reads, q.writes⟩)
    ++ (liveChains x).map fun ch => ⟨ch.1, chainReads c ch.2, chainWrites c ch.2⟩

/-- Whether reads and writes of an instruction of a place in the order must wait for earlier work in flight (R285). -/
def flightBlocks (c : Fin 192) (x : CoreSt) (o : Nat) (rs ws : List Rng) : Bool :=
  (coreFlights c x).any fun f => decide (f.ord < o) && (anyOverlap f.writes (rs ++ ws) || anyOverlap f.reads ws)

/-- Ranges in flight in a core's tracker. -/
def trackedRanges (c : Fin 192) (x : CoreSt) : Nat :=
  (coreFlights c x).foldl (fun n f => n + f.reads.length + f.writes.length) 0

/-- Whether the tracker has no room for `n` more ranges: it holds 128 (R243). -/
def trackerFull (c : Fin 192) (x : CoreSt) (n : Nat) : Bool := 0 < trackedRanges c x && 128 < trackedRanges c x + n

/-- Whether reads and writes must wait for the open verdicts of a core's chains (R199 to R203). -/
def pendBlocks (x : CoreSt) (rs ws : List Rng) : Bool :=
  let on := fun (p : Option PendChain) => match p with
    | some p => anyOverlap p.writes (rs ++ ws) || anyOverlap p.reads ws
    | none => false
  on x.pend || on x.cont

/-- Whether a device range waits for any core's open verdict. Chains write scratchpads and cluster stores, which only the
cores of their cluster reach. -/
def provBlocks (s : State) (rs ws : List Rng) : Bool :=
  (rs ++ ws).any fun r =>
    match placeOf r.lo with
    | some (.scratch c _) => pendBlocks (vget s.cores .init c) rs ws
    | some (.cluster k _) => (List.range 8).any fun i => pendBlocks (vget s.cores .init (k * 8 + i)) rs ws
    | _ => false

/-- Whether an instruction of a core, of a place in its order, must wait before it reads and writes these ranges: for work in
flight, or for a verdict on provisional bytes or accumulator tiles (R200, R285, R286). -/
def blockedAt (s : State) (c : Fin 192) (o : Nat) (rs ws : List Rng) : Bool :=
  flightBlocks c (getCore s c) o rs ws || provBlocks s rs ws || pendBlocks (getCore s c) (rs.filter isAcc) (ws.filter isAcc)

/-- The same for the instruction that issues. -/
def blocked (s : State) (c : Fin 192) (rs ws : List Rng) : Bool := blockedAt s c (getCore s c).chainNext rs ws

/-! ### Ends of a core's part (R245, R283, R284, R288) -/

/-- Whether every queued instruction and every DMA entry of the core program has ended and no verdict is open. -/
def coreQuiet (x : CoreSt) : Bool :=
  x.matQ.isEmpty && x.vecQ.isEmpty && (ownEnts x).all entEnded && x.pend.isNone && x.cont.isNone

/-- The first DMA status, in submission order, not yet returned that is a failure (R284). -/
def dmaUnreported (x : CoreSt) : Option Nat := (x.dmaStat.find? fun r => r.2.2 ≠ stOk).map (·.2.2)

/-- A status with the unit that caused it, as one number: entries and stopping cores hold statuses so (R483). -/
def withCause (st uid : Nat) : Nat := uid * 256 + st

/-- DETAIL of a part's status (R483, R750). -/
def partDetail (c : Fin 192) (st : Nat) : Nat :=
  if st % 256 = stBadParam then badDetail []
  else if st ≥ 256 then st / 256
  else if st = stPoisoned ∨ st = stFenced ∨ st = stTimeout then uidOf (.core c)
  else 0

/-- Drops the entries of the core program's chains that have ended whole. -/
def dropEnded (x : CoreSt) : CoreSt :=
  { x with dma := x.dma.filter fun e => !(e.owner.isNone && (ownEnts x).all fun g => g.chain ≠ e.chain || entEnded g) }

/-- Ends the core's part with a status. -/
def endCore (s : State) (c : Fin 192) (st : Nat) : State :=
  let x := getCore s c
  let s := putCore s c { dropEnded x with phase := .idle, dmaStat := [], rebind := none }
  endPart s x.launch c (st % 256) (partDetail c st)

/-- Ends the part of a core that has stopped, once every earlier instruction has completed (R288). -/
def settleCore (s : State) (c : Fin 192) : State :=
  let x := getCore s c
  match x.phase with
  | .stopping st => if coreQuiet x then endCore s c st else s
  | _ => s

/-- What an instruction does once it may issue. -/
inductive CoreOut where
  /-- It waits. -/
  | wait
  /-- It waits, and what it has met is noted in the state. -/
  | hold (s : State)
  /-- It takes its place in its engine's queue. -/
  | queued (s : State)
  /-- It reads a poisoned word, which is noted in the state, and stops the core (R288). -/
  | poisoned (s : State) (addr : Nat)
  /-- It stops the core: reason 1 invalid, 2 address fault, 3 poisoned read; the faulting address (R288). -/
  | stop (reason addr : Nat)
  /-- It completes, and the next instruction follows. -/
  | done (s : State)
  /-- It completes, and the program counter takes a value. -/
  | jump (s : State) (pc : BitVec 64)
  /-- It ends the core's part. -/
  | ended (s : State)

/-- Byte offset of the program counter from the entry address. -/
def pcOffset (x : CoreSt) : Nat := (x.pc - x.entry.setWidth 64).toNat % 2 ^ 32

/-- The demand read of the fetch at the program counter (R242, R396); none at an address that cannot be fetched. -/
def fetchMet (s : State) (c : Fin 192) : State :=
  let a := (getCore s c).pc.toNat
  if a % 16 ≠ 0 then s
  else match scratchRange c a 16 with
    | some p => demand s p 16
    | none => s

/-- The stop of R288 at an offset: one fault record, no later instruction, and the end of the part when all earlier work is done. -/
def stopAt (s : State) (c : Fin 192) (reason addr off : Nat) : State :=
  let s := modCore s c fun x => { x with phase := .stopping (if reason = 3 then stPoisoned else stBadParam) }
  settleCore (faultUnit s (.core c) 0x0001 reason (uidOf (.core c)) (if reason = 1 then 0 else addr) off) c

/-- The stop of R288 at the program counter. -/
def stopCore (s : State) (c : Fin 192) (reason addr : Nat) : State :=
  stopAt (fetchMet s c) c reason addr (pcOffset (getCore s c))

/-- Where the fetch stands: the 16 bytes at the program counter, or the reason they cannot be fetched (R242). -/
inductive FetchRes where
  | word (n : Nat)
  | fault (reason addr : Nat)
  | wait

def fetchWord (s : State) (c : Fin 192) : FetchRes :=
  let x := getCore s c
  let a := x.pc.toNat
  if a % 16 ≠ 0 then .fault 2 a
  else match scratchRange c a 16 with
    | none => .fault 2 a
    | some p =>
      if blocked s c [⟨p, 16⟩] [] then .wait
      else if anyPoison s p 16 then .fault 3 a
      else .word (readNat s p 16)

/-- Counts one completed instruction of an engine (R666). -/
def countInstr (s : State) (c : Fin 192) (e : Fin 4) : State :=
  modCore s c fun x => { x with counts := x.counts.set e { x.counts[e] with instrs := x.counts[e].instrs + 1 } }

/-- Counts `n` invalid MT codes that the matrix engine decoded (R78). -/
def countInvalid (s : State) (c : Fin 192) (n : Nat) : State :=
  modCore s c fun x => { x with counts := x.counts.set 0 { x.counts[0] with invalid := x.counts[0].invalid + n } }

/-- A matrix-engine instruction uses up the rebinding that a replay left to a continuation (R207, R211). -/
def dropRebind (s : State) (c : Fin 192) : State := modCore s c fun x => { x with rebind := none }

/-- What an instruction's issue leaves: what its fetch has met, and an ISSUE record (R396, R675). -/
def traceIssue (s : State) (c : Fin 192) (e : Fin 4) (opc off : Nat) : State :=
  traceCore (fetchMet s c) c e 1 (opc * 2 ^ 56 + off)

/-- What an instruction leaves behind when it completes: a COMPLETE record, and the count of its engine; the DMA engine counts
queue entries instead (R666, R675). -/
def completed (s : State) (c : Fin 192) (e : Fin 4) (opc off : Nat) : State :=
  traceCore (if e = 3 then s else countInstr s c e) c e 2 (opc * 2 ^ 56 + off)

/-- What an instruction leaves behind that completes as it issues. -/
def retire (s : State) (c : Fin 192) (e : Fin 4) (opc off : Nat) : State :=
  completed (traceIssue (if e = 0 then dropRebind s c else s) c e opc off) c e opc off

/-- Whether the device stands halted by a stop or a thermal trip (R664, R693). -/
def frozen (s : State) : Bool := s.sec.halted || s.rst.tripped

/-- Whether a core issues instructions. -/
def coreRuns (s : State) (c : Fin 192) : Bool :=
  (getCore s c).phase == .running && !frozen s && baseState s (.core c) != .outOfService

/-- Runs one instruction of a core: it takes effect where the core runs, the fetched word is this instruction, its
encoding is valid (R246, R287), its guard predicate holds (R247) and it need not wait. A word of a reserved opcode, or one
that cannot be fetched, stops the core (R249, R288), whatever instruction is asked for. -/
def issue (opc : Nat) (e : Fin 4) (u : FieldUse) (ok : Bool) (c : Fin 192) (w : CoreWord) (s : State)
    (body : CoreSt → CoreOut) : Res :=
  let x := getCore s c
  if !coreRuns s c then .next s
  else match fetchWord s c with
    | .wait => .next s
    | .fault r a => .next (stopCore s c r a)
    | .word n =>
      if !opcKnown (n / 2 ^ 120) then .next (stopCore s c 1 0)
      else if n ≠ wordBits opc w then .next s
      else if !(fieldsOk u w && ok) then .next (stopCore s c 1 0)
      else
        let off := pcOffset x
        if pr x w.pred == w.pneg then .next (modCore (fetchMet s c) c fun x => { x with pc := x.pc + 16 })
        else match body x with
          | .wait => .next s
          | .hold t => .next t
          | .queued t => .next (modCore (traceIssue t c e opc off) c fun x => { x with pc := x.pc + 16 })
          | .poisoned t a => .next (stopCore t c 3 a)
          | .stop r a => .next (stopCore s c r a)
          | .done t => .next (modCore (retire t c e opc off) c fun x => { x with pc := x.pc + 16 })
          | .jump t pc => .next (modCore (retire t c e opc off) c fun x => { x with pc := pc })
          | .ended t => .next t

/-! ### Queues (R243, R244) -/

/-- The queue of an engine, and the instructions it can hold. -/
def engQueue (x : CoreSt) (e : Fin 4) : List QInstr := if e = 0 then x.matQ else if e = 1 then x.vecQ else []
def queueCap (e : Fin 4) : Nat := if e = 0 then 8 else 32

def setEngQueue (x : CoreSt) (e : Fin 4) (q : List QInstr) : CoreSt :=
  if e = 0 then { x with matQ := q } else if e = 1 then { x with vecQ := q } else x

/-- The pipes an instruction occupies: 0 the array pipe, 1 the output path, 2 the vector engine (R243, R244). -/
def pipesOf (opc : Nat) : List Nat :=
  if opc = 0x40 then [0] else if opc = 0x41 then [0, 1] else if opc = 0x42 ∨ opc = 0x43 then [1] else [2]

/-- Whether two instructions take a pipe in turn. -/
def sharePipe (a b : Nat) : Bool := (pipesOf a).any fun p => (pipesOf b).contains p

/-- The ranges an instruction enters in the tracker; `none` while what it writes is not known, since a descriptor that gives it may
still be written. -/
abbrev TileRngs := Option (List Rng × List Rng)

/-- Takes a place in the engine's queue; issue waits where the queue or the tracker is full (R243). -/
def enqueue (t : State) (c : Fin 192) (x : CoreSt) (e : Fin 4) (opc : Nat) (w : CoreWord) (r : TileRngs) (met : Bool) : CoreOut :=
  match r with
  | none => .wait
  | some (rs, ws) =>
    let q := engQueue x e
    if q.length ≥ queueCap e || trackerFull c x (rs.length + ws.length) then .wait
    else
      let i : QInstr := { opc := opc, word := w, ra := xr x w.rs1, rb := xr x w.rs2, rc := xr x w.rs3, offset := pcOffset x
                          ord := x.chainNext, reads := rs, writes := ws, met := met }
      .queued (modCore t c fun y => { setEngQueue y e (q ++ [i]) with chainNext := x.chainNext + 1 })

/-- Issues a tile instruction: issue waits while its queue or the tracker is full; it starts at once where its engine is free and
nothing holds it, and is queued otherwise (R243, R244). -/
def issueTile (opc : Nat) (e : Fin 4) (u : FieldUse) (ok : Bool) (rngs : CoreSt → TileRngs) (c : Fin 192) (w : CoreWord) (s : State)
    (body : CoreSt → CoreOut) : Res :=
  issue opc e u ok c w s fun x =>
    if (engQueue x e).length ≥ queueCap e || trackerFull c x 1 then .wait
    else if (engQueue x e).any fun q => sharePipe q.opc opc then enqueue s c x e opc w (rngs x) false
    else match body x with
      | .wait => enqueue s c x e opc w (rngs x) false
      | .hold t => enqueue t c x e opc w (rngs x) true
      | o => o

end Sys2Proof.Machine
end

