-- ==== Sys2Proof/Machine/RowFn.lean ====
section
/-! DEFINITION. The row functions within their error bounds (08_core_programming.md R268; 07_fused_chains.md R232, R235).
Each result is a free value that the bound limits: the function is evaluated far beyond FP32, the free value stands where it
lies within the bound, and the nearest FP32 value stands where it does not. -/

namespace Sys2Proof.Machine

/-- Fraction bits of the fixed-point evaluation. -/
def fixP : Nat := 512

/-- 1.0 in fixed point. -/
def fixOne : Nat := 2 ^ fixP

/-- ln 2, as the sum of 1 / (k 2^k). -/
def ln2Fix : Nat := (List.range 520).foldl (fun a k => a + fixOne / ((k + 1) * 2 ^ (k + 1))) 0

/-- arctan (1 / n). -/
def atanInv (n : Nat) : Nat :=
  let t := fun k => fixOne / ((2 * k + 1) * n ^ (2 * k + 1))
  (List.range 120).foldl (fun a k => if k % 2 = 0 then a + t k else a - t k) 0

/-- 1 / sqrt (2 pi), pi by Machin's formula. -/
def rsqrt2Pi : Nat := isqrt (fixOne ^ 3 / (2 * (16 * atanInv 5 - 4 * atanInv 239)))

/-- e to the power of a fixed-point number below 1. -/
def expFix (y : Nat) : Nat :=
  ((List.range 120).foldl (fun (a : Nat × Nat) k =>
    let t := a.2 * y / (fixOne * (k + 1))
    (a.1 + t, t)) (fixOne, fixOne)).1

/-- e to the power of a negative fixed-point number, given by its magnitude. -/
def expNegFix (y : Nat) : Nat :=
  let n := y / ln2Fix
  if n > 500 then 0 else fixOne * fixOne / expFix (y % ln2Fix) / 2 ^ n

/-- A magnitude in fixed point, truncated. -/
def toFix (m : Nat) (e : Int) : Nat :=
  let k := e + fixP
  if 0 ≤ k then m * 2 ^ k.toNat else m / 2 ^ (-k).toNat

/-- 2 to the power of a finite value. -/
def exp2Val (s : Bool) (m : Nat) (e : Int) : FVal :=
  let x := toFix m e
  if x / fixOne > 400 then .fin false 1 (if s then -400 else 400)
  else if s then
    let q := (x + fixOne - 1) / fixOne
    .fin false (expFix ((q * fixOne - x) * ln2Fix / fixOne)) (-(q : Int) - fixP)
  else .fin false (expFix (x % fixOne * ln2Fix / fixOne)) ((x / fixOne : Nat) - (fixP : Int))

/-- log2 of a positive finite value. -/
def log2Val (m : Nat) (e : Int) : FVal :=
  let k := bitLen m - 1
  let a := toFix m (-(k : Int))
  let z := (a - fixOne) * fixOne / (a + fixOne)
  let ln := ((List.range 170).foldl (fun (p : Nat × Nat) j => (p.1 + 2 * p.2 / (2 * j + 1), p.2 * z / fixOne * z / fixOne)) (0, z)).1
  let r : Int := (e + k) * fixOne + (ln * fixOne / ln2Fix : Nat)
  .fin (decide (r < 0)) r.natAbs (-(fixP : Int))

/-- The distribution function of the normal distribution at a magnitude of at most 16, less 1 / 2. -/
def phiHalf (x : Nat) : Nat :=
  let xx := x * x / fixOne
  let sum := ((List.range 800).foldl (fun (p : Nat × Nat) k => (p.1 + p.2, p.2 * xx / fixOne / (2 * k + 3))) (0, x)).1
  rsqrt2Pi * expNegFix (xx / 2) / fixOne * sum / fixOne

/-- The function of a VFN code at a finite value: 0 exp2, 1 log2, 2 GELU, 3 SiLU, 4 tanh, 5 recip, 6 rsqrt. -/
def rowVal (fn : Nat) (s : Bool) (m : Nat) (e : Int) : FVal :=
  match fn with
  | 0 => exp2Val s m e
  | 1 => log2Val m e
  | 2 =>
    let x := toFix m e
    if x > 16 * fixOne then (if s then .fin true 0 0 else .fin false m e)
    else .fin s (m * (if s then fixOne / 2 - phiHalf x else fixOne / 2 + phiHalf x)) (e - fixP)
  | 3 =>
    let q := expNegFix (toFix m e)
    .fin s (m * ((if s then q else fixOne) * fixOne / (fixOne + q))) (e - fixP)
  | 4 =>
    let q := expNegFix (2 * toFix m e)
    .fin s ((fixOne - q) * fixOne / (fixOne + q)) (-(fixP : Int))
  | 5 => .fin s (2 ^ 600 / m) (-600 - e)
  | _ =>
    let h := Int.emod e 2
    .fin false (isqrt (2 ^ 1200 / (m * 2 ^ h.toNat))) (-600 - (e - h) / 2)

/-- The magnitude of a difference of finite values. -/
def fvDist (a b : FVal) : FVal :=
  match fvAdd a (fNeg b) with
  | .fin _ m e => .fin false m e
  | v => v

/-- Whether an FP32 result lies within `n` of its own units in the last place of `v`, and 2^-140 more where `abs` says so. An infinity
does where `v` with that error reaches beyond the largest finite value (R268). -/
def withinUlp (n : Nat) (abs : Bool) (v : FVal) (r : Nat) : Bool :=
  match v with
  | .fin s m e =>
    let slack : FVal := .fin false 1 (e + bitLen m - 150)
    let tol := fun (u : Int) => fvAdd (fvAdd (.fin false n u) slack) (if abs then .fin false 1 (-140) else .fin false 0 0)
    match fDecode fmt32 r with
    | .inf t => t == s && fOrd (fvAdd (.fin false m e) (tol 104)) (.fin false (2 ^ 24 - 1) 104) == .gt
    | .fin t k g => fOrd (fvDist (.fin t k g) v) (tol (max ((bitLen k : Int) - 1 + g) (-126) - 23)) != .gt
    | _ => false
  | _ => false

/-- The free value within the bound. -/
def boundedFn (n : Nat) (abs : Bool) (v : FVal) (free : BitVec 32) : Nat :=
  if withinUlp n abs v free.toNat then free.toNat else (fConvert fmt32 ⟨.rne, false, false⟩ false v).1

/-- The FP32 result of a function at an FP32 operand that no special rule covers, by its code in VFN (R268). -/
def rowFn (fn x : Nat) : Nat :=
  let v := match fDecode fmt32 x with
    | .fin s m e => rowVal fn s m e
    | _ => .fin false 1 0
  boundedFn (if fn = 2 ∨ fn = 3 ∨ fn = 4 then 2 else 1) (fn = 2 ∨ fn = 3) v (Config.vfn fn (BitVec.ofNat 32 x))

/-- `m + log2 s` of FP32 values, rounded once (R236, R348). -/
def lseOf (m s : Nat) : Nat :=
  let l : FVal := match fDecode fmt32 s with
    | .fin false (k + 1) e => log2Val (k + 1) e
    | .fin _ 0 _ => .inf true
    | .inf false => .inf false
    | _ => .nan false false 0
  match fvAdd (fDecode fmt32 m) l with
  | .nan _ _ _ => 0x7FC00000
  | v => (fConvert fmt32 ⟨.rne, false, false⟩ false v).1

/-- exp2 of the exact difference of two finite FP32 values (R232, R235). -/
def exp2Finite (x m : Nat) : Nat :=
  let v := match fvAdd (fDecode fmt32 x) (fNeg (fDecode fmt32 m)) with
    | .fin s k e => exp2Val s k e
    | _ => .fin false 1 0
  boundedFn 1 false v (Config.exp2Diff (BitVec.ofNat 32 x) (BitVec.ofNat 32 m))

end Sys2Proof.Machine
end

