-- ==== Sys2Proof/Machine/CoreFloat.lean ====
section
/-! DEFINITION. Scalar floating-point instructions and the row functions they share with vectors and chains
(08_core_programming.md R249 to R253, R268, R269; 03_number_formats.md R101 to R113). -/

namespace Sys2Proof.Machine

/-! ### Types as values -/

/-- The exact value of an element of a TYPE code, subnormals read as zero under DAZ (R107, R248). -/
def typeDecode (daz : Bool) (t v : Nat) : FVal :=
  match t with
  | 4 => fOfInt (sext 32 v)
  | 5 => fOfInt (sext 8 v)
  | 6 => if daz && bits v 6 3 == 0 then .fin (bit v 7) 0 0 else e4m3Decode (v % 256)
  | 7 => fDaz fmtE5M2 daz (fDecode fmtE5M2 (v % 256))
  | 8 => fOfInt (sext 64 v)
  | 9 => fOfInt (v % 2 ^ 64 : Nat)
  | t => fDaz (typeFmt t) daz (fDecode (typeFmt t) v)

/-- A value converted into an integer TYPE: nearest bound beyond it, 0 for a NaN, NV in either case (R253). -/
def toIntType (env : FEnv) (w : Nat) (lo hi : Int) (v : FVal) : Nat × FFlags :=
  let r := fToInt env lo hi v
  (wrapInt w r.1, r.2)

/-- A small floating-point result with FTZ applied (R107, R111). -/
def tinyFtz (ftz : Bool) (eb fb : Nat) (r : CvtRes) : Nat × FFlags :=
  if ftz && bits r.code (fb + eb - 1) fb == 0 && bits r.code (fb - 1) 0 != 0 then
    (bits r.code (fb + eb) (fb + eb) <<< (fb + eb), flagUF ||| flagNX)
  else (r.code, r.flags)

/-- A value converted into a TYPE (R102, R103, R253). SAT acts on FP16, BF16, E4M3 and E5M2 targets. -/
def typeConvert (env : FEnv) (sat : Bool) (t : Nat) (v : FVal) : Nat × FFlags :=
  match t with
  | 0 => fConvert fmt64 env false v
  | 1 => fConvert fmt32 env false v
  | 2 => fConvert fmt16 env sat v
  | 3 => fConvert fmtB16 env sat v
  | 4 => toIntType env 32 (-(2 ^ 31 : Nat)) ((2 ^ 31 : Nat) - 1) v
  | 5 => toIntType env 8 (-128) 127 v
  | 6 => tinyFtz env.ftz 4 3 (cvtTo 0x02 env.rm sat env.ftz v)
  | 7 => tinyFtz env.ftz 5 2 (cvtTo 0x03 env.rm sat env.ftz v)
  | 8 => toIntType env 64 (-(2 ^ 63 : Nat)) ((2 ^ 63 : Nat) - 1) v
  | _ => toIntType env 64 0 ((2 ^ 64 : Nat) - 1) v

/-! ### Row functions (R268, R269) -/

/-- Positive infinity, negative infinity, canonical NaN and the zeros of FP32. -/
def f32Inf : Nat := 0x7F800000
def f32NegInf : Nat := 0xFF800000
def f32NaN : Nat := 0x7FC00000
def f32One : Nat := 0x3F800000
def f32Neg (x : Nat) : Nat := x ^^^ 0x80000000

/-- Flags of a result that no special rule gives: NX where it is finite and not zero, UF where it is then subnormal, OF
where it overflowed to infinity (R111, R269). -/
def rowFlags (r : Nat) : FFlags :=
  let e := bits r 30 23
  if e = 255 then flagIf (bits r 22 0 == 0) flagOF
  else if r % 2 ^ 31 = 0 then 0
  else flagNX ||| flagIf (e == 0) flagUF

/-- FTZ on an FP32 result (R107, R111). -/
def ftz32 (ftz : Bool) (r : Nat × FFlags) : Nat × FFlags :=
  if ftz && bits r.1 30 23 == 0 && bits r.1 22 0 != 0 then (r.1 &&& 0x80000000, r.2 ||| flagUF ||| flagNX) else r

/-- A VFN function of an FP32 value with its special values (R268). -/
def vfnVal (fn x : Nat) : Nat × FFlags :=
  let v := fDecode fmt32 x
  let gen := (rowFn fn x, rowFlags (rowFn fn x))
  match v with
  | .nan sg s p => (fQuiet fmt32 s p, flagIf sg flagNV)
  | .inf s =>
    match fn with
    | 0 => (if s then 0 else f32Inf, 0)
    | 1 => if s then (f32NaN, flagNV) else (f32Inf, 0)
    | 2 => (if s then 0x80000000 else f32Inf, 0)
    | 3 => (if s then 0x80000000 else f32Inf, 0)
    | 4 => if s then (f32Neg (rowFn 4 f32Inf), rowFlags (rowFn 4 f32Inf)) else gen
    | 5 => (if s then 0x80000000 else 0, 0)
    | _ => if s then (f32NaN, flagNV) else (0, 0)
  | .fin s m _ =>
    match fn with
    | 1 => if m = 0 then (f32NegInf, flagDZ)
        else if s then (f32NaN, flagNV)
        else if x = f32One then (0, 0)
        else gen
    | 4 => if s then (f32Neg (rowFn 4 (f32Neg x)), rowFlags (rowFn 4 (f32Neg x))) else gen
    | 5 => if m = 0 then (if s then f32NegInf else f32Inf, flagDZ) else gen
    | 6 => if m = 0 then (if s then f32NegInf else f32Inf, flagDZ)
        else if s then (f32NaN, flagNV)
        else gen
    | _ => gen

/-- VFN on one lane of FP32, FP16 or BF16 (R268, R269). -/
def vfnLane (env : FEnv) (t fn v : Nat) : Nat × FFlags :=
  let x := fDaz (typeFmt t) env.daz (fDecode (typeFmt t) v)
  match x with
  | .nan sg s p => (fQuiet (typeFmt t) s p, flagIf sg flagNV)
  | _ =>
    let wide := (fConvert fmt32 ⟨.rne, false, false⟩ false x).1
    let r := vfnVal fn wide
    if t = 1 then ftz32 env.ftz r
    else
      let q := fConvert (typeFmt t) env false (fDecode fmt32 r.1)
      (q.1, r.2 ||| q.2)

/-! ### Scalar floating point (R249, R252, R253) -/

/-- The TYPE of a scalar FP instruction. -/
def fpType (w : CoreWord) : Nat := ctlBits w 3 0

/-- Whether TYPE and RM of a scalar FP instruction are not reserved. -/
def fpOk (w : CoreWord) : Bool := fpType w ≤ 3 && rmFieldOk (ctlBits w 6 4)

/-- A scalar FP operand: the low bits of an x register. -/
def fpArg (x : CoreSt) (w : CoreWord) (r : Fin 32) : Nat := (xr x r).toNat % 2 ^ typeBits (fpType w)

/-- Writes a scalar FP result, upper bits 0, and raises its flags. -/
def fpWrite (s : State) (c : Fin 192) (w : CoreWord) (r : Nat × FFlags) : State :=
  modCore s c fun x => setX { x with fcsrS := raise x.fcsrS r.2 } w.rd (BitVec.ofNat 64 r.1)

def fpEnv (x : CoreSt) (w : CoreWord) : FEnv := envOf x.fcsrS (ctlBits w 6 4)

/-- A scalar FP instruction of two operands. -/
def fp2 (opc : Nat) (f : FFmt → FEnv → Nat → Nat → Nat × FFlags) (c : Fin 192) (w : CoreWord) (s : State) : Res :=
  issue opc 2 ⟨31, 31, 31, 0, 0x7F, 0⟩ (fpOk w) c w s fun x =>
    .done (fpWrite s c w (f (typeFmt (fpType w)) (fpEnv x w) (fpArg x w w.rs1) (fpArg x w w.rs2)))

/-- FADD (R249, R252). -/
def execFadd (c : Fin 192) (w : CoreWord) (s : State) : Res := fp2 0x28 fAdd c w s
/-- FSUB (R249, R252). -/
def execFsub (c : Fin 192) (w : CoreWord) (s : State) : Res := fp2 0x29 fSub c w s
/-- FMUL (R249, R252). -/
def execFmul (c : Fin 192) (w : CoreWord) (s : State) : Res := fp2 0x2A fMul c w s
/-- FDIV (R249, R252). -/
def execFdiv (c : Fin 192) (w : CoreWord) (s : State) : Res := fp2 0x2C fDiv c w s

/-- FFMA (R249, R252). -/
def execFfma (c : Fin 192) (w : CoreWord) (s : State) : Res :=
  issue 0x2B 2 ⟨31, 31, 31, 31, 0x7F, 0⟩ (fpOk w) c w s fun x =>
    .done (fpWrite s c w (fFma (typeFmt (fpType w)) (fpEnv x w) (fpArg x w w.rs1) (fpArg x w w.rs2) (fpArg x w w.rs3)))

/-- FSQRT (R249, R252): RS2 is not used. -/
def execFsqrt (c : Fin 192) (w : CoreWord) (s : State) : Res :=
  issue 0x2D 2 ⟨31, 31, 0, 0, 0x7F, 0⟩ (fpOk w) c w s fun x =>
    .done (fpWrite s c w (fSqrt (typeFmt (fpType w)) (fpEnv x w) (fpArg x w w.rs1)))

/-- FMINMAX (R249, R252): maximumNumber where CTL[7] is 1. -/
def execFminmax (c : Fin 192) (w : CoreWord) (s : State) : Res :=
  issue 0x2E 2 ⟨31, 31, 31, 0, 0xFF, 0⟩ (fpOk w) c w s fun x =>
    .done (fpWrite s c w (fMinMax (typeFmt (fpType w)) (fpEnv x w) (ctlBit w 7) (fpArg x w w.rs1) (fpArg x w w.rs2)))

/-- FCMP (R249, R250). -/
def execFcmp (c : Fin 192) (w : CoreWord) (s : State) : Res :=
  issue 0x2F 2 ⟨7, 31, 31, 0, 0x3FF, 0⟩ (fpOk w && ctlBits w 9 7 ≤ 6) c w s fun x =>
    let r := fCmp (typeFmt (fpType w)) (fpEnv x w).daz (ctlBits w 9 7) (fpArg x w w.rs1) (fpArg x w w.rs2)
    .done (modCore s c fun x => setP { x with fcsrS := raise x.fcsrS r.2 } (predField w.rd) r.1)

/-- Types of FCVT (R248). -/
def fcvtType (t : Nat) : Bool := t ≤ 4 || t == 8 || t == 9

/-- FCVT (R249, R253). -/
def execFcvt (c : Fin 192) (w : CoreWord) (s : State) : Res :=
  let src := ctlBits w 10 7
  let dst := ctlBits w 3 0
  issue 0x30 2 ⟨31, 31, 0, 0, 0xFFF, 0⟩ (fcvtType src && fcvtType dst && rmFieldOk (ctlBits w 6 4)) c w s fun x =>
    let env := fpEnv x w
    let v := typeDecode env.daz src ((xr x w.rs1).toNat % 2 ^ typeBits src)
    .done (fpWrite s c w (typeConvert env (ctlBit w 11) dst v))

end Sys2Proof.Machine
end

