-- ==== Sys2Proof/Machine/Groups.lean ====
section
/-! DEFINITION. Unit groups: GROUP_DEFINE, GROUP_DISSOLVE, member vectors and the state messages of remote members
(01_architecture.md R22 to R36; 14_command_interface.md R502 to R507, R755). -/

namespace Sys2Proof.Machine

/-! ### Definition (R24, R502, R503) -/

/-- Reads a group UID: its number, where its reserved bits are zero (R22). -/
def groupOfUid (n : Nat) : Option Nat := if n.testBit 31 && bits n 30 12 == 0 then some (bits n 11 0) else none

/-- Member entry `i` of a GROUP_DEFINE block. -/
def memberEntry (p i : Nat) : Nat := bits p (512 + 64 * i + 63) (512 + 64 * i)

/-- Bad fields of a group UID: reserved bits, a number that no group has (R22, R490). -/
def groupUidBad (s : State) (uid : Nat) : List Nat := chk (groupRec s (bits uid 11 0)).isSome 0 ++ chk (bits uid 30 12 = 0) 12

/-- A member entry as a member, or the position of its lowest bad field (R16, R19, R20, R23, R24, R750). -/
def parseMember (s : State) (p i : Nat) : Member ⊕ Nat :=
  let x := memberEntry p i
  let at_ := 1024 + 64 * i
  let uid := x % 2 ^ 32
  let far := p.testBit i && !isLocalFuid s x
  let high := if p.testBit i then chk (bits x 47 32 = 0) 32 ++ chk (bits x 62 48 ≤ 24575) 48 else chk (x / 2 ^ 32 = 0) 32
  let m : Member ⊕ Nat :=
    if far then (if uid.testBit 31 then .inr 0 else if (unitOfUid uid).isSome then .inl (.remote x) else .inr (uidBadBit uid))
    else if uid.testBit 31 then
      match groupUidBad s uid with
      | [] => .inl (.group (bits uid 11 0))
      | b :: bs => .inr (bs.foldl min b)
    else match unitOfUid uid with
      | some u => .inl (.unit u)
      | none => .inr (uidBadBit uid)
  match m, high with
  | .inl m, [] => .inl m
  | .inl _, b :: bs => .inr (at_ + bs.foldl min b)
  | .inr b, bs => .inr (at_ + bs.foldl min b)

/-- The members a block names, where all are well formed. -/
def parsedMembers (s : State) (p : Nat) : List Member :=
  (List.range (bits p 489 481)).filterMap fun i => match parseMember s p i with | .inl m => some m | .inr _ => none

/-- Distinct physical units and remote members that a list of members reaches (R24). -/
def reachOf (s : State) (ms : List Member) : List Member :=
  (ms.flatMap fun m => match m with | .group g => expansion s g | m => [m]).eraseDups

/-- Step 7 of GROUP_DEFINE (R24, R502, R503). -/
def checkGroupDefine (s : State) (ps : List (BitVec 512)) : List Nat :=
  let p := paramNat ps
  let n := bits p 489 481
  let q := bits p 498 490
  chk (1 ≤ n && n ≤ 256) (512 + 481) ++ chk (if p.testBit 499 then 1 ≤ q && q ≤ n else q == 0) (512 + 490)
    ++ rsvBad p [(480, 256)] ++ chk (groupRec s (bits p 511 500)).isNone (512 + 500)
    ++ ((List.range (min n 256)).filterMap fun i => match parseMember s p i with | .inl _ => none | .inr b => some b)
    ++ chk ((reachOf s (parsedMembers s p)).length ≤ 65536) 0xFFFF

/-- Size of a group's member vector in 16-byte units (R505). -/
def vecSize (fuel : Nat) (s : State) (g : Nat) : Nat :=
  match fuel with
  | 0 => 0
  | f + 1 =>
    match groupRec s g with
    | none => 0
    | some r => 1 + r.members.length
        + (r.members.map fun m => match m with | .group h => vecSize f s h | _ => 0).foldl (· + ·) 0

def groupVecSize (s : State) (g : Nat) : Nat := vecSize 4097 s g

/-- Tells the devices of remote members of a group (kind 2 joins, kind 3 leaves); `own`: the group was defined in the
lease. -/
def tellRemotes (s : State) (own : Bool) (kind g : Nat) (ms : List Member) : State :=
  ms.foldl (fun s m => match m with | .remote x => sendMsg s own (x / 2 ^ 48) kind [x, groupUid g] | _ => s) s

/-- Commit of GROUP_DEFINE: the group exists, its units join it, epochs follow (R35, R36). -/
def commitGroupDefine (s : State) (ps : List (BitVec 512)) : State :=
  let p := paramNat ps
  let g := bits p 511 500
  let ms := parsedMembers s p
  let r : GroupRec := ⟨ms, if p.testBit 499 then some (bits p 498 490) else none, leaseLive s, []⟩
  let s := { s with groups := { s.groups with tab := smapSet none s.groups.tab g (some r) } }
  bumpGroup (bumpUnits s false 0 (expansionUnits s g) [g]) false 0 g

/-- Commit of GROUP_DEFINE on the device of a remote member: it records the membership and increments the unit's epoch
(R35, R503). -/
def commitMembership (s : State) (uid definer : Nat) : State :=
  match unitOfUid uid with
  | none => s
  | some u => bumpUnits { s with groups := { s.groups with foreign := s.groups.foreign ++ [(uid, definer, leaseLive s)] } } false 0 [u] []

/-- Groups that name a group as a direct member. -/
def parentGroups (s : State) (g : Nat) : List Nat :=
  (groupsDefined s).filter fun h => match groupRec s h with | some r => .group g ∈ r.members | none => false

/-- Step 7 of GROUP_DISSOLVE (R504). -/
def checkGroupDissolve (s : State) (g : Nat) : List Nat := chk (parentGroups s g).isEmpty 0xFFFF

/-- Removes a group: its units leave it, those of other devices at any depth among them (R35, R36). -/
def dissolveGroup (s : State) (g : Nat) : State :=
  let us := expansionUnits s g
  let rem := expansion s g
  let own := (groupRec s g).any (·.inLease)
  let s := { s with groups := { s.groups with tab := smapSet none s.groups.tab g none } }
  tellRemotes (bumpGroup (bumpUnits s false 0 us [g]) false 0 g) own 3 g rem

/-- Whether a prepared GROUP_DEFINE of this device names a group as a member: the group waits for the decision (R508). -/
def askedGroup (s : State) (g : Nat) : Bool :=
  s.cmd.prepared.any fun p => hOpcode p.hdr = 0x0801 && p.lead = selfId s && (parsedMembers s (paramNat p.params)).contains (.group g)

/-- GROUP_DISSOLVE (R504). -/
def execGroupDissolve (id : Nat) (s : State) : Res :=
  if (findCmd s id).any fun c => match c.target with | .group g => askedGroup s g | _ => false then .next s
  else match startCmd s id 0x0802 with
  | .wait => .next s
  | .ended s => .next s
  | .go s c =>
    match c.target with
    | .group g =>
      if (parentGroups s g).isEmpty then .next (finishCmd (dissolveGroup s g) id stOk 0)
      else .next (finishCmd s id stBadParam (badDetail []))
    | _ => .next (finishCmd s id stBadParam (badDetail [384]))

/-! ### Member vectors (R505, R755) -/

/-- A member's FUID (R505). -/
def memberFuid (s : State) (m : Member) : Nat :=
  match m with
  | .unit u => fuidOf s (uidOf u)
  | .group g => fuidOf s (groupUid g)
  | .remote x => x

/-- A member entry (R505). -/
def memberEntryBytes (s : State) (m : Member) (epoch st : Nat) (skipped prep appl : Bool) (detail : Nat) : List Byte :=
  leBytes 16 (memberFuid s m * 2 ^ 64 + epoch % 2 ^ 16 * 2 ^ 48 + st * 2 ^ 40 + stateCode (memberState 4097 s m) * 2 ^ 37
    + b2n skipped * 2 ^ 36 + b2n prep * 2 ^ 35 + b2n appl * 2 ^ 34 + detail % 2 ^ 32)

/-- Whether a list of fan-out positions holds a member: a nested group where it holds every unit of its expansion. -/
def fanHolds (s : State) (c : CmdRec) (m : Member) (is : List Nat) : Bool :=
  let one := fun x => (fanIndex c x).any is.contains
  match m with
  | .group h => !(expansion s h).isEmpty && (expansion s h).all one
  | m => one m

/-- The vectors of a group and of the groups nested in it, depth first; `off` is the vector's place in 16-byte units,
`out` the status every entry carries where the group was not sent the command (R755). -/
def mvBuild (fuel : Nat) (s : State) (c : CmdRec) (g off : Nat) (out : Option Nat) : List Byte :=
  match fuel with
  | 0 => []
  | f + 1 =>
    match groupRec s g with
    | none => []
    | some r =>
      let n := r.members.length
      let head := leBytes 16 (n * 2 ^ 112 + groupVecSize s g * 2 ^ 80 + groupUid g * 2 ^ 32)
      let sizes := r.members.map fun m => match m with | .group h => groupVecSize s h | _ => 0
      let place := fun i => off + 1 + n + (sizes.take i).foldl (· + ·) 0
      let sub := fun (i : Nat) (m : Member) => match m with
        | .group h =>
          let o := match out with
            | some st => some st
            | none => if h ∈ c.noGroups then some stNotReady else none
          mvBuild f s c h (place i) o
        | _ => []
      let entry := fun (i : Nat) (m : Member) =>
        let det := match m with | .group _ => some (place i) | _ => none
        match out with
        | some st => memberEntryBytes s m 0 st true false false (det.getD 0)
        | none =>
          let x := memberResult 4097 s c r.quorum.isSome m
          let ix := fanIndex c m
          let ep := match m with
            | .group h => if h ∈ c.noGroups && r.quorum.isSome then 0 else ((r.sent.getD i 0).toNat)
            | _ => match ix with | some j => (c.fan.getD j (m, 0)).2.toNat | none => 0
          memberEntryBytes s m ep x.2.1 x.1 (fanHolds s c m c.prepared) (fanHolds s c m c.applied) (det.getD x.2.2)
      head ++ (r.members.zipIdx.flatMap fun mi => entry mi.2 mi.1) ++ (r.members.zipIdx.flatMap fun mi => sub mi.2 mi.1)

/-- The whole member vector of a command to a group, of the groups as they were when it started. -/
def memberVector (s : State) (c : CmdRec) (g : Nat) : List Byte := mvBuild 4097 (withTree s c) c g 0 none

/-! ### Remote members (R32) -/

/-- MEMBER_STATE_MESSAGE (R32, R36): a remote member's state, stamp and epoch; groups that name it follow. The message names no
cause, and the EPOCH_CHANGE event of such a group carries cause 0, group (DESIGN CHOICE, log entry 104). -/
def remoteState (s : State) (fuid st stamp epoch : Nat) : State :=
  let old := smapGet none s.groups.remote fuid
  let stale := match old with | some (_, t, _) => decide (stamp < t) | none => false
  if stale then s
  else
    let e := BitVec.ofNat 16 epoch
    let changed := match old with | some (_, _, f) => f != e | none => e != 1
    let s := { s with groups := { s.groups with remote := smapSet none s.groups.remote fuid (some (stateOfCode st, stamp, e)) } }
    if changed then
      ((groupsDefined s).filter fun g => .remote fuid ∈ expansion s g).foldl (fun s g => bumpGroup s false 0 g) s
    else s

end Sys2Proof.Machine
end

