-- ==== Sys2Proof/Machine/Siphash.lean ====
section
/-! DEFINITION. SipHash-2-4, which prefix keys are made with (11_sequence_engine.md R378). -/

namespace Sys2Proof.Machine

/-- One SipHash round on the four 64-bit words. -/
def sipRound (v : BitVec 64 × BitVec 64 × BitVec 64 × BitVec 64) : BitVec 64 × BitVec 64 × BitVec 64 × BitVec 64 :=
  let (a, b, c, d) := v
  let a := a + b
  let b := b.rotateLeft 13 ^^^ a
  let a := a.rotateLeft 32
  let c := c + d
  let d := d.rotateLeft 16 ^^^ c
  let a := a + d
  let d := d.rotateLeft 21 ^^^ a
  let c := c + b
  let b := b.rotateLeft 17 ^^^ c
  (a, b, c.rotateLeft 32, d)

/-- Takes in one 64-bit word of the message. -/
def sipWord (v : BitVec 64 × BitVec 64 × BitVec 64 × BitVec 64) (m : BitVec 64) :
    BitVec 64 × BitVec 64 × BitVec 64 × BitVec 64 :=
  let (a, b, c, d) := v
  let (a, b, c, d) := sipRound (sipRound (a, b, c, d ^^^ m))
  (a ^^^ m, b, c, d)

/-- SipHash-2-4 of a message of whole 64-bit words, under a 128-bit key whose low half is its first eight bytes. -/
def sipHash (key : BitVec 128) (ws : List (BitVec 64)) : BitVec 64 :=
  let k0 := key.setWidth 64
  let k1 := (key >>> 64).setWidth 64
  let v := (k0 ^^^ 0x736f6d6570736575, k1 ^^^ 0x646f72616e646f6d, k0 ^^^ 0x6c7967656e657261, k1 ^^^ 0x7465646279746573)
  let v := (ws ++ [BitVec.ofNat 64 (8 * ws.length % 256 * 2 ^ 56)]).foldl sipWord v
  let (a, b, c, d) := v
  let (a, b, c, d) := sipRound (sipRound (sipRound (sipRound (a, b, c ^^^ 0xFF, d))))
  a ^^^ b ^^^ c ^^^ d

end Sys2Proof.Machine
end

