-- ==== Sys2Proof/Machine/Kv.lean ====
section
/-! DEFINITION. The KV page system: geometry, page tables, frames and their lifecycle, line tags, the prefix table, and
contexts that become damaged (10_attention_and_kv.md R310 to R323, R326, R341; 11_sequence_engine.md R353 to R356, R378
to R383, R390, R392; 12_memory_system.md R422). -/

namespace Sys2Proof.Machine

/-! ### Geometry (R311 to R315) -/

def gFp (g : BitVec 256) : Nat := bits g.toNat 255 192
def gFr (g : BitVec 256) : Nat := bits g.toNat 191 128
def gFrames (g : BitVec 256) : Nat := bits g.toNat 127 96
def gMaxpg (g : BitVec 256) : Nat := bits g.toNat 95 80
def gLayers (g : BitVec 256) : Nat := bits g.toNat 79 72
def gFmt (g : BitVec 256) : Nat := bits g.toNat 71 67
def gPsize (g : BitVec 256) : Nat := bits g.toNat 66 64
def gHdim (g : BitVec 256) : Nat := bits g.toNat 63 62
def gHkv (g : BitVec 256) : Nat := bits g.toNat 61 56
def gStg (g : BitVec 256) : Nat := bits g.toNat 55 45

/-- Page size, head dimension, element size, bytes of one token's vector and of a block. -/
def pageSize (g : BitVec 256) : Nat := 16384 * 2 ^ gPsize g
def headDim (g : BitVec 256) : Nat := 64 * 2 ^ gHdim g
def elemSize (g : BitVec 256) : Nat := fmtBits (gFmt g) / 8
def kvVecBytes (g : BitVec 256) : Nat := headDim g * elemSize g
def blockBytes (g : BitVec 256) : Nat := 64 * kvVecBytes g

/-- Table area: its start, the layer directory and the block of a context. -/
def tableAt (g : BitVec 256) : Nat := gFr g + 4096 * ceilDiv (8 * gFrames g) 4096
def dirBytes (g : BitVec 256) : Nat := 64 * ceilDiv (8 * gLayers g) 64
def ctxBlock (g : BitVec 256) : Nat := 4096 * ceilDiv (dirBytes g + 8 * gLayers g * gMaxpg g) 4096
def sprAddr (g : BitVec 256) (c l : Nat) : Nat := tableAt g + c * ctxBlock g + 8 * l
def pteAddr (g : BitVec 256) (c l p : Nat) : Nat := tableAt g + c * ctxBlock g + dirBytes g + 8 * gMaxpg g * l + 8 * p
def frameAt (g : BitVec 256) (f : Nat) : Nat := gFp g + f * pageSize g
def recAddr (g : BitVec 256) (f : Nat) : Nat := gFr g + 8 * f

/-- The three parts of the KV region. -/
def kvParts (g : BitVec 256) : List Rng :=
  [⟨gFp g, gFrames g * pageSize g⟩, ⟨gFr g, 4096 * ceilDiv (8 * gFrames g) 4096⟩, ⟨tableAt g, 1024 * ctxBlock g⟩]

/-! ### Configuration (R353) -/

def cModel (c : BitVec 1024) : Nat := bits c.toNat 1023 960
def cTlbase (c : BitVec 1024) : Nat := bits c.toNat 959 896
def cPtbase (c : BitVec 1024) : Nat := bits c.toNat 895 832
def cNnodes (c : BitVec 1024) : Nat := bits c.toNat 831 811
def cBudget (c : BitVec 1024) : Nat := bits c.toNat 810 796
def cMirror (c : BitVec 1024) : Bool := bit c.toNat 795
def cRplns (c : BitVec 1024) : Nat := bits c.toNat 767 736
def cTailns (c : BitVec 1024) : Nat := bits c.toNat 735 704
def cFixns (c : BitVec 1024) : Nat := bits c.toNat 703 672
def cPgps (c : BitVec 1024) : Nat := bits c.toNat 671 640
def cLinkps (c : BitVec 1024) : Nat := bits c.toNat 639 608
def cFixst (c : BitVec 1024) : Nat := bits c.toNat 607 576
def cDecst (c : BitVec 1024) : Nat := bits c.toNat 575 544
def cPfst (c : BitVec 1024) : Nat := bits c.toNat 543 512
def cDrst (c : BitVec 1024) : Nat := bits c.toNat 511 480
def cKvmst (c : BitVec 1024) : Nat := bits c.toNat 479 448
def cGraph (c : BitVec 1024) : Nat := bits c.toNat 447 384
def cLead (c : BitVec 1024) : Nat := bits c.toNat 383 320
def cVbase (c : BitVec 1024) : Nat := bits c.toNat 319 288

/-- Bytes of a prefix node, and its address. -/
def nodeSize (g : BitVec 256) : Nat := 64 * ceilDiv (320 + 4 * gLayers g) 64
def nodeAt (g : BitVec 256) (c : BitVec 1024) (n : Nat) : Nat := cPtbase c + 16 * cNnodes c + n * nodeSize g
def slotAddr (c : BitVec 1024) (i : Nat) : Nat := cPtbase c + 8 * i

/-- The token-log region and the prefix region (R354). -/
def logRng (g : BitVec 256) (c : BitVec 1024) : Rng := ⟨cTlbase c, 256 * gMaxpg g * 1024⟩
def prefixRng (g : BitVec 256) (c : BitVec 1024) : Rng := ⟨cPtbase c, (16 + nodeSize g) * cNnodes c⟩

/-- The log word of a position. -/
def logAddr (g : BitVec 256) (c : BitVec 1024) (ctx pos : Nat) : Nat := cTlbase c + ctx * 256 * gMaxpg g + 4 * pos

/-- Whether a range touches what only the sequence engine and the attention units may reach (R313, R355). -/
def kvProtected (s : State) (a n : Nat) : Bool :=
  match s.seq.geom, s.seq.cfg with
  | some g, some c => (kvParts g ++ [logRng g c, prefixRng g c]).any (rngOverlap ⟨a, n⟩)
  | some g, none => (kvParts g).any (rngOverlap ⟨a, n⟩)
  | _, _ => false

/-- REGION of an address (R421). -/
def regionOf (s : State) (a : Nat) : Nat :=
  if isHbm a && leaseHbmEnd ≤ a then 5
  else match s.seq.geom, s.seq.cfg with
    | some g, some c =>
      let hit := fun (r : Rng) => rngOverlap ⟨a, 1⟩ r
      match kvParts g with
      | p :: rest =>
        if hit p then 1 else if rest.any hit then 2 else if hit (logRng g c) then 3 else if hit (prefixRng g c) then 4 else 0
      | [] => 0
    | _, _ => 0

/-! ### Page table entries, frame records, tags (R316 to R322) -/

def pteState (x : Nat) : Nat := bits x 63 61
def pteShared (x : Nat) : Bool := bit x 60
def ptePoisoned (x : Nat) : Bool := bit x 59
def pteStaged (x : Nat) : Bool := bit x 58
def pteVer (x : Nat) : Nat := bits x 57 38
def pteSgrp (x : Nat) : Nat := bits x 37 26
def pteFrame (x : Nat) : Nat := bits x 25 0

def mkPte (st : Nat) (shared : Bool) (ver sgrp frame : Nat) : Nat :=
  st * 2 ^ 61 + b2n shared * 2 ^ 60 + ver * 2 ^ 38 + sgrp * 2 ^ 26 + frame

def frVer (x : Nat) : Nat := bits x 63 44
def frState (x : Nat) : Nat := bits x 43 42
def frOwner (x : Nat) : Nat := bits x 29 20
def frRef (x : Nat) : Nat := bits x 19 4

def mkFrame (ver st sgrp owner ref : Nat) : Nat := ver * 2 ^ 44 + st * 2 ^ 42 + sgrp * 2 ^ 30 + owner * 2 ^ 20 + ref * 2 ^ 4

def mkTag (ver : Nat) (shared : Bool) (ctx sgrp : Nat) : BitVec 48 :=
  BitVec.ofNat 48 (ver * 2 ^ 28 + b2n shared * 2 ^ 27 + ctx * 2 ^ 17 + sgrp * 2 ^ 5)

def getFrame (s : State) (g : BitVec 256) (f : Nat) : Nat := readNat s (recAddr g f) 8
def setFrame (s : State) (g : BitVec 256) (f x : Nat) : State := writeNat s (recAddr g f) 8 x

def setSeq (s : State) (q : SeqSt) : State := { s with seq := q }
def getCtx (s : State) (c : Nat) : Option CtxRec := smapGet none s.seq.ctxs c
def setCtx (s : State) (c : Nat) (r : Option CtxRec) : State := setSeq s { s.seq with ctxs := smapSet none s.seq.ctxs c r }
def updCtx (s : State) (c : Nat) (f : CtxRec → CtxRec) : State := setCtx s c ((getCtx s c).map f)

/-- Allocated contexts. -/
def ctxList (s : State) : List Nat := (s.seq.ctxs.filter fun e => e.2.isSome).map (·.1)

/-- Share group of a context; 0 where it has none. -/
def ctxSgrp (s : State) (c : Nat) : Nat := match getCtx s c with | some r => r.sgrp | none => 0

/-- Adds to the frames charged to a context, or takes from them (R359). -/
def charge (s : State) (c n : Nat) : State := updCtx s c fun r => { r with frames := r.frames + n }
def discharge (s : State) (c n : Nat) : State := updCtx s c fun r => { r with frames := r.frames - n }

/-- Forgets every look-aside copy of one entry (R326). -/
def dropLab (s : State) (c l : Nat) (p : Option Nat) : State :=
  let keep := fun (e : LabEnt) => !(e.ctx = c && e.layer = l && e.page = p)
  { s with clusters := s.clusters.map fun x => { x with lab := x.lab.filter keep } }

/-- Writes a page-table entry, or with no page the sprout entry of a layer (R317, R326). -/
def writePte (s : State) (g : BitVec 256) (c l : Nat) (p : Option Nat) (x : Nat) : State :=
  dropLab (writeNat s (match p with | some p => pteAddr g c l p | none => sprAddr g c l) 8 x) c l p

/-- The address of a page-table entry, or with no page of a layer's sprout entry. -/
def entryAddr (g : BitVec 256) (c l : Nat) (p : Option Nat) : Nat := match p with | some p => pteAddr g c l p | none => sprAddr g c l

def readPte (s : State) (g : BitVec 256) (c l : Nat) (p : Option Nat) : Nat := readNat s (entryAddr g c l p) 8

/-- Writes one whole line with a tag. -/
def writeTagged (s : State) (line : Nat) (bs : List Byte) (tag : BitVec 48) : State :=
  let s := writeBytes s (line * 64) bs
  { s with mem := { s.mem with tags := smapSet 0 s.mem.tags line tag } }

/-- Lines of a frame. -/
def frameLines (g : BitVec 256) (f : Nat) : List Nat := (List.range (pageSize g / 64)).map (frameAt g f / 64 + ·)

/-- Zeros in every line of a frame under a tag (R320). -/
def zeroFrame (s : State) (g : BitVec 256) (f : Nat) (tag : BitVec 48) : State :=
  (frameLines g f).foldl (fun s l => writeTagged s l (List.replicate 64 0) tag) s

/-- Rewrites every line of a frame in place under a tag; poison stays. -/
def retagFrame (s : State) (g : BitVec 256) (f : Nat) (tag : BitVec 48) : State :=
  (frameLines g f).foldl (fun s l =>
    if poisoned s l then { s with mem := { s.mem with tags := smapSet 0 s.mem.tags l tag } }
    else writeTagged s l (readBytes s (l * 64) 64) tag) s

/-- Discards every staged copy of a frame (R341). -/
def discardStaged (s : State) (f : Nat) : State :=
  { s with clusters := s.clusters.map fun x => { x with staging := x.staging.filter fun d => d.frame ≠ f } }

/-- An event of the sequence engine; the manual gives these payloads no layout, so the payload is free. -/
def seqEvent (s : State) (typ tag a b : Nat) : State :=
  unitEvent s typ (uidOf (.seqEngine 0)) (epochOf s (.seqEngine 0)) tag 1 (Config.seqPayload typ a b % 2 ^ 256)

/-- Takes a frame out of use until the end of the lease (R321). -/
def retireFrame (s : State) (g : BitVec 256) (f : Nat) : State :=
  seqEvent (setFrame (discardStaged s f) g f (mkFrame (frVer (getFrame s g f)) 3 0 0 0)) 0x0008 0 f 0

/-- Frees an owned frame. -/
def freeFrame (s : State) (g : BitVec 256) (f : Nat) : State :=
  let r := getFrame s g f
  setFrame (discardStaged s f) g f (mkFrame (frVer r) 0 0 0 0)

/-- Drops one reference of a shared frame (R320). -/
def dropRef (s : State) (g : BitVec 256) (f : Nat) : State :=
  let r := getFrame s g f
  if frRef r ≤ 1 then freeFrame s g f else setFrame s g f (r - 2 ^ 4)

/-- Gives up what one entry holds of a frame. -/
def releasePte (s : State) (g : BitVec 256) (x : Nat) : State :=
  if pteShared x then dropRef s g (pteFrame x) else freeFrame s g (pteFrame x)

/-! ### The prefix table (R378, R379, R383) -/

def nodeHdr (s : State) (g : BitVec 256) (c : BitVec 1024) (n : Nat) : Nat := readNat s (nodeAt g c n) 64
def nKey (h : Nat) : Nat := bits h 511 448
def nPkey (h : Nat) : Nat := bits h 447 384
def nSgrp (h : Nat) : Nat := bits h 383 372
def nRoot (h : Nat) : Bool := bit h 371
def nPidx (h : Nat) : Nat := bits h 370 351
def nChildren (h : Nat) : Nat := bits h 343 328
def nLastuse (h : Nat) : Nat := bits h 327 264

def mkNode (key pkey sgrp : Nat) (root : Bool) (pidx children lastuse : Nat) : Nat :=
  key * 2 ^ 448 + pkey * 2 ^ 384 + sgrp * 2 ^ 372 + b2n root * 2 ^ 371 + pidx * 2 ^ 351 + children * 2 ^ 328 + lastuse * 2 ^ 264

def nodeFrames (s : State) (g : BitVec 256) (c : BitVec 1024) (n : Nat) : List Nat :=
  (List.range (gLayers g)).map fun l => readNat s (nodeAt g c n + 320 + 4 * l) 4

/-- A node is in use while its header is not zero. -/
def nodeUsed (s : State) (g : BitVec 256) (c : BitVec 1024) (n : Nat) : Bool := nodeHdr s g c n != 0

def slotGet (s : State) (c : BitVec 1024) (i : Nat) : Nat := readNat s (slotAddr c i) 8
def slotUsed (x : Nat) : Bool := bit x 31
def slotNode (x : Nat) : Nat := bits x 19 0
def slotTag (x : Nat) : Nat := bits x 63 32

/-- The key of a block (R378). -/
def blockKey (s : State) (c : BitVec 1024) (parent : Nat) (toks : List Nat) : Nat :=
  let ws := (BitVec.ofNat 64 parent) :: (BitVec.ofNat 64 (cModel c)) ::
    (List.range 32).map fun i => BitVec.ofNat 64 (toks.getD (2 * i) 0 % 2 ^ 32 + toks.getD (2 * i + 1) 0 % 2 ^ 32 * 2 ^ 32)
  (sipHash (s.seq.prefixKey.getD 0) ws).toNat

/-- The first slot from a key's home, in probing order, that a test holds of, stopping at an empty one; a slot in a poisoned line is
passed over (R422). -/
def probe (fuel : Nat) (s : State) (c : BitVec 1024) (i : Nat) (ok : Nat → Bool) : Option Nat :=
  match fuel with
  | 0 => none
  | f + 1 =>
    let x := slotGet s c i
    let bad := anyPoison s (slotAddr c i) 8
    if !bad && !slotUsed x then none
    else if !bad && ok x then some i
    else probe f s c ((i + 1) % (2 * cNnodes c)) ok

/-- The first empty slot from a place. -/
def emptySlot (fuel : Nat) (s : State) (c : BitVec 1024) (i : Nat) : Option Nat :=
  match fuel with
  | 0 => none
  | f + 1 => if slotUsed (slotGet s c i) then emptySlot f s c ((i + 1) % (2 * cNnodes c)) else some i

/-- Tokens of a node. -/
def nodeToks (s : State) (g : BitVec 256) (c : BitVec 1024) (n : Nat) : List Nat :=
  (List.range 64).map fun i => readNat s (nodeAt g c n + 64 + 4 * i) 4

/-- A hit of a block: the node whose key, parent, share group and tokens are the block's; never in a poisoned line (R380,
R422). -/
def lookupBlock (s : State) (g : BitVec 256) (c : BitVec 1024) (key pkey sgrp : Nat) (parent : Option Nat) (toks : List Nat) :
    Option Nat :=
  if cNnodes c = 0 then none
  else
    let ok := fun x =>
      let n := slotNode x
      let h := nodeHdr s g c n
      slotTag x = key / 2 ^ 32 && !anyPoison s (nodeAt g c n) (nodeSize g) && nKey h = key && nPkey h = pkey && nSgrp h = sgrp
        && (match parent with | none => nRoot h | some p => !nRoot h && nPidx h = p) && nodeToks s g c n = toks
    (probe (2 * cNnodes c) s c (key % (2 * cNnodes c)) ok).map fun i => slotNode (slotGet s c i)

/-- Backward shift after slot `i` has become empty: `j` is the next slot to look at. -/
def shiftBack (fuel : Nat) (s : State) (g : BitVec 256) (c : BitVec 1024) (i j : Nat) : State :=
  match fuel with
  | 0 => s
  | f + 1 =>
    let m := 2 * cNnodes c
    let x := slotGet s c j
    if !slotUsed x then s
    else
      let h := nKey (nodeHdr s g c (slotNode x)) % m
      if (j + m - h) % m ≥ (j + m - i) % m then
        shiftBack f (writeNat (writeNat s (slotAddr c i) 8 x) (slotAddr c j) 8 0) g c j ((j + 1) % m)
      else shiftBack f s g c i ((j + 1) % m)

/-- Takes a node out of the slot array. -/
def removeSlot (s : State) (g : BitVec 256) (c : BitVec 1024) (n : Nat) : State :=
  match (List.range (2 * cNnodes c)).find? fun i => slotUsed (slotGet s c i) && slotNode (slotGet s c i) = n with
  | none => s
  | some i => shiftBack (2 * cNnodes c) (writeNat s (slotAddr c i) 8 0) g c i ((i + 1) % (2 * cNnodes c))

/-- Changes a parent's CHILDREN, where the node it names is still the parent. -/
def addChild (s : State) (g : BitVec 256) (c : BitVec 1024) (h : Nat) (up : Bool) : State :=
  if nRoot h then s
  else
    let p := nodeHdr s g c (nPidx h)
    if nKey p ≠ nPkey h then s
    else writeNat s (nodeAt g c (nPidx h)) 64 (if up then p + 2 ^ 328 else if nChildren p = 0 then p else p - 2 ^ 328)

/-- Removes a node, dropping its references (R383, R422). -/
def removeNode (s : State) (g : BitVec 256) (c : BitVec 1024) (n : Nat) : State :=
  if !nodeUsed s g c n then s
  else
    let h := nodeHdr s g c n
    let fs := nodeFrames s g c n
    let s := addChild (removeSlot s g c n) g c h false
    let s := fs.foldl (fun s f => dropRef s g f) s
    writeNat s (nodeAt g c n) 64 0

/-- Evicts one leaf node whose frames only the tree holds: the least LASTUSE, the lower index (R383); never one that a
prepared SEQ_PREFILL will share (R508). -/
def evictLeaf (s : State) (g : BitVec 256) (c : BitVec 1024) : Option State :=
  let held := fun n => s.cmd.prepared.any fun p => hOpcode p.hdr = 0x0504 && p.reserve.contains n
  let ok := fun n => !held n && nodeUsed s g c n && nChildren (nodeHdr s g c n) = 0
    && (nodeFrames s g c n).all fun f => frRef (getFrame s g f) = 1
  let best := ((List.range (cNnodes c)).filter ok).foldl (fun (a : Option Nat) n => match a with
    | none => some n
    | some m => if nLastuse (nodeHdr s g c n) < nLastuse (nodeHdr s g c m) then some n else some m) none
  best.map (removeNode s g c)

/-! ### Allocation (R320, R321, R367, R383) -/

/-- Whether a frame may be allocated: it is FREE, its record is sound, and none of its lines lies on a lost channel (R320, R413;
DEDUCED, log entry 147). -/
def frameFree (s : State) (g : BitVec 256) (f : Nat) : Bool :=
  frState (getFrame s g f) = 0 && !anyPoison s (recAddr g f) 8
    && !(s.channels.toList.any (·.lost) && channelsLost s [⟨frameAt g f, pageSize g⟩])

/-- The next free frame from the search hint. -/
def findFree (s : State) (g : BitVec 256) : Option Nat :=
  let n := gFrames g
  ((List.range n).map fun i => (s.seq.nextFrame + i) % n).find? (frameFree s g)

/-- Frames free for allocation. -/
def freeCount (s : State) (g : BitVec 256) : Nat := ((List.range (gFrames g)).filter (frameFree s g)).length

/-- Frames reserved for contexts (R367). -/
def reserveSum (s : State) : Nat := (s.seq.reserve.map (·.2)).foldl (· + ·) 0

/-- Allocates a frame to a context: zeros under the new tag, then the record. Frames reserved for other contexts are kept
(R367); a frame whose version would reach its end is retired, and leaf nodes are evicted while none is free. The frame, if one could be
had, and the state reached. -/
def allocFuel (fuel : Nat) (s : State) (g : BitVec 256) (ctx : Nat) : Option Nat × State :=
  match fuel with
  | 0 => (none, s)
  | k + 1 =>
    let own := smapGet 0 s.seq.reserve ctx
    match if own > 0 || freeCount s g > reserveSum s then findFree s g else none with
    | none => match s.seq.cfg with
      | none => (none, s)
      | some c => match evictLeaf s g c with
        | none => (none, s)
        | some s => allocFuel k s g ctx
    | some f =>
      let v := frVer (getFrame s g f) + 1
      if v = 0xFFFFF then allocFuel k (retireFrame s g f) g ctx
      else
        let s := zeroFrame s g f (mkTag v false ctx 0)
        let s := setFrame s g f (mkFrame v 1 0 ctx 0)
        (some f, setSeq s { s.seq with nextFrame := (f + 1) % gFrames g, reserve := smapSet 0 s.seq.reserve ctx (own - 1) })

def allocFrame (s : State) (g : BitVec 256) (ctx : Nat) : Option Nat × State :=
  allocFuel (gFrames g + (match s.seq.cfg with | some c => cNnodes c | none => 0) + 1) s g ctx

/-- The state that an action leaves which failed for want of a frame: as it was, but for the frames that the attempt `t` retired
(R321). -/
def keepRetired (s t : State) (g : BitVec 256) : State :=
  ((List.range (gFrames g)).filter fun f => frState (getFrame s g f) = 0 && frState (getFrame t g f) = 3).foldl
    (fun s f => retireFrame s g f) s

/-- Copies the bytes of a frame into another under a tag, poison with them. -/
def copyFrame (s : State) (g : BitVec 256) (src dst : Nat) (tag : BitVec 48) : State :=
  ((frameLines g src).zip (frameLines g dst)).foldl (fun s p =>
    let bad := poisoned s p.1
    let t := writeTagged s p.2 (readBytes s (p.1 * 64) 64) tag
    if bad then setPoison t p.2 true else t) s

/-- Allocates a frame whose publication stays below the last version; one whose would not is retired in its turn (R321). -/
def allocPublishable (fuel : Nat) (s : State) (g : BitVec 256) (ctx : Nat) : Option Nat × State :=
  match fuel with
  | 0 => (none, s)
  | k + 1 => match allocFrame s g ctx with
    | (none, s) => (none, s)
    | (some n, s) => if frVer (getFrame s g n) + 1 = 0xFFFFF then allocPublishable k (retireFrame s g n) g ctx else (some n, s)

/-- Publishes a frame that a context owns into a share group with a reference count: the frame that holds the page then,
and its version, if it could be done, and the state reached (R320, R321). -/
def publishFrame (s : State) (g : BitVec 256) (ctx f sgrp ref : Nat) : Option (Nat × Nat) × State :=
  let s := discardStaged s f
  let v := frVer (getFrame s g f) + 1
  if v = 0xFFFFF then
    match allocPublishable (gFrames g + 1) s g ctx with
    | (none, s) => (none, s)
    | (some n, s) =>
      let w := frVer (getFrame s g n) + 1
      let s := copyFrame s g f n (mkTag w true 0 sgrp)
      (some (n, w), retireFrame (setFrame s g n (mkFrame w 2 sgrp 0 ref)) g f)
  else
    (some (f, v), setFrame (retagFrame s g f (mkTag v true 0 sgrp)) g f (mkFrame v 2 sgrp 0 ref))

/-! ### Releases (R341, R357, R390) -/

/-- Layers and pages of a context. -/
def ctxPages (g : BitVec 256) : List (Nat × Nat) :=
  (List.range (gLayers g)).flatMap fun l => (List.range (gMaxpg g)).map fun p => (l, p)

/-- Releases the sprout frames of a context and its draft (R389, R390). -/
def retractDraft (s : State) (g : BitVec 256) (c : Nat) : State :=
  let s := (List.range (gLayers g)).foldl (fun s l =>
    let x := readPte s g c l none
    if pteState x = 2 then discharge (writePte (freeFrame s g (pteFrame x)) g c l none 0) c 1 else s) s
  updCtx s c fun r => { r with dnodes := 0, draft := [], verified := false }

/-- Releases every page of a context, its entries left in a state (R357, R393). -/
def releasePages (s : State) (g : BitVec 256) (c st : Nat) : State :=
  (ctxPages g).foldl (fun s lp =>
    let x := readPte s g c lp.1 (some lp.2)
    let y := mkPte st false 0 0 0
    if pteState x = 1 then discharge (writePte (releasePte s g x) g c lp.1 (some lp.2) y) c 1
    else if pteState x = 3 && st = 0 then writePte s g c lp.1 (some lp.2) 0
    else s) s

/-! ### Damage (R392, R422, R413) -/

/-- A context becomes DAMAGED: its draft is retracted first, and one event tells the cause (0 poison, 1 tag mismatch, 2
walk failure, 3 token log) and the frame. -/
def damage (s : State) (c cause frame : Nat) : State :=
  match getCtx s c, s.seq.geom with
  | some r, some g =>
    if r.state = 0 ∨ r.state = 6 then s
    else
      let s := if r.state = 3 then retractDraft s g c else s
      seqEvent (updCtx s c fun r => { r with state := 6, former := r.state }) 0x0007 0 (cause + c * 16) frame
  | _, _ => s

/-- Contexts and entries that name a frame. -/
def namersOf (s : State) (g : BitVec 256) (f : Nat) : List (Nat × Nat × Option Nat) :=
  (ctxList s).flatMap fun c =>
    ((ctxPages g).filterMap fun lp =>
      let x := readPte s g c lp.1 (some lp.2)
      if pteState x = 1 && pteFrame x = f then some (c, lp.1, some lp.2) else none)
    ++ (List.range (gLayers g)).filterMap fun l =>
      let x := readPte s g c l none
      if pteState x = 2 && pteFrame x = f then some (c, l, none) else none

/-- Nodes that hold a frame. -/
def nodesOf (s : State) (g : BitVec 256) (c : BitVec 1024) (f : Nat) : List Nat :=
  (List.range (cNnodes c)).filter fun n => nodeUsed s g c n && (nodeFrames s g c n).contains f

/-- A frame holds a poisoned line: its entries say so, the contexts that name it are damaged, and its node goes. -/
def frameHit (s : State) (g : BitVec 256) (c : BitVec 1024) (f : Nat) : State :=
  let ns := namersOf s g f
  let s := ns.foldl (fun s n =>
    let x := readPte s g n.1 n.2.1 n.2.2
    if ptePoisoned x then s else writePte s g n.1 n.2.1 n.2.2 (x + 2 ^ 59)) s
  let s := (ns.map (·.1)).eraseDups.foldl (fun s k => damage s k 0 f) s
  (nodesOf s g c f).foldl (fun s n => removeNode s g c n) s

/-- Rebuilds the slot array from the nodes in use, its lines written whole (R397, R422). -/
def rebuildSlots (s : State) (g : BitVec 256) (c : BitVec 1024) : State :=
  let m := 2 * cNnodes c
  let s := writeBytes s (cPtbase c) (List.replicate (8 * m) 0)
  ((List.range (cNnodes c)).filter (nodeUsed s g c)).foldl (fun s n =>
    let k := nKey (nodeHdr s g c n)
    match emptySlot m s c (k % m) with
    | some i => writeNat s (slotAddr c i) 8 (k / 2 ^ 32 * 2 ^ 32 + 2 ^ 31 + n)
    | none => s) s

/-- A word of a token log is poisoned (R392). -/
def logHit (s : State) (c : Nat) : State := damage s c 3 0

/-- A line of the system area is poisoned: Askoc rebuilds it where it can, and reports what it cannot; which, the manual leaves
open (R422; DESIGN CHOICE, log entry 107). -/
def systemHit (s : State) (line : Nat) : State :=
  let x := drawFree s
  if x.1 % 2 = 0 then setPoison x.2 line false
  else faultUnit x.2 (.mgmt 0) 0x0005 0 (uidOf (.mgmt 0)) (line * 64) 0

/-- Acts on a line that has become poisoned, by its region (R422). -/
def poisonAct (s : State) (line : Nat) : State :=
  let a := line * 64
  if regionOf s a = 5 then systemHit s line
  else match s.seq.geom, s.seq.cfg with
  | some g, some c =>
    match regionOf s a with
    | 1 => frameHit s g c ((a - gFp g) / pageSize g)
    | 2 =>
      if a < tableAt g then
        let fs := (List.range 8).map fun i => (a - gFr g) / 8 + i
        (fs.flatMap fun f => (namersOf s g f).map fun n => (n.1, f)).foldl (fun s n => damage s n.1 0 n.2) s
      else damage s ((a - tableAt g) / ctxBlock g) 0 0
    | 3 => logHit s ((a - cTlbase c) / (256 * gMaxpg g))
    | 4 =>
      if a < cPtbase c + 16 * cNnodes c then rebuildSlots s g c
      else
        let ns := (List.range (cNnodes c)).filter fun n => rngOverlap ⟨a, 64⟩ ⟨nodeAt g c n, nodeSize g⟩
        rebuildSlots (ns.foldl (fun s n => removeNode s g c n) s) g c
    | _ => s
  | _, _ => s

/-- Whether a range has a line on a channel. -/
def onChannel (n a len : Nat) : Bool := (linesOf a len).any fun l => isHbm (l * 64) && hbmChannel (l * 64) = n

/-- What the loss of every line of a channel damages (R413, R632). -/
def channelDamage (s : State) (n : Nat) : State :=
  match s.seq.geom, s.seq.cfg with
  | some g, some c =>
    let fs := (List.range (gFrames g)).filter fun f => frState (getFrame s g f) = 1 || frState (getFrame s g f) = 2
    let s := (fs.filter fun f => onChannel n (frameAt g f) (pageSize g)).foldl (fun s f => frameHit s g c f) s
    let s := (ctxList s).foldl (fun s k =>
      let s := if onChannel n (logAddr g c k 0) (256 * gMaxpg g) then logHit s k else s
      if onChannel n (tableAt g + k * ctxBlock g) (dirBytes g + 8 * gLayers g * gMaxpg g) then damage s k 0 0 else s) s
    let ns := (List.range (cNnodes c)).filter fun m => nodeUsed s g c m && onChannel n (nodeAt g c m) (nodeSize g)
    let s := ns.foldl (fun s m => removeNode s g c m) s
    if onChannel n (cPtbase c) (16 * cNnodes c) then rebuildSlots s g c else s
  | _, _ => s

/-! ### Line tags (R322, R323) -/

/-- How an access of an attention unit fails: its status, and what the sequence engine is told: cause and frame (R335, R392); the
line whose tag forbade it. -/
structure AttnFail where
  st : Nat
  cause : Option Nat
  frame : Nat
  line : Option Nat
  deriving DecidableEq, Repr

/-- A failure that no cause of damage stands behind. -/
def plainFail (st : Nat) : AttnFail := ⟨st, none, 0, none⟩

def tagOf (s : State) (line : Nat) : Nat := (smapGet 0 s.mem.tags line).toNat

/-- Whether the controller performs a read, or a write, of a line for a context with a version. -/
def tagAllows (s : State) (c v : Nat) (write : Bool) (line : Nat) : Bool :=
  let t := tagOf s line
  let g := ctxSgrp s c
  bits t 47 28 = v && (if bit t 27 then !write && bits t 16 5 = g && g ≠ 0 else bits t 26 17 = c)

/-- The first line of some ranges whose tag forbids the access. -/
def tagBad (s : State) (c v : Nat) (write : Bool) (rs : List Rng) : Option Nat :=
  (rs.flatMap fun r => linesOf r.lo r.len).find? fun l => !tagAllows s c v write l

/-- The failure of an access to ranges of a frame whose tags forbid it. -/
def tagFail (s : State) (c v f : Nat) (write : Bool) (rs : List Rng) : Option AttnFail :=
  (tagBad s c v write rs).map fun l => ⟨stRefused, some 1, f, some l⟩

/-- The failure of a read of ranges of a frame: its tags forbid it, or a line is poisoned. -/
def readFail (s : State) (c v f : Nat) (rs : List Rng) : Option AttnFail :=
  match tagFail s c v f false rs with
  | some e => some e
  | none => if rs.any fun r => anyPoison s r.lo r.len then some ⟨stPoisoned, some 0, f, none⟩ else none

/-- Reports a failed access of an attention unit: a fault record, one more for a forbidden line, and the sequence engine is told
(R323, R335, R392). -/
def attnReport (s : State) (k : Fin 24) (c n : Nat) (e : AttnFail) : State :=
  let s := match e.line with
    | some l => faultUnit s (.attn k) 0x0004 0 (uidOf (.attn k)) (l * 64) (c + e.frame * 2 ^ 26)
    | none => s
  let s := faultUnit s (.attn k) 0x0003 e.st (uidOf (.attn k)) 0 (c + n % 2 ^ 32 * 2 ^ 16)
  match e.cause with
  | some x => damage s c x e.frame
  | none => s

/-! ### Mailboxes (R329, R330) -/

/-- The mailbox of a core of a cluster. -/
def mailbox (k r : Nat) : Nat := clusterStoreAt k + 0x27FC000 + r * 0x800

/-- DOORBELL and CONSUMED of a ring (R329, R330). -/
def ringDoorbell (s : State) (k r : Nat) : Nat := readNat s (mailbox k r + 0x400) 8
def ringConsumed (s : State) (k r : Nat) : Nat := readNat s (mailbox k r + 0x408) 8

/-- The words of a mailbox after a reset of its cluster. -/
def clearMailbox (s : State) (k : Nat) : State :=
  (List.range 8).foldl (fun s r => writeBytes s (mailbox k r + 0x400) (List.replicate 24 0)) s

/-- The slots of a cluster's staging area (R329). -/
def stageSlot (g : BitVec 256) (k i : Nat) : Nat := mailbox k 0 - gStg g * pageSize g + i * pageSize g

end Sys2Proof.Machine
end

