-- ==== Sys2Proof/Machine/Seal.lean ====
section
/-! DEFINITION. How a frame is sealed: the keys of sealed links and of the plain's management, by HKDF over SHA-384, and AES-256-GCM
with the header as additional data (15_onaux_fabric.md R534 to R537, R552; 17_security_and_leasing.md R605). -/

namespace Sys2Proof.Machine

/-- The 48 bytes of a SHA-384 digest, the first its most significant. -/
def sha384Bytes (m : List Byte) : List Byte := (leBytes 48 (Config.sha384 m).toNat).reverse

/-- HMAC over SHA-384, for keys of at most its block of 128 bytes. -/
def hmac (key msg : List Byte) : List Byte :=
  let k := (key ++ List.replicate 128 0).take 128
  sha384Bytes (k.map (· ^^^ 0x5C) ++ sha384Bytes (k.map (· ^^^ 0x36) ++ msg))

/-- HKDF, extract and expand, up to two digests of output (RFC 5869). -/
def hkdf (ikm salt info : List Byte) (n : Nat) : List Byte :=
  let prk := hmac salt ikm
  let t1 := hmac prk (info ++ [1])
  (t1 ++ hmac prk (t1 ++ info ++ [2])).take n

/-- A label in ASCII. -/
def asciiBytes (t : String) : List Byte := t.toList.map fun c => BitVec.ofNat 8 c.toNat

/-- FUID of a device, from its number in SRC and DST. -/
def deviceFuid (x : Nat) : Nat := x * 2 ^ 48 + uidOf .device

/-- Keys of a generation of the sealed link to a peer (R537). -/
def linkKeys (s : State) (peer gen : Nat) (mine theirs : BitVec 128) : LinkKeys :=
  let a := deviceFuid (selfId s)
  let b := deviceFuid peer
  let low := decide (a < b)
  let salt := if low then leBytes 16 mine.toNat ++ leBytes 16 theirs.toNat else leBytes 16 theirs.toNat ++ leBytes 16 mine.toNat
  let info := asciiBytes "ONAUX-SL" ++ leBytes 4 s.lease.id.toNat ++ leBytes 8 (min a b) ++ leBytes 8 (max a b) ++ leBytes 4 gen
  let out := hkdf (leBytes 32 (s.lease.fabSecret.getD 0).toNat) salt info 72
  let key := fun at_ => BitVec.ofNat 256 (fromLe ((out.drop at_).take 32))
  let slt := fun at_ => BitVec.ofNat 32 (fromLe ((out.drop at_).take 4).reverse)
  if low then ⟨key 0, slt 64, key 32, slt 68⟩ else ⟨key 32, slt 68, key 0, slt 64⟩

/-- The plain management key (R536, R605); HKDF's salt, which the manual does not state, is RFC 5869's default of zeros (log entry
118). -/
def mgmtKey (s : State) : BitVec 256 :=
  let info := asciiBytes "ONAUX-PM" ++ leBytes 1 (plainOf s)
  BitVec.ofNat 256 (fromLe (hkdf (leBytes 32 (s.sec.plain.getD 0).toNat) (List.replicate 48 0) info 32))

/-- The header as GCM's additional data: CORR taken as zero (R535). -/
def frameAad (h : BitVec 256) : List Byte := leBytes 32 (h.toNat / 2 ^ 32 * 2 ^ 32)

/-- The GCM nonce: the salt of the key, then the frame counter (R535). -/
def frameNonce (salt : BitVec 32) (ctr : Nat) : BitVec 96 := BitVec.ofNat 96 (salt.toNat * 2 ^ 64 + ctr)

/-- The digest of a unit's bytes under the mirror secret: the first 128 bits of HMAC-SHA-384 (R552). -/
def mirrorDigest (key : BitVec 256) (msg : List Byte) : BitVec 128 :=
  BitVec.ofNat 128 (fromLe ((hmac (leBytes 32 key.toNat) msg).take 16).reverse)

/-- A frame sealed under a key with a counter: its payload encrypted, its header authenticated. -/
def gcmFrame (key : BitVec 256) (salt : BitVec 32) (ctr : Nat) (h : BitVec 256) (b : FrameBody) : FrameRec :=
  let x := Config.gcmSeal key (frameNonce salt ctr) (frameAad h) (Config.framePayload (bits h.toNat 127 64) b)
  { hdr := h, body := b, isSealed := true, cipher := x.1, tag := x.2 }

end Sys2Proof.Machine
end

