-- ==== Sys2Proof/Machine/FabSend.lean ====
section
/-! DEFINITION. Sending frames: headers, the choice of a port, sealed links, the injection bucket, credits and the replay
buffer; and the checks of a request at its target (15_onaux_fabric.md R524 to R541; 13_address_translation.md R449 to
R454; 12_memory_system.md R397; 18_bring_up_reset_recovery.md R638). -/

namespace Sys2Proof.Machine

/-! ### Headers (R534) -/

def fhType (h : BitVec 256) : Nat := bits h.toNat 255 252
def fhVc (h : BitVec 256) : Nat := bits h.toNat 251 250
def fhKslot (h : BitVec 256) : Nat := bits h.toNat 249 249
def fhMkey (h : BitVec 256) : Bool := bit h.toNat 248
def fhSrc (h : BitVec 256) : Nat := bits h.toNat 239 224
def fhDst (h : BitVec 256) : Nat := bits h.toNat 223 208
def fhLease (h : BitVec 256) : Nat := bits h.toNat 207 176
def fhCtx (h : BitVec 256) : Nat := bits h.toNat 175 166
def fhTid (h : BitVec 256) : Nat := bits h.toNat 165 150
def fhFpa (h : BitVec 256) : Nat := bits h.toNat 127 64
def fhFctr (h : BitVec 256) : Nat := bits h.toNat 63 32

/-- Payload words a body takes: data in its place within 64-byte words, a management message 8 bytes a value (log entry 72), and one
word for anything else but an acknowledgement. -/
def bodyWords (fpa : Nat) : FrameBody → Nat
  | .write bs => ceilDiv (fpa % 64 + bs.length) 64
  | .readData bs => ceilDiv (fpa % 64 + bs.length) 64
  | .collData _ _ _ _ _ _ bs => ceilDiv bs.length 64
  | .ack => 0
  | .mgmt _ args => min 16 (ceilDiv (8 + 8 * args.length) 64)
  | _ => 1

/-- TYPE and VC of a body (R524, R534). -/
def bodyType : FrameBody → Nat × Nat
  | .read _ => (1, 0)
  | .write _ => (2, 0)
  | .flagAdd _ => (3, 0)
  | .readData _ => (4, 1)
  | .ack => (5, 1)
  | .nack _ => (6, 1)
  | .collReady _ _ _ => (7, 2)
  | .collData _ _ _ _ _ _ _ => (7, 2)
  | .mgmt _ _ => (8, 3)
  | .time _ _ _ => (9, 3)
  | .digest _ _ _ => (10, 3)
  | .keyx _ _ _ => (11, 3)

/-- Whether a body is sealed under the plain management key (R536, R556): TIME, KEYX and DIGEST frames, and MGMT frames, but those that
belong to a lease, which `sendOutbox` makes. -/
def bodyMkey : FrameBody → Bool
  | .mgmt _ _ => true
  | .time _ _ _ => true
  | .digest _ _ _ => true
  | .keyx _ _ _ => true
  | _ => false

/-- A frame without its key slot and counter, not sealed; `mk` says whether it is for the plain management key. -/
def frameUnder (s : State) (mk : Bool) (dst ctx tid fpa : Nat) (b : FrameBody) : FrameRec :=
  let (ty, vc) := bodyType b
  ⟨BitVec.ofNat 256 (ty * 2 ^ 252 + vc * 2 ^ 250 + b2n mk * 2 ^ 248 + bodyWords fpa b * 2 ^ 243 + selfId s * 2 ^ 224
    + dst * 2 ^ 208 + (if mk then 0 else s.lease.id.toNat) * 2 ^ 176 + ctx * 2 ^ 166 + tid * 2 ^ 150 + fpa * 2 ^ 64), b, false, [], 0⟩

/-- A frame under the key its body asks for. -/
def newFrame (s : State) (dst ctx tid fpa : Nat) (b : FrameBody) : FrameRec := frameUnder s (bodyMkey b) dst ctx tid fpa b

/-! ### Ports (R524) -/

/-- One bit and one byte of CRC-32C, reflected. -/
def crcBit (c : Nat) : Nat := if c % 2 = 1 then (c / 2) ^^^ 0x82F63B78 else c / 2
def crcByte (c : Nat) (b : Byte) : Nat := (List.range 8).foldl (fun c _ => crcBit c) (c ^^^ b.toNat)

/-- CRC-32C. -/
def crc32c (bs : List Byte) : Nat := (bs.foldl crcByte 0xFFFFFFFF) ^^^ 0xFFFFFFFF

/-- Ports of an identity record (R521). -/
def idTimeport (s : State) : Nat := bits s.fab.ident.toNat 494 490
def idMirror (s : State) : Bool := bit s.fab.ident.toNat 489
def idPartner (s : State) : Nat := bits s.fab.ident.toNat 488 474
def idXport (s : State) : Nat := bits s.fab.ident.toNat 473 469

/-- UP or UP2, and not in reset, while which it belongs to no port set (R518). -/
def portUp (s : State) (p : Nat) : Bool :=
  let x := (vget s.ports .init p).phase
  (x = .up || x = .up2) && (getUnit s (.port (fin 32 p))).own ≠ .resetting

/-- Whether a port carries DIGEST frames only (R556). -/
def xOnly (s : State) (p : Nat) : Bool := idMirror s && p = idXport s

/-- The destination of a frame to every device of the plain. -/
def everyDst (s : State) : Nat := plainOf s * 2 ^ 15 + 0x7FFF

/-- The port set of a destination: none outside the device's plain. -/
def portSet (s : State) (dst : Nat) : BitVec 32 :=
  if dst / 2 ^ 15 = plainOf s then smapGet 0 s.fab.routes (dst % 2 ^ 15) else 0

def usablePorts (s : State) (dst : Nat) : List Nat :=
  (List.range 32).filter fun p => (portSet s dst).toNat.testBit p && portUp s p && !xOnly s p

/-- What the port choice hashes: the named fields, little-endian. -/
def hashFields (f : FrameRec) : List Byte :=
  let d := leBytes 2 (fhDst f.hdr)
  match f.body with
  | .collData id _ _ chunk _ _ _ => d ++ leBytes 4 id ++ leBytes 4 chunk
  | .collReady id _ _ => d ++ leBytes 4 id ++ leBytes 4 0
  | _ => if fhVc f.hdr = 0 then d ++ leBytes 5 (bits (fhFpa f.hdr) 47 10) else d ++ leBytes 2 (fhTid f.hdr)

/-- The port a frame leaves on. -/
def choosePort (s : State) (f : FrameRec) : Option Nat :=
  match f.body with
  | .digest _ _ _ => if portUp s (idXport s) then some (idXport s) else none
  | b =>
    let us := usablePorts s (fhDst f.hdr)
    match us with
    | [] => none
    | p :: _ =>
      if fhVc f.hdr = 3 then
        match b with
        | .time _ _ _ => if us.contains (idTimeport s) then some (idTimeport s) else some p
        | _ => some p
      else us[crc32c (hashFields f) % us.length]?

/-! ### Sealed links (R537 to R541) -/

def setFab (s : State) (f : FabSt) : State := { s with fab := f }

def getLink (s : State) (peer : Nat) : Option LinkSt := s.fab.links.find? fun l => l.peer = peer

def putLink (s : State) (l : LinkSt) : State :=
  setFab s { s.fab with links := l :: s.fab.links.filter fun x => x.peer ≠ l.peer }

def dropLink (s : State) (peer : Nat) : State :=
  setFab s { s.fab with links := s.fab.links.filter fun x => x.peer ≠ peer }

/-- Generation installed in a slot, and its keys. -/
def linkSlot (l : LinkSt) (k : Nat) : Option Nat := if k = 0 then l.slot0 else l.slot1
def linkKeysOf (l : LinkSt) (k : Nat) : LinkKeys := if k = 0 then l.keys0 else l.keys1

/-- Whether frames may leave on a link: its sending slot is installed and the peer has confirmed it. -/
def linkReady (l : LinkSt) : Bool := (linkSlot l l.sendSlot).isSome && l.confirmed && l.sendCtr < 2 ^ 64 - 1

/-- Holds a frame; `since` counts while no port of its set is usable (R526). -/
def holdFrame (s : State) (since : Nat) (f : FrameRec) : State :=
  setFab s { s.fab with held := s.fab.held ++ [(if (choosePort s f).isNone then some since else none, f)] }

/-- The frames held whose last port has gone are held for 1 ms from now (R526). -/
def noteHeld (s : State) : State :=
  setFab s { s.fab with held := s.fab.held.map fun h => (if (choosePort s h.2).isNone then some (h.1.getD (now s)) else none, h.2) }

/-- Puts a sealed frame on a port: at once with a credit of its channel and a place in the replay buffer, else behind the port's queue
(R514, R525), where it stays once a thermal trip has stopped outbound transfers (R664). -/
def placeFrame (s : State) (p : Nat) (f : FrameRec) : State :=
  let x := vget s.ports .init p
  let vc := fhVc f.hdr
  if !s.rst.tripped && vget x.credits 0 vc > 0 && x.replayBuf.length < 256 && !(x.queue.any fun g => fhVc g.hdr = vc) then
    emit { s with ports := vset s.ports p { x with
      credits := vset x.credits vc (vget x.credits 0 vc - 1), replayBuf := x.replayBuf ++ [f] } } (.frame p f)
  else { s with ports := vset s.ports p { x with queue := x.queue ++ [f] } }

/-- Seals a frame that leaves, with its key slot and counter (R535, R537). -/
def sealFrame (s : State) (f : FrameRec) : State × FrameRec :=
  let h := f.hdr.toNat
  if fhMkey f.hdr then
    (setFab s { s.fab with mkeyCtr := s.fab.mkeyCtr + 1 },
      gcmFrame (mgmtKey s) (Config.mgmtSalt (selfId s)) s.fab.mkeyCtr (BitVec.ofNat 256 (h + s.fab.mkeyCtr % 2 ^ 32 * 2 ^ 32)) f.body)
  else match getLink s (fhDst f.hdr) with
    | none => (s, f)
    | some l =>
      let k := linkKeysOf l l.sendSlot
      (putLink s { l with sendCtr := l.sendCtr + 1 },
        gcmFrame k.sendKey k.sendSalt l.sendCtr (BitVec.ofNat 256 (h + l.sendSlot * 2 ^ 249 + l.sendCtr % 2 ^ 32 * 2 ^ 32)) f.body)

/-- Payload bytes a frame draws from the injection bucket during a lease (R531, R532). -/
def frameTokens (s : State) (f : FrameRec) : Nat :=
  if leaseLive s && fhVc f.hdr ≤ 2 then 64 * bits f.hdr.toNat 247 243 else 0

/-- Sends a frame whose key is in place, or holds it for a port or for tokens. One that is re-sent goes as it was sealed (R518, R524). -/
def routeFrame (s : State) (since : Nat) (f : FrameRec) : State :=
  match choosePort s f with
  | none => holdFrame s since f
  | some p =>
    if f.isSealed then placeFrame s p f else
    let n := frameTokens s f
    if n > 0 && (s.fab.tokens < n || !s.fab.waiting.isEmpty) then setFab s { s.fab with waiting := s.fab.waiting ++ [f] }
    else
      let s := setFab s { s.fab with tokens := s.fab.tokens - n }
      let (s, g) := sealFrame s f
      placeFrame s p g

/-- Begins the set-up of a sealed link: a fresh nonce and a KEYX frame (R537). -/
def beginLink (s : State) (peer : Nat) : State :=
  let (n, s) := drawRandom s
  let nonce := BitVec.ofNat 128 n
  let s := putLink s { peer := peer, gen := 0, slot0 := none, slot1 := none, keys0 := .init, keys1 := .init
                       myNonce := nonce, peerNonce := 0
                       confirmed := false, sendSlot := 0, sendCtr := 0, high0 := 0, seen0 := [], high1 := 0, seen1 := []
                       recvGen := 0, setAt := now s, rekeyAt := none }
  routeFrame s (now s) (newFrame s peer 0 0 0 (.keyx nonce 0 false))

/-- Sends a frame: through the sealed link of its peer, which is set up first where there is none (R536, R537). -/
def pushFrame (s : State) (since : Nat) (f : FrameRec) : State :=
  if fhMkey f.hdr || f.isSealed then routeFrame s since f
  else match getLink s (fhDst f.hdr) with
    | none => holdFrame (beginLink s (fhDst f.hdr)) since f
    | some l => if linkReady l then routeFrame s since f else holdFrame s since f

def sendBody (s : State) (dst ctx tid fpa : Nat) (b : FrameBody) : State := pushFrame s (now s) (newFrame s dst ctx tid fpa b)

/-- Frames and sends the management messages that wait: one of the lease under its sealed link, none once the lease is over (R536,
R613). -/
def sendOutbox (s : State) : State :=
  s.fab.outbox.foldl (fun s m =>
    let (peer, own, kind, args) := m
    if own && !leaseLive s then s else pushFrame s (now s) (frameUnder s (!own) peer 0 0 0 (.mgmt kind args)))
    (setFab s { s.fab with outbox := [] })

/-- Tries the held frames again: a port or a link may have become usable (R526, R537). -/
def flushHeld (s : State) : State :=
  let hs := s.fab.held
  hs.foldl (fun s h => pushFrame s (h.1.getD (now s)) h.2) (setFab s { s.fab with held := [] })

/-- Sends the frames that wait for tokens, oldest first, as far as the tokens go (R531); one whose link has closed meanwhile waits for
a new one (R540). -/
def flushWaiting (s : State) : State :=
  let ws := s.fab.waiting
  ws.foldl (fun s f => pushFrame s (now s) f) (setFab s { s.fab with waiting := [] })

/-- Sends the frames queued on a port as far as its credits go, each channel in order; management first (R525). -/
def flushPort (s : State) (p : Nat) : State :=
  let x := vget s.ports .init p
  let qs := x.queue
  let qs := (qs.filter fun f => fhVc f.hdr = 3) ++ qs.filter fun f => fhVc f.hdr ≠ 3
  qs.foldl (fun s f => placeFrame s p f) { s with ports := vset s.ports p { x with queue := [] } }

/-- Hand-off of a port that leaves UP and UP2, or is reset: its queued and unacknowledged frames are sent on the ports the
rule chooses next, or held (R518, R524). -/
def portHandoff (s : State) (p : Nat) : State :=
  let x := vget s.ports .init p
  let fs := x.replayBuf ++ x.queue
  let ph := x.phase
  let s := { s with ports := vset s.ports p { x with queue := [], replayBuf := [], phase := .training } }
  let s := fs.foldl (fun s f =>
    match choosePort s f with
    | none => holdFrame s (now s) f
    | some q => placeFrame s q f) s
  let s := noteHeld s
  { s with ports := vset s.ports p { vget s.ports .init p with phase := ph } }

/-! ### Requests at their target (R450 to R454, R638) -/

/-- What serving a request gives. -/
inductive Served where
  | wait (s : State)
  | ok (s : State) (bytes : List Byte)
  | err (s : State) (status : Nat)

/-- Whether one valid region holds a range and grants a kind: bit 238 R, 237 W, 236 F (R451, R453). -/
def regionGrants (s : State) (grant a n ctx : Nat) : Bool :=
  s.xl.regions.any fun e =>
    let r := e.2.toNat
    let b := bits r 191 144
    bit r 239 && bit r grant && b ≤ a && a + n ≤ b + bits r 143 96 && (!bit r 235 || bits r 234 225 == ctx)

/-- Whether a unit's domain is fenced or resetting. -/
def unitFenced (s : State) (u : PUnit) : Bool :=
  let b := baseState s u
  b = .fenced || b = .resetting

/-- Whether a range touches a store of a fenced or resetting domain. -/
def rangeFenced (s : State) (a n : Nat) : Bool := (linesOf a n).any fun l => unitFenced s (placeUnit (l * 64))

/-- Checks a request at the target memory (R313, R453, R638): against the regions once, so not when it was admitted before (R454). -/
def checkTarget (s : State) (adm : Bool) (grant a n ctx : Nat) : Option (State × Nat) :=
  if !adm && (!regionGrants s grant a n ctx || kvProtected s a n) then
    some (setFab s { s.fab with refusedCount := s.fab.refusedCount + 1 }, stRefused)
  else if rangeFenced s a n then some (s, stFenced)
  else none

/-- A read of the target memory: provisional data waits for its verdict (R202), and a store that is off for its wake (R51, R650). -/
def serveRead (s : State) (adm : Bool) (a n ctx : Nat) : Served :=
  match checkTarget s adm 238 a n ctx with
  | some x => .err x.1 x.2
  | none =>
    if provBlocks s [⟨a, n⟩] [] then .wait s
    else if rangeOff s a n then .wait (touchRange s a n)
    else
      let t := demand (touchRange s a n) a n
      if anyPoison s a n then .err t stPoisoned else .ok t (readBytes s a n)

/-- A write of the target memory: what a pending chain reads waits (R203). -/
def serveWrite (s : State) (adm : Bool) (a : Nat) (bs : List Byte) (ctx : Nat) : Served :=
  match checkTarget s adm 237 a bs.length ctx with
  | some x => .err x.1 x.2
  | none =>
    if provBlocks s [] [⟨a, bs.length⟩] then .wait s
    else if rangeOff s a bs.length then .wait (touchRange s a bs.length)
    else if channelsLost s [⟨a, bs.length⟩] then .err s stPoisoned
    else .ok (touchRange (writeBytes s a bs) a bs.length) []

/-- A flag addition at the target memory (R298, R453). -/
def serveFlag (s : State) (adm : Bool) (a v ctx : Nat) : Served :=
  if a % 8 ≠ 0 then .err (setFab s { s.fab with refusedCount := s.fab.refusedCount + 1 }) stRefused
  else match checkTarget s adm 236 a 8 ctx with
    | some x => .err x.1 x.2
    | none =>
      if provBlocks s [⟨a, 8⟩] [⟨a, 8⟩] then .wait s
      else if rangeOff s a 8 then .wait (touchAddr s a)
      else
        let t := demand (touchAddr s a) a 8
        if anyPoison s a 8 then .err t stPoisoned
        else .ok (writeNat t a 8 ((readNat s a 8 + v) % 2 ^ 64)) []

/-- Answers a frame on its transaction. -/
def respond (s : State) (f : FrameIn) (b : FrameBody) : State :=
  sendBody s (fhSrc f.hdr) (fhCtx f.hdr) (fhTid f.hdr) (fhFpa f.hdr) b

/-- Cuts a run of the fabric into pieces of at most sixteen 64-byte words each: offset and length (R513, R534). -/
def framePieces (fuel fpa off len : Nat) : List (Nat × Nat) :=
  match fuel with
  | 0 => []
  | f + 1 =>
    if len = 0 then []
    else
      let n := min len (1024 - (fpa + off) % 64)
      (off, n) :: framePieces f fpa (off + n) (len - n)

/-- Sends a request and notes who waits for its answer (R534). -/
def sendRequest (s : State) (o : FabOwner) (ctx fpa len off : Nat) (b : FrameBody) : State :=
  let tid := s.fab.tidNext
  let peer := fpa / 2 ^ 48
  let r : OutReq := ⟨tid, o, (bodyType b).1, peer, fpa, len, off⟩
  let s := setFab s { s.fab with tidNext := (tid + 1) % 2 ^ 16, reqs := s.fab.reqs ++ [r] }
  sendBody s peer ctx tid fpa b

end Sys2Proof.Machine
end

