-- ==== Sys2Proof/Machine/Coll.lean ====
section
/-! DEFINITION. The collective sequencer: descriptors, instances, reduction in rank order, and the ends of instances
(15_onaux_fabric.md R544 to R551). -/

namespace Sys2Proof.Machine

/-! ### The descriptor (R544, R545) -/

def coOp (d : BitVec 512) : Nat := bits d.toNat 511 508
def coAlg (d : BitVec 512) : Nat := bits d.toNat 507 506
def coEtype (d : BitVec 512) : Nat := bits d.toNat 505 502
def coRop (d : BitVec 512) : Nat := bits d.toNat 501 500
def coRoot (d : BitVec 512) : Nat := bits d.toNat 499 492
def coArm (d : BitVec 512) : Bool := bit d.toNat 491
def coSlot (d : BitVec 512) : Nat := bits d.toNat 490 485
def coGroup (d : BitVec 512) : Nat := bits d.toNat 479 448
def coCollid (d : BitVec 512) : Nat := bits d.toNat 447 416
def coCount (d : BitVec 512) : Nat := bits d.toNat 415 384
def coSrc (d : BitVec 512) : Nat := bits d.toNat 383 336
def coDst (d : BitVec 512) : Nat := bits d.toNat 335 288
def coTrig (d : BitVec 512) : Nat := bits d.toNat 287 240
def coTrigInc (d : BitVec 512) : Nat := bits d.toNat 239 208
def coDone (d : BitVec 512) : Nat := bits d.toNat 207 160
def coDoneVal (d : BitVec 512) : Nat := bits d.toNat 159 128

/-- The device of a direct member that is a device unit, as SRC and DST name it. -/
def memberDevice (s : State) (m : Member) : Option Nat :=
  match m with
  | .unit .device => some (selfId s)
  | .remote x => if unitOfUid (x % 2 ^ 32) = some .device then some (x / 2 ^ 48) else none
  | _ => none

/-- Devices of the direct members of the descriptor's group, in rank order; `none` where a member is no device. -/
def collMembers (s : State) (d : BitVec 512) : Option (List Nat) :=
  match groupOfUid (coGroup d) with
  | none => none
  | some g => match groupRec s g with
    | none => none
    | some r => r.members.mapM (memberDevice s)

def collDevs (s : State) (d : BitVec 512) : List Nat := (collMembers s d).getD []

/-- This device's rank. -/
def collRank (s : State) (d : BitVec 512) : Nat := ((collDevs s d).findIdx? (· = selfId s)).getD 0

/-- Bytes of an element. -/
def coEsz (d : BitVec 512) : Nat := if coEtype d = 2 ∨ coEtype d = 3 then 2 else 4

/-- Elements before chunk `c` of `n`: chunk `c` is what lies between those of `c` and of `c + 1`. -/
def chunkAt (d : BitVec 512) (n c : Nat) : Nat := min (coCount d) (c * ceilDiv (coCount d) n)
def chunkBytes (d : BitVec 512) (n c : Nat) : Nat := (chunkAt d n (c + 1) - chunkAt d n c) * coEsz d
def chunkOff (d : BitVec 512) (n c : Nat) : Nat := chunkAt d n c * coEsz d

/-- Bytes of SRC, and of DST on the member of rank `r`. -/
def srcBytes (d : BitVec 512) : Nat := coCount d * coEsz d
def dstBytes (d : BitVec 512) (n r : Nat) : Nat :=
  match coOp d with
  | 2 => chunkBytes d n r
  | 3 => n * srcBytes d
  | _ => srcBytes d

/-- A range in one on-chip store outside the system part, or in the lease HBM. -/
def devRangeOk (a n : Nat) : Bool :=
  match placeOf a with
  | some (.hbm _) => inLeaseHbm a n
  | some (.die _ _) => inDieTenant a n
  | some _ => inStore a n
  | none => false

/-- A flag by its device address: 8-byte aligned, in a cluster store or the tenant part of a die store (R272). -/
def devFlagOk (a : Nat) : Bool :=
  a % 8 = 0 && match placeOf a with
    | some (.cluster _ _) => inStore a 8
    | some (.die _ _) => inDieTenant a 8
    | _ => false

/-- Step 7 of FAB_COLLECTIVE (R544, R545, R549). A DISARM uses ARM and SLOT alone. -/
def checkCollective (s : State) (ps : List (BitVec 512)) : List Nat :=
  let d := ps.headD 0
  let x := d.toNat
  let rsv := rsvBad x [(484, 480), (127, 0)]
  if coOp d = 0 then rsv ++ chk (coArm d) (512 + 491)
  else
    let ms := collMembers s d
    let n := (ms.getD []).length
    let r := collRank s d
    let len := dstBytes d n r
    let overlap := rngOverlap ⟨coSrc d, srcBytes d⟩ ⟨coDst d, len⟩
    rsv ++ chk (coOp d ≤ 4) (512 + 508) ++ chk (coAlg d ≤ 1 && (coAlg d = 1 || n ≤ 64)) (512 + 506)
      ++ chk (1 ≤ coEtype d && coEtype d ≤ 4) (512 + 502) ++ chk (coRop d ≤ 2) (512 + 500)
      ++ chk (if coOp d = 4 then coRoot d < n else coRoot d = 0) (512 + 492)
      ++ chk (coArm d || coSlot d = 0) (512 + 485)
      ++ chk ((ms.getD []).contains (selfId s)) (512 + 448)
      ++ chk (coCount d ≥ 1) (512 + 384)
      ++ chk (devRangeOk (coSrc d) (srcBytes d)) (512 + 336)
      ++ chk (devRangeOk (coDst d) len && (!overlap || (coOp d = 1 && coDst d = coSrc d))) (512 + 288)
      ++ chk (if coArm d then devFlagOk (coTrig d) else coTrig d = 0) (512 + 240)
      ++ chk (!coArm d || coTrigInc d ≠ 0) (512 + 208)
      ++ chk (coDone d = 0 || devFlagOk (coDone d)) (512 + 160)

/-! ### Reduction (R546) -/

/-- One element of two, by ROP. -/
def coCombine (d : BitVec 512) (a b : Nat) : Nat :=
  let env : FEnv := ⟨.rne, false, false⟩
  let f := if coEtype d = 1 then fmt32 else if coEtype d = 2 then fmt16 else fmtB16
  if coEtype d = 4 then
    let x := sext 32 a
    let y := sext 32 b
    match coRop d with
    | 0 => (a + b) % 2 ^ 32
    | 1 => if x < y then b else a
    | _ => if y < x then b else a
  else match coRop d with
    | 0 => (fAdd f env a b).1
    | 1 => (fMinMax f env true a b).1
    | _ => (fMinMax f env false a b).1

/-- Elements of a run of bytes, and back. -/
def bytesElems (w : Nat) (bs : List Byte) : List Nat := (List.range (bs.length / w)).map fun i => fromLe ((bs.drop (w * i)).take w)
def elemsBytes (w : Nat) (xs : List Nat) : List Byte := xs.flatMap (leBytes w)

/-- Two runs combined, element by element. -/
def coJoin (d : BitVec 512) (a b : List Byte) : List Byte :=
  let w := coEsz d
  elemsBytes w (List.zipWith (coCombine d) (bytesElems w a) (bytesElems w b))

/-! ### Instances -/

def setInsts (s : State) (f : List CollInst → List CollInst) : State := setFab s { s.fab with insts := f s.fab.insts }

def isInst (id inst : Nat) (i : CollInst) : Bool := i.collid = id && i.inst = inst

def findInst (s : State) (id inst : Nat) : Option CollInst := s.fab.insts.find? (isInst id inst)

def updInst (s : State) (id inst : Nat) (f : CollInst → CollInst) : State :=
  setInsts s fun l => l.map fun i => if isInst id inst i then f i else i

def dropInst (s : State) (id inst : Nat) : State :=
  let s := setInsts s fun l => l.filter fun i => !isInst id inst i
  setFab s { s.fab with reqs := s.fab.reqs.filter fun r => r.owner ≠ .coll id inst }

/-- Adds to a flag at a device address, and sets its bit 63 where what it signals has failed (R335, R550). -/
def addDevFlag (s : State) (a v : Nat) (failed : Bool) : State :=
  writeNat s a 8 (((readNat s a 8 + v) % 2 ^ 64) ||| (if failed then 2 ^ 63 else 0))

/-- DETAIL of a command whose instance has failed with a status and its cause (R483). -/
def collDetail (st : Nat) : Nat :=
  if st % 256 = stBadParam then badDetail []
  else if st ≥ 256 then st / 256
  else if st = stPoisoned ∨ st = stFenced ∨ st = stTimeout then uidOf .device
  else 0

/-- Ends an instance: DONEVAL added to DONE, with bit 63 set where it failed, and the command it belongs to (R550). -/
def endInst (s : State) (i : CollInst) (st : Nat) : State :=
  let s := if coDone i.desc = 0 then s else addDevFlag s (coDone i.desc) (coDoneVal i.desc) (st ≠ stOk)
  let s := dropInst s i.collid i.inst
  match i.cmd with
  | some c => finishCmd s c (st % 256) (collDetail st)
  | none => s

/-- Fails an instance with one fault record (R547, R550). -/
def failInst (s : State) (i : CollInst) (cls st : Nat) : State :=
  endInst (faultUnit s .device cls (if cls = 0x000C then st % 256 else 0) (uidOf .device) 0 i.collid) i st

/-- Fails every instance (R631). -/
def failCollectives (s : State) (st : Nat) : State := s.fab.insts.foldl (fun s i => failInst s i 0x000C st) s

/-- Cuts bytes into frame payloads of at most 1024 bytes: offset and bytes. -/
def collPieces (fuel off : Nat) (bs : List Byte) : List (Nat × List Byte) :=
  match fuel with
  | 0 => []
  | f + 1 => if bs.isEmpty then [] else (off, bs.take 1024) :: collPieces f (off + 1024) (bs.drop 1024)

/-- Frames of a run of data for a rank. -/
def dataFor (i : CollInst) (to_ : Nat) (gather : Bool) (chunk rank : Nat) (bs : List Byte) : List (Nat × FrameBody) :=
  (collPieces (bs.length / 1024 + 1) 0 bs).map fun p => (to_, .collData i.collid i.inst gather chunk rank p.1 p.2)

/-- Writes bytes of DST. -/
def writeCollDst (s : State) (i : CollInst) (off : Nat) (bs : List Byte) : State :=
  updInst (writeBytes s (coDst i.desc + off) bs) i.collid i.inst fun i => { i with due := i.due - bs.length }

/-- Where gathered data of a chunk goes in DST. -/
def gatherOff (d : BitVec 512) (n chunk : Nat) : Nat :=
  match coOp d with
  | 1 => chunkOff d n chunk
  | 3 => chunk * srcBytes d
  | _ => 0

/-- The ranks that gathered data is sent on to: every other rank, or the next of the ring until it would reach where it
came from. -/
def gatherTo (d : BitVec 512) (n r origin : Nat) : List Nat :=
  if coAlg d = 0 then (if r = origin then (List.range n).filter (· ≠ r) else [])
  else
    let nx := (r + 1) % n
    if nx = origin then [] else [nx]

def pushOut (s : State) (i : CollInst) (xs : List (Nat × FrameBody)) : State :=
  updInst s i.collid i.inst fun i => { i with out := i.out ++ xs }

/-- The failure of a write to a lost channel, with the channel as its cause (R413). -/
def lostStatus (a : Nat) : Nat := withCause stPoisoned (uidOf (placeUnit a))

/-- The reduced chunk of this member: written, and under ALLREDUCE sent to the others. -/
def reducedChunk (s : State) (i : CollInst) (n r : Nat) (bs : List Byte) : State :=
  let off := if coOp i.desc = 1 then chunkOff i.desc n r else 0
  if channelsLost s [⟨coDst i.desc + off, bs.length⟩] then failInst s i 0x000C (lostStatus (coDst i.desc + off))
  else
  let s := writeCollDst s i off bs
  if coOp i.desc = 1 then pushOut s i ((gatherTo i.desc n r r).flatMap fun q => dataFor i q true r r bs) else s

/-- The bytes of a contribution that is complete. -/
def contribution (i : CollInst) (n chunk rank : Nat) : Option (List Byte) :=
  let xs := (i.got.filter fun g => g.1 = chunk && g.2.1 = rank).map fun g => (g.2.2.1, g.2.2.2)
  let len := (xs.map fun x => x.2.length).foldl (· + ·) 0
  if len = chunkBytes i.desc n chunk then
    some ((xs.mergeSort fun a b => a.1 ≤ b.1).flatMap (·.2))
  else none

/-- Own bytes of a chunk. -/
def ownChunk (i : CollInst) (n c : Nat) : List Byte := (i.src.drop (chunkOff i.desc n c)).take (chunkBytes i.desc n c)

/-- DIRECT: reduces this member's chunk once every rank has contributed, in rank order. -/
def reduceDirect (s : State) (i : CollInst) (n r : Nat) : State :=
  match (List.range n).mapM fun q => if q = r then some (ownChunk i n r) else contribution i n r q with
  | some (x :: xs) => reducedChunk (updInst s i.collid i.inst fun i => { i with got := [] }) i n r
      (xs.foldl (coJoin i.desc) x)
  | _ => s

/-- RING: a partial sum that has arrived whole goes on with this member's part, or is the result here. -/
def reduceRing (s : State) (i : CollInst) (n r chunk : Nat) : State :=
  match contribution i n chunk ((r + n - 1) % n) with
  | none => s
  | some p =>
    let s := updInst s i.collid i.inst fun i => { i with got := i.got.filter fun g => g.1 ≠ chunk }
    let bs := coJoin i.desc p (ownChunk i n chunk)
    if chunk = r then reducedChunk s i n r bs else pushOut s i (dataFor i ((r + 1) % n) false chunk r bs)

/-- The hash of the fields that members must agree in (R547); the manual does not name the function. -/
def collHash (s : State) (d : BitVec 512) : Nat :=
  crc32c (leBytes 12 (coOp d + coAlg d * 2 ^ 4 + coEtype d * 2 ^ 6 + coRop d * 2 ^ 10 + coRoot d * 2 ^ 12
    + coCollid d * 2 ^ 20 + coCount d * 2 ^ 52) ++ (collDevs s d).flatMap (leBytes 2))

/-- Begins an instance: ready messages, SRC, and the data that needs nobody else's (R545 to R548); none of DST may lie on a lost
channel (R413). -/
def beginInst (s : State) (i : CollInst) : State :=
  let d := i.desc
  let ms := collDevs s d
  let n := ms.length
  let r := collRank s d
  if kvProtected s (coSrc d) (srcBytes d) || kvProtected s (coDst d) (dstBytes d n r) then failInst s i 0x000C stRefused
  else if anyPoison s (coSrc d) (srcBytes d) || channelsLost s [⟨coDst d, dstBytes d n r⟩] then
    let u := match firstPoison s (coSrc d) (srcBytes d) with | some l => placeUnit (l * 64) | none => .device
    failInst (demand s (coSrc d) (srcBytes d)) i 0x000C (withCause stPoisoned (uidOf u))
  else
    let s := demand s (coSrc d) (srcBytes d)
    let h := collHash s d
    let early := s.fab.earlyReady.filter fun e => e.1 = i.collid && e.2.1 = i.inst
    let s := setFab s { s.fab with earlyReady := s.fab.earlyReady.filter fun e => !(e.1 = i.collid && e.2.1 = i.inst) }
    if early.any fun e => e.2.2.2 ≠ h then failInst s i 0x000B stBadParam
    else
      let peers := (List.range n).filter (· ≠ r)
      let i := { i with begun := true, src := readBytes s (coSrc d) (srcBytes d), due := dstBytes d n r
                        ready := early.filterMap fun e => ms.findIdx? (· = e.2.2.1)
                        acksOut := peers.length }
      let s := updInst s i.collid i.inst fun _ => i
      let s := peers.foldl (fun s q => sendRequest s (.coll i.collid i.inst) 0 (ms.getD q 0 * 2 ^ 48) 0 0
        (.collReady i.collid i.inst h)) s
      match coOp d with
      | 3 =>
        let s := writeCollDst s i (r * srcBytes d) i.src
        pushOut s i ((gatherTo d n r r).flatMap fun q => dataFor i q true r r i.src)
      | 4 =>
        if r = coRoot d then
          pushOut (writeCollDst s i 0 i.src) i ((gatherTo d n r r).flatMap fun q => dataFor i q true 0 r i.src)
        else s
      | _ =>
        if n = 1 then reducedChunk s i 1 0 (ownChunk i 1 0)
        else if coAlg d = 0 then
          reduceDirect (pushOut s i (peers.flatMap fun q => dataFor i q false q r (ownChunk i n q))) i n r
        else
          let c := (r + n - 1) % n
          pushOut s i (dataFor i ((r + 1) % n) false c r (ownChunk i n c))

/-- Sends what the receivers are ready for, contributions before gathered data. -/
def sendReady (s : State) (i : CollInst) : State :=
  let ms := collDevs s i.desc
  let go := i.out.filter fun o => o.1 ∈ i.ready
  let isG := fun (o : Nat × FrameBody) => match o.2 with | .collData _ _ g _ _ _ _ => g | _ => false
  let s := updInst s i.collid i.inst fun i => { i with out := i.out.filter fun o => o.1 ∉ i.ready, acksOut := i.acksOut + go.length }
  ((go.filter fun o => !isG o) ++ go.filter isG).foldl (fun s o =>
    sendRequest s (.coll i.collid i.inst) 0 (ms.getD o.1 0 * 2 ^ 48) 0 0 o.2) s

/-- Whether an instance may begin: fewer than four run, those before it of its COLLID have ended, and SRC and DST are
under no open verdict (R201, R203, R548, R551). -/
def mayBegin (s : State) (i : CollInst) : Bool :=
  let n := (collDevs s i.desc).length
  !i.begun && (s.fab.insts.filter (·.begun)).length < 4
    && !(s.fab.insts.any fun j => j.collid = i.collid && j.inst < i.inst)
    && !provBlocks s [⟨coSrc i.desc, srcBytes i.desc⟩] [⟨coDst i.desc, dstBytes i.desc n (collRank s i.desc)⟩]

/-- What an instance reads and writes here. -/
def collRngs (s : State) (i : CollInst) : List Rng :=
  [⟨coSrc i.desc, srcBytes i.desc⟩, ⟨coDst i.desc, dstBytes i.desc (collDevs s i.desc).length (collRank s i.desc)⟩]

/-- Begins an instance, or wakes the domains of its SRC and DST first (R51, R650). -/
def tryBegin (s : State) (i : CollInst) : State :=
  if (collRngs s i).any fun r => (linesOf r.lo r.len).any fun l => domainOff s (l * 64) then
    (collRngs s i).foldl (fun s r => touchRange s r.lo r.len) s
  else beginInst s i

/-- Lets the instances go on as far as they can. -/
def collPump (s : State) : State :=
  let ids := s.fab.insts.map fun i => (i.collid, i.inst)
  let s := ids.foldl (fun s k => match findInst s k.1 k.2 with
    | some i => if mayBegin s i then tryBegin s i else s
    | none => s) s
  ids.foldl (fun s k => match findInst s k.1 k.2 with | some i => if i.begun then sendReady s i else s | none => s) s

/-- Starts an instance of a descriptor; each COLLID counts its own (R547). -/
def startInst (s : State) (d : BitVec 512) (cmd slot : Option Nat) : State :=
  let k := smapGet 0 s.fab.instCount (coCollid d)
  let s := setFab s { s.fab with instCount := smapSet 0 s.fab.instCount (coCollid d) (k + 1) }
  collPump (setInsts s fun l => l ++ [{ collid := coCollid d, inst := k, desc := d, cmd := cmd, slot := slot, begun := false
                                        ready := [], src := [], got := [], out := [], due := 0, acksOut := 0 }])

/-! ### Messages of peers (R547, R550) -/

/-- Which way a collective frame is answered: it waits, it is dropped, or its status. -/
inductive CollAns where
  | wait
  | drop (s : State)
  | ans (s : State) (st : Nat)

/-- A ready message of a peer. -/
def takeReady (s : State) (src id inst h : Nat) : CollAns :=
  match findInst s id inst with
  | none => .ans (setFab s { s.fab with earlyReady := s.fab.earlyReady ++ [(id, inst, src, h)] }) stOk
  | some i =>
    if !i.begun then .ans (setFab s { s.fab with earlyReady := s.fab.earlyReady ++ [(id, inst, src, h)] }) stOk
    else if h ≠ collHash s i.desc then .ans (failInst s i 0x000B stBadParam) stOk
    else match (collDevs s i.desc).findIdx? (· = src) with
      | none => .drop s
      | some q => .ans (collPump (updInst s id inst fun i => { i with ready := i.ready ++ [q] })) stOk

/-- Data of a peer: a contribution is reduced when it is whole; gathered data is written after the region check (R453,
R548) and goes on round a ring. -/
def takeData (s : State) (adm : Bool) (id inst : Nat) (gather : Bool) (chunk rank off : Nat) (bs : List Byte) : CollAns :=
  match findInst s id inst with
  | none => .drop s
  | some i =>
    let n := (collDevs s i.desc).length
    let r := collRank s i.desc
    if !i.begun then .drop s
    else if !gather then
      let s := updInst s id inst fun i => { i with got := i.got ++ [(chunk, rank, off, bs)] }
      match findInst s id inst with
      | none => .drop s
      | some i => .ans (collPump (if coAlg i.desc = 0 then reduceDirect s i n r else reduceRing s i n r chunk)) stOk
    else
      let o := gatherOff i.desc n chunk + off
      match checkTarget s adm 237 (coDst i.desc + o) bs.length 0 with
      | some x => .ans x.1 x.2
      | none =>
        if provBlocks s [] [⟨coDst i.desc + o, bs.length⟩] then .wait
        else if channelsLost s [⟨coDst i.desc + o, bs.length⟩] then
          .ans (failInst s i 0x000C (lostStatus (coDst i.desc + o))) stPoisoned
        else
          let s := writeCollDst s i o bs
          let origin := if coOp i.desc = 4 then coRoot i.desc else chunk
          let xs := (gatherTo i.desc n r origin).map fun q => (q, FrameBody.collData id inst true chunk r off bs)
          .ans (collPump (if coAlg i.desc = 1 then pushOut s i xs else s)) stOk

/-- An acknowledgement, or a refusal, of a frame of an instance. -/
def collAnswer (s : State) (id inst st : Nat) : State :=
  match findInst s id inst with
  | none => s
  | some i =>
    if st = stOk then updInst s id inst fun i => { i with acksOut := i.acksOut - 1 } else failInst s i 0x000C st

/-! ### Commands and events -/

/-- Whether every earlier command of a command's SQ that carries ORDER has finished (R548). -/
def earlierOrdered (s : State) (c : CmdRec) : Bool :=
  match c.origin with
  | .qp _ => s.cmd.inflight.all fun e =>
      e.id ≥ c.id || e.origin ≠ c.origin || !hOrder e.hdr || e.phase = .finished || e.phase = .refused
  | _ => true

/-- Runs one of the three commands of the FAB_COLLECTIVE opcode: `pick` holds of the descriptors it is for. -/
def fabCollCmd (pick : BitVec 512 → Bool) (ready : State → CmdRec → Bool) (act : State → CmdRec → BitVec 512 → State)
    (id : Nat) (s : State) : Res :=
  match waiting s id 0x0602 with
  | none => .next s
  | some k =>
    if !pick (k.params.headD 0) || !ready s k then .next s
    else runCmd s id 0x0602 fun s c _ =>
      let bad := checkCollective s c.params
      if bad.isEmpty then act s c (c.params.headD 0) else finishCmd s id stBadParam (badDetail [])

/-- FAB_COLLECTIVE of a descriptor that is not armed (R545, R548, R550). -/
def execFabCollective (id : Nat) (s : State) : Res :=
  fabCollCmd (fun d => !coArm d) earlierOrdered (fun s c d => startInst s d (some c.id) none) id s

/-- FAB_COLLECTIVE with ARM: it completes as soon as its slot is stored (R549). -/
def execCollectiveArm (id : Nat) (s : State) : Res :=
  fabCollCmd (fun d => coArm d && coOp d != 0) (fun _ _ => true) (fun s c d =>
    finishCmd (setFab s { s.fab with slots := smapSet none s.fab.slots (coSlot d) (some (d, 0)) }) c.id stOk 0) id s

/-- FAB_COLLECTIVE with DISARM and ARM: it clears the slot after an instance already fired has ended (R549). -/
def execCollectiveDisarm (id : Nat) (s : State) : Res :=
  fabCollCmd (fun d => coArm d && coOp d == 0)
    (fun s c => !(s.fab.insts.any fun i => i.slot = some (coSlot (c.params.headD 0)))) (fun s c d =>
    finishCmd (setFab s { s.fab with slots := smapSet none s.fab.slots (coSlot d) none }) c.id stOk 0) id s

/-- COLLECTIVE_TRIGGER (R549): the flag, as u64, has reached the next multiple of TRIGINC. -/
def execCollectiveTrigger (slot : Fin 64) (s : State) : Res :=
  match smapGet none s.fab.slots slot with
  | none => .next s
  | some (d, f) =>
    if frozen s || provBlocks s [⟨coTrig d, 8⟩] [] || anyPoison s (coTrig d) 8
        || readNat s (coTrig d) 8 < (f + 1) * coTrigInc d then .next s
    else
      let s := setFab s { s.fab with slots := smapSet none s.fab.slots slot (some (d, f + 1)) }
      .next (startInst s d none (some slot.val))

/-- COLLECTIVE_INSTANCE_END (R550): every DST byte is written and every frame sent is acknowledged. -/
def execCollectiveInstanceEnd (collid inst : Nat) (s : State) : Res :=
  if frozen s then .next s
  else
    let s := collPump s
    match findInst s collid inst with
    | none => .next s
    | some i =>
      if i.begun && i.due = 0 && i.acksOut = 0 && i.out.isEmpty then .next (collPump (endInst s i stOk)) else .next s

end Sys2Proof.Machine
end

