-- ==== Sys2Proof/Machine/CoreScalar.lean ====
section
/-! DEFINITION. Scalar instructions: integer arithmetic, predicates, loads and stores, control flow, fences, flags and
control registers (08_core_programming.md R245 to R256, R272 to R275; 09_memory_model.md R295 to R299). -/

namespace Sys2Proof.Machine

/-! ### Integer arithmetic (R249, R251) -/

/-- Fields of ADD to SRA and CMP: RS2 or IMM, by I. -/
def aluUse (rd : Nat) (ctl : Nat) (w : CoreWord) : FieldUse :=
  if ctlBit w 0 then ⟨rd, 31, 0, 0, ctl, immAll⟩ else ⟨rd, 31, 31, 0, ctl, 0⟩

/-- Operand b: IMM where I is 1, else x[RS2]. -/
def operandB (x : CoreSt) (w : CoreWord) : BitVec 64 := if ctlBit w 0 then w.imm else xr x w.rs2

/-- An integer operation x[RD] = x[RS1] op b. -/
def alu (opc : Nat) (f : BitVec 64 → BitVec 64 → BitVec 64) (c : Fin 192) (w : CoreWord) (s : State) : Res :=
  issue opc 2 (aluUse 31 1 w) true c w s fun x =>
    .done (modCore s c fun x' => setX x' w.rd (f (xr x w.rs1) (operandB x w)))

/-- The high 64 bits of the unsigned product. -/
def mulhu (a b : BitVec 64) : BitVec 64 := BitVec.ofNat 64 (a.toNat * b.toNat / 2 ^ 64)

/-- Shifts by b[5:0]. -/
def shiftL (a b : BitVec 64) : BitVec 64 := a <<< (b.toNat % 64)
def shiftR (a b : BitVec 64) : BitVec 64 := a >>> (b.toNat % 64)
def shiftRa (a b : BitVec 64) : BitVec 64 := a.sshiftRight (b.toNat % 64)

/-- ADD (R249, R251). -/
def execAdd (c : Fin 192) (w : CoreWord) (s : State) : Res := alu 0x01 (· + ·) c w s
/-- SUB (R249, R251). -/
def execSub (c : Fin 192) (w : CoreWord) (s : State) : Res := alu 0x02 (· - ·) c w s
/-- MUL (R249, R251). -/
def execMul (c : Fin 192) (w : CoreWord) (s : State) : Res := alu 0x03 (· * ·) c w s
/-- MULHU (R249). -/
def execMulhu (c : Fin 192) (w : CoreWord) (s : State) : Res := alu 0x04 mulhu c w s
/-- AND (R249). -/
def execAnd (c : Fin 192) (w : CoreWord) (s : State) : Res := alu 0x05 (· &&& ·) c w s
/-- OR (R249). -/
def execOr (c : Fin 192) (w : CoreWord) (s : State) : Res := alu 0x06 (· ||| ·) c w s
/-- XOR (R249). -/
def execXor (c : Fin 192) (w : CoreWord) (s : State) : Res := alu 0x07 (· ^^^ ·) c w s
/-- SHL (R249). -/
def execShl (c : Fin 192) (w : CoreWord) (s : State) : Res := alu 0x08 shiftL c w s
/-- SHR (R249). -/
def execShr (c : Fin 192) (w : CoreWord) (s : State) : Res := alu 0x09 shiftR c w s
/-- SRA (R249). -/
def execSra (c : Fin 192) (w : CoreWord) (s : State) : Res := alu 0x0A shiftRa c w s

/-! ### Predicates -/

/-- The relation of CMP's COND. -/
def intCond (cond : Nat) (a b : BitVec 64) : Bool :=
  match cond with
  | 0 => a == b
  | 1 => a != b
  | 2 => a.slt b
  | 3 => !a.slt b
  | 4 => a.ult b
  | _ => !a.ult b

/-- CMP (R249). -/
def execCmp (c : Fin 192) (w : CoreWord) (s : State) : Res :=
  issue 0x10 2 (aluUse 7 0xF w) (ctlBits w 3 1 ≤ 5) c w s fun x =>
    .done (modCore s c fun x' => setP x' (predField w.rd) (intCond (ctlBits w 3 1) (xr x w.rs1) (operandB x w)))

/-- PLOG (R249): the bit of CTL[3:0] that 2a + b selects. -/
def execPlog (c : Fin 192) (w : CoreWord) (s : State) : Res :=
  issue 0x11 2 ⟨7, 7, 7, 0, 0xF, 0⟩ true c w s fun x =>
    .done (modCore s c fun x' => setP x' (predField w.rd)
      (ctlBit w (2 * b2n (pr x (predField w.rs1)) + b2n (pr x (predField w.rs2)))))

/-! ### Loads and stores (R254) -/

/-- Access size of LD and ST. -/
def accessSize (w : CoreWord) : Nat := 2 ^ ctlBits w 1 0

/-- The value LD writes: sign-extended where CTL[2] is 1. -/
def loadValue (signed : Bool) (n v : Nat) : BitVec 64 :=
  if signed then BitVec.ofInt 64 (sext (8 * n) v) else BitVec.ofNat 64 v

/-- LD (R249, R254, R288, R297). -/
def execLd (c : Fin 192) (w : CoreWord) (s : State) : Res :=
  issue 0x14 2 ⟨31, 31, 0, 0, 7, immAll⟩ true c w s fun x =>
    let n := accessSize w
    match accessAt c (eaOf x w) n with
    | none => .stop 2 (eaOf x w)
    | some p =>
      if blocked s c [⟨p, n⟩] [] then .wait
      else if anyPoison s p n then .poisoned (demand s p n) (eaOf x w)
      else .done (modCore (demand s p n) c fun x' => setX x' w.rd (loadValue (ctlBit w 2) n (readNat s p n)))

/-- ST (R249, R254, R297). -/
def execSt (c : Fin 192) (w : CoreWord) (s : State) : Res :=
  issue 0x15 2 ⟨0, 31, 31, 0, 3, immAll⟩ true c w s fun x =>
    let n := accessSize w
    match accessAt c (eaOf x w) n with
    | none => .stop 2 (eaOf x w)
    | some p =>
      if blocked s c [] [⟨p, n⟩] then .wait
      else .done (writeNat s p n (xr x w.rs2).toNat)

/-! ### Control flow -/

/-- BR (R249). -/
def execBr (c : Fin 192) (w : CoreWord) (s : State) : Res :=
  issue 0x18 2 ⟨0, 0, 0, 0, 0, immAll⟩ true c w s fun x => .jump s (x.pc + w.imm)

/-- BRL (R249). -/
def execBrl (c : Fin 192) (w : CoreWord) (s : State) : Res :=
  issue 0x19 2 ⟨31, 0, 0, 0, 0, immAll⟩ true c w s fun x =>
    .jump (modCore s c fun x' => setX x' w.rd (x.pc + 16)) (x.pc + w.imm)

/-- JR (R249). -/
def execJr (c : Fin 192) (w : CoreWord) (s : State) : Res :=
  issue 0x1A 2 ⟨0, 31, 0, 0, 0, immAll⟩ true c w s fun x => .jump s (xr x w.rs1 + w.imm)

/-- HALT (R245, R284): once every earlier instruction, DMA entry, verdict and replay has completed. -/
def execHalt (c : Fin 192) (w : CoreWord) (s : State) : Res :=
  issue 0x1B 2 ⟨0, 0, 0, 0, 0, 0⟩ true c w s fun x =>
    if !coreQuiet x then .wait
    else .ended (endCore (retire s c 2 0x1B (pcOffset x)) c ((dmaUnreported x).getD stOk))

/-- FENCE (R272): the matrix queue, a replay in progress included, the vector queue, DMA entries and provisional ranges. -/
def execFence (c : Fin 192) (w : CoreWord) (s : State) : Res :=
  issue 0x1C 2 ⟨0, 0, 0, 0, 0xF, 0⟩ true c w s fun x =>
    if ctlBit w 2 && !(ownEnts x).all entEnded then .wait
    else if ctlBit w 0 && (!x.matQ.isEmpty || (x.pend.isSome && x.verdict ≠ .open)) then .wait
    else if ctlBit w 1 && !x.vecQ.isEmpty then .wait
    else if ctlBit w 3 && (x.pend.isSome || x.cont.isSome) then .wait
    else .done s

/-! ### Flags (R272 to R275, R202) -/

/-- Whether an entry may still write the core's stores: its destination, or the flag it adds to, is local or a fabric address of
this device (R273, R301). -/
def entWritesLocal (s : State) (e : DmaEnt) : Bool :=
  let here := fun (f : Option Nat) => match f with | some f => f / 2 ^ 48 == selfId s | none => true
  !entEnded e && (dDsp e.desc == 0 || (dDsp e.desc == 3 && here e.dstFpa)
    || (dFlagen e.desc && (dFlagaddr e.desc / 2 ^ 52 == 0 || here e.flagFpa)))

/-- Whether earlier writes and verdicts still hold back a release (R202, R273). -/
def releaseHeld (s : State) (x : CoreSt) : Bool :=
  (x.matQ ++ x.vecQ).any (fun q => !(q.writes.all isAcc)) || (ownEnts x).any (entWritesLocal s) || x.pend.isSome || x.cont.isSome

/-- Why a flag instruction stops whose address is no flag's: an address fault outside the core's stores or where it is not
aligned (R254), an invalid instruction elsewhere. -/
def flagReason (c : Fin 192) (a : Nat) : Nat := if a % 8 ≠ 0 || (coreRange c a 8).isNone then 2 else 1

/-- FLSET (R249, R273). -/
def execFlset (c : Fin 192) (w : CoreWord) (s : State) : Res :=
  issue 0x20 2 ⟨0, 31, 31, 0, 0, immAll⟩ true c w s fun x =>
    match flagAt c (eaOf x w) with
    | none => .stop (flagReason c (eaOf x w)) (eaOf x w)
    | some p =>
      if releaseHeld s x || blocked s c [] [⟨p, 8⟩] then .wait
      else .done (traceCore (writeNat s p 8 (xr x w.rs2).toNat) c 2 7 (eaOf x w % 2 ^ 48))

/-- The relation of FLWAIT and FLAG_WAIT (R274). -/
def flagCond (cond v b : Nat) : Bool :=
  match cond with
  | 0 => v == b
  | 1 => v != b
  | 2 => decide (v ≥ b)
  | _ => decide (v < b)

/-- FLWAIT where its comparison holds: 0 into x[RD] (R274, R295). -/
def execFlwait (c : Fin 192) (w : CoreWord) (s : State) : Res :=
  issue 0x21 2 ⟨31, 31, 31, 31, 3, immAll⟩ true c w s fun x =>
    match flagAt c (eaOf x w) with
    | none => .stop (flagReason c (eaOf x w)) (eaOf x w)
    | some p =>
      if blocked s c [⟨p, 8⟩] [] then .wait
      else if anyPoison s p 8 then .poisoned (demand s p 8) (eaOf x w)
      else if flagCond (ctlBits w 1 0) (readNat s p 8) (xr x w.rs2).toNat then
        .done (traceCore (modCore (demand s p 8) c fun x' => setX x' w.rd 0) c 2 7 (2 * 2 ^ 60 + eaOf x w % 2 ^ 48))
      else .wait

/-- FLWAIT that times out: the timebase has reached x[RS3], not 0, and the comparison does not hold; 1 into x[RD] (R274,
R296). -/
def execFlwaitTimeout (c : Fin 192) (w : CoreWord) (s : State) : Res :=
  issue 0x21 2 ⟨31, 31, 31, 31, 3, immAll⟩ true c w s fun x =>
    match flagAt c (eaOf x w) with
    | none => .stop (flagReason c (eaOf x w)) (eaOf x w)
    | some p =>
      if blocked s c [⟨p, 8⟩] [] then .wait
      else if anyPoison s p 8 then .poisoned (demand s p 8) (eaOf x w)
      else if flagCond (ctlBits w 1 0) (readNat s p 8) (xr x w.rs2).toNat then .wait
      else if xr x w.rs3 ≠ 0 ∧ now s ≥ (xr x w.rs3).toNat then
        .done (traceCore (modCore (demand s p 8) c fun x' => setX x' w.rd 1) c 2 7 (3 * 2 ^ 60 + eaOf x w % 2 ^ 48))
      else .wait

/-- FLADD (R249, R273, R275): atomic, with release and acquire. -/
def execFladd (c : Fin 192) (w : CoreWord) (s : State) : Res :=
  issue 0x22 2 ⟨31, 31, 31, 0, 0, immAll⟩ true c w s fun x =>
    match flagAt c (eaOf x w) with
    | none => .stop (flagReason c (eaOf x w)) (eaOf x w)
    | some p =>
      if releaseHeld s x || blocked s c [⟨p, 8⟩] [⟨p, 8⟩] then .wait
      else if anyPoison s p 8 then .poisoned (demand s p 8) (eaOf x w)
      else
        let old := readNat s p 8
        let t := writeNat (demand s p 8) p 8 (BitVec.ofNat 64 old + xr x w.rs2).toNat
        .done (traceCore (modCore t c fun x' => setX x' w.rd (BitVec.ofNat 64 old)) c 2 7 (1 * 2 ^ 60 + eaOf x w % 2 ^ 48))

/-! ### Control registers (R255) -/

/-- The CSR numbers that are not reserved. -/
def csrKnown (n : Nat) : Bool := n == 0x000 || n == 0x001 || n == 0x010 || n == 0x011 || n == 0x020 || n == 0x021

/-- The value of a CSR. -/
def csrRead (s : State) (c : Fin 192) (n : Nat) : Nat :=
  let x := getCore s c
  match n with
  | 0x000 => x.fcsrS.toNat
  | 0x001 => x.fcsrV.toNat
  | 0x010 => now s
  | 0x011 => s.pace.record.toNat
  | 0x020 => uidOf (.core c)
  | _ => (x.dma.filter fun e => !entEnded e).length

/-- A CSR modified in mode 1 to 3; RO registers ignore it. -/
def csrWrite (x : CoreSt) (n v mode : Nat) : CoreSt :=
  match n with
  | 0x000 => { x with fcsrS := fcsrWrite x.fcsrS v mode }
  | 0x001 => { x with fcsrV := fcsrWrite x.fcsrV v mode }
  | _ => x

/-- Whether FCSR of the vector engine waits for earlier instructions that read its rounding mode or raise its flags (R112,
R286), a pending chain and its continuation among them, which a replay may run again (R207). -/
def vecFcsrHeld (x : CoreSt) : Bool :=
  !x.vecQ.isEmpty || (x.matQ.any fun q => q.opc == 0x41 || q.opc == 0x42) || x.pend.isSome || x.cont.isSome

/-- The CSR instruction of one mode: a word of another mode is not this command's. -/
def csr (mode : Nat) (c : Fin 192) (w : CoreWord) (s : State) : Res :=
  if ctlBits w 13 12 ≠ mode then .next s
  else
    issue 0x24 2 ⟨31, if mode = 0 then 0 else 31, 0, 0, 0x3FFF, 0⟩ (csrKnown (ctlBits w 11 0)) c w s fun x =>
      let n := ctlBits w 11 0
      if n = 1 && vecFcsrHeld x then .wait
      else .done (modCore s c fun x' =>
        let x' := if mode = 0 then x' else csrWrite x' n (xr x w.rs1).toNat mode
        setX x' w.rd (BitVec.ofNat 64 (csrRead s c n)))

/-- CSR in mode 0 (R255). -/
def execCsrRead (c : Fin 192) (w : CoreWord) (s : State) : Res := csr 0 c w s
/-- CSR in mode 1 (R255). -/
def execCsrWrite (c : Fin 192) (w : CoreWord) (s : State) : Res := csr 1 c w s
/-- CSR in mode 2 (R255). -/
def execCsrSet (c : Fin 192) (w : CoreWord) (s : State) : Res := csr 2 c w s
/-- CSR in mode 3 (R255). -/
def execCsrClear (c : Fin 192) (w : CoreWord) (s : State) : Res := csr 3 c w s

end Sys2Proof.Machine
end

