-- ==== Sys2Proof/Machine/Dma.lean ====
section
/-! DEFINITION. DMA: descriptors and their checks, queue entries, translations, transfers and their ends
(08_core_programming.md R276 to R284; 09_memory_model.md R298, R301, R302; 13_address_translation.md R429 to R448;
06_guarded_narrow_arithmetic.md R201 to R203). -/

namespace Sys2Proof.Machine

/-! ### Descriptors (R276 to R278) -/

def dHost (d : BitVec 512) : Bool := dSsp d == 2 || dDsp d == 2
def dFabric (d : BitVec 512) : Bool := dSsp d == 3 || dDsp d == 3

def dSrcSpan (d : BitVec 512) : Int × Int := dSpan (dSrcRun d) (dRuns d).1 (dRuns d).2 (dLen0 d)
def dDstSpan (d : BitVec 512) : Int × Int := dSpan (dDstRun d) (dRuns d).1 (dRuns d).2 (dLen0 d)

/-- The bounding range of the host side, and of the fabric side. -/
def hostSpan (d : BitVec 512) : Int × Int := if dSsp d = 2 then dSrcSpan d else dDstSpan d
def fabSpan (d : BitVec 512) : Int × Int := if dSsp d = 3 then dSrcSpan d else dDstSpan d

/-- Whether a side's bytes lie where its space allows, each run of a local side in one window; a fabric map address has no reserved
bit set (R278, R401, R443). Where a fabric side's runs lead is a matter of its submission (R447). -/
def sideOk (c : Fin 192) (sp a : Nat) (f : Nat → Nat → Int) (d : BitVec 512) : Bool :=
  let x := dSpan f (dRuns d).1 (dRuns d).2 (dLen0 d)
  let inMap := decide (0 ≤ x.1) && decide (x.2 ≤ (2 ^ 64 : Nat))
  match sp with
  | 0 => inMap && ((coreRange c x.1.toNat (x.2 - x.1).toNat).isSome
      || (runStarts d f).all fun r => (coreRange c r.toNat (dLen0 d)).isSome)
  | 1 => inMap && inLeaseHbm x.1.toNat (x.2 - x.1).toNat
  | 3 => bits a 51 48 == 0
  | _ => inMap

/-- Device addresses of the runs of a side in the local or HBM space. -/
def runsAt (c : Fin 192) (sp : Nat) (f : Nat → Nat → Int) (d : BitVec 512) : List Rng :=
  if sp ≥ 2 then []
  else (List.range (dRuns d).1).flatMap fun i2 => (List.range (dRuns d).2).map fun i1 =>
    ⟨if sp = 0 then dmaLocal c (f i2 i1) else (f i2 i1).toNat, dLen0 d⟩

/-- Whether FLAGADDR is as R278 asks. -/
def flagOk (c : Fin 192) (d : BitVec 512) : Bool :=
  if !dFlagen d then dFlagaddr d == 0
  else if dFlagaddr d / 2 ^ 52 = 0 then (flagAt c (dFlagaddr d)).isSome
  else dFlagaddr d % 8 == 0 && bits (dFlagaddr d) 51 48 == 0

/-- Whether a descriptor is valid on a core's DMA engine (R278, R401). -/
def descOk (c : Fin 192) (d : BitVec 512) : Bool :=
  bits d.toNat 450 448 == 0 && bits d.toNat 1 0 == 0 && dSsp d ≤ 3 && dDsp d ≤ 3 && dDims d ≤ 2 && dLen0 d ≥ 1
    && (dDims d ≥ 1 || dCnt1 d == 0) && (dDims d ≥ 2 || dCnt2 d == 0)
    && (dHost d || dPasid d == 0) && dNext d % 64 == 0
    && (dSsp d ≤ 1 || dDsp d ≤ 1)
    && sideOk c (dSsp d) (dSaddr d) (dSrcRun d) d && sideOk c (dDsp d) (dDaddr d) (dDstRun d) d && flagOk c d
    && !anyOverlap (runsAt c (dSsp d) (dSrcRun d) d) (runsAt c (dDsp d) (dDstRun d) d)

/-! ### Entries (R280, R433) -/

/-- Entries of a descriptor: one per 16 host pages of its host side's bounding range. -/
def descParts (d : BitVec 512) : Nat :=
  if dHost d then
    let x := hostSpan d
    ((x.2 - 1) / 4096 - x.1 / 4096).toNat / 16 + 1
  else 1

/-- The first host page of an entry. -/
def partPage (d : BitVec 512) (j : Nat) : Nat := ((hostSpan d).1 / 4096).toNat + 16 * j

/-- Host pages of an entry. -/
def partPages (d : BitVec 512) (j : Nat) : List Nat :=
  let last := (((hostSpan d).2 - 1) / 4096).toNat
  ((List.range 16).map (partPage d j + ·)).filter (· ≤ last)

/-- A piece of a transfer: source and destination address in their spaces, and bytes. -/
structure Seg where
  src : Int
  dst : Int
  len : Nat

/-- The pieces of an entry in ascending i2 and then i1, each with the number of its run: whole runs, or what of each run lies in the
entry's host pages (R277, R433). -/
def runSegs (d : BitVec 512) (j : Nat) : List (Nat × Seg) :=
  (List.range (dRuns d).1).flatMap fun i2 => (List.range (dRuns d).2).filterMap fun i1 =>
    let a := dSrcRun d i2 i1
    let b := dDstRun d i2 i1
    let n := i2 * (dRuns d).2 + i1
    if !dHost d then some (n, ⟨a, b, dLen0 d⟩)
    else
      let h := if dSsp d = 2 then a else b
      let w0 : Int := (partPage d j * 4096 : Nat)
      let lo := max h w0
      let hi := min (h + dLen0 d) (w0 + 65536)
      if lo < hi then some (n, ⟨a + (lo - h), b + (lo - h), (hi - lo).toNat⟩) else none

/-- The pieces of an entry. -/
def segsOf (d : BitVec 512) (j : Nat) : List Seg := (runSegs d j).map (·.2)

/-- Appends the entries of a chain to a core's DMA queue. -/
def queueChain (s : State) (c : Fin 192) (owner : Option Nat) (ds : List (BitVec 512)) : State :=
  let x := getCore s c
  let parts := ds.flatMap fun d => (List.range (descParts d)).map fun j => (d, j)
  let es := parts.zipIdx.map fun p =>
    ({ seq := x.dmaNext + p.2, chain := x.chainNext, owner := owner, desc := p.1.1, part := p.1.2, phase := .waiting
       slots := [], retried := false, srcFpa := none, dstFpa := none, flagFpa := none, xreqs := [], hostAt := 0, hostOut := 0, moved := false, fabOut := 0
       fabData := [], flagSent := false, startedAt := 0 } : DmaEnt)
  let s := touchDoze s c
  putCore s c { x with dma := x.dma ++ es, dmaNext := x.dmaNext + es.length, chainNext := x.chainNext + 1 }

/-- Reads a chain of descriptors (R276, R278, R279); `fuel` is the number of descriptors a chain may still hold. -/
def readChain (fuel : Nat) (s : State) (c : Fin 192) (a : Nat) : Fetched (List (BitVec 512)) :=
  match fuel with
  | 0 => .invalid
  | f + 1 =>
    match readDesc s c a 64 with
    | .invalid => .invalid
    | .poison p => .poison p
    | .ok n =>
      let d := BitVec.ofNat 512 n
      if dNext d = 0 then .ok [d]
      else match readChain f s c (dNext d) with
        | .ok ds => .ok (d :: ds)
        | .invalid => .invalid
        | .poison p => .poison p

/-- Local addresses of the descriptors of a chain, as far as they can be followed. -/
def chainAddrs (fuel : Nat) (s : State) (c : Fin 192) (a : Nat) : List Nat :=
  match fuel with
  | 0 => []
  | f + 1 =>
    match localRange c a 64 with
    | none => []
    | some p =>
      let n := dNext (BitVec.ofNat 512 (readNat s p 64))
      if n = 0 then [a] else a :: chainAddrs f s c n

/-- Entries of a core that hold queue slots (R281). -/
def slotsHeld (x : CoreSt) : Nat := (x.dma.filter entInQueue).length

/-- Entries of a core that have not ended. -/
def liveEnts (x : CoreSt) : Nat := (x.dma.filter fun e => !entEnded e).length

/-- DMA (R243, R276 to R280, R285, R286): issue waits for a place in the queue and in the tracker, and for what is still to write the
chain's descriptors; the chain's entries then wait for earlier work whose ranges overlap the chain's (`mayStart`). -/
def execDma (c : Fin 192) (w : CoreWord) (s : State) : Res :=
  issue 0x70 3 ⟨0, 31, 0, 0, 0, 0⟩ true c w s fun x =>
    let a := (xr x w.rs1).toNat
    let rs := (chainAddrs 16 s c a).map fun a => (⟨devAt c a, 64⟩ : Rng)
    if liveEnts x ≥ 32 || blocked s c rs [] then .wait
    else match readChain 16 s c a with
      | .invalid => .stop 1 0
      | .poison p => .poisoned (demandAll s rs) p
      | .ok ds =>
        if !ds.all (descOk c) then .stop 1 0
        else if trackerFull c x ((chainReads c ds).length + (chainWrites c ds).length) then .wait
        else .done (queueChain (demandAll s rs) c none ds)

/-! ### Ends of entries (R282 to R284) -/

def findEnt (s : State) (c : Fin 192) (seq : Nat) : Option DmaEnt := (getCore s c).dma.find? fun e => e.seq = seq

def updEnt (s : State) (c : Fin 192) (seq : Nat) (f : DmaEnt → DmaEnt) : State :=
  modCore s c fun x => { x with dma := x.dma.map fun e => if e.seq = seq then f e else e }

/-- Forgets the fabric requests of an entry that has ended, but its writes: they stay out until their targets answer (FFENCE,
R276), or the peer is given up with ST_FENCED or ST_TIMEOUT. -/
def dropReqs (s : State) (c : Fin 192) (st seq : Nat) : State :=
  let lost := st % 256 = stFenced || st % 256 = stTimeout
  setFab s { s.fab with reqs := s.fab.reqs.filter fun r => r.owner ≠ .dma c seq || (r.kind = 2 && !lost) }

/-- PASIDs and segments that queue entries of the device still hold (R431, R448). -/
def anyEnt (s : State) (p : DmaEnt → Bool) : Bool := s.cores.toList.any fun x => x.dma.any fun e => entInQueue e && p e

/-- The segment an address names. -/
def segOf (a : Nat) : Nat := bits a 63 52

/-- Whether an entry holds a resolution of a segment. -/
def holdsSeg (g : Nat) (e : DmaEnt) : Bool :=
  (e.srcFpa.isSome && segOf (dSaddr e.desc) == g) || (e.dstFpa.isSome && segOf (dDaddr e.desc) == g)
    || (e.flagFpa.isSome && segOf (dFlagaddr e.desc) == g)

/-- A waiting request by its sender and transaction. -/
def parkKey (f : FrameIn) : Nat := fhSrc f.hdr * 2 ^ 16 + fhTid f.hdr

/-- What a MEM_MAP command waits for: kind and key of the changed records, in its `aux` (R431, R448). A removed PASID is
kept as 1, PASID; a changed segment as 2, segment; a request admitted under a changed region as 3, `parkKey` (R454). -/
def mapHeld (s : State) : List Nat → Bool
  | k :: n :: rest =>
    (if k = 1 then anyEnt s fun e => dHost e.desc && dPasid e.desc == n
      else if k = 2 then anyEnt s (holdsSeg n)
      else s.fab.parked.any fun f => parkKey f = n) || mapHeld s rest
  | _ => false

/-- Ends the MEM_MAP commands that wait for nothing more. -/
def settleMaps (s : State) : State :=
  (s.cmd.inflight.filter fun k => hOpcode k.hdr = 0x0301 && k.phase = .started && !mapHeld s k.aux).foldl
    (fun s k => finishCmd s k.id stOk 0) s

/-- Whether an entry that fails leaves fabric writes that no target has acknowledged (R302). -/
def leavesWrites (e : DmaEnt) (st : Nat) : Bool := st ≠ stOk && dDsp e.desc == 3 && e.phase = .started && !e.moved

/-- Ends one entry with a status: a failure abandons the later entries of its chain, and a chain of a command ends with
its last entry (R282, R283, R495). -/
def endEnt (s : State) (c : Fin 192) (seq st : Nat) : State :=
  match findEnt s c seq with
  | none => s
  | some e =>
    if entEnded e then s
    else
      let x := getCore s c
      let out := if st = stOk then [seq] else
        (x.dma.filter fun g => g.chain = e.chain && g.seq ≥ seq && !entEnded g).map (·.seq)
      let end1 := fun (g : DmaEnt) => if g.seq ∈ out then { g with phase := .ended st, slots := [], xreqs := [], hostOut := 0 } else g
      let stats := if e.owner.isNone && st ≠ stOk then
          (x.dma.filter fun g => g.seq ∈ out).map fun g => (g.seq, dTag g.desc, st) else []
      let recs := x.dmaStat.filter (fun r => r.1 < seq) ++ stats ++ x.dmaStat.filter fun r => r.1 > seq
      let un := if leavesWrites e st then [(seq, entOrder e)] else []
      let s := putCore s c { x with dma := x.dma.map end1, dmaStat := recs, unacked := x.unacked ++ un }
      let s := out.foldl (fun s n => dropReqs s c st n) s
      let s := traceCore (countInstr s c 3) c 3 10 (2 ^ 24 + st % 256 * 2 ^ 16 + dTag e.desc)
      let mine := (getCore s c).dma.filter fun g => g.chain = e.chain
      let s := match e.owner with
        | some id =>
          if !mine.all entEnded then s
          else match findCmd s id with
            | none => modCore s c fun x => { x with dma := x.dma.filter fun g => g.chain ≠ e.chain }
            | some k =>
              if hOpcode k.hdr = 0x0302 then
                let s := modCore s c fun x => { x with dma := x.dma.filter fun g => g.chain ≠ e.chain }
                let worst := (mine.findSome? fun g => match g.phase with
                  | .ended st => if st ≠ stOk then some st else none
                  | _ => none).getD stOk
                finishCmd s id (worst % 256) (if worst = stOk then 0 else partDetail c worst)
              else s
        | none => s
      settleMaps (settleCore s c)

/-- Fails entries of every core that a property holds of. -/
def failEnts (s : State) (p : DmaEnt → Bool) (st : Nat) : State :=
  (List.finRange 192).foldl (fun s c =>
    ((getCore s c).dma.filter fun e => !entEnded e && p e).foldl (fun s e => endEnt s c e.seq st) s) s

/-- ST_FENCED of every entry with a host side (R584, R587). -/
def failHostDma (s : State) : State := failEnts s (fun e => dHost e.desc) (withCause stFenced (uidOf .hostIf))

/-! ### Submission (R281, R429, R434, R436, R447, R529, R606) -/

/-- The valid PASID record of a PASID (R430). -/
def pasidRec (s : State) (p : Nat) : Option Nat :=
  (s.xl.pasids.toList.map BitVec.toNat).find? fun r => bit r 239 && bits r 231 212 == p

/-- The fabric physical address of the lowest byte of a span, where the whole of it lies within the segment that an address names
and the segment grants a kind (R445, R447). -/
def resolveSeg (s : State) (grant a : Nat) (x : Int × Int) : Option Nat :=
  let r := (smapGet 0 s.xl.segs (segOf a)).toNat
  let lo := x.1 - (segOf a * 2 ^ 52 : Nat)
  let hi := x.2 - (segOf a * 2 ^ 52 : Nat)
  if segOf a ≠ 0 && bit r 239 && bit r grant && decide (0 ≤ lo) && decide (hi ≤ (bits r 127 80 : Nat))
  then some (bits r 191 128 + lo.toNat) else none

/-- Whether a resolved address can be routed (R529). -/
def routable (s : State) (fpa : Nat) : Bool := fpa / 2 ^ 48 == selfId s || portSet s (fpa / 2 ^ 48) != 0

/-- An untranslated slot. -/
def XSlot.init (page : Nat) : XSlot := ⟨page, false, 0, false, false, false⟩

/-- Sends a Translation Request for each slot not yet covered that has none out (R434, R438). -/
def askTranslations (s : State) (c : Fin 192) (seq : Nat) : State :=
  match findEnt s c seq with
  | none => s
  | some e =>
    let ps := (e.slots.filter fun x => !x.filled && !(e.xreqs.any fun r => r.1 = x.page)).map (·.page)
    let s := updEnt s c seq fun e => { e with xreqs := e.xreqs ++ ps.map fun p => (p, []) }
    ps.foldl (fun s p => emit s (.atsRequest c seq (dPasid e.desc) p 1 (dDsp e.desc == 2) false false (leaseStream s))) s

/-- Resolutions of an entry's fabric sides: source, destination, flag; `none` where one fails (R447, R529). -/
def fabResolve (s : State) (d : BitVec 512) : Option (Option Nat × Option Nat × Option Nat) :=
  let side := fun (on : Bool) grant (a : Nat) (x : Int × Int) =>
    if !on then some none
    else match resolveSeg s grant a x with
      | some f => if routable s f then some (some f) else none
      | none => none
  match side (dSsp d == 3) 238 (dSaddr d) (dSrcSpan d), side (dDsp d == 3) 237 (dDaddr d) (dDstSpan d),
      side (dFlagen d && dFlagaddr d / 2 ^ 52 != 0) 236 (dFlagaddr d) (dFlagaddr d, dFlagaddr d + 8) with
  | some a, some b, some f => some (a, b, f)
  | _, _, _ => none

/-- The status an entry fails with at submission, or its resolutions. -/
def submitCheck (s : State) (d : BitVec 512) : Nat ⊕ (Option Nat × Option Nat × Option Nat) :=
  if dHost d && s.host.tdi ≠ .run then .inl (withCause stFenced (uidOf .hostIf))
  else if dHost d && (dPasid d == 0 || (pasidRec s (dPasid d)).isNone || !s.xl.atsOn) then .inl stXlateFault
  else if (dFabric d || (dFlagen d && dFlagaddr d / 2 ^ 52 != 0)) && s.lease.fabSecret.isNone then .inl stNotReady
  else match fabResolve s d with
    | none => .inl stXlateFault
    | some r => .inr r

/-- DMA_ENTRY_SUBMIT (R243, R280, R281, R495): the next waiting entry of its order takes a queue slot while one is free. -/
def execDmaEntrySubmit (c : Fin 192) (seq : Nat) (s : State) : Res :=
  let x := getCore s c
  match findEnt s c seq with
  | none => .next s
  | some e =>
    if frozen s || e.phase ≠ .waiting || slotsHeld x ≥ 32
        || anyBefore x e (·.phase = .waiting) then .next s
    else match submitCheck s e.desc with
      | .inl st => .next (endEnt s c seq st)
      | .inr (a, b, f) =>
        let slots := if dHost e.desc then (partPages e.desc e.part).map XSlot.init else []
        let s := updEnt s c seq fun e => { e with phase := .submitted, slots := slots, srcFpa := a, dstFpa := b, flagFpa := f }
        .next (askTranslations (traceCore s c 3 10 (dTag e.desc)) c seq)

/-! ### Translations (R434, R435, R438 to R440) -/

/-- Whether a slot grants the access its entry needs. -/
def slotGrants (d : BitVec 512) (x : XSlot) : Bool := if dDsp d = 2 then x.canWrite else x.canRead

/-- Fills the slots that a completion covers. -/
def fillSlot (t : TransIn) (x : XSlot) : XSlot :=
  if x.filled || x.page < t.page then x
  else match t.pages[x.page - t.page]? with
    | none => x
    | some (p, r, w) => { x with filled := true, xpage := p, canRead := r, canWrite := w, stale := false }

/-- Acts on a denial: a fault, or a page request group (R435). -/
def denied (s : State) (c : Fin 192) (e : DmaEnt) : State :=
  match pasidRec s (dPasid e.desc) with
  | none => endEnt s c e.seq stXlateFault
  | some r =>
    if !bit r 238 || e.retried then endEnt s c e.seq stXlateFault
    else
      let ps := (e.slots.filter fun x => x.filled && !slotGrants e.desc x).map (·.page)
      let s := updEnt s c e.seq fun e => { e with phase := .priWait (now s) (bits r 191 160 * 1000) }
      emit s (.pageRequest c e.seq (dPasid e.desc) ps (dDsp e.desc == 2) (leaseStream s))

/-- ATS_TRANSLATION_COMPLETION (R434, R435, R438): a completion that an invalidation received since its request overlaps is discarded,
and the translation is asked for again where no other completion has given it. One that denies the access makes the entry act at once, unless
it already waits for a page request. -/
def execAtsTranslationCompletion (c : Fin 192) (seq : Nat) (t : TransIn) (s : State) : Res :=
  match findEnt s c seq with
  | none => .next s
  | some e =>
    if entEnded e then .next s
    else match e.xreqs.find? fun r => r.1 = t.asked with
      | none => .next s
      | some r =>
        let left := { e with xreqs := e.xreqs.filter fun r => r.1 ≠ t.asked }
        if r.2.any fun v => v.1 < t.page + t.pages.length && t.page < v.1 + v.2 then
          .next (askTranslations (updEnt s c seq fun _ => left) c seq)
        else
          let e := { left with slots := left.slots.map (fillSlot t) }
          let s := updEnt s c seq fun _ => e
          let held := match e.phase with | .priWait _ _ => true | _ => false
          if !held && e.slots.any (fun x => x.filled && !slotGrants e.desc x) then .next (denied s c e) else .next s

/-- PRG_RESPONSE (R435): code 0 is Success. -/
def execPrgResponse (c : Fin 192) (seq : Nat) (code : Nat) (s : State) : Res :=
  match findEnt s c seq with
  | none => .next s
  | some e =>
    match e.phase with
    | .priWait since limit =>
      if code ≠ 0 || now s ≥ since + limit then .next (endEnt s c seq stXlateFault)
      else
        let ph : DmaPhase := if e.startedAt = 0 then .submitted else .started
        let s := updEnt s c seq fun e =>
          { e with phase := ph, retried := true, slots := e.slots.map fun x => if slotGrants e.desc x then x else XSlot.init x.page }
        .next (askTranslations s c seq)
    | _ => .next s

/-- PRI_WAIT_EXPIRY (R435). -/
def execPriWaitExpiry (c : Fin 192) (seq : Nat) (s : State) : Res :=
  match findEnt s c seq with
  | none => .next s
  | some e =>
    match e.phase with
    | .priWait since limit => if now s ≥ since + limit then .next (endEnt s c seq stXlateFault) else .next s
    | _ => .next s

/-! ### Transfers -/

/-- The device ranges an entry reads and writes in this package's memory, fabric sides of this device included. -/
def entRanges (s : State) (c : Fin 192) (e : DmaEnt) (src : Bool) : List Rng :=
  let sp := if src then dSsp e.desc else dDsp e.desc
  (segsOf e.desc e.part).flatMap fun g =>
    let a := if src then g.src else g.dst
    if sp = 0 then [⟨dmaLocal c a, g.len⟩]
    else if sp = 1 then [⟨a.toNat, g.len⟩]
    else if sp = 3 then
      match (if src then e.srcFpa else e.dstFpa) with
      | some f => if f / 2 ^ 48 = selfId s then [⟨(f + (a - (fabSpan e.desc).1).toNat) % 2 ^ 48, g.len⟩] else []
      | none => []
    else []

/-- The translated host address of a host byte. -/
def hostXlate (e : DmaEnt) (a : Nat) : Nat :=
  match e.slots.find? fun x => x.page = a / 4096 with
  | some x => x.xpage * 4096 + a % 4096
  | none => a

/-- Cuts a host range at page boundaries. -/
def pagePieces (fuel a len : Nat) : List (Nat × Nat) :=
  match fuel with
  | 0 => []
  | f + 1 =>
    if len = 0 then []
    else let n := min len (4096 - a % 4096); (a, n) :: pagePieces f (a + n) (len - n)

/-- The pages of an entry's pieces on the host side, in order. -/
def hostPieces (e : DmaEnt) : List (Nat × Nat) :=
  (segsOf e.desc e.part).flatMap fun g =>
    let a := (if dSsp e.desc = 2 then g.src else g.dst).toNat
    pagePieces (g.len / 4096 + 2) a g.len

/-- The command an entry's host writes belong to (R552). -/
def entCmd (s : State) (c : Fin 192) (e : DmaEnt) : Nat := e.owner.getD (getCore s c).launch

/-- The place of a piece among a command's host writes: core, descriptor, run and the entry's part of it (R552). -/
def writeKey (c : Fin 192) (e : DmaEnt) (run : Nat) : Nat :=
  ((c.val * 2 ^ 32 + (e.seq - e.part)) * 2 ^ 32 + run) * 2 ^ 32 + e.part

/-- Writes bytes to the host through an entry's slots (R432, R573). -/
def hostWriteEnt (s : State) (c : Fin 192) (e : DmaEnt) (bs : List Byte) : State :=
  let x := (hostPieces e).foldl (fun (acc : State × List Byte) p =>
    (hostPut (putFuel p.2) acc.1 (hostXlate e p.1) (some (dPasid e.desc)) (leaseStream s) true (acc.2.take p.2), acc.2.drop p.2)) (s, bs)
  let y := (runSegs e.desc e.part).foldl (fun (acc : List (Nat × List Byte) × List Byte) g =>
    (acc.1 ++ [(writeKey c e g.1, acc.2.take g.2.len)], acc.2.drop g.2.len)) ([], bs)
  updCmd x.1 (entCmd s c e) fun k => { k with writes := k.writes ++ y.1 }

/-- Pieces of an entry's fabric side: address and length of each frame, with its offset among the entry's bytes. -/
def fabPieces (e : DmaEnt) (base : Nat) : List (Nat × Nat × Nat) :=
  ((segsOf e.desc e.part).foldl (fun (acc : List (Nat × Nat × Nat) × Nat) g =>
    let a := if dSsp e.desc = 3 then g.src else g.dst
    let fpa := base + (a - (fabSpan e.desc).1).toNat
    (acc.1 ++ (framePieces (g.len / 960 + 2) fpa 0 g.len).map fun p => (fpa + p.1, p.2, acc.2 + p.1), acc.2 + g.len)) ([], 0)).1

/-- Reads an entry's source in the local or the HBM space. -/
def readSource (s : State) (rs : List Rng) : State × (Nat ⊕ List Byte) :=
  (demandAll s rs, if rs.any fun r => anyPoison s r.lo r.len then .inl stPoisoned else .inr (rs.flatMap fun r => readBytes s r.lo r.len))

/-- What serving the fabric requests of an entry to this device itself gives so far. -/
structure SelfRun where
  s : State
  bad : Option Nat
  bytes : List Byte

/-- One such request, served as a peer's (R301). -/
def selfPiece (r : SelfRun) (x : Served) : SelfRun :=
  match x with
  | .ok s bs => { r with s := s, bytes := r.bytes ++ bs }
  | .err s st => { r with s := s, bad := r.bad.or (some st) }
  | .wait s => { r with s := s }

/-- Reads, and writes, an entry's fabric side on this device, request by request; the entry fails with the first failure (R282). -/
def selfRead (s : State) (e : DmaEnt) (base : Nat) : SelfRun :=
  (fabPieces e base).foldl (fun r p => selfPiece r (serveRead r.s false (p.1 % 2 ^ 48) p.2.1 (dCtxid e.desc))) ⟨s, none, []⟩

def selfWrite (s : State) (e : DmaEnt) (base : Nat) (bs : List Byte) : SelfRun :=
  (fabPieces e base).foldl
    (fun r p => selfPiece r (serveWrite r.s false (p.1 % 2 ^ 48) ((bs.drop p.2.2).take p.2.1) (dCtxid e.desc))) ⟨s, none, []⟩

/-- Writes bytes over ranges of this package. -/
def writeRanges (s : State) (rs : List Rng) (bs : List Byte) : State :=
  (rs.foldl (fun (acc : State × List Byte) r => (writeBytes acc.1 r.lo (acc.2.take r.len), acc.2.drop r.len)) (s, bs)).1

/-- The flag addition of an entry (R298): the last entry of its descriptor adds. -/
def lastPart (e : DmaEnt) : Bool := e.part + 1 == descParts e.desc

/-- Whether earlier fabric writes of an entry's order have not all been acknowledged: an entry has not ended, or it failed with
writes that no target acknowledged (FFENCE, R276, R298, R302; DEDUCED, log entry 144). -/
def fabWritesOut (x : CoreSt) (e : DmaEnt) : Bool :=
  anyBefore x e (fun g => !entEnded g && dDsp g.desc == 3) || x.unacked.any fun u => u.1 < e.seq && u.2 = entOrder e

/-- Whether a flag addition must wait for a verdict of the core (R202). -/
def flagHeld (x : CoreSt) (e : DmaEnt) : Bool :=
  e.owner.isNone && (match x.pend with | some p => decide (p.ord ≤ e.chain) | none => false)

/-- What remains once an entry's bytes are at their destination: FFENCE, the flag, and the end (R276, R298). -/
def finishEnt (s : State) (c : Fin 192) (e : DmaEnt) : State :=
  let x := getCore s c
  let wait := fun (s : State) => updEnt s c e.seq fun g => { g with
    phase := .started, startedAt := max 1 (now s), flagSent := false, hostOut := 0, fabOut := 0, moved := true }
  if !lastPart e then endEnt s c e.seq stOk
  else if dFfence e.desc && fabWritesOut x e then wait s
  else if !dFlagen e.desc then endEnt s c e.seq stOk
  else if flagHeld x e then wait s
  else match e.flagFpa with
    | none =>
      match flagAt c (dFlagaddr e.desc) with
      | none => endEnt s c e.seq stOk
      | some p =>
        if provBlocks s [⟨p, 8⟩] [⟨p, 8⟩] then wait s
        else if domainOff s p then wait (touchAddr s p)
        else if channelsLost s [⟨p, 8⟩] || anyPoison s p 8 then endEnt (demand s p 8) c e.seq stPoisoned
        else endEnt (writeNat (demand s p 8) p 8 ((readNat s p 8 + dFlagval e.desc) % 2 ^ 64)) c e.seq stOk
    | some f =>
      if f / 2 ^ 48 = selfId s then
        match serveFlag s false (f % 2 ^ 48) (dFlagval e.desc) (dCtxid e.desc) with
        | .wait t => wait t
        | .err s st => endEnt s c e.seq st
        | .ok s _ => endEnt s c e.seq stOk
      else
        let s := updEnt s c e.seq fun g => { g with phase := .started, startedAt := max 1 (now s), flagSent := true, fabOut := 1, moved := true }
        sendRequest s (.dma c e.seq) (dCtxid e.desc) f 8 0 (.flagAdd (dFlagval e.desc))

/-- Whether an entry's bytes have all been written and only its fence or flag is due. -/
def bytesDone (e : DmaEnt) : Bool := e.phase = .started && e.moved && !e.flagSent

/-- Whether an entry has host reads outstanding. -/
def hostReads (e : DmaEnt) : Bool := 0 < e.hostOut

/-- Whether pieces of an entry's host source have still to be read, and the reads outstanding (R440). -/
def readsLeft (e : DmaEnt) : Bool := dSsp e.desc == 2 && e.hostAt + e.hostOut < (hostPieces e).length
def outPieces (e : DmaEnt) : List (Nat × Nat) := ((hostPieces e).drop e.hostAt).take e.hostOut

/-- Whether all of an entry's reads of the host or of a peer have been answered, and its bytes wait for a verdict (R203). -/
def readsDone (e : DmaEnt) : Bool :=
  e.phase = .started && !e.moved && !hostReads e && !readsLeft e && e.fabOut = 0 && (dSsp e.desc == 3 || dSsp e.desc == 2)

/-- Whether bytes of an entry have still to go through a slot: every slot of an entry that has not started, and afterwards the pages
that it has still to read (R439, R440). -/
def slotDue (e : DmaEnt) (x : XSlot) : Bool :=
  e.startedAt == 0 || ((hostPieces e).drop (e.hostAt + e.hostOut)).any fun p => p.1 / 4096 = x.page

/-- Whether stale slots keep an entry from going on (R439, R440). -/
def hasStale (e : DmaEnt) : Bool := e.slots.any fun x => x.stale && slotDue e x

/-- Asks again for the translations of stale slots. -/
def refresh (s : State) (c : Fin 192) (seq : Nat) : State :=
  askTranslations (updEnt s c seq fun e =>
    { e with slots := e.slots.map fun x => if x.stale && slotDue e x then XSlot.init x.page else x }) c seq

/-- Whether every slot that bytes have still to go through holds a translation that grants the access its entry needs (R434, R440).
-/
def translated (e : DmaEnt) : Bool := e.slots.all fun x => !slotDue e x || (x.filled && slotGrants e.desc x)

/-- Moves the bytes of an entry to its destination; a fabric destination is sent frames and waits for their
acknowledgements. -/
def deliver (s : State) (c : Fin 192) (e : DmaEnt) (bs : List Byte) : State :=
  if dDsp e.desc = 2 then finishEnt (hostWriteEnt s c e bs) c e
  else match e.dstFpa with
    | some f =>
      if f / 2 ^ 48 = selfId s then
        let r := selfWrite s e f bs
        match r.bad with
        | some st => endEnt (updEnt r.s c e.seq fun g => { g with phase := .started }) c e.seq st
        | none => finishEnt r.s c e
      else
        let ps := fabPieces e f
        let s := updEnt s c e.seq fun g => { g with phase := .started, startedAt := max 1 (now s), fabOut := ps.length }
        ps.foldl (fun s p => sendRequest s (.dma c e.seq) (dCtxid e.desc) p.1 p.2.1 p.2.2
          (.write ((bs.drop p.2.2).take p.2.1))) s
    | none =>
      let ws := entRanges s c e false
      if channelsLost s ws then endEnt s c e.seq stPoisoned
      else finishEnt (writeRanges s ws bs) c e

/-- Whether an entry is one of a replay's own wide-weight blocks (R209). -/
def replayEnt (x : CoreSt) (e : DmaEnt) : Bool := e.owner = some x.launch && (match x.verdict with | .replaying _ _ _ _ => true | _ => false)

/-- Whether a verdict holds an entry back: it reads provisional bytes, or writes what a pending chain reads (R201 to R203). A
replay's own transfers wait for other cores' verdicts alone. -/
def entProvHeld (s : State) (c : Fin 192) (e : DmaEnt) : Bool :=
  let t := if replayEnt (getCore s c) e then modCore s c fun x => { x with pend := none, cont := none } else s
  provBlocks t (entRanges s c e true) (entRanges s c e false)

/-- Whether earlier work of the core holds an entry's chain back in the range tracker (R285, R286); chains of commands are not
ordered with it (R495). -/
def entTracked (c : Fin 192) (x : CoreSt) (e : DmaEnt) : Bool :=
  let ds := (x.dma.filter fun g => g.chain = e.chain).map (·.desc)
  e.owner.isNone && flightBlocks c x e.chain (chainReads c ds) (chainWrites c ds)

/-- Whether an entry stands behind an earlier one of its order: one that has not begun, or waits for a page request (R244, R435,
R495). -/
def behind (x : CoreSt) (e : DmaEnt) : Bool :=
  anyBefore x e fun g => notBegun g || match g.phase with | .priWait _ _ => true | _ => false

/-- Whether an entry may start: earlier entries of its chain have ended, its FENCE is met, those of its order have begun, and neither
the tracker nor a verdict holds it back (R201 to R203, R244, R276, R285, R435, R495). -/
def mayStart (s : State) (c : Fin 192) (e : DmaEnt) : Bool :=
  let x := getCore s c
  !(anyBefore x e fun g => (g.chain = e.chain || dFence e.desc) && !entEnded g)
    && !behind x e && !entTracked c x e && !entProvHeld s c e

/-- The stores of other domains that an entry touches and that are switched off: a cluster store or a stack (R51, R650). -/
def entOff (s : State) (c : Fin 192) (e : DmaEnt) : Bool :=
  (entRanges s c e true ++ entRanges s c e false).any fun r => (linesOf r.lo r.len).any fun l => domainOff s (l * 64)

/-- Notes an entry's accesses to them, which starts their wakes. -/
def entTouch (s : State) (c : Fin 192) (e : DmaEnt) : State :=
  (entRanges s c e true ++ entRanges s c e false).foldl (fun s r => touchRange s r.lo r.len) s

/-- Whether an entry touches what only the sequence engine and the attention units may reach (R313, R355). -/
def touchesKv (s : State) (c : Fin 192) (e : DmaEnt) : Bool :=
  ((if dSsp e.desc = 3 then [] else entRanges s c e true) ++ (if dDsp e.desc = 3 then [] else entRanges s c e false)).any fun r =>
    kvProtected s r.lo r.len

/-- Host reads outstanding on the device, and the number it may have (R566). -/
def hostTags (s : State) : Nat := s.cores.toList.foldl (fun n x => x.dma.foldl (fun n e => n + e.hostOut) n) 0
def hostTagMax : Nat := 2048

/-- Issues as many of an entry's remaining host reads as may be outstanding (R432, R566, R573). -/
def issueReads (s : State) (c : Fin 192) (e : DmaEnt) : State :=
  let ps := ((hostPieces e).drop e.hostAt).take (hostTagMax - hostTags s)
  let s := updEnt s c e.seq fun g => { g with phase := .started, startedAt := max 1 (now s), hostOut := ps.length }
  ps.foldl (fun s p => emit s (.hostRead (hostXlate e p.1) (some (dPasid e.desc)) (leaseStream s) p.2)) s

/-- Starts an entry: host reads and fabric reads go out; anything else moves at once. -/
def startEnt (s : State) (c : Fin 192) (e : DmaEnt) : State :=
  if touchesKv s c e then endEnt s c e.seq stRefused
  else if dSsp e.desc = 2 then issueReads s c e
  else match e.srcFpa with
    | some f =>
      if f / 2 ^ 48 = selfId s then
        let r := selfRead s e f
        match r.bad with
        | some st => endEnt r.s c e.seq st
        | none => deliver r.s c e r.bytes
      else
        let ps := fabPieces e f
        let s := updEnt s c e.seq fun g => { g with phase := .started, startedAt := max 1 (now s), fabOut := ps.length }
        ps.foldl (fun s p => sendRequest s (.dma c e.seq) (dCtxid e.desc) p.1 p.2.1 p.2.2 (.read p.2.1)) s
    | none =>
      match readSource s (entRanges s c e true) with
      | (s, .inl st) => endEnt s c e.seq st
      | (s, .inr bs) => deliver s c e bs

/-- Delivers what an entry has read of the host or of a peer, once no verdict holds its destination (R203). -/
def deliverRead (s : State) (c : Fin 192) (e : DmaEnt) : State :=
  if entProvHeld s c e then s
  else
    let n := ((segsOf e.desc e.part).map (·.len)).foldl (· + ·) 0
    deliver s c e ((List.range n).map (smapGet 0 e.fabData))

/-- Bytes of some pieces. -/
def piecesLen (ps : List (Nat × Nat)) : Nat := (ps.map (·.2)).foldl (· + ·) 0

/-- Takes the data of an entry's outstanding host reads; once the last are there, its bytes go to their destination. -/
def takeReads (s : State) (c : Fin 192) (e : DmaEnt) (bs : List Byte) : State :=
  let g := { e with fabData := smapSetRun 0 e.fabData (piecesLen ((hostPieces e).take e.hostAt)) bs
                    hostAt := e.hostAt + e.hostOut, hostOut := 0 }
  let s := updEnt s c e.seq fun _ => g
  if readsLeft g then s else deliverRead s c g

/-- DMA_ENTRY_COMPLETE (R282, R298, R434, R439, R440): an entry whose translations are there starts; a started one takes the data
of its host reads and issues those that remain, through fresh translations where slots have become stale; one whose reads have all
been answered moves its bytes, and one whose bytes are written makes its flag addition and ends. -/
def execDmaEntryComplete (c : Fin 192) (seq : Nat) (d : HostData) (s : State) : Res :=
  match findEnt s c seq with
  | none => .next s
  | some e =>
    if frozen s then .next s
    else match e.phase with
      | .submitted =>
        if !translated e || !mayStart s c e then .next s
        else if hasStale e then .next (refresh s c seq)
        else if entOff s c e then .next (entTouch s c e)
        else .next (startEnt (entTouch s c e) c e)
      | .started =>
        if hostReads e then
          if d.err then .next (endEnt s c seq stXlateFault)
          else if d.bytes.length ≠ piecesLen (outPieces e) then .next s
          else .next (takeReads s c e d.bytes)
        else if readsLeft e then
          if !translated e then .next s
          else if hasStale e then .next (refresh s c seq)
          else .next (issueReads s c e)
        else if bytesDone e then .next (finishEnt s c e)
        else if readsDone e then .next (deliverRead s c e)
        else .next s
      | _ => .next s

/-- WAITD (R249, R283). -/
def execWaitd (c : Fin 192) (w : CoreWord) (s : State) : Res :=
  issue 0x71 2 ⟨31, 0, 0, 0, 1, 0xFFFF⟩ true c w s fun x =>
    let all := ctlBit w 0
    let tag := immBits w 15 0
    let hit := fun t => all || t == tag
    if (ownEnts x).any fun e => hit (dTag e.desc) && !entEnded e then .wait
    else
      let st := match x.dmaStat.find? fun r => hit r.2.1 with
        | some r => r.2.2 % 256
        | none => stOk
      .done (modCore s c fun x => setX { dropEnded x with dmaStat := x.dmaStat.filter fun r => !hit r.2.1 } w.rd
        (BitVec.ofNat 64 st))

/-! ### Answers from the fabric (R302, R453, R638) -/

/-- An acknowledgement or read data for an entry's request. -/
def entAnswer (s : State) (c : Fin 192) (seq off : Nat) (bs : List Byte) : State :=
  match findEnt s c seq with
  | none => s
  | some e =>
    if entEnded e then s
    else
      let e := { e with fabOut := e.fabOut - 1, fabData := smapSetRun 0 e.fabData off bs }
      let s := updEnt s c seq fun _ => e
      if e.fabOut ≠ 0 then s
      else if e.flagSent then endEnt s c seq stOk
      else if dSsp e.desc = 3 then deliverRead s c e
      else finishEnt s c e

/-! ### Invalidation (R437 to R442) -/

/-- Whether a request's range covers a page of an entry. -/
def invalHits (pasid : Option Nat) (page n : Nat) (e : DmaEnt) (x : Nat) : Bool :=
  page ≤ x && x < page + n && (match pasid with | some p => dPasid e.desc == p | none => true)

/-- What the ATS capability reports: a Smallest Translation Unit of 4 KiB, and the Invalidate Queue Depth (R432). -/
def atsStu : Nat := 4096
def atsInvalDepth : Nat := 32

/-- ATS_INVALIDATE_REQUEST (R437, R438, R442): at most 32 at once. -/
def execAtsInvalidateRequest (itag : Nat) (pasid : Option Nat) (page npages : Nat) (s : State) : Res :=
  if s.xl.invals.length ≥ atsInvalDepth || (s.xl.invals.any fun i => i.itag = itag) then .next s
  else
    let hit := invalHits pasid page npages
    let mine := fun (e : DmaEnt) => match pasid with | some p => dPasid e.desc == p | none => true
    let reads := (List.finRange 192).flatMap fun c =>
      ((getCore s c).dma.filter fun e => !entEnded e && (outPieces e).any fun p => hit e (p.1 / 4096)).map fun e => (c.val, e.seq, e.hostAt)
    let mark := fun (e : DmaEnt) => { e with
      slots := e.slots.map fun x => { x with stale := x.stale || (x.filled && hit e x.page) }
      xreqs := if mine e then e.xreqs.map fun r => (r.1, r.2 ++ [(page, npages)]) else e.xreqs }
    let s : State := { s with cores := s.cores.map fun (x : CoreSt) => { x with dma := x.dma.map mark } }
    .next { s with xl := { s.xl with invals := s.xl.invals ++ [⟨itag, pasid, page, npages, now s, false, reads⟩] } }

/-- Whether a read an invalidation waits for is still out. -/
def readOut (s : State) (r : Nat × Nat × Nat) : Bool :=
  match findEnt s (fin 192 r.1) r.2.1 with
  | some e => hostReads e && e.hostAt = r.2.2 && !entEnded e
  | none => false

/-- INVALIDATE_COMPLETION (R441). -/
def execInvalidateCompletion (itag : Nat) (s : State) : Res :=
  match s.xl.invals.find? fun i => i.itag = itag with
  | none => .next s
  | some i =>
    if i.reads.any (readOut s) then .next s
    else .next (emit { s with xl := { s.xl with invals := s.xl.invals.filter fun j => j.itag ≠ itag } } (.invalComplete itag))

/-- INVALIDATE_READ_EXPIRY (R441): 45 us after receipt. -/
def execInvalidateReadExpiry (itag : Nat) (s : State) : Res :=
  match s.xl.invals.find? fun i => i.itag = itag with
  | none => .next s
  | some i =>
    if now s < i.at_ + 45000 then .next s
    else .next ((i.reads.filter (readOut s)).foldl (fun s r => endEnt s (fin 192 r.1) r.2.1 stFenced) s)

/-! ### DMA_COPY (R495) -/

/-- Step 7 of DMA_COPY: 1 to 16 valid descriptors with NEXT = 0. -/
def checkDmaCopy (c : Fin 192) (ps : List (BitVec 512)) : List Nat :=
  ps.zipIdx.flatMap fun p => chk (dNext p.1 = 0) (512 + 512 * p.2 + 480) ++ chk (descOk c p.1) 0xFFFF

/-- Whether a command's engine lies in a core that is switched off (R650). -/
def engineOff (s : State) (id : Nat) : Bool :=
  match findCmd s id with
  | some k => (match k.target with | .unit (.engine c _) => (vget s.doze .init c).off | _ => false)
  | none => false

/-- DMA_COPY (R495, R631): runs on the target DMA engine, or the DMA engine of each core of a group, once its core is awake
(R650). -/
def execDmaCopy (id : Nat) (s : State) : Res :=
  if engineOff s id then .next s else runCmd s id 0x0302 fun s k u =>
    match u with
    | .engine c _ =>
      let bad := checkDmaCopy c k.params
      if bad.isEmpty then queueChain s c (some id) k.params else finishCmd s id stBadParam (badDetail [])
    | _ => finishCmd s id stBadParam (badDetail [384])

end Sys2Proof.Machine
end

