-- ==== Sys2Proof/Machine/MemMap.lean ====
section
/-! DEFINITION. MEM_MAP: PASID, segment and region records (13_address_translation.md R430, R431, R443 to R448, R451, R452,
R454). -/

namespace Sys2Proof.Machine

/-- The 32-byte records of a block, the first at the lowest address; a block that holds an odd number of records ends in
zeros. -/
def mapRecs (ps : List (BitVec 512)) : List Nat :=
  let rs := ps.flatMap fun b => [bits b.toNat 255 0, bits b.toNat 511 256]
  if rs.getLastD 1 = 0 then rs.dropLast else rs

def mrKind (r : Nat) : Nat := bits r 255 252
def mrIndex (r : Nat) : Nat := bits r 251 240
def mrValid (r : Nat) : Bool := bit r 239
def mrPasid (r : Nat) : Nat := bits r 231 212
def mrRegion (r : Nat) : Rng := ⟨bits r 191 144, bits r 143 96⟩

/-- Nonzero reserved ranges of a record, as bits of the record. -/
def mrRsv (r : Nat) (rs : List (Nat × Nat)) : List Nat := rs.filterMap fun x => if bits r x.1 x.2 = 0 then none else some x.2

/-- Bad fields of a PASID record, given the table it is to enter (R430, R431). -/
def badPasid (s : State) (r : Nat) : List Nat :=
  let other := s.xl.pasids.toList.zipIdx.any fun e => e.2 ≠ mrIndex r && bit e.1.toNat 239 && mrPasid e.1.toNat = mrPasid r
  chk (mrIndex r ≤ 15) 240 ++ mrRsv r [(237, 232), (211, 192), (159, 0)]
    ++ if mrValid r then
        chk (1 ≤ mrPasid r && !other) 212
          ++ chk (if bit r 238 then 1 ≤ bits r 191 160 && bits r 191 160 ≤ 1000000 else bits r 191 160 == 0) 160
      else []

/-- Bad fields of a segment record (R444 to R446). -/
def badSegment (s : State) (r : Nat) : List Nat :=
  let base := bits r 191 128
  let len := bits r 127 80
  chk (1 ≤ mrIndex r) 240 ++ mrRsv r [(235, 192), (79, 0)]
    ++ if mrValid r then
        chk (base % 64 = 0 && base / 2 ^ 63 == plainOf s && base % 2 ^ 48 + len ≤ 2 ^ 48) 128 ++ chk (len ≠ 0 && len % 64 = 0) 80
      else []

/-- Whether a range may be a region (R452). -/
def regionPlace (s : State) (a n : Nat) : Bool :=
  (match placeOf a with
    | some (.die _ _) => inDieTenant a n
    | some (.hbm _) => inLeaseHbm a n
    | some _ => inStore a n
    | none => false) && !kvProtected s a n

/-- Whether a region overlaps another valid one of the table. -/
def regionClash (s : State) (r : Nat) : Bool :=
  s.xl.regions.any fun e => e.1 ≠ mrIndex r && mrValid e.2.toNat && rngOverlap (mrRegion r) (mrRegion e.2.toNat)

/-- Bad fields of a region record, the overlap with another left out (R451, R452). -/
def badRegion (s : State) (r : Nat) : List Nat :=
  let g := mrRegion r
  chk (mrIndex r ≤ 1023) 240 ++ mrRsv r [(224, 192), (95, 0)]
    ++ if mrValid r then
        chk (bit r 235 || bits r 234 225 == 0) 225 ++ chk (g.lo % 64 = 0 && regionPlace s g.lo g.len) 144
          ++ chk (g.len ≠ 0 && g.len % 64 = 0) 96
      else []

/-- Puts one record into its table (R430, R445, R451). -/
def putMapRec (s : State) (r : Nat) : State :=
  let v := if mrValid r then BitVec.ofNat 256 r else 0
  match mrKind r with
  | 1 => { s with xl := { s.xl with pasids := vset s.xl.pasids (mrIndex r) v } }
  | 2 => { s with xl := { s.xl with segs := smapSet 0 s.xl.segs (mrIndex r) v } }
  | 3 => { s with xl := { s.xl with regions := smapSet 0 s.xl.regions (mrIndex r) v } }
  | _ => s

/-- Bad fields of one record; `0xFFFF` where it overlaps another. -/
def badMapRec (s : State) (i r : Nat) : List Nat :=
  let at_ := 512 + 256 * i
  match mrKind r with
  | 1 => (badPasid s r).map (at_ + ·)
  | 2 => (badSegment s r).map (at_ + ·)
  | 3 => (badRegion s r).map (at_ + ·) ++ chk (!(mrValid r && regionClash s r)) 0xFFFF
  | _ => [at_ + 252]

/-- Step 7 of MEM_MAP: each record against the tables as the records before it leave them. -/
def checkMemMap (s : State) (ps : List (BitVec 512)) : List Nat :=
  chk (!(mapRecs ps).isEmpty) 512 ++
    ((mapRecs ps).zipIdx.foldl (fun (a : List Nat × State) x => (a.1 ++ badMapRec a.2 x.2 x.1, putMapRec a.2 x.1)) ([], s)).1

/-- Whether a waiting request lies in a region record. -/
def admittedBy (s : State) (o : Nat) (f : FrameIn) : Bool :=
  let holds := fun a n => decide ((mrRegion o).lo ≤ a) && decide (a + n ≤ (mrRegion o).lo + (mrRegion o).len)
  let a := bits (fhFpa f.hdr) 47 0
  match f.body with
  | .read n => holds a n
  | .write bs => holds a bs.length
  | .flagAdd _ => holds a 8
  | .collData id inst _ chunk _ off bs => match findInst s id inst with
    | some i => holds (coDst i.desc + gatherOff i.desc (collDevs s i.desc).length chunk + off) bs.length
    | none => false
  | _ => false

/-- What a record's completion waits for: the PASID it removes, the segment it changes, or the requests admitted under the region it
changes (R431, R448, R454). -/
def mapWaits (s : State) (r : Nat) : List Nat :=
  let same := fun (o : BitVec 256) => o = (if mrValid r then BitVec.ofNat 256 r else 0)
  match mrKind r with
  | 1 =>
    let o := (vget s.xl.pasids 0 (mrIndex r)).toNat
    if bit o 239 && !(mrValid r && mrPasid r = mrPasid o) then [1, mrPasid o] else []
  | 2 =>
    let o := smapGet 0 s.xl.segs (mrIndex r)
    if bit o.toNat 239 && !same o then [2, mrIndex r] else []
  | 3 =>
    let o := smapGet 0 s.xl.regions (mrIndex r)
    if bit o.toNat 239 && !same o then (s.fab.parked.filter (admittedBy s o.toNat)).flatMap fun f => [3, parkKey f] else []
  | _ => []

/-- The PASIDs a command removes: its waits of kind 1. -/
def gonePasids : List Nat → List Nat
  | k :: n :: rest => if k = 1 then n :: gonePasids rest else gonePasids rest
  | _ => []

/-- Whether an entry has a slot under a PASID and has not started (R431). -/
def unstarted (e : DmaEnt) : Bool := match e.phase with | .submitted => true | .priWait _ _ => true | _ => false

/-- What the acceptance of a MEM_MAP does, all its records checked: they enter their tables, so that entries submitted and requests
that reach memory from then on meet them, and the entries not started under a PASID that is gone fail (R431, R448, R454). -/
def acceptMap (s : State) (id : Nat) (ps : List (BitVec 512)) : State :=
  let x := (mapRecs ps).foldl (fun (a : List Nat × State) r => (a.1 ++ mapWaits a.2 r, putMapRec a.2 r)) ([], s)
  let gone := (gonePasids x.1).filter fun p => (pasidRec x.2 p).isNone
  let s := updCmd x.2 id fun k => { k with aux := x.1 }
  failEnts s (fun e => unstarted e && dHost e.desc && gone.contains (dPasid e.desc)) stXlateFault

/-- Whether a MEM_MAP has started, as one does at its acceptance unless ORDER holds it back. -/
def mapStarted (s : State) (id : Nat) : Bool := (findCmd s id).any fun c => hOpcode c.hdr = 0x0301 && c.phase = .started

/-- MEM_MAP (R431, R446, R448, R452, R454), its records in force since it was accepted: it ends once nothing holds what it removed or
changed. -/
def execMemMap (id : Nat) (s : State) : Res :=
  if mapStarted s id then .next (settleMaps s) else runCmd s id 0x0301 fun s _ _ => settleMaps s

end Sys2Proof.Machine
end

