-- ==== Sys2Proof/Machine/Digest.lean ====
section
/-! DEFINITION. Mirror digests: the digest of a unit, its exchange with the partner, and MIRROR_MISMATCH events
(15_onaux_fabric.md R552 to R556). -/

namespace Sys2Proof.Machine

/-- Whether the lease exchanges digests: mirror mode, with its mirror secret (R552, R605). -/
def mirrorKey (s : State) : Option (BitVec 256) := if leaseLive s && s.lease.mirror then s.lease.mirSecret else none

/-- A MIRROR_MISMATCH event on the lease's ring (R554, R555). -/
def mirrorEvent (s : State) (kind tag count lo pa qpn seqno : Nat) : State :=
  ringEvent s true ⟨0x000C, fuidOf s (uidOf .device), epochOf s .device, tag, count,
    lo * 2 ^ 128 + pa / 2 ^ 64 * 2 ^ 64 + qpn % 256 * 2 ^ 56 + seqno * 2 ^ 24 + kind * 2 ^ 20⟩

def setDigs (s : State) (l p : List DigestEnt) : State := { s with fab := { s.fab with digLocal := l, digPartner := p } }

/-- Makes room for one more unmatched digest: the 1,025th pushes the oldest out (R554). -/
def digestRoom (s : State) : State :=
  let l := s.fab.digLocal
  let p := s.fab.digPartner
  if l.length + p.length < 1024 then s
  else
    let old := (l ++ p).foldl (fun (a : Option DigestEnt) e => match a with
      | none => some e
      | some x => if e.at_ < x.at_ then some e else some x) none
    match old with
    | none => s
    | some e =>
      if l.contains e then mirrorEvent (setDigs s (l.erase e) p) 2 e.tag 1 e.digest.toNat 0 e.qpn e.seqno
      else mirrorEvent (setDigs s l (p.erase e)) 2 0 1 0 0 e.qpn e.seqno

/-- A local digest: compared with the partner's where it has come, else held (R554). -/
def digestLocal (s : State) (e : DigestEnt) : State :=
  match s.fab.digPartner.find? fun p => p.qpn = e.qpn && p.seqno = e.seqno with
  | some p =>
    let s := setDigs s s.fab.digLocal (s.fab.digPartner.erase p)
    if p.digest = e.digest then s else mirrorEvent s 0 e.tag 1 e.digest.toNat p.digest.toNat e.qpn e.seqno
  | none =>
    let s := digestRoom s
    setDigs s (s.fab.digLocal ++ [e]) s.fab.digPartner

/-- A partner's digest. -/
def digestPartner (s : State) (e : DigestEnt) : State :=
  match s.fab.digLocal.find? fun p => p.qpn = e.qpn && p.seqno = e.seqno with
  | some p =>
    let s := setDigs s (s.fab.digLocal.erase p) s.fab.digPartner
    if p.digest = e.digest then s else mirrorEvent s 0 p.tag 1 p.digest.toNat e.digest.toNat e.qpn e.seqno
  | none =>
    let s := digestRoom s
    setDigs s s.fab.digLocal (s.fab.digPartner ++ [e])

/-- The opcodes of digest units. -/
def digestOpcode (op : Nat) : Bool := op == 0x0401 || op == 0x0402 || op == 0x0302 || op == 0x0505

/-- Step output entries without what depends on timing: a missed deadline counts as ST_OK (R374, R377). -/
def timelessOut (bs : List Byte) : List Byte :=
  (List.range (bs.length / 16)).flatMap fun i =>
    let e := (bs.drop (16 * i)).take 16
    let st := fromLe ((e.drop 12).take 2)
    e.take 12 ++ leBytes 2 (if st = stDeadlineMissed then stOk else st) ++ e.drop 14

/-- The status of a command as it is digested: a missed deadline counts as ST_OK (R552). -/
def timelessStatus (c : CmdRec) : Nat := if c.status = stDeadlineMissed then stOk else c.status

/-- The DETAIL of a command without what depends on timing (R552): the manual names no bits; the model takes the unit that a timeout
finds at work (DESIGN CHOICE, log entry 133). -/
def timelessDetail (c : CmdRec) : Nat := if c.status = stTimeout then 0 else c.detail

/-- What the digest of a unit is taken over (R552). -/
def digestMessage (c : CmdRec) (qpn : Nat) : List Byte :=
  leBytes 2 (hOpcode c.hdr) ++ leBytes 1 qpn ++ leBytes 4 (hSeqno c.hdr)
    ++ leBytes 1 (timelessStatus c) ++ leBytes 4 (timelessDetail c)
    ++ (sortKeyed c.writes).flatMap (·.2) ++ timelessOut c.stepOut

/-- The digest of a unit the device completes, and its frame to the partner (R552 to R554). -/
def digestUnit (s : State) (c : CmdRec) : State :=
  match mirrorKey s, c.origin with
  | some k, .qp n =>
    if !digestOpcode (hOpcode c.hdr) then s
    else
      let g := mirrorDigest k (digestMessage c n)
      let s := sendBody s (idPartner s + (1 - plainOf s) * 2 ^ 15) 0 0 0 (.digest n (hSeqno c.hdr) g)
      digestLocal s ⟨n, hSeqno c.hdr, g, hTag c.hdr, now s⟩
  | _, _ => s

/-- DIGEST_MISSING_TIMEOUT (R554): no partner digest 1 s after the local unit completed. -/
def execDigestMissingTimeout (qpn seqno : Nat) (s : State) : Res :=
  match s.fab.digLocal.find? fun e => e.qpn = qpn && e.seqno = seqno with
  | none => .next s
  | some e =>
    if now s < e.at_ + 1000000000 then .next s
    else .next (mirrorEvent (setDigs s (s.fab.digLocal.erase e) s.fab.digPartner) 1 e.tag 1 e.digest.toNat 0 qpn seqno)

/-- XPORT leaves UP and UP2: one event that counts the units then unmatched (R554). -/
def mirrorLinkDown (s : State) : State :=
  let n := s.fab.digLocal.length + s.fab.digPartner.length
  if (mirrorKey s).isNone then s else mirrorEvent (setDigs s [] []) 3 0 n 0 0 0 0

end Sys2Proof.Machine
end

