-- ==== Sys2Proof/Machine/Pace.lean ====
section
/-! DEFINITION. The pace manager: canary samples, the certified pace floor and its records, VCORE, the power cap and
the thermal limits (02_self_timed_operation.md R52 to R63, R751, R752; 19_power_and_thermal.md R652 to R665; 18 R642). -/

namespace Sys2Proof.Machine

/-- VCORE of a profile, mV (R63). -/
def profileVcore : Nat → Nat
  | 0 => 780
  | 1 => 700
  | _ => 600

/-- The cap's trim floor of a profile, mV (R658). -/
def trimFloor : Nat → Nat
  | 0 => 700
  | 1 => 620
  | _ => 550

/-- The fallback floor of a profile, M steps/s (R57). -/
def fallbackFloor (p : Nat) : Nat := if p = 2 then 600 else 900

def dieOf (s : State) (d : Nat) : DiePace := vget s.dies .init d

def setDie (s : State) (d : Nat) (x : DiePace) : State := { s with dies := vset s.dies d x }

/-- A pace record (R61). -/
def paceRecord (floor pace profile : Nat) (fb breach : Bool) (lim sample : Nat) : BitVec 64 :=
  BitVec.ofNat 64 (floor % 4096 * 2 ^ 52 + pace % 4096 * 2 ^ 40 + profile * 2 ^ 38 + b2n fb * 2 ^ 37 + b2n breach * 2 ^ 36
    + lim * 2 ^ 35 + sample % 2 ^ 32)

/-! ### Canary lines (R53, R54) -/

/-- Inserts into an ascending list. -/
def insertAsc (x : Nat) : List Nat → List Nat
  | [] => [x]
  | y :: ys => if x ≤ y then x :: y :: ys else y :: insertAsc x ys

def sortAsc (xs : List Nat) : List Nat := xs.foldr insertAsc []

/-- Twice the median of implied paces (R53). -/
def median2 (xs : List Nat) : Nat :=
  let ys := sortAsc xs
  let n := ys.length
  if n % 2 = 1 then 2 * ys.getD (n / 2) 0 else ys.getD (n / 2 - 1) 0 + ys.getD (n / 2) 0

/-- Whether a line's implied pace, in thousands of steps per second, lies in range (R53). -/
def inPaceRange (x : Nat) : Bool := 500000 ≤ x && x ≤ 2000000

/-- Whether an implied pace differs from a median by more than 15 % of it. -/
def deviates (m2 x : Nat) : Bool := (if 2 * x ≥ m2 then 2 * x - m2 else m2 - 2 * x) * 100 > 15 * m2

/-- The lines a sample newly excludes (R53). -/
def newExclusions (excluded : BitVec 64) (implied : List Nat) : List Nat :=
  let valid := (List.range 64).filter fun i => !excluded.toNat.testBit i
  let inR := valid.filter fun i => inPaceRange (implied.getD i 0)
  let m2 := median2 (inR.map fun i => implied.getD i 0)
  valid.filter fun i => !inPaceRange (implied.getD i 0) || deviates m2 (implied.getD i 0)

/-- The mask of a list of lines. -/
def maskOf (xs : List Nat) : BitVec 64 := xs.foldl (fun a i => a ||| BitVec.ofNat 64 (2 ^ i)) 0

/-- The floor, the median pace in M steps/s and FALLBACK of a die from its valid lines (R54, R57). The median pace is rounded
down, as R54 rounds the floor (DESIGN CHOICE, log entry 105). -/
def dieFigures (excluded : BitVec 64) (profile : Nat) (implied : List Nat) : Nat × Nat × Bool :=
  let valid := ((List.range 64).filter fun i => !excluded.toNat.testBit i).map fun i => implied.getD i 0
  let pace := median2 valid / 2000
  if 64 - valid.length > 8 then (fallbackFloor profile, pace, true)
  else
    let lo := valid.foldl min (valid.headD 0)
    (lo * 96 / 100000, pace, false)

/-! ### VCORE, the power cap and the temperature (R657 to R662) -/

/-- Derating acts while the die is in its excursion, and while what it took is not yet given back (R659, R662; DESIGN CHOICE, log entry
105). -/
def derates (x : DiePace) : Bool := x.derating || x.derate > 0

/-- The VCORE target of a die (R659). -/
def vcoreTarget (x : DiePace) (margin : Nat) : Nat :=
  let vp := profileVcore x.profile
  let cap := max (vp - x.trim) (trimFloor x.profile)
  let th := max (vp - x.derate) 550
  let base := min cap th
  min 850 (if derates x then base else base + min 20 margin)

/-- Moves VCORE one sample toward its target: a fall only as fast as R59 allows. -/
def moveVcore (v target fall : Nat) : Nat := if target < v then max target (v - fall) else target

/-- The cap's trim after a sample of the 1 ms average (R657, R658). -/
def newTrim (pcap pavg fall rise : Nat) (x : DiePace) : Nat :=
  let most := profileVcore x.profile - trimFloor x.profile
  if pavg > pcap then min most (x.trim + fall)
  else if pavg * 100 < pcap * 97 then x.trim - rise
  else min most x.trim

/-- A die's thermal state after a sample (R662). -/
def newThermal (l : Limits) (tj : Int) (fall rise : Nat) (x : DiePace) : DiePace :=
  let most := profileVcore x.profile - 550
  let derating := if tj ≥ (l.tjderate : Int) then true
    else if tj < (l.tjderate : Int) - (l.tjhyst : Int) then false else x.derating
  let derate := if tj ≥ (l.tjderate : Int) then min most (x.derate + fall)
    else if tj < (l.tjderate : Int) - (l.tjhyst : Int) then x.derate - rise
    else min most x.derate
  { x with derating := derating, derate := derate, tj := tj }

/-- One die's part of a canary sample; the figures the record will carry are returned with the state. -/
def sampleDie (s : State) (d : Nat) (implied : List Nat) (temps : List Int) (pavg instant : Nat) :
    State × Nat × Nat × Bool :=
  let x := dieOf s d
  let out := newExclusions x.excluded implied
  let x := { x with excluded := x.excluded ||| maskOf out }
  let f := dieFigures x.excluded x.profile implied
  let tj := temps.foldl max (temps.headD 0)
  let fall := Config.vcoreFall instant
  let rise := Config.vcoreRise instant
  let x := { x with trim := newTrim s.limits.pcap pavg fall rise x }
  let high := decide (tj ≥ 105)
  let x := newThermal s.limits tj fall rise x
  let target := vcoreTarget x (Config.holdMargin instant)
  let x := { x with vcore := moveVcore x.vcore target fall }
  let x := { x with changing := if x.vcore = target then x.changing.filter fun id => (waiting s id 0x0102).isSome else x.changing }
  let first := high && !x.tjHigh
  let x := { x with tjHigh := high }
  let s := setDie s d x
  let s := out.foldl (fun s i => faultUnit s (.die (fin 2 d)) 0x0006 0 (uidOf (.die (fin 2 d))) 0 i) s
  let s := if first then faultUnit s (.die (fin 2 d)) 0x000E 0 (uidOf (.die (fin 2 d))) 0 tj.toNat else s
  (s, f)

/-- Completes the MGMT_SET_PROFILE commands whose dies have reached their VCORE (R653). -/
def endProfileChanges (before s : State) : State :=
  ([0, 1].filterMap fun d => (dieOf before d).changing).eraseDups.foldl (fun s id =>
    if [0, 1].any fun d => (dieOf s d).changing = some id then s else finishCmd s id stOk 0) s

/-- Closes a 100 ms window where a sample lies in a later one (R665, R709). -/
def closeWindow (p : PaceSt) (instant : Nat) : PaceSt :=
  let w := instant / 100000000
  let last := match p.lastSample with | some t => t / 100000000 | none => w
  if w = last then p
  else { p with pwin := if p.winN = 0 then 0 else p.winSum / p.winN, tjwin := p.winTj, winStamp := w * 1000 % 2 ^ 32
                winSum := 0, winN := 0, winTj := 0, winRecord := p.record }

/-- A sample's power and temperatures taken into the averages and the running window, and the pace records of a window that
closes kept (R657, R665, R709). -/
def takeSample (s : State) (m : SampleIn) (instant : Nat) : State :=
  let p := closeWindow s.pace instant
  let hist := (m.power :: p.pHist).take 10
  let tj := (m.temps0 ++ m.temps1).foldl max ((m.temps0 ++ m.temps1).headD 0)
  let closed := match s.pace.lastSample with | some t => t / 100000000 != instant / 100000000 | none => false
  { s with
    pace := { p with pHist := hist, pavg := hist.foldl (· + ·) 0 / hist.length, winSum := p.winSum + m.power, winN := p.winN + 1
                     winTj := if p.winN = 0 then tj else max p.winTj tj, lastSample := some instant }
    dies := if closed then s.dies.map fun x => { x with winRecord := x.record } else s.dies }

/-- The cap's state after a sample, the sample kept for publication, and a cap that no trim meets reported once a second
(R55, R658, R665). -/
def noteCap (s : State) (x : PaceSample) : State :=
  let pavg := s.pace.pavg
  let atFloor := fun d => let x := dieOf s d; x.trim ≥ profileVcore x.profile - trimFloor x.profile
  let unmet := pavg > s.limits.pcap && (atFloor 0 || atFloor 1)
  let told := match s.pace.unmetAt with | some t => decide (now s < t + 1000000000) | none => false
  let s := { s with pace := { s.pace with
    cap := (dieOf s 0).trim > 0 || (dieOf s 1).trim > 0
    unmet := unmet
    unmetAt := if unmet && !told then some (now s) else s.pace.unmetAt
    sample := some x } }
  if unmet && !told then faultUnit s .device 0x000D 0 (uidOf .device) 0 pavg else s

/-- CANARY_SAMPLE (R52, R53, R657, R661): at each timebase multiple of 100 us, once. -/
def execCanarySample (m : SampleIn) (s : State) : Res :=
  let instant := now s / 100000 * 100000
  if !s.tb.locked || s.pace.lastSample = some instant then .next s
  else
    let t := takeSample s m instant
    let (a, f0, p0, b0) := sampleDie t 0 m.implied0 m.temps0 t.pace.pavg instant
    let (b, f1, p1, b1) := sampleDie a 1 m.implied1 m.temps1 t.pace.pavg instant
    .next (endProfileChanges s (noteCap b { instant := instant, profile0 := (dieOf s 0).profile, profile1 := (dieOf s 1).profile
                                            skip0 := false, skip1 := false, floor0 := f0, floor1 := f1, pace0 := p0, pace1 := p1
                                            fb0 := b0, fb1 := b1 }))

/-! ### Publication (R55, R57, R58, R60, R61, R751, R752) -/

/-- A die's part of a publication, with the profile of the sample (R61). The first sample after the start of a reset ends the
wait of R752, whether or not the die still resets (DESIGN CHOICE, log entry 105). -/
def publishDie (x : DiePace) (floor pace profile : Nat) (fb : Bool) (lim sample : Nat) : DiePace :=
  let breach := decide (x.record ≠ 0 ∧ floor + 3 < x.floor)
  { x with floor := floor, pace := pace, fallback := fb, breach := breach, awaiting := false
           record := paceRecord floor pace profile fb breach lim sample }

/-- A die's part of the publication of a sample: none where it has begun a reset since the sample, whose record stands until
the next (R55, R752). -/
def publishOf (x : DiePace) (m : PaceSample) (d : Nat) : DiePace :=
  if d = 0 then (if m.skip0 then x else publishDie x m.floor0 m.pace0 m.profile0 m.fb0 0 (m.instant / 100000))
  else if m.skip1 then x else publishDie x m.floor1 m.pace1 m.profile1 m.fb1 1 (m.instant / 100000)

/-- PROFILE of a die's record. -/
def recordProfile (x : DiePace) : Nat := bits x.record.toNat 39 38

/-- The device form of the record from the two dies (R751). -/
def deviceRecord (a b : DiePace) (breach : Bool) (sample : Nat) : BitVec 64 :=
  let lim := if b.floor < a.floor then 1 else 0
  paceRecord (min a.floor b.floor) (min a.pace b.pace) (recordProfile (if lim = 1 then b else a))
    (a.fallback || b.fallback) breach lim sample

/-- FLOOR of the record in force. -/
def paceFloor (s : State) : Nat := bits s.pace.record.toNat 63 52

/-- PACE_PUBLISH (R55): 2 us after the sample. -/
def execPacePublish (s : State) : Res :=
  match s.pace.sample with
  | none => .next s
  | some m =>
    if now s < m.instant + 2000 then .next s
    else
      let a := publishOf (dieOf s 0) m 0
      let b := publishOf (dieOf s 1) m 1
      let breach := s.pace.published && min a.floor b.floor + 3 < paceFloor s
      let r := deviceRecord a b breach (m.instant / 100000)
      let s := setDie (setDie s 0 a) 1 b
      let s := { s with pace := { s.pace with record := r, published := true, sample := none
                                              breachSeen := s.pace.breachSeen || breach || a.fallback || b.fallback } }
      .next (if breach then faultUnit s .device 0x0007 0 (uidOf .device) 0 r.toNat else s)

/-- The publication at the start of a reset of dies (R752): fallback floors, no breach; PACE stays the last median (DESIGN
CHOICE, log entry 105). A sample not yet published is published for the dies that are not reset (R55). -/
def paceDieReset (s : State) (ds : List Nat) : State :=
  let smp := now s / 100000
  let s := ds.foldl (fun s d =>
    let x := dieOf s d
    let f := fallbackFloor x.profile
    setDie s d { x with excluded := 0, floor := f, fallback := true, breach := false, awaiting := true
                        record := paceRecord f x.pace x.profile true false d smp }) s
  { s with pace := { s.pace with
      record := deviceRecord { dieOf s 0 with fallback := true } (dieOf s 1) false smp
      sample := (s.pace.sample.map fun m =>
          { m with skip0 := m.skip0 || ds.contains 0, skip1 := m.skip1 || ds.contains 1 }).filter fun m => !(m.skip0 && m.skip1)
      published := true, breachSeen := true } }

/-! ### Profiles and limits (R652 to R656, R642) -/

/-- A die under a profile, its trim and derating kept within the profile's room. -/
def inProfile (x : DiePace) (p : Nat) : DiePace :=
  { x with profile := p, trim := min x.trim (profileVcore p - trimFloor p), derate := min x.derate (profileVcore p - 550) }

/-- The VCORE target of a die under a profile at this instant (R659). -/
def profileTarget (s : State) (d p : Nat) : Nat :=
  vcoreTarget (inProfile (dieOf s d) p) (Config.holdMargin (now s / 100000 * 100000))

/-- Gives a die a profile: a rise of VCORE to its target is at once, a fall follows the samples (R653). -/
def setProfile (s : State) (d p : Nat) : State :=
  let x := inProfile (dieOf s d) p
  setDie s d { x with vcore := max x.vcore (profileTarget s d p) }

/-- Step 7 of MGMT_SET_PROFILE: the profile lies in PROFOK, the rest is reserved (R490, R653). -/
def checkSetProfile (s : State) (ps : List (BitVec 512)) : List Nat :=
  let p := paramNat ps
  let v := bits p 511 510
  chk (v ≤ 2 && s.limits.profok.toNat.testBit v) (512 + 510) ++ rsvBad p [(509, 0)]

/-- A pace record with PROFILE changed; a die that has published none keeps none. -/
def withProfile (r : BitVec 64) (p : Nat) : BitVec 64 :=
  if r = 0 then 0 else BitVec.ofNat 64 (r.toNat - bits r.toNat 39 38 * 2 ^ 38 + p * 2 ^ 38)

/-- The dies of a MGMT_SET_PROFILE. -/
def profileDies (u : PUnit) : List Nat := match u with | .die d => [d.val] | _ => [0, 1]

/-- The acceptance of a MGMT_SET_PROFILE (R653): the dies take the profile and their records show it, unless a change of one of them
still runs. -/
def acceptProfile (s : State) (id : Nat) (ps : List (BitVec 512)) (u : PUnit) : State :=
  let v := bits (paramNat ps) 511 510
  let ds := profileDies u
  if ds.any fun d => (dieOf s d).changing.isSome then s
  else
    let s := ds.foldl (fun s d =>
      let s := setProfile s d v
      setDie s d { dieOf s d with changing := some id, record := withProfile (dieOf s d).record v }) s
    let lim := if bit s.pace.record.toNat 35 then 1 else 0
    if ds.contains lim then { s with pace := { s.pace with record := withProfile s.pace.record v } } else s

/-- Whether a change other than this command's runs on a die. -/
def otherChange (s : State) (id d : Nat) : Bool := (dieOf s d).changing.any fun k => k ≠ id

/-- MGMT_SET_PROFILE (R653), its profile in force since it was accepted: it completes when VCORE has reached its target. -/
def execMgmtSetProfile (id : Nat) (s : State) : Res :=
  runCmd s id 0x0102 fun s c u =>
    let v := bits (paramNat c.params) 511 510
    let ds := profileDies u
    match ds.find? (otherChange s id) with
    | some d => finishCmd s id stNotReady (uidOf (.die (fin 2 d)))
    | none =>
      let falls := ds.filter fun d => profileTarget s d v < (dieOf s d).vcore
      let s := ds.foldl (fun s d =>
        let s := setProfile s d v
        setDie s d { dieOf s d with changing := if falls.contains d then some id else none }) s
      if falls.isEmpty then finishCmd s id stOk 0 else s

/-- A field of the limits record: its value, or the one in force where it is 0. -/
def limField (p hi lo old : Nat) : Nat := if bits p hi lo = 0 then old else bits p hi lo

/-- The record that a limits block results in; new PROFOK and DEFPROF stand in the `next` fields (R654, R656). -/
def mergeLimits (l : Limits) (p : Nat) : Limits :=
  let pk := BitVec.ofNat 3 (limField p 495 493 l.nextProfok.toNat)
  let dp := if bits p 492 491 = 0 then l.nextDefprof else bits p 492 491 - 1
  { l with
    pcap := limField p 511 496 l.pcap, nextProfok := pk, nextDefprof := dp
    tjderate := limField p 490 483 l.tjderate, tjhyst := limField p 482 479 l.tjhyst
    cdoze := limField p 478 463 l.cdoze, kdoze := limField p 462 447 l.kdoze
    stkdoze := limField p 446 445 l.stkdoze, scrubh := limField p 444 438 l.scrubh
    ucount := limField p 127 124 l.ucount, uwin := limField p 123 112 l.uwin
    dcount := limField p 111 104 l.dcount, dwin := limField p 103 72 l.dwin }

/-- A field is 0 or in range. -/
def limOk (p hi lo a b : Nat) : Bool := bits p hi lo = 0 || (a ≤ bits p hi lo && bits p hi lo ≤ b)

/-- Step 7 of MGMT_SET_LIMITS (R642, R654, R655). -/
def checkSetLimits (s : State) (ps : List (BitVec 512)) : List Nat :=
  let p := paramNat ps
  let n := mergeLimits s.limits p
  chk (limOk p 511 496 800 1200) (512 + 496) ++ chk (limOk p 490 483 85 104) (512 + 483)
    ++ chk (limOk p 482 479 1 10) (512 + 479) ++ chk (limOk p 478 463 1 1000) (512 + 463)
    ++ chk (limOk p 462 447 5 10000) (512 + 447) ++ chk (limOk p 446 445 1 2) (512 + 445)
    ++ chk (limOk p 444 438 4 72) (512 + 438) ++ chk (limOk p 127 124 1 15) (512 + 124)
    ++ chk (limOk p 123 112 1 3600) (512 + 112) ++ chk (limOk p 111 104 4 255) (512 + 104)
    ++ chk (limOk p 103 72 60 86400) (512 + 72) ++ rsvBad p [(437, 128), (71, 0)]
    ++ chk (n.nextProfok.toNat.testBit n.nextDefprof) (512 + 491)
    ++ chk (!(n.nextProfok.toNat.testBit 0 && n.pcap < 1150)) 0xFFFF

/-- MGMT_SET_LIMITS (R642, R654 to R656): kept in flash; PROFOK and DEFPROF wait for the next LEASE_OPEN while a lease
is open. -/
def execMgmtSetLimits (id : Nat) (s : State) : Res :=
  runCmd s id 0x0101 fun s c _ =>
    let n := mergeLimits s.limits (paramNat c.params)
    let kept := { n with profok := n.nextProfok, defprof := n.nextDefprof }
    let s := { s with limits := if s.lease.openL then n else kept, sec := { s.sec with flashLimits := kept } }
    finishCmd s id stOk 0

/-! ### Records read by software (R665) -/

/-- The power status record (R665); `full` off gives the filtered form. -/
def powerStatus (s : State) (full : Bool) : Nat :=
  let a := dieOf s 0
  let b := dieOf s 1
  let win := s.pace.pwin % 2 ^ 16 * 2 ^ 96 + min s.pace.tjwin.toNat 255 * 2 ^ 80 + s.pace.winStamp % 2 ^ 32
  if !full then win
  else
    let below := fun x : DiePace => min 255 (profileVcore x.profile - x.vcore)
    win + s.pace.pavg % 2 ^ 16 * 2 ^ 112 + min (max a.tj b.tj).toNat 255 * 2 ^ 88 + below a * 2 ^ 72 + below b * 2 ^ 64
      + b2n s.pace.cap * 2 ^ 63 + b2n s.pace.unmet * 2 ^ 62 + b2n (derates a) * 2 ^ 61 + b2n (derates b) * 2 ^ 60

/-- THERMAL_TRIP (R664): THERM_TRIP_N and FAULT_N are asserted, every engine halts and outbound transfers stop. -/
def execThermalTrip (d : Fin 2) (sensor : Nat) (s : State) : Res :=
  if s.rst.porAt.isNone then .next s
  else
    let s := { s with rst := { s.rst with tripped := true } }
    let s := emit (emit s (.pin "THERM_TRIP_N" false)) (.pin "FAULT_N" false)
    .next (faultUnit s (.die d) 0x000F 0 (uidOf (.die d)) 0 sensor)

end Sys2Proof.Machine
end

