-- ==== Sys2Proof/Machine/SeqBase.lean ====
section
/-! DEFINITION. The sequence engine's records and rules that its commands share: the context record, deadlines,
predictions, admission, the order of commands on one context, pages opened for writing, prefix lookup and publication,
drafts and commits (11_sequence_engine.md R353 to R364, R378 to R390). -/

namespace Sys2Proof.Machine

/-! ### Context records (R356, R362) -/

/-- States of a context. -/
def csIdle : Nat := 0
def csPrefill : Nat := 1
def csDecode : Nat := 2
def csSpec : Nat := 3
def csSuspended : Nat := 4
def csEvicted : Nat := 5
def csDamaged : Nat := 6

/-- The deadline of a context, 0 for none (R362). -/
def ctxDeadline (r : CtxRec) : Nat :=
  if r.state = csDecode ∨ r.state = csSpec then r.nextStamp + r.latns
  else if r.state = csPrefill ∧ r.pfns ≠ 0 then r.pfStamp + r.pfns
  else 0

/-- The 512 bits of a context record; 0 for a context that is not allocated (R356). -/
def ctxRecordBits (s : State) (c : Nat) : Nat :=
  match getCtx s c with
  | none => 0
  | some r =>
    c * 2 ^ 502 + r.state * 2 ^ 499 + r.vmode * 2 ^ 497 + b2n r.recover * 2 ^ 496 + b2n r.apub * 2 ^ 495 + r.sgrp * 2 ^ 483
      + r.drmax * 2 ^ 476 + r.latns * 2 ^ 432 + r.pfns * 2 ^ 400 + r.pquota * 2 ^ 374 + r.atquota * 2 ^ 352
      + ctxDeadline r % 2 ^ 64 * 2 ^ 256 + r.len * 2 ^ 224 + r.pend * 2 ^ 192 + r.frames * 2 ^ 166 + r.nextTok * 2 ^ 128
      + r.misses * 2 ^ 96 + r.dnodes * 2 ^ 89 + r.lastStep % 2 ^ 64

/-- A context in the admitted set (R364). -/
def admitted (r : CtxRec) : Bool := r.state = csPrefill || r.state = csDecode || r.state = csSpec

/-- Whether the step in flight includes a context: until the step ends, on a lead with the last of its followers (R358). -/
def inStep (s : State) (c : Nat) : Bool :=
  match s.seq.step with
  | some r => r.plan.any fun e => e.ctx = c
  | none => false

/-! ### Prediction (R363, 02_self_timed_operation.md R62) -/

/-- The bound on the time of some array work from a floor in M steps/s, in ns; none where the window floor runs out. -/
def windowFrom (fuel work f0 t : Nat) : Option Nat :=
  match fuel with
  | 0 => none
  | k + 1 =>
    let d := 3 * ceilDiv t 100000
    if f0 ≤ d then none
    else
      let u := work * 1000 / (f0 - d)
      if u ≤ t then some t else windowFrom k work f0 u

def windowBound (work f0 : Nat) : Option Nat := if f0 = 0 then none else windowFrom 4097 work f0 (work * 1000 / f0)

/-- The work of some contexts in a step (R363): decode tokens, prefill tokens, draft nodes, query-page-layers, page-layers
read. -/
structure Work where
  dec : Nat
  pf : Nat
  dr : Nat
  att : Nat
  rd : Nat
  deriving DecidableEq, Repr

def Work.zero : Work := ⟨0, 0, 0, 0, 0⟩
def Work.add (a b : Work) : Work := ⟨a.dec + b.dec, a.pf + b.pf, a.dr + b.dr, a.att + b.att, a.rd + b.rd⟩
def workTokens (w : Work) : Nat := w.dec + w.pf + w.dr

/-- Array steps of some work without the step's fixed part. -/
def workSteps (c : BitVec 1024) (w : Work) : Nat :=
  w.dec * cDecst c + w.pf * cPfst c + w.dr * cDrst c + (w.att * cKvmst c + 999) / 1000

/-- The predicted duration of a step; none where no bound holds (R363). -/
def predict (c : BitVec 1024) (w : Work) (f cf : Nat) : Option Nat :=
  (windowBound (cFixst c + workSteps c w) f).map fun fab =>
    let mem := cFixns c + (w.rd * cPgps c + 999) / 1000
    let link := (workTokens w * cLinkps c + 999) / 1000
    cTailns c + cRplns c + max fab (max mem link) * cf / 1024

/-- Whether some work is within an array-time quota (R356, R364). -/
def withinAt (c : BitVec 1024) (r : CtxRec) (w : Work) : Bool := workSteps c w ≤ r.atquota * 1024

/-! ### Admission (R364) -/

/-- A context's part of the worst decode step. -/
def worstWork (g : BitVec 256) (r : CtxRec) : Work :=
  let pages := r.pquota / gLayers g - (if r.drmax > 0 then 1 else 0)
  ⟨1, 0, r.drmax, (1 + r.drmax) * pages * gLayers g, pages * gLayers g⟩

/-- The admission floor. -/
def admissionFloor (s : State) : Nat := 
  min (paceFloor s) (if (s.dies.toList.any fun (d : DiePace) => d.profile = 2) then 700 else 1050)

/-- The records of the admitted set with a candidate; a SEQ_PREFILL that is prepared has its admission reserved (R508). -/
def admitSet (s : State) (cand : Nat) (r : CtxRec) : List CtxRec :=
  let asked := fun ctx => s.cmd.prepared.any fun p => hOpcode p.hdr = 0x0504 && hCtx p.hdr = ctx
  r :: (s.seq.ctxs.filterMap fun e => match e.2 with
    | some x => if e.1 ≠ cand && (admitted x || asked e.1) then some x else none
    | none => none)

/-- Whether a candidate is admitted (R364); mirror mode checks quotas and the budget alone (R374). -/
def admits (s : State) (g : BitVec 256) (c : BitVec 1024) (cand : Nat) (r : CtxRec) : Bool :=
  let rs := admitSet s cand r
  let w := rs.foldl (fun a x => a.add (worstWork g x)) Work.zero
  let lat := rs.foldl (fun a x => min a x.latns) r.latns
  (rs.map fun x => 1 + x.drmax).foldl (· + ·) 0 ≤ cBudget c && (rs.all fun x => withinAt c x (worstWork g x))
    && (cMirror c || match predict c w (admissionFloor s) s.seq.cf with
      | some t => decide (t ≤ lat)
      | none => false)

/-! ### Order of commands (R358) -/

/-- The command a part belongs to in the end. -/
def topId (fuel : Nat) (s : State) (c : CmdRec) : Nat :=
  match fuel with
  | 0 => c.id
  | f + 1 => match c.origin with
    | .sub p _ => match findCmd s p with
      | some k => topId f s k
      | none => c.id
    | _ => c.id

/-- A command of the sequence engine that has yet to take effect; one sent out to a group acts through its parts, those sent on to
other devices among them. -/
def seqOpen (d : CmdRec) : Bool :=
  hOpcode d.hdr / 256 = 5 && match d.phase with
    | .accepted => true
    | .forwarded => true
    | .started => (match d.target with | .group _ => atomicOpcode (hOpcode d.hdr) && d.decided.isNone | _ => true)
    | _ => false

/-- The context that a prepared command holds (R509). -/
def prepCtx (p : PrepRec) : Option Nat := if hOpcode p.hdr / 256 = 5 then some (hCtx p.hdr) else none

def heldCtx (s : State) (c : Nat) : Bool := s.cmd.prepared.any fun p => prepCtx p = some c

/-- Whether a sequence command's turn has come: no earlier command on its contexts is open or prepared, and the step in
flight includes none of them. SEQ_STEP waits for every earlier one, for what is prepared but in doubt, and for the step in
flight (R358, R512). -/
def seqTurn (s : State) (c : CmdRec) (ctxs : List Nat) (step : Bool) : Bool :=
  let key := topId 5 s c
  let earlier := s.cmd.inflight.filter fun d => d.id ≠ c.id && seqOpen d && decide (topId 5 s d < key)
  if step then earlier.isEmpty && s.seq.step.isNone && !(s.cmd.prepared.any fun p => (prepCtx p).isSome && !p.inDoubt)
  else (earlier.all fun d => hOpcode d.hdr = 0x0505 || d.phase = .forwarded || !ctxs.contains (hCtx d.hdr))
    && !(ctxs.any fun k => inStep s k || heldCtx s k)

/-! ### Pages opened for writing (R320, R337) -/

/-- Whether a write to a page of a layer takes a frame: it is not VALID, or it is shared (R337). -/
def pageTakes (s : State) (g : BitVec 256) (c l p : Nat) : Bool :=
  let x := readPte s g c l (some p)
  pteState x ≠ 1 || pteShared x

/-- Frames that writes to positions `a` to `b - 1` take, and those of them that are charged anew (R359). -/
def writeFrames (s : State) (g : BitVec 256) (c a b : Nat) : Nat × Nat :=
  let ps := if a < b then (List.range ((b - 1) / 64 + 1 - a / 64)).map (a / 64 + ·) else []
  let lp := (List.range (gLayers g)).flatMap fun l => ps.map fun p => (l, p)
  ((lp.filter fun x => pageTakes s g c x.1 x.2).length,
    (lp.filter fun x => pteState (readPte s g c x.1 (some x.2)) ≠ 1).length)

/-- Copies the first `n` slots of every block of a frame into another (R337). -/
def copySlots (s : State) (g : BitVec 256) (src dst n : Nat) : State :=
  (List.range (2 * gHkv g)).foldl (fun s h =>
    writeBytes s (frameAt g dst + h * blockBytes g) (readBytes s (frameAt g src + h * blockBytes g) (n * kvVecBytes g))) s

/-- Ranges that copy on append reads: the slots below one, in every block of the shared frame (R337). -/
def slotRanges (g : BitVec 256) (f n : Nat) : List Rng :=
  if n = 0 then [] else (List.range (2 * gHkv g)).map fun h => ⟨frameAt g f + h * blockBytes g, n * kvVecBytes g⟩

/-- Makes a page of a layer one that its context owns: a new page, or a copy of a shared one's slots below `n` (R320, R337). Whether it
could be, and the state reached. -/
def openPage (s : State) (g : BitVec 256) (c l p n : Nat) : Bool × State :=
  let x := readPte s g c l (some p)
  if pteState x = 1 && !pteShared x then (true, s)
  else match allocFrame s g c with
    | (none, s) => (false, s)
    | (some f, s) =>
      let v := frVer (getFrame s g f)
      if pteState x = 1 then
        let s := copySlots s g (pteFrame x) f n
        (true, dropRef (writePte s g c l (some p) (mkPte 1 false v 0 f)) g (pteFrame x))
      else (true, charge (writePte s g c l (some p) (mkPte 1 false v 0 f)) c 1)

/-- How the copy of a shared page's slots below `n` of a layer fails: the page is marked POISONED, or it cannot be read (R323, R325,
R337). -/
def openFail (s : State) (g : BitVec 256) (c l p n : Nat) : Option AttnFail :=
  let x := readPte s g c l (some p)
  if pteState x = 1 && pteShared x && n ≠ 0 then
    if ptePoisoned x then some ⟨stPoisoned, some 0, pteFrame x, none⟩
    else readFail s c (pteVer x) (pteFrame x) (slotRanges g (pteFrame x) n)
  else none

/-- The demand reads of those copies. -/
def demandCopies (s : State) (g : BitVec 256) (c p n : Nat) : State :=
  (List.range (gLayers g)).foldl (fun s l =>
    let x := readPte s g c l (some p)
    if pteState x = 1 && pteShared x then demandAll s (slotRanges g (pteFrame x) n) else s) s

/-- Opens the pages of positions `a` to `b - 1` in every layer. -/
def openPages (s : State) (g : BitVec 256) (c a b : Nat) : Bool × State :=
  let ps := if a < b then (List.range ((b - 1) / 64 + 1 - a / 64)).map (a / 64 + ·) else []
  ((List.range (gLayers g)).flatMap fun l => ps.map fun p => (l, p)).foldl
    (fun (o : Bool × State) x => if o.1 then openPage o.2 g c x.1 x.2 (if x.2 = a / 64 then a % 64 else 0) else o) (true, s)

/-- Writes tokens to a context's log from a position (R355). -/
def writeLog (s : State) (g : BitVec 256) (c : BitVec 1024) (ctx pos : Nat) (toks : List Nat) : State :=
  writeBytes s (logAddr g c ctx pos) (toks.flatMap (leBytes 4))

def readLog (s : State) (g : BitVec 256) (c : BitVec 1024) (ctx pos n : Nat) : List Nat :=
  (List.range n).map fun i => readNat s (logAddr g c ctx (pos + i)) 4

/-! ### Prefix lookup (R380) -/

/-- The nodes that a prompt's blocks hit, in order, from block `b` on. -/
def hitsFrom (fuel : Nat) (s : State) (g : BitVec 256) (c : BitVec 1024) (ctx sgrp b : Nat) (pkey : Nat) (parent : Option Nat) :
    List Nat :=
  match fuel with
  | 0 => []
  | k + 1 =>
    let toks := readLog s g c ctx (64 * b) 64
    let key := blockKey s c pkey toks
    match if anyPoison s (logAddr g c ctx (64 * b)) 256 then none else lookupBlock s g c key pkey sgrp parent toks with
    | none => []
    | some n => n :: hitsFrom k s g c ctx sgrp (b + 1) key (some n)

/-- The nodes that the blocks of a prompt of `len` tokens hit. -/
def prefixHits (s : State) (g : BitVec 256) (c : BitVec 1024) (ctx sgrp len : Nat) : List Nat :=
  if sgrp = 0 || len = 0 then [] else hitsFrom ((len - 1) / 64) s g c ctx sgrp 0 0 none

/-- Frames that the blocks of some hits would add to a context: one for each entry that is not VALID (R359). -/
def hitFrames (s : State) (g : BitVec 256) (ctx hits : Nat) : Nat :=
  ((List.range (gLayers g)).flatMap fun l => (List.range hits).filter fun p => pteState (readPte s g ctx l (some p)) ≠ 1).length

/-- Marks a node used in the last step (R379). -/
def touchNode (s : State) (g : BitVec 256) (c : BitVec 1024) (n : Nat) : State :=
  let h := nodeHdr s g c n
  writeNat s (nodeAt g c n) 64 (h - nLastuse h * 2 ^ 264 + s.seq.stepNo % 2 ^ 64 * 2 ^ 264)

/-- Points a page of a layer at a shared frame, one reference more; what the entry held is given up. -/
def shareInto (s : State) (g : BitVec 256) (ctx l p f sgrp : Nat) : State :=
  let x := readPte s g ctx l (some p)
  if pteState x = 1 && pteFrame x = f then s
  else
    let s := setFrame s g f (getFrame s g f + 2 ^ 4)
    let s := writePte s g ctx l (some p) (mkPte 1 true (frVer (getFrame s g f)) sgrp f)
    if pteState x = 1 then releasePte s g x else charge s ctx 1

/-- Gives a context the blocks of some nodes, from block 0 (R380). -/
def takeHits (s : State) (g : BitVec 256) (c : BitVec 1024) (ctx sgrp : Nat) (ns : List Nat) : State :=
  let s := ns.zipIdx.foldl (fun s nb =>
    let s := (nodeFrames s g c nb.1).zipIdx.foldl (fun s fl => shareInto s g ctx fl.2 nb.2 fl.1 sgrp) s
    touchNode s g c nb.1) s
  updCtx s ctx fun r => { r with len := r.len + 64 * ns.length, pend := r.pend - 64 * ns.length }

/-- Whether a word of a context's token log is poisoned (R392, R393). -/
def logPoison (s : State) (g : BitVec 256) (c : BitVec 1024) (ctx : Nat) : Bool := anyPoison s (logAddr g c ctx 0) (256 * gMaxpg g)

/-- Whether some positions of a context's token log lie on a lost channel, where no write succeeds (R413). -/
def logLost (s : State) (g : BitVec 256) (c : BitVec 1024) (ctx pos n : Nat) : Bool := channelsLost s [⟨logAddr g c ctx pos, 4 * n⟩]

/-! ### Publication (R382) -/

/-- The lowest free node, leaf nodes evicted where none is (R382, R383). -/
def freeNode (s : State) (g : BitVec 256) (c : BitVec 1024) : Option (Nat × State) :=
  match (List.range (cNnodes c)).find? fun n => !nodeUsed s g c n with
  | some n => some (n, s)
  | none => match evictLeaf s g c with
    | none => none
    | some s => ((List.range (cNnodes c)).find? fun n => !nodeUsed s g c n).map fun n => (n, s)

/-- Makes the frame of a page shared with one reference for a node: the frame, if it could be, and the state reached. -/
def publishPage (s : State) (g : BitVec 256) (ctx sgrp p l : Nat) : Option Nat × State :=
  let x := readPte s g ctx l (some p)
  if pteShared x then
    (some (pteFrame x), setFrame s g (pteFrame x) (getFrame s g (pteFrame x) + 2 ^ 4))
  else match publishFrame s g ctx (pteFrame x) sgrp 2 with
    | (none, s) => (none, s)
    | (some (f, v), s) => (some f, writePte s g ctx l (some p) (mkPte 1 true v sgrp f))

/-- The frames of a block's pages, made shared in layer order until one cannot be, and the state reached. -/
def publishPages (s : State) (g : BitVec 256) (ctx sgrp b : Nat) : Option (List Nat) × State :=
  (List.range (gLayers g)).foldl (fun (o : Option (List Nat) × State) l =>
    match o.1 with
    | none => o
    | some fs =>
      let y := publishPage o.2 g ctx sgrp b l
      (y.1.map fun f => fs ++ [f], y.2)) (some [], s)

/-- Publishes block `b` of a context below a parent: the node that holds it then and its key, if one could be placed, and the state
reached. -/
def publishBlock (s : State) (g : BitVec 256) (c : BitVec 1024) (ctx sgrp b pkey : Nat) (parent : Option Nat) :
    Option (Nat × Nat) × State :=
  let toks := readLog s g c ctx (64 * b) 64
  let key := blockKey s c pkey toks
  match lookupBlock s g c key pkey sgrp parent toks with
  | some n =>
    let s := (nodeFrames s g c n).zipIdx.foldl (fun s fl => shareInto s g ctx fl.2 b fl.1 sgrp) s
    (some (n, key), touchNode s g c n)
  | none =>
    match freeNode s g c with
    | none => (none, s)
    | some (n, s) =>
      match emptySlot (2 * cNnodes c) s c (key % (2 * cNnodes c)) with
      | none => (none, s)
      | some i =>
        match publishPages s g ctx sgrp b with
        | (none, s) => (none, s)
        | (some fs, s) =>
          let h := mkNode key pkey sgrp parent.isNone (parent.getD 0) 0 (s.seq.stepNo % 2 ^ 64)
          let body := leBytes 64 h ++ toks.flatMap (leBytes 4) ++ fs.flatMap (leBytes 4)
          let s := writeBytes s (nodeAt g c n) (body ++ List.replicate (nodeSize g - body.length) 0)
          let s := writeNat s (slotAddr c i) 8 (key / 2 ^ 32 * 2 ^ 32 + 2 ^ 31 + n)
          (some (n, key), addChild s g c h true)

/-- Whether block `b` of a context may be published. -/
def blockReady (s : State) (g : BitVec 256) (c : BitVec 1024) (ctx b : Nat) (r : CtxRec) : Bool :=
  64 * (b + 1) ≤ r.len && !anyPoison s (logAddr g c ctx (64 * b)) 256 && (List.range (gLayers g)).all fun l =>
    let x := readPte s g ctx l (some b)
    pteState x = 1 && !ptePoisoned x

/-- Publishes blocks in order: how many were placed, whether one could not be, and the state after (R382). -/
def publishFrom (fuel : Nat) (s : State) (g : BitVec 256) (c : BitVec 1024) (ctx b pkey : Nat) (parent : Option Nat) :
    Nat × Bool × State :=
  match fuel with
  | 0 => (b, false, s)
  | k + 1 =>
    match getCtx s ctx with
    | none => (b, false, s)
    | some r =>
      let s := demand s (logAddr g c ctx (64 * b)) 256
      if r.sgrp = 0 || !blockReady s g c ctx b r then (b, false, s)
      else match publishBlock s g c ctx r.sgrp b pkey parent with
        | (none, t) => (b, true, keepRetired s t g)
        | (some (n, key), s) => publishFrom k s g c ctx (b + 1) key (some n)

/-! ### Drafts and commits (R385 to R390) -/

def dnToken (x : BitVec 128) : Nat := bits x.toNat 127 96
def dnParent (x : BitVec 128) : Nat := bits x.toNat 95 88
def dnQ (x : BitVec 128) : Nat := bits x.toNat 63 32
def dnU (x : BitVec 128) : Nat := bits x.toNat 31 0

/-- Whether a path runs from a child of NEXT through parent links (R389). -/
def pathOk (r : CtxRec) (path : List Nat) : Bool :=
  path.length ≤ 64 && (path.zip (0xFF :: path)).all fun x =>
    x.1 < r.dnodes && dnParent (r.draft.getD x.1 0) = x.2

/-- Ranges that the sprouts of a path take in a frame. -/
def sproutRngs (g : BitVec 256) (f : Nat) (path : List Nat) : List Rng :=
  path.flatMap fun n => (List.range (2 * gHkv g)).map fun h => ⟨frameAt g f + h * blockBytes g + n * kvVecBytes g, kvVecBytes g⟩

/-- How the attention units' copies of a path in one layer fail: the sprouts cannot be read, or a page they go to cannot be written
(R323, R389). -/
def sproutFail (s : State) (g : BitVec 256) (c pos : Nat) (path : List Nat) (l : Nat) : Option AttnFail :=
  let x := readPte s g c l none
  match readFail s c (pteVer x) (pteFrame x) (sproutRngs g (pteFrame x) path) with
  | some e => some e
  | none => (List.range path.length).findSome? fun i =>
      let y := readPte s g c l (some ((pos + i) / 64))
      let rs := sproutRngs g (pteFrame y) [(pos + i) % 64]
      match tagFail s c (pteVer y) (pteFrame y) true rs with
      | some e => some e
      | none => if channelsLost s rs then some ⟨stPoisoned, some 0, pteFrame y, none⟩ else none

/-- The demand reads of the copies of a path. -/
def demandSprouts (s : State) (g : BitVec 256) (c : Nat) (path : List Nat) : State :=
  (List.range (gLayers g)).foldl (fun s l => demandAll s (sproutRngs g (pteFrame (readPte s g c l none)) path)) s

/-- Copies the sprout slots of a path to positions from `pos` in every layer (R389 step 2). -/
def copySprouts (s : State) (g : BitVec 256) (c pos : Nat) (path : List Nat) : State :=
  let vb := kvVecBytes g
  let bb := blockBytes g
  let todo := (List.range (gLayers g)).flatMap fun l => path.zipIdx.flatMap fun ni =>
    (List.range (2 * gHkv g)).map fun h => (l, ni.1, pos + ni.2, h)
  todo.foldl (fun s (x : Nat × Nat × Nat × Nat) =>
    let src := frameAt g (pteFrame (readPte s g c x.1 none)) + x.2.2.2 * bb + x.2.1 * vb
    let dst := frameAt g (pteFrame (readPte s g c x.1 (some (x.2.2.1 / 64)))) + x.2.2.2 * bb + x.2.2.1 % 64 * vb
    writeBytes s dst (readBytes s src vb)) s

/-- What a commit or a retract of a context may end with before it changes anything (R389 step 1). -/
def commitCheck (s : State) (g : BitVec 256) (c : Nat) (r : CtxRec) (path : List Nat) : Nat :=
  let need := writeFrames s g c r.len (r.len + path.length)
  if !pathOk r path then stBadParam
  else if r.len + path.length > gMaxpg g * 64 then stNoResource
  else if r.frames + need.2 > r.pquota then stNoResource
  else stOk

/-- Commits a path: the pages it opens, the copies, the log, and the record (R389, R390). A copy that an attention unit cannot make
leaves the pages as they were and damages the context; which cluster's unit made it is free (DESIGN CHOICE, log entry 113). -/
def commitPath (s : State) (g : BitVec 256) (c : BitVec 1024) (ctx : Nat) (path : List Nat) (next : Nat) : Nat × State :=
  match getCtx s ctx with
  | none => (stBadParam, s)
  | some r =>
    let p := r.len / 64
    let n := if path.isEmpty then 0 else r.len % 64
    let met := fun s => demandSprouts (demandCopies s g ctx p n) g ctx path
    let failed := fun (e : AttnFail) =>
      let x := drawFree (met s)
      (e.st, attnReport x.2 (fin 24 x.1) ctx 0 e)
    if logLost s g c ctx r.len path.length then (stPoisoned, damage s ctx 3 0)
    else match (List.range (gLayers g)).findSome? fun l => openFail s g ctx l p n with
    | some e => failed e
    | none => match openPages s g ctx r.len (r.len + path.length) with
    | (false, t) => (stNoResource, keepRetired s t g)
    | (true, t) => match (List.range (gLayers g)).findSome? (sproutFail t g ctx r.len path) with
    | some e => failed e
    | none =>
      let s := copySprouts (met t) g ctx r.len path
      let s := writeLog s g c ctx r.len (path.map fun n => dnToken (r.draft.getD n 0))
      let s := retractDraft s g ctx
      (stOk, updCtx s ctx fun r => { r with
        state := csDecode, len := r.len + path.length, nextTok := next, nextStamp := now s })

/-- A draft is retracted before its context is suspended, evicted or destroyed; NEXT stays (R390). -/
def retractFirst (s : State) (g : BitVec 256) (ctx : Nat) : State :=
  match getCtx s ctx with
  | some r => if r.state = csSpec then updCtx (retractDraft s g ctx) ctx fun r => { r with state := csDecode } else s
  | none => s

/-! ### Recovery (R393) -/

/-- Recomputes an evicted or damaged context: its frames released, the positions below its LEN pending again, NEXT kept, prefixes
looked up. ST_NO_RESOURCE where it is not admitted or would pass its quota, ST_POISONED where its log is poisoned. -/
def recoverCtx (s : State) (g : BitVec 256) (c : BitVec 1024) (ctx : Nat) : Nat × State :=
  match getCtx s ctx with
  | none => (stBadParam, s)
  | some r =>
    let s := demand s (logAddr g c ctx 0) (4 * (r.len + r.pend))
    if logPoison s g c ctx then (stPoisoned, s)
    else
      let r' := { r with state := csPrefill, len := 0, pend := r.len, keepNext := true, former := 0 }
      let ns := prefixHits s g c ctx r.sgrp r.len
      if !admits s g c ctx r' || ns.length * gLayers g > r.pquota then (stNoResource, s)
      else
        let s := releasePages (retractDraft s g ctx) g ctx 0
        let s := updCtx s ctx fun x => { r' with frames := x.frames, dnodes := 0, draft := [], verified := false }
        (stOk, takeHits s g c ctx r.sgrp ns)

/-! ### Ends of a step (R360, R372) -/

/-- Clears the step in flight and its reservations; those of prepared commands stay. A cost model that waited takes effect (R354,
R370). -/
def clearStep (s : State) : State :=
  let q := match s.seq.nextCfg with
    | some f => { s.seq with cfg := some f, cf := 1024, nextCfg := none }
    | none => s.seq
  setSeq s { q with step := none, reserve := s.seq.reserve.filter fun e => heldCtx s e.1 }

/-- A follower tells its lead how its step ended, with the floor it last published (R372); message kind 9. -/
def reportStep (s : State) (lead stepNo st detail : Nat) : State :=
  sendMsg s true (lead / 2 ^ 48) 9 [fuidOf s (uidOf (.seqEngine 0)), stepNo, st, detail, paceFloor s]

/-- Ends the step in flight with a status, its command answered. -/
def endStep (s : State) (st detail : Nat) : State :=
  match s.seq.step with
  | none => s
  | some r =>
    let s := clearStep s
    match r.lead with
    | some l => dropCmd (reportStep s l r.stepNo st detail) r.cmd
    | none => finishCmd s r.cmd st detail

/-- Abandons the step in flight, and a plan that waits: every context keeps its record (R360). -/
def abandonStep (s : State) (st detail : Nat) : State :=
  let s := endStep s st detail
  match s.seq.planned with
  | some (lead, _, ws) => reportStep (setSeq s { s.seq with planned := none }) lead (bits (ws.headD 0) 511 448) st detail
  | none => s

end Sys2Proof.Machine
end

