-- ==== Sys2Proof/Machine/Timebase.lean ====
section
/-! DEFINITION. The timebase: its tick, its synchronisation pulses, time exchanges and alignment, and the start of a
time root (02_self_timed_operation.md R64 to R73; 15_onaux_fabric.md R523, R559). -/

namespace Sys2Proof.Machine

/-- The bound of FREQADJ, ±500 ppm (R73). -/
def freqMax : Int := 2147483

/-- The rate steering an offset calls for: within the bound, faster where the device is behind its source, slower where it is ahead (R65,
R71). -/
def steerFor (offset : Int) : BitVec 32 :=
  let lo := if offset > 0 then 1 else -freqMax
  let hi := if offset < 0 then -1 else freqMax
  BitVec.ofInt 32 (max lo (min hi (Config.steer offset)))

/-- One tick of the island: 1 ns plus FREQADJ * 2^-32 ns (02 "The timebase"). -/
def tbTick (t : TbSt) : TbSt :=
  if !t.locked then t
  else
    let x : Int := (t.count.toNat * 2 ^ 32 + t.frac.toNat : Nat) + (2 ^ 32 + t.freqAdj.toInt)
    { t with count := BitVec.ofInt 64 (x / 2 ^ 32), frac := BitVec.ofInt 32 (x % 2 ^ 32) }

/-- Timebase status (R73). TIMEPORT keeps the last port while SOURCE is neither 1 nor 2, and OFFSET and TIMEPORT read 0 on the
time root (DESIGN CHOICE, log entry 106). -/
def tbStatus (s : State) : Nat :=
  let t := s.tb
  let off := wrapInt 16 (max (-32767) (min 32767 t.offset))
  let a := b2n t.aligned * 2 ^ 63 + b2n t.root * 2 ^ 62
  if t.root then a + t.freqAdj.toNat
  else a + t.source.toNat * 2 ^ 60 + t.port.toNat * 2 ^ 55 + off * 2 ^ 32 + t.freqAdj.toNat

/-- TB_SYNC_PULSE (R66): every 1 us. -/
def execTbSyncPulse (s : State) : Res :=
  if !s.tb.locked || now s < s.tb.lastSync + 1000 then .next s
  else .next (emit { s with tb := { s.tb with lastSync := now s } } .syncPulse)

/-- TB_UNALIGNED to the management ring and to the ring of any open lease (R71). The manual gives its payload no layout: 0 (DESIGN
CHOICE, log entry 125). -/
def tbUnaligned (s : State) : State :=
  let e : Event := ⟨0x0003, fuidOf s (uidOf .device), epochOf s .device, 0, 1, 0⟩
  let s := ringEvent s false e
  if s.lease.openL then ringEvent s true e else s

/-- Clears ALIGNED with its report. -/
def clearAligned (s : State) : State :=
  if s.tb.aligned then tbUnaligned { s with tb := { s.tb with aligned := false, good := 0 } }
  else { s with tb := { s.tb with good := 0 } }

/-- Notes the root that exchanges come from: a second root is reported, and the lower number followed (R523). -/
def seeRoot (s : State) (src : Nat) : State :=
  match s.tb.rootSeen with
  | none => { s with tb := { s.tb with rootSeen := some src } }
  | some r =>
    if r = src then s
    else
      let s := faultUnit s .device 0x0009 0 (uidOf .device) 0 (max r src % 2 ^ 15)
      { s with tb := { s.tb with rootSeen := some (min r src) } }

/-- Steps or steers by a measured offset of the source from this device (R65, R67, R71): the timebase never moves
backwards. -/
def correctTime (t : TbSt) (exchange : Bool) (offset : Int) : TbSt :=
  let step := offset > 0 ∧ (!t.sourced ∨ (exchange ∧ offset > 1000000))
  if step then { t with count := BitVec.ofInt 64 (t.count.toNat + offset), sourced := true }
  else { t with sourced := true, freqAdj := steerFor offset }

/-- TIME_EXCHANGE (R65, R67, R69, R71): a two-way exchange with source 1 or 2, which gives the time of a root, has measured an offset. A
time root has no source. Of two roots the lower number is followed, and an exchange with the other is not valid (R523). -/
def execTimeExchange (src : BitVec 2) (port : Fin 32) (x : ExchIn) (s : State) : Res :=
  if !s.tb.locked || s.tb.root || !(src = 1 || src = 2) then .next s
  else
    let s := seeRoot s x.root
    if s.tb.rootSeen ≠ some x.root then .next s else
    let good := if x.offset.natAbs ≤ 2 then s.tb.good + 1 else 0
    let t := correctTime s.tb true x.offset
    let s := { s with tb := { t with
      offset := x.offset, good := good, lastValid := now s, source := src, port := BitVec.ofNat 5 port
      aligned := t.aligned || good ≥ 3, everAligned := t.everAligned || good ≥ 3 } }
    .next (if x.offset.natAbs > 8 then clearAligned s else s)

/-- ALIGN_TIMEOUT (R71): 10 ms without a valid exchange with source 1 or 2; the root that was followed is followed no more. SOURCE stays 3 once marks are the source: the
manual gives no time after which marks that have stopped are no source (DESIGN CHOICE, log entry 106). -/
def execAlignTimeout (s : State) : Res :=
  if !s.tb.locked || s.tb.root || now s < s.tb.lastValid + 10000000 then .next s
  else
    let s := clearAligned s
    .next { s with tb := { s.tb with source := if s.tb.source = 3 then 3 else 0, rootSeen := none } }

/-- Ports on which a frame can be sent: UP or UP2. -/
def portUsable (s : State) (p : Nat) : Bool :=
  let x := (vget s.ports .init p).phase
  x = .up || x = .up2

/-- TIME_ROOT_PROBE_EXPIRY (R68, R69): after 10 ms a device that is still the root steps forward to the largest answer, if it is ahead, and begins to
serve. -/
def execTimeRootProbeExpiry (s : State) : Res :=
  match s.tb.probe with
  | none => .next s
  | some (t0, best) =>
    if !s.tb.root || now s < t0 + 10000000 then .next s
    else .next { s with tb := { s.tb with
      count := BitVec.ofNat 64 (now s + best)
      probe := none, serving := true, aligned := true, everAligned := true } }

/-- A sideband mark taken as a time source (R65, R67, R559): `value` is the source's time at the mark's start. -/
def takeMark (s : State) (value : Nat) : State :=
  if !s.tb.locked || s.tb.root || (s.tb.source ≠ 0 && s.tb.source ≠ 3) then s
  else
    let off : Int := (value : Int) - (now s : Int)
    let t := correctTime s.tb false off
    { s with tb := { t with offset := off, source := 3 } }

end Sys2Proof.Machine
end

