-- ==== Sys2Proof/Machine/Verdict.lean ====
section
/-! DEFINITION. Verdicts that cannot be formed and replays that cannot proceed (06_guarded_narrow_arithmetic.md R208,
R754; 18_bring_up_reset_recovery.md R638). -/

namespace Sys2Proof.Machine

/-- Writes back what a squash or a re-run restores: the in-out ranges and the accumulators at a chain's start (R207,
R208). -/
def restoreChain (s : State) (c : Fin 192) (p : PendChain) : State :=
  let s := p.inoutAt.foldl (fun s r => writeBytes s r.1 r.2) s
  modCore s c fun x => { x with acc := p.accAt }

/-- Squashes a core's continuation: its in-out ranges take back their contents, and a SQUASH record is written (R207,
R208, R675). -/
def squash (s : State) (c : Fin 192) : State :=
  match (getCore s c).cont with
  | none => s
  | some p => traceCore (restoreChain s c p) c 0 9 p.offset

/-- Whether every byte of some ranges lies in the stores of a cluster. -/
def inCluster (k : Nat) (rs : List Rng) : Bool :=
  rs.all fun r => match placeOf r.lo with
    | some (.cluster j _) => j = k
    | some (.scratch c _) => c / 8 = k
    | _ => false

/-- An entry's ranges here, its fabric sides resolved although it may not have been submitted yet. -/
def entReach (s : State) (c : Fin 192) (e : DmaEnt) (src : Bool) : List Rng :=
  let e := if e.phase = .waiting then
      match fabResolve s e.desc with
      | some (a, b, f) => { e with srcFpa := a, dstFpa := b, flagFpa := f }
      | none => e
    else e
  entRanges s c e src

/-- Whether a transfer's destination lies outside a cluster (R201). -/
def leavesCluster (s : State) (k : Nat) (c : Fin 192) (e : DmaEnt) : Bool :=
  let ds := entReach s c e false
  ds.isEmpty || !inCluster k ds

/-- The ranges a core's pending chain and its continuation have written provisionally (R199). -/
def provWrites (x : CoreSt) : List Rng :=
  (match x.pend with | some p => p.writes | none => []) ++ (match x.cont with | some p => p.writes | none => [])

/-- Transfers held for a core's provisional ranges whose destination lies outside the cluster, and flag additions held
behind its verdict (R201, R202, R754). -/
def heldEnts (s : State) (c : Fin 192) : List (Fin 192 × Nat) :=
  let x := getCore s c
  (List.finRange 192).flatMap fun d =>
    ((getCore s d).dma.filter fun e => !entEnded e && (notBegun e || bytesDone e)
        && ((!e.moved && anyOverlap (entReach s d e true) (provWrites x) && leavesCluster s (c.val / 8) d e)
          || (d = c && flagHeld x e && dFlagen e.desc))).map
      fun e => (d, e.seq)

/-- The core's entries still on their way when its verdict is given up: their bytes land, and the flag additions that wait behind the
verdict are not made (R202, R754; DEDUCED, log entry 149). -/
def dropFlags (x : CoreSt) : CoreSt :=
  { x with dma := x.dma.map fun e => if flagHeld x e then { e with desc := e.desc &&& ~~~(1#512 <<< 451) } else e }

/-- Fails the collective instances that wait to read a core's provisional ranges (R201, R754). -/
def failHeldInsts (s : State) (c : Fin 192) (st : Nat) : State :=
  (s.fab.insts.filter fun i => !i.begun && anyOverlap [⟨coSrc i.desc, srcBytes i.desc⟩] (provWrites (getCore s c))).foldl
    (fun s i => failInst s i 0x000C st) s

/-- Notes the attention requests at the heads of the cluster's rings, which may wait to read a core's provisional ranges (R201, R754). -/
def noteHeldReqs (s : State) (c : Fin 192) (st : Nat) : State :=
  let k := fin 24 (c.val / 8)
  let due := (List.range 8).filter fun r => ringConsumed s k r < ringDoorbell s k r
  modCluster s k fun x => { x with
    attnHeld := x.attnHeld ++ due.map fun r => (r, ringConsumed s k r, st % 256, provWrites (getCore s c)) }

/-- Reads of peers that wait for a core's verdict: they are answered with the status (R201, R302, R754). -/
def failParked (s : State) (c : Fin 192) (st : Nat) : State :=
  let ws := provWrites (getCore s c)
  let hit := fun (f : FrameIn) => match f.body with
    | .read n => anyOverlap [⟨bits (fhFpa f.hdr) 47 0, n⟩] ws
    | _ => false
  (s.fab.parked.filter hit).foldl (fun s f => respond s f (.nack (st % 256)))
    (setFab s { s.fab with parked := s.fab.parked.filter fun f => !hit f })

/-- Drops the instructions of a core's queues, and its DMA chains not yet begun, that follow a place in the order. -/
def dropLater (x : CoreSt) (o : Nat) : CoreSt :=
  { x with
    matQ := x.matQ.filter fun q => q.ord < o
    vecQ := x.vecQ.filter fun q => q.ord < o
    dma := x.dma.filter fun e => !(e.owner.isNone && e.phase = .waiting && e.chain ≥ o) }

/-- Ends a participant's part without a verdict (R754): its continuation is squashed, later queued work is dropped, held transfers
fail with the status, and its marks clear. -/
def failPart (s : State) (c : Fin 192) (st : Nat) : State :=
  let held := heldEnts s c
  let s := noteHeldReqs (failHeldInsts (failParked s c st) c st) c st
  let s := squash s c
  let o := match (getCore s c).pend with | some p => p.ord | none => 0
  let s := held.foldl (fun s e => endEnt s e.1 e.2 st) s
  let s := modCore s c fun x => { dropFlags (dropLater x o) with phase := .stopping st, pend := none, cont := none, verdict := .open }
  settleCore s c

/-- The dispatch a launch belongs to: the SEQ_STEP whose graph it is a node of, or itself (R193). -/
def dispatchOf (s : State) (id : Nat) : Nat :=
  match findCmd s id with
  | some k => (match k.origin with
    | .sub p _ => (match findCmd s p with
      | some g => if g.graph.isSome && hOpcode g.hdr ≠ 0x0402 then p else id
      | none => id)
    | _ => id)
  | none => id

/-- Cores of one launch that has started: those whose part runs and those whose part has ended. -/
def partCores (s : State) (id : Nat) : List Nat :=
  match findCmd s id with
  | none => []
  | some k =>
    let ended := k.parts.filter fun (p : Nat × Nat × Nat) => k.fan.isEmpty || decide (p.1 ≥ 2 ^ 20)
    k.waitFor ++ ended.map fun (p : Nat × Nat × Nat) => p.1 % 2 ^ 20

/-- The in-service cores that a node of a step's graph launches on (R193, R498, R643). -/
def nodeCores (s : State) (n : BitVec 512 × BitVec 512) : List Nat :=
  if hOpcode n.1 ≠ 0x0401 then []
  else match unitOfUid (hTarget n.1 % 2 ^ 32) with
    | some u => (unitCores u).filter fun m => baseState s (.core (fin 192 m)) ≠ .outOfService
    | none => []

/-- Cores of a dispatch, ascending: of a launch, or of every launch that a SEQ_STEP's graph makes on this device (R193). -/
def dispatchCores (s : State) (d : Nat) : List Nat :=
  let cs := match findCmd s d with
    | none => []
    | some k => match k.graph with
      | some g => g.nodes.zipIdx.flatMap fun (n : (BitVec 512 × BitVec 512) × Nat) => match g.subs.getD n.2 none with
        | some id => if (findCmd s id).any fun (k : CmdRec) => k.startedAt.isSome then partCores s id else nodeCores s n.1
        | none => nodeCores s n.1
      | none => partCores s d
  cs.eraseDups.mergeSort (· ≤ ·)

/-- The bits of a guard record (R187). -/
def grBits (s : State) (c : Fin 192) (rec : Nat) : Nat := readNat s (devAt c rec) 64

/-- The participants a core's verdict has: the dispatch's cores within the record's SCOPE (R193). -/
def participants (s : State) (c : Fin 192) (p : PendChain) : List Nat :=
  let cs := dispatchCores s (getCore s c).dispatch
  match bits (grBits s c p.record) 301 300 with
  | 0 => [c.val]
  | 1 => cs.filter fun d => d / 8 = c.val / 8
  | _ => cs

/-- Whether a core waits for a verdict. -/
def awaitsVerdict (x : CoreSt) : Bool := x.verdict = .open && (match x.pend with | some p => p.guarded | none => false)

/-- What a fence of some cores does to verdicts (R638, R754): every other participant of a verdict that is not yet formed
ends its part with ST_FENCED. A fenced core's own state is cleared by the reset. -/
def abandonVerdicts (s : State) (cores : List Nat) (root : PUnit) : State :=
  ((List.finRange 192).filter fun c =>
      c.val ∉ cores && awaitsVerdict (getCore s c) &&
        match (getCore s c).pend with
        | some p => (participants s c p).any fun d => d ∈ cores
        | none => false).foldl
    (fun s c => failPart s c (withCause stFenced (uidOf root))) s

end Sys2Proof.Machine
end

