-- ==== Sys2Proof/Machine/Resets.lean ====
section
/-! DEFINITION. Readiness, fences, resets, hangs, dumps, escalation and units out of service
(18_bring_up_reset_recovery.md R625 to R646; 12_memory_system.md R404, R410 to R417; 20 R687, R690). -/

namespace Sys2Proof.Machine

/-! ### Becoming ready (R627 to R630) -/

/-- Units named in the readiness summary (R628). -/
def namedUnit : PUnit → Bool
  | .engine _ _ => false
  | .core _ => false
  | .attn _ => false
  | _ => true

/-- Units named in the summary other than the device. -/
def readyUnits : List PUnit := allUnits.filter fun u => namedUnit u && u ≠ .device

/-- The readiness summary (R628). -/
def readinessSummary (s : State) : Nat :=
  let b := fun u => b2n (isReady (reported s u))
  ((List.finRange 256).foldl (fun a n => a + b (.channel n) * 2 ^ (256 + n.val)) 0)
    + ((List.finRange 32).foldl (fun a n => a + b (.port n) * 2 ^ (224 + n.val)) 0)
    + ((List.finRange 24).foldl (fun a n => a + b (.cluster n) * 2 ^ (200 + n.val)) 0)
    + b2n (allReady s) * 2 ^ 15 + b (.seqEngine 1) * 2 ^ 7 + b (.seqEngine 0) * 2 ^ 6 + b (.die 1) * 2 ^ 5
    + b (.die 0) * 2 ^ 4 + b .vangaer * 2 ^ 3 + b .hostIf * 2 ^ 2 + b (.mgmt 1) * 2 + b (.mgmt 0)

/-- A READY event (R630). -/
def readyEvent (s : State) (u : PUnit) (cause startAt : Nat) : State :=
  unitEvent s 0x0001 (uidOf u) (epochOf s u) 0 1
    (stateCode (reported s u) * 2 ^ 253 + cause % 16 * 2 ^ 249 + (now s - startAt) * 2 ^ 128)

/-- Follows ALLREADY: the device unit's READY event when it becomes 1 (R630). -/
def checkAllReady (s : State) (cause startAt : Nat) : State :=
  let a := allReady s && isReady (baseState s .device)
  if a && !s.rst.allReady then
    readyEvent { s with rst := { s.rst with allReady := true } } .device cause startAt
  else { s with rst := { s.rst with allReady := a } }

/-- SCRUBBED at power-on, once every in-service cluster and channel has become ready and the audit chain is whole (R626,
R627). -/
def checkScrubbed (s : State) : State :=
  let ok := fun u => isReady (baseState s u) || baseState s u = .outOfService
  if s.rst.scrubDone || s.rst.porAt.isNone then s
  else if (List.finRange 24).all (fun k => ok (.cluster k)) && (List.finRange 256).all (fun n => ok (.channel n)) then
    { s with rst := { s.rst with scrubDone := true }, lease := { s.lease with scrubbed := s.sec.chainOk } }
  else s

/-- The best own state a unit takes when it becomes ready: DEGRADED on spares, at half width or on a slower link; a die stays
FENCED while a BRIDGE_FAULT condition holds (R404). -/
def readyOwn (s : State) (u : PUnit) : UState :=
  match u with
  | .channel n => if bits (s.channels[n]).train.toNat 63 61 = 2 then .degraded else .ready
  | .port p => match (s.ports[p]).phase with
    | .up => .ready
    | .up2 => .degraded
    | .disabled => .outOfService
    | _ => .notReady
  | .hostIf => if s.host.rate = 6 ∧ s.host.width = 16 then .ready else .degraded
  | .die _ => if s.rst.bridge then .fenced else .ready
  | _ => .ready

/-- The units that come up with a unit: those of its cluster for a cluster, its engines for a core. -/
def followers (u : PUnit) : List PUnit :=
  match u with
  | .cluster _ => contents u
  | .core _ => contents u
  | _ => []

/-- A unit becomes ready: its READY event with CAUSE and the time elapsed (R630), then what follows from it. -/
def becomeReady (s : State) (u : PUnit) : State :=
  let r := getUnit s u
  let s := setOwn s u (readyOwn s u)
  let s := (followers u).foldl (fun s v => if (getUnit s v).own = .outOfService then s else setOwn s v .ready) s
  let s := if namedUnit u then readyEvent s u r.cause r.startAt else s
  tellState (checkAllReady (checkScrubbed s) r.cause r.startAt) u

/-- Whether every function a unit's bring-up depends on is ready (R625); a channel becomes ready by its training alone (R410). -/
def dependsMet (s : State) (u : PUnit) : Bool :=
  let rdy := fun v => isReady (getUnit s v).own
  s.sec.fwOk && match u with
  | .vangaer => s.tb.locked
  | .mgmt d => if d = 0 then rdy .vangaer else rdy (.mgmt 0)
  | .hostIf => rdy (.mgmt 0) && s.host.linkUp && !s.host.perst
  | .die d => rdy (.mgmt d) && !(s.dies[d]).awaiting && s.pace.published
  | .seqEngine d => rdy (.die d)
  | .cluster k => rdy (.die (dieOfCluster k))
  | .core c => rdy (.cluster (clusterOfCore c))
  | .engine c _ => rdy (.core c)
  | .attn k => rdy (.cluster k)
  | .channel _ => false
  | .port p => rdy (.die (fin 2 (p / 16))) && portUsable s p
  | .device => false

/-- UNIT_READY (R625, R630): a unit that is coming up, with all it depends on ready, becomes ready. -/
def execUnitReady (u : PUnit) (s : State) : Res :=
  if s.rst.porAt.isNone || (getUnit s u).own ≠ .notReady || !dependsMet s u then .next s
  else
    let s := if u = .hostIf then { s with host := { s.host with ready := true } } else s
    .next (becomeReady s u)

/-- A training record with one more lane replaced, if a spare is free and the lane not replaced already (R412). -/
def replaceLane (r : Nat) (lane : Nat) : Nat :=
  let n := bits r 60 59
  if n ≥ 2 || (n ≥ 1 && bits r 58 52 = lane) then r
  else
    let keep := bits r 51 0 + (if n = 0 then lane * 2 ^ 52 else bits r 58 52 * 2 ^ 52)
    let keep := if n = 1 then keep - bits r 51 45 * 2 ^ 45 + lane * 2 ^ 45 else keep
    2 * 2 ^ 61 + (n + 1) * 2 ^ 59 + keep

/-- The record a training leaves (R411): the outcome given, with the lanes replaced that the last training's use degraded (R412),
the life's row repairs kept, CE 0 and the reserved bits 0. -/
def trainedRecord (old : ChanSt) (rec : BitVec 64) : BitVec 64 :=
  let r := old.laneTold.foldl replaceLane (bits rec.toNat 63 45 * 2 ^ 45)
  BitVec.ofNat 64 (bits r 63 45 * 2 ^ 45 + max (bits rec.toNat 44 41) (bits old.train.toNat 44 41) * 2 ^ 41)

/-- The record a failed training leaves (R411): RESULT 3, the spares as given, the life's row repairs kept, CE 0, the reserved bits 0. -/
def failedRecord (old : ChanSt) (rec : BitVec 64) : BitVec 64 :=
  BitVec.ofNat 64 (3 * 2 ^ 61 + bits rec.toNat 60 45 * 2 ^ 45 + max (bits rec.toNat 44 41) (bits old.train.toNat 44 41) * 2 ^ 41)

/-- A trained channel: every line rewritten, its record set (R410, R411), and poison over all of it after a reset while
a lease is open (R632). -/
def trainChannel (s : State) (n : Fin 256) (rec : BitVec 64) : State :=
  let again := (s.rst.acts.any fun a => a.root = .channel n) && s.lease.openL
  let s := clearChannel s n
  let c := s.channels[n]
  let s := { s with channels := s.channels.set n { c with train := trainedRecord c rec, lost := false, laneErr := []
                                                          laneTold := [], poisonAll := again } }
  if again then
    channelDamage (unitEvent s 0x000B (uidOf (.channel n)) (epochOf s (.channel n)) 0 1 0) n
  else s

/-- The MGMT_RESET commands that wait for a domain (R633): completes those whose last domain has ended. -/
def endResetCmds (s : State) (root : PUnit) (ids : List Nat) (oos : Bool) : State :=
  ids.foldl (fun s id => if oos then finishCmd s id stOutOfService (uidOf root) else finishCmd s id stOk 0) s

def dropAct (s : State) (root : PUnit) : State :=
  { s with rst := { s.rst with acts := s.rst.acts.filter fun a => a.root ≠ root } }

def findAct (s : State) (root : PUnit) : Option DomAct := s.rst.acts.find? fun a => a.root = root

/-- Ends a domain's reset: its root and what it holds are ready again (R631), each named unit with its READY event. A port rejoins its
sets, and frames held for it go (R518). -/
def endReset (s : State) (a : DomAct) : State :=
  let s := dropAct s a.root
  let s := if a.root = .device then { s with rst := { s.rst with bridge := false, bridgeDue := false } } else s
  let s := setOwn s a.root (readyOwn s a.root)
  let inside := (domainUnits a.root).filter fun u =>
    u ≠ a.root && ((getUnit s u).own = .notReady || (getUnit s u).own = .resetting || (getUnit s u).own = .fenced)
      && (match u with | .port _ => false | _ => true)
  let s := inside.foldl (fun s u => setOwn s u (readyOwn s u)) s
  let s := ((domainUnits a.root).filter fun u => namedUnit u && u ≠ .device && isReady (baseState s u)).foldl
    (fun s u => tellState (readyEvent s u a.cause a.startAt) u) s
  let s := match a.root with | .port _ => flushHeld s | _ => s
  endResetCmds (checkAllReady s a.cause a.startAt) a.root a.cmds false

/-- HBM_CHANNEL_TRAINED (R410, R411): at power-on and at the end of a channel's reset. -/
def execHbmChannelTrained (n : Fin 256) (rec : BitVec 64) (s : State) : Res :=
  let o := (getUnit s (.channel n)).own
  let act := findAct s (.channel n)
  if s.rst.porAt.isNone || !isReady (getUnit s (.mgmt 0)).own || !(o = .notReady || o = .resetting) then .next s
  else if bits rec.toNat 63 61 = 1 ∨ bits rec.toNat 63 61 = 2 then
    let s := trainChannel s n rec
    match act with
    | some a => .next (endReset s a)
    | none => .next (becomeReady s (.channel n))
  else
    let s := { s with channels := s.channels.set n { s.channels[n] with train := failedRecord s.channels[n] rec } }
    let s := setOwn (dropAct s (.channel n)) (.channel n) .outOfService
    let s := bumpUnits s false 3 [.channel n] []
    let s := match act with | some a => endResetCmds s (.channel n) a.cmds true | none => s
    .next (checkAllReady (checkScrubbed s) 0 (getUnit s (.channel n)).startAt)

/-- Whether a die of a domain still waits for the record of its first sample after the reset began (R752). -/
def awaitsPace (s : State) (root : PUnit) : Bool :=
  match root with
  | .die d => (s.dies[d]).awaiting
  | .device => s.dies.toList.any (·.awaiting)
  | _ => false

/-- RESET_END (R631): a domain in reset becomes ready again: a die not before the record of R752, a channel by its training
(R410). A host interface whose link is not in L0 at the end of its reset's time reports NOT_READY from then on, and is ready again with
the link (R565; DESIGN CHOICE, log entry 135). -/
def execResetEnd (root : PUnit) (s : State) : Res :=
  match findAct s root with
  | none => .next s
  | some a =>
    match a.phase with
    | .draining _ => .next s
    | .resetting _ t =>
      match root with
      | .channel _ => .next s
      | .hostIf =>
        if s.host.linkUp && !s.host.perst then
          .next (endReset { s with host := { s.host with ready := true } } a)
        else if now s < t || !a.cmds.isEmpty then .next s
        else .next (tellState (setOwn (dropAct s .hostIf) .hostIf .notReady) .hostIf)
      | _ => if awaitsPace s root then .next s else .next (endReset s a)

/-! ### The TDI and the host function (R581, R584, R587) -/

/-- The code of a TDI state (R703). -/
def tdiCode : Tdi → Nat
  | .unlocked => 0
  | .locked => 1
  | .run => 2
  | .error => 3

/-- Puts the TDI in a state, with its audit entry (R619). -/
def setTdi (s : State) (x : Tdi) : State :=
  if s.host.tdi = x then s else auditTdi { s with host := { s.host with tdi := x } } (tdiCode x)

/-- What leaving RUN during a lease brings (R584): pairs 1 to 255 stop, host DMA fails, the host interface's epoch moves
on, reported on the management ring. -/
def leaveRun (s : State) : State :=
  if s.lease.openL then
    let s := (tenantPairs s).foldl (fun s n => match getQp s n with
      | some q => setQp s n (some { q with stopped := true })
      | none => s) s
    bumpUnits (failHostDma s) true 1 [.hostIf] []
  else s

/-- Moves the TDI out of its state; leaving RUN has R584's effects. -/
def moveTdi (s : State) (x : Tdi) : State :=
  let was := s.host.tdi
  let s := setTdi s x
  if was = .run ∧ x ≠ .run then leaveRun s else s

/-- An event of R581: a TDI in CONFIG_LOCKED or RUN moves to ERROR. -/
def tdiFail (s : State) : State :=
  if s.host.tdi = .locked ∨ s.host.tdi = .run then moveTdi s .error else s

/-- What becomes of the commands of the pairs: those not yet started are discarded, those that have started run to their end, and their
host writes go nowhere (R587). -/
def orphanCmds (cs : List CmdRec) : List CmdRec :=
  cs.filterMap fun c => match c.origin with
    | .qp _ => if c.phase = .accepted || c.phase = .held || c.phase = .refused then none else some { c with origin := .gone }
    | _ => some c

/-- What a reset of the host function domain does but for its epochs (R581, R587): the configuration space starts anew, No_Soft_Reset
being 0. -/
def clearHost (s : State) : State :=
  let s := tdiFail s
  let s := (tenantPairs s).foldl (fun s n => setQp s n none) s
  let s := setQp s 0 none
  let s := setInflight s (orphanCmds s.cmd.inflight)
  let s := failHostDma s
  let h := s.host
  { s with
    host := { HostSt.init with
      linkUp := h.linkUp, rate := h.rate, width := h.width, perst := h.perst, tdi := h.tdi, bound := h.bound, wasRun := h.wasRun
      mer := { RingSt.init with lost := h.mer.lost }, ler := { RingSt.init with lost := h.ler.lost } }
    xl := { s.xl with atsOn := false } }

/-! ### What a reset clears (R631) -/

/-- Clears a core: registers, queues, accumulators, held rows, counters (R631, R669). What comes late for its fabric requests is
discarded (R637). -/
def clearCore (s : State) (c : Fin 192) : State :=
  let s := setFab s { s.fab with reqs := s.fab.reqs.filter fun r => match r.owner with | .dma k _ => k ≠ c | _ => true }
  { s with cores := s.cores.set c { CoreSt.init with
             counts := Vector.replicate 4 { EngCount.zero with since := now s }, stall := (getCore s c).stall }
           doze := vset s.doze c { DozeSt.init with idleAt := now s } }

def coresOfCluster (k : Fin 24) : List (Fin 192) := (List.range 8).map fun r => fin 192 (k * 8 + r)
def clustersOfDie (d : Fin 2) : List (Fin 24) := (List.range 12).map fun j => fin 24 (d * 12 + j)

/-- Clears a cluster: its cores, attention unit, trace buffer and mailbox (R338, R631). -/
def clearCluster (s : State) (k : Fin 24) : State :=
  let s := (coresOfCluster k).foldl clearCore s
  clearMailbox { s with clusters := s.clusters.set k ClusterSt.init
                        doze := vset s.doze (192 + k) { DozeSt.init with idleAt := now s } } k

/-- Clears a die: its clusters, the step in flight, the decision log of die 0, collective instances (R631). -/
def clearDie (s : State) (d : Fin 2) : State :=
  let s := (clustersOfDie d).foldl clearCluster s
  let s := abandonStep s stFenced (uidOf (.die d))
  let s := failCollectives s (withCause stFenced (uidOf (.die d)))
  if d = 0 then { s with cmd := { s.cmd with decisions := [] } } else s

/-- What the reset of a domain clears (R631). -/
def clearDomain (s : State) (root : PUnit) : State :=
  match root with
  | .core c => clearCore s c
  | .cluster k => clearCluster s k
  | .die d => paceDieReset (clearDie s d) [d]
  | .device =>
    let s := paceDieReset ((clearDie (clearDie s 0) 1)) [0, 1]
    { s with stopArm := none
             sec := { s.sec with dbgOpen := false, halted := false, fwNext := none
                                 fwNow := (s.sec.fwNext.map (·.1)).getD s.sec.fwNow } }
  | .channel n => { s with channels := s.channels.set n { s.channels[n] with testing := none } }
  | .hostIf => clearHost s
  | .port p =>
    let s := portHandoff s p
    { s with ports := s.ports.set p { s.ports[p] with queue := [], replayBuf := [], authFail := 0, stale := 0, replay := 0 } }
  | _ => s

/-! ### Fences -/

/-- The units that still hold work of a command (R636). -/
def workUnits (fuel : Nat) (s : State) (c : CmdRec) : List PUnit :=
  match fuel with
  | 0 => []
  | f + 1 =>
    let subs := s.cmd.inflight.filter fun d => match d.origin with | .sub p _ => p = c.id | _ => false
    if !subs.isEmpty then subs.flatMap (workUnits f s)
    else if !c.waitFor.isEmpty ∧ hOpcode c.hdr = 0x0401 then c.waitFor.map fun n => .core (fin 192 n)
    else match c.target with
      | .unit u => [u]
      | .group g => expansionUnits s g
      | .remote _ => []

/-- The smallest reset domain that holds all of some units; the device where none does (R636). -/
def smallestDomain (us : List PUnit) : PUnit :=
  match us with
  | [] => .device
  | u :: us => ((domains u).find? fun r => us.all fun v => r ∈ domains v).getD .device

/-- Answers the outstanding work of the units that a property holds of: parts of launches on their cores, and commands whose
units they are (R41, R637). -/
def answerUnits (s : State) (inD : PUnit → Bool) (d st : Nat) (keep : List Nat) : State :=
  (s.cmd.inflight.map (·.id)).foldl (fun s id =>
    match findCmd s id with
    | none => s
    | some c =>
      if id ∈ keep ∨ c.phase = .finished ∨ c.phase = .refused then s
      else if hOpcode c.hdr = 0x0401 ∧ !c.waitFor.isEmpty then
        (c.waitFor.filter fun n => inD (.core (fin 192 n))).foldl (fun s n => endPart s id n st d) s
      else match c.target with
        | .unit u =>
          if inD u && (c.phase = .started || c.phase = .accepted) && c.graph.isNone then finishCmd s id st d else s
        | _ => s) s

/-- Acts on domains inside a domain: the larger reset absorbs them (R634). -/
def absorbed (s : State) (root : PUnit) : List DomAct :=
  s.rst.acts.filter fun a => root ∈ domains a.root && a.root ≠ root

/-- Answers the outstanding work of a domain. Commands that wait for a smaller reset go on waiting for this one (R634). A device
reset leaves no fetched command unfinished (R631). -/
def answerDomain (s : State) (root : PUnit) (st : Nat) (keep : List Nat) : State :=
  let keep := keep ++ (absorbed s root).flatMap (·.cmds)
  let s := answerUnits s (fun u => root ∈ domains u) (uidOf root) st keep
  if root = .device then
    let keep := keep ++ keep.filterMap fun id => (findCmd s id).bind fun c => match c.origin with | .sub p _ => some p | _ => none
    (s.cmd.inflight.map (·.id)).foldl (fun s id => if id ∈ keep then s else finishCmd s id st (uidOf root)) s
  else s

/-- The cores of a domain. -/
def domainCores (root : PUnit) : List Nat :=
  ((List.finRange 192).filter fun c => root ∈ domains (.core c)).map (·.val)

/-- The member of an atomic command that a prepared record stands for: the sequence engine of a context, the unit that joins a group,
the device for a lease or a group's definition. -/
def prepUnit (p : PrepRec) : PUnit :=
  if hOpcode p.hdr / 256 = 5 then .seqEngine 0
  else if hOpcode p.hdr = 0x0801 then (unitOfUid (hTarget p.hdr % 2 ^ 32)).getD .device
  else .device

/-- The members on this device that a prepared record holds: a GROUP_DEFINE that this device leads holds its own units that join. -/
def prepUnits (s : State) (p : PrepRec) : List PUnit :=
  if hOpcode p.hdr = 0x0801 && p.lead = selfId s then
    .device :: (reachOf s (parsedMembers s (paramNat p.params))).filterMap fun m => match m with | .unit u => some u | _ => none
  else [prepUnit p]

/-- Whether a domain holds a prepared atomic member, which holds its fence back (R510). -/
def fenceHeld (s : State) (root : PUnit) : Bool := s.cmd.prepared.any fun p => (prepUnits s p).any fun u => root ∈ domains u

/-- Whether a unit is, holds or is the root of a domain of a prepared member: it does not go out of service before the decision
(R41, R510). -/
def takeHeld (s : State) (u : PUnit) : Bool :=
  fenceHeld s u || s.cmd.prepared.any fun p => (prepUnits s p).any fun v => v = u || (contents u).contains v

/-- A larger domain that is already fenced or resetting (R634). -/
def largerAct (s : State) (root : PUnit) : Option DomAct :=
  s.rst.acts.find? fun a => a.root ∈ domains root && a.root ≠ root

/-- The own state of a root whose fence or reset ends in a larger one: a port's is that of its link (R515). -/
def freedOwn (s : State) (u : PUnit) : UState :=
  match u with
  | .port _ => readyOwn s u
  | _ => .ready

/-- Puts a domain's act in place, with the commands of those it absorbs; the absorbed roots keep no state of their own.
-/
def putAct (s : State) (a : DomAct) (st : UState) : State :=
  let inner := absorbed s a.root
  let s := inner.foldl (fun s b => dropAct (setOwn s b.root (freedOwn s b.root)) b.root) s
  let s := dropAct s a.root
  let a := { a with cmds := a.cmds ++ inner.flatMap (·.cmds) }
  let s := modUnit s a.root fun r => { r with own := st, startAt := a.startAt, cause := a.cause }
  let s := abandonVerdicts s (domainCores a.root) a.root
  tellState { s with rst := { s.rst with acts := s.rst.acts ++ [a] } } a.root

/-- Time a reset takes at most, ns (R631). -/
def resetTime : PUnit → Nat
  | .core _ => 20000
  | .cluster _ => 400000
  | .die _ => 2000000
  | .device => 20000000
  | .channel _ => 60000000
  | .port _ => 1000000
  | _ => 100000000

/-- The reset proper: what the domain clears, the epochs of its units, RESETTING (R631, R35). -/
def beginReset (s : State) (root : PUnit) (cause : Nat) (cmds : List Nat) (startAt : Nat) : State :=
  let s := putAct s ⟨root, .resetting (now s) (now s + resetTime root), cause, cmds, startAt⟩ .resetting
  let s := clearDomain s root
  checkAllReady (bumpUnits s false 2 (domainUnits root) []) cause startAt

/-- Counts toward escalation (R640, R641): resets of this root, and of the device as a whole, within their windows. -/
def escalates (s : State) (root : PUnit) : Bool × Bool :=
  let t := now s
  let mine := s.rst.hist.filter fun h => h.1 = uidOf root && t < h.2 + s.limits.uwin * 1000000000
  let all := s.rst.hist.filter fun h => t < h.2 + s.limits.dwin * 1000000000
  (mine.length ≥ s.limits.ucount, all.length ≥ s.limits.dcount)

/-- Whether a reset of a domain that begins now would put the device out of service by its threshold (R641). -/
def endsDevice (s : State) (root : PUnit) : Bool :=
  (escalates { s with rst := { s.rst with hist := s.rst.hist ++ [(uidOf root, now s)] } } root).2

/-- Takes a unit out of service: its epoch and those of what it holds, the record in flash, ports held down (R35, R515,
R643). -/
def takeOut (s : State) (u : PUnit) : State :=
  let s := setOwn s u .outOfService
  let s := match u with
    | .port p =>
      let was := decide ((s.ports[p]).phase = PortPhase.up ∨ (s.ports[p]).phase = PortPhase.up2)
      let t := portHandoff s p
      let t := { t with ports := t.ports.set p { t.ports[p] with phase := .disabled } }
      if was && xOnly s p then mirrorLinkDown t else t
    | _ => s
  let s := { s with sec := { s.sec with flashOos := if u ∈ s.sec.flashOos then s.sec.flashOos else s.sec.flashOos ++ [u] } }
  let s := bumpUnits s false 3 (u :: contents u) []
  tellState (checkAllReady s 0 (now s)) u

/-- Ends what a unit taken out of service was doing, beyond its commands: a core's program and its engines' entries, a channel's
test, the step of a sequence engine. -/
def stopUnit (s : State) (u : PUnit) : State :=
  match u with
  | .core c =>
    let x := getCore s c
    let s := x.dma.foldl (fun s e => dropReqs s c stFenced e.seq) s
    putCore s c { x with phase := .idle, matQ := [], vecQ := [], dma := [], dmaStat := [], unacked := [], pend := none, verdict := .open, cont := none, rebind := none }
  | .engine c e =>
    if e = 3 then
      ((getCore s c).dma.filter fun g => !entEnded g).foldl (fun s g => endEnt s c g.seq (withCause stFenced (uidOf (.core c)))) s
    else s
  | .channel n => { s with channels := s.channels.set n { s.channels[n] with testing := none } }
  | .seqEngine d => if d = 0 then abandonStep s stFenced (uidOf (.die 0)) else s
  | _ => s

/-- The fence of units that go out of service (R41): work on a unit and on what it contains is answered ST_FENCED, `keep`
excepted. DETAIL names the root of the innermost reset domain of the unit. -/
def fenceOut (s : State) (u : PUnit) (keep : List Nat) : State :=
  let us := u :: contents u
  let root := (domains u).headD u
  let s := abandonVerdicts s (us.filterMap fun v => (match v with | .core c => some c.val | _ => none)) root
  let s := answerUnits s (fun v => us.contains v) (uidOf root) stFenced keep
  us.foldl stopUnit s

/-- An escalation's audit entry, and the note that the device itself is out of service by one (R616, R643). -/
def auditEscalation (s : State) (u : PUnit) : State :=
  let s := if u = .device then { s with sec := { s.sec with flashEsc := true } } else s
  auditPut s 0x0009 4 3 false { AuditPriv.zero with target := uidOf u }

/-- After a reset that counts: the root unit, or the device, goes out of service at its threshold (R641, R643, R644). -/
def escalate (s : State) (root : PUnit) : State :=
  let s := { s with rst := { s.rst with hist := s.rst.hist ++ [(uidOf root, now s)] } }
  let x := escalates s root
  let out := fun s u =>
    let ids := match findAct s u with | some a => a.cmds | none => []
    endResetCmds (auditEscalation (takeOut (dropAct s u) u) u) u ids true
  let s := if x.1 then out s root else s
  if x.2 then out (fenceOut (answerDomain s .device stTimeout []) .device []) .device else s

/-! ### Dumps (R645, R646, R690) -/

/-- One section of a dump: its header of TYPE, UID and LENGTH, and its contents filled to a multiple of 64 bytes (R689). -/
def dumpSection (typ uid : Nat) (bs : List Byte) : List Byte :=
  let n := (16 + bs.length + 63) / 64 * 64
  leBytes 2 typ ++ leBytes 2 0 ++ leBytes 4 uid ++ leBytes 4 n ++ leBytes 4 0 ++ bs ++ List.replicate (n - 16 - bs.length) 0

/-- The units of a domain whose state a section type holds (R689): cores, attention units, sequence engines, clusters, and the dies
whose command processors lie in it. -/
def dumpUnits (typ : Nat) (root : PUnit) : List PUnit :=
  if typ = 6 ∨ typ = 7 then [root]
  else (domainUnits root).filter fun u => match u with
    | .core _ => typ = 1 ∨ typ = 2
    | .attn _ => typ = 3
    | .seqEngine _ => typ = 4
    | .cluster _ => typ = 5
    | .die _ => typ = 8
    | _ => false

/-- The contents of a section: trace and fault records as they are read, what has no layout as captured (R645, R689; log entry 8). -/
def dumpContents (s : State) (root : PUnit) (typ : Nat) (u : PUnit) : List Byte :=
  match typ, u with
  | 5, .cluster k => (s.clusters[k]).trace.flatMap fun r => leBytes 16 r.toNat
  | 7, _ => (s.faults.toList.flatMap (·.recs)).flatMap fun r =>
      if isLocalFuid s r.subject && (domainUnits root).any fun v => uidOf v = r.subject % 2 ^ 32 then leBytes 64 (faultBits r) else []
  | t, v => Config.dumpPart s.free t (uidOf v)

/-- The body of a dump: its sections in ascending type and, within a type, ascending UID; at most 2 MiB (R645, R689). -/
def dumpBody (s : State) (root : PUnit) : List Byte :=
  ([1, 2, 3, 4, 5, 6, 7, 8].flatMap fun t =>
    ((dumpUnits t root).mergeSort fun a b => uidOf a ≤ uidOf b).flatMap fun u =>
      dumpSection t (uidOf u) (dumpContents s root t u)).take 2097152

/-- Captures a dump of a domain; returns its number. -/
def captureDump (s : State) (root : PUnit) : Nat × State :=
  let n := if s.lease.openL then s.lease.dumpNo + 1 else s.dumpCount + 1
  let s := if s.lease.openL then { s with lease := { s.lease with dumpNo := n } } else { s with dumpCount := n }
  let d : DumpRec := ⟨n, uidOf root, now s, false, s.lease.openL, dumpBody s root⟩
  let ds := if s.dumps.length < 32 then s.dumps
    else match s.dumps.findIdx? (·.collected) with
      | some i => s.dumps.eraseIdx i
      | none => s.dumps.drop 1
  (n, { s with dumps := ds ++ [d], free := s.free + 1 })

/-! ### Commands -/

/-- MGMT_RESET (R633, R634): fences and resets the domain; a sequence engine names its die's. -/
def execMgmtReset (id : Nat) (s : State) : Res :=
  if (findCmd s id).any fun c => match c.target with | .unit u => fenceHeld s ((domains u).headD .device) | _ => false then .next s
  else runCmd s id 0x0104 fun s _ u =>
    let root := match u with | .seqEngine d => .die d | u => u
    match largerAct s root with
    | some a => { s with rst := { s.rst with acts := s.rst.acts.map fun b =>
        if b.root = a.root then { b with cmds := b.cmds ++ [id] } else b } }
    | none =>
      let s := answerDomain s root stFenced [id]
      beginReset s root 2 [id] (now s)

/-- HANG_DRAIN_END (R637, R641, R645): answers what is outstanding, captures the dump, resets the domain and counts the
reset. The device going out of service is not reset (R644). -/
def execHangDrainEnd (root : PUnit) (s : State) : Res :=
  match findAct s root with
  | none => .next s
  | some a =>
    match a.phase with
    | .resetting _ _ => .next s
    | .draining t =>
      if now s < t || fenceHeld s root || (endsDevice s root && fenceHeld s .device) then .next s
      else
        let hung := s.cmd.inflight.find? fun c => c.hung = some root && c.phase ≠ .finished
        let hungIds := (s.cmd.inflight.filter fun c => c.hung = some root && c.phase ≠ .finished).map (·.id)
        let s := answerDomain s root stTimeout []
        let s := hungIds.foldl (fun s id => finishCmd s id stTimeout (uidOf root)) s
        let (n, s) := captureDump s root
        let info := match hung with
          | some c => hTag c.hdr + (match cmdQp s c with | some q => q | none => 0) * 2 ^ 16
          | none => 0
        let s := faultReport s (concentratorOf root) (fuidOf s (uidOf root)) (getUnit s root).epoch 0x0002 0
          (uidOf root) n 0 info
        let s := beginReset s root a.cause a.cmds a.startAt
        .next (escalate s root)

/-- The domain that contains a domain, for the fallback of R635. -/
def nextDomain : PUnit → Option PUnit
  | .core c => some (.cluster (clusterOfCore c))
  | .cluster k => some (.die (dieOfCluster k))
  | .die _ => some .device
  | _ => none

/-- RESET_FAULT_ESCALATE (R635, R640, R641): a reset not ready within four times its bound. -/
def execResetFaultEscalate (root : PUnit) (s : State) : Res :=
  match findAct s root with
  | none => .next s
  | some a =>
    match a.phase with
    | .draining _ => .next s
    | .resetting t _ =>
      if now s < t + 4 * resetTime root || (nextDomain root).any (fun r => fenceHeld s r || (endsDevice s r && fenceHeld s .device))
          || (root = .device && fenceHeld s .device) then .next s
      else match nextDomain root with
        | some r =>
          let s := faultUnit s root 0x0010 0 (uidOf root) 0 (uidOf root)
          let (_, s) := captureDump s r
          let s := answerDomain s r stFenced a.cmds
          let s := beginReset s r 3 a.cmds a.startAt
          .next (escalate s r)
        | none =>
          if root = .device then
            let s := fenceOut (answerDomain s .device stFenced a.cmds) .device a.cmds
            .next (endResetCmds (auditEscalation (takeOut (dropAct s .device) .device) .device) .device a.cmds true)
          else .next s

/-- Step 7 of MGMT_OUT_OF_SERVICE: bit [511] alone (R490). -/
def checkOutOfService (ps : List (BitVec 512)) : List Nat := rsvBad (paramNat ps) [(510, 0)]

/-- MGMT_OUT_OF_SERVICE with bit [511] set (R490, R41): work on the unit is answered ST_FENCED. -/
def execMgmtOutOfServiceTake (id : Nat) (s : State) : Res :=
  match waiting s id 0x0103 with
  | none => .next s
  | some c =>
    if !(paramNat c.params).testBit 511 || (match c.target with | .unit u => takeHeld s u | _ => false) then .next s
    else runCmd s id 0x0103 fun s _ u => finishCmd (takeOut (fenceOut s u [id]) u) id stOk 0

/-- A unit out of service back in: no longer held at a boot, and its epoch and those of what it contains counted up (R34,
R644). -/
def backInService (s : State) (u : PUnit) : State :=
  let esc := s.sec.flashEsc && u ≠ .device
  bumpUnits { s with sec := { s.sec with flashOos := s.sec.flashOos.filter (· ≠ u), flashEsc := esc } } false 3 (u :: contents u) []

/-- A port or a channel that comes back trains anew (R410, R516). -/
def restorePort (s : State) (u : PUnit) : State :=
  match u with
  | .port p => { s with ports := s.ports.set p { s.ports[p] with phase := .down } }
  | .channel n =>
    let t := (s.channels[n]).train.toNat
    { s with channels := s.channels.set n { s.channels[n] with train := BitVec.ofNat 64 (bits t 60 0) } }
  | _ => s

/-- MGMT_OUT_OF_SERVICE with bit [511] clear (R644): a unit comes up again with CAUSE 4; the device is reset. -/
def execMgmtOutOfServiceRestore (id : Nat) (s : State) : Res :=
  match waiting s id 0x0103 with
  | none => .next s
  | some c =>
    if (paramNat c.params).testBit 511 then .next s
    else runCmd s id 0x0103 fun s _ u =>
      if (getUnit s u).own ≠ .outOfService then finishCmd s id stOk 0
      else
        let s := backInService s u
        if u = .device then
          finishCmd (beginReset (setOwn (answerDomain s .device stFenced [id]) .device .ready) .device 4 [] (now s)) id stOk 0
        else
          let s := modUnit s u fun r => { r with own := .notReady, cause := 4, startAt := now s }
          finishCmd (tellState (checkAllReady (restorePort s u) 4 (now s)) u) id stOk 0

/-! ### Channels and the bridge -/

/-- CHANNEL_LOST (R413): a channel in use loses training. -/
def execChannelLost (n : Fin 256) (s : State) : Res :=
  if !isReady (getUnit s (.channel n)).own then .next s
  else
    let s := setOwn (fenceOut s (.channel n) []) (.channel n) .outOfService
    let s := { s with channels := s.channels.set n { s.channels[n] with lost := true } }
    let s := bumpUnits s false 3 [.channel n] []
    let s := unitEvent s 0x000B (uidOf (.channel n)) (epochOf s (.channel n)) 0 1 0
    .next (checkAllReady (channelDamage s n) 0 (now s))

/-- Ends the fences and resets that run in a die, with ST_FENCED for the commands that wait for them: the die stays fenced. -/
def endDieActs (s : State) (d : Fin 2) : State :=
  (s.rst.acts.filter fun a => (.die d : PUnit) ∈ domains a.root).foldl (fun s a =>
    let s := a.cmds.foldl (fun s id => finishCmd s id stFenced (uidOf (.die d))) s
    dropAct (setOwn s a.root (freedOwn s a.root)) a.root) s

/-- Fences both dies once the bridge has failed and neither holds a prepared atomic member (R404, R510). -/
def bridgeFence (s : State) : State :=
  if !s.rst.bridgeDue || fenceHeld s (.die 0) || fenceHeld s (.die 1) then s
  else
    let s := { s with rst := { s.rst with bridgeDue := false } }
    let s := answerDomain (answerDomain s (.die 0) stFenced []) (.die 1) stFenced []
    let s := endDieActs (endDieActs s 0) 1
    let s := setOwn (setOwn s (.die 0) .fenced) (.die 1) .fenced
    checkAllReady s 3 (now s)

/-- BRIDGE_FAULT (R404, R687): both dies are fenced until a device reset. -/
def execBridgeFault (s : State) : Res :=
  if s.rst.porAt.isNone || s.rst.bridge then .next s
  else
    let s := { s with rst := { s.rst with bridge := true } }
    let s := emit (faultUnit s .device 0x0008 0 (uidOf .device) 0 0) (.pin "FAULT_N" false)
    .next (bridgeFence { s with rst := { s.rst with bridgeDue := true } })

/-- Step 7 of MEM_TEST (R415). -/
def checkMemTest (ps : List (BitVec 512)) : List Nat :=
  let p := paramNat ps
  let mode := bits p 255 252
  let pat := bits p 251 248
  let start := bits p 175 144
  let len := bits p 143 112
  chk (1 ≤ mode && mode ≤ 3) (512 + 252) ++ chk (pat ≤ 4) (512 + 248) ++ chk (bits p 247 240 ≥ 1) (512 + 240)
    ++ chk (if pat = 2 then bits p 239 208 ≠ 0 else bits p 239 208 = 0) (512 + 208)
    ++ chk (start % 64 = 0) (512 + 144) ++ chk (len ≠ 0 && len % 64 = 0 && start + len ≤ 0x60000000) (512 + 112)
    ++ rsvBad p [(511, 256), (207, 176), (111, 0)]

/-- MEM_TEST (R414, R417): the channel is NOT_READY to every other command while it is tested, to a second test accepted
before the first began too. -/
def execMemTest (id : Nat) (s : State) : Res :=
  runCmd s id 0x0120 fun s k u =>
    match u with
    | .channel n =>
      if (s.channels[n]).testing.isSome then finishCmd s id stNotReady (uidOf u)
      else
        let p := paramNat k.params
        let t := (id, (getUnit s u).own, bits p 175 144, bits p 143 112)
        checkAllReady { s with channels := s.channels.set n { s.channels[n] with testing := some t } } 2 (now s)
    | _ => finishCmd s id stBadParam (badDetail [384 + 27])

/-- Clears a tested range of a channel as the HBM clear does (R417). -/
def clearTested (s : State) (n start len : Nat) : State :=
  let mine := fun a => isHbm a && hbmChannel a = n && start ≤ hbmOffset a && hbmOffset a < start + len
  { s with
    ecc := { s.ecc with lines := freshLines (fun l => mine (l * 64)) s.ecc.lines }
    mem := { s.mem with
      bytes := s.mem.bytes.filter fun e => !mine e.1
      poison := s.mem.poison.filter fun e => !mine (e.1 * 64)
      tags := s.mem.tags.filter fun e => !mine (e.1 * 64)
      lineKey := s.mem.lineKey.filter fun e => !mine (e.1 * 64) } }

/-- MEM_TEST_END (R416, R417): the result is written at the member-vector pointer, the range is cleared, and the channel
reports its earlier state. A write that completes in error ends the command with ST_XLATE_FAULT (R471). -/
def execMemTestEnd (n : Fin 256) (r : TestIn) (s : State) : Res :=
  match (s.channels[n]).testing with
  | none => .next s
  | some (id, _, start, len) =>
    let s := { s with channels := s.channels.set n { s.channels[n] with testing := none } }
    let s := touchDoze (clearTested s n start len) (216 + n / 32)
    match findCmd s id with
    | none => .next (checkAllReady s 2 (now s))
    | some c =>
      let t0 := c.startedAt.getD (now s)
      let bad := r.errors > 0
      let res := r.lanes.toNat * 2 ^ 174 + min r.errors 0xFFFFFFFF * 2 ^ 142 + (if bad then r.firstOff % 2 ^ 32 * 2 ^ 110 else 0)
        + (now s - t0) % 2 ^ 64 * 2 ^ 32 + stOk * 2 ^ 16
      let (mv, root) := match c.origin with
        | .sub q i => (match findCmd s q with | some pc => (if hMvbuf pc.hdr = 0 then 0 else hMvbuf pc.hdr + 32 * i, q) | none => (0, id))
        | _ => (hMvbuf c.hdr, id)
      let lost := mv ≠ 0 && hostWriteFails s c mv 32
      let s := if mv = 0 then s
        else updCmd (hostWriteCmd s c mv (leBytes 32 res)) root fun x => if lost then x else { x with mvptr := hMvbuf x.hdr }
      .next (checkAllReady (finishCmd s id (if lost then stXlateFault else stOk) 0) 2 t0)

end Sys2Proof.Machine
end

