-- ==== Sys2Proof/Machine/HostIf.lean ====
section
/-! DEFINITION. The host interface: access to BAR0 and BAR2, registers, doorbells of completion queues and event rings,
MSI-X, queue pair 0, the TDI and its streams, and resets of the host function domain (16_host_interface.md;
21_registers.md). -/

namespace Sys2Proof.Machine

/-! ### Access (R569 to R572, R756) -/

/-- A trusted request (R572). -/
def trusted (s : State) (t : TlpIn) : Bool :=
  s.host.tdi = .run && t.tbit && (match s.host.bound, t.stream with
    | some (b, _), some x => b == x
    | _, _ => false)

/-- Whether a BAR0 offset lies in a TEE-in-lease region (R569). -/
def teeOffset (off : Nat) : Bool :=
  (0x10000 ≤ off && off < 0x20000) || (0x101000 ≤ off && off < 0x200000)

/-- Whether the tenant regions admit a request (R571): open without a lease, trusted requests in RUN during one. -/
def tenantOpen (s : State) (t : TlpIn) : Bool := if s.lease.openL then trusted s t else true

/-- What becomes of a request before its register is looked at. -/
inductive Access where
  | admitted
  | refused
  | dropped
  deriving DecidableEq, Repr

/-- BAR0 access, within its 16 MiB (R568, R570 to R572, R756). -/
def access0 (s : State) (t : TlpIn) : Access :=
  if !s.host.ready || t.off + t.len > 2 ^ 24 then .dropped
  else if teeOffset t.off && !tenantOpen s t then .refused
  else if !((t.len = 4 || t.len = 8) && t.off % t.len = 0 && t.bar = 0) then .dropped
  else .admitted

/-- BAR2 access, within its 64 GiB (R568, R571, R574, R756). -/
def access2 (s : State) (t : TlpIn) : Access :=
  let a := s.host.bar2.toNat + t.off
  if !s.host.ready || t.off + t.len > 2 ^ 36 then .dropped
  else if !tenantOpen s t || !inLeaseHbm a t.len || kvProtected s a t.len || hbmBusy s then .refused
  else .admitted

/-- A read's Unsupported Request. -/
def answerUr (s : State) (t : TlpIn) : State := if t.write then s else emit s (.readReply [] true [])

/-- Counts a refused request and answers it (R572, R706). -/
def refuseTlp (s : State) (t : TlpIn) : State :=
  let n := s.host.refused
  answerUr { s with host := { s.host with refused := if n = BitVec.allOnes 64 then n else n + 1 } } t

/-- Runs a BAR0 request's effect when it is admitted. -/
def onBar0 (s : State) (t : TlpIn) (f : State → State) : Res :=
  match access0 s t with
  | .admitted => .next (f s)
  | .refused => .next (refuseTlp s t)
  | .dropped => .next (answerUr s t)

/-! ### Configuration space (R436, R566 to R568, R577) -/

/-- A request to configuration space: answered with Configuration Request Retry Status until the function is ready (R567); none comes
while the link is down. -/
def onConfig (s : State) (f : State → State) : Res :=
  if !s.host.linkUp then .next s else if !s.host.ready then .next (emit s .configRetry) else .next (f s)

/-- A register of configuration space: the base address registers, BAR0 64-bit and not prefetchable of 16 MiB, BAR2 64-bit and
prefetchable of 64 GiB, at 0x10 to 0x27; the ATS enable, bit 31 at 0x104; every other register that is modelled reads 0, No_Soft_Reset
in it (R436, R568, R587). The layout is PCI Express's, the place of the ATS capability the model's (PRESUMED, log entry 137). -/
def configReg (s : State) (off : Nat) : Nat :=
  if off = 0x10 then bits s.host.bar0At.toNat 31 24 * 2 ^ 24 + 4
  else if off = 0x14 then bits s.host.bar0At.toNat 63 32
  else if off = 0x18 then 12
  else if off = 0x1C then bits s.host.bar2At.toNat 63 36 * 2 ^ 4
  else if off = 0x104 then b2n s.xl.atsOn * 2 ^ 31
  else 0

/-- Half of a base address register, with the other half kept. -/
def barHalf (r : BitVec 64) (high : Bool) (v : Nat) : BitVec 64 :=
  BitVec.ofNat 64 (if high then v * 2 ^ 32 + bits r.toNat 31 0 else bits r.toNat 63 32 * 2 ^ 32 + v)

/-- Writes a register of configuration space. -/
def writeConfig (s : State) (off v : Nat) : State :=
  if off = 0x10 ∨ off = 0x14 then { s with host := { s.host with bar0At := barHalf s.host.bar0At (off = 0x14) v } }
  else if off = 0x18 ∨ off = 0x1C then { s with host := { s.host with bar2At := barHalf s.host.bar2At (off = 0x1C) v } }
  else if off = 0x104 then { s with xl := { s.xl with atsOn := v.testBit 31 } }
  else s

/-- TLP_REFUSED (R572, R598): a request to a closed region, or an untrusted one. -/
def execTlpRefused (t : TlpIn) (s : State) : Res :=
  let x := if t.bar = 2 then access2 s t else access0 s t
  match x with
  | .refused => .next (refuseTlp s t)
  | _ => .next s

/-! ### Reading registers (R697 to R710, R719 to R725) -/

/-- ID (R701). -/
def regId (s : State) : Nat := 0x5A01 * 2 ^ 48 + 0xA0 * 2 ^ 40 + b2n s.sec.grade * 2 ^ 38 + 1 * 2 ^ 16

/-- DEVID (R702). -/
def regDevid (s : State) : Nat :=
  let i := s.fab.ident.toNat
  bits i 511 511 * 2 ^ 63 + bits i 510 496 * 2 ^ 48 + bits i 468 463 * 2 ^ 42 + bits i 489 489 * 2 ^ 41
    + bits i 495 495 * 2 ^ 40

/-- The lease state: 0 NONE, 1 OPEN, 2 CLOSING (R703). -/
def leaseState (s : State) : Nat := if !s.lease.openL then 0 else if s.lease.closing.isSome then 2 else 1

/-- LSTAT (R703). -/
def regLstat (s : State) : Nat :=
  leaseState s * 2 ^ 62 + tdiCode s.host.tdi * 2 ^ 60 + b2n s.lease.scrubbed * 2 ^ 59
    + b2n (s.lease.openL && s.lease.mirror) * 2 ^ 58 + (dieOf s 0).profile * 2 ^ 56 + (dieOf s 1).profile * 2 ^ 54
    + (if s.lease.openL then s.lease.injrate * 2 ^ 32 + s.lease.id.toNat else 0)

/-- FAULTFLAGS (R705). -/
def regFaultflags (s : State) : Nat :=
  b2n s.host.newFault * 2 ^ 63 + b2n (vget s.faults .init 0).summary * 2 ^ 62 + b2n (vget s.faults .init 1).summary * 2 ^ 61
    + b2n (faultN s) * 2 ^ 60 + b2n s.rst.tripped * 2 ^ 59 + b2n s.rst.bridge * 2 ^ 58
    + b2n (decide ((getUnit s .device).own = .outOfService)) * 2 ^ 57

/-- Register `k` of a snapshot structure: from the snapshot where one stands, the lowest always as it is at the read (R698, R699). -/
def snapWord (snap : Option Nat) (live k : Nat) : Nat := bits (if k = 0 then live else snap.getD live) (64 * k + 63) (64 * k)

/-- PACE as the management region shows it: during a lease the record of the last completed window (R709). -/
def regPace (s : State) : Nat := if s.lease.openL then s.pace.winRecord.toNat else s.pace.record.toNat

/-- Lease-region registers read their reset values outside a lease (R720). -/
def inLease (s : State) (v r : Nat) : Nat := if s.lease.openL then v else r

/-- The 8-byte value of the register at an aligned offset; 0 for reserved offsets. -/
def readReg (s : State) (off : Nat) : Nat :=
  if off = 0x00 then regId s
  else if off = 0x08 then regDevid s
  else if off = 0x10 then regLstat s
  else if off = 0x18 then (vget s.faults .init 0).seq * 2 ^ 32 + (vget s.faults .init 1).seq
  else if off = 0x20 then regFaultflags s
  else if off = 0x28 then s.host.refused.toNat
  else if 0x40 ≤ off ∧ off < 0x80 then snapWord (s.host.snapRdy.map (·.toNat)) (readinessSummary s) ((off - 0x40) / 8)
  else if off = 0x80 then now s
  else if off = 0x88 then tbStatus s
  else if off = 0x90 then regPace s
  else if off = 0xA0 ∨ off = 0xA8 then
    snapWord (s.host.snapPwr.map (·.toNat)) (powerStatus s (!s.lease.openL)) ((off - 0xA0) / 8)
  else if off = 0x100 then s.host.mqSq.toNat
  else if off = 0x108 then s.host.mqCq.toNat
  else if off = 0x110 then s.host.mqCtl.toNat
  else if off = 0x140 then s.host.mer.base.toNat
  else if off = 0x148 then s.host.mer.ctl.toNat
  else if off = 0x10040 then inLease s s.host.ler.base.toNat 0
  else if off = 0x10048 then inLease s s.host.ler.ctl.toNat 0
  else if off = 0x10080 then s.host.bar2.toNat
  else if off = 0x100C0 then s.pace.record.toNat
  else if off = 0x100C8 ∨ off = 0x100D0 then
    snapWord (s.host.snapLpwr.map (·.toNat)) (powerStatus s true) ((off - 0x100C8) / 8)
  else if 0x10100 ≤ off ∧ off < 0x10140 then
    inLease s (snapWord (s.host.snapBoot.map (·.toNat)) s.host.bootRec.toNat ((off - 0x10100) / 8)) 0
  else if off = 0x10140 then inLease s s.host.bootCtl.toNat 0
  else if 0x20000 ≤ off ∧ off < 0x28000 then
    bits (msixEntry s ((off - 0x20000) / 16)).toNat (64 * (off / 8 % 2) + 63) (64 * (off / 8 % 2))
  else if 0x28000 ≤ off ∧ off < 0x28100 then
    (List.range 64).foldl (fun a i => a + b2n (smapGet false s.host.pend ((off - 0x28000) * 8 + i)) * 2 ^ i) 0
  else 0

/-- The snapshot that an 8-byte read of a structure's lowest register takes (R699). -/
def takeSnapshot (s : State) (off : Nat) : State :=
  if off = 0x40 then { s with host := { s.host with snapRdy := some (BitVec.ofNat 512 (readinessSummary s)) } }
  else if off = 0xA0 then { s with host := { s.host with snapPwr := some (BitVec.ofNat 128 (powerStatus s (!s.lease.openL))) } }
  else if off = 0x100C8 then { s with host := { s.host with snapLpwr := some (BitVec.ofNat 128 (powerStatus s true)) } }
  else if off = 0x10100 then { s with host := { s.host with snapBoot := some s.host.bootRec } }
  else s

/-- REGISTER_SNAPSHOT_READ (R567, R570, R698, R699): a read of BAR0, or of configuration space. -/
def execRegisterSnapshotRead (t : TlpIn) (s : State) : Res :=
  if t.write then .next s
  else if t.bar = 6 then onConfig s fun s => emit s (.readReply (leBytes 4 (configReg s t.off)) false [])
  else onBar0 s t fun s =>
    let s := if t.len = 8 then takeSnapshot s t.off else s
    let v := readReg s (t.off / 8 * 8)
    let v := if t.len = 8 then v else bits v (8 * (t.off % 8) + 31) (8 * (t.off % 8))
    emit s (.readReply (leBytes t.len v) false [])

/-! ### Writing registers (R698) -/

/-- The 8-byte value a write stands for: the half it does not cover holds `keep` (R698). -/
def writeValue (t : TlpIn) (keep : Nat) : Nat :=
  let v := fromLe t.data
  if t.len = 8 then v
  else if t.off % 8 = 0 then v + keep / 2 ^ 32 * 2 ^ 32 else v * 2 ^ 32 + keep % 2 ^ 32

/-- The register a write addresses. -/
def regOf (t : TlpIn) : Nat := t.off / 8 * 8

/-- Bits of MQ_CTL and of a ring's CTL that software sets, without ENABLE. -/
def mqFields : Nat := bits (2 ^ 64 - 1) 60 21 * 2 ^ 21
def ringFields : Nat := bits (2 ^ 64 - 1) 60 25 * 2 ^ 25

def mqActive (s : State) : Bool := s.host.mqCtl.toNat.testBit 62
def mqEnabled (s : State) : Bool := s.host.mqCtl.toNat.testBit 63

def setMqCtl (s : State) (v : Nat) : State := { s with host := { s.host with mqCtl := BitVec.ofNat 64 v } }

/-- A ring access of a pair that completed in error: fetching stops until QP_DELETE, a QUEUE_ERROR event is written, and pair 0 sets
ERR (R471, R711, R713). -/
def ringFailed (s : State) (n : Nat) (q : QpSt) : State :=
  let s := setQp s n (some { q with stopped := true })
  let s := if n = 0 then setMqCtl s (s.host.mqCtl.toNat ||| 2 ^ 61) else s
  ringEvent s (q.role = .tenant) ⟨0x0010, fuidOf s (uidOf .hostIf), epochOf s .hostIf, 0, 1, n⟩

/-- Whether MQ_CTL may enable pair 0 (R712). -/
def mqOk (s : State) (v : Nat) : Bool :=
  let sq := bits v 60 57
  let cq := bits v 56 53
  7 ≤ sq && sq ≤ 16 && 7 ≤ cq && cq ≤ 16 && (v.testBit 52 || bits v 51 32 == 0) && s.host.ready

/-- Pair 0 as MQ_CTL and the base registers give it (R711, R712). -/
def mqPair (s : State) (v : Nat) : QpSt :=
  { sqlog := bits v 60 57, cqlog := bits v 56 53, prio := 0, pasid := if v.testBit 52 then some (bits v 51 32) else none,
    vec := bits v 31 21, sqBase := s.host.mqSq.toNat, cqBase := s.host.mqCq.toNat, role := .operator, sqTail := 0,
    sqHead := 0, cqTail := 0, cqHead := 0, cqFull := false, phase := true, seqno := 1, stopped := false, deleting := [], ring := [] }

/-- Whether commands fetched from a pair are still to complete, other than some. -/
def pairBusy (s : State) (n : Nat) (but : List Nat) : Bool := s.cmd.inflight.any fun c => c.origin = .qp n && !but.contains c.id

/-- Lets a pair that is being deleted go once every command fetched from it has completed and the QP_DELETE runs (R458, R713). -/
def tryDeletePair (s : State) (n : Nat) : State :=
  match getQp s n with
  | none => s
  | some q =>
    if q.deleting.isEmpty || pairBusy s n q.deleting then s
    else if n = 0 then setQp (setMqCtl s (s.host.mqCtl.toNat &&& (2 ^ 64 - 1 - 2 ^ 62))) 0 none
    else
      let run := q.deleting.filter fun id => (findCmd s id).any fun c => c.phase = .started
      let own := q.deleting.any fun id => (findCmd s id).any fun c => c.origin = .qp n
      run.foldl (fun s id => finishCmd s id stOk 0) (if run.isEmpty || own then s else setQp s n none)

/-- MQ_ENABLE (R712): a write that sets ENABLE while ACTIVE is 0. -/
def execMqEnable (t : TlpIn) (s : State) : Res :=
  if !t.write || regOf t ≠ 0x110 then .next s
  else onBar0 s t fun s =>
    let v := writeValue t s.host.mqCtl.toNat
    if mqActive s || !v.testBit 63 then s
    else if mqOk s v then
      setQp (setMqCtl s ((v &&& mqFields) + 2 ^ 63 + 2 ^ 62)) 0 (some (mqPair s v))
    else setMqCtl s ((v &&& mqFields) + 2 ^ 61)

/-- MQ_DISABLE (R713): a write that clears ENABLE while ACTIVE is 1. -/
def execMqDisable (t : TlpIn) (s : State) : Res :=
  if !t.write || regOf t ≠ 0x110 then .next s
  else onBar0 s t fun s =>
    let v := writeValue t s.host.mqCtl.toNat
    if !mqActive s || !mqEnabled s || v.testBit 63 then s
    else
      let s := setMqCtl s (s.host.mqCtl.toNat &&& (2 ^ 64 - 1 - 2 ^ 63))
      match getQp s 0 with
      | none => s
      | some q => tryDeletePair (setQp s 0 (some { q with stopped := true, deleting := [0] })) 0

/-- Whether a ring's CTL may enable it (R715). -/
def ringOk (s : State) (v : Nat) : Bool :=
  7 ≤ bits v 60 57 && bits v 60 57 ≤ 16 && (v.testBit 56 || bits v 55 36 == 0) && s.host.ready

/-- The ring whose CTL a write addresses; the lease ring only in a lease (R720). -/
def ctlRing (s : State) (off : Nat) : Option Bool :=
  if off = 0x148 then some false else if off = 0x10048 ∧ s.lease.openL then some true else none

/-- EVENT_RING_ENABLE (R715): the ring starts empty, its sequence at 1, with the overflow report first. -/
def execEventRingEnable (t : TlpIn) (s : State) : Res :=
  match ctlRing s (regOf t) with
  | none => if t.write && teeOffset t.off then onBar0 s t id else .next s
  | some lease =>
    if !t.write then .next s
    else onBar0 s t fun s =>
      let r := ringOf s lease
      let v := writeValue t r.ctl.toNat
      if ringActive r || !v.testBit 63 then s
      else if ringOk s v then
        ringReport (setRing s lease { r with
          ctl := BitVec.ofNat 64 ((v &&& ringFields) + 2 ^ 63 + 2 ^ 62), head := 0, tail := 0, full := false, phase := true, seq := 1 }) lease
      else setRing s lease { r with ctl := BitVec.ofNat 64 ((v &&& ringFields) + 2 ^ 61) }

/-- EVENT_RING_DISABLE (R715): event writes stop at once; no write is outstanding in this model, so ACTIVE clears. -/
def execEventRingDisable (t : TlpIn) (s : State) : Res :=
  match ctlRing s (regOf t) with
  | none => if t.write && teeOffset t.off then onBar0 s t id else .next s
  | some lease =>
    if !t.write then .next s
    else onBar0 s t fun s =>
      let r := ringOf s lease
      let v := writeValue t r.ctl.toNat
      if !ringActive r || v.testBit 63 then s
      else setRing s lease { r with ctl := r.ctl &&& BitVec.ofNat 64 (2 ^ 64 - 1 - 2 ^ 63 - 2 ^ 62) }

/-- A doorbell's INDEX; `none` for a write that covers no bit of it (R698, R716). -/
def doorbellIndex (t : TlpIn) : Option Nat := if t.off % 8 = 0 then some (fromLe t.data % 65536) else none

/-- Whether a head value lies in the circular range from the head to the tail (R717). That of a full ring is the whole ring, and a head
value equal to the tail then releases every entry (DESIGN CHOICE, log entry 121). -/
def headOk (size head tail : Nat) (full : Bool) (v : Nat) : Bool :=
  v < size && (full || (v + size - head) % size ≤ (tail + size - head) % size)

/-- A DOORBELL_ERROR event, on the ring of the pair's role (R461, R717). -/
def doorbellError (s : State) (n : Nat) (role : Role) (v : Nat) : State :=
  ringEvent s (role = .tenant) ⟨0x0011, fuidOf s (uidOf .hostIf), epochOf s .hostIf, 0, 1, n + v * 2 ^ 16⟩

/-- Ends a vector's outstanding state (R467, R717). -/
def endOutstanding (s : State) (vec : Nat) : State :=
  { s with host := { s.host with outst := smapSet false s.host.outst vec false } }

/-- The pair and register of a doorbell page offset. -/
def doorbellPair (off : Nat) : Nat := (off - 0x100000) / 0x1000

/-- CQ_HEAD_DOORBELL (R717). -/
def execCqHeadDoorbell (t : TlpIn) (s : State) : Res :=
  if !t.write || !(0x100000 ≤ t.off && t.off < 0x200000) || t.off % 0x1000 / 8 * 8 ≠ 8 then .next s
  else onBar0 s t fun s =>
    match doorbellIndex t, getQp s (doorbellPair t.off) with
    | some v, some q =>
      if headOk (2 ^ q.cqlog) q.cqHead q.cqTail q.cqFull v then
        endOutstanding (setQp s (doorbellPair t.off) (some { q with cqHead := v, cqFull := false })) q.vec
      else doorbellError s (doorbellPair t.off) q.role v
    | _, _ => s

/-- EVENT_RING_HEAD_DOORBELL (R488, R717): space returns, and lost events are reported first. -/
def execEventRingHeadDoorbell (t : TlpIn) (s : State) : Res :=
  if !t.write || !(regOf t = 0x150 || regOf t = 0x10050) then .next s
  else onBar0 s t fun s =>
    let lease := regOf t = 0x10050
    let r := ringOf s lease
    match doorbellIndex t with
    | none => s
    | some v =>
      if !ringActive r || (lease && !s.lease.openL) || !headOk (ringSize r) r.head r.tail r.full v then s
      else
        let s := endOutstanding (setRing s lease { r with head := v, full := false }) (ringVec r)
        if lease && s.host.tdi ≠ .run then s else ringReport s lease

/-- Sends the messages that have become sendable (R577). -/
def flushPending (s : State) : State :=
  (s.host.pend.map (·.1)).foldl (fun s v =>
    if msixMasked s v then s
    else msixSend { s with host := { s.host with pend := smapSet false s.host.pend v false } } v) s

/-- Writes the register bits that have no row of their own (R698, R705, R711 to R714, R720 to R723). DESIGN CHOICE (log entry 108):
BOOT_QREC0-7 hold the reserved fields of the queue record as they are written. -/
def writeReg (s : State) (t : TlpIn) : State :=
  let off := regOf t
  if off = 0x20 then
    if (writeValue t 0).testBit 63 then { s with host := { s.host with newFault := false } } else s
  else if off = 0x100 then
    if mqActive s then s else { s with host := { s.host with mqSq := BitVec.ofNat 64 (writeValue t s.host.mqSq.toNat / 4096 * 4096) } }
  else if off = 0x108 then
    if mqActive s then s else { s with host := { s.host with mqCq := BitVec.ofNat 64 (writeValue t s.host.mqCq.toNat / 4096 * 4096) } }
  else if off = 0x110 then
    let v := writeValue t s.host.mqCtl.toNat
    if mqActive s || v.testBit 63 then s else setMqCtl s ((v &&& mqFields) + (s.host.mqCtl.toNat &&& 2 ^ 61))
  else if off = 0x140 then
    if ringActive s.host.mer then s
    else setRing s false { s.host.mer with base := BitVec.ofNat 64 (writeValue t s.host.mer.base.toNat / 4096 * 4096) }
  else if off = 0x148 then
    let v := writeValue t s.host.mer.ctl.toNat
    if ringActive s.host.mer || v.testBit 63 then s
    else setRing s false { s.host.mer with ctl := BitVec.ofNat 64 ((v &&& ringFields) + (s.host.mer.ctl.toNat &&& 2 ^ 61)) }
  else if off = 0x10080 then
    { s with host := { s.host with bar2 := BitVec.ofNat 64 (writeValue t s.host.bar2.toNat / 2 ^ 30 * 2 ^ 30) } }
  else if !s.lease.openL && 0x10000 ≤ off && off < 0x20000 then s
  else if off = 0x10040 then
    if ringActive s.host.ler then s
    else setRing s true { s.host.ler with base := BitVec.ofNat 64 (writeValue t s.host.ler.base.toNat / 4096 * 4096) }
  else if off = 0x10048 then
    let v := writeValue t s.host.ler.ctl.toNat
    if ringActive s.host.ler || v.testBit 63 then s
    else setRing s true { s.host.ler with ctl := BitVec.ofNat 64 ((v &&& ringFields) + (s.host.ler.ctl.toNat &&& 2 ^ 61)) }
  else if 0x10100 ≤ off ∧ off < 0x10140 then
    if s.host.bootCtl.toNat.testBit 63 then s
    else
      let k := (off - 0x10100) / 8
      let r := s.host.bootRec.toNat
      let old := bits r (64 * k + 63) (64 * k)
      { s with host := { s.host with bootRec := BitVec.ofNat 512 (r - old * 2 ^ (64 * k) + writeValue t old * 2 ^ (64 * k)) } }
  else if 0x20000 ≤ off ∧ off < 0x28000 then
    let vec := (off - 0x20000) / 16
    let k := off / 8 % 2
    let r := (msixEntry s vec).toNat
    let old := bits r (64 * k + 63) (64 * k)
    let x := r - old * 2 ^ (64 * k) + writeValue t old * 2 ^ (64 * k)
    flushPending { s with host := { s.host with msix := smapSet (BitVec.ofNat 128 (2 ^ 96)) s.host.msix vec (BitVec.ofNat 128 x) } }
  else s

/-- REGISTER_WRITE (R698, R10): a write to a BAR0 register that has no row of its own, or to configuration space. -/
def execRegisterWrite (t : TlpIn) (s : State) : Res :=
  if !t.write then .next s
  else if t.bar = 6 then onConfig s fun s => writeConfig s t.off (fromLe t.data)
  else onBar0 s t fun s => writeReg s t

/-- MSIX_UNMASK (R577): a table write that clears a Mask bit, or a write of the function mask; pending messages go out. -/
def execMsixUnmask (t : TlpIn) (s : State) : Res :=
  if !t.write then .next s
  else if t.bar = 6 then
    onConfig s fun s => flushPending { s with host := { s.host with fmask := (fromLe t.data).testBit 0 } }
  else if !(0x20000 ≤ t.off && t.off < 0x28000) then .next s
  else onBar0 s t fun s => writeReg s t

/-! ### Queue records and the bootstrap window (R458, R723, R724) -/

/-- The fields of a queue record that are bad (R455, R458). -/
def checkQueueRecord (p : Nat) : List Nat :=
  chk (bits p 511 504 ≠ 0) (512 + 504) ++ chk (7 ≤ bits p 503 500 && bits p 503 500 ≤ 16) (512 + 500)
    ++ chk (7 ≤ bits p 499 496 && bits p 499 496 ≤ 16) (512 + 496)
    ++ chk (p.testBit 493 || bits p 492 473 == 0) (512 + 473)
    ++ chk (bits p 447 384 % 4096 = 0) (512 + 384) ++ chk (bits p 383 320 % 4096 = 0) (512 + 320)
    ++ rsvBad p [(461, 448), (319, 0)]

/-- A pair from its record (R458). -/
def pairOf (p : Nat) (role : Role) : QpSt :=
  { sqlog := bits p 503 500, cqlog := bits p 499 496, prio := bits p 495 494,
    pasid := if p.testBit 493 then some (bits p 492 473) else none, vec := bits p 472 462, sqBase := bits p 447 384,
    cqBase := bits p 383 320, role := role, sqTail := 0, sqHead := 0, cqTail := 0, cqHead := 0, cqFull := false, phase := true,
    seqno := 1, stopped := false, deleting := [], ring := [] }

/-- QP_CREATE (R458): a pair that exists already is ST_NO_RESOURCE; the pair acts for the role of the path. -/
def execQpCreate (id : Nat) (s : State) : Res :=
  runCmd s id 0x0110 fun s c _ =>
    let p := paramNat c.params
    if (getQp s (bits p 511 504)).isSome then finishCmd s id stNoResource 0
    else
      let role := if c.role = .tenant then Role.tenant else .operator
      finishCmd (setQp s (bits p 511 504) (some (pairOf p role))) id stOk 0

/-- Step 7 of QP_DELETE: the pair exists, is not pair 0 and belongs to the role's paths (R490, R594). -/
def checkQpDelete (s : State) (role : Role) (ps : List (BitVec 512)) : List Nat :=
  let p := paramNat ps
  let n := bits p 511 504
  let own := match getQp s n with
    | some q => (q.role = .tenant) == (role = .tenant)
    | none => false
  chk (n ≠ 0 && own) (512 + 504) ++ rsvBad p [(503, 0)]

/-- What the acceptance of a QP_DELETE does: no entry of the pair is fetched after it (R458). -/
def stopPair (s : State) (n id : Nat) : State :=
  match getQp s n with
  | none => s
  | some q => setQp s n (some { q with deleting := q.deleting ++ [id] })

/-- A QP_DELETE that was abandoned, or ended before it started, deletes nothing: its pair is fetched from again (R477). -/
def keepPair (s : State) (id : Nat) : State :=
  match findCmd s id with
  | none => s
  | some c =>
    let n := bits (paramNat c.params) 511 504
    match getQp s n with
    | some q => if hOpcode c.hdr = 0x0111 && c.phase = .finished && c.startedAt.isNone then
        setQp s n (some { q with deleting := q.deleting.filter (· ≠ id) }) else s
    | none => s

/-- QP_DELETE (R458), its pair stopped at acceptance: it completes when every command fetched from the pair has. A pair that is gone
by then, through a reset, is deleted. -/
def execQpDelete (id : Nat) (s : State) : Res :=
  match runCmd s id 0x0111 fun s c _ =>
    let n := bits (paramNat c.params) 511 504
    if (getQp s n).isNone then finishCmd s id stOk 0 else tryDeletePair s n with
  | .next t => .next (keepPair t id)
  | r => r

/-- BOOTSTRAP_GO (R622, R723, R724): the creation on the snapshot runs and its result is posted within the step. A record that
QP_CREATE would refuse is looked at first, then room in the audit log, the pair, and the pairs besides it (R475). -/
def execBootstrapGo (t : TlpIn) (s : State) : Res :=
  if !t.write || regOf t ≠ 0x10140 then .next s
  else onBar0 s t fun s =>
    if !s.lease.openL || !(writeValue t 0).testBit 63 then s
    else
      let p := s.host.bootRec.toNat
      let n := bits p 511 504
      let st := if !(checkQueueRecord p).isEmpty then stBadParam
        else if !auditRoom s 1 || (getQp s n).isSome then stNoResource
        else if !(tenantPairs s).isEmpty then stBadParam else stOk
      let s := if st = stOk then setQp s n (some (pairOf p .tenant)) else s
      let s := { s with host := { s.host with bootCtl := BitVec.ofNat 64 (st * 2 ^ 48 + 2 ^ 47) } }
      auditPut s 0x0002 3 0 true { AuditPriv.zero with
        qpn := n, opcode := 0x0110, status := st, target := uidOf .hostIf
        pdigest := BitVec.ofNat 256 ((Config.sha384 (leBytes 64 p)).toNat >>> 128) }

/-! ### BAR2 (R574, R575) -/

/-- The channels a range touches that are in reset, or fenced, or out of service (R638). -/
def rangeResetting (s : State) (a n : Nat) : Bool :=
  (linesOf a n).any fun l =>
    let x := stateAwake s (.channel (fin 256 (hbmChannel (l * 64))))
    x = .resetting || x = .fenced || x = .notReady

/-- The bytes a BAR2 read gives: those of poisoned lines are free values (R575). -/
def bar2Bytes (s : State) (a n free : Nat) : List Byte :=
  (readBytes s a n).zipIdx.map fun b => if poisoned s (lineOf (a + b.2)) then byteOf free b.2 else b.1

/-- The device address of a BAR2 request (R574). -/
def bar2Addr (s : State) (t : TlpIn) : Nat := s.host.bar2.toNat + t.off

/-- Serves an admitted BAR2 request. A read's completions that carry a byte of a poisoned line have EP set and no valid data of it, and
it is a demand read (R396, R397, R406, R575). -/
def serveBar2One (s : State) (t : TlpIn) : State :=
  let a := bar2Addr s t
  if rangeResetting s a t.len then answerUr s t
  else if t.write then writeBytes (touchRange s a t.len) a (t.data.take t.len)
  else
    let rcb := if t.rcb128 then 128 else 64
    let first := a / rcb
    let n := if t.len = 0 then 0 else (a + t.len - 1) / rcb + 1 - first
    let ep := (List.range n).map fun i =>
      let lo := max a ((first + i) * rcb)
      let hi := min (a + t.len) ((first + i + 1) * rcb)
      anyPoison s lo (hi - lo)
    let (x, s) := if ep.any id then drawFree s else (0, s)
    emit (demand (touchRange s a t.len) a t.len) (.readReply (bar2Bytes s a t.len x) false ep)

/-- Takes a BAR2 request: one for a stack that is off wakes it and waits, and so does every request behind one that waits (R51, R574,
R575, R650). -/
def onBar2 (s : State) (t : TlpIn) : State :=
  match access2 s t with
  | .dropped => answerUr s t
  | .refused => refuseTlp s t
  | .admitted =>
    if !s.host.parkedTlp.isEmpty || rangeOff s (bar2Addr s t) t.len then
      let s := touchRange s (bar2Addr s t) t.len
      { s with host := { s.host with parkedTlp := s.host.parkedTlp ++ [t] } }
    else serveBar2One s t

/-- Serves the BAR2 requests that waited, in order, up to the first whose stack is still off. -/
def serveBar2 (s : State) : State :=
  s.host.parkedTlp.foldl onBar2 { s with host := { s.host with parkedTlp := [] } }

/-- BAR2_READ (R574, R575). -/
def execBar2Read (t : TlpIn) (s : State) : Res := if t.bar ≠ 2 || t.write then .next s else .next (onBar2 s t)

/-- BAR2_WRITE (R574, R575, R397). -/
def execBar2Write (t : TlpIn) (s : State) : Res := if t.bar ≠ 2 || !t.write then .next s else .next (onBar2 s t)

/-! ### The TDI (R571, R581 to R585) -/

/-- TDI_ERROR (R581): 0 an integrity failure on IDE stream `x`, 1 stream `x` leaves Secure, 2 the end of SPDM session `x`. The TDI
fails where the stream is the bound one, or the session the one that locked it. -/
def execTdiError (e : TdiErrorIn) (s : State) : Res :=
  let s := if e.cause = 1 then
      { s with sec := { s.sec with streams := vset s.sec.streams e.subject { vget s.sec.streams .init e.subject with secure := false } } }
    else if e.cause = 2 then { s with sec := { s.sec with
      sessions := s.sec.sessions.filter (· ≠ e.subject), ideSessions := s.sec.ideSessions.filter (· ≠ e.subject) } }
    else s
  let mine := match s.host.bound with
    | none => false
    | some (stream, session) => if e.cause = 2 then e.subject = session else e.subject = stream
  .next (if mine then tdiFail s else s)

/-- TDISP error code INVALID_REQUEST. -/
def tdispInvalid : Nat := 1

/-- LOCK_INTERFACE (R582). -/
def execLockInterface (session stream : Nat) (s : State) : Res :=
  let ok := s.host.tdi = .unlocked && leaseLive s && s.sec.sessions.contains session
    && (vget s.sec.streams .init stream).secure && stream < 4 && (tenantPairs s).isEmpty && !s.host.wasRun
  if !ok then .next (emit s (.tdisp false tdispInvalid))
  else
    let (n, s) := drawRandom s
    let s := setTdi { s with host := { s.host with bound := some (stream, session), nonce := some n } } .locked
    .next (emit s (.tdisp true n))

/-- START_INTERFACE (R571, R583): in CONFIG_LOCKED, in the session that locked, with the nonce of the lock. -/
def execStartInterface (session : Nat) (nonce : Nat) (s : State) : Res :=
  let ok := s.host.tdi = .locked && s.host.nonce = some nonce && (s.host.bound.map (·.2)) = some session
  if !ok then .next (emit s (.tdisp false tdispInvalid))
  else
    let s := setTdi { s with host := { s.host with nonce := none, wasRun := true } } .run
    .next (emit s (.tdisp true 0))

/-- STOP_INTERFACE (R583): the TDI goes to CONFIG_UNLOCKED. -/
def execStopInterface (session : Nat) (s : State) : Res :=
  if !s.sec.sessions.contains session then .next (emit s (.tdisp false tdispInvalid))
  else
    let s := moveTdi s .unlocked
    .next (emit { s with host := { s.host with bound := none, nonce := none } } (.tdisp true 0))

/-! ### Sessions and stream keys (R579, R580) -/

/-- KEY_EXCHANGE (R579): KEY_EXCHANGE and FINISH establish one of at most four sessions. The answer holds the responder's ephemeral
public key and the signature of the device attestation key. How SPDM frames the messages and encrypts those of a session is outside the
commands (DESIGN CHOICE, log entry 134). -/
def execKeyExchange (session : Nat) (s : State) : Res :=
  if !isReady (getUnit s .vangaer).own || s.sec.sessions.contains session || s.sec.sessions.length ≥ 4 then
    .next (emit s (.spdm 0 []))
  else
    let (e, s) := drawRandom s
    let (d, s) := drawRandom s
    let key := leBytes 96 (Config.ephemeralPub e).toNat
    let s := { s with sec := { s.sec with sessions := s.sec.sessions ++ [session] } }
    .next (emit s (.spdm 1 (key ++ leBytes 96 (Config.deviceSign (Config.spdmHash session key) d).toNat)))

def setStream (s : State) (i : Nat) (x : StreamSt) : State := { s with sec := { s.sec with streams := vset s.sec.streams i x } }

/-- KEY_PROG (R580): programs the key that an IDE-KM message delivers in a key set of a stream, within a session. -/
def execKeyProg (session stream : Nat) (k : StreamKeyIn) (s : State) : Res :=
  if !s.sec.sessions.contains session || stream ≥ 5 || k.keySet ≥ 2 then .next (emit s (.spdm 0 []))
  else
    let x := vget s.sec.streams .init stream
    let s := setStream s stream (if k.keySet = 0 then { x with key0 := some k.key } else { x with key1 := some k.key })
    let s := { s with sec := { s.sec with ideSessions := s.sec.ideSessions ++ (if s.sec.ideSessions.contains session then [] else [session]) } }
    .next (emit s (.spdm 2 []))

/-- K_SET_GO (R580): the stream uses a programmed key set, without loss of TLPs. -/
def execKSetGo (session stream key : Nat) (s : State) : Res :=
  let x := vget s.sec.streams .init stream
  let has := if key = 0 then x.key0.isSome else if key = 1 then x.key1.isSome else false
  if !s.sec.sessions.contains session || stream ≥ 5 || !has then .next (emit s (.spdm 0 []))
  else .next (emit (setStream s stream { x with secure := true, keySet := key }) (.spdm 3 []))

/-! ### Resets of the host function domain (R587, R588) -/

/-- The reset of the host function domain; commands that wait for one under way wait for this one. -/
def hostReset (s : State) (keepLink : Bool) : State :=
  let ids := match findAct s .hostIf with | some a => a.cmds | none => []
  beginReset { s with host := { s.host with linkUp := s.host.linkUp && keepLink } } .hostIf 2 ids (now s)

/-- FUNCTION_LEVEL_RESET (R587). -/
def execFunctionLevelReset (s : State) : Res := if s.host.ready then .next (hostReset s true) else .next s

/-- HOT_RESET (R587). -/
def execHotReset (s : State) : Res := if s.host.linkUp then .next (hostReset s true) else .next s

/-- D3HOT_TO_D0 (R587). -/
def execD3hotToD0 (s : State) : Res := if s.host.ready then .next (hostReset s true) else .next s

/-- Whether the port trains at a rate code and a width (R564). -/
def linkTrains (rate width : Nat) : Bool := decide (1 ≤ rate) && decide (rate ≤ 6) && [1, 2, 4, 8, 16].contains width

/-- The link after a training to a rate code and a width; it stays down at any that R564 does not give. -/
def trainLink (s : State) (rate width : Nat) : State :=
  let ok := linkTrains rate width
  { s with host := { s.host with linkUp := ok, rate := if ok then rate else 0, width := if ok then width else 0 } }

/-- LINK_DOWN (R565, R587): the link retrains, to the rate code and width given; 0 for a link that stays down. -/
def execLinkDown (rate width : Nat) (s : State) : Res :=
  if !s.host.linkUp then .next s else .next (trainLink (hostReset s false) rate width)

/-- PERST_N_ASSERT (R587). -/
def execPerstNAssert (s : State) : Res :=
  if s.host.perst || s.rst.porAt.isNone then .next s
  else
    let s := hostReset s false
    .next { s with host := { s.host with perst := true, linkUp := false } }

/-- PERST_N_DEASSERT (R567): the link trains, to the rate code and width given. -/
def execPerstNDeassert (rate width : Nat) (s : State) : Res :=
  if !s.host.perst then .next s
  else .next (trainLink { s with host := { s.host with perst := false } } rate width)

end Sys2Proof.Machine
end

