-- ==== Sys2Proof/Machine/SbLine.lean ====
section
/-! DEFINITION. The sideband line: frames with their CRC, and the sending of frames on SB_OUT, where a STOP goes first
(15_onaux_fabric.md R557, R558, R563). -/

namespace Sys2Proof.Machine

/-- The bytes of a frame before its CRC (R557). -/
def sbHead (kind hops dpos : Nat) (payload : List Byte) : List Byte :=
  leBytes 1 kind ++ leBytes 1 hops ++ leBytes 1 dpos ++ leBytes 2 payload.length ++ payload

/-- A frame with its LEN and CRC. -/
def sbFrame (kind hops dpos : Nat) (payload : List Byte) : SbIn :=
  ⟨kind, hops, dpos, payload.length, payload, crc32c (sbHead kind hops dpos payload)⟩

/-- Whether a frame's LEN and CRC are those of its fields. -/
def sbSound (f : SbIn) : Bool := f.len = f.payload.length && f.crc = crc32c (sbHead f.kind f.hops f.dpos f.payload)

/-- Time a frame takes on the line: 50 ns a byte, so that the longest takes 29.3 us (R562, R563). -/
def sbTime (f : SbIn) : Nat := 50 * (9 + f.payload.length)

/-- Whether the device handles frames: the bypass is open and the port up (R558, R562). -/
def sbLive (s : State) : Bool := !s.sb.bypass && s.sb.portUp

/-- Puts a frame on SB_OUT now. -/
def sbStart (s : State) (f : SbIn) : State :=
  emit { s with sb := { s.sb with sending := some (f, now s + sbTime f) } } (.sideband f)

/-- The frame still being sent. -/
def sbBusy (s : State) : Option SbIn :=
  match s.sb.sending with
  | some (f, t) => if now s < t then some f else none
  | none => none

/-- Sends a frame on SB_OUT: behind those that wait, but a STOP aborts another frame and goes first, and the aborted frame follows it in
full (R558). -/
def sbSend (s : State) (f : SbIn) : State :=
  if !sbLive s then s
  else match sbBusy s with
    | none => if s.sb.queue.isEmpty || f.kind = 2 then sbStart s f else { s with sb := { s.sb with queue := s.sb.queue ++ [f] } }
    | some g =>
      if f.kind = 2 && g.kind ≠ 2 then
        sbStart (emit { s with sb := { s.sb with queue := g :: s.sb.queue } } .sbAbort) f
      else { s with sb := { s.sb with queue := s.sb.queue ++ [f] } }

/-- The next frame that waits goes once the last has ended. -/
def sbDrain (s : State) : State :=
  match s.sb.queue with
  | [] => s
  | f :: fs => if sbLive s && (sbBusy s).isNone then sbStart { s with sb := { s.sb with queue := fs } } f else s

end Sys2Proof.Machine
end

