-- ==== Sys2Proof/Machine/Completion.lean ====
section
/-! DEFINITION. Completion entries: COMPLETION_WRITE and PERMISSION_REFUSAL_REPLY (14_command_interface.md R462 to R467,
R482, R485, R505 to R507; 09_memory_model.md R303). -/

namespace Sys2Proof.Machine

/-- The instant a command finished, as the completion order counts it: 20 us after its fetch for a refusal (R485). -/
def finishInstant (c : CmdRec) : Nat := if c.phase = .refused then c.fetchedAt + 20000 else c.finishedAt

/-- A completion entry (R482, R485). -/
def completionEntry (c : CmdRec) (phase : Bool) : Nat :=
  let (acc, st, fin_) :=
    if c.phase = .refused then (c.fetchedAt, 0xFFFFFFFF, 20000)
    else (c.acceptedAt, (match c.startedAt with | some t => t - c.acceptedAt | none => 0xFFFFFFFF),
      min (c.finishedAt - c.acceptedAt) 0xFFFFFFFE)
  acc % 2 ^ 64 * 2 ^ 192 + st % 2 ^ 32 * 2 ^ 160 + fin_ * 2 ^ 128 + c.detail % 2 ^ 32 * 2 ^ 96 + b2n phase * 2 ^ 95
    + c.status * 2 ^ 80 + hTag c.hdr * 2 ^ 64 + c.mvptr % 2 ^ 64

/-- The member vector of a lead's SEQ_STEP: one entry for each follower (R372, R505). -/
def followerVector (s : State) (c : CmdRec) : List Byte :=
  let n := c.fan.length
  leBytes 16 (n * 2 ^ 112 + (1 + n) * 2 ^ 80) ++ c.fan.zipIdx.flatMap fun m =>
    let x := (partOf c m.2).getD (stTimeout, memberUid m.1.1)
    memberEntryBytes s m.1.1 m.1.2.toNat x.1 false false false x.2

/-- Writes a command's member vector; an access that completes in error ends the command with ST_XLATE_FAULT (R471). -/
def vectorOut (s : State) (c : CmdRec) (bs : List Byte) : State × CmdRec :=
  let a := hMvbuf c.hdr
  (hostWriteCmd s c a bs,
    if hostWriteFails s c a bs.length then { c with status := stXlateFault, detail := 0, mvptr := 0 } else { c with mvptr := a })

/-- Writes the member vector of a group command that asked for one (R505, R507, R755), or of a lead's step (R372); that of a
step is left out where MVCAP is too small for it. -/
def writeVector (s : State) (c : CmdRec) : State × CmdRec :=
  match c.target with
  | .group g =>
    if hMvbuf c.hdr = 0 ∨ c.startedAt.isNone ∨ hOpcode c.hdr = 0x0120 ∨ c.phase = .refused ∨ hOpcode c.hdr = 0x0802 then (s, c)
    else vectorOut s c (memberVector s c g)
  | _ =>
    if hOpcode c.hdr ≠ 0x0505 ∨ c.fan.isEmpty ∨ hMvbuf c.hdr = 0 ∨ hMvcap c.hdr < 16 * (1 + c.fan.length) then (s, c)
    else vectorOut s c (followerVector s c)

/-- Whether a pair's CQ has room for an entry (R466). -/
def cqRoom (q : QpSt) : Bool := !q.cqFull

/-- The events that report on a finished command, and its digest: all its host writes have been issued by then (R215, R303, R369,
R552). -/
def answerEvents (s : State) (c : CmdRec) : State :=
  if c.phase ≠ .finished then s
  else digestUnit (c.evs.foldl (fun s e => seqEvent s e.1 (hTag c.hdr) e.2.1 e.2.2) (guardEvents s c)) c

/-- What the device that issued a command is told of its end, message kind 5: status, DETAIL, when it was accepted, started (one more
than the time, 0 where it did not) and finished, and MVPTR (R474, R482). -/
def replyArgs (c : CmdRec) (tid : Nat) : List Nat :=
  [tid, c.status, c.detail, c.acceptedAt, (match c.startedAt with | some t => t + 1 | none => 0), c.finishedAt, c.mvptr]

/-- Answers a finished or refused command: its entry at the CQ tail, the message it asked for, and its record gone (R465
to R467). A command that came another way is answered on that way (R474, R561). -/
def answerCmd (s : State) (c : CmdRec) : State :=
  match c.origin with
  | .qp n =>
    match getQp s n with
    | none => dropCmd (answerEvents s c) c.id
    | some q =>
      if q.role = .tenant ∧ !tenantHostOpen s then tryDeletePair (dropCmd (answerEvents s c) c.id) n
      else
        let (s, c) := writeVector s c
        let s := answerEvents s c
        let e := leBytes 32 (completionEntry c q.phase)
        let s := emit s (.hostWrite (q.cqBase + 32 * q.cqTail) q.pasid (if q.role = .tenant then leaseStream s else none) false e)
        let t := (q.cqTail + 1) % 2 ^ q.cqlog
        let del := q.deleting.contains c.id && c.status = stOk
        let p := { q with cqTail := t, cqFull := decide (t = q.cqHead), phase := if t = 0 then !q.phase else q.phase }
        let s := if del then setQp s n none
          else if Config.hostError (now s) q.pasid (q.cqBase + 32 * q.cqTail) 32 then ringFailed s n p else setQp s n (some p)
        let s := if hIrq c.hdr then msixNotify s q.vec else s
        tryDeletePair (dropCmd s c.id) n
  | .remote src tid =>
    let (s, c) := writeVector s c
    dropCmd (sendMsg (answerEvents s c) (atomOwn c.role (hOpcode c.hdr)) src 5 (replyArgs c tid)) c.id
  | .sideband => dropCmd (sbSend (answerEvents s c) (sbFrame 4 0 0 (leBytes 32 (completionEntry c true)))) c.id
  | .i3c => dropCmd (emit (answerEvents s c) (.i3c (leBytes 32 (completionEntry c true)))) c.id
  | _ => dropCmd (answerEvents s c) c.id

/-- Whether a command's turn in its CQ has come: none of its pair finished before it and waits (R465). -/
def cqTurn (s : State) (c : CmdRec) : Bool :=
  match c.origin with
  | .qp n => s.cmd.inflight.all fun d =>
      d.origin ≠ .qp n || d.id = c.id || !(d.phase = .finished || d.phase = .refused)
        || finishInstant c < finishInstant d || (finishInstant c = finishInstant d && c.id < d.id)
  | _ => true

/-- Whether the CQ of a command has room; other ways always have. -/
def cqOpen (s : State) (c : CmdRec) : Bool :=
  match c.origin with
  | .qp n => match getQp s n with | some q => cqRoom q | none => true
  | _ => true

/-- COMPLETION_WRITE (R465, R466): once the command has finished, its turn has come and the CQ has room. -/
def execCompletionWrite (id : Nat) (s : State) : Res :=
  match findCmd s id with
  | none => .next s
  | some c =>
    if c.phase = .finished ∧ cqTurn s c ∧ cqOpen s c then
      let s := { s with cmd := { s.cmd with decisions := s.cmd.decisions.filter fun d => d.1 ≠ id || c.status = stTimeout } }
      .next (answerCmd s c)
    else .next s

/-- PERMISSION_REFUSAL_REPLY (R485): 20 us after the header was fetched. -/
def execPermissionRefusalReply (id : Nat) (s : State) : Res :=
  match findCmd s id with
  | none => .next s
  | some c =>
    if c.phase = .refused ∧ now s ≥ c.fetchedAt + 20000 ∧ cqTurn s c ∧ cqOpen s c then .next (answerCmd s c) else .next s

end Sys2Proof.Machine
end

