-- ==== Sys2Proof/Machine/Lease.lean ====
section
/-! DEFINITION. The lease: opening, closing, secrets and keys (17_security_and_leasing.md R600 to R613;
12_memory_system.md R426 to R428). -/

namespace Sys2Proof.Machine

/-! ### The curve P-384 (R600, R601) -/

def p384 : Nat := 2 ^ 384 - 2 ^ 128 - 2 ^ 96 + 2 ^ 32 - 1
def b384 : Nat := 0xb3312fa7e23ee7e4988e056be3f82d19181d9c6efe8141120314088f5013875ac656398d8a2ed19d2a85c8edd3ec2aef

/-- Whether (x, y) is a point of P-384: y² = x³ - 3x + b. -/
def onP384 (x y : Nat) : Bool :=
  x < p384 && y < p384 && (y * y) % p384 == (x * x % p384 * x + (p384 - 3) * x + b384) % p384

/-! ### Counters that a lease clears (R669) -/

/-- A domain record cleared at an instant (R670). -/
def restartDoze (t : Nat) (d : DozeSt) : DozeSt :=
  { d with dozes := 0, dozeNs := 0, wakeNs := 0, offAt := t, wakeAt := d.wakeAt.map fun _ => t }

/-- Clears every engine's counters, SINCE at this instant. -/
def clearCounters (s : State) : State :=
  { s with cores := s.cores.map fun x => { x with counts := Vector.replicate 4 { EngCount.zero with since := now s } }
           doze := s.doze.map (restartDoze (now s)) }

/-- The registers of the lease region at their reset values (R720), BAR2_BASE with them (R576). -/
def resetLeaseRegs (s : State) : State :=
  { s with host := { s.host with ler := .init, bootRec := 0, bootCtl := 0, bar2 := 0x0000000800000000, snapBoot := none } }

/-! ### LEASE_OPEN (R601 to R603) -/

def leaseProfile (ps : List (BitVec 512)) : Nat := bits (paramNat ps) 1023 1022
def leaseMirror (ps : List (BitVec 512)) : Bool := (paramNat ps).testBit 1021
def leaseInjrate (ps : List (BitVec 512)) : Nat := bits (paramNat ps) 1020 1009

/-- Prepare of LEASE_OPEN: its status (R601). -/
def prepareLeaseOpen (s : State) (ps : List (BitVec 512)) : Nat :=
  let p := paramNat ps
  let ok := leaseProfile ps ≤ 2 && 1 ≤ leaseInjrate ps && leaseInjrate ps ≤ 3200 && bits p 1008 768 == 0
    && s.limits.nextProfok.toNat.testBit (leaseProfile ps)
    && !(leaseMirror ps && !s.fab.ident.toNat.testBit 489) && onP384 (bits p 767 384) (bits p 383 0)
  let held := allUnits.any fun u => (getUnit s u).own = .fenced || (getUnit s u).own = .resetting
  if !ok then stBadParam
  else if s.lease.openL || s.lease.closing.isSome || !s.lease.scrubbed || !(tenantPairs s).isEmpty || held then stNotReady
  else if (List.finRange 256).any fun n => (getUnit s (.channel n)).own = .outOfService then stOutOfService
  else if !auditRoom s 8192 then stNoResource
  else stOk

/-- A lease identifier drawn: uniform and not 0 (R603). -/
def leaseIdOf (n : Nat) : Nat := n % (2 ^ 32 - 1) + 1

/-- The audit entry of a lease that opens, and a checkpoint. -/
def noteOpened (s : State) : State :=
  let s := { s with lease := { s.lease with openedSeq := s.audit.nextSeq } }
  auditCheckpoint (auditPut s 0x0004 4 3 false { AuditPriv.zero with aux := s.lease.openStamp })

/-- A key of the lease, by its label: HKDF over SHA-384 with the shared secret Z as keying material and the lease identifier as salt
(R602); Z is the point's first coordinate, most significant byte first (PRESUMED, log entry 151). -/
def leaseKey (e : Nat) (tenant : BitVec 768) (lid : Nat) (label : String) : Nat :=
  fromLe (hkdf (leBytes 48 (Config.ecdh e tenant).toNat).reverse (leBytes 4 lid) (asciiBytes label) 32)

/-- Commit of LEASE_OPEN (R602, R652, R656, R669, R692, R720). -/
def commitLeaseOpen (s : State) (ps : List (BitVec 512)) (lid : Nat) : State :=
  let (pk, s) := drawRandom s
  let (e, s) := drawRandom s
  let s := installKey s
  let l := s.lease
  let tenant := BitVec.ofNat 768 (bits (paramNat ps) 767 0)
  let s := { s with
    lease := { l with
      openL := true, closing := none, closeCmd := none, verify := false, hadLease := true, id := BitVec.ofNat 32 lid
      logId := BitVec.ofNat 32 lid, profile := leaseProfile ps, mirror := leaseMirror ps, injrate := leaseInjrate ps
      openStamp := now s, tenant := tenant, epubGen := e
      kA := some (leaseKey e tenant lid "GRN-AUDIT"), kD := some (leaseKey e tenant lid "GRN-DUMP"), fabSecret := none, mirSecret := none, scrubbed := false, guards := [0, 0, 0, 0, 0], dumpNo := 0
      dissolved := [] }
    seq := { s.seq with prefixKey := some (BitVec.ofNat 128 pk) }
    limits := { s.limits with profok := s.limits.nextProfok, defprof := s.limits.nextDefprof }
    host := { s.host with wasRun := false, bound := none, nonce := none }
    stopArm := none
    fab := { s.fab with tokens := 65536, tokenAt := now s } }
  let s := clearCounters (resetLeaseRegs s)
  let s := setProfile (setProfile s 0 (leaseProfile ps)) 1 (leaseProfile ps)
  let s := bumpUnits s false 1 allUnits []
  noteOpened s

/-! ### LEASE_CLOSE (R608 to R612) -/

/-- Step 7 of LEASE_CLOSE: VERIFY alone (R490). -/
def checkLeaseClose (ps : List (BitVec 512)) : List Nat := rsvBad (paramNat ps) [(510, 0)]

/-- Prepare of LEASE_CLOSE (R608, R611). -/
def prepareLeaseClose (s : State) : Nat := if s.lease.closing.isSome then stNotReady else stOk

/-- Completes the unfinished commands of pairs 1 to 255 with ST_FENCED, but one, and writes what waits, in the order in which the
commands finish (R457, R465, R608). A refused command has not finished before 20 us after its fetch (R485; DEDUCED, log entry 131). -/
def endTenantWork (s : State) (keep : Nat) : State :=
  let mine := fun (c : CmdRec) => (match cmdQp s c with | some n => n ≠ 0 && (match getQp s n with | some q => q.role = .tenant | none => true) | none => false)
  let ids := (s.cmd.inflight.filter mine).map (·.id)
  let s := ids.foldl (fun s id => if id = keep then s else finishCmd s id stFenced (uidOf .device)) s
  let s := setInflight s (s.cmd.inflight.map fun c =>
    if ids.contains c.id && c.id ≠ keep && c.phase = .refused && decide (now s < c.fetchedAt + 20000) then
      { c with phase := .finished, status := stFenced, detail := uidOf .device, finishedAt := now s }
    else c)
  let due := (s.cmd.inflight.filter fun c => ids.contains c.id).mergeSort fun a b =>
    finishInstant a < finishInstant b || (finishInstant a = finishInstant b && a.id ≤ b.id)
  (due.map (·.id)).foldl (fun s id =>
    if id = keep then s
    else match findCmd s id with
      | none => s
      | some c => if cqOpen s c && (c.phase = .finished || c.phase = .refused) then answerCmd s c else dropCmd s id) s

/-- Steps 1 to 3 of a close of an open lease (R608, R610, R585). -/
def closeSteps123 (s : State) (id : Nat) (tenant : Bool) : State :=
  let s := { s with lease := { s.lease with id := 0, hadLease := true } }
  let s := endTenantWork s id
  let s := { s with fab := { s.fab with links := [], held := [], waiting := [], parked := [] }
                    lease := { s.lease with fabSecret := none, mirSecret := none }
                    seq := { s.seq with prefixKey := none } }
  let s := if tenant then
      let s := finishCmd s id stOk 0
      match findCmd s id with
      | some c => if cqOpen s c then answerCmd s c else dropCmd s id
      | none => s
    else s
  let s := setTdi s .unlocked
  let s := (tenantPairs s).foldl (fun s n => setQp s n none) s
  let s := { s with
    host := { s.host with bound := none, nonce := none }
    sec := { s.sec with
      sessions := s.sec.sessions.filter fun x => !s.sec.ideSessions.contains x
      streams := Vector.replicate 5 StreamSt.init, ideSessions := [] }
    cores := s.cores.map fun x => { x with phase := .idle, matQ := [], vecQ := [], dma := [], pend := none, cont := none } }
  installKey s

/-- Commit of LEASE_CLOSE: steps 1 to 3, and the drain of step 4 begins (R608, R611). -/
def commitLeaseClose (s : State) (id : Nat) (tenant verify : Bool) : State :=
  let had := s.lease.openL
  let s := { s with lease := { s.lease with
    closing := some (.drain (now s + 50000)), closeCmd := if tenant then none else some id, verify := verify, hadLease := had } }
  if had then closeSteps123 s id tenant else s

/-- Hardware scrub: every SRAM byte but the queue-shadow and Askoc partitions, and the state held beside SRAM (R608); the LOAD record
goes with the held rows it describes (R130; DESIGN CHOICE, log entry 127). -/
def hardwareScrub (s : State) : State :=
  let keep := fun a => match placeOf a with
    | some (.die _ o) => 0x3800000 ≤ o
    | some (.hbm _) => true
    | _ => false
  let s := { s with
    mem := { s.mem with bytes := s.mem.bytes.filter fun e => keep e.1
                        poison := s.mem.poison.filter fun e => keep (e.1 * 64) }
    ecc := { s.ecc with lines := s.ecc.lines.filter fun e => keep (e.1 * 64) }
    cores := s.cores.map fun _ => CoreSt.init
    clusters := s.clusters.map fun _ => ClusterSt.init
    seq := { SeqSt.init with stepNo := 0 }
    fab := { s.fab with slots := [], insts := [], earlyReady := [], instCount := [], reqs := [], digLocal := [], digPartner := [] }
    ports := s.ports.map fun p => { p with queue := [], replayBuf := [] } }
  clearCounters s

/-- Clears pairs 1 to 255 and the commands fetched from them: none that the close waits for is among them (R608). -/
def clearPairs (s : State) : State :=
  let ns := tenantPairs s
  let s := setInflight s (s.cmd.inflight.filter fun c => match cmdQp s c with
    | some n => n = 0 || s.lease.closeCmd = some c.id
    | none => true)
  ns.foldl (fun s n => setQp s n none) s

/-- Askoc scrub: tables of the lease, and the state of pairs 1 to 255 (R608). -/
def askocScrub (s : State) : State :=
  let s := clearPairs s
  let gone := (groupsDefined s).filter fun g => match groupRec s g with | some r => r.inLease | none => false
  { s with
    xl := { s.xl with pasids := Vector.replicate 16 0, segs := [], regions := [] }
    cmd := { s.cmd with decisions := [], prepared := [] }
    groups := { s.groups with tab := s.groups.tab.filter (fun e => e.1 ∉ gone)
                              foreign := s.groups.foreign.filter fun f => !f.2.2 }
    lease := { s.lease with dissolved := gone }
    faults := s.faults.map fun f => { f with recs := f.recs.filter fun r => !r.lease }
    dumps := s.dumps.filter fun d => !d.inLease }

/-- Every unit and every group that was defined in the lease takes a new epoch. -/
def bumpForClose (s : State) (gone : List Nat) : State :=
  let s := allUnits.foldl (fun s u => bumpUnit s true 1 u) s
  ((groupsDefined s ++ gone).eraseDups).foldl (fun s g => bumpGroup s true 1 g) s

/-- The lease's own state is gone, the default profile is in force, and readiness is told again. -/
def relockDevice (s : State) : State :=
  let s := { s with lease := { LeaseSt.init with scrubbed := true } }
  let s := setProfile (setProfile (resetLeaseRegs s) 0 s.limits.defprof) 1 s.limits.defprof
  checkAllReady s 2 (now s)

/-- SCRUBBED, the audit entry of the close, and the device as it is without a lease. -/
def noteClosed (s : State) : State :=
  let s := { s with lease := { s.lease with scrubbed := true } }
  relockDevice (auditCheckpoint (auditPut s 0x0005 4 3 false .zero))

/-- Step 8 (R608, R652): epochs, SCRUBBED, the audit entry, keys, registers, and the completion. -/
def finishClose (s : State) : State :=
  let t := noteClosed (bumpForClose { s with lease := { s.lease with closing := none } } s.lease.dissolved)
  match s.lease.closeCmd with
  | some id => finishCmd t id stOk 0
  | none => t

/-- LEASE_CLOSE_DRAIN_END (R608): what is still outstanding is discarded, and the hardware scrub runs. -/
def execLeaseCloseDrainEnd (s : State) : Res :=
  match s.lease.closing with
  | some (.drain t) =>
    if now s < t then .next s
    else
      let s := hardwareScrub s
      .next { s with lease := { s.lease with closing := some (.hwScrub (now s + 220000)) } }
  | _ => .next s

/-- HARDWARE_SCRUB_END (R608): after 220 us. -/
def execHardwareScrubEnd (s : State) : Res :=
  match s.lease.closing with
  | some (.hwScrub t) =>
    if now s < t then .next s
    else .next { s with lease := { s.lease with closing := some (.askoc (now s + 3000000)) } }
  | _ => .next s

/-- ASKOC_SCRUB_END (R608, R428): after 3 ms; the HBM clear begins and every channel reports NOT_READY. -/
def execAskocScrubEnd (s : State) : Res :=
  match s.lease.closing with
  | some (.askoc t) =>
    if now s < t then .next s
    else
      let s := askocScrub s
      .next (checkAllReady { s with lease := { s.lease with closing := some (.hbmClear (now s + 28000000)) } } 2 (now s))
  | _ => .next s

/-- HBM_CLEAR_END (R426): within 28 ms; the close goes on to the verify pass or to step 8. -/
def execHbmClearEnd (s : State) : Res :=
  match s.lease.closing with
  | some (.hbmClear _) =>
    let s := (List.range 8).foldl (fun s i => touchDoze s (216 + i)) (clearHbm s)
    if s.lease.verify then .next { s with lease := { s.lease with closing := some (.verify (now s + 28000000)) } }
    else .next (finishClose s)
  | _ => .next s

/-- Row repairs used on a channel (R411). -/
def repairsUsed (s : State) (n : Nat) : Nat := bits (vget s.channels .init n).train.toNat 44 41

/-- Adds row repairs to a channel's training record, 8 at most (R411, R427). -/
def addRepairs (s : State) (n k : Nat) : State :=
  let c := vget s.channels .init n
  let r := repairsUsed s n
  let v := c.train.toNat - r * 2 ^ 41 + min 8 (r + k) * 2 ^ 41
  { s with channels := vset s.channels n { c with train := BitVec.ofNat 64 v } }

/-- A channel with no repair left for a line goes out of service, once, with a MEM_POISON event of DETECT 2 on the management
ring (R427). -/
def loseChannel (s : State) (n : Fin 256) (a : Nat) : State :=
  if (getUnit s (.channel n)).own = .outOfService then s
  else
    let s := bumpUnits (setOwn s (.channel n) .outOfService) true 3 [.channel n] []
    ringEvent s false ⟨0x0009, fuidOf s (uidOf (.channel n)), epochOf s (.channel n), 0, 1,
      a * 2 ^ 64 + uidOf (.channel n) * 2 ^ 32 + 2 * 2 ^ 28 + regionOf s a * 2 ^ 24⟩

/-- `k` rows of a channel need repair, the one at `a` last: each takes a repair while one is left (R427). -/
def repairRows (s : State) (n : Fin 256) (k a : Nat) : State :=
  let t := addRepairs s n k
  if repairsUsed s n + k > 8 then loseChannel t n a else t

/-- HBM_VERIFY_END (R427): rows that failed twice, as numbers per channel and as lines; a row past a channel's eighth repair puts
it out of service. Of rows given by number no address is known: it is a free value. -/
def execHbmVerifyEnd (repairs : List (Nat × Nat)) (bad : List Nat) (s : State) : Res :=
  match s.lease.closing with
  | some (.verify _) =>
    let s := repairs.foldl (fun s r =>
      let x := drawFree s
      repairRows x.2 (fin 256 r.1) r.2 (hbmAddr (r.1 % 256) (x.1 % 0x60000000 / 64 * 64))) s
    let s := bad.foldl (fun s a => repairRows s (fin 256 (hbmChannel a)) 1 (a / 64 * 64)) s
    .next (finishClose s)
  | _ => .next s

/-! ### Vangaer messages (R604, R605) -/

/-- Vangaer's answer to a message after a fixed 20 us: 0 accepted, 1 not accepted. -/
def vangaerReply (s : State) (st : Nat) : State :=
  { s with sec := { s.sec with replies := s.sec.replies ++ [(now s + 20000, st)] } }

/-- Takes or refuses a message: the audit entry of an accepted one, or a refusal with reason 10 (R597, R605, R619). -/
def vangaerDone (s : State) (role kind : Nat) (ok : Bool) (f : State → State) : State :=
  if ok then
    let s := auditPut (f s) 0x0006 role 3 (role = 3) { AuditPriv.zero with aux := kind }
    vangaerReply s 0
  else vangaerReply (auditRefusal s role 3 0 0 0 10 0) 1

/-- The digest that a message is signed over: its bytes from 0x00 up to the signature (R604). -/
def vangaerDigest (m : VangaerIn) : BitVec 384 := Config.sha384 m.body

/-- A field of a message as a number: its offset and its bytes (R604). -/
def vgField (m : VangaerIn) (off n : Nat) : Nat := fromLe ((m.body.drop off).take n)

def vgLease (m : VangaerIn) : Nat := vgField m 0x04 4
def vgSerial (m : VangaerIn) : Nat := vgField m 0x08 16
def vgAuthseq (m : VangaerIn) : Nat := vgField m 0x18 8
def vgSecret (m : VangaerIn) : BitVec 256 := BitVec.ofNat 256 (vgField m 0x20 32)
def vgKey (m : VangaerIn) : BitVec 768 := BitVec.ofNat 768 (vgField m 0x20 96)

/-- Whether a message is of a kind: its kind byte and its length. One whose reserved bytes are not zero is not accepted (R9, R604;
DESIGN CHOICE, log entry 139). -/
def vgForm (m : VangaerIn) (kind : Nat) : Bool :=
  vgField m 0 1 == kind && m.body.length == (if kind = 3 then 0x80 else 0x40) && vgField m 1 3 == 0

/-- SERIAL matches (R605). -/
def serialOk (s : State) (m : VangaerIn) : Bool := vgSerial m == s.sec.serial.toNat

/-- Whether a message of the tenant is accepted (R604, R605). -/
def tenantMsgOk (s : State) (m : VangaerIn) (kind : Nat) : Bool :=
  vgForm m kind && leaseLive s && vgLease m == s.lease.id.toNat && serialOk s m && s.sec.sessions.contains m.session
    && Config.ecdsaOk s.lease.tenant (vangaerDigest m) m.sig

/-- FABRIC_SECRET (R605). -/
def execFabricSecret (m : VangaerIn) (s : State) : Res :=
  let ok := tenantMsgOk s m 1 && s.lease.fabSecret.isNone
  .next (vangaerDone s 3 1 ok fun s => { s with lease := { s.lease with fabSecret := some (vgSecret m) } })

/-- MIRROR_SECRET (R605). -/
def execMirrorSecret (m : VangaerIn) (s : State) : Res :=
  let ok := tenantMsgOk s m 2 && s.lease.mirSecret.isNone && s.lease.mirror
  .next (vangaerDone s 3 2 ok fun s => { s with lease := { s.lease with mirSecret := some (vgSecret m) } })

/-- Whether the installer key stored is the one whose digest the INSTHASH slot in force holds (R592). -/
def installerKeyOk (s : State) : Bool := s.sec.instSlots > 0 && Config.sha384 (leBytes 96 s.sec.instKey.toNat) = s.sec.instHash

/-- Whether a message of the installer is accepted, signed by a key (R604, R605). -/
def installerMsgOk (s : State) (m : VangaerIn) (kind : Nat) (key : BitVec 768) : Bool :=
  vgForm m kind && !s.lease.openL && s.lease.closing.isNone && decide (vgAuthseq m > s.sec.authInst) && serialOk s m
    && s.sec.sessions.contains m.session && Config.ecdsaOk key (vangaerDigest m) m.sig

/-- INSTALL_KEY (R604, R605): blows the next of the four INSTHASH slots; the new key signs while none is used. -/
def execInstallKey (m : VangaerIn) (s : State) : Res :=
  let ok := s.sec.instSlots < 4 && (s.sec.instSlots = 0 || installerKeyOk s)
    && installerMsgOk s m 3 (if s.sec.instSlots = 0 then vgKey m else s.sec.instKey)
  .next (vangaerDone s 1 3 ok fun s =>
    { s with sec := { s.sec with
      instSlots := s.sec.instSlots + 1, instKey := vgKey m, instHash := Config.sha384 (leBytes 96 (vgKey m).toNat), authInst := vgAuthseq m } })

/-- PLAIN_SECRET (R605). -/
def execPlainSecret (m : VangaerIn) (s : State) : Res :=
  let ok := installerKeyOk s && installerMsgOk s m 4 s.sec.instKey
  .next (vangaerDone s 1 4 ok fun s => { s with sec := { s.sec with plain := some (vgSecret m), authInst := vgAuthseq m } })

/-- VANGAER_REPLY (R605): the answers whose 20 us have passed go out. -/
def execVangaerReply (s : State) : Res :=
  let due := s.sec.replies.filter fun r => now s ≥ r.1
  let s := { s with sec := { s.sec with replies := s.sec.replies.filter fun r => now s < r.1 } }
  .next (due.foldl (fun s r => emit s (.spdm 4 [BitVec.ofNat 8 r.2])) s)

end Sys2Proof.Machine
end

