-- ==== Sys2Proof/Machine/FabRecv.lean ====
section
/-! DEFINITION. Frames that arrive: the checks of a receiver, requests and answers, sealed links and their rekeys, and
frames that found no port (15_onaux_fabric.md R526, R534 to R543, R556; 13_address_translation.md R450, R453;
09_memory_model.md R302; 02_self_timed_operation.md R67, R68). -/

namespace Sys2Proof.Machine

/-! ### The receiver's checks (R450, R538, R542, R543, R556) -/

def modPort (s : State) (p : Nat) (f : PortSt → PortSt) : State :=
  { s with ports := vset s.ports p (f (vget s.ports .init p)) }

def sat32 (n : Nat) : Nat := min n 0xFFFFFFFF

/-- Counts a frame that failed its tag, or that XPORT may not carry. -/
def authFail (s : State) (p : Nat) : State := modPort s p fun x => { x with authFail := sat32 (x.authFail + 1) }

/-- Counts a frame of another lease, at its port and at the target. -/
def staleFrame (s : State) (p : Nat) : State :=
  let s := modPort s p fun x => { x with stale := sat32 (x.stale + 1) }
  setFab s { s.fab with staleCount := s.fab.staleCount + 1 }

/-- Highest counter accepted and the window's accepted counters of a slot. -/
def slotWindow (l : LinkSt) (k : Nat) : Nat × List Nat := if k = 0 then (l.high0, l.seen0) else (l.high1, l.seen1)

/-- The 64-bit counter of a frame: the least value not more than 1,024 below the highest accepted that ends in FCTR (R538). The tag is
checked under it, so that an older frame fails its tag. -/
def fullCounter (high : Nat) (seen : List Nat) (fctr : Nat) : Nat :=
  let lo := if seen.isEmpty then 0 else high - 1024
  let c := lo / 2 ^ 32 * 2 ^ 32 + fctr
  if c < lo then c + 2 ^ 32 else c

/-- Accepts a counter under a slot; the first frame of a generation ends the receipt of the one before (R538, R539). -/
def acceptCounter (l : LinkSt) (k n : Nat) : LinkSt :=
  let (hi, seen) := slotWindow l k
  let hi' := if seen.isEmpty then n else max hi n
  let seen' := (n :: seen).filter fun x => x + 1024 ≥ hi'
  let g := (linkSlot l k).getD 0
  let l := { l with recvGen := max l.recvGen g }
  if k = 0 then { l with high0 := hi', seen0 := seen' } else { l with high1 := hi', seen1 := seen' }

/-- What a receiver makes of a frame. -/
inductive Recv where
  | drop (s : State)
  | ok (s : State)

/-- Frames under the lease's sealed link. -/
def recvSealed (s : State) (f : FrameIn) : Recv :=
  let p := f.port.val
  if !(leaseLive s && fhLease f.hdr = s.lease.id.toNat) then .drop (staleFrame s p)
  else match getLink s (fhSrc f.hdr) with
    | none => .drop (authFail s p)
    | some l =>
      let k := fhKslot f.hdr
      match linkSlot l k with
      | none => .drop (authFail s p)
      | some g =>
        if g < l.recvGen || !f.tagOk then .drop (authFail s p)
        else
          let (hi, seen) := slotWindow l k
          let n := fullCounter hi seen (fhFctr f.hdr)
          if seen.contains n then .drop s else .ok (putLink s (acceptCounter l k n))

/-- The checks of an arriving frame. Types 1 to 7 carry tenant data and are sealed under a link of the lease; DIGEST has
the plain management key of the sender's plain, TIME and KEYX that of this plain, and MGMT either. -/
def recvFrame (s : State) (f : FrameIn) : Recv :=
  let p := f.port.val
  let ty := (bodyType f.body).1
  let onX := idMirror s && p = idXport s
  if !portUp s p then .drop s
  else if onX && fhType f.hdr ≠ 10 then .drop (authFail s p)
  else if fhType f.hdr ≠ ty || fhVc f.hdr ≠ (bodyType f.body).2 then .drop s
  else if ty = 10 then
    if !onX || !fhMkey f.hdr then .drop s else if f.tagOk then .ok s else .drop (authFail s p)
  else if fhDst f.hdr ≠ selfId s && !(ty = 9 && fhDst f.hdr = everyDst s) then .drop s
  else if fhMkey f.hdr then
    if ty ≤ 7 || s.sec.plain.isNone || !f.tagOk then .drop (authFail s p) else .ok s
  else if ty = 9 || ty = 11 then .drop (authFail s p)
  else recvSealed s f

/-- Keeps an accepted request that must wait; the tick serves it (`serveParked`). -/
def park (s : State) (f : FrameIn) : State := setFab s { s.fab with parked := s.fab.parked ++ [f] }

/-- Runs what a frame does once it is accepted. -/
def onFrame (f : FrameIn) (s : State) (act : State → State) : Res :=
  if frozen s && (bodyType f.body).1 ≠ 8 then .next s
  else match recvFrame s f with
    | .drop s => .next s
    | .ok t => .next (act t)

/-! ### Requests (R292, R298, R302, R453) -/

def fpaLocal (f : FrameIn) : Nat := bits (fhFpa f.hdr) 47 0

/-- Answers a request as it was served; one that must wait is kept. -/
def answerServed (f : FrameIn) (ack : List Byte → FrameBody) : Served → State
  | .wait s => park s f
  | .ok s bs => respond s f (ack bs)
  | .err s st => respond s f (.nack st)

def collReply (s : State) (f : FrameIn) : CollAns → State
  | .wait => park s f
  | .drop s => s
  | .ans s st => respond s f (if st = stOk then .ack else .nack st)

/-- Serves a request or a collective frame that has been accepted (R453, R547); one that waited was checked when it came (R454). -/
def serveReq (adm : Bool) (f : FrameIn) (s : State) : State :=
  match f.body with
  | .read n => answerServed f .readData (serveRead s adm (fpaLocal f) n (fhCtx f.hdr))
  | .write bs => answerServed f (fun _ => .ack) (serveWrite s adm (fpaLocal f) bs (fhCtx f.hdr))
  | .flagAdd v => answerServed f (fun _ => .ack) (serveFlag s adm (fpaLocal f) v (fhCtx f.hdr))
  | .collReady id inst h => collReply s f (takeReady s (fhSrc f.hdr) id inst h)
  | .collData id inst g chunk rank off bs => collReply s f (takeData s adm id inst g chunk rank off bs)
  | _ => s

/-- Whether a frame is a management message, which another operation takes. -/
def isMgmt (f : FrameIn) : Bool := match f.body with | .mgmt _ _ => true | _ => false

/-- Serves the requests that wait, oldest first, as far as they can be served; a MEM_MAP may wait for them (R454). -/
def serveParked (s : State) : State :=
  if frozen s || s.fab.parked.all isMgmt then s
  else settleMaps ((s.fab.parked.filter fun f => !isMgmt f).foldl (fun s f => serveReq true f s)
    (setFab s { s.fab with parked := s.fab.parked.filter isMgmt }))

/-- FRAME_READ (R453). -/
def execFrameRead (f : FrameIn) (s : State) : Res :=
  match f.body with
  | .read _ => onFrame f s (serveReq false f)
  | _ => .next s

/-- FRAME_WRITE (R453): acknowledged when the bytes are in the target memory (R302). -/
def execFrameWrite (f : FrameIn) (s : State) : Res :=
  match f.body with
  | .write _ => onFrame f s (serveReq false f)
  | _ => .next s

/-- FRAME_FLAG_ADD (R453). -/
def execFrameFlagAdd (f : FrameIn) (s : State) : Res :=
  match f.body with
  | .flagAdd _ => onFrame f s (serveReq false f)
  | _ => .next s

/-! ### Answers (R302, R638) -/

/-- The outstanding request a response answers. -/
def findReq (s : State) (f : FrameIn) : Option OutReq :=
  s.fab.reqs.find? fun r => r.tid = fhTid f.hdr && r.peer = fhSrc f.hdr

def dropReq (s : State) (r : OutReq) : State := setFab s { s.fab with reqs := s.fab.reqs.erase r }

/-- Takes an answer for the entry or instance that waits for it: data or an acknowledgement, or a failing status. -/
def takeAnswer (s : State) (r : OutReq) (st : Nat) (bs : List Byte) : State :=
  let s := dropReq s r
  match r.owner with
  | .dma c seq => if st = stOk then entAnswer s c seq r.off bs else endEnt s c seq st
  | .coll id inst => collAnswer s id inst st

/-- FRAME_READ_DATA: data of an outstanding read. -/
def execFrameReadData (f : FrameIn) (s : State) : Res :=
  match f.body with
  | .readData bs => onFrame f s fun s => match findReq s f with
    | some r => if r.kind = 1 && bs.length = r.len then takeAnswer s r stOk bs else s
    | none => s
  | _ => .next s

/-- FRAME_ACK (R302): acknowledgement of a write, a flag addition or a collective frame. -/
def execFrameAck (f : FrameIn) (s : State) : Res :=
  match f.body with
  | .ack => onFrame f s fun s => match findReq s f with
    | some r => if r.kind ≠ 1 then takeAnswer s r stOk [] else s
    | none => s
  | _ => .next s

/-- FRAME_NACK (R453, R638): the issuing entry fails with the status. -/
def execFrameNack (f : FrameIn) (s : State) : Res :=
  match f.body with
  | .nack st => onFrame f s fun s => match findReq s f with
    | some r => takeAnswer s r (if st = stOk then stRefused else st) []
    | none => s
  | _ => .next s

/-! ### Collective frames (R547, R550) -/

/-- FRAME_COLL (R547): a ready message or data. -/
def execFrameColl (f : FrameIn) (s : State) : Res :=
  match f.body with
  | .collReady _ _ _ => onFrame f s (serveReq false f)
  | .collData _ _ _ _ _ _ _ => onFrame f s (serveReq false f)
  | _ => .next s

/-! ### Time frames (R67, R68, R523) -/

/-- TIME_ROOT_PROBE (R68): the root probes every trained port but XPORT and waits. A probe names no device: its DST is the plain with
all ones (DESIGN CHOICE, log entry 132). -/
def execTimeRootProbe (s : State) : Res :=
  if !s.tb.locked || !s.tb.root || s.tb.serving || s.tb.probe.isSome then .next s
  else
    let s := ((List.range 32).filter fun p => portUp s p && !xOnly s p).foldl (fun s p =>
      let x := sealFrame s (newFrame s (everyDst s) 0 0 0 (.time 1 (now s) true))
      placeFrame x.1 p x.2) s
    .next { s with tb := { s.tb with probe := some (now s, 0) } }

/-- FRAME_TIME (R67, R68): kind 0 asks for an exchange, 1 is a probe, 2 a probe's answer, 3 an exchange's answer, whose
measured offset is TIME_EXCHANGE's. A root answers exchanges only once it serves; a device answers a probe if it has held
ALIGNED since power-on. CORR, in ps, is added to an answer, of which the root keeps how far it is ahead. -/
def execFrameTime (f : FrameIn) (s : State) : Res :=
  match f.body with
  | .time kind v root => onFrame f s fun s =>
    let corr := bits f.hdr.toNat 31 0 / 1000
    match kind with
    | 0 => if (s.tb.root && s.tb.serving) || (!s.tb.root && s.tb.aligned) then
        respond s f (.time 3 (now s) s.tb.root) else s
    | 1 => if s.tb.everAligned then respond s f (.time 2 (now s) s.tb.root) else s
    | 2 => match s.tb.probe with
      | some (t, best) => { s with tb := { s.tb with probe := some (t, max best (v + corr - now s)) } }
      | none => s
    | _ => if root then seeRoot s (fhSrc f.hdr) else s
  | _ => .next s

/-! ### Sealed links (R537 to R541, R606) -/

/-- Draws a nonce of this device. -/
def drawNonce (s : State) : BitVec 128 × State :=
  let (n, s) := drawRandom s
  (BitVec.ofNat 128 n, s)

def sendKeyx (s : State) (peer : Nat) (nonce : BitVec 128) (g : Nat) (inst : Bool) : State :=
  routeFrame s (now s) (newFrame s peer 0 0 0 (.keyx nonce g inst))

/-- Installs a generation in its slot: its keys from both nonces, its windows empty (R537). -/
def installGen (s : State) (l : LinkSt) (g : Nat) (peerNonce : BitVec 128) : LinkSt :=
  let l := { l with gen := g, peerNonce := peerNonce }
  let k := linkKeys s l.peer g l.myNonce peerNonce
  if g % 2 = 0 then { l with slot0 := some g, keys0 := k, high0 := 0, seen0 := [] }
  else { l with slot1 := some g, keys1 := k, high1 := 0, seen1 := [] }

/-- The peer has installed a generation: the sender moves to it with its counter at 0 (R537, R539). -/
def confirmGen (s : State) (l : LinkSt) : LinkSt :=
  if l.confirmed && l.sendSlot = l.gen % 2 && l.rekeyAt.isNone then l
  else { l with confirmed := true, sendSlot := l.gen % 2, sendCtr := 0, rekeyAt := none, setAt := now s }

/-- Takes a KEYX frame: a set-up or a rekey that the peer began, or the peer's part of one that this device began. A fresh nonce for
generation 0 sets the link up anew. -/
def takeKeyx (s : State) (peer : Nat) (nonce : BitVec 128) (g : Nat) (inst : Bool) : State :=
  let fresh := fun (s : State) (old : Option LinkSt) =>
    let (mine, s) := drawNonce s
    let base : LinkSt := old.getD
      { peer := peer, gen := g, slot0 := none, slot1 := none, keys0 := .init, keys1 := .init, myNonce := mine, peerNonce := nonce
        confirmed := false, sendSlot := g % 2, sendCtr := 0, high0 := 0, seen0 := [], high1 := 0, seen1 := [], recvGen := 0, setAt := now s
        rekeyAt := none }
    let l := installGen s { base with myNonce := mine, rekeyAt := if old.isSome then some (now s) else none } g nonce
    let l := if inst then confirmGen s l else l
    sendKeyx (putLink s l) peer mine g true
  match getLink s peer with
  | none => fresh s none
  | some l =>
    if g = l.gen then
      if linkSlot l (g % 2) = some g && g = 0 && nonce ≠ l.peerNonce then fresh (dropLink s peer) none
      else if linkSlot l (g % 2) = some g then
        let s := putLink s (if inst then confirmGen s l else l)
        if inst then s else sendKeyx s peer l.myNonce g true
      else
        let l := installGen s l g nonce
        sendKeyx (putLink s (if inst then confirmGen s l else l)) peer l.myNonce g true
    else if g = l.gen + 1 then fresh s (some l)
    else if g = 0 then fresh (dropLink s peer) none
    else s

/-- FRAME_KEYX (R537, R539, R606): dropped while the lease has no fabric secret. -/
def execFrameKeyx (f : FrameIn) (s : State) : Res :=
  match f.body with
  | .keyx nonce g inst => onFrame f s fun s =>
    if !leaseLive s || s.lease.fabSecret.isNone then s
    else flushHeld (takeKeyx s (fhSrc f.hdr) nonce g inst)
  | _ => .next s

/-- REKEY_TRIGGER (R539): 2^48 frames sent under the generation, or 3,600 s since it was set up. -/
def execRekeyTrigger (peer : Nat) (s : State) : Res :=
  match getLink s peer with
  | none => .next s
  | some l =>
    if !l.confirmed || l.rekeyAt.isSome || !(l.sendCtr ≥ 2 ^ 48 || now s ≥ l.setAt + 3600000000000) then .next s
    else
      let (n, s) := drawNonce s
      let s := putLink s { l with gen := l.gen + 1, myNonce := n, rekeyAt := some (now s) }
      .next (sendKeyx s peer n (l.gen + 1) false)

/-- DMA entries with frames for a device. -/
def entFor (s : State) (peer : Nat) : List (Fin 192 × Nat) :=
  s.fab.reqs.filterMap fun r => match r.owner with
    | .dma c seq => if r.peer = peer then some (c, seq) else none
    | _ => none

/-- Fails every DMA entry with a frame to a device. -/
def failPeer (s : State) (peer st : Nat) : State := (entFor s peer).foldl (fun s e => endEnt s e.1 e.2 st) s

/-- The port a link's failure is reported on: the first usable port of the peer's set, else the first of the set. -/
def linkPort (s : State) (peer : Nat) : Nat :=
  ((usablePorts s peer).head?.orElse fun _ => (List.range 32).find? fun p => (portSet s peer).toNat.testBit p).getD 0

/-- Closes a sealed link (R540): its report, ST_FENCED for the DMA entries with frames for the peer, and no link. -/
def closeLink (s : State) (peer : Nat) : State :=
  let p := linkPort s peer
  let s := faultUnit s (.port (fin 32 p)) 0x000A 0 (uidOf (.port (fin 32 p))) 0 (peer * 2 ^ 48 + uidOf .device)
  let s := failPeer s peer (withCause stFenced (uidOf .device))
  let mine := fun (f : FrameRec) => fhDst f.hdr = peer && fhVc f.hdr = 0
  let s := setFab s { s.fab with held := s.fab.held.filter (fun h => !mine h.2), waiting := s.fab.waiting.filter fun f => !mine f }
  dropLink s peer

/-- REKEY_TIMEOUT (R540): 10 s after the trigger. -/
def execRekeyTimeout (peer : Nat) (s : State) : Res :=
  match getLink s peer with
  | none => .next s
  | some l => match l.rekeyAt with
    | none => .next s
    | some t => if now s < t + 10000000000 then .next s else .next (closeLink s peer)

/-- FRAME_COUNTER_LIMIT (R541): the next counter would be 2^64 - 1. -/
def execFrameCounterLimit (peer : Nat) (s : State) : Res :=
  match getLink s peer with
  | none => .next s
  | some l => if l.sendCtr ≥ 2 ^ 64 - 1 then .next (closeLink s peer) else .next s

/-- FABRIC_HOLD_EXPIRY (R526): where a frame was held for 1 ms while no port of its destination's set was usable, it is dropped, every
DMA entry with a frame to that destination fails, and so do the requests held for it. -/
def execFabricHoldExpiry (s : State) : Res :=
  let due := s.fab.held.filter fun h => h.1.any (fun t => now s ≥ t + 1000000) && (choosePort s h.2).isNone
  let peers := (due.map fun h => fhDst h.2.hdr).eraseDups
  let s := peers.foldl (fun s p => failPeer s p stTimeout) s
  .next (setFab s { s.fab with held := s.fab.held.filter fun h =>
    h ∉ due && !(fhVc h.2.hdr = 0 && peers.contains (fhDst h.2.hdr)) })

end Sys2Proof.Machine
end

