-- ==== Sys2Proof/Machine/Ports.lean ====
section
/-! DEFINITION. Link ports and routes: FAB_PORT_CTL, training, link loss, retransmission, credits, the injection bucket,
the routing table, the identity record, and digests that arrive (15_onaux_fabric.md R513 to R533, R554, R556). -/

namespace Sys2Proof.Machine

/-! ### Moving between port states (R515, R516, R524) -/

/-- What a port in a state reports (R515). -/
def phaseOwn : PortPhase → UState
  | .up => .ready
  | .up2 => .degraded
  | .disabled => .outOfService
  | _ => .notReady

/-- The code of a port's state in its status record (R520); a port in loopback is not joined to the far end and reads
DOWN. -/
def phaseCode : PortPhase → Nat
  | .down => 0
  | .training => 1
  | .up => 2
  | .up2 => 3
  | .disabled => 4
  | .loopback => 0

/-- The port status record (R520); `full` off leaves STATE alone. -/
def portStatus (s : State) (p : Nat) (full : Bool) : Nat :=
  let x := vget s.ports .init p
  phaseCode x.phase * 2 ^ 125 + if full then x.authFail * 2 ^ 64 + x.stale * 2 ^ 32 + x.replay else 0

/-- Puts a port in a state: it leaves every port set with its frames handed off if it was usable, and the units that wait
for ALLREADY follow (R515, R518, R524, R554). -/
def movePort (s : State) (p : Fin 32) (ph : PortPhase) (cause : Nat) : State :=
  let was := (s.ports[p]).phase = .up || (s.ports[p]).phase = .up2
  let s := modPort s p fun x => { x with phase := ph }
  let s := if was && !portUp s p then
      let s := portHandoff s p
      if idMirror s && idXport s = p then mirrorLinkDown s else s
    else s
  let s := modUnit s (.port p) fun r =>
    if r.own = .resetting ∨ r.own = .fenced then r else { r with own := phaseOwn ph, startAt := now s, cause := cause }
  tellState (checkAllReady s cause (now s)) (.port p)

/-- Returns a port to TRAINING: each retraining increments its epoch with the reset cause (R516). -/
def retrainPort (s : State) (p : Fin 32) (cause : Nat) : State :=
  bumpUnits (movePort (modPort s p fun x => { x with lost := false }) p .training cause) false 2 [.port p] []

/-- PORT_SIGNAL_DETECTED (R515, R516): a DOWN port that has not lost a link begins to train. -/
def execPortSignalDetected (p : Fin 32) (s : State) : Res :=
  let x := s.ports[p]
  if s.rst.porAt.isNone || x.phase ≠ .down || x.lost then .next s
  else .next { s with ports := s.ports.set p { x with phase := .training } }

/-- PORT_TRAINED (R515, R516): UP with four lanes, UP2 with two; its frames may leave. -/
def execPortTrained (p : Fin 32) (full : Bool) (s : State) : Res :=
  let x := s.ports[p]
  if x.phase ≠ .training || s.rst.porAt.isNone then .next s
  else
    let s := { s with ports := s.ports.set p { x with phase := if full then .up else .up2, lost := false } }
    let s := if (getUnit s (.port p)).own = .notReady && dependsMet s (.port p) then becomeReady s (.port p) else s
    .next (flushHeld s)

/-- PORT_LINK_LOSS (R515, R524): a port leaves UP and UP2 and its frames are re-sent on other ports. -/
def execPortLinkLoss (p : Fin 32) (s : State) : Res :=
  if (s.ports[p]).phase ≠ .up ∧ (s.ports[p]).phase ≠ .up2 then .next s
  else .next (movePort (modPort s p fun x => { x with lost := true }) p .down 3)

/-- PORT_RETRAIN_TIMER (R516): a port that lost its link returns to TRAINING, at most once every 1 s. -/
def execPortRetrainTimer (p : Fin 32) (s : State) : Res :=
  let x := s.ports[p]
  let early := match x.lastRetrain with | some t => decide (now s < t + 1000000000) | none => false
  if x.phase ≠ .down || !x.lost || early then .next s
  else .next (retrainPort (modPort s p fun x => { x with lastRetrain := some (now s) }) p 3)

/-! ### FAB_PORT_CTL (R519) -/

def pcAction (ps : List (BitVec 512)) : Nat := bits (paramNat ps) 511 508

/-- Step 7 of FAB_PORT_CTL. -/
def checkPortCtl (ps : List (BitVec 512)) : List Nat :=
  chk (1 ≤ pcAction ps && pcAction ps ≤ 4) (512 + 508) ++ rsvBad (paramNat ps) [(507, 0)]

/-- Runs one action of FAB_PORT_CTL. -/
def portCtl (action : Nat) (eff : State → CmdRec → Fin 32 → State) (id : Nat) (s : State) : Res :=
  match waiting s id 0x0603 with
  | none => .next s
  | some k =>
    if pcAction k.params ≠ action then .next s
    else runCmd s id 0x0603 fun s c u => match u with
      | .port p => eff s c p
      | _ => finishCmd s id stBadParam (badDetail [384 + 27])

/-- PORT_ENABLE: a port held down, or in loopback, leaves that state and waits for a signal; it leaves out-of-service
(R35). -/
def execPortEnable (id : Nat) (s : State) : Res :=
  portCtl 1 (fun s c p =>
    let ph := (s.ports[p]).phase
    let s := if ph = .disabled then bumpUnits (movePort s p .down 4) false 3 [.port p] []
      else if ph = .loopback then movePort s p .down 4 else s
    finishCmd s c.id stOk 0) id s

/-- PORT_DISABLE: the port is held down and reports OUT_OF_SERVICE (R35, R515). -/
def execPortDisable (id : Nat) (s : State) : Res :=
  portCtl 2 (fun s c p =>
    let s := if (s.ports[p]).phase = .disabled then s
      else bumpUnits (movePort (modPort s p fun x => { x with lost := false }) p .disabled 0) false 3 [.port p] []
    finishCmd s c.id stOk 0) id s

/-- PORT_RETRAIN: a port with a signal trains again (R516). -/
def execPortRetrain (id : Nat) (s : State) : Res :=
  portCtl 3 (fun s c p =>
    let s := if portUp s p || (s.ports[p]).phase = .training then retrainPort s p 2 else s
    finishCmd s c.id stOk 0) id s

/-- PORT_LOOPBACK: a permission refusal while a lease is open (R519, R594); the port joins its own SerDes and carries nothing. -/
def execPortLoopback (id : Nat) (s : State) : Res :=
  portCtl 4 (fun s c p =>
    if s.lease.openL then refuseCmd s c 2
    else
      let s := if (s.ports[p]).phase = .disabled then s else movePort s p .loopback 2
      finishCmd s c.id stOk 0) id s

/-! ### The link layer (R514, R525, R531) -/

/-- LINK_RETRANSMIT (R514): the frame at a place of the replay buffer failed its CRC; it and the later frames of its channel
leave again, in order. -/
def execLinkRetransmit (p : Fin 32) (index : Nat) (s : State) : Res :=
  let x := s.ports[p]
  match x.replayBuf[index]? with
  | none => .next s
  | some f =>
    if !portUp s p || s.rst.tripped then .next s
    else
      let again := (x.replayBuf.drop index).filter fun g => fhVc g.hdr = fhVc f.hdr
      let s := modPort s p fun x => { x with replay := sat32 (x.replay + again.length) }
      .next (again.foldl (fun s g => emit s (.frame p g)) s)

/-- The list without its first `n` frames of a channel. -/
def dropAcked (vc : Nat) : Nat → List FrameRec → List FrameRec
  | _, [] => []
  | 0, fs => fs
  | n + 1, f :: fs => if fhVc f.hdr = vc then dropAcked vc n fs else f :: dropAcked vc (n + 1) fs

/-- VC_CREDIT_RETURN (R525): credits of a channel return, with the acknowledgement of as many of its frames, and frames
that waited go. -/
def execVcCreditReturn (p : Fin 32) (vc : Fin 4) (n : Nat) (s : State) : Res :=
  if !portUp s p then .next s
  else
    let s := modPort s p fun x => { x with
      credits := vset x.credits vc (vget x.credits 0 vc + n), replayBuf := dropAcked vc n x.replayBuf }
    .next (flushPort s p)

/-- INJECTION_TOKEN_REFILL (R531): the bucket fills at INJRATE GB/s and holds at most 64 KiB; frames that waited go. -/
def execInjectionTokenRefill (s : State) : Res :=
  if !leaseLive s then .next s
  else
    let n := s.lease.injrate * (now s - s.fab.tokenAt)
    .next (flushWaiting (setFab s { s.fab with tokens := min 65536 (s.fab.tokens + n), tokenAt := now s }))

/-! ### Routes and identity (R521, R522, R527) -/

def rtFirst (ps : List (BitVec 512)) : Nat := bits (paramNat ps) 511 497
def rtCount (ps : List (BitVec 512)) : Nat := bits (paramNat ps) 496 482
def rtSet (ps : List (BitVec 512)) (i : Nat) : Nat := bits (paramBlock ps (1 + i / 16)) (32 * (i % 16) + 31) (32 * (i % 16))

/-- Step 7 of FAB_ROUTE_SET (R527). -/
def checkRouteSet (s : State) (ps : List (BitVec 512)) : List Nat :=
  let f := rtFirst ps
  let n := rtCount ps
  chk (1 ≤ n && n ≤ 24576 && f + n ≤ 24576) (512 + 482) ++ rsvBad (paramNat ps) [(481, 0)]
    ++ (List.range (min n 24576)).filterMap fun i =>
        let x := rtSet ps i
        if (idMirror s && x.testBit (idXport s)) || (f + i = devnumOf s && x ≠ 0) then some (1024 + 32 * i) else none

/-- FAB_ROUTE_SET (R527). -/
def execFabRouteSet (id : Nat) (s : State) : Res :=
  runCmd s id 0x0601 fun s c _ =>
    if !(checkRouteSet s c.params).isEmpty then finishCmd s id stBadParam (badDetail (checkRouteSet s c.params))
    else
      let sets := (List.range (rtCount c.params)).map fun i => BitVec.ofNat 32 (rtSet c.params i)
      let s := setFab s { s.fab with routes := smapSetRun 0 s.fab.routes (rtFirst c.params) sets }
      flushHeld (finishCmd s id stOk 0)

/-- Step 7 of MGMT_SET_IDENTITY (R521, R522). -/
def checkSetIdentity (s : State) (ps : List (BitVec 512)) : List Nat :=
  let p := paramNat ps
  chk (bits p 510 496 ≤ 24575) (512 + 496) ++ chk (bits p 468 463 < bits p 446 440) (512 + 463)
    ++ chk (1 ≤ bits p 446 440 && bits p 446 440 ≤ 64) (512 + 440) ++ rsvBad p [(439, 0)]
    ++ chk (!(p.testBit 489 && bits p 473 469 = bits p 494 490)) (512 + 469)
    ++ chk (p.testBit 489 || bits p 488 474 = 0) (512 + 474) ++ chk (p.testBit 489 || bits p 473 469 = 0) (512 + 469)
    ++ chk (!s.lease.openL) 0xFFFF

/-- The designation as time root (R68): one newly made or withdrawn begins again with no probe and no service. ALIGNED stays as it was
while a new root's start runs (DESIGN CHOICE, log entry 125). -/
def designate (t : TbSt) (root : Bool) : TbSt :=
  if root = t.root then t else { t with root := root, serving := false, probe := none }

/-- MGMT_SET_IDENTITY (R522): in force when the command completes; every unit's epoch moves on with the lease cause. -/
def execMgmtSetIdentity (id : Nat) (s : State) : Res :=
  runCmd s id 0x0105 fun s c _ =>
    if !(checkSetIdentity s c.params).isEmpty then finishCmd s id stBadParam (badDetail (checkSetIdentity s c.params))
    else
      let r := c.params.headD 0
      let s := { s with fab := { s.fab with ident := r }, sec := { s.sec with flashIdent := r }
                        tb := designate s.tb (r.toNat.testBit 495) }
      finishCmd (bumpUnits s false 1 allUnits []) id stOk 0

/-! ### Digests that arrive (R554, R556) -/

/-- FRAME_DIGEST (R554, R556): a partner's digest, on XPORT. -/
def execFrameDigest (f : FrameIn) (s : State) : Res :=
  match f.body with
  | .digest qpn seqno g => onFrame f s fun s =>
    if (mirrorKey s).isNone then s else digestPartner s ⟨qpn, seqno, g, 0, now s⟩
  | _ => .next s

end Sys2Proof.Machine
end

