-- ==== Sys2Proof/Machine/Telemetry.lean ====
section
/-! DEFINITION. Telemetry, trace control, fault concentrators, dumps and global stops (20_debug_and_telemetry.md R666 to
R696; 17_security_and_leasing.md R599, R624; 12_memory_system.md R412, R420 to R424). -/

namespace Sys2Proof.Machine

/-! ### What a reader outside the lease sees (R599) -/

/-- Whether a role reads from outside an open lease. -/
def outside (s : State) (role : Role) : Bool := s.lease.openL && role ≠ .tenant

/-! ### TELEM_READ (R670 to R673) -/

def tmClear (p : Nat) : Bool := bit p 502
def tmFirst (p : Nat) : Nat := bits p 479 448
def tmCount (p : Nat) : Nat := bits p 447 432
def tmCap (p : Nat) : Nat := bits p 319 288

/-- Whether an item is a list (R673). -/
def listItem (i : Nat) : Bool := 0x0C ≤ i && i ≤ 0x0E

/-- Whether an item may name a unit (R672). -/
def itemUnit (i : Nat) (u : PUnit) : Bool :=
  let k := kindOf u
  match i with
  | 0x01 => k ≤ 4
  | 0x02 => k = 1 || k = 2 || k = 5 || k = 6
  | 0x03 => true
  | 0x04 => k = 3 || k = 4
  | 0x05 => k = 4
  | 0x06 => k = 3 || k = 4
  | 0x07 => k = 4
  | 0x08 => k = 6
  | 0x09 => k = 5
  | 0x0A => u = .seqEngine 0
  | 0x0B => k = 4
  | 0x0C => k = 3 || k = 4
  | 0x0D => k = 2
  | 0x0E => k = 4
  | _ => false

/-- Whether an item may name a group (R672). -/
def itemGroup (i : Nat) : Bool := i = 0x01 || i = 0x02 || i = 0x03 || i = 0x08 || i = 0x09

/-- A remote member's unit. -/
def remoteUnit (fuid : Nat) : Option PUnit := unitOfUid (fuid % 2 ^ 32)

/-- The units an item reads through a unit: its engines, or itself (R672). -/
def itemReads (i : Nat) (u : PUnit) : List PUnit :=
  if i = 0x01 then (u :: contents u).filter fun v => kindOf v = 0 else [u]

/-- The switched domain of a unit, by position (R648, R670). -/
def dozeIndex (u : PUnit) : Nat :=
  match u with
  | .core c => c
  | .cluster k => 192 + k
  | .channel n => 216 + n / 32
  | .port p => 224 + p
  | _ => 0

/-- Counters of an engine. -/
def engCounts (s : State) (u : PUnit) : EngCount :=
  match u with
  | .engine c e => vget (s.cores[c]).counts EngCount.zero e
  | _ => EngCount.zero

/-- An engine counter block (R666). -/
def countBlock (x : EngCount) : Nat :=
  x.since % 2 ^ 64 * 2 ^ 960 + x.busy * 2 ^ 896 + x.idle * 2 ^ 832
    + ((List.range 9).map fun i => x.stalls.getD i 0 * 2 ^ (768 - 64 * i)).foldl (· + ·) 0 + x.instrs * 2 ^ 192 + x.invalid * 2 ^ 128

/-- A domain record (R670). -/
def domainBlock (d : DozeSt) : Nat := d.dozes * 2 ^ 192 + d.dozeNs * 2 ^ 128 + d.wakeNs * 2 ^ 64

/-- A domain's counts at this instant: time switched off or waking counts while it runs (R670). -/
def domainNow (s : State) (u : PUnit) : DozeSt :=
  let d := vget s.doze .init (dozeIndex u)
  if !d.off then d
  else match d.wakeAt with
    | some t => { d with wakeNs := d.wakeNs + (now s - t) }
    | none => { d with dozeNs := d.dozeNs + (now s - d.offAt) }

/-- The value of a fixed-size item of a unit, filtered for a role outside the lease (R599, R672). R599 lists no timebase status,
so such a role reads 0 of it (DESIGN CHOICE, log entry 106). -/
def itemValue (s : State) (i ctx : Nat) (out : Bool) (u : PUnit) : Nat :=
  let r := getUnit s u
  match i with
  | 0x01 => if out then 0 else countBlock (engCounts s u)
  | 0x02 => if out then 0 else domainBlock (domainNow s u)
  | 0x03 => stateCode (reported s u) * 2 ^ 125 + r.epoch.toNat * 2 ^ 96 + r.lastWrap
  | 0x04 => (match u with
    | .die d => if out then (s.dies[d]).winRecord.toNat else (s.dies[d]).record.toNat
    | _ => if out then s.pace.winRecord.toNat else s.pace.record.toNat)
  | 0x05 => if out then 0 else tbStatus s
  | 0x06 => powerStatus s (!out)
  | 0x07 => readinessSummary s
  | 0x08 => (match u with | .port p => portStatus s p (!out) | _ => 0)
  | 0x09 => (match u with | .channel n => if out then 0 else (s.channels[n]).train.toNat | _ => 0)
  | 0x0A => if out then 0 else ctxRecordBits s ctx
  | 0x0B => if out then 0 else ((List.range 5).map fun j => s.lease.guards.getD j 0 % 2 ^ 64 * 2 ^ (64 * j)).foldl (· + ·) 0
  | _ => 0

/-- A fault record's bits as a role reads them (R599, R686). -/
def faultSeen (out : Bool) (r : FaultRec) : Nat :=
  faultBits (if out && r.lease then { r with addr := 0, info := 0, reason := 0, reporter := 0 } else r)

/-- A FAULT_SUMMARY payload (R685). -/
def sumBits (x : FaultSum) : Nat :=
  x.cls * 2 ^ 240 + min x.reports 0xFFFFFFFF * 2 ^ 208 + x.window % 2 ^ 64 * 2 ^ 128 + x.low * 2 ^ 64 + x.high

/-- The entries of a list item, oldest first (R672, R673, R685). -/
def listEntries (s : State) (i first : Nat) (out : Bool) (u : PUnit) : List (List Byte) :=
  match i with
  | 0x0C =>
    let ds := match u with | .die d => [d.val] | _ => [0, 1]
    let fs := ds.map (vget s.faults .init)
    let rs := (fs.flatMap fun f => f.recs.filter fun r => r.seq ≥ first).mergeSort fun a b => a.first ≤ b.first
    rs.map (fun r => leBytes 64 (faultSeen out r)) ++ fs.flatMap fun f => f.kept.map fun x => leBytes 64 (sumBits x)
  | 0x0D =>
    if out then []
    else (match u with | .cluster k => ((s.clusters[k]).trace.drop (first - 1)).map fun r => leBytes 16 r.toNat | _ => [])
  | _ =>
    if out then []
    else (s.dumps.filter fun d => d.no ≥ first).map fun d =>
      leBytes 8 d.stamp ++ leBytes 4 d.no ++ leBytes 4 d.root ++ leBytes 4 d.body.length
        ++ leBytes 4 (b2n d.collected + 2 * b2n d.inLease) ++ leBytes 8 0

/-- Sets the counters of engines to zero, SINCE at this instant (R669). -/
def clearEngines (s : State) (us : List PUnit) : State :=
  us.foldl (fun s u => match u with
    | .engine c e => { s with cores := s.cores.set c { s.cores[c] with
        counts := vset (s.cores[c]).counts e { EngCount.zero with since := now s } } }
    | _ => s) s

/-- Every physical unit that an item reads on this device and through members of others, each once: 0 for this device or 1 + the
other's number, and its UID (R30, R672). -/
def telemNames (i : Nat) (us : List PUnit) (rem : List Nat) : List (Nat × Nat) :=
  (us.flatMap (fun u => (itemReads i u).map fun v => (0, uidOf v))
    ++ rem.flatMap fun x => match remoteUnit x with
      | some u => (itemReads i u).map fun v => (1 + x / 2 ^ 48, uidOf v)
      | none => []).eraseDups

/-- Step 7 of TELEM_READ on a target whose local units and remote members are given (R671, R672). -/
def checkTelemRead (ps : List (BitVec 512)) (grp : Bool) (us : List PUnit) (rem : List Nat) : List Nat :=
  let p := paramNat ps
  let i := tmItem p
  chk ((if grp then itemGroup i else true) && us.all (itemUnit i) && rem.all fun x => (remoteUnit x).all (itemUnit i)) (512 + 504)
    ++ chk (!tmSum p || i = 0x01 || i = 0x02) (512 + 503) ++ rsvBad p [(501, 480), (431, 384), (287, 0)]
    ++ chk (!listItem i || tmCount p ≠ 0) (512 + 432)
    ++ chk (listItem i || tmCap p ≥ itemSize i * (if tmSum p then 1 else (telemNames i us rem).length)) (512 + 288)

/-- The units of a TELEM_READ in ascending UID order, each once. -/
def sortUnits (us : List PUnit) : List PUnit := us.eraseDups.mergeSort fun a b => uidOf a ≤ uidOf b

/-- The entries of a fixed-size item that this device's units give. -/
def telemEntries (s : State) (c : CmdRec) (us : List PUnit) : List (Nat × Nat × Nat) :=
  let i := tmItem (paramNat c.params)
  (sortUnits (us.flatMap (itemReads i))).map fun u => (0, uidOf u, itemValue s i (hCtx c.hdr) (outside s c.role) u)

/-- Clears the counters that a TELEM_READ has read where CLEAR asks for it (R669). -/
def telemClear (s : State) (c : CmdRec) (us : List PUnit) : State :=
  let p := paramNat c.params
  if tmClear p && tmItem p = 0x01 then clearEngines s (us.flatMap (itemReads 0x01)) else s

/-- Writes an item of this device's units (R669, R672, R673), and the number of entries of a list; what another device asked for
goes to it in a message of kind 16 before the reply, for the device that sends it on sums it up or writes it out (R30, R474). -/
def telemRun (s : State) (c : CmdRec) (us : List PUnit) : Nat × State :=
  let p := paramNat c.params
  let i := tmItem p
  if listItem i then
    let es := (us.flatMap (listEntries s i (tmFirst p) (outside s c.role))).take (min (tmCount p) (tmCap p / itemSize i))
    (es.length, hostWriteCmd s c (tmDest p) es.flatten)
  else match c.origin with
    | .remote src tid =>
      (0, telemClear (sendMsg s (c.role = .tenant) src 16 (tid :: (telemEntries s c us).flatMap fun e => [e.2.1, e.2.2])) c us)
    | _ =>
      let x := telemBytes s c (telemEntries s c us)
      (0, telemClear (hostWriteCmd x.2 c (tmDest p) x.1) c us)

/-- The parameters of a TELEM_READ as a remote member gets them: it gives each unit's entry, the sum is formed here (R30). -/
def telemOutParams (ps : List (BitVec 512)) : List (BitVec 512) :=
  ps.map fun b => b &&& ~~~(BitVec.ofNat 512 (2 ^ 503))

/-- Sends a TELEM_READ to the remote members of its fan-out, each as a part of its own (R25, R474). -/
def telemFar (s : State) (c : CmdRec) (fan : List (Member × BitVec 16)) : State :=
  fan.zipIdx.foldl (fun s (m : (Member × BitVec 16) × Nat) =>
    match m.1.1 with
    | .remote fuid =>
      let h := memberHdr c.hdr fuid m.1.2.toNat
      let k := { newCmd s (.sub c.id m.2) c.role h c.params with
        acceptedAt := c.acceptedAt, phase := .forwarded, epoch := m.1.2, target := m.1.1 }
      sendCmd (addCmd s k) 11 (fuid / 2 ^ 48) k.id c.role h (telemOutParams c.params)
    | _ => s) s

/-- What a remote member has read of a TELEM_READ: UID and value, in turn. -/
def takeTelem (s : State) (peer tid : Nat) (xs : List Nat) : State :=
  match findCmd s tid with
  | some c => match c.origin, c.target with
    | .sub p _, .remote x =>
      if c.phase = .forwarded && x / 2 ^ 48 = peer then
        updCmd s p fun k => { k with telem := k.telem
          ++ (List.range (xs.length / 2)).map fun j => (1 + peer, xs.getD (2 * j) 0, xs.getD (2 * j + 1) 0) }
      else s
    | _, _ => s
  | none => s

/-- TELEM_READ (R672). A group's units answer in one output, those of other devices once their answers have come; those that
cannot run their part take no part in it. -/
def execTelemRead (id : Nat) (s : State) : Res :=
  match startCmd s id 0x0701 with
  | .wait => .next s
  | .ended s => .next s
  | .go s c =>
    match c.target with
    | .unit u =>
      if !(checkTelemRead c.params false [u] []).isEmpty then .next (finishCmd s id stBadParam (badDetail []))
      else
        let x := telemRun s c [u]
        .next (finishCmd x.2 id stOk x.1)
    | .group g =>
      let x := fanOut 4097 s false g
      let fan := dedupFan x.1
      let parts := fan.zipIdx.filterMap fun m => match m.1.1 with
        | .unit u => (match fanCheck s 0x0701 c.params u m.1.2 c.acceptedAt with
          | some y => some (m.2, y.1, y.2)
          | none => some (m.2, stOk, 0))
        | _ => none
      let us := fan.zipIdx.filterMap fun m => match m.1.1 with
        | .unit u => if parts.contains (m.2, stOk, 0) then some u else none
        | _ => none
      let rem := fan.filterMap fun m => match m.1 with | .remote f => some f | _ => none
      if !(checkTelemRead c.params true us rem).isEmpty then .next (finishCmd s id stBadParam (badDetail []))
      else
        let es := telemEntries s c us
        let s := telemClear (updCmd s id fun k => { k with fan := fan, noGroups := x.2, parts := parts, telem := es }) c us
        if rem.isEmpty then
          .next (match findCmd s id with
            | some k => let r := groupReply s k g; finishCmd (telemWrite s k) id r.1 r.2
            | none => s)
        else .next (telemFar s c fan)
    | .remote _ => .next s

/-! ### TRACE_CTL (R674) -/

/-- Step 7 of TRACE_CTL. -/
def checkTraceCtl (ps : List (BitVec 512)) : List Nat := rsvBad (paramNat ps) [(484, 0)]

/-- TRACE_CTL (R674, R676): a SYNC record is written when tracing is enabled. -/
def execTraceCtl (id : Nat) (s : State) : Res :=
  runCmd s id 0x0704 fun s c u =>
    match u with
    | .cluster k =>
      let p := paramNat c.params
      let x := s.clusters[k]
      let was := x.traceCtl.toNat.testBit 1
      let x := if bit p 485 then { x with trace := [], traceLost := 0 } else x
      let x := { x with traceCtl := BitVec.ofNat 32 (bits p 511 504 * 2 ^ 18 + bits p 503 488 * 2 ^ 2 + bits p 487 486) }
      let x := if bit p 487 && !was then traceSync (now s) x else x
      finishCmd { s with clusters := s.clusters.set k x } id stOk 0
    | _ => finishCmd s id stBadParam (badDetail [384 + 27])

/-! ### DUMP_COLLECT (R624, R688) -/

def dcNo (p : Nat) : Nat := bits p 511 480

/-- The root that a DUMP_COLLECT names. -/
def dumpRoot (u : PUnit) : Nat := match u with | .seqEngine d => uidOf (.die d) | u => uidOf u

/-- The dump a command names: of the lease inside one, of the time outside leases otherwise. -/
def findDump (s : State) (u : PUnit) (p : Nat) : Option DumpRec :=
  (s.dumps.reverse).find? fun d => d.inLease = s.lease.openL && d.root = dumpRoot u && (dcNo p = 0 || d.no = dcNo p)

/-- Bytes DUMP_COLLECT writes. -/
def dumpOut (d : DumpRec) : Nat := 64 + d.body.length + (if d.inLease then 16 else 0)

/-- Step 7 of DUMP_COLLECT. -/
def checkDumpCollect (s : State) (u : PUnit) (ps : List (BitVec 512)) : List Nat :=
  let p := paramNat ps
  rsvBad p [(478, 384), (287, 0)] ++ match findDump s u p with
    | none => [512 + 480]
    | some d => chk (bits p 319 288 ≥ 64 + d.body.length + 16) (512 + 288)

/-- The clear header of a dump (R624). -/
def dumpHeader (s : State) (d : DumpRec) : List Byte :=
  leBytes 4 (if d.inLease then s.lease.logId.toNat else 0) ++ leBytes 4 d.no ++ leBytes 8 d.root ++ leBytes 8 d.body.length ++ leBytes 40 0

/-- A dump as it is written out: sealed under K_D inside a lease. -/
def dumpBytes (s : State) (d : DumpRec) : List Byte :=
  let h := dumpHeader s d
  let body := d.body
  match d.inLease, s.lease.kD with
  | true, some k => h ++ Config.dumpSeal k d.no h body ++ Config.dumpTag k d.no h body
  | _, _ => h ++ body

/-- DUMP_COLLECT (R688). -/
def execDumpCollect (id : Nat) (s : State) : Res :=
  runCmd s id 0x0702 fun s c u =>
    let p := paramNat c.params
    match findDump s u p with
    | none => finishCmd s id stBadParam (badDetail [])
    | some d =>
      if bits p 319 288 < 64 + d.body.length + 16 then finishCmd s id stBadParam (badDetail [])
      else
        let s := hostWriteCmd s c (bits p 383 320) (dumpBytes s d)
        let ds := if bit p 479 then s.dumps.filter (· ≠ d)
          else s.dumps.map fun e => if e = d then { e with collected := true } else e
        finishCmd { s with dumps := ds } id stOk (dumpOut d)

/-! ### Global stops (R691 to R696) -/

/-- The U* conditions but the co-signature (R594). -/
def starOpen (s : State) : Bool := !s.lease.openL && s.lease.scrubbed && s.sec.makerDbg

def sgMode (p : Nat) : Nat := bits p 511 510
def sgToken (p : Nat) : Nat := bits p 495 480

/-- Step 7 of STOP_GLOBAL (R691). -/
def checkStopGlobal (ps : List (BitVec 512)) : List Nat :=
  let p := paramNat ps
  let m := sgMode p
  chk (m ≠ 0) (512 + 510) ++ rsvBad p [(508, 496), (463, 0)]
    ++ chk (m = 3 || sgToken p ≠ 0) (512 + 480)
    ++ chk (if m = 1 then 1 ≤ bits p 479 464 && bits p 479 464 ≤ 600 else true) (512 + 464)

/-- Whether a token equals the arming, which has not expired. -/
def armed (s : State) (token : Nat) : Bool := match s.stopArm with | some (t, e) => t = token && decide (now s < e) | none => false

/-- Halts the fabric (R693). -/
def stopDevice (s : State) : State :=
  { s with stopArm := none, sec := { s.sec with stopped := true, dbgOpen := true, halted := true } }

/-- Runs one mode of STOP_GLOBAL. -/
def stopCmd (id mode : Nat) (s : State) (f : State → CmdRec → State) : Res :=
  match waiting s id 0x0703 with
  | some c => if sgMode (paramNat c.params) = mode then runCmd s id 0x0703 fun s c _ => f s c else .next s
  | none => .next s

/-- The reason code of the U* condition that does not hold (R597). -/
def starReason (s : State) : Nat := if s.lease.openL then 2 else if !s.lease.scrubbed then 7 else 8

/-- STOP_GLOBAL_ARM (R692): the expiry counts from acceptance. The rights check holds when the arming is recorded, since a device
with a lease open never holds one. -/
def execStopGlobalArm (id : Nat) (s : State) : Res :=
  stopCmd id 1 s fun s c =>
    let p := paramNat c.params
    if !starOpen s then refuseCmd s c (starReason s)
    else finishCmd { s with stopArm := some (sgToken p, c.acceptedAt + bits p 479 464 * 1000000000) } id stOk 0

/-- STOP_GLOBAL_DISARM (R692). -/
def execStopGlobalDisarm (id : Nat) (s : State) : Res :=
  stopCmd id 3 s fun s _ => finishCmd { s with stopArm := none } id stOk 0

/-- STOP_GLOBAL_FIRE (R693): under CHAIN a STOP frame leaves on SB_OUT. -/
def execStopGlobalFire (id : Nat) (s : State) : Res :=
  stopCmd id 2 s fun s c =>
    let p := paramNat c.params
    if !starOpen s then refuseCmd s c 7
    else if !armed s (sgToken p) then refuseCmd s c 3
    else
      let s := if bit p 509 then sbSend s (sbFrame 2 0 0 (leBytes 2 (sgToken p))) else s
      finishCmd (stopDevice s) id stOk 0

/-- STOP_ARM_EXPIRY (R692). -/
def execStopArmExpiry (s : State) : Res :=
  match s.stopArm with
  | some (_, e) => if now s ≥ e then .next { s with stopArm := none } else .next s
  | none => .next s

/-! ### Fault reports (R680 to R685) -/

/-- FAULT_REPORT (R680): a unit's report reaches the concentrator of its die; a report of a unit this device does not have
goes to die 0. -/
def execFaultReport (r : ReportIn) (s : State) : Res :=
  let u := (unitOfUid (r.subject % 2 ^ 32)).getD .device
  let rep := (unitOfUid r.reporter).getD .device
  let epoch := if isLocalFuid s r.subject then (getUnit s u).epoch else memberEpoch s (.remote r.subject)
  if s.rst.porAt.isNone || r.cls = 0 || r.cls > 0x10 then .next s
  else .next (faultReport s (concentratorOf rep) r.subject epoch r.cls r.reason r.reporter 0 r.addr r.info)

/-- FAULT_WINDOW_END (R684, R685): in summary mode each class that had reports writes a summary record, which sets NEWFAULT (R705), and its event; the
mode ends with a window of fewer than 256 unmatched reports. -/
def execFaultWindowEnd (d : Fin 2) (s : State) : Res :=
  let f := s.faults[d]
  let w := now s / 1000000 * 1000000
  if w = f.window then .next s
  else
    let told := if f.summary then f.sums else []
    let kept := f.kept ++ told
    let s := { s with
      faults := s.faults.set d { f with
        window := w, unmatched := 0, sums := [], summary := f.summary && decide (f.unmatched ≥ 256)
        kept := kept.drop (kept.length - 64) }
      host := { s.host with newFault := s.host.newFault || !told.isEmpty } }
    .next (told.foldl (fun s x =>
      ringEvent s s.lease.openL ⟨0x000E, fuidOf s (uidOf (.die d)), epochOf s (.die d), 0, x.reports, sumBits x⟩) s)

/-! ### Patrol scrubbing (R412, R420 to R424) -/

/-- The payload of a MEM_POISON event (R421). -/
def poisonPayload (s : State) (a detect : Nat) : Nat :=
  a * 2 ^ 64 + uidOf (placeUnit a) * 2 ^ 32 + detect * 2 ^ 28 + regionOf s a * 2 ^ 24

/-- A MEM_POISON event (R420, R421): in full to the ring of the lease, or of the management while none is open; beside the
lease's, the management ring's carries UID and DETECT alone (R423). -/
def memPoisonEvent (s : State) (a detect : Nat) : State :=
  let u := placeUnit a
  let s := unitEvent s 0x0009 (uidOf u) (epochOf s u) 0 1 (poisonPayload s a detect)
  if s.lease.openL then
    ringEvent s false ⟨0x0009, fuidOf s (uidOf u), epochOf s u, 0, 1, uidOf u * 2 ^ 32 + detect * 2 ^ 28⟩
  else s

/-- The times of a lane's errors with one more, at most the latest 1,025. -/
def laneTimes (c : ChanSt) (lane t : Nat) : List Nat :=
  (t :: match c.laneErr.find? fun e => e.1 = lane with | some e => e.2 | none => []).take 1025

/-- One corrected error on a lane: CE of the training record, and one LANE_DEGRADED event per lane and training when more
than 1,024 fall within any second (R411, R412). -/
def laneError (s : State) (n : Fin 256) (lane : Nat) : State :=
  let c := s.channels[n]
  let ts := laneTimes c lane (now s)
  let tell := ts.length = 1025 && decide (now s ≤ ts.getLastD 0 + 1000000000) && !c.laneTold.contains lane
  let ce := bits c.train.toNat 31 0
  let c := { c with
    train := if ce = 2 ^ 32 - 1 then c.train else c.train + 1
    laneErr := (lane, ts) :: c.laneErr.filter fun x => x.1 ≠ lane
    laneTold := if tell then lane :: c.laneTold else c.laneTold }
  let s := { s with channels := s.channels.set n c }
  if tell then unitEvent s 0x000A (uidOf (.channel n)) (epochOf s (.channel n)) 0 1 (Config.lanePayload n lane) else s

/-- Counts a corrected error: on its lane for a line of HBM, for its store for an SRAM word (R412, R420). -/
def countFixed (s : State) (a lane : Nat) : State :=
  match placeUnit a with
  | .channel n => if lane < 82 then laneError s n lane else s
  | u => { s with ecc := { s.ecc with counts := smapSet 0 s.ecc.counts (uidOf u) (smapGet 0 s.ecc.counts (uidOf u) + 1) } }

/-- Reports a word or line that has become poisoned, and acts on it (R420 to R424). -/
def reportPoison (s : State) (line detect : Nat) : State :=
  let a := line * 64
  let u := placeUnit a
  poisonAct (memPoisonEvent (faultUnit s u 0x0005 detect (uidOf u) a 0) a detect) line

/-- Whether HBM is being cleared, when the scrubber is stopped (R426). -/
def hbmClearing (s : State) : Bool := match s.lease.closing with | some (.hbmClear _) => true | _ => false

/-- When the patrol scrubber must wake a stack that is off, to keep its period (R418, R651). -/
def scrubDue (s : State) (i : Nat) : Bool :=
  let d := vget s.doze .init i
  d.off && d.wakeAt.isNone && decide (now s ≥ d.offAt + (s.limits.scrubh * 3600000000000 - Config.scrubLead))

/-- Wakes a stack on the scrubber's schedule and keeps it on for a walk (R650, R651). -/
def scrubWake (s : State) (i : Nat) : State :=
  if scrubDue s i then
    { s with doze := vset s.doze i { startWake (now s) (vget s.doze .init i) with scrubTill := now s + Config.scrubLead } }
  else s

/-- The errors that the scrubber's read of a word meets: those that stand in it, and the one given. -/
def scrubMeets (s : State) (line : Nat) (e : EccIn) : List Nat :=
  (eccOf s line).errs ++ match e with
    | .clean => []
    | .corrected k => [2 + k]
    | .uncorrectable => [1]

/-- SCRUB_READ (R420): a correctable error is written back and counted, an uncorrectable one sets the poison mark and is
reported; a word already poisoned is passed over. The scrubber stands still while HBM is cleared (R426), passes HBM over while it is
verified (R427), and stands still for a stack that is off, which its schedule alone wakes (R409, R650). -/
def execScrubRead (addr : Nat) (e : EccIn) (s : State) : Res :=
  let line := lineOf addr
  let a := line * 64
  if s.rst.porAt.isNone || (placeOf a).isNone || hbmClearing s || (isHbm a && hbmBusy s) then .next s
  else if isHbm a && stackOff s (hbmChannel a) then .next (scrubWake s (216 + hbmChannel a / 32))
  else
  let s := if isHbm a then touchAddr s a else s
  if poisonSet s line then .next s
  else
    let es := scrubMeets s line e
    if es.isEmpty then .next s
    else if errsBad line es then .next (reportPoison (setPoison s line true) line 0)
    else .next (es.eraseDups.foldl (fun s k => countFixed s a (k - 2)) (setEcc s line (freshEcc (eccOf s line))))

/-- Reports and counts what demand reads of a word have met (R420, R424); lines of a lost channel report nothing (R413). Later
poisoned reads add to the reports of the word's fault record (DESIGN CHOICE, log entry 107). -/
def reportLine (s : State) (line : Nat) (e : EccLine) : State :=
  let a := line * 64
  let u := placeUnit a
  let s := setEcc s line { e with due := false, reads := 0, fixed := [] }
  let s := e.fixed.foldl (fun s k => countFixed s a (k - 2)) s
  let s := if e.due then reportPoison s line 1 else s
  if isHbm a && (vget s.channels .init (hbmChannel a)).lost then s
  else (List.range e.reads).foldl (fun s _ => faultUnit s u 0x0005 1 (uidOf u) a 0) s

/-- Reports every word whose demand reads have met something. -/
def reportErrors (s : State) : State :=
  (s.ecc.lines.filter fun e => e.2.due || e.2.reads ≠ 0 || !e.2.fixed.isEmpty).foldl (fun s e => reportLine s e.1 (eccOf s e.1)) s

/-- The error that befalls a word at this instant, if one does, beside those that stand in it (R396, R406). -/
def upsetWord (s : State) : State :=
  let x := Config.upset (now s)
  if x.2 = 0 || (placeOf (x.1 * 64)).isNone then s
  else
    let e := eccOf s x.1
    setEcc s x.1 { e with errs := e.errs ++ [x.2] }

end Sys2Proof.Machine
end

