-- ==== Sys2Proof/Machine/Attest.lean ====
section
/-! DEFINITION. The audit log's readers, attestation and firmware: AUDIT_READ, AUDIT_CHECKPOINT, GET_CERTIFICATE,
GET_MEASUREMENTS, MGMT_FIRMWARE (17_security_and_leasing.md R614 to R623). -/

namespace Sys2Proof.Machine

/-! ### The audit log (R618, R621, R623) -/

def entSeq (e : BitVec 1024) : Nat := bits e.toNat 1023 960

/-- An entry with PRIV in clear where it belongs to the lease (R620). -/
def decryptEntry (s : State) (e : BitVec 1024) : BitVec 1024 :=
  match s.lease.kA with
  | some k => if e.toNat.testBit 873 then
      BitVec.ofNat 1024 (e.toNat ^^^ ((Config.auditStream k (entSeq e)).toNat * 2 ^ 384)) else e
  | none => e

/-- The checkpoint record of the newest entry (R621). -/
def checkpointRecord (s : State) : List Byte × State :=
  let e := (s.audit.entries.getLastD 0).toNat
  let body := (entSeq (BitVec.ofNat 1024 e)) * 2 ^ 704 + bits e 959 896 * 2 ^ 640 + bits e 383 0 * 2 ^ 256
    + s.sec.serial.toNat * 2 ^ 128 + bits e 863 832 * 2 ^ 96
  let (d, s) := drawRandom s
  let sig := Config.deviceSign (Config.sha384 (leBytes 96 body)) d
  (leBytes 192 (body * 2 ^ 768 + sig.toNat), s)

def arFirst (p : Nat) : Nat := bits p 511 448
def arCount (p : Nat) : Nat := bits p 447 432
def arSign (p : Nat) : Bool := bit p 431
def arArchive (p : Nat) : Bool := bit p 430

/-- Step 7 of AUDIT_READ (R623). -/
def checkAuditRead (ps : List (BitVec 512)) : List Nat :=
  let p := paramNat ps
  chk (1 ≤ arCount p && arCount p ≤ 4096) (512 + 432) ++ rsvBad p [(429, 384), (319, 0)]

/-- The entries a reader gets of the range it asks for (R623). -/
def auditRange (s : State) (role : Role) (first count : Nat) : List (BitVec 1024) :=
  let lo := if role = .tenant then max first s.lease.openedSeq else first
  let es := s.audit.entries.filter fun e => lo ≤ entSeq e && entSeq e < first + count
  if role = .tenant then es.map (decryptEntry s) else es

/-- Joins archived ranges to the low end of the log. -/
def joinArchived (fuel : Nat) (a : AuditSt) : AuditSt :=
  match fuel with
  | 0 => a
  | f + 1 =>
    match a.ahead.find? fun r => r.1 ≤ a.archived && a.archived < r.2 with
    | some r => joinArchived f { a with archived := r.2, ahead := a.ahead.filter (· ≠ r) }
    | none => { a with ahead := a.ahead.filter fun r => a.archived < r.2 }

/-- Marks entries archived (R623). -/
def archiveRange (s : State) (es : List (BitVec 1024)) : State :=
  match es.head?, es.getLast? with
  | some a, some b =>
    let x := { s.audit with ahead := s.audit.ahead ++ [(entSeq a, entSeq b + 1)] }
    { s with audit := joinArchived (x.ahead.length + 1) x }
  | _, _ => s

/-- AUDIT_READ (R623): under SIGN a checkpoint is written first and its record follows the entries. -/
def execAuditRead (id : Nat) (s : State) : Res :=
  runCmd s id 0x0705 fun s c _ =>
    let p := paramNat c.params
    if !(checkAuditRead c.params).isEmpty then finishCmd s id stBadParam (badDetail [])
    else if arSign p && !auditRoom s 1 then finishCmd s id stNoResource 0
    else
      let s := if arSign p then auditCheckpoint s else s
      let es := auditRange s c.role (arFirst p) (arCount p)
      let x := if arSign p then checkpointRecord s else ([], s)
      let s := hostWriteCmd x.2 c (bits p 383 320) (es.flatMap (fun e => leBytes 128 e.toNat) ++ x.1)
      finishCmd (if arArchive p then archiveRange s es else s) id stOk es.length

/-- AUDIT_CHECKPOINT (R621): after 4,096 entries, and hourly while new entries exist. -/
def execAuditCheckpoint (s : State) : Res :=
  let a := s.audit
  if isReady (getUnit s .vangaer).own && (a.sinceCkpt ≥ 4096 || (a.sinceCkpt > 0 && decide (now s ≥ a.ckptAt + 3600000000000)))
  then .next (auditCheckpoint s) else .next s

/-! ### Attestation (R614 to R617) -/

/-- Whether a unit is in service. -/
def inService (s : State) (u : PUnit) : Bool := baseState s u ≠ .outOfService

/-- Block 6, the fuse and debug state (R615). -/
def block6 (s : State) : Nat :=
  let c := s.sec
  0xA0 * 2 ^ 504 + b2n c.grade * 2 ^ 502 + b2n c.makerDbg * 2 ^ 501 + b2n c.dbgOpen * 2 ^ 500 + b2n c.stopped * 2 ^ 499
    + b2n s.lease.scrubbed * 2 ^ 498 + (c.instSlots - 1) % 4 * 2 ^ 496 + c.svn % 2 ^ 16 * 2 ^ 480
    + if c.instSlots = 0 then 0 else c.instHash.toNat

/-- The group, region, segment and PASID tables as bytes, each in ascending index. -/
def tableImage (s : State) : List Byte :=
  let grp := (groupsDefined s).flatMap fun g => match groupRec s g with
    | some r => leBytes 4 g ++ leBytes 2 (match r.quorum with | some q => q | none => 0)
        ++ r.members.flatMap fun m => leBytes 8 (match m with
          | .unit u => fuidOf s (uidOf u)
          | .group h => fuidOf s (groupUid h)
          | .remote x => x)
    | none => []
  let recs := fun (m : Smap (BitVec 256)) => m.flatMap fun e => leBytes 32 e.2.toNat
  grp ++ recs s.xl.regions ++ recs s.xl.segs
    ++ (s.xl.pasids.toList.filter fun r => r.toNat.testBit 239).flatMap fun r => leBytes 32 r.toNat

/-- Block 7, the partition layout (R616). -/
def block7 (s : State) : Nat :=
  let mask := fun (n : Nat) (f : Nat → PUnit) => (List.range n).foldl (fun a i => a + b2n (inService s (f i)) * 2 ^ i) 0
  let spare := ((List.range 256).filter fun n => bits (vget s.channels .init n).train.toNat 63 61 = 2).length
  mask 192 (fun i => .core (fin 192 i)) * 2 ^ 832 + mask 24 (fun i => .cluster (fin 24 i)) * 2 ^ 808
    + mask 32 (fun i => .port (fin 32 i)) * 2 ^ 776 + mask 256 (fun i => .channel (fin 256 i)) * 2 ^ 512 + spare * 2 ^ 503
    + (groupsDefined s).length % 2 ^ 16 * 2 ^ 480 + ((s.xl.regions.filter fun e => e.2.toNat.testBit 239).length) * 2 ^ 464
    + b2n ((getUnit s .device).own = .outOfService && s.sec.flashEsc) * 2 ^ 463
    + (allUnits.filter fun u => (getUnit s u).own = .outOfService).length * 2 ^ 448 + (Config.sha384 (tableImage s)).toNat

/-- Block 8, the lease (R617). -/
def block8 (s : State) : Nat :=
  let l := s.lease
  if !l.openL then 0
  else 2 ^ 1279 + l.profile * 2 ^ 1277 + b2n l.mirror * 2 ^ 1276 + l.injrate * 2 ^ 1264 + l.id.toNat * 2 ^ 1232
    + l.openStamp % 2 ^ 64 * 2 ^ 1168 + (Config.sha384 (leBytes 96 l.tenant.toNat)).toNat * 2 ^ 768
    + (Config.ephemeralPub l.epubGen).toNat

/-- A measurement block's value (R614): the boot ROM's digest never changes. -/
def measureBlock (s : State) (i : Nat) : List Byte :=
  if i = 6 then leBytes 64 (block6 s)
  else if i = 7 then leBytes 128 (block7 s)
  else if i = 8 then leBytes 160 (block8 s)
  else if i = 9 then leBytes 64 s.fab.ident.toNat
  else if i = 1 then leBytes 48 Config.bootRom.toNat
  else leBytes 48 (Config.measurement i s.sec.fwNow).toNat

/-- A block in the form of the DMTF measurement specification (R614; PRESUMED, log entry 138): index, specification 1, size, then type,
size and value; bit 7 of the type marks a raw value, and 0 is immutable ROM. -/
def dmtfBlock (s : State) (i : Nat) : List Byte :=
  let v := measureBlock s i
  let typ := (if 6 ≤ i ∧ i ≤ 9 then 0x80 else 0) + (if i = 1 then 0 else Config.measureType i % 128)
  leBytes 1 i ++ leBytes 1 1 ++ leBytes 2 (v.length + 3) ++ leBytes 1 typ ++ leBytes 2 v.length ++ v

/-- GET_CERTIFICATE (R614): the chain of slot 0. -/
def execGetCertificate (_session : Nat) (s : State) : Res :=
  if isReady (getUnit s .vangaer).own then .next (emit s (.spdm 5 Config.certChain)) else .next s

/-- GET_MEASUREMENTS (R614): one block, or all of them for index 0xFF, and the signature over the requester's nonce and the blocks. -/
def execGetMeasurements (session : Nat) (x : MeasureIn) (s : State) : Res :=
  if !isReady (getUnit s .vangaer).own then .next s
  else if !((1 ≤ x.index && x.index ≤ 9) || x.index = 0xFF) then .next (emit s (.spdm 0 []))
  else
    let b := if x.index = 0xFF then (List.range 9).flatMap fun i => dmtfBlock s (i + 1) else dmtfBlock s x.index
    let (d, s) := drawRandom s
    .next (emit s (.spdm 6 (b ++ leBytes 96 (Config.deviceSign (Config.spdmHash session (leBytes 32 x.nonce.toNat ++ b)) d).toNat)))

/-! ### MGMT_FIRMWARE (R614) -/

/-- Step 7 of MGMT_FIRMWARE: the image's signature and security version. -/
def checkFirmware (s : State) (ps : List (BitVec 512)) : List Nat :=
  chk (Config.firmwareOk (paramBytes ps) && decide (Config.firmwareVersion (paramBytes ps) ≥ s.sec.svn)) 0xFFFF

/-- MGMT_FIRMWARE (R614): the image's digests take effect at the next device reset. -/
def execMgmtFirmware (id : Nat) (s : State) : Res :=
  runCmd s id 0x0106 fun s c _ =>
    if !(checkFirmware s c.params).isEmpty then finishCmd s id stBadParam (badDetail [])
    else
      let b := paramBytes c.params
      finishCmd { s with sec := { s.sec with fwNext := some (Config.sha384 b, Config.firmwareVersion b) } } id stOk 0

end Sys2Proof.Machine
end

