-- ==== Sys2Proof/Machine/Power.lean ====
section
/-! DEFINITION. Power: POR_N_DEASSERT, POWER_LOSS and GETSTATUS (22_package_pins_electrical.md R732 to R744;
18_bring_up_reset_recovery.md R625, R626; 17_security_and_leasing.md R612, R618). -/

namespace Sys2Proof.Machine

/-- Flash without an authentic copy of its configuration records: their Reset values apply (R734). -/
def blankFlash (c : SecSt) : SecSt :=
  { c with flashIdent := 0, flashLimits := .default, flashOos := [], flashEsc := false, authInst := 0, authMaker := 0, plain := none, instKey := 0 }

/-- The audit entries of a power-on: LOG_INIT at the first, and the LEASE_CLOSED entry of a lease that power ended (R612,
R618). -/
def bootAudit (s : State) : State :=
  let s := if s.audit.nextSeq = 0 then auditAppend s 0x0001 4 3 false .zero else s
  match s.sec.lostLease with
  | none => s
  | some l =>
    let s := { s with lease := { s.lease with openL := true, logId := l }, stopArm := none }
    let s := auditPut s 0x0005 4 3 false { AuditPriv.zero with reason := 1 }
    { s with lease := { s.lease with openL := false, logId := 0 }, sec := { s.sec with lostLease := none } }

/-- A port that configuration flash holds out of service (R643). -/
def holdPort (s : State) (u : PUnit) : State :=
  match u with
  | .port p => { s with ports := s.ports.set p { s.ports[p] with phase := .disabled } }
  | _ => s

/-- POR_N_DEASSERT (R625, R732, R734, R736): straps sampled, records restored from flash, the default profile taken, the
timebase started at 0, every unit NOT_READY but those out of service. Where no firmware slot qualifies nothing starts. -/
def execPorNDeassert (p : PowerIn) (s : State) : Res :=
  if s.rst.porAt.isSome then .next s
  else
    let sec := if p.recordsOk then s.sec else blankFlash s.sec
    let sec := { sec with
      fwOk := p.fwOk, chainOk := p.chainOk, fwNow := (match sec.fwNext with | some x => x.1 | none => sec.fwNow), fwNext := none }
    let lim := sec.flashLimits
    let s := { s with
      straps := p.straps, sec := sec, limits := lim
      fab := { s.fab with ident := sec.flashIdent }
      tb := { s.tb with locked := p.fwOk, root := sec.flashIdent.toNat.testBit 495 }
      dies := s.dies.map (fun x => { x with profile := lim.defprof })
      rst := { s.rst with porAt := some (now s) } }
    let s := setOwn s .device .ready
    let s := sec.flashOos.foldl (fun s u => holdPort (setOwn s u .outOfService) u) s
    .next (if p.fwOk then bootAudit (installKey s) else s)

/-- What survives a loss of power: fuses, configuration flash and the audit log; the trip latch where it is not cleared
(R743, R744). -/
def afterLoss (s : State) (trip : Bool) : State :=
  let c := s.sec
  { State.reset with
    pending := s.pending, out := s.out, free := s.free, straps := s.straps
    mem := { MemSt.init with keyNext := s.mem.keyNext }
    channels := Vector.ofFn fun n => { ChanSt.init with
      train := BitVec.ofNat 64 (ChanSt.init.train.toNat + bits (s.channels[n]).train.toNat 44 41 * 2 ^ 41) }
    host := { HostSt.init with perst := s.host.perst }
    sec := { SecSt.init with
      makerDbg := c.makerDbg, instSlots := c.instSlots, instHash := c.instHash, instKey := c.instKey, svn := c.svn, serial := c.serial
      grade := c.grade, authInst := c.authInst, authMaker := c.authMaker, plain := c.plain, fwNext := c.fwNext
      fwNow := c.fwNow, flashOos := c.flashOos, flashEsc := c.flashEsc, flashIdent := c.flashIdent, flashLimits := c.flashLimits
      lostLease := if s.lease.openL then some s.lease.logId else c.lostLease }
    audit := s.audit
    rst := { ResetSt.init with tripped := trip }
    sb := { SbSt.init with pinLow := s.sb.pinLow } }

/-- POWER_LOSS (R743, R744): the bypass closes and everything volatile is lost. -/
def execPowerLoss (l : LossIn) (s : State) : Res :=
  let clears := l.cause = 2 || (l.cause = 0 && l.low)
  let t := afterLoss s (s.rst.tripped && !clears)
  .next (if s.rst.tripped && clears then emit t (.pin "THERM_TRIP_N" true) else t)

/-- GETSTATUS (R736): the vendor status byte, 0x5A where no firmware slot qualified; the manual states no other value. -/
def execGetstatus (s : State) : Res :=
  if s.rst.porAt.isNone then .next s
  else if !s.sec.fwOk then .next (emit s (.i3c [0x5A]))
  else
    let (v, s) := drawFree s
    .next (emit s (.i3c [BitVec.ofNat 8 v]))

end Sys2Proof.Machine
end

