-- ==== Sys2Proof/Machine/Vector.lean ====
section
/-! DEFINITION. Vector instructions (08_core_programming.md R248 to R254, R264 to R270; 05 R160, R161). -/

namespace Sys2Proof.Machine

/-! ### Common fields (R264) -/

def vType (w : CoreWord) : Nat := ctlBits w 3 0
def vNl (w : CoreWord) : Nat := ctlBits w 14 7

/-- Active lanes of a vector instruction. -/
def vActive (w : CoreWord) : Nat := if vNl w = 0 then typeLanes (vType w) else vNl w

/-- Whether RM and NL are valid for TYPE. -/
def vOk (w : CoreWord) : Bool := rmFieldOk (ctlBits w 6 4) && decide (vNl w ≤ typeLanes (vType w))

def vEnv (x : CoreSt) (w : CoreWord) : FEnv := envOf x.fcsrV (ctlBits w 6 4)

/-- Whether a TYPE has vector arithmetic (R248). -/
def vArith (t : Nat) : Bool := t ≤ 4

/-- The value of lane `i`: the result on an active lane, the old contents at or above NL (R264). -/
def vLanes (t n old : Nat) (f : Nat → Nat × FFlags) : Nat × FFlags :=
  let rs := (List.range (typeLanes t)).map fun i => if i < n then f i else (lane t old i, 0)
  (ofLanes t (rs.map (·.1)), joinFlags (rs.map (·.2)))

/-- Writes a vector result and raises its flags in the vector engine's FCSR. -/
def vWrite (s : State) (c : Fin 192) (w : CoreWord) (r : Nat × FFlags) : State :=
  modCore s c fun x => setV { x with fcsrV := raise x.fcsrV r.2 } w.rd r.1

/-- What a vector instruction computes: its result and flags from the registers and a free value. -/
abbrev VFun := CoreWord → CoreSt → Nat → Nat × FFlags

/-- The effect of a vector instruction on registers alone; only one that may give an open value draws a free value. -/
def vRun (f : VFun) (draws : Bool) (c : Fin 192) (w : CoreWord) (s : State) (x : CoreSt) : CoreOut :=
  let d := if draws then drawFree s else (0, s)
  .done (vWrite d.2 c w (f w x d.1))

/-- A vector instruction on registers alone enters no range: it waits only for its turn. -/
def vIssue (opc : Nat) (u : FieldUse) (ok : Bool) (f : VFun) (draws : Bool) (c : Fin 192) (w : CoreWord) (s : State) : Res :=
  issueTile opc 1 u (ok && vOk w) (fun _ => some ([], [])) c w s (vRun f draws c w s)

/-- A result lane by lane from the sources: `i` and the old registers give each active lane. -/
def vLane (f : CoreWord → CoreSt → FEnv → Nat → Nat × FFlags) : VFun := fun w x _ =>
  vLanes (vType w) (vActive w) (vr x w.rd) (f w x (vEnv x w))

/-- Fields of instructions of two and of three sources. -/
def use2 (ctl : Nat) : FieldUse := ⟨31, 31, 31, 0, ctl, 0⟩
def use3 (ctl : Nat) : FieldUse := ⟨31, 31, 31, 31, ctl, 0⟩
def use1 (ctl : Nat) : FieldUse := ⟨31, 31, 0, 0, ctl, 0⟩

/-- Lane `i` of the sources of an instruction. -/
def src1 (x : CoreSt) (w : CoreWord) (i : Nat) : Nat := lane (vType w) (vr x w.rs1) i
def src2 (x : CoreSt) (w : CoreWord) (i : Nat) : Nat := lane (vType w) (vr x w.rs2) i
def src3 (x : CoreSt) (w : CoreWord) (i : Nat) : Nat := lane (vType w) (vr x w.rs3) i

/-- An I32 lane as an integer, and back, wrapping (R251). -/
def i32 (x : Nat) : Int := sext 32 x
def ofI32 (x : Int) : Nat := wrapInt 32 x

/-- An operation on FP lanes, or on I32 lanes without flags (R251, R252). -/
def laneOp (t : Nat) (env : FEnv) (f : FFmt → FEnv → Nat → Nat → Nat × FFlags) (g : Int → Int → Int) (a b : Nat) :
    Nat × FFlags :=
  if t = 4 then (ofI32 (g (i32 a) (i32 b)), 0) else f (typeFmt t) env a b

def laneAdd (t : Nat) (env : FEnv) : Nat → Nat → Nat × FFlags := laneOp t env fAdd (· + ·)
def laneMinMax (isMax : Bool) (t : Nat) (env : FEnv) : Nat → Nat → Nat × FFlags :=
  laneOp t env (fun f e => fMinMax f e isMax) (fun a b => if isMax then max a b else min a b)

def vaddFn : VFun := vLane fun w x e i => laneAdd (vType w) e (src1 x w i) (src2 x w i)
def vsubFn : VFun := vLane fun w x e i => laneOp (vType w) e fSub (· - ·) (src1 x w i) (src2 x w i)
def vmulFn : VFun := vLane fun w x e i => laneOp (vType w) e fMul (· * ·) (src1 x w i) (src2 x w i)
def vfmaFn : VFun := vLane fun w x e i =>
  if vType w = 4 then (ofI32 (i32 (src1 x w i) * i32 (src2 x w i) + i32 (src3 x w i)), 0)
  else fFma (typeFmt (vType w)) e (src1 x w i) (src2 x w i) (src3 x w i)

/-- VADD (R249, R251, R252). -/
def execVadd (c : Fin 192) (w : CoreWord) (s : State) : Res :=
  vIssue 0x53 (use2 0x7FFF) (vArith (vType w)) vaddFn false c w s

/-- VSUB (R249, R251, R252). -/
def execVsub (c : Fin 192) (w : CoreWord) (s : State) : Res :=
  vIssue 0x54 (use2 0x7FFF) (vArith (vType w)) vsubFn false c w s

/-- VMUL (R249, R251, R252). -/
def execVmul (c : Fin 192) (w : CoreWord) (s : State) : Res :=
  vIssue 0x55 (use2 0x7FFF) (vArith (vType w)) vmulFn false c w s

/-- VFMA (R249, R251, R252). -/
def execVfma (c : Fin 192) (w : CoreWord) (s : State) : Res :=
  vIssue 0x56 (use3 0x7FFF) (vArith (vType w)) vfmaFn false c w s

/-- The integer quotient rounded under RM; a quotient by 0 is a free value (no result is stated). -/
def divI32 (rm : Rm) (free : Nat) (a b : Int) : Int :=
  if b = 0 then (free : Int)
  else
    let neg := decide (a < 0) != decide (b < 0)
    let r := divSticky 40 a.natAbs b.natAbs 0
    (roundToInt rm neg r.1 r.2).1

/-- The integer square root rounded under RM; the root of a negative number is a free value. -/
def sqrtI32 (rm : Rm) (free : Nat) (a : Int) : Int :=
  if a < 0 then (free : Int)
  else
    let n := a.natAbs * 2 ^ 80
    let r := isqrt n
    (roundToInt rm false (2 * r + (if r * r = n then 0 else 1)) (-41)).1

def vdivFn : VFun := fun w x d =>
  let e := vEnv x w
  vLanes (vType w) (vActive w) (vr x w.rd) fun i =>
    if vType w = 4 then (ofI32 (divI32 e.rm (bits d (32 * i + 31) (32 * i)) (i32 (src1 x w i)) (i32 (src2 x w i))), 0)
    else fDiv (typeFmt (vType w)) e (src1 x w i) (src2 x w i)

def vsqrtFn : VFun := fun w x d =>
  let e := vEnv x w
  vLanes (vType w) (vActive w) (vr x w.rd) fun i =>
    if vType w = 4 then (ofI32 (sqrtI32 e.rm (bits d (32 * i + 31) (32 * i)) (i32 (src1 x w i))), 0)
    else fSqrt (typeFmt (vType w)) e (src1 x w i)

def vminmaxFn : VFun := vLane fun w x e i => laneMinMax (ctlBit w 15) (vType w) e (src1 x w i) (src2 x w i)

/-- VDIV (R249, R252): correctly rounded; on I32 lanes to an integer. -/
def execVdiv (c : Fin 192) (w : CoreWord) (s : State) : Res :=
  vIssue 0x57 (use2 0x7FFF) (vArith (vType w)) vdivFn (vType w = 4) c w s

/-- VSQRT (R249, R252): RS2 is not used. -/
def execVsqrt (c : Fin 192) (w : CoreWord) (s : State) : Res :=
  vIssue 0x58 (use1 0x7FFF) (vArith (vType w)) vsqrtFn (vType w = 4) c w s

/-- VMINMAX (R249, R252): maximumNumber where CTL[15] is 1; signed on I32 lanes. -/
def execVminmax (c : Fin 192) (w : CoreWord) (s : State) : Res :=
  vIssue 0x59 (use2 0xFFFF) (vArith (vType w)) vminmaxFn false c w s

/-- VCMP on one lane: all ones or 0 (R249, R250). -/
def laneCmp (t cond : Nat) (daz : Bool) (a b : Nat) : Nat × FFlags :=
  let ones := 2 ^ typeBits t - 1
  if t = 4 then
    let r := match cond with
      | 0 => i32 a == i32 b
      | 1 => i32 a != i32 b
      | 2 => decide (i32 a < i32 b)
      | 3 => decide (i32 a ≤ i32 b)
      | 4 => decide (i32 a > i32 b)
      | _ => decide (i32 a ≥ i32 b)
    (if r then ones else 0, 0)
  else
    let r := fCmp (typeFmt t) daz cond a b
    (if r.1 then ones else 0, r.2)

def vcmpFn : VFun := vLane fun w x e i => laneCmp (vType w) (ctlBits w 17 15) e.daz (src1 x w i) (src2 x w i)
def vselFn : VFun := vLane fun w x _ i => (if src1 x w i ≠ 0 then src2 x w i else src3 x w i, 0)

/-- VCMP (R249, R250): COND 7 is reserved, and COND 6 on I32 lanes. -/
def execVcmp (c : Fin 192) (w : CoreWord) (s : State) : Res :=
  vIssue 0x5A (use2 0x3FFFF) (vArith (vType w) && ctlBits w 17 15 ≤ (if vType w = 4 then 5 else 6)) vcmpFn false c w s

/-- VSEL (R249). -/
def execVsel (c : Fin 192) (w : CoreWord) (s : State) : Res :=
  vIssue 0x5B (use3 0x7FFF) (vArith (vType w)) vselFn false c w s

/-! ### Moves (R249, R254) -/

/-- The bytes VLD and VST access: device address and length (R254); CTL[15] makes VLD read one element. -/
def vAccess (c : Fin 192) (w : CoreWord) (x : CoreSt) : Option (Nat × Nat) :=
  let b := typeBits (vType w) / 8
  let n := (if ctlBit w 15 then 1 else vActive w) * b
  (if eaOf x w % b = 0 then coreRange c (eaOf x w) n else none).map fun p => (p, n)

def vldRngs (c : Fin 192) (w : CoreWord) (x : CoreSt) : TileRngs :=
  some ((vAccess c w x).toList.map fun p => ⟨p.1, p.2⟩, [])

def vstRngs (c : Fin 192) (w : CoreWord) (x : CoreSt) : TileRngs :=
  some ([], (vAccess c w x).toList.map fun p => ⟨p.1, p.2⟩)

/-- What VLD does when it starts: CTL[15] broadcasts one element to every active lane. -/
def vldRun (c : Fin 192) (w : CoreWord) (s : State) (x : CoreSt) : CoreOut :=
  match vAccess c w x with
  | none => .stop 2 (eaOf x w)
  | some (p, n) =>
    if blockedAt s c x.chainNext [⟨p, n⟩] [] then .wait
    else if anyPoison s p n then .poisoned (demand s p n) (eaOf x w)
    else
      let v := readNat s p n
      .done (vWrite (demand s p n) c w (vLanes (vType w) (vActive w) (vr x w.rd) fun i =>
        (elemAt (typeBits (vType w)) v (if ctlBit w 15 then 0 else i), 0)))

/-- What VST does when it starts. -/
def vstRun (c : Fin 192) (w : CoreWord) (s : State) (x : CoreSt) : CoreOut :=
  match vAccess c w x with
  | none => .stop 2 (eaOf x w)
  | some (p, n) =>
    if blockedAt s c x.chainNext [] [⟨p, n⟩] then .wait
    else .done (writeNat s p n (vr x w.rs2 % 2 ^ (8 * n)))

/-- VLD (R249, R254, R288). -/
def execVld (c : Fin 192) (w : CoreWord) (s : State) : Res :=
  issueTile 0x50 1 ⟨31, 31, 0, 0, 0xFFFF, immAll⟩ (vType w ≤ 7 && vOk w) (vldRngs c w) c w s (vldRun c w s)

/-- VST (R249, R254). -/
def execVst (c : Fin 192) (w : CoreWord) (s : State) : Res :=
  issueTile 0x51 1 ⟨0, 31, 31, 0, 0x7FFF, immAll⟩ (vType w ≤ 7 && vOk w) (vstRngs c w) c w s (vstRun c w s)

/-- A total of an accumulator tile. -/
def accKey (tile i j : Nat) : Nat := tile * 4096 + i * 64 + j
def accGet (x : CoreSt) (tile i j : Nat) : BitVec 48 := smapGet 0 x.acc (accKey tile i j)

def vaccRngs (w : CoreWord) : TileRngs := some ([accRng (ctlBits w 17 15)], [])

/-- What VACC does when it starts: it waits for the work that names its tile, an open verdict included (R165, R199, R286). -/
def vaccRun (c : Fin 192) (w : CoreWord) (s : State) (x : CoreSt) : CoreOut :=
  if blockedAt s c x.chainNext [accRng (ctlBits w 17 15)] [] then .wait
  else .done (vWrite s c w (vLanes 1 (vActive w) (vr x w.rd) fun j =>
    totToF32 (vEnv x w).rm (accGet x (ctlBits w 17 15) (immBits w 5 0) j)))

/-- VACC (R249, R160, R161, R270). -/
def execVacc (c : Fin 192) (w : CoreWord) (s : State) : Res :=
  issueTile 0x52 1 ⟨31, 0, 0, 0, 0x3FFFF, 0x3F⟩ (vType w = 1 && vOk w) (fun _ => vaccRngs w) c w s (vaccRun c w s)

/-! ### Conversions (R253, R265, R266) -/

/-- Whether source and destination TYPE and the slice of a VCVT are valid (R265). -/
def vcvtOk (w : CoreWord) : Bool :=
  let ns := typeLanes (ctlBits w 19 16)
  let nd := typeLanes (vType w)
  ctlBits w 19 16 ≤ 7 && vType w ≤ 7 && decide (ctlBits w 21 20 < max ns nd / max 1 (min ns nd))

/-- The element of each destination lane, where the slice holds one (R265). -/
def vcvtFn : VFun := fun w x _ =>
  let src := ctlBits w 19 16
  let dst := vType w
  let ns := typeLanes src
  let nd := typeLanes dst
  let n := min ns nd
  let part := ctlBits w 21 20
  let e := vEnv x w
  vLanes dst (vActive w) (vr x w.rd) fun i =>
    if nd ≤ ns then typeConvert e (ctlBit w 22) dst (typeDecode e.daz src (lane src (vr x w.rs1) (part * n + i)))
    else if part * n ≤ i ∧ i < part * n + n then
      typeConvert e (ctlBit w 22) dst (typeDecode e.daz src (lane src (vr x w.rs1) (i - part * n)))
    else (lane dst (vr x w.rd) i, 0)

/-- VCVT (R265). -/
def execVcvt (c : Fin 192) (w : CoreWord) (s : State) : Res := vIssue 0x5C (use1 0x7F7FFF) (vcvtOk w) vcvtFn false c w s

/-- VDQ on one lane (R266): of the flags it raises OF, UF and NX alone (DEDUCED); an invalid MT code reads 0 and is counted nowhere,
since R78 counts those of the matrix engine (DESIGN CHOICE, log entry 141). -/
def dqLane (env : FEnv) (code gsz elems scales i : Nat) : Nat × FFlags :=
  let sc := if gsz = 0 then 127 else elemAt 8 scales (i / gszLen gsz)
  let v := elemDecode code (elemAt (fmtBits code) elems i)
  let r := if sc = 0xFF then (f32NaN, 0) else fConvert fmt32 env false (fScale ((sc : Int) - 127) v)
  (r.1, r.2 &&& 0x07#5)

def vdqFn : VFun := vLane fun w x e i => dqLane e (ctlBits w 19 15) (ctlBits w 21 20) (vr x w.rs1) (vr x w.rs2) i
def vfnFn : VFun := vLane fun w x e i => vfnLane e (vType w) (ctlBits w 18 15) (src1 x w i)

/-- VDQ (R266): CTL[19:15] a format code 0x02 to 0x0E, CTL[21:20] GSZ. -/
def execVdq (c : Fin 192) (w : CoreWord) (s : State) : Res :=
  vIssue 0x5D (use2 0x3FFFFF) (vType w = 1 && 0x02 ≤ ctlBits w 19 15 && ctlBits w 19 15 ≤ 0x0E) vdqFn false c w s

/-- VFN (R268, R269): on FP32, FP16 and BF16. -/
def execVfn (c : Fin 192) (w : CoreWord) (s : State) : Res :=
  vIssue 0x5E (use1 0x7FFFF) (1 ≤ vType w && vType w ≤ 3 && ctlBits w 18 15 ≤ 6) vfnFn false c w s

/-! ### Reductions (R267) -/

/-- One level of the tree: lane 2i with lane 2i + 1, one without a partner unchanged. -/
def redLevel (f : Nat → Nat → Nat × FFlags) : List (Nat × FFlags) → List (Nat × FFlags)
  | a :: b :: xs => let r := f a.1 b.1; (r.1, a.2 ||| b.2 ||| r.2) :: redLevel f xs
  | xs => xs

/-- The tree; `fuel` is at least its height. -/
def redTree (f : Nat → Nat → Nat × FFlags) : Nat → List (Nat × FFlags) → List (Nat × FFlags)
  | 0, xs => xs
  | n + 1, xs => if xs.length ≤ 1 then xs else redTree f n (redLevel f xs)

/-- The combination of VRED: 0 sum, 1 max, 2 min. -/
def redOp (t red : Nat) (env : FEnv) : Nat → Nat → Nat × FFlags :=
  match red with
  | 0 => laneAdd t env
  | 1 => laneMinMax true t env
  | _ => laneMinMax false t env

/-- The result of a reduction in lane 0, the other lanes 0 (R267). -/
def vredFn : VFun := fun w x _ =>
  let xs := (List.range (vActive w)).map fun i => (src1 x w i, (0 : FFlags))
  (redTree (redOp (vType w) (ctlBits w 16 15) (vEnv x w)) 8 xs).headD (0, 0)

/-- VRED (R267). -/
def execVred (c : Fin 192) (w : CoreWord) (s : State) : Res :=
  vIssue 0x5F (use1 0x1FFFF) (vArith (vType w) && ctlBits w 16 15 ≤ 2) vredFn false c w s

end Sys2Proof.Machine
end

