-- ==== Sys2Proof/Machine/Matrix.lean ====
section
/-! DEFINITION. Matrix instructions: MMA with held rows, the quantiser acting on tiles, QUANT, VQUANT and ACCLD
(04_matrix_arrays.md R116 to R144; 05_accumulation_and_quantisation.md R150 to R186, R753; 08_core_programming.md R257 to
R263). -/

namespace Sys2Proof.Machine

/-! ### Accumulators -/

def accSet (x : CoreSt) (tile i j : Nat) (t : BitVec 48) : CoreSt := { x with acc := smapSet 0 x.acc (accKey tile i j) t }

/-- Sets a tile to +0. -/
def accZero (x : CoreSt) (tile : Nat) : CoreSt := { x with acc := smapClear x.acc (tile * 4096) ((tile + 1) * 4096) }

/-- Copies an active set to its shadow set (R128, R132). -/
def accDrain (x : CoreSt) (a : Nat) : CoreSt :=
  let mine := x.acc.filter fun e => a * 4096 ≤ e.1 && e.1 < (a + 1) * 4096
  let y := accZero x (a + 4)
  { y with acc := mine.foldl (fun m e => smapSet 0 m (e.1 + 4 * 4096) e.2) y.acc }

/-! ### Operand rows -/

/-- The chunk length an operand gives: its group size, 32 without a scale tensor (R151). -/
def chunkLen (gsz : Nat) : Nat := if gsz = 0 then 32 else gszLen gsz

/-- An operand row from element codes and scale bytes (R87 to R98, R124). -/
def opRowOf (fmt gsz : Nat) (codes scales : List Nat) : OpRow := ⟨codes.map (elemPieces fmt), scales, chunkLen gsz⟩

/-- Row `m` of a tile as an operand, its first `k` elements (R122, R123). -/
def tileOpRow (s : State) (c : Fin 192) (t : TileDesc) (k m : Nat) : OpRow :=
  let g := gszLen t.gsz
  let sc := (List.range (if t.gsz = 0 then 0 else ceilDiv k g)).map (rowScale s c t m)
  opRowOf t.fmt t.gsz (rowElems s c t m 0 k) ((List.range k).map fun i => if t.gsz = 0 then 127 else sc.getD (i / g) 127)

/-- Invalid MT codes among the first `k` elements of a tile's rows (R78). -/
def mtCount (s : State) (c : Fin 192) (t : TileDesc) (k : Nat) : Nat :=
  if t.fmt ≠ 0x0E then 0
  else ((List.range t.rows).flatMap fun m => (rowElems s c t m 0 k).filter (mtInvalid 0x0E)).length

/-! ### Held rows (R141 to R144) -/

def heldKey (row k : Nat) : Nat := row * 64 + k
def heldGet (x : CoreSt) (row k : Nat) : BitVec 40 := smapGet 0 x.held (heldKey row k)

/-- One held element: its code and its group's scale byte. -/
def heldBits (code scale : Nat) : BitVec 40 := BitVec.ofNat 40 (scale * 2 ^ 32 + code)

/-- The first array row of a shape and array selection: arrays follow one another by 64 rows (R129, R142). -/
def shapeBase (shape asel : Nat) : Nat :=
  match shape with
  | 0 => asel * 64
  | 1 => asel * 128
  | _ => 0

/-- The arrays a shape and selection name (R129). -/
def shapeArrays (shape asel : Nat) : List Nat :=
  match shape with
  | 0 => [asel]
  | 1 => [2 * asel, 2 * asel + 1]
  | _ => [0, 1, 2, 3]

/-- Writes an A tile row into a held row: elements up to 64, +0 beyond (R141). -/
def heldRow (s : State) (c : Fin 192) (t : TileDesc) (m row : Nat) (h : Smap (BitVec 40)) : Smap (BitVec 40) :=
  let k := min t.cols 64
  let h := smapClear h (heldKey row 0) (heldKey (row + 1) 0)
  let codes := rowElems s c t m 0 k
  smapSetRun 0 h (heldKey row 0) ((List.range k).map fun i =>
    heldBits (codes.getD i 0) (if t.gsz = 0 then 127 else rowScale s c t m (i / gszLen t.gsz)))

/-- LOAD (R141, R144). -/
def heldLoad (s : State) (c : Fin 192) (x : CoreSt) (t : TileDesc) (shape asel : Nat) : CoreSt :=
  let b := shapeBase shape asel
  { x with
    held := (List.range t.rows).foldl (fun h m => heldRow s c t m (b + m) h) []
    heldRec := some ⟨shape, asel, t.fmt, t.gsz, t.rows, t.cols⟩ }

/-- The shift of SHIFT_USE: held rows below Mh move down by one and the A tile's row, or a row of zeros, enters (R141,
R142). -/
def heldShift (s : State) (c : Fin 192) (x : CoreSt) (t : TileDesc) (r : HeldRec) : CoreSt :=
  if r.mh = 0 then x
  else
    let b := shapeBase r.shape r.asel
    let h := (List.range (r.mh - 1)).foldl (fun h i =>
      smapSetRun 0 h (heldKey (b + i) 0) ((List.range 64).map fun k => heldGet x (b + i + 1) k)) x.held
    let last := b + r.mh - 1
    let h := smapClear h (heldKey last 0) (heldKey (last + 1) 0)
    { x with held := if t.rows = 0 then h else heldRow s c t 0 last h }

/-- A held row as an operand of `k` elements. -/
def heldOpRow (x : CoreSt) (fmt gsz row k : Nat) : OpRow :=
  let es := (List.range k).map fun i => (heldGet x row i).toNat
  opRowOf fmt gsz (es.map (· % 2 ^ 32)) (es.map (· / 2 ^ 32))

/-! ### The product (R116 to R138) -/

/-- What one matrix instruction runs on. -/
structure MmaRun where
  shape : Nat
  asel : Nat
  keep : Bool
  drain : Bool
  fa : Nat
  fb : Nat
  k : Nat
  a : List OpRow
  b : List OpRow

/-- One output element's new total. -/
def mmaCell (r : MmaRun) (a b : OpRow) (t : BitVec 48) : BitVec 48 :=
  if r.shape = 3 then reduceK4 r.fa r.fb a b r.k t else reduceCell r.fa r.fb a b 0 r.k t

/-- Where output row `m` is held: array and row (R129, R137). -/
def rowPlace (shape asel m : Nat) : Nat × Nat :=
  if shape = 3 then (m / 16, m % 16)
  else
    let g := shapeBase shape asel + m
    (g / 64, g % 64)

/-- Runs the product on the active sets, K4's cleared rows and the drain included (R128, R132, R134 to R138). -/
def runMma (x : CoreSt) (r : MmaRun) : CoreSt :=
  let arrays := shapeArrays r.shape r.asel
  let x := if r.keep then x else arrays.foldl accZero x
  let x := r.a.zipIdx.foldl (fun x am =>
    r.b.zipIdx.foldl (fun x bn =>
      let p := rowPlace r.shape r.asel am.2
      accSet x p.1 p.2 bn.2 (mmaCell r am.1 bn.1 (accGet x p.1 p.2 bn.2))) x) x
  let x := if r.shape = 3 then
      { x with acc := x.acc.filter fun e => e.1 ≥ 4 * 4096 || e.1 % 4096 < 16 * 64 }
    else x
  if r.drain then arrays.foldl accDrain x else x

/-- Largest ASEL and M of a shape (R128, R129). -/
def aselMax (shape : Nat) : Nat := match shape with | 0 => 3 | 1 => 1 | _ => 0
def shapeRows (shape : Nat) : Nat := match shape with | 0 => 64 | 1 => 128 | 2 => 256 | _ => 64

/-- Whether formats, shape and sizes make a valid matrix instruction with HR = OFF (R74, R130). -/
def mmaShapeOk (shape asel fa fb m n ka kb : Nat) : Bool :=
  asel ≤ aselMax shape && m ≤ shapeRows shape && n ≤ 64 && ka == kb && fmtMatrix fa && fmtMatrix fb
    && !(shape == 3 && (fmtPieces fa != 1 || fmtPieces fb != 1))

/-- Whether a tile lies in the core's scratchpad, its scale tensor too (R260). -/
def tileInScratch (c : Fin 192) (t : TileDesc) : Bool :=
  (scratchRange c t.base (max 1 (tileSpan t))).isSome
    && (t.sbase == 0 || (scratchRange c t.sbase (max 1 (scaleSpan t))).isSome)

/-- Reads a descriptor of an instruction of a place in the order, then goes on: waits for its range, stops where it is invalid or
poisoned (R257 to R259, R287, R288). -/
def withTile (s : State) (c : Fin 192) (o a : Nat) (f : State → TileDesc → CoreOut) : CoreOut :=
  match localRange c a 32 with
  | none => .stop 1 0
  | some p =>
    if blockedAt s c o [⟨p, 32⟩] [] then .wait
    else match readTile s c a with
      | .invalid => .stop 1 0
      | .poison q => .poisoned (demand s p 32) q
      | .ok t => f (demand s p 32) t

/-- Waits for the tiles and the other ranges read and written, and stops where a tile that is read is poisoned; `f` goes on from a
state in which they have been read. -/
def withTiles (s : State) (c : Fin 192) (o : Nat) (rs ws : List TileDesc) (mr mw : List Rng) (f : State → CoreOut) : CoreOut :=
  let reads := rs.flatMap (tileRanges c)
  if blockedAt s c o (reads ++ mr) (ws.flatMap (tileRanges c) ++ mw) then .wait
  else match rs.findSome? (tilePoison s c) with
    | some a => .poisoned (demandAll s (rs.flatMap (tileRowRngs c))) a
    | none => f (demandAll s (rs.flatMap (tileRowRngs c)))

/-- The ranges of a tile that an instruction names, its descriptor first; `none` while the descriptor may still be written. -/
def peekTile (s : State) (c : Fin 192) (o a : Nat) : Option (Rng × List Rng) :=
  match localRange c a 32 with
  | none => some (⟨0, 0⟩, [])
  | some p =>
    if blockedAt s c o [⟨p, 32⟩] [] then none
    else some (⟨p, 32⟩, tileRanges c (tileOf (readNat s p 32)))

/-- The whole device address map as a range. -/
def allMem : Rng := ⟨0, accBase⟩

/-- Tracker entries of an instruction that reads some tiles and perhaps writes one, besides other ranges (R286). A tile read whose
descriptor may still be written counts as all of memory until the instruction starts and reads the descriptor (R259; DEDUCED, log entry 145). -/
def tileRngs (s : State) (c : Fin 192) (o : Nat) (reads : List Nat) (write : Option Nat) (mr mw : List Rng) : TileRngs :=
  let rs := reads.flatMap fun a => match peekTile s c o a with
    | some x => x.1 :: x.2
    | none => [⟨devAt c a, 32⟩, allMem]
  let ws := write.toList.map (peekTile s c o)
  if ws.any (·.isNone) then none
  else
    let w := ws.filterMap id
    some (rs ++ w.map (·.1) ++ mr, w.flatMap (·.2) ++ mw)

/-- Whether the matrix engine must wait for an open verdict (R200). -/
def matrixHeld (x : CoreSt) : Bool := x.pend.isSome || x.cont.isSome

/-- The accumulator tiles an MMA names: the active ones of its arrays, and their shadows where it drains (R128, R164). -/
def mmaAccs (w : CoreWord) : List Rng :=
  (shapeArrays (ctlBits w 1 0) (ctlBits w 3 2)).flatMap fun a => accRng a :: (if ctlBit w 5 then [accRng (a + 4)] else [])

/-- MMA under HR = OFF or LOAD. -/
def mmaPlain (s : State) (c : Fin 192) (w : CoreWord) (o : Nat) (a b : TileDesc) : CoreOut :=
  let shape := ctlBits w 1 0
  let asel := ctlBits w 3 2
  let load := ctlBits w 7 6 = 1
  if !(mmaShapeOk shape asel a.fmt b.fmt a.rows b.rows a.cols b.cols && tileInScratch c a && tileInScratch c b
      && !(load && (shape == 3 || decide (a.cols > 64)))) then .stop 1 0
  else withTiles s c o [a, b] [] [] (mmaAccs w) fun s =>
    .done (countInvalid (modCore s c fun x =>
      let x := if load then heldLoad s c x a shape asel else x
      runMma x { shape := shape, asel := asel, keep := ctlBit w 4, drain := ctlBit w 5, fa := a.fmt, fb := b.fmt, k := a.cols
                 a := (List.range a.rows).map fun m => tileOpRow s c a a.cols m
                 b := (List.range b.rows).map fun n => tileOpRow s c b a.cols n })
      c (mtCount s c a a.cols + mtCount s c b a.cols))

/-- MMA under HR = USE or SHIFT_USE; `a` is the tile that a shift takes its row from (R130, R141, R260). -/
def mmaHeld (s : State) (c : Fin 192) (w : CoreWord) (x : CoreSt) (a : Option TileDesc) (b : TileDesc) : CoreOut :=
  let shape := ctlBits w 1 0
  let asel := ctlBits w 3 2
  match x.heldRec with
  | none => .stop 1 0
  | some r =>
    let aOk := match a with
      | none => true
      | some t => t.cols == r.kh && t.rows ≤ 1 && t.fmt == r.fmt && t.gsz == r.gsz && tileInScratch c t
    if !(shape == r.shape && asel == r.asel && shape != 3 && aOk
        && mmaShapeOk shape asel r.fmt b.fmt r.mh b.rows r.kh b.cols && r.kh ≤ 64 && tileInScratch c b) then .stop 1 0
    else withTiles s c x.chainNext (a.toList ++ [b]) [] [] (mmaAccs w) fun s =>
      .done (countInvalid (modCore s c fun x =>
        let x := match a with | some t => heldShift s c x t r | none => x
        runMma x { shape := shape, asel := asel, keep := ctlBit w 4, drain := ctlBit w 5, fa := r.fmt, fb := b.fmt, k := r.kh
                   a := (List.range r.mh).map fun m => heldOpRow x r.fmt r.gsz (shapeBase shape asel + m) r.kh
                   b := (List.range b.rows).map fun n => tileOpRow s c b r.kh n })
        c ((match a with | some t => mtCount s c t r.kh | none => 0) + mtCount s c b r.kh))

/-- What the fields of an MMA alone must meet (R130): ASEL in the shape's range, and no held rows in K4. -/
def mmaOk (w : CoreWord) : Bool :=
  ctlBits w 3 2 ≤ aselMax (ctlBits w 1 0) && !(ctlBits w 7 6 != 0 && ctlBits w 1 0 == 3)

/-- What an MMA does when it starts. -/
def mmaRun (c : Fin 192) (w : CoreWord) (s : State) (x : CoreSt) : CoreOut :=
  let hr := ctlBits w 7 6
  let o := x.chainNext
  if matrixHeld x then .wait
  else if hr = 2 then withTile s c o (xr x w.rs2).toNat fun s b => mmaHeld s c w x none b
  else
    withTile s c o (xr x w.rs1).toNat fun s a => withTile s c o (xr x w.rs2).toNat fun s b =>
      if hr = 3 then mmaHeld s c w x (some a) b else mmaPlain s c w o a b

def mmaRngs (c : Fin 192) (w : CoreWord) (s : State) (x : CoreSt) : TileRngs :=
  let a := (xr x w.rs1).toNat
  let b := (xr x w.rs2).toNat
  tileRngs s c x.chainNext (if ctlBits w 7 6 = 2 then [b] else [a, b]) none [] (mmaAccs w)

/-- MMA (R128 to R142, R260). -/
def execMma (c : Fin 192) (w : CoreWord) (s : State) : Res :=
  issueTile 0x40 0 ⟨0, if ctlBits w 7 6 = 2 then 0 else 31, 31, 0, 0xFF, 0⟩ (mmaOk w) (mmaRngs c w s) c w s (mmaRun c w s)

/-! ### The quantiser on tiles (R169 to R186, R753) -/

/-- A wide value, with the container bits that an ACC48 target copies (R171). -/
abbrev Wide := FVal × Nat

/-- Where an operation writes its statistics: tensor record and group entries, local addresses. -/
structure StatsAt where
  trec : Nat
  grp : Nat
  deriving DecidableEq, Repr

/-- Ranges of the statistics an operation writes. -/
def statsRanges (c : Fin 192) (q : QCtl) (d : TileDesc) (rows : Nat) (a : StatsAt) : List Rng :=
  (if q.stats = 0 then [] else [⟨devAt c a.trec, 64⟩])
    ++ (if q.stats = 2 then [⟨devAt c a.grp, 16 * ((rows - 1) * d.sstride + rowGroups d)⟩] else [])

/-- Whether the statistics lie in the core's scratchpad or cluster store (R261, R263). -/
def statsOk (c : Fin 192) (q : QCtl) (d : TileDesc) (rows : Nat) (a : StatsAt) : Bool :=
  (q.stats == 0 || (localRange c a.trec 64).isSome)
    && (q.stats != 2 || (localRange c a.grp (16 * max 1 ((rows - 1) * d.sstride + rowGroups d))).isSome)

/-- One row converted: an ACC48 target copies totals, and its statistics take the exact total as both x and y (R184; DESIGN CHOICE, log
entry 142). -/
def wideRow (q : QCtl) (rm : Rm) (helds : List Nat) (xs : List Wide) : QRow :=
  if q.fmt = 0x14 then ⟨[⟨127, xs.map fun v => ⟨v.2, v.1, v.1, false⟩⟩]⟩ else quantRow q rm helds (xs.map (·.1))

/-- Writes one converted row at column `dcol`: codes, zero positions of a partial group, scale bytes (R177, R178). -/
def writeQRow (s : State) (c : Fin 192) (q : QCtl) (d : TileDesc) (dcol m : Nat) (row : QRow) : State :=
  let codes := qrowCodes row
  let g := gszLen q.gsz
  let last := dcol + codes.length
  let fill := if q.gsz = 0 then 0 else min (ceilDiv last g * g) d.cols - last
  let s := writeElems s c d m dcol (codes ++ List.replicate fill 0)
  if q.gsz = 0 ∨ q.smode = 2 then s
  else writeBytes s (devAt c d.sbase + m * d.sstride + dcol / g) (row.groups.map fun x => BitVec.ofNat 8 x.scale)

/-- Writes a row's group entries (R182, R183). -/
def writeEntries (s : State) (c : Fin 192) (d : TileDesc) (a : StatsAt) (g0 m : Nat) (row : QRow) : State :=
  row.groups.zipIdx.foldl (fun s gi =>
    writeNat s (devAt c a.grp + 16 * (m * d.sstride + g0 + gi.2)) 16 (groupEntryBits gi.1)) s

/-- One quantiser operation on rows of wide values, from destination row 0 on and from column `dcol`; the rows written,
for what reads them back (R171 to R186). `zero` sets the tensor record to zero first. -/
def quantRows (s : State) (c : Fin 192) (q : QCtl) (rm : Rm) (d : TileDesc) (dcol : Nat) (a : StatsAt) (zero : Bool)
    (rows : List (List Wide)) : State × List QRow :=
  let g := gszLen q.gsz
  let held := fun m n => if q.smode = 2 && q.gsz ≠ 0 then
      (List.range (ceilDiv n g)).map fun i => rowScale s c d m (dcol / g + i) else []
  let qs := rows.zipIdx.map fun rm' => wideRow q rm (held rm'.2 rm'.1.length) rm'.1
  let r0 := if zero then recZero else recOf (readNat s (devAt c a.trec) 64)
  let s := qs.zipIdx.foldl (fun s qm => writeQRow s c q d dcol qm.2 qm.1) s
  if q.stats = 0 then (s, qs)
  else
    let g0 := if q.gsz = 0 then 0 else dcol / g
    let r := qs.zipIdx.foldl (fun r qm => recAddRow (q.gsz ≠ 0) r (qm.2 * d.sstride + g0) qm.1) r0
    let s := writeNat s (devAt c a.trec) 64 (recBits { r with ops := r.ops + 1 })
    let s := if q.stats = 2 then qs.zipIdx.foldl (fun s qm => writeEntries s c d a g0 qm.2 qm.1) s else s
    (s, qs)

/-- The rounding attribute of a control word: 7 takes FCSR.RM of the vector engine (R169), read when the conversion starts; later writes
of FCSR wait for it (`vecFcsrHeld`), so it is the RM in force at issue (DESIGN CHOICE, log entry 143). -/
def quantRm (x : CoreSt) (q : QCtl) : Rm := rmOf x.fcsrV q.rm

/-- An address that a quantiser operation reads and that is poisoned: the held scale bytes under FIXED, and the tensor
record that it adds to. -/
def quantPoison (s : State) (c : Fin 192) (q : QCtl) (d : TileDesc) (zero : Bool) (a : StatsAt) : Option Nat :=
  if q.stats ≠ 0 && !zero && anyPoison s (devAt c a.trec) 64 then some a.trec
  else if q.smode = 2 && q.gsz ≠ 0 && anyPoison s (devAt c d.sbase) (scaleSpan d) then some d.sbase
  else none

/-- A total as a wide value: read to FP32 under RNE (R171). -/
def wideOf (t : BitVec 48) : Wide := (fDecode fmt32 (totToF32 .rne t).1, t.toNat)

/-- What the fields of a QUANT alone must meet: its control word's own rules (R170), and source tiles in one set (R261). -/
def quantOk (w : CoreWord) : Bool :=
  let q := qctlOf w.ctl.toNat
  qctlValid q true true q.fmt q.gsz && w.rs1.val % 8 / 4 == (w.rs1.val % 8 + w.rs1.val / 8) / 4

/-- The same of a VQUANT (R170, R263). -/
def vquantOk (w : CoreWord) : Bool :=
  let q := qctlOf w.ctl.toNat
  qctlValid q false false q.fmt q.gsz && q.fmt != 0x14

/-- Statistics of a QUANT or VQUANT word, and its destination column (R261, R263). -/
def quantStatsAt (x : CoreSt) (w : CoreWord) : StatsAt := ⟨immBits w 31 0, (xr x w.rs3).toNat⟩
def quantDcol (w : CoreWord) : Nat := immBits w 47 32

/-- Rows a QUANT converts of each source tile, and in all. -/
def quantPer (w : CoreWord) : Nat := if bit w.imm.toNat 48 then 16 else 64
def quantCount (w : CoreWord) : Nat := w.rs1.val / 8 + 1

/-- The accumulator tiles a QUANT reads. -/
def quantAccs (w : CoreWord) : List Rng := (List.range (quantCount w)).map fun i => accRng (w.rs1.val % 8 + i)

/-- The ranges a quantiser operation reads of what it writes: the tensor record it adds to, and held scale bytes. -/
def quantReads (c : Fin 192) (q : QCtl) (d : TileDesc) (zero : Bool) (a : StatsAt) : List Rng :=
  (if q.stats ≠ 0 && !zero then [⟨devAt c a.trec, 64⟩] else [])
    ++ (if q.smode = 2 && q.gsz ≠ 0 then [⟨devAt c d.sbase, scaleSpan d⟩] else [])

/-- What a QUANT does when it starts. -/
def quantRun (c : Fin 192) (w : CoreWord) (s : State) (x : CoreSt) : CoreOut :=
  if matrixHeld x then .wait
  else withTile s c x.chainNext (xr x w.rs2).toNat fun s d =>
    let q := qctlOf w.ctl.toNat
    let per := quantPer w
    let dcol := quantDcol w
    let a := quantStatsAt x w
    let nrows := quantCount w * per
    let nc := min 64 (d.cols - dcol)
    if !(q.fmt == d.fmt && q.gsz == d.gsz && nrows ≤ d.rows && 1 ≤ nc && (q.gsz == 0 || dcol % gszLen q.gsz == 0)
        && statsOk c q d nrows a) then .stop 1 0
    else withTiles s c x.chainNext [] [d] (quantAccs w) (statsRanges c q d nrows a) fun s =>
      let t := demandAll s (quantReads c q d q.sinit a)
      match quantPoison s c q d q.sinit a with
      | some p => .poisoned t p
      | none =>
        let rows := (List.range nrows).map fun i => (List.range nc).map fun j =>
          let t := accGet x (w.rs1.val % 8 + i / per) (i % per) j
          if q.fmt = 0x14 then (totDecode t, t.toNat) else wideOf t
        .done (quantRows t c q (quantRm x q) d dcol a q.sinit rows).1

/-- Tracker entries for the statistics of a quantiser word on a destination as its descriptor stands. -/
def wordStats (c : Fin 192) (w : CoreWord) (s : State) (x : CoreSt) (rows : TileDesc → Nat) : List Rng :=
  match localRange c (xr x w.rs2).toNat 32 with
  | none => []
  | some p => let d := tileOf (readNat s p 32); statsRanges c (qctlOf w.ctl.toNat) d (rows d) (quantStatsAt x w)

def quantRngs (c : Fin 192) (w : CoreWord) (s : State) (x : CoreSt) : TileRngs :=
  tileRngs s c x.chainNext [] (some (xr x w.rs2).toNat) (quantAccs w)
    (wordStats c w s x fun _ => quantCount w * quantPer w)

/-- QUANT (R261, R169 to R186). -/
def execQuant (c : Fin 192) (w : CoreWord) (s : State) : Res :=
  issueTile 0x42 0 ⟨0, 31, 31, 31, 2 ^ 32 - 1, 2 ^ 49 - 1⟩ (quantOk w) (quantRngs c w s) c w s (quantRun c w s)

/-- Whether a tile lies in the scratchpad or cluster store. -/
def tileLocal (c : Fin 192) (t : TileDesc) : Bool :=
  (localRange c t.base (max 1 (tileSpan t))).isSome && (t.sbase == 0 || (localRange c t.sbase (max 1 (scaleSpan t))).isSome)

/-- What a VQUANT does when it starts; it sets no FCSR flag. -/
def vquantRun (c : Fin 192) (w : CoreWord) (s : State) (x : CoreSt) : CoreOut :=
  let o := x.chainNext
  withTile s c o (xr x w.rs1).toNat fun s t => withTile s c o (xr x w.rs2).toNat fun s d =>
    let q := qctlOf w.ctl.toNat
    let dcol := quantDcol w
    let a := quantStatsAt x w
    if !(q.fmt == d.fmt && q.gsz == d.gsz && (t.fmt == 0x0F || t.fmt == 0x01 || t.fmt == 0x00) && tileLocal c t
        && tileLocal c d && t.rows ≤ d.rows && dcol + t.cols ≤ d.cols && (q.gsz == 0 || dcol % gszLen q.gsz == 0)
        && statsOk c q d t.rows a) then .stop 1 0
    else withTiles s c o [t] [d] [] (statsRanges c q d t.rows a) fun s =>
      let u := demandAll s (quantReads c q d q.sinit a)
      match quantPoison s c q d q.sinit a with
      | some p => .poisoned u p
      | none =>
        let rows := (List.range t.rows).map fun m => (rowElems s c t m 0 t.cols).map fun e => (elemDecode t.fmt e, 0)
        .done (quantRows u c q (quantRm x q) d dcol a q.sinit rows).1

def vquantRngs (c : Fin 192) (w : CoreWord) (s : State) (x : CoreSt) : TileRngs :=
  tileRngs s c x.chainNext [(xr x w.rs1).toNat] (some (xr x w.rs2).toNat) [] (wordStats c w s x (·.rows))

/-- VQUANT (R263). -/
def execVquant (c : Fin 192) (w : CoreWord) (s : State) : Res :=
  issueTile 0x60 1 ⟨0, 31, 31, 31, 2 ^ 32 - 1, 2 ^ 48 - 1⟩ (vquantOk w) (vquantRngs c w s) c w s (vquantRun c w s)

/-- What an ACCLD does when it starts. -/
def accldRun (c : Fin 192) (w : CoreWord) (s : State) (x : CoreSt) : CoreOut :=
  if matrixHeld x then .wait
  else withTile s c x.chainNext (xr x w.rs1).toNat fun s t =>
    if !(t.rows == 64 && t.cols == 64 && (t.fmt == 0x0F || t.fmt == 0x14)) then .stop 1 0
    else withTiles s c x.chainNext [t] [] [] [accRng (ctlBits w 2 0)] fun s =>
      let tile := ctlBits w 2 0
      let load := fun e => if t.fmt = 0x0F then totOfF32 e else totOfAcc48 e
      .done (modCore s c fun x => (List.range 64).foldl (fun x i =>
        { x with acc := smapSetRun 0 x.acc (accKey tile i 0) ((rowElems s c t i 0 64).map load) }) x)

def accldRngs (c : Fin 192) (w : CoreWord) (s : State) (x : CoreSt) : TileRngs :=
  tileRngs s c x.chainNext [(xr x w.rs1).toNat] none [] [accRng (ctlBits w 2 0)]

/-- ACCLD (R262, R162). -/
def execAccld (c : Fin 192) (w : CoreWord) (s : State) : Res :=
  issueTile 0x43 0 ⟨0, 31, 0, 0, 7, 0⟩ true (accldRngs c w s) c w s (accldRun c w s)

end Sys2Proof.Machine
end

