-- ==== Sys2Proof/Machine/Chain.lean ====
section
/-! DEFINITION. Fused chains: the descriptor, its checks, and what each stage computes (07_fused_chains.md R217 to R240;
06_guarded_narrow_arithmetic.md R187 to R192, R199, R200; 10_attention_and_kv.md R342 to R344). -/

namespace Sys2Proof.Machine

/-! ### Reading the descriptor (R217 to R221) -/

/-- A stage entry from its 192 bits (R220). -/
def stageOf (x : Nat) : StageEnt :=
  { kind := bits x 191 187, ofmt := bits x 186 185, ctrl := bits x 184 175, rsv := bits x 174 160, param := bits x 159 128
    addr0 := bits x 127 96, addr1 := bits x 95 64, addr2 := bits x 63 32, aux := bits x 31 0 }

def kDequant : Nat := 1
def kScale : Nat := 2
def kBias : Nat := 3
def kMask : Nat := 4
def kAct : Nat := 5
def kRowmax : Nat := 6
def kRowsum : Nat := 7
def kQuant : Nat := 8
def kGuard : Nat := 9
def kMatmul2 : Nat := 10

def fbind {α β : Type} (x : Fetched α) (f : α → Fetched β) : Fetched β :=
  match x with
  | .ok a => f a
  | .invalid => .invalid
  | .poison p => .poison p

/-- Reads a tile descriptor without the checks of its tile. -/
def readTileRaw (s : State) (c : Fin 192) (a : Nat) : Fetched TileDesc := fbind (readDesc s c a 32) fun x => .ok (tileOf x)

/-- The descriptors that stages name, in order. -/
def readStageTiles (s : State) (c : Fin 192) : List StageEnt → Fetched (List (Option TileDesc))
  | [] => .ok []
  | e :: es =>
    fbind (if e.kind = kQuant ∨ e.kind = kMatmul2 then fbind (readTileRaw s c e.addr0) fun t => .ok (some t) else .ok none)
      fun t => fbind (readStageTiles s c es) fun ts => .ok (t :: ts)

/-- Reads a mask descriptor and its first `nt` codes (R342 to R344). -/
def readMask (s : State) (c : Fin 192) (a nt : Nat) : Fetched MaskDesc :=
  fbind (readDesc s c a 32) fun x =>
    let m : MaskDesc := { codes := bits x 255 224, bmbase := bits x 223 192, bmstride := bits x 191 160, ncode := bits x 159 144
                          nbm := bits x 143 128, rows := bits x 127 119, rsv := bits x 118 0, codeList := [] }
    match localRange c m.codes (max 1 (2 * m.ncode)) with
    | none => .invalid
    | some p =>
      if anyPoison s p (2 * nt) then .poison m.codes
      else .ok { m with codeList := (List.range nt).map fun t => readNat s (p + 2 * t) 2 }

/-- Reads wide-weight blocks from an address (R209). -/
def readBlocks (s : State) (c : Fin 192) (a : Nat) : Nat → Fetched (List WideBlock)
  | 0 => .ok []
  | n + 1 =>
    match localRange c a 128 with
    | none => .invalid
    | some p =>
      if a % 64 ≠ 0 then .invalid
      else if anyPoison s p 128 then .poison a
      else
        let x := readNat s p 128
        let b : WideBlock := { dma := BitVec.ofNat 512 x, tile := tileOf (bits x 767 512), wstride := sext 32 (bits x 799 768)
                               rsv := bits x 1023 800 }
        fbind (readBlocks s c (a + 128) n) fun bs => .ok (b :: bs)

/-- The last stage of a kind before an index. -/
def lastBefore (es : List StageEnt) (kind i : Nat) : Option Nat :=
  ((List.range (min i es.length)).filter fun j => (es.map (·.kind))[j]? = some kind).getLast?

def stageIdx (es : List StageEnt) (kind : Nat) : Option Nat := es.findIdx? fun e => e.kind = kind

def emptyStage : StageEnt := ⟨0, 0, 0, 0, 0, 0, 0, 0, 0⟩
def stageAt (es : List StageEnt) (i : Nat) : StageEnt := es.getD i emptyStage

/-- Local address of the guard record a stage names, 64-byte aligned in cluster store (R192). -/
def recordAt (c : Fin 192) (a : Nat) : Option Nat :=
  if a % 64 ≠ 0 then none
  else match localRange c a 64 with
    | none => none
    | some p => match placeOf p with
      | some (.cluster _ _) => some p
      | _ => none

/-- Wide-weight blocks of a guard stage: read where the record's POLICY is 2 (R192, R209). -/
def readGuard (s : State) (c : Fin 192) (e : StageEnt) : Fetched (Option TileDesc × List WideBlock) :=
  if e.kind ≠ kGuard then .ok (none, [])
  else match recordAt c e.addr0 with
    | none => .invalid
    | some p =>
      if anyPoison s p 64 then .poison e.addr0
      else fbind (readTileRaw s c e.addr1) fun t =>
        if bits (readNat s p 64) 303 302 = 2 then
          fbind (readBlocks s c e.addr2 (bits e.ctrl 9 8)) fun bs => .ok (some t, bs)
        else .ok (some t, [])

/-- Reads a chain descriptor and everything that is read at its issue (R217, R224, R259). -/
def readChainProg (s : State) (c : Fin 192) (a : Nat) : Fetched ChainProg :=
  match scratchRange c a 256 with
  | none => .invalid
  | some p =>
    if a % 256 ≠ 0 then .invalid
    else if anyPoison s p 256 then .poison a
    else
      let x := readNat s p 256
      let h := x % 2 ^ 512
      let nstg := bits h 503 500
      let all := (List.range 8).map fun i => stageOf (bits x (512 + 192 * i + 191) (512 + 192 * i))
      let es := all.take nstg
      let nt := bits h 487 472
      if bits h 511 504 ≠ 1 ∨ nstg > 8 then .invalid
      else
        fbind (readTileRaw s c (bits h 447 416)) fun a1 =>
        fbind (readTileRaw s c (bits h 415 384)) fun b1 =>
        fbind (if bits h 351 320 = 0 then .ok none else fbind (readTileRaw s c (bits h 351 320)) fun t => .ok (some t)) fun dst =>
        fbind (readStageTiles s c es) fun tiles =>
        fbind (match es.find? fun e => e.kind = kMask with
          | none => .ok none
          | some e => fbind (readMask s c e.addr0 nt) fun m => .ok (some m)) fun mask =>
        fbind (match es.find? fun e => e.kind = kGuard with
          | none => .ok (none, [])
          | some e => readGuard s c e) fun g =>
        .ok { version := bits h 511 504, nstg := nstg, npro := bits h 499 498, shape := bits h 497 496, asel := bits h 495 494
              accKeep := bit h 493, pfmt := bits h 492 488, nt := nt, nlast := bits h 471 465
              b1stride := sext 32 (bits h 383 352), dcol0 := bits h 319 304
              hdrRsv := bits h 464 448 + bits h 303 0, a1 := a1, b1 := b1, dst := dst, stages := es
              tailZero := (all.drop nstg).all (· == emptyStage), tiles := tiles, fbTile := g.1, mask := mask, blocks := g.2 }

/-- Ranges of what is read at issue, as far as it can be located: an earlier instruction that writes there is waited for. -/
def issueRanges (s : State) (c : Fin 192) (a : Nat) : List Rng :=
  let at_ := fun (l n : Nat) => match localRange c l n with | some p => [(⟨p, n⟩ : Rng)] | none => []
  match scratchRange c a 256 with
  | none => []
  | some p =>
    let x := readNat s p 256
    let h := x % 2 ^ 512
    let es := (List.range (min 8 (bits h 503 500))).map fun i => stageOf (bits x (512 + 192 * i + 191) (512 + 192 * i))
    ⟨p, 256⟩ :: at_ (bits h 447 416) 32 ++ at_ (bits h 415 384) 32 ++ at_ (bits h 351 320) 32
      ++ es.flatMap fun e =>
        if e.kind = kQuant ∨ e.kind = kMatmul2 then at_ e.addr0 32
        else if e.kind = kMask then
          at_ e.addr0 32 ++ (match localRange c e.addr0 32 with
            | some q => let m := readNat s q 32; at_ (bits m 255 224) (2 * bits m 159 144)
            | none => [])
        else if e.kind = kGuard then at_ e.addr0 64 ++ at_ e.addr1 32 ++ at_ e.addr2 (128 * bits e.ctrl 9 8)
        else []

/-! ### Shape of a chain (R218) -/

/-- Index of MATMUL2, if it stands after the prologue. -/
def m2Idx (p : ChainProg) : Option Nat :=
  match stageIdx (p.stages.drop p.npro) kMatmul2 with
  | some i => some (i + p.npro)
  | none => none

def hasM2 (p : ChainProg) : Bool := (m2Idx p).isSome

/-- Segment of a stage index: 0 prologue, 1 row-wise, 2 epilogue, 3 MATMUL2 itself. -/
def segment (p : ChainProg) (i : Nat) : Nat :=
  if i < p.npro then 0
  else match m2Idx p with
    | none => 2
    | some j => if i < j then 1 else if i = j then 3 else 2

/-- Stage indices of a segment. -/
def segStages (p : ChainProg) (g : Nat) : List Nat := (List.range p.stages.length).filter fun i => segment p i = g

/-- Rows and columns of heavy operation 1, and columns in iteration `t` (R225). -/
def chM (p : ChainProg) : Nat := p.a1.rows
def chN (p : ChainProg) : Nat := p.b1.rows
def iterN (p : ChainProg) (t : Nat) : Nat := if t + 1 = p.nt ∧ p.nlast ≠ 0 then p.nlast else chN p

/-- The B2 tile. -/
def b2Tile (p : ChainProg) : Option TileDesc := match m2Idx p with | some i => (p.tiles.getD i none) | none => none

/-- The last row-wise QUANT. -/
def lastRowQuant (p : ChainProg) : Option Nat :=
  ((segStages p 1).filter fun i => (stageAt p.stages i).kind = kQuant).getLast?

/-- The guarded conversion (R190). -/
def guardIdx (p : ChainProg) : Option Nat := stageIdx p.stages kGuard
def guardedIdx (p : ChainProg) : Option Nat :=
  match guardIdx p with
  | none => none
  | some g => lastBefore p.stages kQuant g

/-- Width of a stage's input in the epilogue or the row-wise segment, given the width the segment begins with (R223,
R231). -/
def widthAt (p : ChainProg) (w i : Nat) : Nat :=
  ((List.range i).filter fun j => segment p j = 2 && (stageAt p.stages j).kind = kAct && bit (stageAt p.stages j).ctrl 4).foldl
    (fun w _ => w / 2) w

/-- Width the epilogue begins with: in full iterations, and in iteration `t`. -/
def epiWidth (p : ChainProg) (t : Nat) : Nat := match b2Tile p with | some b => b.rows | none => iterN p t
def epiFull (p : ChainProg) : Nat := match b2Tile p with | some b => b.rows | none => chN p

/-- Width of the input of stage `i` in iteration `t`, and in a full iteration. -/
def stageWidth (p : ChainProg) (t i : Nat) : Nat :=
  if segment p i = 2 then widthAt p (epiWidth p t) i else iterN p t
def stageFull (p : ChainProg) (i : Nat) : Nat := if segment p i = 2 then widthAt p (epiFull p) i else chN p

/-- Whether iteration `t` is skipped (R234). -/
def skipped (p : ChainProg) (t : Nat) : Bool :=
  match p.mask with
  | some m => bits (m.codeList.getD t 0) 15 14 == 0
  | none => false

/-- Iterations that run. -/
def running (p : ChainProg) : List Nat := (List.range p.nt).filter fun t => !skipped p t

/-- The last column the chain writes into a destination, plus one: iterations that are skipped write nothing (R230, R231, R234). -/
def colsNeeded (p : ChainProg) (i : Nat) : Nat :=
  if segment p i = 1 then ((running p).map (iterN p)).foldl max 0
  else if hasM2 p then p.dcol0 + stageFull p i
  else match (running p).getLast? with
    | some t => p.dcol0 + t * stageFull p i + stageWidth p t i
    | none => 0

/-- Whether the chain writes a stage's output at all (R231, R234). -/
def writesOut (p : ChainProg) (i : Nat) : Bool := (segment p i == 2 && hasM2 p) || !(running p).isEmpty

/-! ### Tiles of an iteration (R225, R226, R230) -/

/-- A tile with its bases advanced; a base below 0 wraps to an address that no window of a core holds. -/
def shiftTile (t : TileDesc) (d sd : Int) : TileDesc :=
  { t with base := ((t.base + d) % (2 ^ 64 : Nat)).toNat
           sbase := if t.sbase = 0 then 0 else ((t.sbase + sd) % (2 ^ 64 : Nat)).toNat }

/-- B of heavy operation 1 in iteration `t`, from the chain's own tile or a wide-weight block. -/
def b1At (p : ChainProg) (b : TileDesc) (stride : Int) (t : Nat) : TileDesc :=
  { shiftTile b (t * stride) (t * 64 * b.sstride : Nat) with rows := iterN p t }

/-- B2 in iteration `t`. -/
def b2At (p : ChainProg) (b : TileDesc) (stride : Int) (t : Nat) : TileDesc :=
  { shiftTile b (t * stride) (t * ceilDiv (chN p) (gszLen b.gsz) : Nat) with cols := iterN p t }

/-- The buffer of a row-wise destination in iteration `t` (R230). -/
def bufAt (t : Nat) (aux : Nat) (d : TileDesc) : TileDesc := shiftTile d (t % 2 * aux : Nat) (t % 2 * aux : Nat)

/-! ### The fall-back conversion (R191) -/

def fbDefault (q : QCtl) : Nat × Nat :=
  if q.gsz ≠ 0 && (q.fmt == 6 || q.fmt == 7 || q.fmt == 8 || (0x0B ≤ q.fmt && q.fmt ≤ 0x0E)) then (4, q.gsz) else (0, 0)

/-- The fall-back conversion's control word. -/
def fbCtl (g : StageEnt) (q : QCtl) : QCtl :=
  let (f, z) := if bit g.ctrl 0 then (bits g.ctrl 5 1, bits g.ctrl 7 6) else fbDefault q
  { q with fmt := f, gsz := z, sinit := true, stats := if q.stats = 2 ∧ z ≠ 0 then 2 else 1 }

/-! ### Checks (R192, R222, R223, R344) -/

/-- Whether a stage's fields hold only what its kind uses (R220, R221). -/
def stageFieldsOk (e : StageEnt) : Bool :=
  let z := fun (p a0 a1 a2 x : Bool) => (p || e.param == 0) && (a0 || e.addr0 == 0) && (a1 || e.addr1 == 0)
    && (a2 || e.addr2 == 0) && (x || e.aux == 0)
  let noFmt := e.ofmt == 0
  e.rsv == 0 && e.ofmt ≤ 2 &&
    match e.kind with
    | 1 => e.ctrl == 0 && z false false false false false
    | 2 => e.ctrl < 8 && z false true false false true
    | 3 => e.ctrl < 8 && bits e.ctrl 1 0 ≤ 2 && z false true false false true
    | 4 => e.ctrl == 0 && z false true false false false
    | 5 => e.ctrl < 32 && bits e.ctrl 2 0 ≤ 4 && z false false false false false
    | 6 => e.ctrl < 2 && z false true false false false
    | 7 => e.ctrl < 4 && z false true true false false
    | 8 => noFmt && e.ctrl == 0 && z true true true true true
    | 9 => noFmt && z false true true true false
    | 10 => noFmt && e.ctrl < 8 && z false true true false false
    | _ => false

/-- Placement of a stage (R222). -/
def placeOk (p : ChainProg) (i : Nat) : Bool :=
  let e := stageAt p.stages i
  let g := segment p i
  match e.kind with
  | 1 => g == 0 && i == 0
  | 2 => g == 0 && bits e.ctrl 1 0 ≤ 2 || g == 1 && bits e.ctrl 1 0 ≤ 2 || g == 2 && (bits e.ctrl 1 0 ≤ 2 || hasM2 p)
  | 3 => g ≤ 2
  | 4 => g == 1 || (g == 2 && !hasM2 p)
  | 5 => (g == 1 && !bit e.ctrl 4) || g == 2
  | 6 => g == 1
  | 7 => g == 1
  | 8 => g == 1 || g == 2
  | 9 => (g == 1 || g == 2) && (lastBefore p.stages kQuant i).isSome
  | 10 => g == 3
  | _ => false

/-- Kinds that a chain may hold once (R222). -/
def onceOk (p : ChainProg) : Bool :=
  [kDequant, kMask, kRowmax, kRowsum, kGuard, kMatmul2].all fun k => (p.stages.filter fun e => e.kind = k).length ≤ 1

/-- Function-specific rules of R223. -/
def funcOk (p : ChainProg) (i : Nat) : Bool :=
  let e := stageAt p.stages i
  let has := fun k => p.stages.any fun e => e.kind = k
  match e.kind with
  | 2 => bits e.ctrl 1 0 ≠ 3 || has kRowsum
  | 5 =>
    (!bit e.ctrl 3 || (bits e.ctrl 2 0 == 4
        && (segStages p (segment p i)).any fun j => j < i && (stageAt p.stages j).kind = kRowmax))
      && (!bit e.ctrl 4 || (bits e.ctrl 2 0 ≤ 2 && (p.nt == 1 || stageFull p i % 2 == 0)
          && stageWidth p (p.nt - 1) i % 2 == 0))
  | 7 => !bit e.ctrl 1 || has kRowmax
  | _ => true

/-- Whether a tile lies in the scratchpad, or in the scratchpad and cluster store. -/
def tileIn (c : Fin 192) (scratch : Bool) (t : TileDesc) : Bool :=
  tileValid c t && (if scratch then tileInScratch c t else tileLocal c t)

/-- Buffers a destination is written through: for a row-wise one, those of the iterations that run (R230, R234). -/
def destBufs (p : ChainProg) (i : Nat) (d : TileDesc) : List TileDesc :=
  if segment p i = 1 then (((running p).map (· % 2)).eraseDups).map fun t => bufAt t (stageAt p.stages i).aux d
  else if writesOut p i then [d] else []

/-- A destination is large enough and in place (R223). -/
def destOk (c : Fin 192) (p : ChainProg) (i : Nat) (d : TileDesc) : Bool :=
  (!writesOut p i || decide (chM p ≤ d.rows)) && decide (colsNeeded p i ≤ d.cols)
    && (d :: destBufs p i d).all (tileIn c (lastRowQuant p == some i))

/-- Whether every operation of a QUANT stage begins on a boundary of groups of `g` (R177). -/
def startsOnGroup (p : ChainProg) (i g : Nat) : Bool :=
  g == 0 || segment p i == 1 || (p.dcol0 % g == 0 && (hasM2 p || p.nt == 1 || stageFull p i % g == 0))

/-- A QUANT stage (R170, R177, R223). Its source, a matrix product's readout, counts as an accumulator tile, so FMT FP64 is invalid (R170;
DESIGN CHOICE, log entry 126). -/
def quantStageOk (c : Fin 192) (p : ChainProg) (i : Nat) : Bool :=
  let e := stageAt p.stages i
  match p.tiles.getD i none with
  | none => false
  | some d =>
    let q := qctlOf e.param
    let g := gszLen q.gsz
    qctlValid q true true d.fmt d.gsz && q.fmt != 0x14
      && (if segment p i = 1 then q.stats != 2 && e.aux != 0 && e.aux % 64 == 0 else e.aux == 0)
      && (g == 0 || p.nt == 1 || (segment p i == 2 && hasM2 p) || stageFull p i % g == 0)
      && startsOnGroup p i g
      && destOk c p i d && statsOk c q d (chM p) ⟨e.addr1, e.addr2⟩

/-- The GUARD stage (R192). -/
def guardStageOk (s : State) (c : Fin 192) (p : ChainProg) : Bool :=
  match guardIdx p with
  | none => true
  | some gi =>
    match guardedIdx p, p.fbTile, recordAt c (stageAt p.stages gi).addr0 with
    | some qi, some t, some ra =>
      let e := stageAt p.stages gi
      let q := qctlOf (stageAt p.stages qi).param
      let f := fbCtl e q
      let r := readNat s ra 64
      let thr := fun x => !(match fDecode fmt32 x with | .nan _ _ _ => true | .inf sg => sg | .fin sg m _ => sg && m != 0)
      let pol := bits r 303 302
      q.stats != 0 && q.sinit && (bit e.ctrl 0 || (bits e.ctrl 7 1 == 0))
        && decide (fmtBits f.fmt > fmtBits q.fmt) && f.fmt ≤ 0x0F
        && f.fmt == t.fmt && f.gsz == t.gsz && qctlValid f true true t.fmt t.gsz && startsOnGroup p qi (gszLen f.gsz)
        && destOk c p qi t
        && statsOk c f t (chM p) ⟨(stageAt p.stages qi).addr1, (stageAt p.stages qi).addr2⟩
        && pol != 3 && bits r 301 300 != 3 && bits r 296 256 == 0 && thr (bits r 383 352) && thr (bits r 351 320)
        && (pol != 2 || (p.blocks.length == 1 + b2n (hasM2 p)
              && p.blocks.all fun b => b.rsv == 0 && descOk c b.dma && dNext b.dma == 0 && tileValid c b.tile))
    | _, _, _ => false

/-- The mask (R343, R344). -/
def maskOk (c : Fin 192) (p : ChainProg) : Bool :=
  match p.mask with
  | none => true
  | some m =>
    m.rsv == 0 && decide (max 1 (chM p) ≤ m.rows) && decide (m.rows ≤ 256) && decide (p.nt ≤ m.ncode) && m.bmstride % 64 == 0
      && (m.nbm ≤ 1 || decide (8 * m.rows ≤ m.bmstride)) && m.nbm ≤ 16383
      && m.codeList.all (fun k => bits k 15 14 != 3 && (if bits k 15 14 = 2 then decide (bits k 13 0 < m.nbm) else bits k 13 0 == 0))
      && (List.range m.nbm).all fun k => (localRange c (m.bmbase + k * m.bmstride) (8 * m.rows)).isSome

/-- Bytes of the vector a SCALE or BIAS stage reads, as far as the last iteration that runs (R232, R234). -/
def vecBytes (p : ChainProg) (i : Nat) : Nat :=
  let e := stageAt p.stages i
  let last := fun (f : Nat → Nat) => match (running p).getLast? with | some t => f t | none => 0
  let n := if bits e.ctrl 1 0 = 2 then chM p
    else match segment p i with
      | 0 => p.a1.cols
      | 1 => last fun t => 64 * t + iterN p t
      | _ => if hasM2 p then stageFull p i else last fun t => t * stageFull p i + stageWidth p t i
  n * (if bit e.ctrl 2 then 2 else 4)

def usesVec (e : StageEnt) : Bool := (e.kind == kScale || e.kind == kBias) && (bits e.ctrl 1 0 == 1 || bits e.ctrl 1 0 == 2)

def bufRng (c : Fin 192) (a n : Nat) : List Rng := if n = 0 then [] else [⟨devAt c a, n⟩]

/-- Ranges a tile takes over some iterations: each as it is, or as the tracker holds them, one for its data and one for its scale
bytes (R223, R286). -/
def iterRngs (c : Fin 192) (track : Bool) (ts : List Nat) (f : Nat → TileDesc) : List Rng :=
  let rs := ts.map fun t => tileRanges c (f t)
  if track then boundOf (rs.flatMap (·.take 1)) ++ boundOf (rs.flatMap (·.drop 1)) else rs.flatten

/-- Ranges a chain reads: those of the iterations that run (R223, R234). -/
def chainReadRngs (c : Fin 192) (track : Bool) (p : ChainProg) : List Rng :=
  let m2s := match m2Idx p with | some j => sext 32 (stageAt p.stages j).addr1 | none => 0
  (if (running p).isEmpty then [] else tileRanges c p.a1)
    ++ iterRngs c track (running p) (b1At p p.b1 p.b1stride)
    ++ (match b2Tile p with
      | some b => iterRngs c track (running p) (b2At p b m2s)
      | none => [])
    ++ (p.stages.zipIdx.filter fun e => usesVec e.1).flatMap (fun e => bufRng c e.1.addr0 (vecBytes p e.2))
    ++ (match p.mask with
      | some m =>
        let used := (running p).filterMap fun t =>
          let code := m.codeList.getD t 0
          if bits code 15 14 = 2 then some (bits code 13 0) else none
        let rs := used.eraseDups.flatMap fun k => bufRng c (m.bmbase + k * m.bmstride) (8 * m.rows)
        if track then boundOf rs else rs
      | none => [])

/-- Ranges a chain reads in a mode: a rebound operand's too (R207). -/
def modeReadRngs (c : Fin 192) (p : ChainProg) (mode : ChainMode) : List Rng :=
  chainReadRngs c true p ++ (match mode.rebind with | some (_, t) => tileRanges c t | none => [])

/-- Row states and tensor records: read and written (R223). -/
def inoutRngs (c : Fin 192) (p : ChainProg) : List Rng :=
  p.stages.flatMap fun e =>
    if e.kind = kRowmax ∨ e.kind = kRowsum then bufRng c e.addr0 (4 * chM p)
    else if e.kind = kQuant ∧ (qctlOf e.param).stats ≠ 0 then bufRng c e.addr1 64
    else []

/-- Ranges a chain writes but its in-out ranges: destinations, fall-back destination, group entries, LSE. -/
def chainOutRngs (c : Fin 192) (p : ChainProg) : List Rng :=
  (p.stages.zipIdx.flatMap fun e =>
    if e.1.kind = kQuant then
      match p.tiles.getD e.2 none with
      | some d =>
        (destBufs p e.2 d).flatMap (tileRanges c)
          ++ (if (qctlOf e.1.param).stats = 2 && writesOut p e.2 then bufRng c e.1.addr2 (16 * ((chM p - 1) * d.sstride + rowGroups d)) else [])
      | none => []
    else if e.1.kind = kRowsum ∧ bit e.1.ctrl 1 then bufRng c e.1.addr1 (4 * chM p)
    else [])
    ++ (match p.fbTile, guardedIdx p with
      | some t, some qi =>
        let e := stageAt p.stages qi
        let f := match guardIdx p with | some g => fbCtl (stageAt p.stages g) (qctlOf e.param) | none => qctlOf e.param
        (destBufs p qi t).flatMap (tileRanges c)
          ++ (if f.stats = 2 && writesOut p qi then bufRng c e.addr2 (16 * ((chM p - 1) * t.sstride + rowGroups t)) else [])
      | _, _ => [])
    ++ (match p.dst with | some d => if writesOut p p.stages.length then tileRanges c d else [] | none => [])

/-- The accumulator tiles a chain names: the arrays of its heavy operations, and their shadows, since both drain (R164, R239). -/
def chainAccs (p : ChainProg) : List Rng :=
  let m2 := match m2Idx p, b2Tile p with
    | some j, some b => let a := bits (stageAt p.stages j).ctrl 1 0; if b.rows > 64 then [a, a + 1] else [a]
    | _, _ => []
  (shapeArrays p.shape p.asel ++ m2).flatMap fun a => [accRng a, accRng (a + 4)]

/-- The ranges the wide-weight blocks' tiles take in a replay (R209). -/
def wideRngs (c : Fin 192) (p : ChainProg) : List Rng :=
  (match p.blocks[0]? with | some b => iterRngs c true (running p) (b1At p b.tile b.wstride) | none => [])
    ++ (match p.blocks[1]? with | some b => iterRngs c true (running p) (b2At p b.tile b.wstride) | none => [])

def guardRng (c : Fin 192) (p : ChainProg) : List Rng :=
  match guardIdx p with
  | some g => bufRng c (stageAt p.stages g).addr0 64
  | none => []

/-- Whether no range written overlaps one read, and in-out ranges overlap nothing else (R223). Each stage's in-out range counts for
itself, so two QUANT stages may not name one tensor record (DESIGN CHOICE, log entry 126). -/
def rangesApart (c : Fin 192) (p : ChainProg) : Bool :=
  let rs := chainReadRngs c false p
  let ws := chainOutRngs c p
  let io := inoutRngs c p ++ guardRng c p
  !anyOverlap ws rs && !anyOverlap io (rs ++ ws)
    && (io.zipIdx.all fun x => (io.zipIdx.all fun y => x.2 == y.2 || !rngOverlap x.1 y.1))

/-- The heavy operations (R130, R223). -/
def heavyOk (c : Fin 192) (p : ChainProg) : Bool :=
  let fa := if p.npro > 0 then p.pfmt else p.a1.fmt
  let m2s := match m2Idx p with | some j => sext 32 (stageAt p.stages j).addr1 | none => 0
  let inScr := fun (b : TileDesc) => tileValid c b && tileInScratch c b
  mmaShapeOk p.shape p.asel fa p.b1.fmt (chM p) (chN p) p.a1.cols p.b1.cols && fmtMatrix p.a1.fmt
    && inScr p.a1 && inScr p.b1 && ((running p).all fun t => inScr (b1At p p.b1 p.b1stride t))
    && (p.npro == 0 || p.a1.sbase == 0 || (stageAt p.stages 0).kind == kDequant)
    && !(p.accKeep && (p.nt > 1 || hasM2 p))
    && match m2Idx p, b2Tile p, lastRowQuant p with
      | none, _, _ => true
      | some j, some b, some qi =>
        let a2 := bits (stageAt p.stages j).ctrl 1 0
        let qf := (qctlOf (stageAt p.stages qi).param).fmt
        p.shape == 0 && chM p ≤ 64 && b.rows ≤ (if a2 = 3 then 64 else 128)
          && a2 != p.asel && !(b.rows > 64 && a2 + 1 == p.asel)
          && (b.gsz == 0 || 64 % gszLen b.gsz == 0)
          && fmtMatrix qf && fmtPieces qf == 1 && fmtMatrix b.fmt && fmtPieces b.fmt == 1
          && b.cols == chN p && inScr b && (running p).all fun t => inScr (b2At p b m2s t)
      | _, _, _ => false

/-- Whether a chain is valid (R223). -/
def chainOk (s : State) (c : Fin 192) (p : ChainProg) : Bool :=
  let n := p.stages.length
  let lastEpi := ((segStages p 2).filter fun i => (stageAt p.stages i).kind ≠ kGuard).getLast?
  let endsQuant := match lastEpi with | some i => (stageAt p.stages i).kind == kQuant | none => false
  p.version == 1 && p.nstg ≤ 8 && p.npro ≤ p.nstg && p.nt ≥ 1 && p.nlast ≤ 64 && p.nlast ≤ chN p && p.hdrRsv == 0 && p.tailZero
    && p.stages.all stageFieldsOk && (List.range n).all (placeOk p) && onceOk p && (List.range n).all (funcOk p)
    && (!hasM2 p || (lastRowQuant p).isSome)
    && (if p.npro > 0 then [0x00, 0x02, 0x03, 0x0A].contains p.pfmt else p.pfmt == 0)
    && heavyOk c p
    && (List.range n).all (fun i => (stageAt p.stages i).kind ≠ kQuant || quantStageOk c p i)
    && (match p.dst with
      | none => endsQuant
      | some d => !endsQuant && [0x0F, 0x00, 0x01].contains d.fmt && (!writesOut p n || decide (chM p ≤ d.rows)) && tileIn c false d
          && decide (colsNeeded p n ≤ d.cols))
    && guardStageOk s c p && maskOk c p
    && p.stages.zipIdx.all (fun e => (!usesVec e.1 || (localRange c e.1.addr0 (max 1 (vecBytes p e.2))).isSome)
        && (!(e.1.kind == kRowmax || e.1.kind == kRowsum) || (localRange c e.1.addr0 (max 1 (4 * chM p))).isSome)
        && (!(e.1.kind == kRowsum && bit e.1.ctrl 1) || (localRange c e.1.addr1 (max 1 (4 * chM p))).isSome))
    && rangesApart c p

/-! ### What stages compute (R232 to R236) -/

/-- Rounds an exact value once, under RNE, to a stage's OFMT, and gives it as FP32 bits; a NaN is canonical. -/
def ofmtRound (ofmt : Nat) (v : FVal) : Nat :=
  match v with
  | .nan _ _ _ => f32NaN
  | v =>
    let f := if ofmt = 1 then fmtB16 else if ofmt = 2 then fmt16 else fmt32
    (fConvert fmt32 qEnv false (fDecode f (fConvert f qEnv false v).1)).1

def dec32 (x : Nat) : FVal := fDecode fmt32 x

/-- The exact product, NaN where it is invalid. -/
def exMul (a b : Nat) : FVal := (fMulVals (dec32 a) (dec32 b)).getD (.nan false false 0)

/-- The exact sum. -/
def exAdd (a b : Nat) : FVal := fvAdd (dec32 a) (dec32 b)

/-- ACT's functions on FP32 values: GELU, SiLU, ReLU, tanh, exp2 (R221, R268). -/
def actFn (fn x : Nat) : Nat :=
  match fn with
  | 0 => (vfnVal 2 x).1
  | 1 => (vfnVal 3 x).1
  | 2 => match dec32 x with
    | .nan _ _ _ => f32NaN
    | v => if fOrd v fvZero == .gt then x else 0
  | 3 => (vfnVal 4 x).1
  | _ => (vfnVal 0 x).1

/-- exp2(x - m) of FP32 values (R232, R235). -/
def exp2Sub (x m : Nat) : Nat :=
  match dec32 x, dec32 m with
  | .nan _ _ _, _ => f32NaN
  | _, .nan _ _ _ => f32NaN
  | .inf true, .inf true => 0
  | .inf true, .fin _ _ _ => 0
  | .inf true, .inf false => 0
  | .inf false, .inf false => f32NaN
  | .inf false, _ => f32Inf
  | .fin _ _ _, .inf true => f32Inf
  | .fin _ _ _, .inf false => 0
  | _, _ => exp2Finite x m

/-- What an iteration, or the epilogue after MATMUL2, carries from stage to stage: the state, the rows of FP32 values,
and per row the running maximum, sum, correction, and the sum of this iteration. -/
structure ChainRun where
  s : State
  rows : List (List Nat)
  mx : List Nat
  sm : List Nat
  cr : List Nat
  ps : List Nat

/-- A vector element (R232): FP32 or BF16. -/
def vecElem (s : State) (c : Fin 192) (e : StageEnt) (i : Nat) : Nat :=
  if bit e.ctrl 2 then readNat s (devAt c e.addr0 + 2 * i) 2 * 2 ^ 16 else readNat s (devAt c e.addr0 + 4 * i) 4

/-- The factor or addend of SCALE and BIAS for row `m` and index `i`. -/
def srcVal (s : State) (c : Fin 192) (e : StageEnt) (sm : List Nat) (m i : Nat) : Nat :=
  match bits e.ctrl 1 0 with
  | 0 => e.aux
  | 1 => vecElem s c e i
  | 2 => vecElem s c e m
  | _ => let r := sm.getD m 0; if r = 0 then 0 else (fDiv fmt32 qEnv f32One r).1

/-- SCALE and BIAS on one element. -/
def linStage (e : StageEnt) (x f : Nat) : Nat := ofmtRound e.ofmt (if e.kind = kScale then exMul x f else exAdd x f)

/-- The larger of a running maximum and a row's inputs, NaN inputs left out; the value is open for a NaN state (R235). -/
def rowMaxOf (m : Nat) (xs : List Nat) : Nat :=
  match dec32 m with
  | .nan _ _ _ => (Config.vfn 8 (BitVec.ofNat 32 m)).toNat
  | _ => xs.foldl (fun a x => if !isNaN (dec32 x) && fOrd (dec32 a) (dec32 x) == .lt then x else a) m

/-- The correction of a row (R235). -/
def corrOf (m m' : Nat) : Nat :=
  if !isNaN (dec32 m) && fOrd (dec32 m) (dec32 m') == .eq then f32One else exp2Sub m m'

/-- A row's inputs summed in FP32 in ascending column (R235). -/
def rowSumOf (xs : List Nat) : Nat := xs.foldl (fun a x => (fAdd fmt32 qEnv a x).1) 0

/-- The column index a COLVEC element is taken at (R232). -/
def colIndex (p : ChainProg) (t i n : Nat) : Nat :=
  match segment p i with
  | 1 => n + 64 * t
  | _ => if hasM2 p then n else n + stageFull p i * t

/-- The destination of a QUANT stage in iteration `t`, the column it writes at, and its control word; the fall-back's in
a re-run (R191, R230, R231, R239). -/
def quantTarget (p : ChainProg) (mode : ChainMode) (t i : Nat) : TileDesc × Nat × QCtl :=
  let e := stageAt p.stages i
  let q := qctlOf e.param
  let fb := mode.fallback && guardedIdx p == some i
  let d := (if fb then p.fbTile else p.tiles.getD i none).getD p.a1
  let q := if fb then (match guardIdx p with | some g => fbCtl (stageAt p.stages g) q | none => q) else q
  if segment p i = 1 then (bufAt t e.aux d, 0, q)
  else (d, p.dcol0 + (if hasM2 p then 0 else t * stageFull p i), q)

/-- One light stage of the row-wise segment or the epilogue on a whole tile (R228, R232, R234, R235). -/
def runStage (c : Fin 192) (p : ChainProg) (mode : ChainMode) (t i : Nat) (r : ChainRun) : ChainRun :=
  let e := stageAt p.stages i
  let mapRows := fun (f : Nat → List Nat → List Nat) => { r with rows := r.rows.zipIdx.map fun x => f x.2 x.1 }
  match e.kind with
  | 4 =>
    match p.mask with
    | some k =>
      let code := k.codeList.getD t 0
      if bits code 15 14 ≠ 2 then mapRows fun _ xs => xs.map fun x => ofmtRound e.ofmt (dec32 x)
      else mapRows fun m xs =>
        let b := readNat r.s (devAt c (k.bmbase + bits code 13 0 * k.bmstride) + 8 * m) 8
        xs.zipIdx.map fun x => if bit b x.2 then ofmtRound e.ofmt (dec32 x.1) else f32NegInf
    | none => r
  | 5 =>
    let fn := bits e.ctrl 2 0
    if bit e.ctrl 4 then
      mapRows fun _ xs =>
        let h := xs.length / 2
        (List.range h).map fun j => ofmtRound e.ofmt (exMul (actFn fn (xs.getD j 0)) (xs.getD (j + h) 0))
    else mapRows fun m xs => xs.map fun x =>
      ofmtRound e.ofmt (dec32 (if bit e.ctrl 3 then exp2Sub x (r.mx.getD m f32NegInf) else actFn fn x))
  | 6 =>
    let mx := r.rows.zipIdx.map fun x => rowMaxOf (r.mx.getD x.2 f32NegInf) x.1
    let cr := mx.zipIdx.map fun x => corrOf (r.mx.getD x.2 f32NegInf) x.1
    { mapRows (fun _ xs => xs.map fun x => ofmtRound e.ofmt (dec32 x)) with mx := mx, cr := cr }
  | 7 => { mapRows (fun _ xs => xs.map fun x => ofmtRound e.ofmt (dec32 x)) with ps := r.rows.map rowSumOf }
  | 8 =>
    let x := getCore r.s c
    let (d, col, q) := quantTarget p mode t i
    let (s, ys) := quantRows r.s c q (quantRm x q) { d with rows := chM p } col ⟨e.addr1, e.addr2⟩ false
      (r.rows.map fun xs => xs.map fun v => (dec32 v, 0))
    { r with s := s, rows := ys.map fun y => y.groups.flatMap fun g => g.elems.map fun el => ofmtRound 0 el.y }
  | 9 => r
  | 10 => r
  | _ => mapRows fun m xs => xs.zipIdx.map fun x => linStage e x.1 (srcVal r.s c e r.sm m (colIndex p t i x.2))

/-! ### Heavy operations -/

/-- One row of heavy operation 1's A operand after the prologue, in PFMT (R232, R233). -/
def prologueRow (s : State) (c : Fin 192) (p : ChainProg) (a : TileDesc) (m : Nat) : OpRow :=
  let es := (segStages p 0).map (stageAt p.stages)
  let k := a.cols
  let deq := match es with | e :: _ => e.kind == kDequant | [] => false
  let vals := (rowElems s c a m 0 k).zipIdx.map fun x =>
    let v := elemDecode a.fmt x.1
    let v := if deq && a.gsz ≠ 0 then
        (let sc := rowScale s c a m (x.2 / gszLen a.gsz)
         if sc = 0xFF then .nan false false 0 else fScale ((sc : Int) - 127) v) else v
    let x0 := match es with
      | e :: _ => if deq then ofmtRound e.ofmt v else ofmtRound 0 v
      | [] => ofmtRound 0 v
    (if deq then es.drop 1 else es).foldl (fun y e => linStage e y (srcVal s c e [] m x.2)) x0
  opRowOf p.pfmt 0 (vals.map fun v => (cvtTo p.pfmt .rne true false (dec32 v)).code) (vals.map fun _ => 127)

/-- The operand tiles of a run: B through a wide-weight block, A, B and B2 rebound in a continuation (R207, R209). -/
def rebindTile (mode : ChainMode) (t : TileDesc) : TileDesc :=
  match mode.rebind with
  | some (old, new) => if t = old then new else t
  | none => t

def runA1 (p : ChainProg) (mode : ChainMode) : TileDesc := rebindTile mode p.a1

def runB1 (p : ChainProg) (mode : ChainMode) (t : Nat) : TileDesc :=
  match (if mode.wide then p.blocks[0]? else none) with
  | some b => b1At p b.tile b.wstride t
  | none => b1At p (rebindTile mode p.b1) p.b1stride t

def runB2 (p : ChainProg) (mode : ChainMode) (t : Nat) : TileDesc :=
  let st := match m2Idx p with | some j => sext 32 (stageAt p.stages j).addr1 | none => 0
  match (if mode.wide then p.blocks[1]? else none) with
  | some b => b2At p b.tile b.wstride t
  | none => b2At p (rebindTile mode ((b2Tile p).getD p.b1)) st t

/-- Heavy operation 1 of iteration `t` (R225). -/
def runH1 (s : State) (c : Fin 192) (p : ChainProg) (mode : ChainMode) (t : Nat) : State :=
  let a := runA1 p mode
  let b := runB1 p mode t
  let x := runMma (getCore s c)
    { shape := p.shape, asel := p.asel, keep := p.accKeep, drain := true
      fa := if p.npro > 0 then p.pfmt else a.fmt, fb := b.fmt, k := p.a1.cols
      a := (List.range (chM p)).map fun m => if p.npro > 0 then prologueRow s c p a m else tileOpRow s c a p.a1.cols m
      b := (List.range b.rows).map fun n => tileOpRow s c b p.a1.cols n }
  countInvalid (putCore s c x) c (mtCount s c a a.cols + mtCount s c b a.cols)

/-- The FP32 readout of heavy operation 1's rows (R160, R232). -/
def readH1 (s : State) (c : Fin 192) (p : ChainProg) (n : Nat) : List (List Nat) :=
  let x := getCore s c
  (List.range (chM p)).map fun m => (List.range n).map fun j =>
    let q := rowPlace p.shape p.asel m
    (totToF32 .rne (accGet x q.1 q.2 j)).1

/-- The rescale step of MATMUL2: each row's totals, in the columns that B2's rows give each array, times its correction (R138,
R235). -/
def rescale (x : CoreSt) (arrays : List (Nat × Nat)) (cr : List Nat) : CoreSt :=
  cr.zipIdx.foldl (fun x cm =>
    if cm.1 = f32One then x
    else arrays.foldl (fun x an => let a := an.1; (List.range an.2).foldl (fun x j =>
      accSet x a cm.2 j (totRound ((fMulVals (totDecode (accGet x a cm.2 j)) (dec32 cm.1)).getD (.nan false false 0)))) x) x) x

/-- MATMUL2's two instructions with `k` reduction elements: ZERO acts in the issue step, before the rescale step (R128, R226). -/
def runM2 (s : State) (c : Fin 192) (p : ChainProg) (mode : ChainMode) (t k : Nat) (keep drain : Bool) (cr : List Nat) : State :=
  match m2Idx p, lastRowQuant p with
  | some j, some qi =>
    let a2 := bits (stageAt p.stages j).ctrl 1 0
    let (a, _, _) := quantTarget p mode t qi
    let b := runB2 p mode t
    let arrays := if b.rows > 64 then [a2, a2 + 1] else [a2]
    let ar := (List.range (chM p)).map fun m => tileOpRow s c a k m
    let x := if keep then getCore s c else arrays.foldl accZero (getCore s c)
    let x := rescale x (arrays.zipIdx.map fun ai => (ai.1, min 64 (b.rows - 64 * ai.2))) cr
    let x := arrays.zipIdx.foldl (fun x ai =>
      runMma x { shape := 0, asel := ai.1, keep := true, drain := drain, fa := a.fmt, fb := b.fmt, k := k, a := ar
                 b := (List.range (min 64 (b.rows - 64 * ai.2))).map fun n => tileOpRow s c b k (64 * ai.2 + n) }) x
    countInvalid (putCore s c x) c (mtCount s c { a with rows := chM p } k + mtCount s c b k)
  | _, _ => s

/-- MATMUL2's readout: columns 0 to 63 from array ASEL2, the others from the next (R228). -/
def readM2 (s : State) (c : Fin 192) (p : ChainProg) : List (List Nat) :=
  let x := getCore s c
  match m2Idx p, b2Tile p with
  | some j, some b =>
    let a2 := bits (stageAt p.stages j).ctrl 1 0
    (List.range (chM p)).map fun m => (List.range b.rows).map fun n => (totToF32 .rne (accGet x (a2 + n / 64) m (n % 64))).1
  | _, _ => []

/-- Writes the final destination at a column (R223, R231). -/
def writeDst (s : State) (c : Fin 192) (p : ChainProg) (t : Nat) (rows : List (List Nat)) : State :=
  match p.dst with
  | none => s
  | some d =>
    let col := p.dcol0 + (if hasM2 p then 0 else t * stageFull p p.stages.length)
    rows.zipIdx.foldl (fun s x => writeElems s c d x.2 col
      (x.1.map fun v => (fConvert (if d.fmt = 0 then fmtB16 else if d.fmt = 1 then fmt16 else fmt32) qEnv false (dec32 v)).1)) s

/-- One iteration that runs (R225 to R235). `first` and `last` tell whether it is the first and the last that runs. -/
def runIter (c : Fin 192) (p : ChainProg) (mode : ChainMode) (t : Nat) (first last : Bool) (r : ChainRun) : ChainRun :=
  let s := runH1 r.s c p mode t
  let n := iterN p t
  let r := { r with s := s, rows := readH1 s c p n, cr := r.mx.map fun _ => f32One, ps := r.mx.map fun _ => 0 }
  let seg := if hasM2 p then segStages p 1 else segStages p 2
  let r := seg.foldl (fun r i => runStage c p mode t i r) r
  let sm := r.sm.zipIdx.map fun x => (fFma fmt32 qEnv x.1 (r.cr.getD x.2 f32One) (r.ps.getD x.2 0)).1
  let r := { r with sm := sm }
  match m2Idx p with
  | some j =>
    let keep := !first || bit (stageAt p.stages j).ctrl 2
    { r with s := runM2 r.s c p mode t n keep last r.cr }
  | none => { r with s := writeDst r.s c p t r.rows }

/-- Runs the iterations in order. -/
def runIters (c : Fin 192) (p : ChainProg) (mode : ChainMode) (r : ChainRun) : ChainRun :=
  let ts := running p
  (ts.foldl (fun (acc : ChainRun × Nat) t => (runIter c p mode t (acc.2 == 0) (acc.2 + 1 == ts.length) acc.1, acc.2 + 1)) (r, 0)).1

/-- The state a row stage begins with (R235): INIT is bit 0. -/
def rowInit (s : State) (c : Fin 192) (p : ChainProg) (kind dflt : Nat) : List Nat :=
  match p.stages.find? fun e => e.kind = kind with
  | some e => (List.range (chM p)).map fun m => if bit e.ctrl 0 then readNat s (devAt c e.addr0 + 4 * m) 4 else dflt
  | none => List.replicate (chM p) dflt

/-- Writes the row states and LSE (R236). -/
def writeRowState (s : State) (c : Fin 192) (p : ChainProg) (mx sm : List Nat) : State :=
  p.stages.foldl (fun s e =>
    if e.kind = kRowmax then writeBytes s (devAt c e.addr0) (mx.flatMap (leBytes 4))
    else if e.kind = kRowsum then
      let s := writeBytes s (devAt c e.addr0) (sm.flatMap (leBytes 4))
      if bit e.ctrl 1 then
        let lse := sm.zipIdx.map fun x => if x.1 = 0 then f32NegInf else lseOf (mx.getD x.2 f32NegInf) x.1
        writeBytes s (devAt c e.addr1) (lse.flatMap (leBytes 4))
      else s
    else s) s

/-- Sets to zero the tensor records of QUANT stages with SINIT (R237); the guarded conversion's in a re-run (R210). -/
def zeroRecords (s : State) (c : Fin 192) (p : ChainProg) (mode : ChainMode) : State :=
  (List.range p.stages.length).foldl (fun s i =>
    let e := stageAt p.stages i
    if e.kind ≠ kQuant then s
    else
      let q := (quantTarget p mode 0 i).2.2
      if q.stats ≠ 0 && q.sinit then writeNat s (devAt c e.addr1) 64 0 else s) s

/-- Runs a chain (R225 to R237). -/
def runChain (s : State) (c : Fin 192) (p : ChainProg) (mode : ChainMode) : State :=
  let mx := rowInit s c p kRowmax f32NegInf
  let sm := rowInit s c p kRowsum 0
  let s := zeroRecords s c p mode
  let r := runIters c p mode { s := s, rows := [], mx := mx, sm := sm, cr := [], ps := [] }
  let r := match m2Idx p with
    | none => r
    | some j =>
      let s := if (running p).isEmpty then runM2 r.s c p mode 0 0 (bit (stageAt p.stages j).ctrl 2) true [] else r.s
      let r := (segStages p 2).foldl (fun r i => runStage c p mode 0 i r) { r with s := s, rows := readM2 s c p }
      { r with s := writeDst r.s c p 0 r.rows }
  writeRowState r.s c p r.mx r.sm

/-! ### Issue (R200, R203, R224, R288) -/

/-- A poisoned word that the chain reads: operands of the iterations that run, vectors, bitmaps used, row states it
continues, records it adds to, held scale bytes. -/
def chainPoison (s : State) (c : Fin 192) (p : ChainProg) (mode : ChainMode) : Option Nat :=
  let ts := running p
  let at_ := fun (a n : Nat) => if n ≠ 0 && anyPoison s (devAt c a) n then [a] else []
  ((if ts.isEmpty then [] else (tilePoison s c (runA1 p mode)).toList)
    ++ ts.flatMap (fun t => (tilePoison s c (runB1 p mode t)).toList
        ++ (if hasM2 p then (tilePoison s c (runB2 p mode t)).toList else []))
    ++ p.stages.zipIdx.flatMap (fun e =>
      (if usesVec e.1 then at_ e.1.addr0 (vecBytes p e.2) else [])
      ++ (if (e.1.kind = kRowmax ∨ e.1.kind = kRowsum) ∧ bit e.1.ctrl 0 then at_ e.1.addr0 (4 * chM p) else [])
      ++ (if e.1.kind = kQuant then
          let (d, _, q) := quantTarget p mode 0 e.2
          (if q.stats ≠ 0 && !q.sinit then at_ e.1.addr1 64 else [])
            ++ (if q.smode = 2 && q.gsz ≠ 0 then at_ d.sbase (scaleSpan d) else [])
        else []))
    ++ (match p.mask with
      | some k => ts.flatMap fun t =>
          let code := k.codeList.getD t 0
          if bits code 15 14 = 2 then at_ (k.bmbase + bits code 13 0 * k.bmstride) (8 * chM p) else []
      | none => [])).head?

/-- Row states that the chain reads and writes: a continuation with one waits (R200). -/
def initRngs (c : Fin 192) (p : ChainProg) : List Rng :=
  p.stages.flatMap fun e => if (e.kind = kRowmax ∨ e.kind = kRowsum) ∧ bit e.ctrl 0 then bufRng c e.addr0 (4 * chM p) else []

/-- Whether a continuation may start early on a pending chain (R200). -/
def mayContinue (c : Fin 192) (p : ChainProg) (pend : PendChain) : Bool :=
  let ws := chainOutRngs c p ++ inoutRngs c p
  let keep := match m2Idx p with | some j => bit (stageAt p.stages j).ctrl 2 | none => false
  (initRngs c p).isEmpty && !p.accKeep && !keep && !anyOverlap ws pend.reads

/-- What a run of a chain reads: the operands of the iterations that run, vectors, bitmaps, row states it continues, records it adds
to and held scale bytes. -/
def chainDemand (c : Fin 192) (p : ChainProg) (mode : ChainMode) : List Rng :=
  let ts := running p
  (if ts.isEmpty then [] else tileRowRngs c (runA1 p mode))
    ++ ts.flatMap (fun t => tileRowRngs c (runB1 p mode t) ++ (if hasM2 p then tileRowRngs c (runB2 p mode t) else []))
    ++ p.stages.zipIdx.flatMap (fun e =>
      (if usesVec e.1 then bufRng c e.1.addr0 (vecBytes p e.2) else [])
      ++ (if e.1.kind = kQuant then
          let (d, _, q) := quantTarget p mode 0 e.2
          quantReads c q d q.sinit ⟨e.1.addr1, e.1.addr2⟩
        else []))
    ++ initRngs c p
    ++ (match p.mask with
      | some k => ts.flatMap fun t =>
          let code := k.codeList.getD t 0
          if bits code 15 14 = 2 then bufRng c (k.bmbase + bits code 13 0 * k.bmstride) (8 * chM p) else []
      | none => [])

/-- Whether ranges wait for verdicts of other cores. -/
def othersBlock (s : State) (c : Fin 192) (rs ws : List Rng) : Bool :=
  provBlocks (modCore s c fun x => { x with pend := none, cont := none }) rs ws

/-- The record of a chain that has run and is pending. -/
def pendOf (s : State) (c : Fin 192) (p : ChainProg) (mode : ChainMode) (ordinal offset ord : Nat) : PendChain :=
  let rec_ := match guardIdx p with | some g => (stageAt p.stages g).addr0 | none => 0
  let tens := match guardedIdx p with | some q => (stageAt p.stages q).addr1 | none => 0
  { prog := p, mode := mode, guarded := (guardIdx p).isSome, record := rec_, ordinal := ordinal, tensor := tens
    writes := chainOutRngs c p ++ inoutRngs c p ++ chainAccs p, reads := modeReadRngs c p mode ++ inoutRngs c p
    accAt := (getCore s c).acc, inoutAt := (inoutRngs c p).map fun r => (r.lo, readBytes s r.lo r.len), ord := ord, offset := offset }

/-- A poisoned word that a chain meets: a continuation notes it and waits for the verdict, since its work may yet be squashed, and
any other chain stops its core (R288, R425). -/
def chainMeets (x : CoreSt) (t : State) (addr : Nat) : CoreOut := if x.pend.isSome then .hold t else .poisoned t addr

/-- What a CHAIN does when it starts (R217 to R240): it is checked in full, then run; a guarded chain leaves its verdict open, and a
continuation runs on provisional inputs (R199, R200). -/
def chainRun (c : Fin 192) (w : CoreWord) (s : State) (x : CoreSt) : CoreOut :=
  let a := (xr x w.rs1).toNat
  let o := x.chainNext
  if x.cont.isSome || (x.pend.isSome && x.verdict ≠ .open) then .wait
  else if flightBlocks c (getCore s c) o (issueRanges s c a) [] || provBlocks s (issueRanges s c a) [] then .wait
  else
    let s1 := demandAll s (issueRanges s c a)
    match readChainProg s c a with
    | .invalid => .stop 1 0
    | .poison p => chainMeets x s1 p
    | .ok p =>
      if !chainOk s c p then .stop 1 0
      else
        let mode : ChainMode := ⟨false, x.rebind, false⟩
        let rs := modeReadRngs c p mode ++ inoutRngs c p
        let ws := chainOutRngs c p ++ inoutRngs c p ++ chainAccs p
        let early := match x.pend with | some q => mayContinue c p q | none => true
        if !early || flightBlocks c (getCore s c) o rs ws || othersBlock s c rs ws then .wait
        else
          let s2 := demandAll s1 (chainDemand c p mode)
          match chainPoison s c p mode with
          | some q => chainMeets x s2 q
          | none =>
            let guarded := (guardIdx p).isSome
            let rec_ := match guardIdx p with | some g => (stageAt p.stages g).addr0 | none => 0
            let n := smapGet 0 x.guardSeq rec_
            let pc := pendOf s2 c p mode n (pcOffset x) o
            let t := runChain s2 c p mode
            let t := modCore t c fun y => if guarded then { y with guardSeq := smapSet 0 y.guardSeq rec_ (n + 1) } else y
            .done (modCore t c fun y =>
              if x.pend.isSome then { y with cont := some pc }
              else if guarded then { y with pend := some pc, verdict := .open }
              else y)

/-- Tracker entries of a CHAIN that waits: what is read at its issue and, where the chain can be read, its ranges (R286). -/
def chainRngs (c : Fin 192) (w : CoreWord) (s : State) (x : CoreSt) : TileRngs :=
  let a := (xr x w.rs1).toNat
  let d := issueRanges s c a
  if blockedAt s c x.chainNext d [] then none
  else match readChainProg s c a with
    | .ok p =>
      some (d ++ modeReadRngs c p ⟨false, x.rebind, false⟩ ++ inoutRngs c p, chainOutRngs c p ++ inoutRngs c p ++ guardRng c p ++ chainAccs p)
    | _ => some (d, [])

/-- CHAIN (R217 to R240). -/
def execChain (c : Fin 192) (w : CoreWord) (s : State) : Res :=
  issueTile 0x41 0 ⟨0, 31, 0, 0, 0, 0⟩ true (chainRngs c w s) c w s (chainRun c w s)

end Sys2Proof.Machine
end

