-- ==== Sys2Proof/Machine/Guard.lean ====
section
/-! DEFINITION. Verdicts and replays: GUARD_VERDICT and REPLAY_END (06_guarded_narrow_arithmetic.md R193 to R216, R754).
-/

namespace Sys2Proof.Machine

/-! ### Combining and comparing (R195, R196) -/

/-- Tensor records combined in ascending order of core. -/
structure Combined where
  elems : Nat
  sse : Nat
  ssw : Nat
  sat : Nat
  nan : Nat
  worst : Nat
  deriving DecidableEq, Repr

def gt32 (a b : Nat) : Bool := !isNaN (dec32 a) && !isNaN (dec32 b) && fOrd (dec32 a) (dec32 b) == .gt
def gt64 (a b : Nat) : Bool :=
  !isNaN (fDecode fmt64 a) && !isNaN (fDecode fmt64 b) && fOrd (fDecode fmt64 a) (fDecode fmt64 b) == .gt

def combineRecs (rs : List TensorRec) : Combined :=
  rs.foldl (fun a r =>
    { elems := min (a.elems + r.elems) (2 ^ 64 - 1), sse := (fAdd fmt64 qEnv a.sse r.sse).1, ssw := (fAdd fmt64 qEnv a.ssw r.ssw).1
      sat := min (a.sat + r.sat) (2 ^ 32 - 1), nan := min (a.nan + r.nan) (2 ^ 32 - 1)
      worst := if gt32 r.worstRel a.worst then r.worstRel else a.worst }) ⟨0, 0, 0, 0, 0, 0⟩

/-- The comparisons of R196 that trip: CMSE, CSAT, CGROUP, CNAN, CFORCE from bit 4 down (R215). -/
def tripCmp (g : Nat) (k : Combined) (force : Bool) : BitVec 5 :=
  let tmse := bits g 383 352
  let f64 := fun x => toF64 (dec32 x)
  let mse := gt64 k.sse (fMul fmt64 qEnv (f64 tmse) k.ssw).1
  let sat := gt64 (toF64 (fOfInt k.sat)) (fMul fmt64 qEnv (f64 (bits g 351 320)) (toF64 (fOfInt k.elems))).1
  let grp := bit g 299 && gt32 k.worst tmse
  let nan := bit g 298 && k.nan > 0
  BitVec.ofNat 5 (b2n mse * 16 + b2n sat * 8 + b2n grp * 4 + b2n nan * 2 + b2n (force && bit g 297))

/-- A guard record after a verdict (R188, R212): counts saturate. -/
def grVerdict (g : Nat) (k : Combined) (trip : Bool) : Nat :=
  min (bits g 511 448 + 1) (2 ^ 64 - 1) * 2 ^ 448 + min (bits g 447 416 + b2n trip) (2 ^ 32 - 1) * 2 ^ 416 + bits g 415 256 * 2 ^ 256
    + k.sse * 2 ^ 192 + k.ssw * 2 ^ 128 + k.sat * 2 ^ 96 + min k.elems (2 ^ 32 - 1) * 2 ^ 64 + k.worst * 2 ^ 32 + k.nan

/-- A guard record with FBEXCEED counted once more (R210). -/
def grExceed (g : Nat) : Nat := bits g 511 416 * 2 ^ 416 + min (bits g 415 384 + 1) (2 ^ 32 - 1) * 2 ^ 384 + bits g 383 0

/-! ### The verdict's parties -/

/-- Whether a core has presented the record of a verdict of a dispatch. -/
def presents (s : State) (id record ordinal : Nat) (d : Nat) : Bool :=
  let x := vget s.cores .init d
  x.dispatch = id && x.phase ≠ .idle && match x.pend with
    | some q => q.guarded && q.record = record && q.ordinal = ordinal
    | none => false

/-- A core's tensor record of its pending chain. -/
def tensorOf (s : State) (d : Nat) : TensorRec :=
  let c := fin 192 d
  match (getCore s c).pend with
  | some q => recOf (readNat s (devAt c q.tensor) 64)
  | none => recZero

/-- The guard record of the participant of the lowest UID (R215). -/
def verdictRecord (ps : List Nat) (record : Nat) : Nat := devAt (fin 192 (ps.headD 0)) record

/-- Counts of the lease: verdicts, trips, replays, wide replays, FBEXCEED (R216). -/
def bumpGuards (s : State) (is : List Nat) : State :=
  { s with lease := { s.lease with guards := s.lease.guards.zipIdx.map fun x => if x.2 ∈ is then x.1 + 1 else x.1 } }

/-- Adds a trip to a command's summary and to that of its guard record (R214, R215): bit 0 REPORTED, 1 REPLAYED, 2 WIDE,
3 FBEXCEED. `n` is 1 for a trip and 0 for FBEXCEED found later. -/
def noteTrip1 (s : State) (id cl record layer n : Nat) (cmp : BitVec 5) (b : BitVec 4) : State :=
  updCmd s id fun k =>
    let hit := k.tripRecs.any fun r => r.1 = cl && r.2.1 = record
    let recs := if hit then k.tripRecs.map fun r =>
          let (c, a, l, m, p, q) := r
          if c = cl && a = record then (c, a, l, m + n, p, q ||| b) else r
      else k.tripRecs ++ [(cl, record, layer, n, cmp, b)]
    { k with trips := k.trips + n, tripLayer := if k.trips = 0 then layer else k.tripLayer, tripBits := k.tripBits ||| b
             tripRecs := recs }

/-- The same for a launch and for the graph it is a node of, which so counts trips in the order in which they come. -/
def noteTrip (s : State) (id cl record layer n : Nat) (cmp : BitVec 5) (b : BitVec 4) : State :=
  let s := noteTrip1 s id cl record layer n cmp b
  match findCmd s id with
  | some k => (match k.origin with
    | .sub p _ => if ((findCmd s p).bind (·.graph)).isSome then noteTrip1 s p cl record layer n cmp b else s
    | _ => s)
  | none => s

/-! ### Resolving -/

/-- The tile that a continuation's operands equal to the guarded destination are rebound to (R207). -/
def rebindOf (p : PendChain) : Option (TileDesc × TileDesc) :=
  match guardedIdx p.prog, p.prog.fbTile with
  | some q, some t => match p.prog.tiles.getD q none with
    | some d => some (d, t)
    | none => none
  | _, _ => none

/-- The marks of a core's pending chain clear; its continuation, if guarded, is now the chain whose verdict is open (R199,
R200, R205). A continuation that has not run yet is rebound when it does (R207, R211, R213). -/
def resolveCore (s : State) (c : Fin 192) : State :=
  let s := modCore s c fun x =>
    match x.cont with
    | some p => if p.guarded then { x with pend := some p, cont := none, verdict := .open } else { x with pend := none, cont := none, verdict := .open }
    | none => { x with pend := none, verdict := .open, rebind := match x.verdict with | .replayed _ _ => x.pend.bind rebindOf | _ => none }
  settleCore s c

def resolveAll (s : State) (ps : List Nat) : State := ps.foldl (fun s d => resolveCore s (fin 192 d)) s

/-- Begins the replay of a participant: the squash, and the DMA of its wide-weight blocks, whose tiles the replay reads (R203, R207,
R209). What the verdict has read is kept for the replay's end (R189). -/
def beginReplay (s : State) (c : Fin 192) (wide : Bool) (g : Nat) (ps : List Nat) : State :=
  let s := squash s c
  let s := modCore s c fun x =>
    { x with verdict := .replaying wide (now s) g ps
             pend := x.pend.map fun p => if wide then { p with reads := p.reads ++ wideRngs c p.prog } else p }
  match (getCore s c).pend with
  | some p => if wide then p.prog.blocks.foldl (fun s b => queueChain s c (some (getCore s c).launch) [b.dma]) s else s
  | none => s

/-- A fenced participant's cause, if one of them has ended so: in a launch, in a launch of the step that still runs, or in one that
has ended (R754). -/
def fencedPart (s : State) (id : Nat) (ps : List Nat) : Option Nat :=
  let inCmd := fun (k : CmdRec) => (k.parts.find? fun p => p.1 % 2 ^ 20 ∈ ps && p.2.1 = stFenced).map (·.2.2)
  match findCmd s id with
  | none => none
  | some k => match k.graph with
    | none => inCmd k
    | some g => (g.subs.filterMap fun x => x).findSome? (fun n => (findCmd s n).bind inCmd)
        |>.or (g.res.findSome? fun r => match r with | some x => if x.1 = stFenced then some x.2 else none | none => none)

/-- A VERDICT record on every participant (R675). -/
def traceVerdict (s : State) (ps : List Nat) (record : Nat) (trip : Bool) : State :=
  ps.foldl (fun s d => traceCore s (fin 192 d) 0 8 (b2n trip * 2 ^ 32 + record)) s

/-- GUARD_VERDICT (R193 to R197, R205 to R207, R212, R754): formed once every participant has presented its record. -/
def execGuardVerdict (c : Fin 192) (s : State) : Res :=
  let x := getCore s c
  match x.pend with
  | none => .next s
  | some p =>
    if !awaitsVerdict x then .next s
    else
      let id := x.dispatch
      let ps := participants s c p
      let here := ps.filter (presents s id p.record p.ordinal)
      match fencedPart s id ps with
      | some u => .next (here.foldl (fun s d => failPart s (fin 192 d) (withCause stFenced u)) s)
      | none =>
        if here.length ≠ ps.length then .next s
        else
          let ra := verdictRecord ps p.record
          let t := demand s ra 64
          if anyPoison s ra 64 then
            .next (here.foldl (fun s d =>
              let e := fin 192 d
              let y := getCore s e
              let off := match y.pend with | some q => q.offset | none => 0
              failPart (faultUnit s (.core e) 0x0001 3 (uidOf (.core e)) p.record off) e stPoisoned) t)
          else
            let g := readNat s ra 64
            let k := combineRecs (ps.map (tensorOf s))
            let cmp := tripCmp g k true
            let trip := cmp ≠ 0
            let pol := bits g 303 302
            let id := x.launch
            let s := writeNat t ra 64 (grVerdict g k trip)
            let s := traceVerdict s ps p.record trip
            let cl := ps.headD 0 / 8
            if !trip then .next (resolveAll (bumpGuards s [0]) ps)
            else if pol = 0 then
              .next (resolveAll (noteTrip (bumpGuards s [0, 1]) id cl p.record (bits g 319 304) 1 cmp 1) ps)
            else
              let wide := pol == 2
              let s := noteTrip (bumpGuards s (if wide then [0, 1, 2, 3] else [0, 1, 2])) id cl p.record (bits g 319 304) 1 cmp
                (if wide then 6 else 2)
              .next (ps.foldl (fun s d => beginReplay s (fin 192 d) wide g ps) s)

/-! ### Replays (R207, R209, R210) -/

/-- Entries of a core's wide-weight blocks. -/
def blockEnts (x : CoreSt) : List DmaEnt := x.dma.filter fun e => e.owner = some x.launch

/-- Re-runs the pending chain of a core with its inputs as they were (R207, R210, R239). -/
def rerun (s : State) (c : Fin 192) (p : PendChain) (wide : Bool) (g : Nat) (ps : List Nat) : State :=
  let s := restoreChain s c p
  let mode : ChainMode := ⟨true, p.mode.rebind, wide⟩
  let s := runChain (demandAll s (chainDemand c p.prog mode)) c p.prog mode
  modCore s c fun x => { x with pend := some { p with mode := mode }, verdict := .replayed g ps }

/-- Restarts a core's continuation after the replay, its operands rebound (R207). A word that it reads may be poisoned:
the core then stops (R288). -/
def restartCont (s : State) (c : Fin 192) : State :=
  let x := getCore s c
  match x.pend, x.cont with
  | some p, some q =>
    let mode : ChainMode := ⟨false, rebindOf p, false⟩
    let s := demandAll s (chainDemand c q.prog mode)
    match chainPoison s c q.prog mode with
    | some a =>
      let s := modCore s c fun x => { dropLater x q.ord with cont := none, phase := .stopping stPoisoned }
      faultUnit s (.core c) 0x0001 3 (uidOf (.core c)) a q.offset
    | none =>
      let r := pendOf s c q.prog mode q.ordinal q.offset q.ord
      let s := runChain s c q.prog mode
      modCore s c fun x => { x with cont := some r }
  | _, _ => s

/-- Ends a verdict whose every remaining participant has been replayed: FBEXCEED where the fall-back would have tripped under the
thresholds the verdict read, then the marks clear and the continuations restart (R189, R199, R207, R210). `id` is a launch of the
dispatch `d`, `parts` the verdict's participants and `g` its guard record. -/
def endReplays (s : State) (d id record ordinal : Nat) (g : Nat) (parts : List Nat) : State :=
  let ps := parts.filter (presents s d record ordinal)
  let open_ := fun (d : Nat) => match (vget s.cores .init d).verdict with | .replayed _ _ => false | _ => true
  if ps.isEmpty || ps.any open_ then s
  else
    let ra := verdictRecord parts record
    let exceed := tripCmp g (combineRecs (ps.map (tensorOf s))) false ≠ 0
    let s := if exceed then
        noteTrip (bumpGuards (writeNat s ra 64 (grExceed (readNat s ra 64))) [4]) id (parts.headD 0 / 8) record (bits g 319 304) 0 0 8
      else s
    let s := ps.foldl (fun s d => restartCont s (fin 192 d)) s
    resolveAll s ps

/-- The command a part belongs to in the end. -/
def rootCmd (fuel : Nat) (s : State) (id : Nat) : Nat :=
  match fuel with
  | 0 => id
  | f + 1 => match findCmd s id with
    | some k => (match k.origin with | .sub p _ => rootCmd f s p | _ => id)
    | none => id

/-- Adds the time of a replay to the step in flight that it held up, once for each verdict (R369). -/
def noteReplay (s : State) (id ns : Nat) (once : Bool) : State :=
  match s.seq.step with
  | some r =>
    if once && r.cmd = rootCmd 5 s id then
      { s with seq := { s.seq with step := some { r with replayNs := r.replayNs + ns } } }
    else s
  | none => s

/-- REPLAY_END (R207 to R210, R754): a participant's wide weights have arrived and its chain has been run again; a block's
DMA that failed ends its part with that status. -/
def execReplayEnd (c : Fin 192) (s : State) : Res :=
  let x := getCore s c
  match x.pend, x.verdict with
  | some p, .replaying wide since g ps =>
    let es := blockEnts x
    if !es.all entEnded then .next s
    else
      let id := x.launch
      let bad := es.findSome? fun e => match e.phase with | .ended st => if st ≠ stOk then some st else none | _ => none
      let s := modCore s c fun x => { x with dma := x.dma.filter fun e => e.owner ≠ some x.launch }
      let s := noteReplay s id (now s - since) (ps.headD 0 = c.val)
      match bad with
      | some st => .next (endReplays (failPart s c st) x.dispatch id p.record p.ordinal g ps)
      | none => .next (endReplays (rerun s c p wide g ps) x.dispatch id p.record p.ordinal g ps)
  | _, _ => .next s

end Sys2Proof.Machine
end

