-- ==== Sys2Proof/Machine/Launch.lean ====
section
/-! DEFINITION. KERNEL_LAUNCH, the flag commands and graphs of commands (14_command_interface.md R492 to R499;
08_core_programming.md R241; 18_bring_up_reset_recovery.md R643). -/

namespace Sys2Proof.Machine

/-! ### KERNEL_LAUNCH (R492 to R494) -/

def lEntry (ps : List (BitVec 512)) : Nat := bits (paramBlock ps 0) 511 480
def lArgdst (ps : List (BitVec 512)) : Nat := bits (paramBlock ps 0) 479 448
def lArglen (ps : List (BitVec 512)) : Nat := bits (paramBlock ps 0) 447 432

/-- Argument bytes of a launch. -/
def lArgs (ps : List (BitVec 512)) : List Byte := ((paramBytes ps).drop 64).take (lArglen ps)

/-- Step 7 of KERNEL_LAUNCH. -/
def checkLaunch (ps : List (BitVec 512)) : List Nat :=
  rsvBad (paramNat ps) [(431, 0)] ++ chk (lEntry ps % 16 = 0) (512 + 480)
    ++ chk (lArgdst ps % 64 = 0 && lArgdst ps + max (lArglen ps) 1 ≤ 0x500000) (512 + 448)

/-- Whether a unit is a core or contains cores (R493). -/
def holdsCores : PUnit → Bool
  | .core _ => true
  | .cluster _ => true
  | .die _ => true
  | .device => true
  | _ => false

/-- Cores of a unit that are in service (R643). -/
def serviceCores (s : State) (u : PUnit) : List Nat :=
  (unitCores u).filter fun n => baseState s (.core (fin 192 n)) ≠ .outOfService

/-- Why a unit that a group's command names can do no work: its status and DETAIL. -/
def unitBar (s : State) (u : PUnit) (epoch : BitVec 16) (accepted : Nat) : Option (Nat × Nat) :=
  let b := baseState s u
  if staleFor s (.unit u) epoch accepted then some (stStaleEpoch, epochOf s u)
  else if b = .outOfService then some (stOutOfService, uidOf u)
  else if b = .fenced ∨ b = .resetting then some (stFenced, uidOf (fencedRoot s u))
  else if b = .notReady then some (stNotReady, uidOf u)
  else none

/-- The members a launch on a group goes to, each with what bars it (R25, R28, R476). -/
def launchFan (s : State) (g : Nat) : List (Member × BitVec 16) := dedupFan (fanOut 4097 s false g).1

/-- The cores a launch would run on (R493). -/
def coresFor (s : State) (c : CmdRec) : List Nat :=
  match c.target with
  | .unit u => (serviceCores s u).mergeSort (· ≤ ·)
  | .group g =>
    (((launchFan s g).flatMap fun m => match m.1 with
      | .unit u => if (unitBar s u m.2 c.acceptedAt).isNone then serviceCores s u else []
      | _ => []).eraseDups).mergeSort (· ≤ ·)
  | .remote _ => []

/-- Whether no core of a launch runs another, all are awake, and no earlier launch that shares one waits (R494, R650). -/
def launchFree (s : State) (c : CmdRec) (cores : List Nat) : Bool :=
  (cores.all fun n => (getCore s (fin 192 n)).phase = .idle && !(vget s.doze .init n).off)
    && s.cmd.inflight.all fun d =>
      decide (d.id ≥ c.id) || hOpcode d.hdr ≠ 0x0401 || d.phase ≠ .accepted
        || (match d.origin with | .sub p _ => p = c.id | _ => false) || !((coresFor s d).any fun n => cores.contains n)

/-- A core in the launch state (R241), its arguments written to its scratchpad. -/
def startCore (s : State) (c : CmdRec) (n rank count : Nat) : State :=
  let k := fin 192 n
  let ps := c.params
  let d := dispatchOf s c.id
  let s := touchDoze (touchDoze s n) (192 + n / 8)
  let s := writeBytes s (scratchAt n + lArgdst ps) (lArgs ps)
  let x0 : Vector (BitVec 64) 32 := Vector.replicate 32 0
  let x1 := (((x0.set 1 (BitVec.ofNat 64 (lArgdst ps))).set 2 (BitVec.ofNat 64 rank)).set 3 (BitVec.ofNat 64 count)).set 4
    (BitVec.ofNat 64 (hCtx c.hdr))
  modCore s k fun x => { x with
    phase := .running, launch := c.id, rank := rank, entry := BitVec.ofNat 32 (lEntry ps), pc := BitVec.ofNat 64 (lEntry ps)
    x := x1, p := (Vector.replicate 8 false).set 0 true, v := Vector.replicate 32 0, fcsrS := 0, fcsrV := 0
    dmaStat := [], unacked := [], guardSeq := if x.dispatch = d then x.guardSeq else [], dispatch := d, rebind := none }

/-- Starts a launch on its cores; a core that is not ready ends its part at once. -/
def startCores (s : State) (c : CmdRec) (cores : List Nat) : State :=
  let s := updCmd s c.id fun k => { k with waitFor := cores }
  let bar := fun (n : Nat) => unitBar s (.core (fin 192 n)) (getUnit s (.core (fin 192 n))).epoch (now s)
  let go := cores.filter fun n => (bar n).isNone
  let s := cores.zipIdx.foldl (fun s nr => if go.contains nr.1 then startCore s c nr.1 nr.2 cores.length else s) s
  (cores.filter fun n => !go.contains n).foldl (fun s n =>
    match bar n with
    | some b => endPart s c.id n b.1 b.2
    | none => s) s

/-- Starts a launch on a group as one launch: members that are barred end their parts at once, remote members are sent the
command (R25, R474, R494, R506). -/
def startGroupLaunch (s : State) (c : CmdRec) (g : Nat) : State :=
  let fan := launchFan s g
  let s := updCmd s c.id fun k => { k with fan := fan, noGroups := (fanOut 4097 s false g).2 }
  let barred := fan.zipIdx.filterMap fun m => match m.1.1 with
    | .unit u => match unitBar s u m.1.2 c.acceptedAt with
      | some b => some (m.2, b.1, b.2)
      | none => if (serviceCores s u).isEmpty then some (m.2, stOutOfService, uidOf u) else none
    | _ => none
  let cores := coresFor s c
  let s := updCmd s c.id fun k => { k with parts := k.parts ++ barred }
  let s := fan.zipIdx.foldl (fun s (m : (Member × BitVec 16) × Nat) =>
    match m.1.1 with
    | .remote fuid =>
      let h := memberHdr c.hdr fuid m.1.2.toNat
      let k := { newCmd s (.sub c.id m.2) c.role h c.params with
        acceptedAt := c.acceptedAt, phase := .forwarded, epoch := m.1.2, target := m.1.1 }
      sendCmd (addCmd s k) 11 (fuid / 2 ^ 48) k.id c.role h c.params
    | _ => s) s
  if cores.isEmpty then replyGroup s c.id else startCores s c cores

/-- KERNEL_LAUNCH (R241, R492 to R494). -/
def execKernelLaunch (id : Nat) (s : State) : Res :=
  match waiting s id 0x0401 with
  | none => .next s
  | some k =>
    if !launchFree s k (coresFor s k) then .next s
    else match startCmd s id 0x0401 with
      | .wait => .next s
      | .ended s => .next s
      | .go s c =>
        match c.target with
        | .group g => .next (startGroupLaunch s c g)
        | .unit u =>
          if !(checkLaunch c.params).isEmpty then .next (finishCmd s id stBadParam (badDetail []))
          else if !holdsCores u then .next (finishCmd s id stBadParam (badDetail [384]))
          else if (coresFor s c).isEmpty then .next (finishCmd s id stOutOfService (uidOf u))
          else .next (startCores s c (coresFor s c))
        | .remote _ => .next s

/-! ### Flag commands (R496) -/

def fcAddr (ps : List (BitVec 512)) : Nat := bits (paramBlock ps 0) 511 464
def fcCond (ps : List (BitVec 512)) : Nat := bits (paramBlock ps 0) 463 462
def fcValue (ps : List (BitVec 512)) : Nat := bits (paramBlock ps 0) 447 384

/-- Whether an address is a flag in a unit's store. -/
def flagInUnit (u : PUnit) (a : Nat) : Bool :=
  devFlagOk a && match u, placeOf a with
    | .cluster k, some (.cluster j _) => k.val = j
    | .die d, some (.die e _) => d.val = e
    | _, _ => false

/-- Step 7 of a flag command on a target. -/
def checkFlag (op : Nat) (t : Member) (ps : List (BitVec 512)) : List Nat :=
  rsvBad (paramNat ps) [(461, 448), (383, 0)] ++ chk (op = 0x0305 || fcCond ps = 0) (512 + 462)
    ++ chk (match t with | .unit u => flagInUnit u (fcAddr ps) | _ => devFlagOk (fcAddr ps)) (512 + 464)

/-- Whether no open verdict governs the flag. -/
def flagFree (s : State) (c : CmdRec) : Bool :=
  match c.target with
  | .unit _ => !provBlocks s [⟨fcAddr c.params, 8⟩] [⟨fcAddr c.params, 8⟩]
  | _ => true

/-- The effect of FLAG_SET or FLAG_ADD on a target in order; a poisoned flag ends FLAG_ADD. -/
def flagEffect (add : Bool) (s : State) (c : CmdRec) (u : PUnit) : State :=
  let a := fcAddr c.params
  let v := fcValue c.params
  let s := touchAddr s a
  if !(checkFlag (hOpcode c.hdr) (.unit u) c.params).isEmpty then finishCmd s c.id stBadParam (badDetail [])
  else if !add then finishCmd (writeNat s a 8 v) c.id stOk 0
  else if anyPoison s a 8 then finishCmd (demand s a 8) c.id stPoisoned (uidOf (placeUnit a))
  else
    let old := readNat s a 8
    finishCmd (writeNat (demand s a 8) a 8 ((old + v) % 2 ^ 64)) c.id stOk (old % 2 ^ 32)

/-- Runs a flag command when no open verdict holds its flag. -/
def flagCmd (add : Bool) (id op : Nat) (s : State) : Res :=
  match waiting s id op with
  | none => .next s
  | some k => if flagFree s k then runCmd s id op (flagEffect add) else .next s

/-- FLAG_SET (R496). -/
def execFlagSet (id : Nat) (s : State) : Res := flagCmd false id 0x0303 s

/-- FLAG_ADD (R496). -/
def execFlagAdd (id : Nat) (s : State) : Res := flagCmd true id 0x0304 s

/-- Ends a started FLAG_WAIT whose comparison holds. -/
def flagWaitCheck (s : State) (c : CmdRec) (u : PUnit) : State :=
  let a := fcAddr c.params
  if !(checkFlag 0x0305 (.unit u) c.params).isEmpty then finishCmd s c.id stBadParam (badDetail [])
  else if !flagFree s c then s
  else if anyPoison s a 8 then finishCmd (demand s a 8) c.id stPoisoned (uidOf (placeUnit a))
  else if flagCond (fcCond c.params) (readNat s a 8) (fcValue c.params) then finishCmd s c.id stOk 0
  else s

/-- FLAG_WAIT (R496): starts, and ends once its comparison holds. -/
def execFlagWait (id : Nat) (s : State) : Res :=
  match findCmd s id with
  | none => .next s
  | some c =>
    if hOpcode c.hdr = 0x0305 && c.phase = .started then
      match c.target with
      | .unit u => .next (flagWaitCheck s c u)
      | _ => .next s
    else runCmd s id 0x0305 flagWaitCheck

/-! ### Graphs (R497 to R499) -/

def ndPred (r : BitVec 512) (i : Nat) : Nat := bits r.toNat (511 - 16 * i) (496 - 16 * i)
def ndNpred (r : BitVec 512) : Nat := bits r.toNat 447 445
def ndPreds (r : BitVec 512) : List Nat := (List.range (min (ndNpred r) 4)).map (ndPred r)

/-- The target of a node: a unit of this device, or a group of such units, which behaves as one (R22, R498). -/
def nodeTarget (s : State) (h : BitVec 512) : Option Member :=
  let t := hTarget h
  let local_ := if hFab h then t / 2 ^ 48 = fuidOf s 0 / 2 ^ 48 && bits t 47 32 = 0 else t / 2 ^ 32 = 0
  if !local_ then none
  else if bit t 31 then
    let g := bits t 11 0
    if (groupUidBad s (t % 2 ^ 32)).isEmpty && (expansion s g).all (fun m => match m with | .unit _ => true | _ => false) then some (.group g)
    else none
  else (unitOfUid (t % 2 ^ 32)).map .unit

/-- The kinds of unit that an opcode of a graph may name (R490). -/
def nodeUnitOk (op : Nat) : PUnit → Bool
  | .engine _ e => op = 0x0302 && e = 3
  | .core _ => op = 0x0401
  | .cluster _ => op = 0x0401 || op = 0x0303 || op = 0x0304 || op = 0x0305
  | .die _ => op = 0x0401 || op = 0x0303 || op = 0x0304 || op = 0x0305
  | .device => op = 0x0401
  | _ => false

/-- Whether an opcode of a graph may name a target: a launch and a copy may name a group (R490, R493). -/
def nodeKindOk (s : State) (op : Nat) : Member → Bool
  | .unit u => nodeUnitOk op u
  | .group g => op = 0x0302 || (op = 0x0401 && (expansionUnits s g).all holdsCores)
  | .remote _ => false

/-- Bad fields of node `i` of a graph, as bits of the node, its header lowest (R498). A node has no deadline, so its DLPOL is 0
(R475). -/
def nodeBad (s : State) (i : Nat) (n : BitVec 512 × BitVec 512) : List Nat :=
  let h := n.1
  let op := hOpcode h
  chk (op = 0x0401 || op = 0x0302 || op = 0x0303 || op = 0x0304 || op = 0x0305) 496
    ++ chk (match nodeTarget s h with | some m => nodeKindOk s op m | none => false) 384
    ++ chk (hDeadline h = 0) 256 ++ chk (hTimeout h = 0) 448 ++ chk (hSeqno h = 0) 320 ++ chk (hMvbuf h = 0) 96
    ++ chk (hPmode h = 0 || hPmode h = 3) 482 ++ chk ((hPmode h = 3) == (hPlen h ≠ 0)) 240
    ++ chk (if hPmode h = 3 then hPptr h % 64 = 0 else hPptr h == 0) 160
    ++ chk (bits h.toNat 357 352 = 0) 352 ++ chk (bits h.toNat 63 0 = 0) 0 ++ chk (bits (hFlags h) 15 6 = 0) 486
    ++ chk (!hAbandon h) 481 ++ chk (bits n.2.toNat 444 0 = 0) 512 ++ chk (ndNpred n.2 ≤ 4) (512 + 445)
    ++ (ndPreds n.2).zipIdx.flatMap fun p => chk (p.1 < i) (512 + 496 - 16 * p.2)

/-- Whether node `i` of a graph passes R498. -/
def nodeOk (s : State) (i : Nat) (n : BitVec 512 × BitVec 512) : Bool := (nodeBad s i n).isEmpty

/-- A graph as it stands in device memory; `none` where a word is poisoned. -/
def readGraph (s : State) (a : Nat) : Option (Nat × List (BitVec 512 × BitVec 512)) :=
  let w := fun (p : Nat) => BitVec.ofNat 512 (readNat s p 64)
  if anyPoison s a 64 then none
  else
    let h := w a
    let n := bits h.toNat 511 499
    if anyPoison s a (64 + 128 * n) then none
    else some (h.toNat, (List.range n).map fun i => (w (a + 64 + 128 * i), w (a + 128 + 128 * i)))

/-- The nodes of a graph given as bytes: its header and its nodes. -/
def graphOfBlocks (ps : List (BitVec 512)) : Nat × List (BitVec 512 × BitVec 512) :=
  let h := paramBlock ps 0
  (h, (List.range (bits h 511 499)).map fun i => (ps.getD (1 + 2 * i) 0, ps.getD (2 + 2 * i) 0))

/-- Whether a graph is well formed (R497, R498). -/
def graphOk (s : State) (x : Nat × List (BitVec 512 × BitVec 512)) : Bool :=
  let n := bits x.1 511 499
  1 ≤ n && n ≤ 4096 && bits x.1 498 0 = 0 && x.2.length = n && x.2.zipIdx.all fun y => nodeOk s y.2 y.1

/-- Step 7 of GRAPH_RUN (R497, R498). -/
def checkGraph (s : State) (ps : List (BitVec 512)) : List Nat :=
  let x := graphOfBlocks ps
  let n := bits x.1 511 499
  chk (1 ≤ n && n ≤ 4096) (512 + 499) ++ chk (bits x.1 498 0 = 0) 512
    ++ x.2.zipIdx.flatMap fun y => (nodeBad s y.2 y.1).map (1024 + 1024 * y.2 + ·)

/-- A graph about to run: nodes of EPOCH 0 take their target's epoch now (R498). -/
def startGraph (s : State) (nodes : List (BitVec 512 × BitVec 512)) : GraphRun :=
  let ns := nodes.map fun n =>
    match nodeTarget s n.1 with
    | some m => if hEpoch n.1 = 0 then (memberHdr n.1 (hTarget n.1) (memberEpoch s m).toNat, n.2) else n
    | none => n
  ⟨ns, List.replicate ns.length none, List.replicate ns.length none⟩

/-- The parameters of a node, read from device memory at PPTR, or the status and DETAIL of a read that fails: the range does not
exist or is the sequence engine's own, or a word is poisoned (R313, R355, R472). -/
def nodeParams (s : State) (h : BitVec 512) : (Nat × Nat) ⊕ List (BitVec 512) :=
  let a := hPptr h
  let n := if hPmode h = 3 then hPlen h else 0
  if n = 0 then .inr []
  else if !(inLeaseHbm a (64 * n) || inDieTenant a (64 * n)) || kvProtected s a (64 * n) then .inl (stBadParam, badDetail [160])
  else match firstPoison s a (64 * n) with
    | some l => .inl (stPoisoned, uidOf (placeUnit (l * 64)))
    | none => .inr ((List.range n).map fun i => BitVec.ofNat 512 (readNat s (a + 64 * i) 64))

/-- Blocks of parameters that a node's opcode takes. -/
def nodeLenOk (h : BitVec 512) (ps : List (BitVec 512)) : Bool :=
  match hOpcode h with
  | 0x0401 => 1 ≤ ps.length && ps.length = 1 + ceilDiv (lArglen ps) 64
  | 0x0302 => 1 ≤ ps.length && ps.length ≤ 16
  | _ => ps.length = 1

/-- Why a node's target can do no work: its status and DETAIL (R27, R476). -/
def memberBar (s : State) (m : Member) (epoch : BitVec 16) (accepted : Nat) : Option (Nat × Nat) :=
  match m with
  | .unit u => unitBar s u epoch accepted
  | .group g =>
    if staleFor s m epoch accepted then some (stStaleEpoch, (groupEpoch s g).toNat)
    else if isReady (groupState s g) then none
    else some (stNotReady, groupUid g)
  | .remote _ => none

/-- Starts node `i` of a command's graph as a part of it. -/
def startNode (s : State) (c : CmdRec) (g : GraphRun) (i : Nat) : State :=
  let h := (g.nodes.getD i (0, 0)).1
  match nodeTarget s h with
  | none => s
  | some m =>
    let ps := nodeParams s h
    let s := if hPmode h = 3 then demand s (hPptr h) (64 * hPlen h) else s
    let k := { newCmd s (.sub c.id i) c.role h (match ps with | .inr ps => ps | .inl _ => []) with acceptedAt := now s, target := m, auth := c.auth }
    let s := updCmd (addCmd s k) c.id fun c => { c with graph := some { g with subs := g.subs.set i (some k.id) } }
    match memberBar s m k.epoch k.acceptedAt with
    | some b => finishCmd s k.id b.1 b.2
    | none => match ps with
      | .inl b => finishCmd s k.id b.1 b.2
      | .inr ps => if nodeLenOk h ps then s else finishCmd s k.id stBadParam (badDetail [])

/-- Nodes that may start: every predecessor has completed and no node has failed (R499). -/
def nodesDue (g : GraphRun) : List Nat :=
  let failed := g.res.any fun r => match r with | some x => !completing x.1 | none => false
  if failed then []
  else (List.range g.nodes.length).filter fun i =>
    (g.subs.getD i none).isNone && (ndPreds (g.nodes.getD i (0, 0)).2).all fun p =>
      match g.res.getD p none with | some x => completing x.1 | none => false

/-- Starts the nodes that are due, again while starting one ends another. -/
def pumpGraph (fuel : Nat) (s : State) (id : Nat) : State :=
  match fuel with
  | 0 => s
  | f + 1 =>
    match findCmd s id with
    | none => s
    | some c => match c.graph with
      | none => s
      | some g => match nodesDue g with
        | [] => s
        | i :: _ => pumpGraph f (startNode s c g i) id

/-- The result of a graph all of whose started nodes have ended and that can start no more: the failing node of the lowest
index with its index, or ST_OK (R499). -/
def graphResult (g : GraphRun) : Option (Nat × Nat) :=
  let open_ := (List.range g.nodes.length).any fun i => (g.subs.getD i none).isSome && (g.res.getD i none).isNone
  if open_ || !(nodesDue g).isEmpty then none
  else
    match g.res.findIdx? fun r => match r with | some x => !completing x.1 | none => false with
    | some i => some (((g.res.getD i none).getD (stOk, 0)).1, i)
    | none => some (stOk, 0)

/-- Pumps a command's graph and ends the command with its result. -/
def driveGraph (s : State) (id : Nat) : State :=
  let s := pumpGraph 4097 s id
  match findCmd s id with
  | none => s
  | some c => match c.graph.bind graphResult with
    | some r => finishCmd s id r.1 r.2
    | none => s

/-- GRAPH_RUN (R497 to R499): starts the graph, and goes on each time it is applied until every node has ended. -/
def execGraphRun (id : Nat) (s : State) : Res :=
  match findCmd s id with
  | none => .next s
  | some c =>
    if hOpcode c.hdr = 0x0402 && c.phase = .started && c.graph.isSome then .next (driveGraph s id)
    else runCmd s id 0x0402 fun s c _ =>
      let x := graphOfBlocks c.params
      if graphOk s x then driveGraph (updCmd s id fun k => { k with graph := some (startGraph s x.2) }) id
      else finishCmd s id stBadParam (badDetail [])

end Sys2Proof.Machine
end

