-- ==== Sys2Proof/Machine/Seq.lean ====
section
/-! DEFINITION. Commands of the sequence engine but SEQ_STEP: configuration, contexts, drafts, commits, publication
(11_sequence_engine.md R353 to R359, R378 to R393; 14_command_interface.md R491, R500; 10_attention_and_kv.md R310 to R312).
-/

namespace Sys2Proof.Machine

/-! ### SEQ_CONFIG (R311, R312, R353, R354) -/

def geomOf (ps : List (BitVec 512)) : BitVec 256 := BitVec.ofNat 256 (bits (paramNat ps) 255 0)
def cfgOf (ps : List (BitVec 512)) : BitVec 1024 := BitVec.ofNat 1024 (bits (paramNat ps) 1279 256)

/-- Whether each range lies in the lease HBM and no two of them overlap. -/
def disjointHbm : List Rng → Bool
  | [] => true
  | r :: rs => inLeaseHbm r.lo r.len && !(rs.any (rngOverlap r)) && disjointHbm rs

/-- The bad fields of a geometry record (R312), as bits of the record. -/
def badGeom (g : BitVec 256) : List Nat :=
  chk (1 ≤ gFrames g && gFrames g ≤ 2 ^ 26) 96 ++ chk (1 ≤ gMaxpg g && gMaxpg g ≤ 32768) 80 ++ chk (1 ≤ gLayers g) 72
    ++ chk (gFmt g ≤ 3) 67 ++ chk (gPsize g ≤ 4) 64
    ++ chk (gHdim g ≤ 2) 62 ++ chk (1 ≤ gHkv g && gHkv g ≤ 32) 56 ++ chk (gStg g ≤ 1024) 45 ++ chk (bits g.toNat 44 0 = 0) 0
    ++ chk (gFr g % 4096 = 0) 128 ++ chk (gFp g % pageSize g = 0) 192
    ++ chk (2 * blockBytes g * gHkv g ≤ pageSize g) 56 ++ chk (gStg g * pageSize g ≤ 2 ^ 25) 45
    ++ chk (disjointHbm (kvParts g)) 192

/-- The bad fields of a configuration record (R353, R354), as bits of the record. -/
def badCfg (g : BitVec 256) (c : BitVec 1024) : List Nat :=
  let n := cNnodes c
  let pow := n = 0 || (List.range 11).any fun i => n = 2 ^ (10 + i)
  let lead := unitOfUid (cLead c % 2 ^ 32)
  let leadOk := cLead c = 0 || (bits (cLead c) 47 32 = 0 && bits (cLead c) 62 48 ≤ 24575
    && (match lead with | some (.seqEngine _) => true | _ => false))
  chk (bits c.toNat 794 768 = 0) 768 ++ chk (bits c.toNat 287 0 = 0) 0 ++ chk (cTlbase c % 4096 = 0) 896
    ++ chk (cPtbase c % 4096 = 0 && (n ≠ 0 || cPtbase c = 0)) 832 ++ chk pow 811
    ++ chk (1 ≤ cBudget c && cBudget c ≤ 16384) 796 ++ chk (1 ≤ cDecst c) 544 ++ chk (1 ≤ cPfst c) 512 ++ chk (1 ≤ cDrst c) 480
    ++ chk (inLeaseHbm (cGraph c) 64) 384 ++ chk leadOk 320
    ++ chk (cVbase c % 8 = 0 && (match placeOf (cVbase c) with | some (.die 0 _) => inDieTenant (cVbase c) 532480 | _ => false)) 288
    ++ chk (disjointHbm (kvParts g ++ [logRng g c] ++ (if n = 0 then [] else [prefixRng g c]))) 896

/-- Step 7 of SEQ_CONFIG. -/
def checkSeqConfig (ps : List (BitVec 512)) : List Nat :=
  (badGeom (geomOf ps)).map (512 + ·) ++ (badCfg (geomOf ps) (cfgOf ps)).map (768 + ·)
    ++ rsvBad (paramNat ps) [(1535, 1280)]

/-- Zeros over a range. -/
def zeroFill (s : State) (r : Rng) : State := writeBytes s r.lo (List.replicate r.len 0)

/-- Bits of the configuration record outside the cost model. -/
def fixedCfg (c : BitVec 1024) : Nat := bits c.toNat 1023 768 * 2 ^ 768 + bits c.toNat 447 0

/-- A follower tells the lead that its plans are awaited here; message kind 8. -/
def announce (s : State) (c : BitVec 1024) : State :=
  let me := fuidOf s (uidOf (.seqEngine 0))
  if cLead c = 0 || cLead c = me then s else sendMsg s true (bits (cLead c) 63 48) 8 [me]

/-- The effect of SEQ_CONFIG: its status and the state after (R310, R312, R354, R370). A new cost model waits for the end of a step
in flight. -/
def configSeq (s : State) (ps : List (BitVec 512)) : Nat × State :=
  let g := geomOf ps
  let c := cfgOf ps
  if !(checkSeqConfig ps).isEmpty then (stBadParam, s)
  else match s.seq.geom, s.seq.cfg with
    | some g0, some c0 =>
      if g = g0 && fixedCfg c = fixedCfg c0 then
        (stOk, setSeq s (if s.seq.step.isSome then { s.seq with nextCfg := some c } else { s.seq with cfg := some c, cf := 1024 }))
      else (stBadParam, s)
    | _, _ =>
      let s := zeroFill (zeroFill s ⟨gFr g, 4096 * ceilDiv (8 * gFrames g) 4096⟩) ⟨tableAt g, 1024 * ctxBlock g⟩
      let s := if cNnodes c = 0 then s else zeroFill s (prefixRng g c)
      (stOk, announce (setSeq s { s.seq with geom := some g, cfg := some c, stepNo := 0, cf := 1024, nextFrame := 0 }) c)

/-- SEQ_CONFIG (R354). -/
def execSeqConfig (id : Nat) (s : State) : Res :=
  runCmd s id 0x0501 fun s c _ =>
    let x := configSeq s c.params
    finishCmd x.2 id x.1 (if x.1 = stBadParam then badDetail [] else 0)

/-! ### Commands on a context -/

/-- Runs the effect of a command on its context when its turn has come; a command to a group goes out first. -/
def seqCtxCmd (id op : Nat) (s : State) (also : CmdRec → List Nat)
    (eff : State → CmdRec → BitVec 256 → BitVec 1024 → Nat × Nat × State) : Res :=
  match waiting s id op with
  | none => .next s
  | some k =>
    let go := runCmd s id op fun s c _ =>
      match s.seq.geom, s.seq.cfg with
      | some g, some f =>
        let x := eff s c g f
        finishCmd x.2.2 id x.1 (if x.1 = stBadParam then badDetail [] else if x.1 = stPoisoned then uidOf (.seqEngine 0) else x.2.1)
      | _, _ => finishCmd s id stNotReady (uidOf (.seqEngine 0))
    match k.target with
    | .unit _ => if seqTurn s k (hCtx k.hdr :: also k) false then go else .next s
    | _ => go

/-- What an effect answers that gives no DETAIL. -/
def outcome (x : Nat × State) : Nat × Nat × State := (x.1, 0, x.2)

/-! ### SEQ_CREATE (R356, R357, R381) -/

def ctxImage (ps : List (BitVec 512)) : Nat := paramBlock ps 0
def createSrc (ps : List (BitVec 512)) : Option Nat := if bit (paramBlock ps 1) 10 then some (bits (paramBlock ps 1) 9 0) else none

/-- Step 7 of SEQ_CREATE: RO and reserved fields zero, fields in range. -/
def checkSeqCreate (ps : List (BitVec 512)) : List Nat :=
  let x := ctxImage ps
  rsvBad (paramNat ps) [(511, 502), (501, 499), (475, 464), (351, 320), (319, 256), (255, 224), (223, 192), (191, 166), (165, 160),
      (159, 128), (127, 96), (95, 89), (88, 64), (63, 0), (1023, 523)]
    ++ chk (bits x 498 497 ≠ 3) (512 + 497) ++ chk (bits x 482 476 ≤ 64) (512 + 476) ++ chk (1000 ≤ bits x 463 432) (512 + 432)

/-- A record in IDLE from its image. -/
def imageCtx (x : Nat) : CtxRec :=
  { state := csIdle, vmode := bits x 498 497, recover := bit x 496, apub := bit x 495, sgrp := bits x 494 483
    drmax := bits x 482 476, latns := bits x 463 432, pfns := bits x 431 400, pquota := bits x 399 374
    atquota := bits x 373 352, nextStamp := 0, pfStamp := 0, len := 0, pend := 0, frames := 0, nextTok := 0, misses := 0
    dnodes := 0, lastStep := 0, verified := false, draft := [], former := 0, pfOrder := 0, keepNext := false }

/-- Makes a page of a fork's source shared: its entry then, if it could be, and the state reached (R381). -/
def forkPage (s : State) (g : BitVec 256) (src sgrp : Nat) (lp : Nat × Nat) (x : Nat) : Option Nat × State :=
  if pteShared x then (some x, setFrame s g (pteFrame x) (getFrame s g (pteFrame x) + 2 ^ 4))
  else match publishFrame s g src (pteFrame x) sgrp 2 with
    | (none, s) => (none, s)
    | (some (f, v), s) =>
      let p := mkPte 1 true v sgrp f + b2n (ptePoisoned x) * 2 ^ 59
      (some p, writePte s g src lp.1 (some lp.2) p)

/-- Publishes every page of a source without a node and gives the new context its entries (R381). Whether it could be done, and the
state reached. -/
def forkPages (s : State) (g : BitVec 256) (src dst sgrp : Nat) : Bool × State :=
  (ctxPages g).foldl (fun (o : Bool × State) lp =>
    let x := readPte o.2 g src lp.1 (some lp.2)
    if !o.1 then o
    else if pteState x = 1 then
      match forkPage o.2 g src sgrp lp x with
      | (none, s) => (false, s)
      | (some y, s) => (true, charge (writePte s g dst lp.1 (some lp.2) (y - b2n (pteStaged y) * 2 ^ 58)) dst 1)
    else (true, if pteState x = 0 then o.2 else writePte o.2 g dst lp.1 (some lp.2) x)) (true, s)

/-- Pages of a context that are VALID. -/
def validPages (s : State) (g : BitVec 256) (c : Nat) : Nat :=
  ((ctxPages g).filter fun lp => pteState (readPte s g c lp.1 (some lp.2)) = 1).length

/-- What a fork takes from its source: the record after, in the source's state. A draft is not shared: a fork of a context that
speculates has one of no nodes (R381). -/
def forkCtx (r x : CtxRec) : CtxRec :=
  { r with state := x.state, len := x.len, pend := x.pend, nextTok := x.nextTok, nextStamp := x.nextStamp
           pfStamp := x.pfStamp, former := x.former, pfOrder := x.pfOrder, keepNext := x.keepNext, verified := x.verified }

/-- The effect of SEQ_CREATE. -/
def createCtx (s : State) (c : CmdRec) (g : BitVec 256) (f : BitVec 1024) : Nat × State :=
  let ctx := hCtx c.hdr
  let r := imageCtx (ctxImage c.params)
  if (getCtx s ctx).isSome then (stBadParam, s)
  else match createSrc c.params with
    | none => (stOk, setCtx s ctx (some r))
    | some src => match getCtx s src with
      | none => (stBadParam, s)
      | some x =>
        let n := forkCtx r x
        if r.sgrp = 0 || x.sgrp ≠ r.sgrp then (stBadParam, s)
        else if validPages s g src > r.pquota || !admits s g f ctx n then (stNoResource, s)
        else
          let k := x.len + x.pend
          let s := demand s (logAddr g f src 0) (4 * k)
          if anyPoison s (logAddr g f src 0) (4 * k) || logLost s g f ctx 0 k then (stPoisoned, s)
          else match forkPages (setCtx s ctx (some n)) g src ctx r.sgrp with
          | (false, t) => (stNoResource, keepRetired s t g)
          | (true, s) => (stOk, writeLog s g f ctx 0 (readLog s g f src 0 k))

/-- SEQ_CREATE (R357, R381). -/
def execSeqCreate (id : Nat) (s : State) : Res :=
  seqCtxCmd id 0x0502 s (fun k => (createSrc k.params).toList) fun s c g f => outcome (createCtx s c g f)

/-! ### SEQ_PREFILL (R357, R364, R380) -/

def pfCount (ps : List (BitVec 512)) : Nat := bits (paramNat ps) 31 0
def pfToks (ps : List (BitVec 512)) : List Nat :=
  (List.range (pfCount ps)).map fun i => bits (paramNat ps) (512 + 32 * i + 31) (512 + 32 * i)

/-- Whether the bytes of a parameter block from an offset on are zero. -/
def tailZero (ps : List (BitVec 512)) (off : Nat) : Bool := paramNat ps / 2 ^ (8 * off) = 0

/-- Step 7 of SEQ_PREFILL. -/
def checkSeqPrefill (ps : List (BitVec 512)) : List Nat :=
  chk (1 ≤ pfCount ps && pfCount ps ≤ 2 ^ 21) 512 ++ rsvBad (paramNat ps) [(511, 32)]
    ++ chk (tailZero ps (64 + 4 * min (pfCount ps) (2 ^ 21))) 0xFFFF

/-- The record of a context with a prompt appended, where its state and room allow (R357, R500). -/
def appended (g : BitVec 256) (r : CtxRec) (n at_ order : Nat) : Option CtxRec :=
  if (r.state = csIdle || r.state = csDecode || r.state = csPrefill) && 1 ≤ n && n ≤ gMaxpg g * 64 - r.len - r.pend then
    some { r with state := csPrefill, pend := r.pend + n, pfStamp := at_, pfOrder := order
                  keepNext := r.keepNext && r.state = csPrefill }
  else none

/-- The state with the prompt appended and its tokens logged, before any block is shared. -/
def logPrompt (s : State) (g : BitVec 256) (f : BitVec 1024) (ctx : Nat) (r r' : CtxRec) (toks : List Nat) : State :=
  setCtx (writeLog s g f ctx (r.len + r.pend) toks) ctx (some r')

/-- What SEQ_PREFILL answers before it changes anything, and the nodes its blocks hit (R364, R380, R384). -/
def preparePrefill (s : State) (g : BitVec 256) (f : BitVec 1024) (c : CmdRec) : Nat × List Nat :=
  let ctx := hCtx c.hdr
  let toks := pfToks c.params
  match getCtx s ctx with
  | none => (stBadParam, [])
  | some r => match appended g r toks.length c.acceptedAt c.id with
    | none => (stBadParam, [])
    | some r' =>
      if !admits s g f ctx r' then (stNoResource, [])
      else if logLost s g f ctx (r.len + r.pend) toks.length then (stPoisoned, [])
      else
        let ns := if r'.len = 0 then prefixHits (logPrompt s g f ctx r r' toks) g f ctx r.sgrp r'.pend else []
        if r.frames + hitFrames s g ctx ns.length > r.pquota then (stNoResource, []) else (stOk, ns)

/-- Appends the prompt and shares the first `hits` of its blocks. -/
def commitPrefill (s : State) (g : BitVec 256) (f : BitVec 1024) (c : CmdRec) (ns : List Nat) : State :=
  let ctx := hCtx c.hdr
  let toks := pfToks c.params
  match getCtx s ctx with
  | none => s
  | some r => match appended g r toks.length c.acceptedAt c.id with
    | none => s
    | some r' => takeHits (logPrompt s g f ctx r r' toks) g f ctx r.sgrp ns

/-- The effect of SEQ_PREFILL on one sequence engine. -/
def prefillCtx (s : State) (c : CmdRec) (g : BitVec 256) (f : BitVec 1024) : Nat × State :=
  let x := preparePrefill s g f c
  if x.1 = stOk then (stOk, commitPrefill s g f c x.2) else (x.1, s)

/-! ### SEQ_DRAFT (R385) -/

def drCount (ps : List (BitVec 512)) : Nat := bits (paramNat ps) 7 0
def drNode (ps : List (BitVec 512)) (i : Nat) : BitVec 128 := BitVec.ofNat 128 (bits (paramNat ps) (512 + 128 * i + 127) (512 + 128 * i))

/-- Step 7 of SEQ_DRAFT. -/
def checkSeqDraft (ps : List (BitVec 512)) : List Nat :=
  chk (1 ≤ drCount ps && drCount ps ≤ 64) 512 ++ rsvBad (paramNat ps) [(511, 8)] ++ chk (tailZero ps (64 + 16 * drCount ps)) 0xFFFF
    ++ (List.range (min (drCount ps) 64)).flatMap fun i => chk (bits (drNode ps i).toNat 87 64 = 0) (1024 + 128 * i + 64)

/-- Whether a node's fields suit its place and the context's VMODE. -/
def draftNodeOk (vmode i : Nat) (x : BitVec 128) : Bool :=
  let parent := if vmode = 2 then (if i = 0 then dnParent x = 0xFF else dnParent x = i - 1) else dnParent x = 0xFF || dnParent x < i
  let q := match fDecode fmt32 (dnQ x) with | .fin sg m _ => !sg && m ≠ 0 | _ => false
  let u := match fDecode fmt32 (dnU x) with
    | .fin sg m e => !sg && (m = 0 || magCmp m e 1 0 == .lt)
    | _ => false
  parent && (if vmode = 2 then q && u else dnQ x = 0 && dnU x = 0)

/-- Allocates the sprout frames of a context (R385). Whether it could be done, and the state reached. -/
def allocSprouts (s : State) (g : BitVec 256) (ctx : Nat) : Bool × State :=
  (List.range (gLayers g)).foldl (fun (o : Bool × State) l =>
    if !o.1 then o
    else match allocFrame o.2 g ctx with
      | (none, s) => (false, s)
      | (some f, s) => (true, charge (writePte s g ctx l none (mkPte 2 false (frVer (getFrame s g f)) 0 f)) ctx 1)) (true, s)

/-- The effect of SEQ_DRAFT. -/
def draftCtx (s : State) (c : CmdRec) (g : BitVec 256) : Nat × State :=
  let ctx := hCtx c.hdr
  let n := drCount c.params
  let nodes := (List.range n).map (drNode c.params)
  match getCtx s ctx with
  | none => (stBadParam, s)
  | some r =>
    if r.state ≠ csDecode || n > r.drmax || n = 0 || !(nodes.zipIdx.all fun x => draftNodeOk r.vmode x.2 x.1) then (stBadParam, s)
    else if r.frames + gLayers g > r.pquota then (stNoResource, s)
    else match allocSprouts s g ctx with
      | (false, t) => (stNoResource, keepRetired s t g)
      | (true, s) => (stOk, updCtx s ctx fun r => { r with state := csSpec, dnodes := n, draft := nodes, verified := false })

/-- SEQ_DRAFT (R385). -/
def execSeqDraft (id : Nat) (s : State) : Res :=
  seqCtxCmd id 0x0506 s (fun _ => []) fun s c g _ => outcome (draftCtx s c g)

/-! ### SEQ_COMMIT and SEQ_RETRACT (R388 to R390) -/

def cmNext (ps : List (BitVec 512)) : Nat := bits (paramNat ps) 31 0
def cmCount (ps : List (BitVec 512)) : Nat := bits (paramNat ps) 39 32
def cmPath (ps : List (BitVec 512)) : List Nat :=
  (List.range (cmCount ps)).map fun i => bits (paramNat ps) (512 + 8 * i + 7) (512 + 8 * i)

/-- Step 7 of SEQ_COMMIT. -/
def checkSeqCommit (ps : List (BitVec 512)) : List Nat :=
  chk (1 ≤ cmCount ps && cmCount ps ≤ 64) (512 + 32) ++ rsvBad (paramNat ps) [(511, 40)] ++ chk (tailZero ps (64 + cmCount ps)) 0xFFFF

/-- Step 7 of SEQ_RETRACT. -/
def checkSeqRetract (ps : List (BitVec 512)) : List Nat := rsvBad (paramNat ps) [(511, 32)]

/-- The path that a commit or a retract carries. -/
def cmdPath (c : CmdRec) : List Nat := if hOpcode c.hdr = 0x0507 then cmPath c.params else []

/-- Whether the context's state allows the command (R357). -/
def commitState (c : CmdRec) (r : CtxRec) : Bool :=
  r.state = csSpec && (hOpcode c.hdr ≠ 0x0507 || r.verified && r.vmode = 0)

/-- What SEQ_COMMIT or SEQ_RETRACT answers before it changes anything. -/
def prepareCommit (s : State) (g : BitVec 256) (c : CmdRec) : Nat :=
  match getCtx s (hCtx c.hdr) with
  | none => stBadParam
  | some r => if commitState c r then commitCheck s g (hCtx c.hdr) r (cmdPath c) else stBadParam

/-- The effect of SEQ_COMMIT or SEQ_RETRACT on one sequence engine. -/
def commitCtx (s : State) (c : CmdRec) (g : BitVec 256) (f : BitVec 1024) : Nat × State :=
  let st := prepareCommit s g c
  if st ≠ stOk then (st, s) else commitPath s g f (hCtx c.hdr) (cmdPath c) (cmNext c.params)

/-! ### Suspend, resume, evict, destroy (R357, R393) -/

/-- SEQ_DESTROY: every frame released, the record cleared. -/
def destroyCtx (s : State) (ctx : Nat) (g : BitVec 256) : Nat × State :=
  match getCtx s ctx with
  | none => (stBadParam, s)
  | some _ =>
    let s := releasePages (retractDraft s g ctx) g ctx 0
    (stOk, setCtx s ctx none)

/-- SEQ_DESTROY (R357). -/
def execSeqDestroy (id : Nat) (s : State) : Res :=
  seqCtxCmd id 0x0503 s (fun _ => []) fun s c g _ => outcome (destroyCtx s (hCtx c.hdr) g)

/-- SEQ_SUSPEND: sprouts retracted, pages kept. -/
def suspendCtx (s : State) (ctx : Nat) (g : BitVec 256) : Nat × State :=
  match getCtx s ctx with
  | none => (stBadParam, s)
  | some r =>
    if !admitted r then (stBadParam, s)
    else (stOk, updCtx (retractFirst s g ctx) ctx fun r => { r with former := r.state, state := csSuspended })

/-- SEQ_SUSPEND (R357). -/
def execSeqSuspend (id : Nat) (s : State) : Res :=
  seqCtxCmd id 0x0509 s (fun _ => []) fun s c g _ => outcome (suspendCtx s (hCtx c.hdr) g)

/-- SEQ_RESUME: back to the former state, or recomputation. -/
def resumeCtx (s : State) (ctx : Nat) (g : BitVec 256) (f : BitVec 1024) : Nat × State :=
  match getCtx s ctx with
  | none => (stBadParam, s)
  | some r =>
    if r.state = csSuspended then
      let r' := { r with state := r.former }
      if admits s g f ctx r' then (stOk, setCtx s ctx (some r')) else (stNoResource, s)
    else if r.state = csEvicted || r.state = csDamaged then recoverCtx s g f ctx
    else (stBadParam, s)

/-- SEQ_RESUME (R357, R393). -/
def execSeqResume (id : Nat) (s : State) : Res :=
  seqCtxCmd id 0x050A s (fun _ => []) fun s c g f => outcome (resumeCtx s (hCtx c.hdr) g f)

/-- SEQ_EVICT: frames released, entries EVICTED, the token log kept. -/
def evictCtx (s : State) (ctx : Nat) (g : BitVec 256) : Nat × State :=
  match getCtx s ctx with
  | none => (stBadParam, s)
  | some r =>
    if !(admitted r || r.state = csSuspended) then (stBadParam, s)
    else (stOk, updCtx (releasePages (retractFirst s g ctx) g ctx 3) ctx fun r => { r with state := csEvicted })

/-- SEQ_EVICT (R357). -/
def execSeqEvict (id : Nat) (s : State) : Res :=
  seqCtxCmd id 0x050B s (fun _ => []) fun s c g _ => outcome (evictCtx s (hCtx c.hdr) g)

/-! ### PREFIX_PUBLISH (R382) -/

def pubCount (ps : List (BitVec 512)) : Nat := bits (paramNat ps) 15 0

/-- Step 7 of PREFIX_PUBLISH. -/
def checkPrefixPublish (ps : List (BitVec 512)) : List Nat := rsvBad (paramNat ps) [(511, 16)]

/-- PREFIX_PUBLISH (R382). A publication that ends early keeps the blocks it has placed. -/
def execPrefixPublish (id : Nat) (s : State) : Res :=
  seqCtxCmd id 0x050C s (fun _ => []) fun s c g f =>
    match getCtx s (hCtx c.hdr) with
    | none => (stBadParam, 0, s)
    | some r =>
      if !(admitted r || r.state = csSuspended) then (stBadParam, 0, s)
      else
        let x := publishFrom (pubCount c.params) s g f (hCtx c.hdr) 0 0 none
        if x.2.1 then (stNoResource, x.1, x.2.2) else (stOk, 0, x.2.2)

end Sys2Proof.Machine
end

