-- ==== Sys2Proof/Machine/SeqStep.lean ====
section
/-! DEFINITION. Steps of the sequence engine: plans, SEQ_STEP, STEPGRAPH's end, plans of a set of devices, run-ahead
prefetch (11_sequence_engine.md R360 to R377, R386 to R388, R391; 14_command_interface.md R501). -/

namespace Sys2Proof.Machine

/-! ### Work of a plan entry (R361, R363, R367) -/

def kDecode : Nat := 0
def kPrefill : Nat := 1
def kVerify : Nat := 2

/-- The work of an entry. -/
def entryWork (g : BitVec 256) (e : PlanEnt) : Work :=
  let l := gLayers g
  let pages := e.pos / 64 + 1
  if e.kind = kPrefill then
    let att := ((List.range e.nt).map fun i => (e.pos + i) / 64 + 1).foldl (· + ·) 0
    ⟨0, e.nt, 0, att * l, ((e.pos + e.nt - 1) / 64 + 1) * l⟩
  else ⟨1, 0, e.nnode, (1 + e.nnode) * pages * l, pages * l⟩

/-- One past the last position whose page an entry may open: a self-verify may commit its whole draft (R360, R367). -/
def entryEnd (r : CtxRec) (e : PlanEnt) : Nat :=
  if e.kind = kPrefill then e.pos + e.nt
  else if e.kind = kVerify && r.vmode ≠ 0 then e.pos + 1 + e.nnode
  else e.pos + 1

/-- Frames an entry takes, and those charged anew. -/
def entryFrames (s : State) (g : BitVec 256) (r : CtxRec) (e : PlanEnt) : Nat × Nat := writeFrames s g e.ctx e.pos (entryEnd r e)

/-- Whether an entry would take its context past PQUOTA or MAXPG * 64 positions (R359, R367). -/
def entryFull (s : State) (g : BitVec 256) (r : CtxRec) (e : PlanEnt) : Bool :=
  entryEnd r e > gMaxpg g * 64 || r.frames + (entryFrames s g r e).2 > r.pquota

/-- The decode or verify entry of a context, where it has such work (R361). -/
def decodeEntry (c : Nat) (r : CtxRec) : Option PlanEnt :=
  if r.state = csDecode then some ⟨c, kDecode, 0, r.len, 1⟩
  else if r.state = csSpec && !r.verified then some ⟨c, kVerify, r.dnodes, r.len, 1 + r.dnodes⟩
  else none

/-- Chunk ends of a prefill from the largest down (R366). -/
def chunkEnds (r : CtxRec) : List Nat :=
  let e0 := min (r.len + r.pend) ((r.len + 512) / 64 * 64)
  ((List.range 9).map fun k => e0 - 64 * k).filter fun e => e > r.len && e ≤ e0 && r.len + 512 ≥ e

def chunkEntry (c : Nat) (r : CtxRec) (e : Nat) : PlanEnt := ⟨c, kPrefill, 0, r.len, e - r.len⟩

/-! ### Forming a plan (R365 to R368) -/

/-- A plan in the making: entries in the order they were included, their work, the earliest deadline, contexts left out
as full. -/
structure Draft where
  ents : List PlanEnt
  work : Work
  earliest : Option Nat
  full : List Nat
  deriving DecidableEq, Repr

def minDeadline (a : Option Nat) (d : Nat) : Option Nat :=
  if d = 0 then a else match a with | none => some d | some x => some (min x d)

/-- Adds an entry. -/
def Draft.put (p : Draft) (g : BitVec 256) (r : CtxRec) (e : PlanEnt) : Draft :=
  { p with ents := p.ents ++ [e], work := p.work.add (entryWork g e), earliest := minDeadline p.earliest (ctxDeadline r) }

/-- The decode and verify work (R361, R365 step 1, R367). -/
def decodeDraft (s : State) (g : BitVec 256) : Draft :=
  (ctxList s).foldl (fun p c => match getCtx s c with
    | none => p
    | some r => match decodeEntry c r with
      | none => p
      | some e => if heldCtx s c then p else if entryFull s g r e then { p with full := p.full ++ [c] } else p.put g r e) ⟨[], .zero, none, []⟩

/-- Whether a finish is no later than a deadline, none or 0 meaning no deadline. -/
def byTime (t : Nat) (d : Option Nat) : Bool := match d with | none => true | some x => x = 0 || t ≤ x

/-- Whether a chunk may join a plan (R365 step 3). -/
def chunkFits (s : State) (g : BitVec 256) (f : BitVec 1024) (floor header : Nat) (p : Draft) (r : CtxRec) (e : PlanEnt) : Bool :=
  let w := p.work.add (entryWork g e)
  workTokens w ≤ cBudget f && withinAt f r (entryWork g e) && !entryFull s g r e && match predict f w floor s.seq.cf with
    | none => false
    | some t => byTime (now s + t) p.earliest && byTime (now s + t) (some header)

/-- Prefill contexts in the order of R365 step 2. -/
def prefillOrder (s : State) : List Nat :=
  let key := fun c => match getCtx s c with
    | some r => if ctxDeadline r ≠ 0 then (0, ctxDeadline r, c) else (1, r.pfOrder, c)
    | none => (2, 0, c)
  let le := fun (a b : Nat × Nat × Nat) => a.1 < b.1 || (a.1 = b.1 && (a.2.1 < b.2.1 || (a.2.1 = b.2.1 && a.2.2 ≤ b.2.2)))
  let cs := (ctxList s).filter fun c => match getCtx s c with | some r => r.state = csPrefill && !heldCtx s c | none => false
  cs.mergeSort fun a b => le (key a) (key b)

/-- Adds the chunks that fit (R365 steps 2 to 4). -/
def addChunks (s : State) (g : BitVec 256) (f : BitVec 1024) (floor header : Nat) (p : Draft) : Draft :=
  (prefillOrder s).foldl (fun p c => match getCtx s c with
    | none => p
    | some r =>
      let es := (chunkEnds r).map (chunkEntry c r)
      if es.all (entryFull s g r) then { p with full := p.full ++ [c] }
      else match es.find? (chunkFits s g f floor header p r) with
        | some e => p.put g r e
        | none => p) p

/-- Frames that entries take. -/
def framesOf (s : State) (g : BitVec 256) (es : List PlanEnt) : Nat :=
  (es.map fun e => match getCtx s e.ctx with | some r => (entryFrames s g r e).1 | none => 0).foldl (· + ·) 0

/-- Evicts leaf nodes until the pool can supply some frames beyond those reserved, or none is left (R367 step 1). -/
def supply (fuel : Nat) (s : State) (g : BitVec 256) (f : BitVec 1024) (need : Nat) : State :=
  match fuel with
  | 0 => s
  | k + 1 =>
    if freeCount s g ≥ need + reserveSum s then s
    else match evictLeaf s g f with
      | none => s
      | some s => supply k s g f need

/-- Drops entries from the end of a list until those before them and the rest can be supplied. -/
def trim (fuel : Nat) (s : State) (g : BitVec 256) (room : Nat) (keep : List PlanEnt) (es : List PlanEnt) : List PlanEnt :=
  match fuel with
  | 0 => es
  | k + 1 => if es.isEmpty || framesOf s g (keep ++ es) ≤ room then es else trim k s g room keep es.dropLast

/-- The plan a pool can supply: chunks go first, last included first, then decode and verify work in descending CTX; and the
contexts left out for want of frames (R367). -/
def fitPool (s : State) (g : BitVec 256) (es : List PlanEnt) : List PlanEnt × List Nat :=
  let room := freeCount s g - reserveSum s
  let dec := es.filter fun e => e.kind ≠ kPrefill
  let pf := es.filter fun e => e.kind = kPrefill
  let pf := trim 1025 s g room dec pf
  let kept := if pf.isEmpty then trim 1025 s g room [] dec else dec
  (kept ++ pf, (dec.drop kept.length).map (·.ctx))

def sortPlan (es : List PlanEnt) : List PlanEnt := es.mergeSort fun a b => a.ctx ≤ b.ctx

/-- Reserves the frames of a plan's contexts (R367). -/
def reservePlan (s : State) (g : BitVec 256) (es : List PlanEnt) : State :=
  es.foldl (fun s e => match getCtx s e.ctx with
    | none => s
    | some r =>
      let n := (entryFrames s g r e).1
      setSeq s { s.seq with reserve := smapSet 0 s.seq.reserve e.ctx (smapGet 0 s.seq.reserve e.ctx + n) }) s

/-- Events of the sequence engine on a command: written after its host writes (R303). -/
def noteEvents (s : State) (id : Nat) (es : List (Nat × Nat × Nat)) : State :=
  updCmd s id fun c => { c with evs := c.evs ++ es }

/-- One CTX_FULL event for each context left out as full (R367). -/
def fullEvents (s : State) (id : Nat) (cs : List Nat) : State := noteEvents s id (cs.map fun c => (0x0006, c, 0))

/-- A recovery is tried, before a plan is formed, of every damaged context whose policy is RECOVER (R393). -/
def recoverAll (s : State) (g : BitVec 256) (f : BitVec 1024) : State :=
  (ctxList s).foldl (fun s c => match getCtx s c with
    | some r => if r.state = csDamaged && r.recover then
        (recoverCtx s g f c).2
      else s
    | none => s) s

/-! ### Plans as bytes (R373, R374) -/

def planHdr (stepNo nent ntok pred : Nat) : Nat :=
  stepNo % 2 ^ 64 * 2 ^ 448 + nent * 2 ^ 432 + ntok * 2 ^ 416 + min pred (2 ^ 32 - 1) * 2 ^ 384

def planEnt (e : PlanEnt) : Nat :=
  e.ctx * 2 ^ 118 + e.kind * 2 ^ 115 + e.nnode * 2 ^ 108 + e.pos * 2 ^ 64 + e.nt * 2 ^ 48

def planToks (es : List PlanEnt) : Nat := (es.map (·.nt)).foldl (· + ·) 0

/-- A plan as its header and entries. -/
def planWords (stepNo pred : Nat) (es : List PlanEnt) : List Nat := planHdr stepNo es.length (planToks es) pred :: es.map planEnt

def planBytes (ws : List Nat) : List Byte := leBytes 64 (ws.headD 0) ++ ws.tail.flatMap (leBytes 16)

/-- An entry as it stands in a plan; none where a reserved field is not zero. -/
def parseEnt (x : Nat) : Option PlanEnt :=
  if bits x 107 96 ≠ 0 || bits x 47 0 ≠ 0 then none else some ⟨bits x 127 118, bits x 117 115, bits x 114 108, bits x 95 64, bits x 63 48⟩

/-- Whether an entry is eligible work of its context as it stands (R361, R366, R374). -/
def entryOk (s : State) (e : PlanEnt) : Bool :=
  match getCtx s e.ctx with
  | none => false
  | some r =>
    if e.kind = kPrefill then r.state = csPrefill && e.nnode = 0 && e.pos = r.len && ((chunkEnds r).any fun x => chunkEntry e.ctx r x = e)
    else decodeEntry e.ctx r = some e

/-- Whether keys rise strictly. -/
def rising : List Nat → Bool
  | a :: b :: xs => a < b && rising (b :: xs)
  | _ => true

/-- A plan from outside: its entries, or the status that refuses it (R374). The number of a lead's plan is the lead's. -/
def takePlan (s : State) (g : BitVec 256) (f : BitVec 1024) (ws : List Nat) (host : Bool) : Nat ⊕ List PlanEnt :=
  let h := ws.headD 0
  let n := bits h 447 432
  let es := (ws.tail.take n).filterMap parseEnt
  let quota := es.all fun e => match getCtx s e.ctx with
    | some r => !entryFull s g r e && withinAt f r (entryWork g e)
    | none => false
  if n > 1024 || es.length ≠ n || (host && bits h 511 448 ≠ (s.seq.stepNo + 1) % 2 ^ 64) || bits h 383 0 ≠ 0
      || (host && bits h 415 384 ≠ 0) || bits h 431 416 ≠ planToks es || !rising (es.map (·.ctx)) || !es.all (entryOk s) then .inl stBadParam
  else if !quota || planToks es > cBudget f then .inl stNoResource
  else .inr es

/-! ### The end of a step (R346, R362, R369, R370, R372, R377) -/

/-- The rows of the tree bitmap of a draft (R346). -/
def treeBitmap (parents : List Nat) : List Nat :=
  parents.zipIdx.foldl (fun rows pi => rows ++ [(if pi.1 = 0xFF then 0 else rows.getD pi.1 0) ||| 2 ^ pi.2]) []

/-- The tree bitmaps of the self-verify entries of a plan, for their sprout tiles (R346). Where the engine puts their rows for the
mask reader, the manual does not say; the model holds them with the step (DESIGN CHOICE, log entry 114). -/
def planBitmaps (s : State) (es : List PlanEnt) : List (Nat × List Nat) :=
  es.filterMap fun e => match getCtx s e.ctx with
    | some r => if e.kind = kVerify && r.vmode ≠ 0 then some (e.ctx, treeBitmap (r.draft.map dnParent)) else none
    | none => none

/-- One step output entry (R377). -/
def outEntry (s : State) (c st nacc : Nat) : List Byte :=
  let r := getCtx s c
  let next := match r with | some r => r.nextTok | none => 0
  let len := match r with | some r => r.len | none => 0
  leBytes 16 (c * 2 ^ 118 + st * 2 ^ 96 + next * 2 ^ 64 + nacc * 2 ^ 57 + len)

/-- The cause of a DEADLINE_MISS: 0 BREACH, 1 LATE_START, 2 REPLAY, 3 MODEL (R369). -/
def missCause (s : State) (r : StepRun) (f : BitVec 1024) (deadline : Nat) : Nat :=
  if s.pace.breachSeen then 0 else if r.startAt + r.decPred > deadline then 1 else if r.replayNs > cRplns f then 2 else 3

/-- The correction factor after a MODEL miss (R370). -/
def raiseCf (cf actual pred : Nat) : Nat := min 4096 (max cf (ceilDiv (1024 * actual) (max pred 1)))

/-- Contexts that a step finished at an instant has kept past their deadline, with that deadline (R369). -/
def lateIn (done : List StepRes) (t : Nat) : List (Nat × Nat) :=
  done.filterMap fun x => if x.deadline ≠ 0 && t > x.deadline then some (x.ctx, x.deadline) else none

/-- Takes the instant at which a step finished into its contexts: when each NEXT that it set became available, and the deadlines
missed (R362, R369). -/
def stampStep (s : State) (done : List StepRes) (t : Nat) : State :=
  let s := done.foldl (fun s x => if x.sampled then updCtx s x.ctx fun r => { r with nextStamp := t } else s) s
  (lateIn done t).foldl (fun s l => updCtx s l.1 fun r => { r with misses := min (r.misses + 1) (2 ^ 32 - 1) }) s

/-- The report of deadlines missed in a step with its cause, and the factor of the fits (R369, R370). -/
def noteMissed (s : State) (f : BitVec 1024) (r : StepRun) (late : List (Nat × Nat)) : State :=
  match late with
  | [] => s
  | l :: ls =>
    let d := ls.foldl (fun a y => min a y.2) l.2
    let k := missCause s r f d
    let s := noteEvents s r.cmd [(0x0005, k, r.stepNo)]
    if k = 3 && !cMirror f then setSeq s { s.seq with cf := raiseCf s.seq.cf (now s - r.startAt) r.predicted } else s

def spOutbuf (ps : List (BitVec 512)) : Nat := bits (paramBlock ps 0) 511 448
def spOutdev (ps : List (BitVec 512)) : Bool := bit (paramBlock ps 0) 447

/-- Sends a step's output entries (R377). -/
def sendOutputs (s : State) (id : Nat) (bs : List Byte) : State :=
  match findCmd s id with
  | none => s
  | some c =>
    if bs.isEmpty then s
    else
      let s := updCmd s id fun k => { k with stepOut := bs }
      if spOutdev c.params then writeBytes s (spOutbuf c.params) bs else hostWriteCmd s c (spOutbuf c.params) bs

/-- The output entries of a step that has finished now, in ascending CTX (R369, R377). -/
def stepOutputs (s : State) (r : StepRun) : List Byte :=
  let late := lateIn r.done (now s)
  let outs := (r.done.map fun x => (x.ctx, (if late.any fun y => y.1 = x.ctx then stDeadlineMissed else stOk), x.nacc))
    ++ r.omitted.map fun k => (k, stNoResource, 0)
  (outs.mergeSort fun a b => a.1 ≤ b.1).flatMap fun (o : Nat × Nat × Nat) => outEntry s o.1 o.2.1 o.2.2

/-- Finishes a step of this device whose results stand: stamps, outputs, and missed deadlines; its status with them (R362, R369,
R377). -/
def judgeStep (s : State) (f : BitVec 1024) (r : StepRun) (st : Nat) : Nat × State :=
  let late := lateIn r.done (now s)
  let s := stampStep s r.done (now s)
  let s := sendOutputs s r.cmd (stepOutputs s r)
  (if late.isEmpty then st else stDeadlineMissed, noteMissed s f r late)

/-- The worst of two replies of a set: one that did not complete, the earlier first; else a missed deadline, else a replay.
-/
def worseReply (a b : Nat × Nat) : Nat × Nat :=
  if !completing a.1 then a
  else if !completing b.1 then b
  else
    let st := if a.1 = stDeadlineMissed || b.1 = stDeadlineMissed then stDeadlineMissed
      else if a.1 = stGuardReplayed || b.1 = stGuardReplayed then stGuardReplayed else stOk
    (st, guardJoin a.2 b.2)

/-- What a follower reported, unpacked. -/
def unpackReport (x : Nat) : Nat × Nat := (x % 256, x / 256)

/-- Ends a step here with a result. A lead waits for its followers, tells them when the step finished (kind 17) and replies with the
worst of the set; a follower keeps its results until it is told (R362, R369, R372). -/
def closeStep (s : State) (st detail : Nat) : State :=
  match s.seq.step, s.seq.cfg with
  | some r, some f =>
    if r.lead.isSome then
      endStep (setSeq s { s.seq with closing := if completing st then some (r.stepNo, r.done) else none }) st detail
    else if r.followers.any fun x => x.2.isNone then setSeq s { s.seq with step := some { r with ended := some (st, detail) } }
    else
      let x := if completing st then judgeStep s f r st else (st, s)
      let rs := r.followers.map fun x => (x.1, unpackReport (x.2.getD 0))
      let w := rs.foldl (fun a x => worseReply a x.2) (x.1, detail)
      let s := rs.foldl (fun s x => sendMsg s true (x.1 / 2 ^ 48) 17 [fuidOf s (uidOf (.seqEngine 0)), r.stepNo, now s]) x.2
      let s := updCmd s r.cmd fun k => { k with
        fan := rs.map fun x => (.remote x.1, memberEpoch s (.remote x.1))
        parts := rs.zipIdx.map fun x => (x.2, x.1.2) }
      endStep s w.1 w.2
  | _, _ => s

/-- The lead tells a follower when a step finished (R362, R369). -/
def stepClosed (s : State) (lead stepNo t : Nat) : State :=
  match s.seq.closing, s.seq.cfg with
  | some (n, done), some f =>
    if cLead f = lead && n = stepNo then stampStep (setSeq s { s.seq with closing := none }) done t else s
  | _, _ => s

/-! ### Starting a step (R360, R372, R501) -/

def spPlandev (ps : List (BitVec 512)) : Bool := bit (paramBlock ps 0) 446
def spPlandst (ps : List (BitVec 512)) : Nat := bits (paramBlock ps 0) 415 384
def spPlan (ps : List (BitVec 512)) : Nat := bits (paramBlock ps 0) 383 320

/-- A range of the die store window of the local address map as a device address of die 0, in its tenant part. -/
def planAt (a n : Nat) : Option Nat :=
  if 0x20000000 ≤ a && a - 0x20000000 + n ≤ dieTenantEnd then some (dieStoreAt 0 + (a - 0x20000000)) else none

/-- Step 7 of SEQ_STEP. -/
def checkSeqStep (s : State) (ps : List (BitVec 512)) : List Nat :=
  let mir := match s.seq.cfg with | some f => cMirror f | none => true
  rsvBad (paramNat ps) [(445, 416), (319, 0)] ++ chk (spPlandst ps % 64 = 0 && (planAt (spPlandst ps) 64).isSome) (512 + 384)
    ++ chk (mir || spPlan ps = 0) (512 + 320)

/-- Whether a lead is this device: LEAD 0, or its own sequence engine (R372). -/
def isLead (s : State) (f : BitVec 1024) : Bool := cLead f = 0 || cLead f = fuidOf s (uidOf (.seqEngine 0))

/-- The floor of the set: the lowest of this device's and those that followers last reported (R365, R372). -/
def setFloor (s : State) : Nat := (s.seq.setFloors.filterMap (·.2)).foldl min (paceFloor s)

/-- The demand reads of a graph in device memory: its header, and its nodes where the header can be read. -/
def demandGraph (s : State) (a : Nat) : State :=
  if anyPoison s a 64 then demand s a 64 else demand s a (64 + 128 * bits (readNat s a 64) 511 499)

/-- Puts a step in flight and starts STEPGRAPH on its plan; a graph that cannot start abandons the step here. The engine itself
reads the graph (R355). -/
def launchStep (s : State) (f : BitVec 1024) (r : StepRun) (dst : Nat) (ws : List Nat) : State :=
  let s := writeBytes s dst (planBytes ws)
  let s := { s with
    seq := { s.seq with step := some { r with bitmaps := planBitmaps s r.plan }, stepNo := r.stepNo }
    pace := { s.pace with breachSeen := false }
    clusters := s.clusters.map fun (k : ClusterSt) => { k with fetched := [] } }
  match readGraph s (cGraph f) with
  | none => closeStep (demandGraph s (cGraph f)) stPoisoned (uidOf (placeUnit (cGraph f)))
  | some x =>
    let s := demandGraph s (cGraph f)
    if graphOk s x then pumpGraph 4097 (updCmd s r.cmd fun k => { k with graph := some (startGraph s x.2) }) r.cmd
    else closeStep s stBadParam (badDetail [])

/-- Whether the output buffer of a step is writable. -/
def outOk (s : State) (c : CmdRec) (n : Nat) : Bool :=
  !spOutdev c.params || n = 0 || (devRangeOk (spOutbuf c.params) (16 * n) && !kvProtected s (spOutbuf c.params) (16 * n))

/-- Runs a plan as this device's step: its own, with what each context left out gets, or a host's. -/
def runPlan (s : State) (c : CmdRec) (g : BitVec 256) (f : BitVec 1024) (es : List PlanEnt) (omitted : List Nat)
    (pred decPred : Nat) : State :=
  let no := s.seq.stepNo + 1
  let ws := planWords no pred es
  match planAt (spPlandst c.params) (64 + 16 * es.length) with
  | none => finishCmd s c.id stBadParam (badDetail [])
  | some dst =>
    if !outOk s c (es.length + omitted.length) then finishCmd s c.id stBadParam (badDetail [])
    else
      let fl := s.seq.setFloors.map fun x => (x.1, (none : Option Nat))
      let r : StepRun := ⟨c.id, none, es, omitted, no, now s, pred, decPred, 0, none, fl, [], []⟩
      let s := fl.foldl (fun s x => sendMsg s true (x.1 / 2 ^ 48) 10
        (fuidOf s (uidOf (.seqEngine 0)) :: spPlandst c.params :: ws)) s
      launchStep (reservePlan s g es) f r dst ws

/-- Plans and starts a step (R365 to R368); one that its prediction abandons has not started (R477). -/
def planStep (s : State) (c : CmdRec) (g : BitVec 256) (f : BitVec 1024) : State :=
  let floor := setFloor s
  let top := 2 ^ 32 - 1
  let decPred := (predict f (decodeDraft s g).work floor s.seq.cf).getD top
  if hAbandon c.hdr && hDeadline c.hdr ≠ 0 && now s + decPred > hDeadline c.hdr then
    finishCmd (updCmd s c.id fun k => { k with startedAt := none }) c.id stDeadlineMissed 0
  else
    let s := recoverAll s g f
    let p := addChunks s g f floor (hDeadline c.hdr) (decodeDraft s g)
    let s := fullEvents s c.id p.full
    let s := supply (cNnodes f + 1) s g f (framesOf s g p.ents)
    let x := fitPool s g p.ents
    let es := sortPlan x.1
    let w := es.foldl (fun a e => a.add (entryWork g e)) Work.zero
    runPlan s c g f es (p.full ++ x.2) ((predict f w floor s.seq.cf).getD top) decPred

/-- The decode-only prediction of a host's plan, without the correction factor (R369, R374). -/
def decodeOnly (s : State) (g : BitVec 256) (f : BitVec 1024) (es : List PlanEnt) : Nat :=
  let w := (es.filter fun e => e.kind ≠ kPrefill).foldl (fun a e => a.add (entryWork g e)) Work.zero
  (predict f w (paceFloor s) 1024).getD (2 ^ 32 - 1)

/-- Runs a host's plan (R374). -/
def hostStep (s : State) (c : CmdRec) (g : BitVec 256) (f : BitVec 1024) (ws : List Nat) : State :=
  let s := recoverAll s g f
  match takePlan s g f ws true with
  | .inl st => finishCmd s c.id st (if st = stBadParam then badDetail [] else 0)
  | .inr es =>
    let s := supply (cNnodes f + 1) s g f (framesOf s g es)
    if freeCount s g < framesOf s g es + reserveSum s then finishCmd s c.id stNoResource 0
    else runPlan s c g f es [] 0 (decodeOnly s g f es)

/-- The words of a plan in a list of bytes. -/
def wordsOf (bs : List Byte) : List Nat :=
  let h := fromLe (bs.take 64)
  h :: (List.range (bits h 447 432)).map fun i => fromLe ((bs.drop (64 + 16 * i)).take 16)

/-- Runs SEQ_STEP on the sequence engine; `d` is what the host's memory gives for a host plan. -/
def seqStepOn (d : HostData) (s : State) (c : CmdRec) : State :=
  match s.seq.geom, s.seq.cfg with
  | some g, some f =>
    if !isLead s f || !(checkSeqStep s c.params).isEmpty then finishCmd s c.id stBadParam (badDetail [])
    else if !cMirror f then planStep s c g f
    else if spPlandev c.params then
      let a := spPlan c.params
      let n := bits (readNat s a 64) 447 432
      if !devRangeOk a (64 + 16 * n) || kvProtected s a (64 + 16 * n) then finishCmd s c.id stBadParam (badDetail [])
      else if anyPoison s a (64 + 16 * n) then finishCmd (demand s a (64 + 16 * n)) c.id stPoisoned (uidOf (placeUnit a))
      else hostStep (demand s a (64 + 16 * n)) c g f (wordsOf (readBytes s a (64 + 16 * n)))
    else if d.err then finishCmd s c.id stXlateFault 0
    else hostStep s c g f (wordsOf d.bytes)
  | _, _ => finishCmd s c.id stNotReady (uidOf (.seqEngine 0))

/-- SEQ_STEP (R358, R360, R365, R372, R374): forms or takes a plan and starts STEPGRAPH; applied again while the graph runs,
it starts the nodes that are due. -/
def execSeqStep (id : Nat) (d : HostData) (s : State) : Res :=
  match findCmd s id with
  | none => .next s
  | some c =>
    if hOpcode c.hdr = 0x0505 && c.phase = .started then .next (if c.graph.isSome then pumpGraph 4097 s id else s)
    else match waiting s id 0x0505 with
      | none => .next s
      | some k => if seqTurn s k [] true then runCmd s id 0x0505 fun s c _ => seqStepOn d s c else .next s

/-! ### A step's results (R360 to R362, R369, R370, R376, R377, R386 to R388) -/

/-- Verify entry `i` of a context: TGT and P (R376). -/
def verifyTgt (s : State) (f : BitVec 1024) (c i : Nat) : Nat := readNat s (cVbase f + 520 * c + 8 * i + 4) 4
def verifyP (s : State) (f : BitVec 1024) (c i : Nat) : Nat := readNat s (cVbase f + 520 * c + 8 * i) 4

/-- The path that GREEDY accepts, from an entry (R386). -/
def greedyPath (fuel : Nat) (s : State) (f : BitVec 1024) (c : Nat) (r : CtxRec) (cur : Option Nat) : List Nat :=
  match fuel with
  | 0 => []
  | k + 1 =>
    let t := verifyTgt s f c (match cur with | none => 0 | some i => i + 1)
    match (List.range r.dnodes).find? fun i =>
        dnParent (r.draft.getD i 0) = cur.getD 0xFF && dnToken (r.draft.getD i 0) = t with
    | none => []
    | some i => i :: greedyPath k s f c r (some i)

/-- Whether STOCH accepts a node: U * Q rounded to FP32 is less than P (R387). -/
def stochOk (s : State) (f : BitVec 1024) (c i : Nat) (x : BitVec 128) : Bool :=
  let uq := (fMul fmt32 ⟨.rne, false, false⟩ (dnU x) (dnQ x)).1
  let p := verifyP s f c (i + 1)
  !isNaN (dec32 p) && fOrd (dec32 uq) (dec32 p) == .lt

/-- The path that STOCH accepts. -/
def stochPath (s : State) (f : BitVec 1024) (c : Nat) (r : CtxRec) : List Nat :=
  (List.range r.dnodes).takeWhile fun i => stochOk s f c i (r.draft.getD i 0)

/-- The accepted path of a self-verify. -/
def selfPath (s : State) (f : BitVec 1024) (c : Nat) (r : CtxRec) : List Nat :=
  if r.vmode = 1 then greedyPath 65 s f c r none else stochPath s f c r

/-- What an entry of a completed step makes of its context: nodes accepted, whether NEXT was set, and the state after. -/
def entryResult (s : State) (g : BitVec 256) (f : BitVec 1024) (no : Nat) (e : PlanEnt) : (Nat × Bool) × State :=
  match getCtx s e.ctx with
  | none => ((0, false), s)
  | some r =>
    let t := now s
    if e.kind = kPrefill then
      let last := r.pend ≤ e.nt
      let next := if last && !r.keepNext then verifyTgt s f e.ctx 0 else r.nextTok
      let s := updCtx s e.ctx fun r => { r with
        len := e.pos + e.nt, pend := r.pend - e.nt, lastStep := no, nextTok := next
        state := if last then csDecode else csPrefill, nextStamp := if last && !r.keepNext then t else r.nextStamp
        keepNext := r.keepNext && !last }
      ((0, last && !r.keepNext),
        if last && r.apub && r.state ≠ csDamaged then (publishFrom (e.pos / 64 + 9) s g f e.ctx 0 0 none).2.2 else s)
    else if logLost s g f e.ctx r.len 1 then ((0, false), damage s e.ctx 3 0)
    else
      let s := writeLog s g f e.ctx r.len [r.nextTok]
      let s := updCtx s e.ctx fun r => { r with len := r.len + 1, lastStep := no }
      if e.kind = kDecode then
        ((0, true), updCtx s e.ctx fun r => { r with nextTok := verifyTgt s f e.ctx 0, nextStamp := t })
      else if r.vmode = 0 then ((0, false), updCtx s e.ctx fun r => { r with verified := true })
      else
        let path := selfPath s f e.ctx r
        let next := verifyTgt s f e.ctx (match path.getLast? with | none => 0 | some i => i + 1)
        let x := commitPath s g f e.ctx path next
        if x.1 = stOk then ((path.length, true), x.2) else ((0, false), x.2)

/-- Applies an entry of a completed step to its context. One that was damaged while the step ran stays DAMAGED (R357, R392). -/
def applyEntry (s : State) (g : BitVec 256) (f : BitVec 1024) (no : Nat) (e : PlanEnt) : (Nat × Bool) × State :=
  let x := entryResult s g f no e
  match getCtx s e.ctx with
  | some r => if r.state = csDamaged then
      (x.1, updCtx x.2 e.ctx fun y => { y with state := csDamaged, former := if y.state = csDamaged then y.former else y.state }) else x
  | none => x

/-- Applies the results of a completed step to every context of its plan (R360). -/
def applyStep (s : State) (g : BitVec 256) (f : BitVec 1024) (r : StepRun) : List StepRes × State :=
  r.plan.foldl (fun (a : List StepRes × State) e =>
    let y := applyEntry a.2 g f r.stepNo e
    (a.1 ++ [⟨e.ctx, (match getCtx s e.ctx with | some x => ctxDeadline x | none => 0), y.1.1, y.1.2⟩], y.2)) ([], s)

/-- STEPGRAPH_COMPLETE (R360, R362, R369 to R372, R377): once the graph has ended, its results are applied to every context
of the plan together, or the step is abandoned. -/
def execStepgraphComplete (s : State) : Res :=
  match s.seq.step, s.seq.geom, s.seq.cfg with
  | some r, some g, some f =>
    if r.ended.isSome then .next s
    else
      let s := pumpGraph 4097 s r.cmd
      match findCmd s r.cmd with
      | none => .next (clearStep s)
      | some c =>
        if c.phase = .finished then
          .next (match r.lead with
            | some l => dropCmd (reportStep (clearStep s) l r.stepNo c.status c.detail) c.id
            | none => clearStep s)
        else match c.graph.bind graphResult with
          | none => .next s
          | some (st, d) =>
            if completing st then
              let x := applyStep s g f r
              let s := setSeq x.2 { x.2.seq with step := some { r with done := x.1 } }
              .next (closeStep s (if c.trips > 0 then stGuardReplayed else stOk) (guardSummary c))
            else .next (closeStep s st d)
  | _, _, _ => .next s

/-! ### Plans of a lead (R372) -/

/-- Whether a plan's turn has come at a follower: no step is in flight, and no command accepted before it is open or prepared
(R358). -/
def planTurn (s : State) : Bool :=
  s.seq.step.isNone && !(s.cmd.inflight.any fun d => seqOpen d && d.phase ≠ .forwarded)
    && !(s.cmd.prepared.any fun p => (prepCtx p).isSome && !p.inDoubt)

/-- Runs the plan that the lead sent, where its turn has come: checked as it stands here, and run under a command of the device's
own. -/
def servePlan (s : State) : State :=
  match s.seq.planned, s.seq.geom, s.seq.cfg with
  | some (lead, dst, ws), some g, some f =>
    if !planTurn s then s
    else
      let s := setSeq s { s.seq with planned := none }
      let s := recoverAll s g f
      let no := bits (ws.headD 0) 511 448
      match takePlan s g f ws false, planAt dst (64 + 16 * (ws.length - 1)) with
      | .inr es, some a =>
        let s := supply (cNnodes f + 1) s g f (framesOf s g es)
        if freeCount s g < framesOf s g es + reserveSum s then reportStep s lead no stNoResource 0
        else
          let h := BitVec.ofNat 512 (0x0505 * 2 ^ 496 + uidOf (.seqEngine 0) * 2 ^ 384 + epochOf s (.seqEngine 0) * 2 ^ 368)
          let k := { newCmd s .boot .tenant h [] with phase := .started, startedAt := some (now s), target := .unit (.seqEngine 0) }
          let r : StepRun := ⟨k.id, some lead, es, [], no, now s, bits (ws.headD 0) 415 384, 0, 0, none, [], [], []⟩
          launchStep (reservePlan (addCmd s k) g es) f r a ws
      | .inl st, _ => reportStep s lead no st (if st = stBadParam then badDetail [] else 0)
      | _, none => reportStep s lead no stBadParam (badDetail [])
  | _, _, _ => s

/-- A plan of the lead arrives: it waits for its turn, and runs when that has come (R358, R372). -/
def receivePlan (s : State) (lead dst : Nat) (ws : List Nat) : State :=
  match s.seq.cfg with
  | some f =>
    if isLead s f || cLead f ≠ lead then s
    else servePlan (setSeq s { s.seq with planned := some (lead, dst, ws) })
  | none => s

/-- PLAN_RECEIVE (R372): a plan of the lead arrives at a follower. -/
def execPlanReceive (lead dst : Nat) (plan : List Nat) (s : State) : Res := .next (receivePlan s lead dst plan)

/-- A follower announces itself (R372). -/
def addFollower (s : State) (fuid : Nat) : State :=
  if s.seq.setFloors.any fun x => x.1 = fuid then s
  else setSeq s { s.seq with setFloors := s.seq.setFloors ++ [(fuid, none)] }

/-- A follower's report of its step (R372). -/
def followerReport (s : State) (fuid stepNo st detail floor : Nat) : State :=
  let s := setSeq s { s.seq with setFloors := s.seq.setFloors.map fun x => if x.1 = fuid then (fuid, some floor) else x }
  match s.seq.step with
  | none => s
  | some r =>
    if r.stepNo ≠ stepNo then s
    else
      let fl := r.followers.map fun x => if x.1 = fuid then (fuid, some (detail * 256 + st)) else x
      let s := setSeq s { s.seq with step := some { r with followers := fl } }
      match r.ended with
      | some e => closeStep s e.1 e.2
      | none => s

/-! ### Staging (R339, R341) -/

/-- Slots of a cluster's staging area that hold nothing. -/
def freeSlots (s : State) (g : BitVec 256) (k : Fin 24) : List Nat :=
  (List.range (gStg g)).filter fun i => !((s.clusters[k]).staging.any fun d => d.slot = i)

/-- Copies a page into a slot of a cluster's staging area and records it. -/
def stagePage (s : State) (g : BitVec 256) (k : Fin 24) (slot frame version : Nat) : State :=
  let s := writeBytes s (stageSlot g k slot) (readBytes s (frameAt g frame) (pageSize g))
  { s with clusters := s.clusters.set k { s.clusters[k] with
      staging := ⟨slot, frame, version⟩ :: (s.clusters[k]).staging.filter fun d => d.slot ≠ slot } }

/-- Whether a page of an entry may be staged: VALID, not POISONED, and full below LEN or shared (R339). -/
def stageable (s : State) (x c p : Nat) : Bool :=
  let len := match getCtx s c with | some r => r.len | none => 0
  pteState x = 1 && !ptePoisoned x && (pteShared x || 64 * (p + 1) ≤ len)

end Sys2Proof.Machine
end

