-- ==== Sys2Proof/Machine/Accept.lean ====
section
/-! DEFINITION. Acceptance of commands: header form, rights and authorisation blocks, targets, epochs, states, deadlines,
parameters and member vectors, and the paths they arrive on (14_command_interface.md R455 to R475, R490 to R504;
17_security_and_leasing.md R590 to R599; 01_architecture.md R16 to R20, R38, R39; 20 R694; 18 R644). -/

namespace Sys2Proof.Machine

/-! ### Header form (R468 to R470) -/

/-- The opcodes of R490. -/
def opcodes : List Nat :=
  [0x0101, 0x0102, 0x0103, 0x0104, 0x0105, 0x0106, 0x0110, 0x0111, 0x0120, 0x0201, 0x0202, 0x0301, 0x0302, 0x0303, 0x0304,
    0x0305, 0x0401, 0x0402, 0x0501, 0x0502, 0x0503, 0x0504, 0x0505, 0x0506, 0x0507, 0x0508, 0x0509, 0x050A, 0x050B, 0x050C,
    0x0601, 0x0602, 0x0603, 0x0701, 0x0702, 0x0703, 0x0704, 0x0705, 0x0801, 0x0802]

/-- Whether PMODE allows PLEN. -/
def plenOk (h : BitVec 512) : Bool :=
  match hPmode h with
  | 0 => hPlen h = 0
  | 1 => 1 ≤ hPlen h && hPlen h ≤ 64
  | _ => 1 ≤ hPlen h

/-- Whether PMODE allows PPTR; a device address counts only on the device that fetches. -/
def pptrOk (h : BitVec 512) (fetches : Bool) : Bool :=
  match hPmode h with
  | 0 => hPptr h = 0
  | 1 => hPptr h = 0
  | 2 => hPptr h % 64 = 0
  | _ => hPptr h % 64 = 0 && (!fetches || inLeaseHbm (hPptr h) (64 * hPlen h) || inDieTenant (hPptr h) (64 * hPlen h))

/-- Step 1 of R475: the bad fields of a header; `seqOk` says whether SEQNO is the one due (R473). -/
def headerBad (h : BitVec 512) (seqOk fetches : Bool) : List Nat :=
  chk seqOk 320 ++ chk (opcodes.contains (hOpcode h)) 496 ++ chk (bits (hFlags h) 15 6 = 0) 486
    ++ chk (bits h.toNat 357 352 = 0) 352 ++ chk (bits h.toNat 63 0 = 0) 0 ++ chk (plenOk h) 240 ++ chk (pptrOk h fetches) 160
    ++ chk (hMvbuf h % 64 = 0) 96

/-! ### Parameter layouts (R490 to R503) -/

/-- Opcodes whose parameters have count fields, or state their own length. -/
def countOpcode (op : Nat) : Bool :=
  op = 0x0106 || op = 0x0401 || op = 0x0402 || op = 0x0504 || op = 0x0506 || op = 0x0507 || op = 0x0601 || op = 0x0801

/-- Blocks that an opcode's own parameters take, its count fields read from them (R591). A firmware image states its own length, in
a format that the manual does not give (DESIGN CHOICE, log entry 129). -/
def layoutLen (op plen : Nat) (ps : List (BitVec 512)) : Nat :=
  let p := paramBlock ps 0
  match op with
  | 0x0104 => 0
  | 0x0106 => Config.imageBlocks p
  | 0x0201 => 2
  | 0x0301 => max 1 (min plen 64)
  | 0x0302 => max 1 (min plen 16)
  | 0x0401 => 1 + ceilDiv (bits p 447 432) 64
  | 0x0402 => 1 + 2 * bits p 511 499
  | 0x0501 => 3
  | 0x0502 => 2
  | 0x0503 => 0
  | 0x0504 => 1 + ceilDiv (4 * bits p 31 0) 64
  | 0x0506 => 1 + ceilDiv (16 * bits p 7 0) 64
  | 0x0507 => 1 + ceilDiv (bits p 39 32) 64
  | 0x0509 => 0
  | 0x050A => 0
  | 0x050B => 0
  | 0x0601 => 1 + ceilDiv (4 * rtCount ps) 64
  | 0x0801 => 1 + ceilDiv (8 * bits p 489 481) 64
  | 0x0802 => 0
  | _ => 1

/-- Step 7 of LEASE_OPEN (R600, R601). -/
def checkLeaseOpen (s : State) (ps : List (BitVec 512)) : List Nat :=
  let p := paramNat ps
  chk (leaseProfile ps ≤ 2 && s.limits.nextProfok.toNat.testBit (leaseProfile ps)) (512 + 1022)
    ++ chk (!(leaseMirror ps && !idMirror s)) (512 + 1021)
    ++ chk (1 ≤ leaseInjrate ps && leaseInjrate ps ≤ 3200) (512 + 1009) ++ chk (bits p 1008 768 = 0) (512 + 768)
    ++ chk (onP384 (bits p 767 384) (bits p 383 0)) 512

/-- The units of a target that this device holds. -/
def targetUnits (s : State) (t : Member) : List PUnit :=
  match t with
  | .unit u => [u]
  | .group g => expansionUnits s g
  | .remote _ => []

/-- The members of other devices that a target reaches. -/
def targetRemotes (s : State) (t : Member) : List Nat :=
  match t with
  | .group g => (expansion s g).filterMap fun m => match m with | .remote x => some x | _ => none
  | _ => []

/-- Step 7 of R475: the opcode's own checks on parameters without an authorisation block. -/
def paramBad (s : State) (op : Nat) (role : Role) (t : Member) (ps : List (BitVec 512)) : List Nat :=
  let us := targetUnits s t
  match op with
  | 0x0101 => checkSetLimits s ps
  | 0x0102 => checkSetProfile s ps
  | 0x0103 => checkOutOfService ps
  | 0x0105 => checkSetIdentity s ps
  | 0x0106 => checkFirmware s ps
  | 0x0110 => checkQueueRecord (paramNat ps)
  | 0x0111 => checkQpDelete s role ps
  | 0x0120 => checkMemTest ps
  | 0x0201 => checkLeaseOpen s ps
  | 0x0202 => checkLeaseClose ps
  | 0x0301 => checkMemMap s ps
  | 0x0302 => us.flatMap fun u => match u with | .engine c _ => checkDmaCopy c ps | _ => []
  | 0x0303 => checkFlag op t ps
  | 0x0304 => checkFlag op t ps
  | 0x0305 => checkFlag op t ps
  | 0x0401 => checkLaunch ps
  | 0x0402 => checkGraph s ps
  | 0x0501 => checkSeqConfig ps
  | 0x0502 => checkSeqCreate ps
  | 0x0504 => checkSeqPrefill ps
  | 0x0505 => checkSeqStep s ps
  | 0x0506 => checkSeqDraft ps
  | 0x0507 => checkSeqCommit ps
  | 0x0508 => checkSeqRetract ps
  | 0x050C => checkPrefixPublish ps
  | 0x0601 => checkRouteSet s ps
  | 0x0602 => checkCollective s ps
  | 0x0603 => checkPortCtl ps
  | 0x0701 => checkTelemRead ps (match t with | .group _ => true | _ => false) us (targetRemotes s t)
  | 0x0702 => us.flatMap fun u => checkDumpCollect s u ps
  | 0x0703 => checkStopGlobal ps
  | 0x0704 => checkTraceCtl ps
  | 0x0705 => checkAuditRead ps
  | 0x0801 => checkGroupDefine s ps
  | 0x0802 => (match t with | .group g => checkGroupDissolve s g | _ => [])
  | _ => []

/-! ### Authorisation blocks (R591, R592) -/

/-- What an authorisation block gives: the role and its AUTHSEQ, or the reason it is refused for (R597). -/
inductive Auth where
  | none
  | role (r : Role) (seq : Nat)
  | bad (reason : Nat)
  deriving DecidableEq, Repr

/-- The header as it is signed: SEQNO, TAG, TIMEOUT, PPTR, MVBUF and MVCAP zero (R592). -/
def signedHdr (h : BitVec 512) : Nat :=
  let x := h.toNat
  bits x 511 480 * 2 ^ 480 + bits x 447 352 * 2 ^ 352 + bits x 319 240 * 2 ^ 240 + bits x 63 0

/-- The digest an authorisation block signs. -/
def authDigest (b : Nat) (h : BitVec 512) (ps : List (BitVec 512)) : BitVec 384 :=
  Config.sha384 (leBytes 64 (bits b 2047 1536) ++ leBytes 64 (signedHdr h) ++ paramBytes ps)

/-- Reads an authorisation block, given as one number of 2,048 bits. -/
def readAuth (s : State) (b : Nat) (h : BitVec 512) (ps : List (BitVec 512)) : Auth :=
  let role := bits b 2047 2044
  let seq := bits b 2031 1968
  let d := authDigest b h ps
  let inst := installerKeyOk s
  let sig := BitVec.ofNat 768 (bits b 1535 768)
  let cosig := BitVec.ofNat 768 (bits b 767 0)
  let cosign := bit b 2043
  if bits b 1967 1840 ≠ s.sec.serial.toNat then .bad 4
  else if role = 1 then
    if !(inst && Config.ecdsaOk s.sec.instKey d sig) then .bad 4
    else if seq ≤ s.sec.authInst then .bad 5
    else .role .installer seq
  else if role = 2 then
    if !Config.ecdsaOk Config.makerKey d sig then .bad 4
    else if seq ≤ s.sec.authMaker then .bad 5
    else if !(cosign && inst && Config.ecdsaOk s.sec.instKey d cosig) then .bad 6
    else .role .maker seq
  else .bad 4

/-- Bad fields of an authorisation block whose signatures hold, by position (R11, R591, R750): its reserved fields, and COSIG
where COSIGN is 0 (DEDUCED, log entry 103). The block starts at bit `at_` of the positions. -/
def authBlockBad (b at_ : Nat) : List Nat :=
  chk (bits b 2042 2032 = 0) (at_ + 2032) ++ chk (bits b 1839 1536 = 0) (at_ + 1536)
    ++ chk (bit b 2043 || bits b 767 0 = 0) at_

/-- Notes the AUTHSEQ of an accepted block. -/
def noteAuth (s : State) (a : Auth) : State :=
  match a with
  | .role .installer n => { s with sec := { s.sec with authInst := n } }
  | .role .maker n => { s with sec := { s.sec with authMaker := n } }
  | _ => s

/-! ### Rights (R590, R593 to R597, R671, R693) -/

/-- Opcodes that the tenant alone may issue (R593, R594). -/
def tenantOnly (op : Nat) : Bool :=
  (0x0301 ≤ op && op ≤ 0x0305) || op = 0x0401 || op = 0x0402 || (0x0501 ≤ op && op ≤ 0x050C) || op = 0x0602

/-- "U": only while no lease is open; "L": only inside the lease; "U*" (R594). -/
def needU (s : State) : Option Nat := if leaseLive s then some 2 else none
def needL (s : State) : Option Nat := if leaseLive s then none else some 2
def needStar (s : State) : Option Nat :=
  if s.lease.openL then some 2 else if !s.lease.scrubbed then some 7 else if !s.sec.makerDbg then some 8 else none

/-- The table of R594: why a role may not issue an opcode now, by reason code; `oos` is bit [511] of the parameters of
MGMT_OUT_OF_SERVICE, `kinds` the kinds of the target. -/
def rightsBad (s : State) (op : Nat) (role : Role) (ps : List (BitVec 512)) (kinds : List Nat) : Option Nat :=
  let p := paramNat ps
  match role with
  | .operator =>
    if op = 0x0102 ∨ op = 0x0106 ∨ op = 0x0110 ∨ op = 0x0111 ∨ op = 0x0120 ∨ op = 0x0201 ∨ op = 0x0801 ∨ op = 0x0802 then needU s
    else if op = 0x0103 then (if !p.testBit 511 && kinds.contains 4 then some 3 else none)
    else if op = 0x0104 ∨ op = 0x0202 then none
    else if op = 0x0603 then (if pcAction ps = 4 then needU s else none)
    else if op = 0x0701 then (if tmClear p then needU s else none)
    else if op = 0x0705 then (if arArchive p then needU s else none)
    else some 1
  | .installer =>
    if op = 0x0101 ∨ op = 0x0103 ∨ op = 0x0104 ∨ op = 0x0601 then none
    else if op = 0x0102 ∨ op = 0x0105 ∨ op = 0x0106 ∨ op = 0x0110 ∨ op = 0x0111 ∨ op = 0x0120 ∨ op = 0x0801 ∨ op = 0x0802 then needU s
    else if op = 0x0603 then (if pcAction ps = 4 then needU s else none)
    else if op = 0x0701 then (if tmClear p then some 1 else none)
    else if op = 0x0705 then (if arArchive p then needU s else none)
    else some 1
  | .maker =>
    if op = 0x0701 then (if tmClear p then some 1 else needStar s)
    else if op = 0x0705 then (if arArchive p then some 1 else needStar s)
    else if op = 0x0120 ∨ op = 0x0702 ∨ op = 0x0704 then needStar s
    else if op = 0x0703 then
      match needStar s with
      | some r => some r
      | none => if sgMode p = 2 && !armed s (sgToken p) then some 3 else none
    else some 1
  | .tenant =>
    if tenantOnly op ∨ op = 0x0110 ∨ op = 0x0111 ∨ op = 0x0202 ∨ op = 0x0701 ∨ op = 0x0702 ∨ op = 0x0704 ∨ op = 0x0801 ∨ op = 0x0802 then
      needL s
    else if op = 0x0104 then
      match needL s with
      | some r => some r
      | none => if kinds.contains 4 || kinds.contains 9 then some 3 else none
    else if op = 0x0705 then (if arArchive p then some 1 else needL s)
    else some 1

/-- The kinds of a target, or those of a group's expansion (R595). -/
def targetKinds (s : State) (h : BitVec 512) : List Nat :=
  let t := hTarget h % 2 ^ 32
  if t.testBit 31 then
    (expansion s (bits t 11 0)).map fun m => match m with
      | .unit u => kindOf u
      | .remote x => bits x 30 27
      | .group _ => 0
  else [bits t 30 27]

/-! ### Targets, epochs, states (R16 to R20, R27, R29, R38, R39, R475) -/

/-- Whether every unit that a group reaches is of a kind that the opcode takes, where the opcode asks it of all (R493, R633). -/
def reachAllowed (s : State) (op g : Nat) : Bool :=
  (op ≠ 0x0401 && op ≠ 0x0104) || (expansion s g).all fun m => match m with
    | .unit u => kindAllowed op u
    | .remote x => (unitOfUid (x % 2 ^ 32)).any (kindAllowed op)
    | .group _ => true

/-- What a UID of this device names for an opcode, or the position of its lowest bad field (R16, R17, R490, R750). -/
def parseUid (s : State) (op uid : Nat) : Member ⊕ Nat :=
  if uid.testBit 31 then
    match groupUidBad s uid with
    | b :: bs => .inr (bs.foldl min b)
    | [] => if !groupAllowed op then .inr 31 else if reachAllowed s op (bits uid 11 0) then .inl (.group (bits uid 11 0)) else .inr 0
  else match unitOfUid uid with
    | none => .inr (if op = 0x0302 && bits uid 30 27 = 0 && bits uid 18 17 ≠ 3 then min 17 (uidBadBit uid) else uidBadBit uid)
    | some u => match targetBad op u with
      | some b => .inr b
      | none => .inl (.unit u)

/-- What TARGET names, or the position of its lowest bad field. The UID of a FUID that names another device is checked there (R474). -/
def parseTarget (s : State) (h : BitVec 512) : Member ⊕ Nat :=
  let t := hTarget h
  let high := if hFab h then chk (bits t 47 32 = 0) 32 ++ chk (bits t 62 48 ≤ 24575) 48 else chk (t / 2 ^ 32 = 0) 32
  match high with
  | [] => if hFab h && !isLocalFuid s t then .inl (.remote t) else match parseUid s (hOpcode h) (t % 2 ^ 32) with
    | .inl m => .inl m
    | .inr b => .inr (384 + b)
  | x :: xs => match parseUid s (hOpcode h) (t % 2 ^ 32) with
    | .inl _ => .inr (384 + xs.foldl min x)
    | .inr b => .inr (384 + (x :: xs).foldl min (if hFab h && t.testBit 31 then x else b))

/-- Opcodes whose device target need not have reached ALLREADY (18 "Bring-up"). -/
def earlyOpcode (op : Nat) : Bool := op / 256 = 1 || op / 256 = 7 || op / 256 = 8

/-- Whether an opcode is accepted by a device that is out of service (R596, R644). -/
def oosDeviceOk (op : Nat) (role : Role) : Bool :=
  op = 0x0202 || op = 0x0701 || op = 0x0702 || op = 0x0705 || (op = 0x0103 && role = .installer)

/-- Whether a stopped device accepts a command (R694). -/
def haltedOk (op : Nat) (role : Role) (t : Member) : Bool :=
  op = 0x0701 || op = 0x0705 || (op = 0x0104 && t = .unit .device && (role = .operator || role = .installer))

/-- Step 5 of R475: the status and DETAIL of a target that cannot take the command. It does not apply to LEASE_CLOSE (R596), of a
group either, whose members are device units. -/
def stateBad (s : State) (op : Nat) (role : Role) (ps : List (BitVec 512)) (t : Member) : Option (Nat × Nat) :=
  if s.sec.halted && !haltedOk op role t then some (stFenced, uidOf .device)
  else if op = 0x0202 then none
  else if (getUnit s .device).own = .outOfService && oosDeviceOk op role then none
  else match t with
    | .unit u =>
      let b := if u = .device ∧ earlyOpcode op then baseState s u else reported s u
      if b = .outOfService then (if oosAccepts s op ps u then none else some (stOutOfService, uidOf u))
      else if b = .fenced ∨ b = .resetting then some (stFenced, uidOf (fencedRoot s u))
      else if b = .notReady then some (stNotReady, uidOf u)
      else none
    | .group g =>
      let atomic := atomicOpcode op && (match groupRec s g with
        | some r => r.members.any fun m => !isReady (memberState 4097 s m)
        | none => false)
      if !isReady (groupState s g) || atomic then some (stNotReady, groupUid g) else none
    | .remote _ => none

/-! ### Objects of atomic commands (R509, R512) -/

/-- The object an atomic command prepares: the lease, a context, a group number, a membership. -/
def prepObj (s : State) (p : PrepRec) : Nat × Nat :=
  match hOpcode p.hdr / 256 with
  | 2 => (0, 0)
  | 5 => (1, hCtx p.hdr)
  | _ => if p.lead = selfId s then (2, bits (paramNat p.params) 511 500) else (3, hTarget p.hdr % 2 ^ 32)

/-- The object a command acts on, where it is one that atomic commands prepare. -/
def cmdObj (op : Nat) (h : BitVec 512) (ps : List (BitVec 512)) (t : Member) : Option (Nat × Nat) :=
  if op / 256 = 2 then some (0, 0)
  else if op / 256 = 5 && op ≠ 0x0501 && op ≠ 0x0505 then some (1, hCtx h)
  else if op = 0x0801 then some (2, bits (paramNat ps) 511 500)
  else match t with
    | .group g => some (2, g)
    | _ => none

/-- Whether a command's object is in doubt here. -/
def inDoubtObj (s : State) (op : Nat) (h : BitVec 512) (ps : List (BitVec 512)) (t : Member) : Bool :=
  match cmdObj op h ps t with
  | some o => s.cmd.prepared.any fun p => p.inDoubt && prepObj s p = o
  | none => false

/-! ### Acceptance (R475) -/

/-- What the device knows of a command besides its header and parameters: how it arrived, and how reading its parameters
ended. -/
structure Arrival where
  path : Nat
  seqOk : Bool
  perr : Option (Nat × Nat)
  deriving DecidableEq, Repr

/-- Opcodes of the tenant that the audit log records (R619). -/
def auditedTenant (op : Nat) : Bool :=
  op = 0x0110 || op = 0x0111 || op = 0x0301 || op = 0x0801 || op = 0x0802 || op = 0x0702 || op = 0x0704 || op = 0x0705
    || op = 0x0104 || op = 0x0202

/-- The entry of an accepted command (R619); the digest covers all its parameters, an authorisation block among them (R591, R618). -/
def auditCommand (s : State) (c : CmdRec) (path : Nat) : State :=
  auditPut s 0x0002 (roleCode c.role) path (c.role = .tenant) { AuditPriv.zero with
    qpn := (cmdQp s c).getD 0, opcode := hOpcode c.hdr, target := hTarget c.hdr
    pdigest := paramDigest c.params }

/-- A command that fails a check. -/
def failCmd (s : State) (c : CmdRec) (st detail : Nat) : State :=
  addCmd s { c with phase := .finished, status := st, detail := detail, startedAt := none, finishedAt := now s }

/-- A permission refusal at acceptance (R485, R597). -/
def refuseNew (s : State) (c : CmdRec) (path reason : Nat) : State :=
  addCmd (auditRefusal s (roleCode c.role) path ((cmdQp s c).getD 0) (hOpcode c.hdr) (hTarget c.hdr) reason (paramDigest c.params))
    { c with phase := .refused, status := stRefused, detail := 0 }

/-- Whether a command is sent on to another device, which checks it there (R474). -/
def goesOut (s : State) (h : BitVec 512) : Bool := hFab h && !isLocalFuid s (hTarget h)

/-- Why a role may not issue a command, by R594. Where its parameters could not be read, what they would say of MGMT_OUT_OF_SERVICE
refuses nothing (DEDUCED, log entry 130). -/
def roleBad (s : State) (c : CmdRec) (role : Role) (unread : Bool) : Option Nat :=
  let r := rightsBad s (hOpcode c.hdr) role c.params (targetKinds s c.hdr)
  if unread && hOpcode c.hdr = 0x0103 && r = some 3 then none else r

/-- Whether a command whose parameters could not be read may hold an authorisation block. -/
def maybeBlock (op plen : Nat) : Bool := countOpcode op || plen = layoutLen op plen [] + 4

/-- Step 2 of R475: the block of a command and why the command is refused. `unread`: its parameters could not be read, so that what
they would say is no ground here and step 7 answers (DEDUCED, log entry 130). -/
def checkRights (s : State) (c : CmdRec) (path : Nat) (unread : Bool) : Auth × Option Nat :=
  let op := hOpcode c.hdr
  let n := layoutLen op (hPlen c.hdr) c.params
  if goesOut s c.hdr then
    (.none, if bit (hTarget c.hdr) 63 ≠ bit (fuidOf s 0) 63 then some 3 else none)
  else if c.role = .tenant then
    (.none, if hPlen c.hdr > n && !(unread && countOpcode op) then some 9 else roleBad s c .tenant unread)
  else if unread then
    (.none, if (path = 1 || path = 2) && tenantOnly op then some 9
      else if maybeBlock op (hPlen c.hdr) then none else roleBad s c c.role true)
  else
    let a := if hPlen c.hdr = n + 4 then readAuth s (paramNat (c.params.drop n)) c.hdr (c.params.take n) else .none
    match a with
    | .bad r => (.none, some r)
    | a =>
      let role := match a with | .role r _ => r | _ => c.role
      (a, if (path = 1 || path = 2) && tenantOnly op then some 9 else roleBad s c role false)

/-- Steps 3 to 8 of R475 on a target of this device: the failure, or none. -/
def checkRest (s : State) (c : CmdRec) (t : Member) (a : Arrival) : Option (Nat × Nat) :=
  let h := c.hdr
  let op := hOpcode h
  let bad := fun (xs : List Nat) => some (stBadParam, badDetail xs)
  let n := layoutLen op (hPlen h) c.params
  if hEpoch h = 0 then bad [368]
  else if BitVec.ofNat 16 (hEpoch h) ≠ targetEpoch s t then some (stStaleEpoch, (targetEpoch s t).toNat)
  else match stateBad s op c.role c.params t with
    | some x => some x
    | none =>
      if inDoubtObj s op h c.params t then some (stNotReady, memberUid t)
      else if hAbandon h && hDeadline h = 0 then bad [481]
      else match a.perr with
        | some x => some x
        | none =>
          if hPlen h ≠ n + (if c.auth.1 = 0 then 0 else 4) then bad [240]
          else
            let ps := c.params.take n
            let xs := paramBad s op c.role t ps
              ++ (if c.auth.1 = 0 then [] else authBlockBad (paramNat (c.params.drop n)) (512 + 512 * n))
            if !xs.isEmpty then bad xs
            else match t with
              | .group g =>
                let need := if op = 0x0120 then 32 * (expansion s g).length else 16 * groupVecSize s g
                if hMvbuf h ≠ 0 && hMvcap h < need then bad [64] else none
              | _ => if op = 0x0120 && hMvbuf h ≠ 0 && hMvcap h < 32 then bad [64] else none

/-- What a command does at the moment of its acceptance: MEM_MAP starts and its records take effect, QP_DELETE stops its pair,
MGMT_SET_PROFILE sets the profile (R448, R454, R458, R653; log entry 116). One whose deadline has passed under DL_ABANDON changes
nothing (R477). -/
def onAccepted (s : State) (c : CmdRec) : State :=
  if hOpcode c.hdr = 0x0301 then
    if hAbandon c.hdr && now s ≥ hDeadline c.hdr then s
    else acceptMap (if orderMet s c then markStarted s c.id else s) c.id c.params
  else if hOpcode c.hdr = 0x0102 then
    match c.target with
    | .unit u => if hAbandon c.hdr && now s ≥ hDeadline c.hdr then s else acceptProfile s c.id c.params u
    | _ => s
  else if hOpcode c.hdr = 0x0111 then
    if hAbandon c.hdr && now s ≥ hDeadline c.hdr then s else stopPair s (bits (paramNat c.params) 511 504) c.id
  else s

/-- Sends a command on to the device that its target names (R474). -/
def sendOn (s : State) (c : CmdRec) : State :=
  match c.target with
  | .remote x => sendCmd s 11 (x / 2 ^ 48) c.id c.role c.hdr c.params
  | _ => s

/-- Sends on the commands for other devices that ORDER has held and holds no more (R469). -/
def sendHeld (s : State) : State :=
  (s.cmd.inflight.filter fun c => c.phase = .held && orderMet s c).foldl (fun s c =>
    sendOn (updCmd s c.id fun d => { d with phase := .forwarded }) c) s

/-- Takes in a command for a target of this device or of another, its rights known: what is left to check, then its entry in the
audit log and in the table (R485, R593). -/
def takeFor (s : State) (c : CmdRec) (a : Arrival) (t : Member) : State :=
  match t with
  | .remote _ =>
    if hEpoch c.hdr = 0 then failCmd s c stBadParam (badDetail [368])
    else match a.perr with
      | some e => failCmd s c e.1 e.2
      | none => if orderMet s c then sendOn (addCmd s { c with phase := .forwarded }) c else addCmd s { c with phase := .held }
  | _ =>
    match checkRest s c t a with
    | some e => failCmd s c e.1 e.2
    | none =>
      let op := hOpcode c.hdr
      let full := c
      let c := { c with params := c.params.take (layoutLen op (hPlen c.hdr) c.params) }
      let told := c.role ≠ .tenant || auditedTenant op
      if told && !auditRoom s 1 && op ≠ 0x0705 then
        failCmd { s with audit := { s.audit with gap := s.audit.gap + 1 } } c stNoResource 0
      else onAccepted (addCmd (if told then auditCommand s full a.path else s) c) c

/-- Takes in a command: every check of R475 in order, and its record. -/
def takeIn (s : State) (c : CmdRec) (a : Arrival) : State :=
  let h := c.hdr
  let xs := headerBad h a.seqOk (a.path ≠ 3)
  if !xs.isEmpty then failCmd s c stBadParam (badDetail xs)
  else
    let (auth, bad) := checkRights s c a.path a.perr.isSome
    let s := noteAuth s auth
    let c := match auth with | .role r n => { c with role := r, auth := (roleCode r, n) } | _ => c
    match bad with
    | some r => refuseNew s c a.path r
    | none =>
      match parseTarget s h with
      | .inr b => failCmd s c stBadParam (badDetail [b])
      | .inl t => takeFor s { c with target := t } a t

/-- Parameter blocks cut or filled to PLEN. -/
def fitParams (h : BitVec 512) (ps : List (BitVec 512)) : List (BitVec 512) :=
  if hPmode h = 0 then [] else (ps ++ List.replicate (hPlen h - ps.length) 0).take (hPlen h)

/-- A command as it arrives, with its parameters: those it brought, or those that PPTR names in device memory (R470 to
R472). -/
def arrive (s : State) (o : Origin) (role : Role) (path : Nat) (seqOk perr : Bool) (h : BitVec 512) (ps : List (BitVec 512)) : State :=
  let c := newCmd s o role h []
  let a := hPptr h
  let n := 64 * hPlen h
  if hPmode h = 3 && path ≠ 3 && pptrOk h true then
    let t := demand (touchRange s a n) a n
    if kvProtected s a n then takeIn s c ⟨path, seqOk, some (stBadParam, badDetail [160])⟩
    else match firstPoison s a n with
      | some l => takeIn t c ⟨path, seqOk, some (stPoisoned, uidOf (placeUnit (l * 64)))⟩
      | none =>
        let bs := (List.range (hPlen h)).map fun i => BitVec.ofNat 512 (readNat s (a + 64 * i) 64)
        takeIn t { c with params := bs } ⟨path, seqOk, none⟩
  else if hPmode h = 2 && perr then takeIn s c ⟨path, seqOk, some (stXlateFault, 0)⟩
  else takeIn s { c with params := fitParams h ps } ⟨path, seqOk, none⟩

/-! ### The ways in (R459 to R464, R474, R561, R590) -/

/-- Entries a command takes in its ring (R460). -/
def sqEntries (h : BitVec 512) : Nat := if hPmode h = 1 && 1 ≤ hPlen h && hPlen h ≤ 64 then 1 + hPlen h else 1

/-- The command that a pair has ready to be taken: the next in ring order, all its entries before the tail (R459). -/
def nextCmdOf (q : QpSt) : Option FetchIn :=
  let size := 2 ^ q.sqlog
  let avail := (q.sqTail + size - q.sqHead) % size
  if q.stopped || !q.deleting.isEmpty || avail = 0 then none
  else match q.ring with
    | [] => none
    | f :: _ => if f.failed || sqEntries f.hdr ≤ avail then some f else none

/-- Takes one command of a pair: its fetch, and every check of its acceptance (R459, R464, R471, R473). -/
def takeOne (s : State) (n : Nat) (q : QpSt) (f : FetchIn) : State :=
  if f.failed then ringFailed s n q
  else
    let seqOk := decide (hSeqno f.hdr = q.seqno)
    let s := setQp s n (some { q with
      sqHead := (q.sqHead + sqEntries f.hdr) % 2 ^ q.sqlog, seqno := (hSeqno f.hdr + 1) % 2 ^ 32, ring := q.ring.drop 1 })
    arrive s (.qp n) q.role 0 seqOk f.perr f.hdr f.params

/-- The pairs among 1 to 255 that have a command ready, in rising order. -/
def readyPairs (s : State) : List Nat :=
  (s.cmd.qps.filter fun e => e.1 ≠ 0 && (e.2.any fun q => (nextCmdOf q).isSome)).map (·.1)

/-- The pair the command processor takes its next command from, with the turns then left: pair 0 before any other; among the rest
the pair whose turns they are, then the next in rising order, which gets as many turns as its weight (R463). DESIGN CHOICE (log
entry 117): a pair's turns of one round follow one another. -/
def nextTurn (s : State) : Option (Nat × Nat × Nat) :=
  if (getQp s 0).any fun q => (nextCmdOf q).isSome then some (0, s.cmd.turn)
  else
    let ready := readyPairs s
    if s.cmd.turn.2 > 0 && ready.contains s.cmd.turn.1 then some (s.cmd.turn.1, s.cmd.turn.1, s.cmd.turn.2 - 1)
    else
      let next := match ready.filter (· > s.cmd.turn.1) with
        | n :: _ => some n
        | [] => ready.head?
      next.map fun n => (n, n, 2 ^ ((getQp s n).map (·.prio)).getD 0 - 1)

/-- One turn of the die 0 command processor (R463). -/
def takeCommand (s : State) : State :=
  match nextTurn s with
  | none => s
  | some (n, turn) =>
    match getQp s n with
    | none => s
    | some q =>
      match nextCmdOf q with
      | none => s
      | some f => takeOne { s with cmd := { s.cmd with turn := turn } } n q f

/-- SQ_TAIL_DOORBELL (R459, R461): the new tail; the entries up to it wait in the ring for the command processor (R463). -/
def execSqTailDoorbell (t : TlpIn) (fetched : List FetchIn) (s : State) : Res :=
  if !t.write || !(0x100000 ≤ t.off && t.off < 0x200000) || t.off % 0x1000 / 8 * 8 ≠ 0 then .next s
  else onBar0 s t fun s =>
    let n := doorbellPair t.off
    match doorbellIndex t, getQp s n with
    | some v, some q =>
      if v ≥ 2 ^ q.sqlog then doorbellError s n q.role v
      else setQp s n (some { q with sqTail := v, ring := q.ring ++ fetched })
    | _, _ => s

/-- Whether the device takes commands that come past the queues: its die 0 management complex is ready. -/
def mgmtReady (s : State) : Bool := isReady (getUnit s (.mgmt 0)).own

/-- Whether a tenant's command of another device belongs to the lease that this device holds (R595). -/
def sameLease (s : State) (m : RemoteIn) : Bool := leaseLive s && m.lease = s.lease.id.toNat

/-- Whether a command of another device is honoured here for its role (R595). -/
def remoteHonoured (s : State) (m : RemoteIn) : Bool :=
  if m.role = .tenant then sameLease s m else m.peer / 2 ^ 15 = plainOf s

/-- A tenant's command whose lease this device does not hold, or holds no more: it is stale (R39, R613). -/
def staleRemote (s : State) (c : CmdRec) : State :=
  failCmd s c stStaleEpoch (match parseTarget s c.hdr with | .inl t => (targetEpoch s t).toNat | .inr _ => 0)

/-- REMOTE_COMMAND (R474): checked and executed here for the role it holds at the issuing device. -/
def execRemoteCommand (m : RemoteIn) (s : State) : Res :=
  if !mgmtReady s then .next s
  else
    let o := Origin.remote m.peer m.tid
    let c := newCmd s o m.role m.hdr m.params
    let xs := headerBad m.hdr true false
    if m.role = .tenant && !sameLease s m then .next (staleRemote s c)
    else if !remoteHonoured s m then .next (if xs.isEmpty then refuseNew s c 3 3 else failCmd s c stBadParam (badDetail xs))
    else .next (arrive s o m.role 3 true false m.hdr m.params)

/-- I3C_COMMAND (R590): the first block is the header, the rest its parameters; there is no host memory on this path. -/
def execI3cCommand (blocks : List (BitVec 512)) (s : State) : Res :=
  match blocks with
  | [] => .next s
  | h :: ps => if mgmtReady s then .next (arrive s .i3c .operator 1 true true h ps) else .next s

end Sys2Proof.Machine
end

