-- ==== Sys2Proof/Machine/Atomic.lean ====
section
/-! DEFINITION. Atomic commands: prepare, decision, doubt, the lead and its log, LEASE_OPEN, LEASE_CLOSE, GROUP_DEFINE,
SEQ_COMMIT, SEQ_RETRACT and SEQ_PREFILL to a set, and the timeout of a command (14_command_interface.md R481, R508 to
R512; 01_architecture.md R24, R29, R33; 11_sequence_engine.md R384, R389, R390; 17_security_and_leasing.md R600 to R613;
18_bring_up_reset_recovery.md R636). -/

namespace Sys2Proof.Machine

/-! ### Prepare (R508) -/

/-- The identifier that a lead adds to the parameters of LEASE_OPEN for its members (R603). -/
def lidOf (ps : List (BitVec 512)) : Nat := bits (paramNat ps) 1055 1024

/-- VERIFY of LEASE_CLOSE (R608). -/
def closeVerify (ps : List (BitVec 512)) : Bool := (paramNat ps).testBit 511

/-- Takes frames into a context's reservation, or out of it (R367, R508). -/
def moreReserve (s : State) (ctx n : Nat) : State :=
  setSeq s { s.seq with reserve := smapSet 0 s.seq.reserve ctx (smapGet 0 s.seq.reserve ctx + n) }
def lessReserve (s : State) (ctx n : Nat) : State :=
  setSeq s { s.seq with reserve := smapSet 0 s.seq.reserve ctx (smapGet 0 s.seq.reserve ctx - n) }

/-- What a prepare gives: a status, its DETAIL, and what it reserves. -/
structure PrepOut where
  status : Nat
  detail : Nat
  reserve : List Nat
  deriving DecidableEq, Repr

/-- Prepare of LEASE_OPEN with its DETAIL (R601). -/
def prepOpen (s : State) (ps : List (BitVec 512)) : PrepOut :=
  let st := prepareLeaseOpen s ps
  let held := allUnits.find? fun u => (getUnit s u).own = .fenced || (getUnit s u).own = .resetting
  let out := (List.finRange 256).find? fun n => (getUnit s (.channel n)).own = .outOfService
  if st = stBadParam then ⟨st, badDetail (checkLeaseOpen s ps), []⟩
  else if st = stNotReady then ⟨st, uidOf (held.getD .device), []⟩
  else if st = stOutOfService then ⟨st, (match out with | some n => uidOf (.channel n) | none => 0), []⟩
  else ⟨st, 0, []⟩

/-- Prepare of SEQ_COMMIT or SEQ_RETRACT: its frames are reserved (R389, R508). -/
def prepSeq (s : State) (c : CmdRec) (g : BitVec 256) (f : BitVec 1024) : PrepOut × State :=
  let st := prepareCommit s g c
  match getCtx s (hCtx c.hdr) with
  | none => (⟨stBadParam, badDetail [], []⟩, s)
  | some r =>
    if st ≠ stOk then (⟨st, if st = stBadParam then badDetail [] else 0, []⟩, s)
    else
      let n := (writeFrames s g (hCtx c.hdr) r.len (r.len + (cmdPath c).length)).1
      let t := supply (cNnodes f + 1) s g f n
      if freeCount t g < n + reserveSum t then (⟨stNoResource, 0, []⟩, s) else (⟨stOk, 0, [n]⟩, moreReserve t (hCtx c.hdr) n)

/-- Prepare of an atomic opcode on this device. -/
def prepareOp (s : State) (c : CmdRec) : PrepOut × State :=
  let op := hOpcode c.hdr
  if op = 0x0201 then (prepOpen s c.params, s)
  else if op = 0x0202 then
    let st := prepareLeaseClose s
    (⟨st, if st = stOk then 0 else uidOf .device, []⟩, s)
  else if op = 0x0801 then (⟨stOk, 0, []⟩, s)
  else match s.seq.geom, s.seq.cfg with
    | some g, some f =>
      if op = 0x0504 then
        let x := preparePrefill s g f c
        (⟨x.1, if x.1 = stBadParam then badDetail [] else 0, x.2⟩, s)
      else prepSeq s c g f
    | _, _ => (⟨stNotReady, uidOf (.seqEngine 0), []⟩, s)

/-- A member's record of a command that it may prepare. -/
def prepRecOf (s : State) (lead key : Nat) (c : CmdRec) : PrepRec :=
  { lead := lead, key := key, role := c.role, acceptedAt := c.acceptedAt, order := c.id, hdr := c.hdr, params := c.params
    deadline := now s + cmdTimeout c.hdr (now s), inDoubt := false, lastAsk := now s, reserve := [] }

/-- Whether a command's object is already prepared here (R509). -/
def conflicts (s : State) (p : PrepRec) : Bool := s.cmd.prepared.any fun q => prepObj s q = prepObj s p

def pushPrep (s : State) (p : PrepRec) : State := { s with cmd := { s.cmd with prepared := s.cmd.prepared ++ [p] } }

def sameKey (lead key : Nat) (p : PrepRec) : Bool := p.lead == lead && p.key == key

def dropPrep (s : State) (lead key : Nat) : State :=
  { s with cmd := { s.cmd with prepared := s.cmd.prepared.filter fun p => !sameKey lead key p } }

/-- Changes the record under a key. -/
def modPrep (s : State) (lead key : Nat) (f : PrepRec → PrepRec) : State :=
  { s with cmd := { s.cmd with prepared := s.cmd.prepared.map fun p => if sameKey lead key p then f p else p } }

def findPrep (s : State) (lead key : Nat) : Option PrepRec := s.cmd.prepared.find? (sameKey lead key)

/-- Prepares one member: at once ST_NOT_READY on a conflict (R509), else its checks and what it reserves. -/
def prepareMember (s : State) (lead key : Nat) (u : PUnit) (c : CmdRec) : PrepOut × State :=
  let p := prepRecOf s lead key c
  if conflicts s p then (⟨stNotReady, uidOf u, []⟩, s)
  else
    let x := prepareOp s c
    if x.1.status = stOk then (x.1, pushPrep x.2 { p with reserve := x.1.reserve }) else x

/-- Why a member cannot take a prepare; LEASE_CLOSE runs whatever state its device is in. -/
def prepCheck (s : State) (op : Nat) (ps : List (BitVec 512)) (u : PUnit) (epoch : BitVec 16) (accepted : Nat) :
    Option (Nat × Nat) :=
  match fanCheck s op ps u epoch accepted with
  | some x => if op = 0x0202 && (x.1 = stOutOfService || x.1 = stFenced || x.1 = stNotReady) then none else some x
  | none => none

/-! ### Commit and abort (R508, R512) -/

/-- The command a prepared member runs. -/
def prepCmd (s : State) (p : PrepRec) : CmdRec :=
  { newCmd s (.remote p.lead p.key) p.role p.hdr p.params with id := p.order, acceptedAt := p.acceptedAt }

/-- Applies a commit here; LEASE_CLOSE has its own ways. `hits` is the smallest hit count (R384). -/
def commitPrep (s : State) (p : PrepRec) (hits : Nat) : State :=
  let c := prepCmd s p
  let op := hOpcode p.hdr
  if op = 0x0201 then commitLeaseOpen s p.params (lidOf p.params)
  else if op = 0x0801 then
    if p.lead = selfId s then commitGroupDefine s p.params
    else commitMembership s (hTarget p.hdr % 2 ^ 32) (p.lead * 2 ^ 48 + groupUid (bits (paramNat p.params) 511 500))
  else match s.seq.geom, s.seq.cfg with
    | some g, some f =>
      if op = 0x0504 then commitPrefill s g f c (p.reserve.take hits)
      else
        let ctx := hCtx p.hdr
        let old := smapGet 0 s.seq.reserve ctx
        let t := (commitPath s g f ctx (cmdPath c) (cmNext p.params)).2
        setSeq t { t.seq with reserve := smapSet 0 t.seq.reserve ctx (old - p.reserve.headD 0) }
    | _, _ => s

/-- Releases what a prepare reserved. -/
def releasePrep (s : State) (p : PrepRec) : State :=
  if hOpcode p.hdr = 0x0507 ∨ hOpcode p.hdr = 0x0508 then lessReserve s (hCtx p.hdr) (p.reserve.headD 0) else s

/-- ATOMIC_IN_DOUBT and ATOMIC_RESOLVED (R512). -/
def doubtEvent (s : State) (p : PrepRec) (typ outcome : Nat) : State :=
  let u := prepUnit p
  unitEvent s typ (uidOf u) (epochOf s u) (hTag p.hdr) 1 (Config.atomicPayload outcome % 2 ^ 256)

/-- A member of another lead's LEASE_CLOSE closes; it acknowledges when the close has ended (R511, R609). -/
def remoteClose (s : State) (p : PrepRec) : State :=
  let k := { newCmd s (.remote p.lead (2 ^ 64 + p.key)) p.role p.hdr p.params with phase := .started, startedAt := some (now s) }
  commitLeaseClose (addCmd s k) k.id false (closeVerify p.params)

/-- Applies a decision that another lead sent, none for UNKNOWN, and acknowledges it (R511, R512). -/
def applyDecision (s : State) (p : PrepRec) (dec : Option Bool) (hits : Nat) : State :=
  let s := dropPrep s p.lead p.key
  let own := atomOwn p.role (hOpcode p.hdr)
  let tell := p.inDoubt || dec.isNone
  match dec with
  | some true =>
    let s := if hOpcode p.hdr = 0x0202 then remoteClose s p else sendMsg (commitPrep s p hits) own p.lead 7 [p.key]
    if tell then doubtEvent s p 0x0013 2 else s
  | some false =>
    let s := sendMsg (releasePrep s p) own p.lead 7 [p.key]
    if tell then doubtEvent s p 0x0013 1 else s
  | none =>
    let s := releasePrep s p
    let s := if hOpcode p.hdr / 256 = 5 then damage s (hCtx p.hdr) 4 0 else s
    doubtEvent s p 0x0013 3

/-- A decision for a lead's key; without a record the member answers UNKNOWN (R613). -/
def takeDecision (s : State) (lead key : Nat) (dec : Option Bool) (hits : Nat) : State :=
  match findPrep s lead key with
  | some p => applyDecision s p dec hits
  | none => if dec.isSome then sendMsg s false lead 14 [key] else s

/-- ATOMIC_DECISION (R511, R512): the lead's decision, or UNKNOWN. -/
def execAtomicDecision (lead key : Nat) (decision : Option Bool) (hits : Nat) (s : State) : Res :=
  if lead = selfId s then .next s else .next (takeDecision s lead key decision hits)

/-! ### Members of other leads (R508, R509, R512) -/

/-- A member's vote (R511). -/
def vote (s : State) (m : RemoteIn) (st detail hits : Nat) : State :=
  sendMsg s (atomOwn m.role (hOpcode m.hdr)) m.peer 6 [m.tid, st, detail, hits]

/-- A prepare from another lead: UNKNOWN where it belongs to a lease that this device does not hold, the checks, then the vote; `none` while an earlier command on its context is open (R358). -/
def prepareAt (s : State) (m : RemoteIn) : Option State :=
  let op := hOpcode m.hdr
  let xs := headerBad m.hdr true false ++ chk (atomicOpcode op) 496
  if !mgmtReady s then none
  else if m.role = .tenant && !sameLease s m then some (sendMsg s false m.peer 14 [m.tid])
  else if !xs.isEmpty then some (vote s m stBadParam (badDetail xs) 0)
  else if !remoteHonoured s m then
    some (vote (auditRefusal s (roleCode m.role) 3 0 op (hTarget m.hdr) 3 (paramDigest m.params)) m stRefused 0 0)
  else match unitOfUid (hTarget m.hdr % 2 ^ 32) with
    | none => some (vote s m stBadParam (badDetail [384 + uidBadBit (hTarget m.hdr % 2 ^ 32)]) 0)
    | some u =>
      let k := { newCmd s (.remote m.peer m.tid) m.role m.hdr m.params with target := .unit u }
      let bad := if op = 0x0801 then [] else paramBad s op m.role (.unit u) m.params
      match if op = 0x0801 then none else prepCheck s op m.params u (BitVec.ofNat 16 (hEpoch m.hdr)) (now s) with
      | some x => some (vote s m x.1 x.2 0)
      | none =>
        if !bad.isEmpty then some (vote s m stBadParam (badDetail bad) 0)
        else if conflicts s (prepRecOf s m.peer m.tid k) then some (vote s m stNotReady (uidOf u) 0)
        else if op / 256 = 5 && !seqTurn s k [hCtx m.hdr] false then none
        else
          let x := prepareMember { s with cmd := { s.cmd with nextId := s.cmd.nextId + 1 } } m.peer m.tid u k
          some (vote x.2 m x.1.status x.1.detail x.1.reserve.length)

/-- ATOMIC_PREPARE (R508, R509, R613). -/
def execAtomicPrepare (m : RemoteIn) (s : State) : Res :=
  if m.peer = selfId s then .next s else match prepareAt s m with | some t => .next t | none => .next s

/-- ATOMIC_IN_DOUBT (R512): the command's timeout has passed without a decision. -/
def execAtomicInDoubt (lead key : Nat) (s : State) : Res :=
  match findPrep s lead key with
  | none => .next s
  | some p =>
    if lead = selfId s || p.inDoubt || now s < p.deadline then .next s
    else
      .next (doubtEvent (modPrep s lead key fun q => { q with inDoubt := true, lastAsk := now s }) p 0x0012 0)

/-- ATOMIC_DECISION_QUERY (R512): every 1 ms while in doubt. -/
def execAtomicDecisionQuery (lead key : Nat) (s : State) : Res :=
  match findPrep s lead key with
  | none => .next s
  | some p =>
    if !p.inDoubt || now s < p.lastAsk + 1000000 then .next s
    else
      .next (sendMsg (modPrep s lead key fun q => { q with lastAsk := now s }) (atomOwn p.role (hOpcode p.hdr)) lead 13 [key])

/-! ### The lead (R508, R511) -/

/-- The key of member `i` of a command. -/
def atomKey (id i : Nat) : Nat := id * 2 ^ 16 + i

/-- Records a decision; the log keeps the last 4,096 (R511). -/
def logDecision (s : State) (id : Nat) (ok : Bool) (hits : Nat) : State :=
  let ds := s.cmd.decisions ++ [(id, ok, hits)]
  { s with cmd := { s.cmd with decisions := ds.drop (ds.length - 4096) } }

/-- The device that holds member `i`, where it is remote. -/
def farPeer (c : CmdRec) (i : Nat) : Option Nat :=
  match c.fan[i]? with
  | some (.remote x, _) => some (x / 2 ^ 48)
  | _ => none

/-- The index of a member key. -/
def keyIndex (p : PrepRec) : Nat := p.key % 2 ^ 16

/-- Applies a decision to one of the lead's own members. The close that a tenant issued answers it within (R610); one that
an operator issued ends its part later. -/
def settleMine (s : State) (id : Nat) (ok : Bool) (hits : Nat) (p : PrepRec) : State :=
  let s := dropPrep s p.lead p.key
  if !ok then releasePrep s p
  else if hOpcode p.hdr = 0x0202 then
    if p.role = .tenant then commitLeaseClose s id true (closeVerify p.params)
    else
      let k := { newCmd s (.sub id (keyIndex p)) p.role p.hdr p.params with phase := .started, startedAt := some (now s) }
      commitLeaseClose (addCmd s k) k.id false (closeVerify p.params)
  else commitPrep s p hits

/-- Sets the instant at which a context's NEXT became available, where NEXT is still that one: a later token of the same value cannot
be told from it (DESIGN CHOICE, log entry 150). -/
def stampNext (s : State) (ctx next t : Nat) : State :=
  updCtx s ctx fun r => if (r.state = csDecode || r.state = csSpec) && r.nextTok = next then { r with nextStamp := t } else r

/-- Takes an instant as the one at which a context's NEXT became available, where NEXT is still that one (R362). A step that has
already set its NEXT is judged by the deadline that this instant gives (R369). -/
def restamp (s : State) (ctx next t : Nat) : State :=
  let lat := match getCtx s ctx with | some r => r.latns | none => 0
  match s.seq.step with
  | some r =>
    if r.done.any fun x => x.ctx = ctx && x.deadline ≠ 0 then
      setSeq s { s.seq with step := some { r with done := r.done.map fun x =>
        if x.ctx = ctx && x.deadline ≠ 0 then { x with deadline := t + lat } else x } }
    else stampNext s ctx next t
  | none => stampNext s ctx next t

/-- A SEQ_COMMIT or SEQ_RETRACT of a set has finished: NEXT became available now, here and, by messages of kind 18, on the other
devices of the set (R362). -/
def stampSet (s : State) (c : CmdRec) : State :=
  if c.decided = some true && (hOpcode c.hdr = 0x0507 || hOpcode c.hdr = 0x0508) then
    let a := [hCtx c.hdr, cmNext c.params, now s]
    c.fan.foldl (fun s m => match m.1 with
      | .remote x => sendMsg s true (x / 2 ^ 48) 18 a
      | .unit (.seqEngine _) => restamp s (hCtx c.hdr) (cmNext c.params) (now s)
      | _ => s) s
  else s

/-- Ends a decided command whose members have all acknowledged. -/
def endAtomic (s : State) (id : Nat) : State :=
  match findCmd s id with
  | some c => if c.decided.isSome && c.waitFor.isEmpty && c.phase = .started then
      let r := atomicReply s c
      finishCmd (stampSet s c) id r.1 r.2 else s
  | none => s

/-- Decides: the log, the messages to the members that may have prepared, the lead's own members, and what to wait for
(R511). -/
def decideAtomic (s : State) (id : Nat) : State :=
  match findCmd s id with
  | none => s
  | some c =>
    let ok := c.waitFor.isEmpty && c.parts.all fun p => p.2.1 = stOk
    let hits := c.aux.headD 0
    let s := logDecision s id ok hits
    let far := (c.prepared ++ c.waitFor).filter fun i => (farPeer c i).isSome
    let s := far.foldl (fun s i =>
      sendMsg s (atomOwn c.role (hOpcode c.hdr)) ((farPeer c i).getD 0) 12 [atomKey id i, b2n ok, hits]) s
    let mine := s.cmd.prepared.filter fun p => p.lead = selfId s && p.key / 2 ^ 16 = id
    let closes := hOpcode c.hdr = 0x0202 && c.role ≠ .tenant
    let near := (mine.map keyIndex).filter fun i => i < c.fan.length
    let s := updCmd s id fun c => { c with
      decided := some ok
      waitFor := far ++ (if ok && closes then near else [])
      applied := if ok && !closes then near else [] }
    endAtomic (mine.foldl (fun s p => settleMine s id ok hits p) s) id

/-- Takes member `i`'s answer to its prepare. -/
def takePart (s : State) (id i st detail hits : Nat) : State :=
  let s := updCmd s id fun c => { c with
    parts := c.parts ++ [(i, st, detail)], waitFor := c.waitFor.erase i
    prepared := if st = stOk then c.prepared ++ [i] else c.prepared
    aux := if hOpcode c.hdr = 0x0504 && st = stOk then [min (c.aux.headD 0) hits] else c.aux }
  match findCmd s id with
  | some c => if (List.range c.fan.length).all fun j => (partOf c j).isSome then decideAtomic s id else s
  | none => s

/-- A vote of a remote member. -/
def takeVote (s : State) (peer key st detail hits : Nat) : State :=
  let id := key / 2 ^ 16
  let i := key % 2 ^ 16
  match findCmd s id with
  | some c => if c.decided.isNone && c.waitFor.contains i && farPeer c i = some peer then takePart s id i st detail hits else s
  | none => s

/-- An acknowledgement of a remote member. -/
def takeAckFrom (s : State) (peer key : Nat) : State :=
  let id := key / 2 ^ 16
  let i := key % 2 ^ 16
  match findCmd s id with
  | some c =>
    if c.decided.isSome && c.waitFor.contains i && farPeer c i = some peer then endAtomic (updCmd s id fun c => takeAck c i) id else s
  | none => s

/-- Answers a member in doubt: the logged decision, nothing while undecided, UNKNOWN where the log has none (R512). -/
def answerQuery (s : State) (peer key : Nat) : State :=
  let id := key / 2 ^ 16
  let own := (findCmd s id).any fun c => atomOwn c.role (hOpcode c.hdr)
  match s.cmd.decisions.find? fun d => d.1 = id with
  | some d => sendMsg s own peer 12 [key, b2n d.2.1, d.2.2]
  | none => if (findCmd s id).any fun c => c.decided.isNone then s else sendMsg s false peer 14 [key]

/-- UNKNOWN from another device: a member that has no such object, or a lead without its log (R512, R613). -/
def takeUnknown (s : State) (peer key : Nat) : State :=
  if (findPrep s peer key).isSome then takeDecision s peer key none 0 else takeVote s peer key stNotReady (uidOf .device) 0

/-- Begins the prepare of a command to every entry of its fan-out, in order; all of them are asked before any answer of a
remote member counts. -/
def sendPrepares (s : State) (c : CmdRec) (fan : List (Member × BitVec 16)) (ps : List (BitVec 512)) (aux : List Nat) : State :=
  let far := fan.zipIdx.filterMap fun m => match m.1.1 with | .remote _ => some m.2 | _ => none
  let s := updCmd s c.id fun c => { c with fan := fan, aux := aux, waitFor := far }
  let op := hOpcode c.hdr
  let s := fan.zipIdx.foldl (fun s m => match m.1.1 with
    | .remote x => sendCmd s 15 (x / 2 ^ 48) (atomKey c.id m.2) c.role (memberHdr c.hdr x m.1.2.toNat) ps
    | _ => s) s
  let s := fan.zipIdx.foldl (fun s m => match m.1.1 with
    | .unit u =>
      if op = 0x0801 then takePart s c.id m.2 stOk 0 0
      else
        match prepCheck s op c.params u m.1.2 c.acceptedAt with
        | some x => takePart s c.id m.2 x.1 x.2 0
        | none =>
          let x := prepareMember s (selfId s) (atomKey c.id m.2) u { c with hdr := memberHdr c.hdr (uidOf u) m.1.2.toNat, params := ps }
          takePart x.2 c.id m.2 x.1.status x.1.detail x.1.reserve.length
    | .group _ => takePart s c.id m.2 stOk 0 0
    | .remote _ => s) s
  match findCmd s c.id with
  | some d => if d.fan.isEmpty && d.decided.isNone && d.phase = .started then decideAtomic s c.id else s
  | none => s

/-- An atomic command to a group (R29, R508): ready direct members only, but for a LEASE_CLOSE (R596), every unit of the nesting
prepared, then one decision. -/
def leadAtomic (s : State) (c : CmdRec) (g : Nat) : State :=
  let op := hOpcode c.hdr
  let ready := match groupRec s g with
    | some r => op = 0x0202 || r.members.all fun m => isReady (memberState 4097 s m)
    | none => false
  if !ready then finishCmd s c.id stNotReady (groupUid g)
  else
    let fan := dedupFan (fanOut 4097 s true g).1
    if op = 0x0201 then
      let (n, s) := drawRandom s
      sendPrepares s c fan (c.params ++ [BitVec.ofNat 512 (leaseIdOf n)]) [leaseIdOf n]
    else sendPrepares s c fan c.params (if op = 0x0504 then [2 ^ 21] else [])

/-- Whether an atomic command on one unit meets an object that is prepared already (R509). -/
def blockedObj (s : State) (c : CmdRec) : Bool := conflicts s (prepRecOf s (selfId s) (atomKey c.id 0) c)

/-! ### LEASE_OPEN and LEASE_CLOSE (R600 to R611) -/

/-- LEASE_OPEN on this device alone. -/
def openHere (s : State) (c : CmdRec) : State :=
  let x := prepOpen s c.params
  if x.status ≠ stOk then finishCmd s c.id x.status x.detail
  else
    let (n, s) := drawRandom s
    finishCmd (commitLeaseOpen s c.params (leaseIdOf n)) c.id stOk (leaseIdOf n)

/-- LEASE_CLOSE on this device alone. -/
def closeHere (s : State) (c : CmdRec) : State :=
  let st := prepareLeaseClose s
  if st ≠ stOk then finishCmd s c.id st (uidOf .device)
  else commitLeaseClose s c.id (c.role = .tenant) (closeVerify c.params)

/-- Runs an atomic command of the lease: on this device, or with the members of a group. -/
def runLease (id op : Nat) (here : State → CmdRec → State) (s : State) : Res :=
  match startCmd s id op with
  | .wait => .next s
  | .ended s => .next s
  | .go s c =>
    match c.target with
    | .group g => .next (leadAtomic s c g)
    | _ => if blockedObj s c then .next (finishCmd s id stNotReady (uidOf .device)) else .next (here s c)

/-- LEASE_OPEN (R601, R602, R603). -/
def execLeaseOpen (id : Nat) (s : State) : Res := runLease id 0x0201 openHere s

/-- LEASE_CLOSE (R608, R610, R611). -/
def execLeaseClose (id : Nat) (s : State) : Res := runLease id 0x0202 closeHere s

/-! ### GROUP_DEFINE (R24, R502, R503, R505) -/

/-- Size of the member vector of a group to be defined, in 16-byte units (R505). -/
def newVecSize (s : State) (ms : List Member) : Nat :=
  1 + ms.length + (ms.map fun m => match m with | .group h => groupVecSize s h | _ => 0).foldl (· + ·) 0

/-- Units of other devices that a list of members reaches through its groups alone, each with the place of the first group that
holds it (R35). -/
def nestedRemotes (s : State) (ms : List Member) : List (Member × Nat) :=
  (ms.zipIdx.flatMap fun m => match m.1 with
    | .group h => (expansion s h).filterMap fun x => match x with | .remote f => if ms.contains (.remote f) then none else some (.remote f, m.2) | _ => none
    | _ => []).foldl (fun acc x => if acc.any fun y => y.1 = x.1 then acc else acc ++ [x]) []

/-- GROUP_DEFINE that reaches units of other devices, directly or through nested groups: they prepare to record their
membership, each once (R35, R503). -/
def leadDefine (s : State) (c : CmdRec) (ms : List Member) : State :=
  let p := prepRecOf s (selfId s) (atomKey c.id 0xFFFF) c
  let far := nestedRemotes s ms
  let fan := ms.zipIdx.map fun m => (if (ms.take m.2).contains m.1 then .unit .device else m.1, (0 : BitVec 16))
  sendPrepares (pushPrep s p) c (fan ++ far.map fun x => (x.1, 0)) c.params (newVecSize s ms :: far.map (·.2))

/-- GROUP_DEFINE. -/
def execGroupDefine (id : Nat) (s : State) : Res :=
  match startCmd s id 0x0801 with
  | .wait => .next s
  | .ended s => .next s
  | .go s c =>
    let bad := checkGroupDefine s c.params
    let ms := parsedMembers s (paramNat c.params)
    if !bad.isEmpty then .next (finishCmd s id stBadParam (badDetail bad))
    else if blockedObj s c then .next (finishCmd s id stNotReady (uidOf .device))
    else if (reachOf s ms).any fun m => match m with | .remote _ => true | _ => false then .next (leadDefine s c ms)
    else .next (finishCmd (commitGroupDefine s c.params) id stOk (newVecSize s ms))

/-! ### SEQ_PREFILL, SEQ_COMMIT, SEQ_RETRACT (R380, R384, R388 to R390) -/

/-- Runs one of them: on one engine when its turn has come, or with the members of a set. Where the context is held by a
prepared command, a commit or a retract fails at once (R509). -/
def seqAtomic (id op : Nat) (s : State) (eff : State → CmdRec → BitVec 256 → BitVec 1024 → Nat × Nat × State) : Res :=
  match waiting s id op with
  | none => .next s
  | some k =>
    let ctx := hCtx k.hdr
    match k.target with
    | .group g =>
      let mine := (fanOut 4097 s true g).1.any fun m => match m.1 with | .unit (.seqEngine _) => true | _ => false
      if mine && !heldCtx s ctx && !seqTurn s k [ctx] false then .next s
      else match startCmd s id op with
        | .wait => .next s
        | .ended s => .next s
        | .go s c => .next (leadAtomic s c g)
    | _ =>
      if op ≠ 0x0504 && heldCtx s ctx then
        match startCmd s id op with
        | .wait => .next s
        | .ended s => .next s
        | .go s c => .next (finishCmd s c.id stNotReady (uidOf (.seqEngine 0)))
      else seqCtxCmd id op s (fun _ => []) eff

/-- SEQ_PREFILL (R380, R384). -/
def execSeqPrefill (id : Nat) (s : State) : Res := seqAtomic id 0x0504 s fun s c g f => outcome (prefillCtx s c g f)

/-- SEQ_COMMIT (R389). -/
def execSeqCommit (id : Nat) (s : State) : Res :=
  seqAtomic id 0x0507 s fun s c g f => let x := commitCtx s c g f; (x.1, 0, x.2)

/-- SEQ_RETRACT (R390). -/
def execSeqRetract (id : Nat) (s : State) : Res :=
  seqAtomic id 0x0508 s fun s c g f => let x := commitCtx s c g f; (x.1, 0, x.2)

/-! ### Timeouts (R33, R481, R511, R636) -/

/-- Whether a command is a node of a graph: it has no timeout of its own, its command's stands for it. -/
def graphNode (s : State) (c : CmdRec) : Bool :=
  match c.origin with
  | .sub p _ => (findCmd s p).any fun d => d.graph.isSome
  | _ => false

/-- An undecided lead's timeout: the members that have not voted count as ST_TIMEOUT, and the decision is ABORT (R33,
R511). -/
def abortAtomic (s : State) (c : CmdRec) : State :=
  let s := decideAtomic s c.id
  let s := updCmd s c.id fun d => { d with parts := d.parts ++ c.waitFor.map fun i => (i, stTimeout, uidOf .device) }
  finishCmd s c.id stTimeout (2 ^ 31)

/-- Whether a command is an atomic one whose members have been asked to prepare. -/
def leading (c : CmdRec) : Bool := atomicOpcode (hOpcode c.hdr) && c.phase = .started && !c.fan.isEmpty

/-- Fences the smallest domain that holds a command's work, and drains it for 50 us (R636, R637). Work inside a larger domain that
drains is answered as that drain ends (R634). -/
def fenceWork (s : State) (c : CmdRec) : State :=
  let root := smallestDomain (workUnits 4 s c)
  if fenceHeld s root then s
  else
    match largerAct s root with
    | some a => match a.phase with
      | .draining _ => updCmd s c.id fun c => { c with hung := some a.root }
      | .resetting _ _ => finishCmd s c.id stTimeout (uidOf a.root)
    | none => let s := updCmd s c.id fun c => { c with hung := some root }
      checkAllReady (putAct s ⟨root, .draining (now s + 50000), 1, [], now s⟩ .fenced) 1 (now s)

/-- Parts of a command that went to other devices: their entries record ST_TIMEOUT (R33). -/
def timeoutFar (s : State) (id : Nat) : State :=
  let fwd := (s.cmd.inflight.filter fun d => d.phase = .forwarded
    && (match d.origin with | .sub p _ => p = id | _ => false)).map fun d => (d.id, memberUid d.target)
  fwd.foldl (fun s k => finishCmd s k.1 stTimeout k.2) s

/-- COMMAND_TIMEOUT (R481, R511, R636): FLAG_WAIT ends, a lead aborts or stops waiting for acknowledgements, a command sent
to another device ends; the domain of any other command is fenced. -/
def execCommandTimeout (id : Nat) (s : State) : Res :=
  match findCmd s id with
  | none => .next s
  | some c =>
    if c.phase = .finished ∨ c.phase = .refused ∨ c.hung.isSome ∨ graphNode s c
        ∨ now s < c.acceptedAt + cmdTimeout c.hdr c.acceptedAt then .next s
    else if hOpcode c.hdr = 0x0305 ∧ c.fan.isEmpty then .next (finishCmd s id stTimeout (memberUid c.target))
    else if c.phase = .forwarded ∨ c.phase = .held then .next (finishCmd s id stTimeout (memberUid c.target))
    else if c.decided.isSome then
      .next (finishCmd (stampSet s c) id stTimeout (2 ^ 31 + (if c.decided = some true then 2 ^ 30 else 0)))
    else if leading c then .next (abortAtomic s c)
    else
      let s := timeoutFar s id
      match findCmd s id with
      | none => .next s
      | some c => if c.phase = .finished then .next s else .next (fenceWork s c)

end Sys2Proof.Machine
end

