-- ==== Sys2Proof/Machine/Attn.lean ====
section
/-! DEFINITION. Attention units: requests of the mailboxes, walks through the look-aside buffer, line tag checks, FETCH,
APPEND, STAGE, XPOSE and MERGE (10_attention_and_kv.md R310, R322 to R341, R347, R348). -/

namespace Sys2Proof.Machine

/-! ### Requests (R329 to R331) -/

def aqOp (q : BitVec 512) : Nat := bits q.toNat 511 508
def aqSpr (q : BitVec 512) : Bool := bit q.toNat 507
def aqKt (q : BitVec 512) : Bool := bit q.toNat 506
def aqVn (q : BitVec 512) : Bool := bit q.toNat 505
def aqAllh (q : BitVec 512) : Bool := bit q.toNat 504
def aqHead (q : BitVec 512) : Nat := bits q.toNat 503 499
def aqCtx (q : BitVec 512) : Nat := bits q.toNat 498 489
def aqLayer (q : BitVec 512) : Nat := bits q.toNat 488 481
def aqPos (q : BitVec 512) : Nat := bits q.toNat 463 432
def aqCount (q : BitVec 512) : Nat := bits q.toNat 431 424
def aqRows (q : BitVec 512) : Nat := bits q.toNat 423 416
def aqDst (q : BitVec 512) : Nat := bits q.toNat 415 384
def aqDstride (q : BitVec 512) : Nat := bits q.toNat 383 352
def aqSrc (q : BitVec 512) : Nat := bits q.toNat 351 320
def aqSstride (q : BitVec 512) : Nat := bits q.toNat 319 288
def aqFlagaddr (q : BitVec 512) : Nat := bits q.toNat 287 224
def aqFlagval (q : BitVec 512) : Nat := bits q.toNat 223 192

/-- The slot of a request in its ring. -/
def ringEntryAt (k r n : Nat) : Nat := mailbox k r + n % 16 * 64

/-- A local address as core `r` of the cluster names it: its own scratchpad, any peer's, the cluster store, the die store
(R332). -/
def attnPlace (k r a : Nat) : Option Nat :=
  if a < 0x500000 then some (scratchAt (k * 8 + r) + a) else localPlace k none a

/-- A local range in one reachable store, outside the system part of the die store and outside the mailbox (R333). -/
def attnRange (k r a n : Nat) : Option Nat :=
  match attnPlace k r a with
  | none => none
  | some p =>
    if rngOverlap ⟨p, n⟩ ⟨mailbox k 0, 0x4000⟩ then none
    else match placeOf p with
      | some (.die _ o) => if o + n ≤ dieTenantEnd then some p else none
      | _ => if inStore p n then some p else none

/-- The flag a request names (R254, R333). -/
def attnFlag (k r a : Nat) : Option Nat :=
  if a ≥ 2 ^ 32 then none
  else match attnPlace k r a with
    | none => none
    | some p => if devFlagOk p then some p else none

/-- Selected heads. -/
def aqHeads (g : BitVec 256) (q : BitVec 512) : List Nat := if aqAllh q then List.range (gHkv g) else [aqHead q]

/-- Bytes of a page image, of an appended token and of a partial block (R332, R347). -/
def imageBytes (g : BitVec 256) (q : BitVec 512) : Nat := (aqHeads g q).length * 2 * blockBytes g
def tokenBytes (g : BitVec 256) (q : BitVec 512) : Nat := (aqHeads g q).length * 2 * kvVecBytes g
def partialBytes (g : BitVec 256) (q : BitVec 512) : Nat := 256 + aqRows q * headDim g * 4

/-- `n` local ranges of one length, a stride apart, as first address and length. -/
def strided (a stride n len : Nat) : List (Nat × Nat) := (List.range n).map fun i => (a + i * stride, len)

/-- Local ranges a request reads and writes: each token, row, partial block or image by itself (R332, R333). -/
def aqReads (g : BitVec 256) (q : BitVec 512) : List (Nat × Nat) :=
  match aqOp q with
  | 2 => strided (aqSrc q) (aqSstride q) (aqCount q) (tokenBytes g q)
  | 4 => strided (aqSrc q) (aqSstride q) 64 (64 * aqRows q)
  | 5 => strided (aqSrc q) (aqSstride q) (aqCount q) (partialBytes g q)
  | _ => []

def aqWrites (g : BitVec 256) (q : BitVec 512) : List (Nat × Nat) :=
  match aqOp q with
  | 1 => strided (aqDst q) (aqDstride q) (aqCount q) (imageBytes g q)
  | 4 => strided (aqDst q) (aqDstride q) 64 (64 * aqRows q)
  | 5 => [(aqDst q, partialBytes g q)]
  | _ => []

/-- The device address of a local address that a valid request names. -/
def attnAt (k r a : Nat) : Nat := (attnPlace k r a).getD 0

/-- Device ranges of local ranges; none where one is out of reach. -/
def attnRanges (k r : Nat) (xs : List (Nat × Nat)) : Option (List Rng) :=
  xs.foldr (fun x o => o.bind fun rs => (attnRange k r x.1 x.2).map fun p => ⟨p, x.2⟩ :: rs) (some [])

/-- Whether a request is valid (R333). -/
def attnValid (g : BitVec 256) (k r : Nat) (q : BitVec 512) : Bool :=
  let op := aqOp q
  let last := aqPos q + aqCount q - 1
  1 ≤ op && op ≤ 5 && bits q.toNat 480 464 = 0 && bits q.toNat 191 0 = 0
    && aqDstride q % 64 = 0 && aqSstride q % 64 = 0
    && (op = 4 || 1 ≤ aqCount q && aqCount q ≤ 64)
    && aqLayer q < gLayers g && (if aqAllh q then aqHead q = 0 else aqHead q < gHkv g)
    && (op ≠ 1 && op ≠ 3 || aqPos q % 64 = 0)
    && (!aqSpr q || op = 2 || op = 1 && aqPos q = 0 && aqCount q = 1)
    && (op ≠ 2 || (if aqSpr q then aqPos q + aqCount q ≤ 64 else last / 64 - aqPos q / 64 ≤ 1))
    && (op ≠ 1 || imageBytes g q ≤ aqDstride q) && (op ≠ 2 || tokenBytes g q ≤ aqSstride q)
    && (op ≠ 4 || aqRows q = 2 || aqRows q = 4)
    && (op ≠ 5 || 1 ≤ aqRows q && aqRows q ≤ 64 && partialBytes g q ≤ aqSstride q)
    && (aqFlagaddr q = 0 || (attnFlag k r (aqFlagaddr q)).isSome)
    && match attnRanges k r (aqReads g q), attnRanges k r (aqWrites g q) with
      | some a, some b => !anyOverlap a b
      | _, _ => false

/-! ### Walks (R324, R325) -/

/-- The look-aside copy of an entry. -/
def labPte (s : State) (k : Fin 24) (c l : Nat) (p : Option Nat) : Option LabEnt :=
  (s.clusters[k]).lab.find? fun (e : LabEnt) => e.ctx = c && e.layer = l && e.page = p

/-- The entry of a page as the walker gives it: the look-aside copy where it has one, else memory. -/
def lookPte (s : State) (g : BitVec 256) (k : Fin 24) (c l : Nat) (p : Option Nat) : Nat :=
  match labPte s k c l p with
  | some e => e.pte.toNat
  | none => readPte s g c l p

/-- Whether a page's index is one of the context's. -/
def pageKnown (g : BitVec 256) (p : Option Nat) : Bool := match p with | some p => decide (p < gMaxpg g) | none => true

/-- The demand read of an entry that the look-aside buffer lacks (R324, R396, R406). -/
def meetPte (s : State) (g : BitVec 256) (k : Fin 24) (c l : Nat) (p : Option Nat) : State :=
  if pageKnown g p && (labPte s k c l p).isNone then demand s (entryAddr g c l p) 8 else s

/-- Enters an entry into the look-aside buffer, most recently used first. -/
def enterLab (s : State) (k : Fin 24) (c l : Nat) (p : Option Nat) (x : Nat) : State :=
  let x := BitVec.ofNat 64 x
  let rest := (s.clusters[k]).lab.filter fun (e : LabEnt) => !(e.ctx = c && e.layer = l && e.page = p)
  { s with clusters := s.clusters.set k { s.clusters[k] with lab := (⟨c, l, p, x⟩ :: rest).take 64 } }

/-- A walk for a request: the entry, or why it fails; `ok` holds of the states that the request allows. An entry in a poisoned line
gives no data (R397): ST_POISONED with cause 2, page-table entry (DESIGN CHOICE, log entry 146). -/
def walk (s : State) (g : BitVec 256) (k : Fin 24) (c l : Nat) (p : Option Nat) (ok : Nat → Bool) (poison : Bool) :
    AttnFail ⊕ (Nat × State) :=
  if !pageKnown g p then .inl (plainFail stXlateFault)
  else if (labPte s k c l p).isNone && anyPoison s (entryAddr g c l p) 8 then .inl ⟨stPoisoned, some 2, 0, none⟩
  else
    let x := lookPte s g k c l p
    let held := pteState x = 1 || pteState x = 2
    if !ok (pteState x) then .inl ⟨stXlateFault, some 2, 0, none⟩
    else if held && (pteFrame x ≥ gFrames g || (pteShared x && pteSgrp x ≠ ctxSgrp s c)) then .inl ⟨stXlateFault, some 2, pteFrame x, none⟩
    else if held && poison && ptePoisoned x then .inl ⟨stPoisoned, some 0, pteFrame x, none⟩
    else .inr (x, if held then enterLab s k c l p x else s)

/-! ### FETCH (R332, R336, R340) -/

/-- Transposes `rows` by `cols` elements of `e` bytes. -/
def transpose {α : Type} (d : α) (rows cols e : Nat) (xs : List α) : List α :=
  (List.range cols).flatMap fun c => (List.range rows).flatMap fun r => (List.range e).map fun b =>
    xs.getD ((r * cols + c) * e + b) d

/-- The bytes of a range with the poison of their words. -/
def markedBytes (s : State) (a n : Nat) : List (Byte × Bool) :=
  (readBytes s a n).zipIdx.map fun x => (x.1, poisoned s (lineOf (a + x.2)))

/-- Writes bytes with their poison: a word that takes a poisoned byte becomes poisoned (R336). -/
def deliverPage (s : State) (a : Nat) (xs : List (Byte × Bool)) : State :=
  let s := writeBytes s a (xs.map (·.1))
  ((xs.zipIdx.filter fun x => x.1.2).map fun x => lineOf (a + x.2)).eraseDups.foldl (fun s l => setPoison s l true) s

/-- The image of a page from its base address, in its own layout (R314, R332). -/
def pageImage (s : State) (g : BitVec 256) (q : BitVec 512) (base : Nat) : List (Byte × Bool) :=
  let d := headDim g
  let e := elemSize g
  let z : Byte × Bool := (0, false)
  (aqHeads g q).flatMap fun h =>
    let kb := markedBytes s (base + 2 * h * blockBytes g) (blockBytes g)
    let vb := markedBytes s (base + 2 * h * blockBytes g + blockBytes g) (blockBytes g)
    (if aqKt q then transpose z 64 d e kb else kb) ++ (if aqVn q then vb else transpose z 64 d e vb)

/-- Lines of a frame that a request's heads take. -/
def headRanges (g : BitVec 256) (q : BitVec 512) (base : Nat) : List Rng :=
  (aqHeads g q).map fun h => ⟨base + 2 * h * blockBytes g, 2 * blockBytes g⟩

/-- The staged copy of a page that is current; an entry of another version is discarded (R340). -/
def stagedSlot (s : State) (k : Fin 24) (x : Nat) : Option Nat × State :=
  let ds := (s.clusters[k]).staging
  match ds.find? fun (d : StageDir) => d.frame = pteFrame x with
  | none => (none, s)
  | some d =>
    let rest := ds.filter fun (y : StageDir) => y.slot ≠ d.slot
    if d.version = pteVer x then (some d.slot, { s with clusters := s.clusters.set k { s.clusters[k] with staging := d :: rest } })
    else (none, { s with clusters := s.clusters.set k { s.clusters[k] with staging := rest } })

/-- Notes a page fetched while a step includes its context (R391). -/
def noteFetch (s : State) (k : Fin 24) (c l p : Nat) : State :=
  if inStep s c && !((s.clusters[k]).fetched.elem (c, l, p)) then
    { s with clusters := s.clusters.set k { s.clusters[k] with fetched := (s.clusters[k]).fetched ++ [(c, l, p)] } }
  else s

/-- Fetches one page to a device address. -/
def fetchPage (s : State) (g : BitVec 256) (k : Fin 24) (q : BitVec 512) (p : Option Nat) (dst : Nat) : Option AttnFail × State :=
  let c := aqCtx q
  let s := meetPte s g k c (aqLayer q) p
  match walk s g k c (aqLayer q) p (fun st => if p.isNone then st = 2 else st = 1) true with
  | .inl e => (some e, s)
  | .inr (x, s) =>
    let y := if p.isNone then (none, s) else stagedSlot s k x
    let s := y.2
    let f := pteFrame x
    let s := match p with | some n => noteFetch s k c (aqLayer q) n | none => s
    match y.1 with
    | some slot =>
      let a := stageSlot g k slot
      (none, deliverPage (demandAll s (headRanges g q a)) dst (pageImage s g q a))
    | none =>
      let rs := headRanges g q (frameAt g f)
      match tagFail s c (pteVer x) f false rs with
      | some e => (some e, s)
      | none =>
        let hit := rs.any fun r => anyPoison s r.lo r.len
        let s := deliverPage (demandAll s rs) dst (pageImage s g q (frameAt g f))
        (none, if hit then damage s c 0 f else s)

/-- Runs an action for each of some items until one fails. -/
def untilFail {α : Type} (f : State → α → Option AttnFail × State) (xs : List α) (s : State) : Option AttnFail × State :=
  xs.foldl (fun a x => match a.1 with | some e => (some e, a.2) | none => f a.2 x) (none, s)

/-- FETCH of every page a request names. -/
def doFetch (s : State) (g : BitVec 256) (k : Fin 24) (r : Nat) (q : BitVec 512) : Option AttnFail × State :=
  untilFail (fun s i => fetchPage s g k q (if aqSpr q then none else some (aqPos q / 64 + i)) (attnAt k r (aqDst q + i * aqDstride q)))
    (List.range (aqCount q)) s

/-! ### APPEND (R332, R337) -/

/-- Device ranges that a token's elements take in a frame. -/
def tokenRanges (g : BitVec 256) (q : BitVec 512) (f slot : Nat) : List Rng :=
  (aqHeads g q).flatMap fun h => (List.range 2).map fun j =>
    ⟨frameAt g f + (2 * h + j) * blockBytes g + slot * kvVecBytes g, kvVecBytes g⟩

/-- Writes token `i` of a request into a slot of a frame. -/
def putToken (s : State) (g : BitVec 256) (k : Fin 24) (r : Nat) (q : BitVec 512) (f i slot : Nat) : State :=
  (tokenRanges g q f slot).zipIdx.foldl (fun s x =>
    writeBytes s x.1.lo (readBytes s (attnAt k r (aqSrc q + i * aqSstride q) + x.2 * kvVecBytes g) x.1.len)) s

/-- The failure of a write of tokens: a line's tag forbids it, or a line lies on a lost channel (R323, R413). -/
def tokenFail (s : State) (c v f : Nat) (rs : List Rng) : Option AttnFail :=
  match tagFail s c v f true rs with
  | some e => some e
  | none => if channelsLost s rs then some ⟨stPoisoned, some 0, f, none⟩ else none

/-- The frame that a page's tokens go to, opened where it must be: its number and what entry it replaces, or why there is none, and the
state reached (R337). -/
def appendFrame (s : State) (g : BitVec 256) (k : Fin 24) (c l p slot : Nat) : (AttnFail ⊕ (Nat × Option Nat)) × State :=
  let s := meetPte s g k c l (some p)
  match walk s g k c l (some p) (fun st => st = 0 || st = 1) true with
  | .inl e => (.inl e, s)
  | .inr (x, s) =>
    if pteState x = 1 && !pteShared x then (.inr (pteFrame x, none), s)
    else
      let quota := match getCtx s c with | some r => r.frames + 1 ≤ r.pquota | none => false
      let s := if pteState x = 1 then demandAll s (slotRanges g (pteFrame x) slot) else s
      if pteState x = 0 && !quota then (.inl (plainFail stNoResource), s)
      else match if pteState x = 1 then readFail s c (pteVer x) (pteFrame x) (slotRanges g (pteFrame x) slot) else none with
        | some e => (.inl e, s)
        | none => match allocFrame s g c with
          | (none, t) => (.inl (plainFail stNoResource), keepRetired s t g)
          | (some f, s) => (.inr (f, some x), if pteState x = 1 then copySlots s g (pteFrame x) f slot else s)

/-- Appends the tokens of a request that fall into one page. -/
def appendPage (s : State) (g : BitVec 256) (k : Fin 24) (r : Nat) (q : BitVec 512) (p : Nat) : Option AttnFail × State :=
  let c := aqCtx q
  let l := aqLayer q
  let is_ := (List.range (aqCount q)).filter fun i => (aqPos q + i) / 64 = p
  let slot := fun i => (aqPos q + i) % 64
  match appendFrame s g k c l p (slot (is_.headD 0)) with
  | (.inl e, s) => (some e, s)
  | (.inr (f, old), s) =>
    let v := frVer (getFrame s g f)
    let ver := match old with | some _ => v | none => pteVer (lookPte s g k c l (some p))
    match tokenFail s c ver f (is_.flatMap fun i => tokenRanges g q f (slot i)) with
    | some e => (some e, if old.isSome then freeFrame s g f else s)
    | none =>
      let s := is_.foldl (fun s i => putToken s g k r q f i (slot i)) s
      match old with
      | none => (none, s)
      | some x =>
        let s := writePte s g c l (some p) (mkPte 1 false v 0 f)
        (none, if pteState x = 1 then dropRef s g (pteFrame x) else charge s c 1)

/-- Appends draft tokens to the sprout page (R385). -/
def appendSprout (s : State) (g : BitVec 256) (k : Fin 24) (r : Nat) (q : BitVec 512) : Option AttnFail × State :=
  let c := aqCtx q
  let s := meetPte s g k c (aqLayer q) none
  match walk s g k c (aqLayer q) none (fun st => st = 2) true with
  | .inl e => (some e, s)
  | .inr (x, s) =>
    let f := pteFrame x
    match tokenFail s c (pteVer x) f ((List.range (aqCount q)).flatMap fun i => tokenRanges g q f (aqPos q + i)) with
    | some e => (some e, s)
    | none => (none, (List.range (aqCount q)).foldl (fun s i => putToken s g k r q f i (aqPos q + i)) s)

/-- The source ranges of a request, as device ranges. -/
def sourceRngs (g : BitVec 256) (k r : Nat) (q : BitVec 512) : List Rng :=
  (aqReads g q).map fun x => ⟨attnAt k r x.1, x.2⟩

/-- Runs an action of a request whose source ranges are free of poison; a poisoned one fails it (R335). -/
def withSource (s : State) (rs : List Rng) (act : State → Option AttnFail × State) : Option AttnFail × State :=
  if rs.any fun x => anyPoison s x.lo x.len then (some (plainFail stPoisoned), demandAll s rs) else act (demandAll s rs)

/-- APPEND: each page a request's tokens fall into, in order. -/
def doAppend (s : State) (g : BitVec 256) (k : Fin 24) (r : Nat) (q : BitVec 512) : Option AttnFail × State :=
  withSource s (sourceRngs g k r q) fun s =>
    if aqSpr q then appendSprout s g k r q
    else
      let p := aqPos q / 64
      let n := (aqPos q + aqCount q - 1) / 64 + 1 - p
      untilFail (fun s i => appendPage s g k r q (p + i)) (List.range n) s

/-! ### STAGE (R339) -/

/-- The slot a page takes: a free one, or that of the least recently fetched copy. -/
def takeSlot (s : State) (g : BitVec 256) (k : Fin 24) : Option Nat :=
  match freeSlots s g k with
  | i :: _ => some i
  | [] => ((s.clusters[k]).staging.getLast?).map (·.slot)

/-- Stages one page where it qualifies; one that is staged already keeps its slot. -/
def stageOne (s : State) (g : BitVec 256) (k : Fin 24) (c l p : Nat) : Option AttnFail × State :=
  let s := meetPte s g k c l (some p)
  match walk s g k c l (some p) (fun _ => true) false with
  | .inl e => (some e, s)
  | .inr (x, s) =>
    let mark := fun (s : State) => if pteStaged x then s else writePte s g c l (some p) (x + 2 ^ 58)
    if !stageable s x c p then (none, s)
    else if (s.clusters[k]).staging.any fun (d : StageDir) => d.frame = pteFrame x && d.version = pteVer x then (none, mark s)
    else match readFail s c (pteVer x) (pteFrame x) [⟨frameAt g (pteFrame x), pageSize g⟩] with
      | some e => (some e, demand s (frameAt g (pteFrame x)) (pageSize g))
      | none => match takeSlot s g k with
        | none => (none, s)
        | some i => (none, mark (stagePage s g k i (pteFrame x) (pteVer x)))

def doStage (s : State) (g : BitVec 256) (k : Fin 24) (_r : Nat) (q : BitVec 512) : Option AttnFail × State :=
  untilFail (fun s i => stageOne s g k (aqCtx q) (aqLayer q) (aqPos q / 64 + i)) (List.range (aqCount q)) s

/-! ### Run-ahead prefetch (R391) -/

/-- The next page to prefetch: of the step's decode and verify contexts, layer 0 first, then in ascending CTX, to the cluster
that fetched it in this step, where its staging area has a free slot. -/
def prefetchNext (s : State) (g : BitVec 256) (r : StepRun) : Option (Fin 24 × Nat × Nat × Nat) :=
  let goes := fun (c : Nat) => match getCtx s c with | some x => x.state = csDecode || x.state = csSpec | none => false
  let cs := ((r.plan.filter fun e => e.kind ≠ kPrefill).map (·.ctx)).filter goes
  let todo := (List.range (gLayers g)).flatMap fun l => cs.flatMap fun c => (List.finRange 24).flatMap fun k =>
    ((s.clusters[k]).fetched.filter fun (x : Nat × Nat × Nat) => x.1 = c && x.2.1 = l).map fun (x : Nat × Nat × Nat) => (k, c, l, x.2.2)
  todo.find? fun (x : Fin 24 × Nat × Nat × Nat) =>
    let p := readPte s g x.2.1 x.2.2.1 (some x.2.2.2)
    stageable s p x.2.1 x.2.2.2 && !anyPoison s (pteAddr g x.2.1 x.2.2.1 x.2.2.2) 8 && !(freeSlots s g x.1).isEmpty && isReady (baseState s (.attn x.1))
      && !((s.clusters[x.1]).staging.any fun d => d.frame = pteFrame p && d.version = pteVer p)

/-- RUN_AHEAD_PREFETCH (R391): while a step runs, the engine sends one STAGE of one page to the unit of a cluster with a free
staging slot. It acts as a request of a mailbox does, but has no flag and no ring to tell of a failure (R335). -/
def execRunAheadPrefetch (s : State) : Res :=
  match s.seq.step, s.seq.geom with
  | some r, some g =>
    if r.ended.isSome || frozen s then .next s
    else match prefetchNext s g r with
      | none => .next s
      | some (k, c, l, p) =>
        let x := stageOne s g k c l p
        .next (match x.1 with
          | some e => attnReport x.2 k c 0 e
          | none => x.2)
  | _, _ => .next s

/-! ### XPOSE and MERGE (R332, R347, R348) -/

/-- XPOSE: a tile of 64 by 64 elements transposed. Source rows that overlap are read as they lie; destination rows that overlap are
written in ascending order, so that the later one stays (R332; DESIGN CHOICE, log entry 140). -/
def doXpose (s : State) (g : BitVec 256) (k : Fin 24) (r : Nat) (q : BitVec 512) : Option AttnFail × State :=
  withSource s (sourceRngs g k r q) fun s =>
    let e := aqRows q
    let row := fun i => readBytes s (attnAt k r (aqSrc q + i * aqSstride q)) (64 * e)
    let t := transpose (0 : Byte) 64 64 e ((List.range 64).flatMap row)
    (none, (List.range 64).foldl (fun s i =>
      writeBytes s (attnAt k r (aqDst q + i * aqDstride q)) ((t.drop (i * 64 * e)).take (64 * e))) s)

/-- The environment of MERGE: RNE, subnormals kept. -/
def mergeEnv : FEnv := ⟨.rne, false, false⟩

def negInf32 : Nat := 0xFF800000

/-- The largest of some LSE values, minus infinity ignored (R348 step 1). -/
def maxLse (ls : List Nat) : Nat :=
  (ls.filter fun x => x ≠ negInf32).foldl (fun a x => if a = negInf32 || fOrd (dec32 a) (dec32 x) == .lt then x else a) negInf32

/-- One row of MERGE: its LSE and elements (R348). -/
def mergeRow (ls : List Nat) (os : List (List Nat)) (d : Nat) : Nat × List Nat :=
  if ls.all (· = negInf32) then (negInf32, List.replicate d 0)
  else
    let l := maxLse ls
    let ws := ls.map fun x => if x = negInf32 then 0 else (vfnVal 0 (fSub fmt32 mergeEnv x l).1).1
    let sum := ws.foldl (fun a w => (fAdd fmt32 mergeEnv a w).1) 0
    let es := (List.range d).map fun j =>
      let n := (ws.zip os).foldl (fun a (x : Nat × List Nat) => (fFma fmt32 mergeEnv x.1 (x.2.getD j 0) a).1) 0
      (fDiv fmt32 mergeEnv n sum).1
    (lseOf l sum, es)

/-- What MERGE reads of its partial blocks: LSE values and rows, not the bytes between (R347). -/
def mergeRngs (g : BitVec 256) (k r : Nat) (q : BitVec 512) : List Rng :=
  (List.range (aqCount q)).flatMap fun c =>
    let a := attnAt k r (aqSrc q + c * aqSstride q)
    [⟨a, 4 * aqRows q⟩, ⟨a + 256, aqRows q * headDim g * 4⟩]

def doMerge (s : State) (g : BitVec 256) (k : Fin 24) (r : Nat) (q : BitVec 512) : Option AttnFail × State :=
  withSource s (mergeRngs g k r q) fun s =>
    let dst := attnAt k r (aqDst q)
    let d := headDim g
    let cs := List.range (aqCount q)
    let word := fun (c off : Nat) => readNat s (attnAt k r (aqSrc q + c * aqSstride q) + off) 4
    let rows := (List.range (aqRows q)).map fun i =>
      mergeRow (cs.map fun c => word c (4 * i)) (cs.map fun c => (List.range d).map fun j => word c (256 + (i * d + j) * 4)) d
    let s := writeBytes s dst (rows.flatMap fun x => leBytes 4 x.1)
    (none, writeBytes s (dst + 256) (rows.flatMap fun x => x.2.flatMap (leBytes 4)))

/-! ### Taking a request (R310, R330, R334, R335) -/

/-- Ends a request that failed: its flag, its ring's fault word, a fault record, and the sequence engine (R335). -/
def attnFail (s : State) (k : Fin 24) (r : Fin 8) (q : BitVec 512) (n : Nat) (e : AttnFail) : State :=
  let s := match attnFlag k r (aqFlagaddr q) with
    | some p => if aqFlagaddr q = 0 then s else addDevFlag s p (aqFlagval q) true
    | none => s
  let s := writeNat s (mailbox k r + 0x410) 8 (n % 2 ^ 32 * 2 ^ 32 + e.st)
  attnReport s k (aqCtx q) n e

/-- Ends a request that succeeded: its flag is added to (R334). -/
def attnDone (s : State) (k : Fin 24) (r : Fin 8) (q : BitVec 512) : State :=
  match attnFlag k r (aqFlagaddr q) with
  | some p => if aqFlagaddr q = 0 then s else addDevFlag s p (aqFlagval q) false
  | none => s

/-- The HBM stacks that are switched off (R648). -/
def stacksOff (s : State) : List Nat := ((List.range 8).map (216 + ·)).filter fun i => (vget s.doze .init i).off

/-- The switched domains that a request must wait for: the cluster's store, and for one that names pages the stacks (R51, R650). -/
def attnAsleep (s : State) (k : Fin 24) (op : Nat) : List Nat :=
  (if (vget s.doze .init (192 + k)).off then [192 + k.val] else []) ++ (if 1 ≤ op && op ≤ 3 then stacksOff s else [])

/-- The status of an APPEND that reads what a verdict held when it was given up (R754): its tokens would leave the cluster. -/
def withheld (s : State) (k : Fin 24) (r n : Nat) (q : BitVec 512) (rs : List Rng) : Option Nat :=
  if aqOp q ≠ 2 then none
  else ((vget s.clusters .init k).attnHeld.find? fun h => h.1 = r && h.2.1 = n && anyOverlap rs h.2.2.2).map (·.2.2.1)

/-- Forgets what was noted of a request that is taken. -/
def dropHeld (s : State) (k : Fin 24) (r n : Nat) : State :=
  modCluster s k fun x => { x with attnHeld := x.attnHeld.filter fun h => !(h.1 = r && h.2.1 = n) }

/-- Takes a request from its ring: the consumed count rises, and its core and its cluster are at work (R330, R648). -/
def takeReq (s : State) (k : Fin 24) (r : Fin 8) (n : Nat) : State :=
  touchDoze (touchDoze (writeNat (dropHeld s k r n) (mailbox k r + 0x408) 8 (n + 1)) (8 * k + r)) (192 + k)

/-- Starts a request that its unit has read (R330, R332, R333): what it meets in its entry, in the records and in the verdicts decides
whether it is taken and fails, waits, or acts. -/
def startReq (k : Fin 24) (r : Fin 8) (n : Nat) (q : BitVec 512) (s : State)
    (act : State → BitVec 256 → Fin 24 → Nat → BitVec 512 → Option AttnFail × State) : State :=
  let a := ringEntryAt k r n
  let t := takeReq (demand s a 64) k r n
  if anyPoison s a 64 then attnFail t k r 0 n (plainFail stPoisoned)
  else match s.seq.geom with
    | none => attnFail t k r q n (plainFail stNotReady)
    | some g =>
      let rs := (attnRanges k r (aqReads g q)).getD []
      if !attnValid g k r q then attnFail t k r q n (plainFail stBadParam)
      else match withheld s k r n q rs with
        | some st => attnFail t k r q n (plainFail st)
        | none =>
          if provBlocks s rs ((attnRanges k r (aqWrites g q)).getD []) then s
          else
            let x := act t g k r q
            match x.1 with
            | some e => attnFail x.2 k r q n e
            | none => attnDone x.2 k r q

/-- Takes the next request of a ring where it is one that this row is for, its ranges are not provisional and the unit is
ready. -/
def attnReq (k : Fin 24) (r : Fin 8) (mine : Nat → Bool) (s : State)
    (act : State → BitVec 256 → Fin 24 → Nat → BitVec 512 → Option AttnFail × State) : Res :=
  let n := ringConsumed s k r
  let q := BitVec.ofNat 512 (readNat s (ringEntryAt k r n) 64)
  if n ≥ ringDoorbell s k r || !isReady (baseState s (.attn k)) || frozen s || !mine (aqOp q) then .next s
  else if !(attnAsleep s k (aqOp q)).isEmpty then .next ((attnAsleep s k (aqOp q)).foldl touchDoze s)
  else .next (startReq k r n q s act)

/-- FETCH (R332, R336, R340); a request of a reserved OP fails here. -/
def execFetch (k : Fin 24) (r : Fin 8) (s : State) : Res := attnReq k r (fun op => op < 2 || op > 5) s doFetch

/-- APPEND (R332, R337). -/
def execAppend (k : Fin 24) (r : Fin 8) (s : State) : Res := attnReq k r (· = 2) s doAppend

/-- STAGE (R339). -/
def execStage (k : Fin 24) (r : Fin 8) (s : State) : Res := attnReq k r (· = 3) s doStage

/-- XPOSE (R332). -/
def execXpose (k : Fin 24) (r : Fin 8) (s : State) : Res := attnReq k r (· = 4) s doXpose

/-- MERGE (R347, R348). -/
def execMerge (k : Fin 24) (r : Fin 8) (s : State) : Res := attnReq k r (· = 5) s doMerge

end Sys2Proof.Machine
end

