-- ==== Sys2Proof/Machine/Doze.lean ====
section
/-! DEFINITION. Switched domains: DOMAIN_DOZE, DOMAIN_WAKE and DOMAIN_WAKE_COMPLETE (19_power_and_thermal.md R648 to R651;
20_debug_and_telemetry.md R670, R678). Positions: 0 to 191 cores, 192 to 215 clusters, 216 to 223 stacks, 224 to 255
ports. -/

namespace Sys2Proof.Machine

def getDoze (s : State) (i : Nat) : DozeSt := vget s.doze .init i
def setDoze (s : State) (i : Nat) (d : DozeSt) : State := { s with doze := vset s.doze i d }

/-- Whether a core holds nothing that keeps it on: its queues are empty, no DMA entry, attention request, provisional range
or waiting launch is outstanding (R648). -/
def coreAsleep (s : State) (c : Fin 192) : Bool :=
  let x := getCore s c
  x.phase = .idle && x.dma.all entEnded && x.pend.isNone && x.cont.isNone
    && decide (ringDoorbell s (c / 8) (c % 8) ≤ ringConsumed s (c / 8) (c % 8))

/-- Whether a domain may switch off now (R648): idle for its time by the instant of the last work noted in it. -/
def dozeDue (s : State) (i : Fin 256) : Bool :=
  let d := s.doze[i]
  if i.val < 192 then coreAsleep s (fin 192 i) && decide (now s ≥ d.idleAt + s.limits.cdoze * 1000)
  else if i.val < 216 then
    ((List.range 8).all fun r =>
      let x := getDoze s ((i.val - 192) * 8 + r)
      x.off && decide (now s ≥ x.offAt + s.limits.kdoze * 1000))
      && decide (now s ≥ d.idleAt + s.limits.kdoze * 1000)
  else if i.val < 224 then
    s.limits.stkdoze = 2 && !s.lease.openL && s.lease.closing.isNone
      && ((List.finRange 256).all fun n => n.val / 32 ≠ i.val - 216 || (s.channels[n]).testing.isNone)
      && decide (now s ≥ d.idleAt + 1000000) && decide (now s ≥ d.scrubTill)
  else match (vget s.ports .init (i.val - 224)).phase with
    | .down => true
    | .disabled => true
    | _ => false

/-- A trace record of a domain: 5 DOZE, 6 WAKE (R675, R678). -/
def dozeTrace (s : State) (i : Fin 256) (typ wake : Nat) : State :=
  if i.val < 192 then traceCore s (fin 192 i) 0 typ (wake % 2 ^ 32 * 2 ^ 16)
  else if i.val < 216 then traceCluster s (fin 24 (i.val - 192)) typ (wake % 2 ^ 32 * 2 ^ 16 + 1)
  else s

/-- DOMAIN_DOZE (R648): the record is written before the domain switches off (R678); the channels of a stack that is off report
NOT_READY (R51). -/
def execDomainDoze (i : Fin 256) (s : State) : Res :=
  if s.rst.porAt.isNone || (s.doze[i]).off || !dozeDue s i then .next s
  else
    let s := dozeTrace s i 5 0
    let d := s.doze[i]
    .next (setDoze s i { d with off := true, wakeAt := none, offAt := now s, dozes := d.dozes + 1 })

/-- DOMAIN_WAKE (R650): a request to a domain that is off. -/
def execDomainWake (i : Fin 256) (s : State) : Res :=
  let d := s.doze[i]
  if !d.off || d.wakeAt.isSome then .next s
  else .next (setDoze s i (startWake (now s) d))

/-- Whether a domain that wakes is ready: a core's cluster is on, a port has trained (R516, R648). -/
def wakeReady (s : State) (i : Fin 256) : Bool :=
  if i.val < 192 then !(getDoze s (192 + i.val / 8)).off
  else if i.val < 224 then true
  else portUsable s (i.val - 224)

/-- DOMAIN_WAKE_COMPLETE (R650): the domain is on again, its WAKE record written; a cluster adds a SYNC record (R676). -/
def execDomainWakeComplete (i : Fin 256) (s : State) : Res :=
  let d := s.doze[i]
  match d.wakeAt with
  | none => .next s
  | some t =>
    if !wakeReady s i then .next s
    else
      let s := setDoze s i { d with off := false, wakeAt := none, idleAt := now s, wakeNs := d.wakeNs + (now s - t) }
      let s := dozeTrace s i 6 (now s - t)
      .next (if 192 ≤ i.val ∧ i.val < 216 then
          { s with clusters := s.clusters.set (fin 24 (i.val - 192)) (traceSync (now s) (s.clusters[fin 24 (i.val - 192)])) }
        else s)

end Sys2Proof.Machine
end

