-- ==== Sys2Proof/Machine/Mgmt.lean ====
section
/-! DEFINITION. Messages on the management virtual channel: what FRAME_MGMT makes of each kind, and the state messages of
remote members (01_architecture.md R32, R35, R36; 14_command_interface.md R474, R503, R508 to R512; 15_onaux_fabric.md R536;
11_sequence_engine.md R372). -/

namespace Sys2Proof.Machine

/-- MEMBER_STATE_MESSAGE (R32, R36). -/
def execMemberStateMessage (fuid state stamp epoch : Nat) (s : State) : Res := .next (remoteState s fuid state stamp epoch)

/-- A unit leaves a group that another device dissolved (R35). -/
def leaveMembership (s : State) (fuid definer : Nat) (peer : Nat) : State :=
  let uid := fuid % 2 ^ 32
  match unitOfUid uid with
  | none => s
  | some u =>
    let mine := fun (e : Nat × Nat × Bool) => e.1 == uid && e.2.1 == peer * 2 ^ 48 + definer
    if s.groups.foreign.any mine then
      bumpUnits { s with groups := { s.groups with foreign := s.groups.foreign.filter fun e => !mine e } } false 0 [u] []
    else s

def roleOfCode : Nat → Role
  | 0 => .operator
  | 1 => .installer
  | 2 => .maker
  | _ => .tenant

/-- A command or prepare in a message: its name, the role, the header and the parameters; `lease` is the frame's lease identifier. -/
def remoteOf (peer lease : Nat) : List Nat → Option RemoteIn
  | t :: r :: h :: ps => some ⟨peer, t, lease, roleOfCode r, BitVec.ofNat 512 h, ps.map (BitVec.ofNat 512)⟩
  | _ => none

/-- Whether a command was sent on to a device and is not answered yet. -/
def sentTo (c : CmdRec) (peer : Nat) : Bool :=
  c.phase = .forwarded && (match c.target with | .remote x => x / 2 ^ 48 = peer | _ => false)

/-- The reply of another device to a command that was sent on, with the stamps of that device (R474, R482); a refusal there is written
as R485 states. Or the late acknowledgement of a closed lease. -/
def takeReply (s : State) (peer : Nat) (args : List Nat) : State :=
  let a := fun i => args.getD i 0
  let tid := a 0
  if tid ≥ 2 ^ 64 then takeAckFrom s peer (tid - 2 ^ 64)
  else match findCmd s tid with
    | some c =>
      if !sentTo c peer then s
      else match c.origin with
        | .sub _ _ => finishCmd s tid (a 1) (a 2)
        | _ =>
          if a 1 = stRefused then updCmd s tid fun d => { d with phase := .refused, status := stRefused, detail := 0 }
          else updCmd (finishCmd s tid (if c.hostBad then stXlateFault else a 1) (if c.hostBad then 0 else a 2)) tid fun d =>
            { d with acceptedAt := a 3, startedAt := if a 4 = 0 then none else some (a 4 - 1), finishedAt := a 5
                     mvptr := if c.hostBad then 0 else a 6 }
    | none => s

/-- Writes to host memory what another device asks for on behalf of a command sent to it (R471, R474): message kind 19. A write to the
member-vector buffer that completes in error is noted. -/
def takeHostWrite (s : State) (peer tid addr : Nat) (bs : List Byte) : State :=
  match findCmd s tid with
  | some c =>
    if !sentTo c peer then s
    else
      let mv := hMvbuf c.hdr
      let bad := mv ≠ 0 && mv ≤ addr && addr < mv + hMvcap c.hdr && hostWriteFails s c addr bs.length
      updCmd (hostWriteCmd s c addr bs) tid fun d => { d with hostBad := d.hostBad || bad }
  | none => s

/-- The state a total meaning leaves. -/
def nextOf (s : State) : Res → State
  | .next t => t
  | _ => s

/-- What a management message does; `none` leaves it for later, other kinds are dropped. -/
def takeMessage (s : State) (peer lease kind : Nat) (args : List Nat) : Option State :=
  let a := args.getD 0 0
  let b := args.getD 1 0
  match kind with
  | 3 => some (leaveMembership s a b peer)
  | 4 => some (if a / 2 ^ 48 = peer then remoteState s a b (args.getD 2 0) (args.getD 3 0) else s)
  | 5 => some (takeReply s peer args)
  | 6 => some (takeVote s peer a b (args.getD 2 0) (args.getD 3 0))
  | 7 => some (takeAckFrom s peer a)
  | 8 => some (addFollower s a)
  | 9 => some (followerReport s a b (args.getD 2 0) (args.getD 3 0) (args.getD 4 0))
  | 10 => some (receivePlan s a b (args.drop 2))
  | 11 => match remoteOf peer lease args with
    | some m => if mgmtReady s then some (nextOf s (execRemoteCommand m s)) else none
    | none => some s
  | 12 => some (takeDecision s peer a (some (b = 1)) (args.getD 2 0))
  | 13 => some (answerQuery s peer a)
  | 14 => some (takeUnknown s peer a)
  | 15 => match remoteOf peer lease args with
    | some m => prepareAt s m
    | none => some s
  | 16 => some (takeTelem s peer a (args.drop 1))
  | 17 => some (stepClosed s a b (args.getD 2 0))
  | 18 => some (restamp s a b (args.getD 2 0))
  | 19 => some (takeHostWrite s peer a b ((args.drop 2).map (BitVec.ofNat 8)))
  | _ => some s

/-- Takes an accepted management frame; one left for later is kept. -/
def takeMgmt (s : State) (f : FrameIn) : State :=
  match f.body with
  | .mgmt kind args => (takeMessage s (fhSrc f.hdr) (fhLease f.hdr) kind args).getD (park s f)
  | _ => s

/-- FRAME_MGMT (R536): a management frame that passes its checks. -/
def execFrameMgmt (f : FrameIn) (s : State) : Res :=
  match f.body with
  | .mgmt _ _ => onFrame f s fun s => takeMgmt s f
  | _ => .next s

/-- Takes the management frames that were left for later, oldest first. -/
def serveMgmt (s : State) : State :=
  (s.fab.parked.filter isMgmt).foldl takeMgmt (setFab s { s.fab with parked := s.fab.parked.filter fun f => !isMgmt f })

end Sys2Proof.Machine
end

