-- ==== Sys2Proof/Machine/Sideband.lean ====
section
/-! DEFINITION. The sideband chain: forwarding, marks, stops, commands and replies, and the bypass (15_onaux_fabric.md R557
to R563; 20_debug_and_telemetry.md R693; 02_self_timed_operation.md R65). -/

namespace Sys2Proof.Machine

/-- SBPOS and SBDLY of the identity record (R521). -/
def sbPos (s : State) : Nat := bits s.fab.ident.toNat 468 463
def sbDly (s : State) : Nat := bits s.fab.ident.toNat 462 447

/-- Whether a frame of a kind passes the checks of R558. -/
def sbTaken (kind : Nat) (f : SbIn) : Bool :=
  sbSound f && f.kind == kind && decide (f.hops ≤ 64) && decide (f.payload.length ≤ 576)

/-- Sends a frame on, HOPS one more (R558). -/
def sbForward (s : State) (f : SbIn) (payload : List Byte) : State := sbSend s (sbFrame f.kind (f.hops + 1) f.dpos payload)

/-- A frame at SB_IN: it passes as it is while the bypass joins SB_IN to SB_OUT, and is dropped where it fails its checks (R558, R562).
-/
def sbArrive (s : State) (kind : Nat) (f : SbIn) (act : State → State) : State :=
  let s := { s with sb := { s.sb with lastIn := now s + sbTime f } }
  if s.sb.bypass then emit s (.sideband f)
  else if sbLive s && sbTaken kind f then act s
  else s

/-- SB_MARK_ORIGINATE (R559): at position 0, every 10 us; a time root only once it serves time (R68). -/
def execSbMarkOriginate (s : State) : Res :=
  if !sbLive s || sbPos s ≠ 0 || !s.tb.locked || (s.tb.root && !s.tb.serving) || now s < s.sb.nextMark then .next s
  else
    let s := { s with sb := { s.sb with nextMark := now s + 10000 } }
    .next (sbSend s (sbFrame 1 0 0 (leBytes 8 (now s) ++ leBytes 4 0)))

def markT0 (f : SbIn) : Nat := fromLe (f.payload.take 8)
def markFwd (f : SbIn) : Nat := fromLe ((f.payload.drop 8).take 4)

/-- SB_MARK (R559): T0 + FWD + SBDLY is the source's time; FWD grows by this device's forwarding delay less 1 ns. One that is not a
mark's 12 bytes long is sent on only. -/
def execSbMark (f : SbIn) (s : State) : Res :=
  .next (sbArrive s 1 f fun s =>
    if f.payload.length ≠ 12 then sbForward s f f.payload
    else
      let v := markT0 f + markFwd f + sbDly s
      takeMark (sbForward s f (leBytes 8 (markT0 f) ++ leBytes 4 (markFwd f + (Config.sbDelay - 1)))) v)

/-- SB_STOP (R560, R693): forwarded first, then acted on if its token is the arming's and the U* conditions hold; counted
otherwise. A stopped device only forwards. -/
def execSbStop (f : SbIn) (s : State) : Res :=
  .next (sbArrive s 2 f fun s =>
    let s := sbForward s f f.payload
    if s.sec.halted then s
    else if f.payload.length = 2 && armed s (fromLe f.payload) && starOpen s then stopDevice s
    else { s with sb := { s.sb with stopFails := s.sb.stopFails + 1 } })

/-- The blocks of a MGMT frame's payload: the header and its parameters. -/
def sbBlocks (bs : List Byte) : List (BitVec 512) :=
  (List.range (bs.length / 64)).map fun i => BitVec.ofNat 512 (fromLe ((bs.drop (64 * i)).take 64))

/-- SB_MGMT (R561, R590): forwarded; at DPOS, or everywhere for 0xFF, a command of the operator's path with its parameters in
the frame. -/
def execSbMgmt (f : SbIn) (s : State) : Res :=
  .next (sbArrive s 3 f fun s =>
    let s := sbForward s f f.payload
    match sbBlocks f.payload with
    | h :: ps =>
      if (f.dpos = sbPos s || f.dpos = 0xFF) && f.payload.length % 64 = 0 && mgmtReady s then arrive s .sideband .operator 2 true true h ps
      else s
    | [] => s)

/-- SB_REPLY (R558, R561): retimed and sent downstream. -/
def execSbReply (f : SbIn) (s : State) : Res := .next (sbArrive s 4 f fun s => sbForward s f f.payload)

/-- SB_BYPASS_ASSERT (R562, R563): the bypass closes; the frame in transit is lost. -/
def execSbBypassAssert (s : State) : Res := .next { s with sb := { s.sb with pinLow := true, bypass := true, sending := none } }

/-- SB_BYPASS_OPEN (R562): SB_BYPASS_N is high and the port is up; the bypass opens where SB_IN has been idle for a longest frame, not
while the device is unpowered or POR_N is held. -/
def execSbBypassOpen (s : State) : Res :=
  if s.rst.porAt.isNone then .next s
  else .next { s with sb := { s.sb with
    pinLow := false, portUp := true, bypass := s.sb.bypass && decide (now s < s.sb.lastIn + 29300) } }

end Sys2Proof.Machine
end

