-- ==== Sys2Proof/Machine/Dispatch.lean ====
section
/-! DEFINITION. One arm per constructor of Instr: the meaning of each command and event. -/

namespace Sys2Proof.Machine

def exec (i : Instr) (s : State) : Host.Outcome State Fault Refusal :=
  match i with
  | .mgmtSetLimits id => Sys2Proof.Machine.execMgmtSetLimits id s
  | .mgmtSetProfile id => Sys2Proof.Machine.execMgmtSetProfile id s
  | .mgmtOutOfServiceTake id => Sys2Proof.Machine.execMgmtOutOfServiceTake id s
  | .mgmtOutOfServiceRestore id => Sys2Proof.Machine.execMgmtOutOfServiceRestore id s
  | .mgmtReset id => Sys2Proof.Machine.execMgmtReset id s
  | .mgmtSetIdentity id => Sys2Proof.Machine.execMgmtSetIdentity id s
  | .mgmtFirmware id => Sys2Proof.Machine.execMgmtFirmware id s
  | .qpCreate id => Sys2Proof.Machine.execQpCreate id s
  | .qpDelete id => Sys2Proof.Machine.execQpDelete id s
  | .memTest id => Sys2Proof.Machine.execMemTest id s
  | .leaseOpen id => Sys2Proof.Machine.execLeaseOpen id s
  | .leaseClose id => Sys2Proof.Machine.execLeaseClose id s
  | .memMap id => Sys2Proof.Machine.execMemMap id s
  | .dmaCopy id => Sys2Proof.Machine.execDmaCopy id s
  | .flagSet id => Sys2Proof.Machine.execFlagSet id s
  | .flagAdd id => Sys2Proof.Machine.execFlagAdd id s
  | .flagWait id => Sys2Proof.Machine.execFlagWait id s
  | .kernelLaunch id => Sys2Proof.Machine.execKernelLaunch id s
  | .graphRun id => Sys2Proof.Machine.execGraphRun id s
  | .seqConfig id => Sys2Proof.Machine.execSeqConfig id s
  | .seqCreate id => Sys2Proof.Machine.execSeqCreate id s
  | .seqDestroy id => Sys2Proof.Machine.execSeqDestroy id s
  | .seqPrefill id => Sys2Proof.Machine.execSeqPrefill id s
  | .seqStep id d => Sys2Proof.Machine.execSeqStep id d s
  | .seqDraft id => Sys2Proof.Machine.execSeqDraft id s
  | .seqCommit id => Sys2Proof.Machine.execSeqCommit id s
  | .seqRetract id => Sys2Proof.Machine.execSeqRetract id s
  | .seqSuspend id => Sys2Proof.Machine.execSeqSuspend id s
  | .seqResume id => Sys2Proof.Machine.execSeqResume id s
  | .seqEvict id => Sys2Proof.Machine.execSeqEvict id s
  | .prefixPublish id => Sys2Proof.Machine.execPrefixPublish id s
  | .fabRouteSet id => Sys2Proof.Machine.execFabRouteSet id s
  | .fabCollective id => Sys2Proof.Machine.execFabCollective id s
  | .collectiveArm id => Sys2Proof.Machine.execCollectiveArm id s
  | .collectiveDisarm id => Sys2Proof.Machine.execCollectiveDisarm id s
  | .portEnable id => Sys2Proof.Machine.execPortEnable id s
  | .portDisable id => Sys2Proof.Machine.execPortDisable id s
  | .portRetrain id => Sys2Proof.Machine.execPortRetrain id s
  | .portLoopback id => Sys2Proof.Machine.execPortLoopback id s
  | .telemRead id => Sys2Proof.Machine.execTelemRead id s
  | .dumpCollect id => Sys2Proof.Machine.execDumpCollect id s
  | .stopGlobalArm id => Sys2Proof.Machine.execStopGlobalArm id s
  | .stopGlobalFire id => Sys2Proof.Machine.execStopGlobalFire id s
  | .stopGlobalDisarm id => Sys2Proof.Machine.execStopGlobalDisarm id s
  | .traceCtl id => Sys2Proof.Machine.execTraceCtl id s
  | .auditRead id => Sys2Proof.Machine.execAuditRead id s
  | .groupDefine id => Sys2Proof.Machine.execGroupDefine id s
  | .groupDissolve id => Sys2Proof.Machine.execGroupDissolve id s
  | .permissionRefusalReply id => Sys2Proof.Machine.execPermissionRefusalReply id s
  | .completionWrite id => Sys2Proof.Machine.execCompletionWrite id s
  | .commandTimeout id => Sys2Proof.Machine.execCommandTimeout id s
  | .hangDrainEnd root => Sys2Proof.Machine.execHangDrainEnd root s
  | .resetEnd root => Sys2Proof.Machine.execResetEnd root s
  | .resetFaultEscalate root => Sys2Proof.Machine.execResetFaultEscalate root s
  | .unitReady u => Sys2Proof.Machine.execUnitReady u s
  | .remoteCommand m => Sys2Proof.Machine.execRemoteCommand m s
  | .memberStateMessage fuid state stamp epoch => Sys2Proof.Machine.execMemberStateMessage fuid state stamp epoch s
  | .atomicPrepare m => Sys2Proof.Machine.execAtomicPrepare m s
  | .atomicDecision lead key decision hits => Sys2Proof.Machine.execAtomicDecision lead key decision hits s
  | .atomicInDoubt lead key => Sys2Proof.Machine.execAtomicInDoubt lead key s
  | .atomicDecisionQuery lead key => Sys2Proof.Machine.execAtomicDecisionQuery lead key s
  | .add c w => Sys2Proof.Machine.execAdd c w s
  | .sub c w => Sys2Proof.Machine.execSub c w s
  | .mul c w => Sys2Proof.Machine.execMul c w s
  | .mulhu c w => Sys2Proof.Machine.execMulhu c w s
  | .and c w => Sys2Proof.Machine.execAnd c w s
  | .or c w => Sys2Proof.Machine.execOr c w s
  | .xor c w => Sys2Proof.Machine.execXor c w s
  | .shl c w => Sys2Proof.Machine.execShl c w s
  | .shr c w => Sys2Proof.Machine.execShr c w s
  | .sra c w => Sys2Proof.Machine.execSra c w s
  | .cmp c w => Sys2Proof.Machine.execCmp c w s
  | .plog c w => Sys2Proof.Machine.execPlog c w s
  | .ld c w => Sys2Proof.Machine.execLd c w s
  | .st c w => Sys2Proof.Machine.execSt c w s
  | .br c w => Sys2Proof.Machine.execBr c w s
  | .brl c w => Sys2Proof.Machine.execBrl c w s
  | .jr c w => Sys2Proof.Machine.execJr c w s
  | .halt c w => Sys2Proof.Machine.execHalt c w s
  | .fence c w => Sys2Proof.Machine.execFence c w s
  | .flset c w => Sys2Proof.Machine.execFlset c w s
  | .flwait c w => Sys2Proof.Machine.execFlwait c w s
  | .flwaitTimeout c w => Sys2Proof.Machine.execFlwaitTimeout c w s
  | .fladd c w => Sys2Proof.Machine.execFladd c w s
  | .csrRead c w => Sys2Proof.Machine.execCsrRead c w s
  | .csrWrite c w => Sys2Proof.Machine.execCsrWrite c w s
  | .csrSet c w => Sys2Proof.Machine.execCsrSet c w s
  | .csrClear c w => Sys2Proof.Machine.execCsrClear c w s
  | .fadd c w => Sys2Proof.Machine.execFadd c w s
  | .fsub c w => Sys2Proof.Machine.execFsub c w s
  | .fmul c w => Sys2Proof.Machine.execFmul c w s
  | .ffma c w => Sys2Proof.Machine.execFfma c w s
  | .fdiv c w => Sys2Proof.Machine.execFdiv c w s
  | .fsqrt c w => Sys2Proof.Machine.execFsqrt c w s
  | .fminmax c w => Sys2Proof.Machine.execFminmax c w s
  | .fcmp c w => Sys2Proof.Machine.execFcmp c w s
  | .fcvt c w => Sys2Proof.Machine.execFcvt c w s
  | .mma c w => Sys2Proof.Machine.execMma c w s
  | .chain c w => Sys2Proof.Machine.execChain c w s
  | .quant c w => Sys2Proof.Machine.execQuant c w s
  | .accld c w => Sys2Proof.Machine.execAccld c w s
  | .vld c w => Sys2Proof.Machine.execVld c w s
  | .vst c w => Sys2Proof.Machine.execVst c w s
  | .vacc c w => Sys2Proof.Machine.execVacc c w s
  | .vadd c w => Sys2Proof.Machine.execVadd c w s
  | .vsub c w => Sys2Proof.Machine.execVsub c w s
  | .vmul c w => Sys2Proof.Machine.execVmul c w s
  | .vfma c w => Sys2Proof.Machine.execVfma c w s
  | .vdiv c w => Sys2Proof.Machine.execVdiv c w s
  | .vsqrt c w => Sys2Proof.Machine.execVsqrt c w s
  | .vminmax c w => Sys2Proof.Machine.execVminmax c w s
  | .vcmp c w => Sys2Proof.Machine.execVcmp c w s
  | .vsel c w => Sys2Proof.Machine.execVsel c w s
  | .vcvt c w => Sys2Proof.Machine.execVcvt c w s
  | .vdq c w => Sys2Proof.Machine.execVdq c w s
  | .vfn c w => Sys2Proof.Machine.execVfn c w s
  | .vred c w => Sys2Proof.Machine.execVred c w s
  | .vquant c w => Sys2Proof.Machine.execVquant c w s
  | .dma c w => Sys2Proof.Machine.execDma c w s
  | .waitd c w => Sys2Proof.Machine.execWaitd c w s
  | .dmaEntrySubmit c seq => Sys2Proof.Machine.execDmaEntrySubmit c seq s
  | .dmaEntryComplete c seq d => Sys2Proof.Machine.execDmaEntryComplete c seq d s
  | .atsTranslationCompletion c seq t => Sys2Proof.Machine.execAtsTranslationCompletion c seq t s
  | .prgResponse c seq code => Sys2Proof.Machine.execPrgResponse c seq code s
  | .priWaitExpiry c seq => Sys2Proof.Machine.execPriWaitExpiry c seq s
  | .atsInvalidateRequest itag pasid page npages => Sys2Proof.Machine.execAtsInvalidateRequest itag pasid page npages s
  | .invalidateCompletion itag => Sys2Proof.Machine.execInvalidateCompletion itag s
  | .invalidateReadExpiry itag => Sys2Proof.Machine.execInvalidateReadExpiry itag s
  | .fabricHoldExpiry => Sys2Proof.Machine.execFabricHoldExpiry s
  | .guardVerdict c => Sys2Proof.Machine.execGuardVerdict c s
  | .replayEnd c => Sys2Proof.Machine.execReplayEnd c s
  | .fetch k r => Sys2Proof.Machine.execFetch k r s
  | .append k r => Sys2Proof.Machine.execAppend k r s
  | .stage k r => Sys2Proof.Machine.execStage k r s
  | .xpose k r => Sys2Proof.Machine.execXpose k r s
  | .merge k r => Sys2Proof.Machine.execMerge k r s
  | .stepgraphComplete => Sys2Proof.Machine.execStepgraphComplete s
  | .planReceive lead dst plan => Sys2Proof.Machine.execPlanReceive lead dst plan s
  | .runAheadPrefetch => Sys2Proof.Machine.execRunAheadPrefetch s
  | .canarySample m => Sys2Proof.Machine.execCanarySample m s
  | .pacePublish => Sys2Proof.Machine.execPacePublish s
  | .thermalTrip d sensor => Sys2Proof.Machine.execThermalTrip d sensor s
  | .tbSyncPulse => Sys2Proof.Machine.execTbSyncPulse s
  | .timeExchange src port offset => Sys2Proof.Machine.execTimeExchange src port offset s
  | .alignTimeout => Sys2Proof.Machine.execAlignTimeout s
  | .timeRootProbe => Sys2Proof.Machine.execTimeRootProbe s
  | .timeRootProbeExpiry => Sys2Proof.Machine.execTimeRootProbeExpiry s
  | .frameRead f => Sys2Proof.Machine.execFrameRead f s
  | .frameWrite f => Sys2Proof.Machine.execFrameWrite f s
  | .frameFlagAdd f => Sys2Proof.Machine.execFrameFlagAdd f s
  | .frameReadData f => Sys2Proof.Machine.execFrameReadData f s
  | .frameAck f => Sys2Proof.Machine.execFrameAck f s
  | .frameNack f => Sys2Proof.Machine.execFrameNack f s
  | .frameColl f => Sys2Proof.Machine.execFrameColl f s
  | .frameMgmt f => Sys2Proof.Machine.execFrameMgmt f s
  | .frameTime f => Sys2Proof.Machine.execFrameTime f s
  | .frameDigest f => Sys2Proof.Machine.execFrameDigest f s
  | .frameKeyx f => Sys2Proof.Machine.execFrameKeyx f s
  | .digestMissingTimeout qpn seqno => Sys2Proof.Machine.execDigestMissingTimeout qpn seqno s
  | .rekeyTrigger peer => Sys2Proof.Machine.execRekeyTrigger peer s
  | .rekeyTimeout peer => Sys2Proof.Machine.execRekeyTimeout peer s
  | .frameCounterLimit peer => Sys2Proof.Machine.execFrameCounterLimit peer s
  | .collectiveTrigger slot => Sys2Proof.Machine.execCollectiveTrigger slot s
  | .collectiveInstanceEnd collid inst => Sys2Proof.Machine.execCollectiveInstanceEnd collid inst s
  | .portTrained p full => Sys2Proof.Machine.execPortTrained p full s
  | .portLinkLoss p => Sys2Proof.Machine.execPortLinkLoss p s
  | .portRetrainTimer p => Sys2Proof.Machine.execPortRetrainTimer p s
  | .sbMarkOriginate => Sys2Proof.Machine.execSbMarkOriginate s
  | .sbMark f => Sys2Proof.Machine.execSbMark f s
  | .sbStop f => Sys2Proof.Machine.execSbStop f s
  | .sbMgmt f => Sys2Proof.Machine.execSbMgmt f s
  | .sbReply f => Sys2Proof.Machine.execSbReply f s
  | .sbBypassAssert => Sys2Proof.Machine.execSbBypassAssert s
  | .sbBypassOpen => Sys2Proof.Machine.execSbBypassOpen s
  | .faultReport r => Sys2Proof.Machine.execFaultReport r s
  | .faultWindowEnd d => Sys2Proof.Machine.execFaultWindowEnd d s
  | .scrubRead addr e => Sys2Proof.Machine.execScrubRead addr e s
  | .channelLost n => Sys2Proof.Machine.execChannelLost n s
  | .bridgeFault => Sys2Proof.Machine.execBridgeFault s
  | .hbmChannelTrained n rec => Sys2Proof.Machine.execHbmChannelTrained n rec s
  | .domainDoze n => Sys2Proof.Machine.execDomainDoze n s
  | .domainWake n => Sys2Proof.Machine.execDomainWake n s
  | .domainWakeComplete n => Sys2Proof.Machine.execDomainWakeComplete n s
  | .leaseCloseDrainEnd => Sys2Proof.Machine.execLeaseCloseDrainEnd s
  | .hbmClearEnd => Sys2Proof.Machine.execHbmClearEnd s
  | .hbmVerifyEnd repairs bad => Sys2Proof.Machine.execHbmVerifyEnd repairs bad s
  | .fabricSecret m => Sys2Proof.Machine.execFabricSecret m s
  | .mirrorSecret m => Sys2Proof.Machine.execMirrorSecret m s
  | .installKey m => Sys2Proof.Machine.execInstallKey m s
  | .plainSecret m => Sys2Proof.Machine.execPlainSecret m s
  | .vangaerReply => Sys2Proof.Machine.execVangaerReply s
  | .getCertificate session => Sys2Proof.Machine.execGetCertificate session s
  | .getMeasurements session index => Sys2Proof.Machine.execGetMeasurements session index s
  | .kSetGo session stream key => Sys2Proof.Machine.execKSetGo session stream key s
  | .lockInterface session stream => Sys2Proof.Machine.execLockInterface session stream s
  | .startInterface session nonce => Sys2Proof.Machine.execStartInterface session nonce s
  | .stopInterface session => Sys2Proof.Machine.execStopInterface session s
  | .tdiError cause => Sys2Proof.Machine.execTdiError cause s
  | .functionLevelReset => Sys2Proof.Machine.execFunctionLevelReset s
  | .hotReset => Sys2Proof.Machine.execHotReset s
  | .linkDown rate width => Sys2Proof.Machine.execLinkDown rate width s
  | .d3hotToD0 => Sys2Proof.Machine.execD3hotToD0 s
  | .perstNAssert => Sys2Proof.Machine.execPerstNAssert s
  | .perstNDeassert rate width => Sys2Proof.Machine.execPerstNDeassert rate width s
  | .bar2Read t => Sys2Proof.Machine.execBar2Read t s
  | .bar2Write t => Sys2Proof.Machine.execBar2Write t s
  | .tlpRefused t => Sys2Proof.Machine.execTlpRefused t s
  | .registerWrite t => Sys2Proof.Machine.execRegisterWrite t s
  | .sqTailDoorbell t fetched => Sys2Proof.Machine.execSqTailDoorbell t fetched s
  | .cqHeadDoorbell t => Sys2Proof.Machine.execCqHeadDoorbell t s
  | .eventRingHeadDoorbell t => Sys2Proof.Machine.execEventRingHeadDoorbell t s
  | .mqEnable t => Sys2Proof.Machine.execMqEnable t s
  | .mqDisable t => Sys2Proof.Machine.execMqDisable t s
  | .eventRingEnable t => Sys2Proof.Machine.execEventRingEnable t s
  | .eventRingDisable t => Sys2Proof.Machine.execEventRingDisable t s
  | .bootstrapGo t => Sys2Proof.Machine.execBootstrapGo t s
  | .msixUnmask t => Sys2Proof.Machine.execMsixUnmask t s
  | .porNDeassert p => Sys2Proof.Machine.execPorNDeassert p s
  | .powerLoss l => Sys2Proof.Machine.execPowerLoss l s
  | .stopArmExpiry => Sys2Proof.Machine.execStopArmExpiry s
  | .auditCheckpoint => Sys2Proof.Machine.execAuditCheckpoint s
  | .portSignalDetected p => Sys2Proof.Machine.execPortSignalDetected p s
  | .linkRetransmit p index => Sys2Proof.Machine.execLinkRetransmit p index s
  | .vcCreditReturn p vc n => Sys2Proof.Machine.execVcCreditReturn p vc n s
  | .injectionTokenRefill => Sys2Proof.Machine.execInjectionTokenRefill s
  | .keyExchange session => Sys2Proof.Machine.execKeyExchange session s
  | .keyProg session stream keySet => Sys2Proof.Machine.execKeyProg session stream keySet s
  | .memTestEnd n r => Sys2Proof.Machine.execMemTestEnd n r s
  | .hardwareScrubEnd => Sys2Proof.Machine.execHardwareScrubEnd s
  | .askocScrubEnd => Sys2Proof.Machine.execAskocScrubEnd s
  | .i3cCommand blocks => Sys2Proof.Machine.execI3cCommand blocks s
  | .getstatus => Sys2Proof.Machine.execGetstatus s
  | .registerSnapshotRead t => Sys2Proof.Machine.execRegisterSnapshotRead t s

end Sys2Proof.Machine
end

