-- ==== Sys2Proof/Machine/CoreDecode.lean ====
section
/-! DEFINITION. The words of core instructions: which row a fetched word is, and the word of a row
(08_core_programming.md R246, R249). -/

namespace Sys2Proof.Machine

/-- The fields of a fetched word (R246). -/
def coreWordOf (n : Nat) : CoreWord :=
  { pneg := n.testBit 119, pred := fin 8 (bits n 118 116), rd := fin 32 (bits n 115 111), rs1 := fin 32 (bits n 110 106)
    rs2 := fin 32 (bits n 105 101), rs3 := fin 32 (bits n 100 96), ctl := BitVec.ofNat 32 (bits n 95 64)
    imm := BitVec.ofNat 64 (bits n 63 0) }

/-- The instruction that a word is on a core (R249); a wait that runs out is the same word as the wait (R274), and the mode
of a CSR access is CTL[13:12] (R255). -/
def coreInstr (c : Fin 192) (n : Nat) : Option Instr :=
  let w := coreWordOf n
  match n / 2 ^ 120 with
  | 0x01 => some (.add c w)
  | 0x02 => some (.sub c w)
  | 0x03 => some (.mul c w)
  | 0x04 => some (.mulhu c w)
  | 0x05 => some (.and c w)
  | 0x06 => some (.or c w)
  | 0x07 => some (.xor c w)
  | 0x08 => some (.shl c w)
  | 0x09 => some (.shr c w)
  | 0x0A => some (.sra c w)
  | 0x10 => some (.cmp c w)
  | 0x11 => some (.plog c w)
  | 0x14 => some (.ld c w)
  | 0x15 => some (.st c w)
  | 0x18 => some (.br c w)
  | 0x19 => some (.brl c w)
  | 0x1A => some (.jr c w)
  | 0x1B => some (.halt c w)
  | 0x1C => some (.fence c w)
  | 0x20 => some (.flset c w)
  | 0x21 => some (.flwait c w)
  | 0x22 => some (.fladd c w)
  | 0x28 => some (.fadd c w)
  | 0x29 => some (.fsub c w)
  | 0x2A => some (.fmul c w)
  | 0x2B => some (.ffma c w)
  | 0x2C => some (.fdiv c w)
  | 0x2D => some (.fsqrt c w)
  | 0x2E => some (.fminmax c w)
  | 0x2F => some (.fcmp c w)
  | 0x30 => some (.fcvt c w)
  | 0x40 => some (.mma c w)
  | 0x41 => some (.chain c w)
  | 0x42 => some (.quant c w)
  | 0x43 => some (.accld c w)
  | 0x50 => some (.vld c w)
  | 0x51 => some (.vst c w)
  | 0x52 => some (.vacc c w)
  | 0x53 => some (.vadd c w)
  | 0x54 => some (.vsub c w)
  | 0x55 => some (.vmul c w)
  | 0x56 => some (.vfma c w)
  | 0x57 => some (.vdiv c w)
  | 0x58 => some (.vsqrt c w)
  | 0x59 => some (.vminmax c w)
  | 0x5A => some (.vcmp c w)
  | 0x5B => some (.vsel c w)
  | 0x5C => some (.vcvt c w)
  | 0x5D => some (.vdq c w)
  | 0x5E => some (.vfn c w)
  | 0x5F => some (.vred c w)
  | 0x60 => some (.vquant c w)
  | 0x70 => some (.dma c w)
  | 0x71 => some (.waitd c w)
  | 0x24 => match ctlBits w 13 12 with
    | 0 => some (.csrRead c w)
    | 1 => some (.csrWrite c w)
    | 2 => some (.csrSet c w)
    | _ => some (.csrClear c w)
  | _ => none

/-- The core and the word of a core instruction. -/
def coreBits (i : Instr) : Option (Fin 192 × Nat) :=
  match i with
  | .add c w => some (c, wordBits 0x01 w)
  | .sub c w => some (c, wordBits 0x02 w)
  | .mul c w => some (c, wordBits 0x03 w)
  | .mulhu c w => some (c, wordBits 0x04 w)
  | .and c w => some (c, wordBits 0x05 w)
  | .or c w => some (c, wordBits 0x06 w)
  | .xor c w => some (c, wordBits 0x07 w)
  | .shl c w => some (c, wordBits 0x08 w)
  | .shr c w => some (c, wordBits 0x09 w)
  | .sra c w => some (c, wordBits 0x0A w)
  | .cmp c w => some (c, wordBits 0x10 w)
  | .plog c w => some (c, wordBits 0x11 w)
  | .ld c w => some (c, wordBits 0x14 w)
  | .st c w => some (c, wordBits 0x15 w)
  | .br c w => some (c, wordBits 0x18 w)
  | .brl c w => some (c, wordBits 0x19 w)
  | .jr c w => some (c, wordBits 0x1A w)
  | .halt c w => some (c, wordBits 0x1B w)
  | .fence c w => some (c, wordBits 0x1C w)
  | .flset c w => some (c, wordBits 0x20 w)
  | .flwait c w => some (c, wordBits 0x21 w)
  | .flwaitTimeout c w => some (c, wordBits 0x21 w)
  | .fladd c w => some (c, wordBits 0x22 w)
  | .csrRead c w => some (c, wordBits 0x24 w)
  | .csrWrite c w => some (c, wordBits 0x24 w)
  | .csrSet c w => some (c, wordBits 0x24 w)
  | .csrClear c w => some (c, wordBits 0x24 w)
  | .fadd c w => some (c, wordBits 0x28 w)
  | .fsub c w => some (c, wordBits 0x29 w)
  | .fmul c w => some (c, wordBits 0x2A w)
  | .ffma c w => some (c, wordBits 0x2B w)
  | .fdiv c w => some (c, wordBits 0x2C w)
  | .fsqrt c w => some (c, wordBits 0x2D w)
  | .fminmax c w => some (c, wordBits 0x2E w)
  | .fcmp c w => some (c, wordBits 0x2F w)
  | .fcvt c w => some (c, wordBits 0x30 w)
  | .mma c w => some (c, wordBits 0x40 w)
  | .chain c w => some (c, wordBits 0x41 w)
  | .quant c w => some (c, wordBits 0x42 w)
  | .accld c w => some (c, wordBits 0x43 w)
  | .vld c w => some (c, wordBits 0x50 w)
  | .vst c w => some (c, wordBits 0x51 w)
  | .vacc c w => some (c, wordBits 0x52 w)
  | .vadd c w => some (c, wordBits 0x53 w)
  | .vsub c w => some (c, wordBits 0x54 w)
  | .vmul c w => some (c, wordBits 0x55 w)
  | .vfma c w => some (c, wordBits 0x56 w)
  | .vdiv c w => some (c, wordBits 0x57 w)
  | .vsqrt c w => some (c, wordBits 0x58 w)
  | .vminmax c w => some (c, wordBits 0x59 w)
  | .vcmp c w => some (c, wordBits 0x5A w)
  | .vsel c w => some (c, wordBits 0x5B w)
  | .vcvt c w => some (c, wordBits 0x5C w)
  | .vdq c w => some (c, wordBits 0x5D w)
  | .vfn c w => some (c, wordBits 0x5E w)
  | .vred c w => some (c, wordBits 0x5F w)
  | .vquant c w => some (c, wordBits 0x60 w)
  | .dma c w => some (c, wordBits 0x70 w)
  | .waitd c w => some (c, wordBits 0x71 w)
  | _ => none

end Sys2Proof.Machine
end

