-- ==== Sys2Proof/Machine/TileQueue.lean ====
section
/-! DEFINITION. Starting the instructions that stand in the matrix and the vector queue (08_core_programming.md R243, R244, R285 to
R288). -/

namespace Sys2Proof.Machine

/-- What a tile instruction does when it starts, by its opcode. -/
def tileRun (opc : Nat) (c : Fin 192) (w : CoreWord) (s : State) (x : CoreSt) : CoreOut :=
  match opc with
  | 0x40 => mmaRun c w s x
  | 0x41 => chainRun c w s x
  | 0x42 => quantRun c w s x
  | 0x43 => accldRun c w s x
  | 0x50 => vldRun c w s x
  | 0x51 => vstRun c w s x
  | 0x52 => vaccRun c w s x
  | 0x53 => vRun vaddFn false c w s x
  | 0x54 => vRun vsubFn false c w s x
  | 0x55 => vRun vmulFn false c w s x
  | 0x56 => vRun vfmaFn false c w s x
  | 0x57 => vRun vdivFn (vType w = 4) c w s x
  | 0x58 => vRun vsqrtFn (vType w = 4) c w s x
  | 0x59 => vRun vminmaxFn false c w s x
  | 0x5A => vRun vcmpFn false c w s x
  | 0x5B => vRun vselFn false c w s x
  | 0x5C => vRun vcvtFn false c w s x
  | 0x5D => vRun vdqFn false c w s x
  | 0x5E => vRun vfnFn false c w s x
  | 0x5F => vRun vredFn false c w s x
  | _ => vquantRun c w s x

/-- The core as a queued instruction sees it: its scalar operands as they were at issue, its place in the order and its offset. -/
def queuedView (x : CoreSt) (q : QInstr) : CoreSt :=
  { setX (setX (setX x q.word.rs1 q.ra) q.word.rs2 q.rb) q.word.rs3 q.rc with
    chainNext := q.ord, pc := x.entry.setWidth 64 + BitVec.ofNat 64 q.offset }

/-- A core's queues without the instruction of a place in the order. -/
def dropQueued (x : CoreSt) (o : Nat) : CoreSt :=
  { x with matQ := x.matQ.filter fun q => q.ord ≠ o, vecQ := x.vecQ.filter fun q => q.ord ≠ o }

/-- Notes that a queued instruction has met a poisoned word. -/
def markMet (x : CoreSt) (o : Nat) : CoreSt :=
  { x with matQ := x.matQ.map fun q => if q.ord = o then { q with met := true } else q }

/-- The stop of a core at a queued instruction: it and every later one are dropped (R288). -/
def stopQueued (s : State) (c : Fin 192) (q : QInstr) (reason addr : Nat) : State :=
  stopAt (modCore s c fun x => dropLater x q.ord) c reason addr q.offset

/-- Whether a core's engines run: the core has a part, and nothing holds the device or the core. -/
def enginesRun (s : State) (c : Fin 192) : Bool :=
  (getCore s c).phase ≠ .idle && !frozen s && baseState s (.core c) != .outOfService

/-- Starts one queued instruction of an engine, if it is the first of its pipes and nothing holds it. -/
def startQueued (s : State) (c : Fin 192) (e : Fin 4) (q : QInstr) : State :=
  let x := getCore s c
  let qs := engQueue x e
  if !enginesRun s c || !qs.contains q || qs.any (fun r => r.ord < q.ord && sharePipe r.opc q.opc) then s
  else match tileRun q.opc c q.word s (queuedView x q) with
    | .done t =>
      let t := modCore t c fun y => dropQueued y q.ord
      settleCore (completed (if e = 0 then dropRebind t c else t) c e q.opc q.offset) c
    | .hold t => if q.met then s else modCore t c fun y => markMet y q.ord
    | .poisoned t a => stopQueued t c q 3 a
    | .stop r a => stopQueued s c q r a
    | _ => s

/-- Starts what can start in a core's queues, in program order. -/
def drainQueues (s : State) (c : Fin 192) : State :=
  let x := getCore s c
  let s := x.matQ.foldl (fun s q => startQueued s c 0 q) s
  x.vecQ.foldl (fun s q => startQueued s c 1 q) s

/-- Starts what can start in every core's queues. -/
def drainAll (s : State) : State := (List.finRange 192).foldl drainQueues s

end Sys2Proof.Machine
end

