-- ==== Sys2Proof/Machine/Tick.lean ====
section
/-! DEFINITION. What passes while no command waits: one tick of the timebase, the nanoseconds charged to every engine, the idle
time of switched domains, the queued instructions that can start, the requests of peers that waited, the next command of the queue
pairs, and the errors of memory
(02_self_timed_operation.md R64; 08_core_programming.md R243; 20_debug_and_telemetry.md R666 to R668; 19 R648). -/

namespace Sys2Proof.Machine

/-- The condition of an engine (R667, R668): idle, busy, or stalled for a reason. -/
inductive EngCond where
  | idle
  | busy
  | stall (reason : Nat)
  deriving DecidableEq, Repr

/-- The nanoseconds an engine has not yet been charged for at an instant, so that BUSY, IDLE and the stalls add up to the
time since SINCE (R667). -/
def uncharged (t : Nat) (n : EngCount) : Nat := t - (n.since + n.busy + n.idle + n.stalls.foldl (· + ·) 0)

/-- Charges them to one condition. -/
def chargeEngine (t : Nat) (cond : EngCond) (n : EngCount) : EngCount :=
  let d := uncharged t n
  match cond with
  | .idle => { n with idle := n.idle + d }
  | .busy => { n with busy := n.busy + d }
  | .stall r => { n with stalls := n.stalls.set (r - 1) (n.stalls.getD (r - 1) 0 + d) }

/-- The engine of an opcode (R249). -/
def opcEngine (o : Nat) : Fin 4 :=
  if 0x40 ≤ o ∧ o ≤ 0x43 then 0 else if 0x50 ≤ o ∧ o ≤ 0x60 then 1 else if o = 0x70 then 3 else 2

/-- Whether the instruction at a core's program counter waits: asked to issue, it neither completes nor moves on. -/
def heldBack (s : State) (c : Fin 192) (n : Nat) : Bool :=
  let x := getCore s c
  let e := opcEngine (n / 2 ^ 120)
  match coreInstr c n with
  | none => false
  | some i => match exec i s with
    | .next t =>
      let y := getCore t c
      y.pc = x.pc && y.phase = .running && y.counts[e].instrs = x.counts[e].instrs
    | _ => false

/-- Why a queued instruction waits, the lowest code of its waits: 1 for a range of memory in flight, 2 for an accumulator, 7 for a store
that is switched off, 8 for a verdict; `held` says that a verdict holds its engine (R204, R286, R650, R668). -/
def rangeReason (s : State) (c : Fin 192) (o : Nat) (rs ws : List Rng) (held : Bool) : Nat :=
  let mem := fun (xs : List Rng) => xs.filter fun r => !isAcc r
  if flightBlocks c (getCore s c) o (mem rs) (mem ws) then 1
  else if flightBlocks c (getCore s c) o (rs.filter isAcc) (ws.filter isAcc) then 2
  else if (mem (rs ++ ws)).any fun r => rangeOff s r.lo r.len then 7
  else if held || provBlocks s rs ws || pendBlocks (getCore s c) (rs.filter isAcc) (ws.filter isAcc) then 8
  else 1

/-- The state as it would be with no verdict open. -/
def noVerdicts (s : State) : State := { s with cores := s.cores.map fun (x : CoreSt) => { x with pend := none, cont := none } }

/-- Why a scalar or DMA instruction would wait with no verdict open (R668): FLWAIT for its flag; WAITD, FENCE and a DMA that finds no
queue slot for the DMA engine; others for a range. -/
def plainReason (s : State) (c : Fin 192) (n : Nat) : Nat :=
  let x := getCore s c
  match coreInstr c n with
  | some (.flwait _ _) => 5
  | some (.waitd _ _) => 4
  | some (.fence _ _) => if (ownEnts x).all entEnded then 1 else 4
  | some (.dma _ w) =>
    let rs := (chainAddrs 16 s c (xr x w.rs1).toNat).map fun a => (⟨devAt c a, 64⟩ : Rng)
    if liveEnts x ≥ 32 && !flightBlocks c x x.chainNext rs [] then 4 else 1
  | _ => 1

/-- Why a waiting instruction waits: for an open verdict if it would not wait without one (R204, R668). HALT's wait for what is still
under way is no stall. -/
def holdReason (s : State) (c : Fin 192) (n : Nat) : Option Nat :=
  if !heldBack (noVerdicts s) c n then some 8
  else match coreInstr c n with
    | some (.halt _ _) => none
    | _ => some (plainReason s c n)

/-- The engine and the reason of the instruction that holds a running core back. -/
def coreHold (s : State) (c : Fin 192) : Option (Fin 4 × Nat) :=
  if !coreRuns s c then none
  else match fetchWord s c with
    | .word n => if heldBack s c n then (holdReason s c n).map fun r => (opcEngine (n / 2 ^ 120), r) else none
    | _ => none

/-- Whether a DMA entry waits for credit or injection tokens: a frame of its requests has not left (R531, R668). -/
def fabricHeld (s : State) (c : Fin 192) (e : DmaEnt) : Bool :=
  let queued := s.fab.waiting ++ s.ports.toList.flatMap (·.queue)
  (s.fab.reqs.filter fun r => r.owner = .dma c e.seq).any fun r =>
    queued.any fun f => fhVc f.hdr = 0 && fhTid f.hdr = r.tid && fhDst f.hdr = r.peer

/-- Whether an entry waits for a translation: its own, or that of an earlier entry it stands behind (R434, R435). -/
def xlateHeld (x : CoreSt) (e : DmaEnt) : Bool :=
  let own := fun (g : DmaEnt) => (match g.phase with | .priWait _ _ => true | _ => false) || g.slots.any fun y => !y.filled
  own e || ((e.phase = .submitted || e.phase = .waiting) && anyBefore x e own)

/-- Why a DMA entry waits, the lowest code of its waits: for fabric credit, for a domain that wakes, for a verdict, or for a translation
(R204, R434, R435, R650, R668). -/
def entHold (s : State) (c : Fin 192) (e : DmaEnt) : Option Nat :=
  let x := getCore s c
  if fabricHeld s c e then some 6
  else if e.phase = .submitted && !xlateHeld x e && mayStart s c e && entOff s c e then some 7
  else if !e.moved && (notBegun e || readsDone e) && entProvHeld s c e then some 8
  else if bytesDone e && flagHeld x e then some 8
  else if xlateHeld x e then some 9
  else none

/-- The DMA engine: stalled while each entry that lives waits, for the reason of the oldest. -/
def dmaCond (s : State) (c : Fin 192) : EngCond :=
  match (getCore s c).dma.filter fun e => !entEnded e with
  | [] => .idle
  | e :: es =>
    match entHold s c e with
    | some r => if es.all fun g => g.phase = .waiting || (notBegun g && behind (getCore s c) g) || (entHold s c g).isSome then .stall r else .busy
    | none => .busy

/-- The first instruction of an engine's queue waits, and why (R204, R286). -/
def queueCond (s : State) (c : Fin 192) (q : List QInstr) : EngCond :=
  match q with
  | [] => .idle
  | i :: _ => .stall (rangeReason s c i.ord i.reads i.writes (i.opc < 0x50 && matrixHeld (getCore s c)))

/-- Whether a launch waits for a core that wakes (R650). -/
def coreWaking (s : State) (c : Fin 192) : Bool := (vget s.doze .init c).wakeAt.isSome

/-- The condition of engine `e` of a core whose next instruction stands as `hold` says (R667): the scalar engine runs while
the core does; the matrix engine waits for its open verdict or replay (R200). -/
def engCond (s : State) (c : Fin 192) (hold : Option (Fin 4 × Nat)) (e : Fin 4) : EngCond :=
  let x := getCore s c
  let mine := match hold with | some (f, r) => if f = e then some r else none | none => none
  if frozen s then .idle
  else if coreWaking s c then .stall 7
  else if (vget s.doze .init c).off then .idle
  else if e = 0 then
    match queueCond s c x.matQ with
    | .idle => if x.pend.isSome || x.cont.isSome then .stall 8 else .idle
    | r => r
  else if e = 1 then queueCond s c x.vecQ
  else if e = 2 then
    if !coreRuns s c then .idle else (match mine with | some r => .stall r | none => .busy)
  else match dmaCond s c, mine with
    | .idle, some r => .stall r
    | d, _ => d

/-- A condition's stall reason, 0 for none. -/
def stallCode : EngCond → Nat
  | .stall r => r
  | _ => 0

/-- Charges every engine of a core up to this instant. -/
def chargeCore (s : State) (c : Fin 192) : CoreSt :=
  let h := coreHold s c
  { s.cores[c] with
    counts := Vector.ofFn fun e => chargeEngine (now s) (engCond s c h e) (s.cores[c]).counts[e]
    stall := Vector.ofFn fun e => stallCode (engCond s c h e) }

/-- STALL_END and STALL_BEGIN records of an engine whose stall reason has changed (R675). -/
def traceStall (old new : State) (s : State) (c : Fin 192) (e : Fin 4) : State :=
  let a := (getCore old c).stall[e]
  let b := (getCore new c).stall[e]
  if a = b then s
  else
    let s := if a = 0 then s else traceCore s c e 4 a
    if b = 0 then s else traceCore s c e 3 b

/-- The last instant at which a switched domain held work: now, for a core that is not asleep (R648). -/
def dozeWork (s : State) (i : Fin 256) : DozeSt :=
  let d := s.doze[i]
  if i.val < 192 && !coreAsleep s (fin 192 i) then { d with idleAt := now s } else d

/-- Every core's engines charged and every switched domain's last work noted, up to this instant. -/
def chargeAll (s : State) : State :=
  { s with cores := Vector.ofFn (chargeCore s), doze := Vector.ofFn (dozeWork s) }

/-- The stall records of every engine whose reason differs between two instants. -/
def traceStalls (old new : State) : State :=
  (List.finRange 192).foldl (fun s c => (List.finRange 4).foldl (fun s e => traceStall old new s c e) s) new

/-- What the memory system does by itself as time passes: it reports the errors that reads have met, a word may take an error, and
the patrol scrubber wakes the stacks that its period asks for (R396, R406, R420, R651; DESIGN CHOICE, log entry 107). -/
def memoryTick (s : State) : State :=
  if s.rst.porAt.isNone then s
  else (List.range 8).foldl (fun s i => scrubWake s (216 + i)) (upsetWord (reportErrors s))

/-- What the engines, the fabric interface and the command processor do by themselves as time passes: queued instructions start,
requests of peers and of the host that waited are served, a plan that came is taken, one command is taken from the queue pairs (R463), and the
management messages that wait are framed and sent. -/
def engineTick (s : State) : State := sbDrain (sendOutbox (sendHeld (takeCommand (servePlan (serveMgmt (serveBar2 (serveParked (bridgeFence (drainAll s)))))))))

/-- One tick (R64); nothing passes before the timebase has locked. -/
def tick (s : State) : State :=
  if !s.tb.locked then s
  else
    let s := { s with tb := tbTick s.tb }
    memoryTick (engineTick (traceStalls s (chargeAll s)))

end Sys2Proof.Machine
end

