-- ==== Sys2Proof/Laws/Smap.lean ====
section
/-! SUPPORT. Laws of sparse tables: the canonical form is kept by every operation, a read after a write gives the value
written, and a write leaves every other key alone. -/

namespace Sys2Proof.Machine

section Smap

variable {α : Type} [DecidableEq α]

theorem smapWfFrom_mono {d : α} {lo lo' : Nat} {m : Smap α} (h : lo' ≤ lo) (hw : smapWfFrom d lo m = true) :
    smapWfFrom d lo' m = true := by
  cases m with
  | nil => rfl
  | cons e m =>
    obtain ⟨j, v⟩ := e
    simp only [smapWfFrom, Bool.and_eq_true, decide_eq_true_eq] at hw ⊢
    exact ⟨⟨Nat.le_trans h hw.1.1, hw.1.2⟩, hw.2⟩

theorem smapWfFrom_del {d : α} {m : Smap α} (k : Nat) : ∀ {lo : Nat}, smapWfFrom d lo m = true → smapWfFrom d lo (smapDel m k) = true := by
  induction m with
  | nil => intro lo h; exact h
  | cons e m ih =>
    intro lo h
    obtain ⟨j, v⟩ := e
    simp only [smapWfFrom, Bool.and_eq_true, decide_eq_true_eq] at h
    unfold smapDel
    split
    · exact smapWfFrom_mono (by omega) h.2
    · simp only [smapWfFrom, Bool.and_eq_true, decide_eq_true_eq]
      exact ⟨h.1, ih h.2⟩

theorem smapWfFrom_ins {d v : α} {m : Smap α} {k : Nat} (hv : v ≠ d) :
    ∀ {lo : Nat}, lo ≤ k → smapWfFrom d lo m = true → smapWfFrom d lo (smapIns m k v) = true := by
  induction m with
  | nil => intro lo hk _; simp [smapIns, smapWfFrom, hk, hv]
  | cons e m ih =>
    intro lo hk h
    obtain ⟨j, w⟩ := e
    simp only [smapWfFrom, Bool.and_eq_true, decide_eq_true_eq] at h
    unfold smapIns
    split
    · simp only [smapWfFrom, Bool.and_eq_true, decide_eq_true_eq]
      exact ⟨⟨hk, hv⟩, ⟨by omega, h.1.2⟩, h.2⟩
    · split
      · simp only [smapWfFrom, Bool.and_eq_true, decide_eq_true_eq]
        subst_vars
        exact ⟨⟨hk, hv⟩, h.2⟩
      · simp only [smapWfFrom, Bool.and_eq_true, decide_eq_true_eq]
        exact ⟨h.1, ih (by omega) h.2⟩

/-- A write keeps the canonical form. -/
theorem smapWf_set {d v : α} {m : Smap α} {k : Nat} (h : smapWf d m = true) : smapWf d (smapSet d m k v) = true := by
  unfold smapSet smapWf at *
  split
  · exact smapWfFrom_del k h
  · rename_i hv
    exact smapWfFrom_ins hv (Nat.zero_le k) h

/-- A run of writes keeps the canonical form. -/
theorem smapWf_setRun {d : α} (vs : List α) : ∀ {m : Smap α} {k : Nat}, smapWf d m = true → smapWf d (smapSetRun d m k vs) = true := by
  induction vs with
  | nil => intro m k h; exact h
  | cons v vs ih => intro m k h; exact ih (smapWf_set h)

theorem smapWfFrom_filter {d : α} {m : Smap α} (p : Nat × α → Bool) :
    ∀ {lo : Nat}, smapWfFrom d lo m = true → smapWfFrom d lo (m.filter p) = true := by
  induction m with
  | nil => intro lo h; exact h
  | cons e m ih =>
    intro lo h
    obtain ⟨j, v⟩ := e
    simp only [smapWfFrom, Bool.and_eq_true, decide_eq_true_eq] at h
    simp only [List.filter_cons]
    split
    · simp only [smapWfFrom, Bool.and_eq_true, decide_eq_true_eq]
      exact ⟨h.1, ih h.2⟩
    · exact smapWfFrom_mono (by omega) (ih h.2)

/-- Dropping entries keeps the canonical form. -/
theorem smapWf_filter {d : α} {m : Smap α} (p : Nat × α → Bool) (h : smapWf d m = true) : smapWf d (m.filter p) = true :=
  smapWfFrom_filter p h

theorem smapWf_clear {d : α} {m : Smap α} (lo hi : Nat) (h : smapWf d m = true) : smapWf d (smapClear m lo hi) = true :=
  smapWf_filter _ h

theorem smapGet_below {d : α} {m : Smap α} {k : Nat} : ∀ {lo : Nat}, smapWfFrom d lo m = true → k < lo → smapGet d m k = d := by
  induction m with
  | nil => intro lo _ _; rfl
  | cons e m ih =>
    intro lo h hk
    obtain ⟨j, v⟩ := e
    simp only [smapWfFrom, Bool.and_eq_true, decide_eq_true_eq] at h
    unfold smapGet
    rw [if_neg (by omega)]
    exact ih h.2 (by omega)

theorem smapGet_del_same {d : α} {m : Smap α} {k : Nat} : ∀ {lo : Nat}, smapWfFrom d lo m = true → smapGet d (smapDel m k) k = d := by
  induction m with
  | nil => intro lo _; rfl
  | cons e m ih =>
    intro lo h
    obtain ⟨j, v⟩ := e
    simp only [smapWfFrom, Bool.and_eq_true, decide_eq_true_eq] at h
    unfold smapDel
    split
    · subst_vars; exact smapGet_below h.2 (by omega)
    · unfold smapGet; rw [if_neg (by assumption)]; exact ih h.2

omit [DecidableEq α] in
theorem smapGet_del_other {d : α} {m : Smap α} {k a : Nat} (ha : a ≠ k) : smapGet d (smapDel m k) a = smapGet d m a := by
  induction m with
  | nil => rfl
  | cons e m ih =>
    obtain ⟨j, v⟩ := e
    unfold smapDel
    split
    · subst_vars; simp only [smapGet, if_neg (Ne.symm ha)]
    · simp only [smapGet, ih]

omit [DecidableEq α] in
theorem smapGet_ins_same {d v : α} {m : Smap α} {k : Nat} : smapGet d (smapIns m k v) k = v := by
  induction m with
  | nil => simp [smapIns, smapGet]
  | cons e m ih =>
    obtain ⟨j, w⟩ := e
    unfold smapIns
    split
    · simp [smapGet]
    · split
      · simp [smapGet]
      · unfold smapGet; rw [if_neg (by assumption)]; exact ih

omit [DecidableEq α] in
theorem smapGet_ins_other {d v : α} {m : Smap α} {k a : Nat} (ha : a ≠ k) : smapGet d (smapIns m k v) a = smapGet d m a := by
  induction m with
  | nil => simp [smapIns, smapGet, Ne.symm ha]
  | cons e m ih =>
    obtain ⟨j, w⟩ := e
    unfold smapIns
    split
    · simp only [smapGet, if_neg (Ne.symm ha)]
    · split
      · subst_vars; simp only [smapGet, if_neg (Ne.symm ha)]
      · simp only [smapGet, ih]

omit [DecidableEq α] in
/-- What a key reads is the default or one of the entries. -/
theorem smapGet_mem {d : α} {m : Smap α} {k : Nat} : smapGet d m k = d ∨ (k, smapGet d m k) ∈ m := by
  induction m with
  | nil => exact .inl rfl
  | cons e m ih =>
    obtain ⟨j, v⟩ := e
    unfold smapGet
    split
    · subst_vars; exact .inr (List.mem_cons_self ..)
    · exact ih.imp id (List.mem_cons_of_mem _)

omit [DecidableEq α] in
theorem mem_smapDel {m : Smap α} {k : Nat} {e : Nat × α} : e ∈ smapDel m k → e ∈ m := by
  induction m with
  | nil => exact id
  | cons x m ih =>
    obtain ⟨j, v⟩ := x
    unfold smapDel
    split
    · exact List.mem_cons_of_mem _
    · intro h
      rcases List.mem_cons.mp h with h | h
      · exact h ▸ List.mem_cons_self ..
      · exact List.mem_cons_of_mem _ (ih h)

omit [DecidableEq α] in
theorem mem_smapIns {v : α} {m : Smap α} {k : Nat} {e : Nat × α} : e ∈ smapIns m k v → e ∈ m ∨ e = (k, v) := by
  induction m with
  | nil => intro h; exact .inr (List.mem_singleton.mp h)
  | cons x m ih =>
    obtain ⟨j, w⟩ := x
    unfold smapIns
    split
    · intro h
      rcases List.mem_cons.mp h with h | h
      · exact .inr h
      · exact .inl h
    · split
      · intro h
        rcases List.mem_cons.mp h with h | h
        · exact .inr h
        · exact .inl (List.mem_cons_of_mem _ h)
      · intro h
        rcases List.mem_cons.mp h with h | h
        · exact .inl (h ▸ List.mem_cons_self ..)
        · exact (ih h).imp (List.mem_cons_of_mem _) id

/-- A write adds no entry but its own. -/
theorem mem_smapSet {d v : α} {m : Smap α} {k : Nat} {e : Nat × α} (h : e ∈ smapSet d m k v) : e ∈ m ∨ e = (k, v) := by
  unfold smapSet at h
  split at h
  · exact .inl (mem_smapDel h)
  · exact mem_smapIns h

/-- A read after a write gives the value written. -/
theorem smapGet_set_same {d v : α} {m : Smap α} {k : Nat} (h : smapWf d m = true) : smapGet d (smapSet d m k v) k = v := by
  unfold smapSet
  split
  · subst_vars; exact smapGet_del_same h
  · exact smapGet_ins_same

/-- A write leaves every other key alone. -/
theorem smapGet_set_other {d v : α} {m : Smap α} {k a : Nat} (ha : a ≠ k) : smapGet d (smapSet d m k v) a = smapGet d m a := by
  unfold smapSet
  split
  · exact smapGet_del_other ha
  · exact smapGet_ins_other ha

/-- A run of writes leaves the keys outside it alone. -/
theorem smapGet_setRun_other {d : α} (vs : List α) :
    ∀ {m : Smap α} {k a : Nat}, (a < k ∨ k + vs.length ≤ a) → smapGet d (smapSetRun d m k vs) a = smapGet d m a := by
  induction vs with
  | nil => intro m k a _; rfl
  | cons v vs ih =>
    intro m k a h
    simp only [List.length_cons] at h
    unfold smapSetRun
    rw [ih (by omega), smapGet_set_other (by omega)]

/-- A run of writes reads back. -/
theorem smapGet_setRun_in {d : α} (vs : List α) : ∀ {m : Smap α} {k i : Nat} (_ : smapWf d m = true) (hi : i < vs.length),
    smapGet d (smapSetRun d m k vs) (k + i) = vs[i] := by
  induction vs with
  | nil => intro m k i _ hi; exact absurd hi (Nat.not_lt_zero i)
  | cons v vs ih =>
    intro m k i h hi
    unfold smapSetRun
    cases i with
    | zero => rw [smapGet_setRun_other vs (by omega), Nat.add_zero, smapGet_set_same h]; rfl
    | succ i =>
      have := ih (m := smapSet d m k v) (k := k + 1) (i := i) (smapWf_set h) (by simpa using hi)
      rw [show k + (i + 1) = k + 1 + i by omega, this]; rfl

end Smap

end Sys2Proof.Machine
end

