-- ==== Sys2Proof/WellFormed.lean ====
section
/-! DEFINITION. Well-formed commands and events: what their operands must be for the table's row to name one at all. The
ranges that Fin and BitVec hold need no check. Meanings are total: an ill-formed operand is no fault of the device's. -/

namespace Sys2Proof

/-- A device of either plain: plain * 2^15 + device number, at most 24,575 (R18). -/
def peerOk (p : Nat) : Bool := decide (p < 2 ^ 16) && decide (p % 2 ^ 15 ≤ 24575)

/-- A FUID (R18). -/
def fuidOk (x : Nat) : Bool := decide (x < 2 ^ 64) && peerOk (x / 2 ^ 48)

/-- A PASID has 20 bits (R429). -/
def pasidOk (p : Option Nat) : Bool := match p with | some n => decide (n < 2 ^ 20) | none => true

/-- A host request: BAR 0, 2 or the MSI-X control word, at most 4,096 bytes, a write with its data (R569 to R577). -/
def tlpOk (t : TlpIn) : Bool :=
  ((t.bar == 0 && decide (t.off + t.len ≤ 2 ^ 24)) || (t.bar == 2 && decide (t.off + t.len ≤ 2 ^ 36))
    || (t.bar == 6 && t.len == 4 && decide (t.off < 4096) && t.off % 4 == 0))
    && decide (t.len ≤ 4096) && t.data.length == (if t.write then t.len else 0)

/-- A link that stays down, or a rate code and a width to which the port trains (R564). -/
def linkOk (rate width : Nat) : Bool :=
  (rate == 0 && width == 0) || (decide (1 ≤ rate) && decide (rate ≤ 6) && [1, 2, 4, 8, 16].contains width)

/-- A Vangaer message: its kind byte and what its signature covers, at most 128 bytes (R604). -/
def vangaerOk (m : VangaerIn) : Bool := decide (1 ≤ m.body.length) && decide (m.body.length ≤ 128)

/-- The bytes a frame's body carries. -/
def bodyBytes : FrameBody → List (BitVec 8)
  | .write bs => bs
  | .readData bs => bs
  | .collData _ _ _ _ _ _ bs => bs
  | _ => []

/-- A frame: at most sixteen 64-byte words (R534). -/
def frameOk (f : FrameIn) : Bool := decide ((bodyBytes f.body).length ≤ 1024)

/-- A sideband frame (R557). -/
def sbOk (f : SbIn) : Bool :=
  decide (f.kind < 256) && decide (f.dpos < 256) && decide (f.hops < 256) && decide (f.len < 65536) && decide (f.crc < 2 ^ 32)

/-- A command or step of another device (R468, R474). -/
def remoteOk (m : RemoteIn) : Bool := peerOk m.peer && decide (m.lease < 2 ^ 32) && decide (m.params.length ≤ 65536)

/-- A command as fetched (R460). -/
def fetchOk (f : FetchIn) : Bool := decide (f.params.length ≤ 65535)

/-- A Translation Completion covers the page that was asked for (R434). -/
def transOk (t : TransIn) : Bool := decide (t.page ≤ t.asked) && decide (t.asked < t.page + t.pages.length) && decide (t.asked < 2 ^ 52)

/-- A sample has readings of both dies (R53, R661). -/
def sampleOk (m : SampleIn) : Bool := !m.implied0.isEmpty && !m.implied1.isEmpty && !m.temps0.isEmpty && !m.temps1.isEmpty

/-- A fault report (R679, R680). -/
def reportOk (r : ReportIn) : Bool :=
  decide (r.reporter < 2 ^ 32) && decide (r.subject < 2 ^ 64) && decide (r.cls < 2 ^ 16) && decide (r.reason < 2 ^ 16)

/-- Well-formed commands and events. -/
def Instr.wellFormed (i : Instr) : Bool :=
  match i with
  | .mgmtSetLimits _ => true
  | .mgmtSetProfile _ => true
  | .mgmtOutOfServiceTake _ => true
  | .mgmtOutOfServiceRestore _ => true
  | .mgmtReset _ => true
  | .mgmtSetIdentity _ => true
  | .mgmtFirmware _ => true
  | .qpCreate _ => true
  | .qpDelete _ => true
  | .memTest _ => true
  | .leaseOpen _ => true
  | .leaseClose _ => true
  | .memMap _ => true
  | .dmaCopy _ => true
  | .flagSet _ => true
  | .flagAdd _ => true
  | .flagWait _ => true
  | .kernelLaunch _ => true
  | .graphRun _ => true
  | .seqConfig _ => true
  | .seqCreate _ => true
  | .seqDestroy _ => true
  | .seqPrefill _ => true
  | .seqStep _ _ => true
  | .seqDraft _ => true
  | .seqCommit _ => true
  | .seqRetract _ => true
  | .seqSuspend _ => true
  | .seqResume _ => true
  | .seqEvict _ => true
  | .prefixPublish _ => true
  | .fabRouteSet _ => true
  | .fabCollective _ => true
  | .collectiveArm _ => true
  | .collectiveDisarm _ => true
  | .portEnable _ => true
  | .portDisable _ => true
  | .portRetrain _ => true
  | .portLoopback _ => true
  | .telemRead _ => true
  | .dumpCollect _ => true
  | .stopGlobalArm _ => true
  | .stopGlobalFire _ => true
  | .stopGlobalDisarm _ => true
  | .traceCtl _ => true
  | .auditRead _ => true
  | .groupDefine _ => true
  | .groupDissolve _ => true
  | .permissionRefusalReply _ => true
  | .completionWrite _ => true
  | .commandTimeout _ => true
  | .hangDrainEnd _ => true
  | .resetEnd _ => true
  | .resetFaultEscalate _ => true
  | .unitReady _ => true
  | .remoteCommand m => remoteOk m
  | .memberStateMessage fuid state stamp epoch => fuidOk fuid && decide (state ≤ 5) && decide (stamp < 2 ^ 64) && decide (epoch < 2 ^ 16)
  | .atomicPrepare m => remoteOk m
  | .atomicDecision lead _ _ _ => peerOk lead
  | .atomicInDoubt lead _ => peerOk lead
  | .atomicDecisionQuery lead _ => peerOk lead
  | .add _ _ => true
  | .sub _ _ => true
  | .mul _ _ => true
  | .mulhu _ _ => true
  | .and _ _ => true
  | .or _ _ => true
  | .xor _ _ => true
  | .shl _ _ => true
  | .shr _ _ => true
  | .sra _ _ => true
  | .cmp _ _ => true
  | .plog _ _ => true
  | .ld _ _ => true
  | .st _ _ => true
  | .br _ _ => true
  | .brl _ _ => true
  | .jr _ _ => true
  | .halt _ _ => true
  | .fence _ _ => true
  | .flset _ _ => true
  | .flwait _ _ => true
  | .flwaitTimeout _ _ => true
  | .fladd _ _ => true
  | .csrRead _ _ => true
  | .csrWrite _ _ => true
  | .csrSet _ _ => true
  | .csrClear _ _ => true
  | .fadd _ _ => true
  | .fsub _ _ => true
  | .fmul _ _ => true
  | .ffma _ _ => true
  | .fdiv _ _ => true
  | .fsqrt _ _ => true
  | .fminmax _ _ => true
  | .fcmp _ _ => true
  | .fcvt _ _ => true
  | .mma _ _ => true
  | .chain _ _ => true
  | .quant _ _ => true
  | .accld _ _ => true
  | .vld _ _ => true
  | .vst _ _ => true
  | .vacc _ _ => true
  | .vadd _ _ => true
  | .vsub _ _ => true
  | .vmul _ _ => true
  | .vfma _ _ => true
  | .vdiv _ _ => true
  | .vsqrt _ _ => true
  | .vminmax _ _ => true
  | .vcmp _ _ => true
  | .vsel _ _ => true
  | .vcvt _ _ => true
  | .vdq _ _ => true
  | .vfn _ _ => true
  | .vred _ _ => true
  | .vquant _ _ => true
  | .dma _ _ => true
  | .waitd _ _ => true
  | .dmaEntrySubmit _ _ => true
  | .dmaEntryComplete _ _ _ => true
  | .atsTranslationCompletion _ _ t => transOk t
  | .prgResponse _ _ code => decide (code ≤ 15)
  | .priWaitExpiry _ _ => true
  | .atsInvalidateRequest itag pasid page npages => decide (itag < 32) && pasidOk pasid && decide (1 ≤ npages) && decide (page + npages ≤ 2 ^ 52)
  | .invalidateCompletion itag => decide (itag < 32)
  | .invalidateReadExpiry itag => decide (itag < 32)
  | .fabricHoldExpiry => true
  | .guardVerdict _ => true
  | .replayEnd _ => true
  | .fetch _ _ => true
  | .append _ _ => true
  | .stage _ _ => true
  | .xpose _ _ => true
  | .merge _ _ => true
  | .stepgraphComplete => true
  | .planReceive _ dst plan => decide (dst < 2 ^ 32) && plan.all fun x => decide (x < 2 ^ 512)
  | .runAheadPrefetch => true
  | .canarySample m => sampleOk m
  | .pacePublish => true
  | .thermalTrip _ _ => true
  | .tbSyncPulse => true
  | .timeExchange _ _ x => peerOk x.root
  | .alignTimeout => true
  | .timeRootProbe => true
  | .timeRootProbeExpiry => true
  | .frameRead f => frameOk f
  | .frameWrite f => frameOk f
  | .frameFlagAdd f => frameOk f
  | .frameReadData f => frameOk f
  | .frameAck f => frameOk f
  | .frameNack f => frameOk f
  | .frameColl f => frameOk f
  | .frameMgmt f => frameOk f
  | .frameTime f => frameOk f
  | .frameDigest f => frameOk f
  | .frameKeyx f => frameOk f
  | .digestMissingTimeout qpn seqno => decide (qpn < 256) && decide (seqno < 2 ^ 32)
  | .rekeyTrigger peer => peerOk peer
  | .rekeyTimeout peer => peerOk peer
  | .frameCounterLimit peer => peerOk peer
  | .collectiveTrigger _ => true
  | .collectiveInstanceEnd collid _ => decide (collid < 2 ^ 32)
  | .portTrained _ _ => true
  | .portLinkLoss _ => true
  | .portRetrainTimer _ => true
  | .sbMarkOriginate => true
  | .sbMark f => sbOk f
  | .sbStop f => sbOk f
  | .sbMgmt f => sbOk f
  | .sbReply f => sbOk f
  | .sbBypassAssert => true
  | .sbBypassOpen => true
  | .faultReport r => reportOk r
  | .faultWindowEnd _ => true
  | .scrubRead addr _ => decide (addr < 2 ^ 48)
  | .channelLost _ => true
  | .bridgeFault => true
  | .hbmChannelTrained _ _ => true
  | .domainDoze _ => true
  | .domainWake _ => true
  | .domainWakeComplete _ => true
  | .leaseCloseDrainEnd => true
  | .hbmClearEnd => true
  | .hbmVerifyEnd repairs bad => repairs.all (fun r => decide (r.1 < 256)) && bad.all fun a => decide (a < 2 ^ 48)
  | .fabricSecret m => vangaerOk m
  | .mirrorSecret m => vangaerOk m
  | .installKey m => vangaerOk m
  | .plainSecret m => vangaerOk m
  | .vangaerReply => true
  | .getCertificate _ => true
  | .getMeasurements _ x => decide (x.index ≤ 0xFF)
  | .kSetGo _ stream key => decide (stream < 5) && decide (key < 2)
  | .lockInterface _ stream => decide (stream < 4)
  | .startInterface _ nonce => decide (nonce < 2 ^ 256)
  | .stopInterface _ => true
  | .tdiError e => decide (e.cause ≤ 2)
  | .functionLevelReset => true
  | .hotReset => true
  | .linkDown rate width => linkOk rate width
  | .d3hotToD0 => true
  | .perstNAssert => true
  | .perstNDeassert rate width => linkOk rate width
  | .bar2Read t => tlpOk t
  | .bar2Write t => tlpOk t
  | .tlpRefused t => tlpOk t
  | .registerWrite t => tlpOk t
  | .sqTailDoorbell t fetched => tlpOk t && fetched.all fetchOk
  | .cqHeadDoorbell t => tlpOk t
  | .eventRingHeadDoorbell t => tlpOk t
  | .mqEnable t => tlpOk t
  | .mqDisable t => tlpOk t
  | .eventRingEnable t => tlpOk t
  | .eventRingDisable t => tlpOk t
  | .bootstrapGo t => tlpOk t
  | .msixUnmask t => tlpOk t
  | .porNDeassert _ => true
  | .powerLoss _ => true
  | .stopArmExpiry => true
  | .auditCheckpoint => true
  | .portSignalDetected _ => true
  | .linkRetransmit _ _ => true
  | .vcCreditReturn _ _ _ => true
  | .injectionTokenRefill => true
  | .keyExchange _ => true
  | .keyProg _ stream k => decide (stream < 5) && decide (k.keySet < 2)
  | .memTestEnd _ r => decide (r.errors < 2 ^ 64) && decide (r.firstOff < 2 ^ 48)
  | .hardwareScrubEnd => true
  | .askocScrubEnd => true
  | .i3cCommand blocks => decide (1 ≤ blocks.length) && decide (blocks.length ≤ 65536)
  | .getstatus => true
  | .registerSnapshotRead t => tlpOk t

end Sys2Proof
end

