-- ==== Sys2Proof/Safety.lean ====
section
/-! DEFINITION. Safe runs, and the conditions and results that the statements about commands are written with: when a core
instruction issues, when a command starts, when a request of the host or a frame is admitted. -/

namespace Sys2Proof.Machine

/-- A step answers a next state: it neither faults nor is refused. -/
def goesOn (s : State) : Prop := ∃ t, step s = .next t

/-- Every one of the next `n` steps goes on. -/
def safeFor : Nat → State → Prop
  | 0, _ => True
  | n + 1, s => ∃ t, step s = .next t ∧ safeFor n t

/-! ### What every step keeps -/

/-- No unit and no group holds epoch 0 (R37). -/
def EpochsOk (s : State) : Prop := (∀ u, (getUnit s u).epoch ≠ 0) ∧ ∀ e ∈ s.groups.epoch, e.2 ≠ 0

/-- A device with a lease open holds no arming (R692). -/
def ArmOk (s : State) : Prop := s.stopArm.isSome = true → s.lease.openL = false

/-! ### Frames -/

/-- The commands and events whose own effect, or the resets and failures they bring, may store to device memory. -/
def storesToMemory (i : Instr) : Bool :=
  match i with
  | .mgmtOutOfServiceRestore .. | .mgmtReset .. | .leaseOpen .. | .leaseClose .. | .flagSet .. | .flagAdd .. |
    .kernelLaunch .. | .mgmtOutOfServiceTake .. | .seqConfig .. | .seqCreate .. | .seqDestroy .. | .seqPrefill .. | .seqStep .. | .seqDraft .. |
    .seqCommit .. | .seqRetract .. | .seqSuspend .. | .seqResume .. | .seqEvict .. | .prefixPublish .. | .fabCollective .. |
    .groupDefine .. | .commandTimeout .. | .hangDrainEnd .. | .resetEnd .. | .resetFaultEscalate .. | .atomicPrepare .. |
    .atomicDecision .. | .st .. | .flset .. | .fladd .. | .chain .. | .quant .. | .vst .. | .vquant .. | .dmaEntryComplete .. |
    .guardVerdict .. | .replayEnd .. | .fetch .. | .append .. | .stage .. | .xpose .. | .merge .. | .stepgraphComplete |
    .planReceive .. | .runAheadPrefetch | .frameWrite .. | .frameFlagAdd .. | .frameReadData .. | .frameAck .. |
    .frameNack .. | .frameColl .. | .frameMgmt .. | .collectiveTrigger .. | .collectiveInstanceEnd .. | .scrubRead .. |
    .channelLost .. | .hbmChannelTrained .. | .leaseCloseDrainEnd | .hbmClearEnd | .functionLevelReset | .hotReset |
    .linkDown .. | .d3hotToD0 | .perstNAssert | .bar2Write .. | .porNDeassert .. | .powerLoss .. | .memTestEnd .. => true
  | .mgmtSetLimits .. | .mgmtSetProfile .. | .mgmtSetIdentity .. | .mgmtFirmware .. | .qpCreate .. |
    .qpDelete .. | .memTest .. | .memMap .. | .dmaCopy .. | .flagWait .. | .graphRun .. | .fabRouteSet .. | .collectiveArm .. |
    .collectiveDisarm .. | .portEnable .. | .portDisable .. | .portRetrain .. | .portLoopback .. | .telemRead .. |
    .dumpCollect .. | .stopGlobalArm .. | .stopGlobalFire .. | .stopGlobalDisarm .. | .traceCtl .. | .auditRead .. |
    .groupDissolve .. | .permissionRefusalReply .. | .completionWrite .. | .unitReady .. | .remoteCommand .. |
    .memberStateMessage .. | .atomicInDoubt .. | .atomicDecisionQuery .. | .add .. | .sub .. | .mul .. | .mulhu .. | .and .. |
    .or .. | .xor .. | .shl .. | .shr .. | .sra .. | .cmp .. | .plog .. | .ld .. | .br .. | .brl .. | .jr .. | .halt .. |
    .fence .. | .flwait .. | .flwaitTimeout .. | .csrRead .. | .csrWrite .. | .csrSet .. | .csrClear .. | .fadd .. | .fsub .. |
    .fmul .. | .ffma .. | .fdiv .. | .fsqrt .. | .fminmax .. | .fcmp .. | .fcvt .. | .mma .. | .accld .. | .vld .. | .vacc .. |
    .vadd .. | .vsub .. | .vmul .. | .vfma .. | .vdiv .. | .vsqrt .. | .vminmax .. | .vcmp .. | .vsel .. | .vcvt .. | .vdq .. |
    .vfn .. | .vred .. | .dma .. | .waitd .. | .dmaEntrySubmit .. | .atsTranslationCompletion .. | .prgResponse .. |
    .priWaitExpiry .. | .atsInvalidateRequest .. | .invalidateCompletion .. | .invalidateReadExpiry .. | .fabricHoldExpiry |
    .canarySample .. | .pacePublish | .thermalTrip .. | .tbSyncPulse | .timeExchange .. | .alignTimeout | .timeRootProbe |
    .timeRootProbeExpiry | .frameRead .. | .frameTime .. | .frameDigest .. | .frameKeyx .. | .digestMissingTimeout .. |
    .rekeyTrigger .. | .rekeyTimeout .. | .frameCounterLimit .. | .portTrained .. | .portLinkLoss .. | .portRetrainTimer .. |
    .sbMarkOriginate | .sbMark .. | .sbStop .. | .sbMgmt .. | .sbReply .. | .sbBypassAssert | .sbBypassOpen | .faultReport .. |
    .faultWindowEnd .. | .bridgeFault | .domainDoze .. | .domainWake .. | .domainWakeComplete .. | .hbmVerifyEnd .. |
    .fabricSecret .. | .mirrorSecret .. | .installKey .. | .plainSecret .. | .vangaerReply | .getCertificate .. |
    .getMeasurements .. | .kSetGo .. | .lockInterface .. | .startInterface .. | .stopInterface .. | .tdiError .. |
    .perstNDeassert .. | .bar2Read .. | .tlpRefused .. | .registerWrite .. | .sqTailDoorbell .. | .cqHeadDoorbell .. |
    .eventRingHeadDoorbell .. | .mqEnable .. | .mqDisable .. | .eventRingEnable .. | .eventRingDisable .. | .bootstrapGo .. |
    .msixUnmask .. | .stopArmExpiry | .auditCheckpoint | .portSignalDetected .. | .linkRetransmit .. | .vcCreditReturn .. |
    .injectionTokenRefill | .keyExchange .. | .keyProg .. | .hardwareScrubEnd | .askocScrubEnd | .i3cCommand .. | .getstatus |
    .registerSnapshotRead .. => false

/-- The time's count and what is about to move it stay below 2^64 at the next step: two ticks' worth of room, and a source's
time within the register's width (R64, R65, R68, R559). -/
def TimeFits (s : State) : Prop :=
  now s + 2 < 2 ^ 64 ∧ match s.pending.head? with
    | some (.timeExchange _ _ x) => (now s : Int) + x.offset < 2 ^ 64
    | some (.sbMark f) => markT0 f + markFwd f + sbDly s < 2 ^ 64
    | some .timeRootProbeExpiry => ∀ t best, s.tb.probe = some (t, best) → now s + best < 2 ^ 64
    | _ => True

/-- What an instruction of core `c` leaves unchanged that writes at most the x registers `xs`, the predicates `ps` and the v
registers `vs`: everything but the core, its cluster's trace, the record of errors that its fetch meets and the counter of free values;
of the core, every other register,
the accumulators, the held rows, the queues and the verdict; of the two FCSRs, all but flags that it raises, and those of an
engine it does not use (`sc`, `ve`) wholly. -/
structure CoreFrame (s t : State) (c : Fin 192) (xs : List (Fin 32)) (ps : List (Fin 8)) (vs : List (Fin 32)) (sc ve : Bool) :
    Prop where
  rest : t = { s with cores := t.cores, clusters := t.clusters, ecc := t.ecc, free := t.free }
  others : ∀ d, d ≠ c → getCore t d = getCore s d
  clusters : ∀ k, k ≠ clusterOfCore c → t.clusters[k] = s.clusters[k]
  x : ∀ r, r ∉ xs → xr (getCore t c) r = xr (getCore s c) r
  p : ∀ r, r ∉ ps → pr (getCore t c) r = pr (getCore s c) r
  v : ∀ r, r ∉ vs → vr (getCore t c) r = vr (getCore s c) r
  acc : (getCore t c).acc = (getCore s c).acc
  held : (getCore t c).held = (getCore s c).held ∧ (getCore t c).heldRec = (getCore s c).heldRec
  queues : (getCore t c).matQ = (getCore s c).matQ ∧ (getCore t c).vecQ = (getCore s c).vecQ
  dma : (getCore t c).dma = (getCore s c).dma ∧ (getCore t c).dmaStat = (getCore s c).dmaStat
  verdict : (getCore t c).pend = (getCore s c).pend ∧ (getCore t c).cont = (getCore s c).cont
    ∧ (getCore t c).verdict = (getCore s c).verdict
  launch : (getCore t c).phase = (getCore s c).phase ∧ (getCore t c).launch = (getCore s c).launch
  fcsrS : ∃ fl : FFlags, (getCore t c).fcsrS = raise (getCore s c).fcsrS (if sc then fl else 0)
  fcsrV : ∃ fl : FFlags, (getCore t c).fcsrV = raise (getCore s c).fcsrV (if ve then fl else 0)

/-! ### Core instructions -/

/-- What lets an instruction of a core issue, its own waits apart: the core runs (R241), the 16 bytes at its program counter
are the instruction's word (R242, R246), fields it does not use are zero (R287), and its guard predicate holds (R247). -/
abbrev Issues (s : State) (c : Fin 192) (opc : Nat) (u : FieldUse) (w : CoreWord) : Prop :=
  coreRuns s c = true
    ∧ (match fetchWord s c with | .word n => n = wordBits opc w | _ => False)
    ∧ fieldsOk u w = true
    ∧ pr (getCore s c) w.pred ≠ w.pneg

/-- What lets a tile instruction of an engine issue and start at once: it issues, its engine's queue and the tracker have room, and the
queue holds nothing that takes a pipe of its own (R243, R244). -/
abbrev Starts (s : State) (c : Fin 192) (e : Fin 4) (opc : Nat) (u : FieldUse) (w : CoreWord) : Prop :=
  Issues s c opc u w ∧ (engQueue (getCore s c) e).length < queueCap e ∧ trackerFull c (getCore s c) 1 = false
    ∧ (engQueue (getCore s c) e).any (fun q => sharePipe q.opc opc) = false

/-- The state after an instruction of a core that had the effect `t`: counted and traced, and the next in order follows
(R244). -/
def retiredNext (s t : State) (c : Fin 192) (e : Fin 4) (opc : Nat) : State :=
  modCore (retire t c e opc (pcOffset (getCore s c))) c fun x => { x with pc := x.pc + 16 }

/-- The same where the program counter takes a value. -/
def retiredAt (s t : State) (c : Fin 192) (e : Fin 4) (opc : Nat) (pc : BitVec 64) : State :=
  modCore (retire t c e opc (pcOffset (getCore s c))) c fun x => { x with pc := pc }

/-- The fields of a core instruction that it uses, by its row of the opcode table (R246, R249): the other fields are zero. -/
def fieldsUsed (i : Instr) : FieldUse :=
  match i with
  | .add _ w | .sub _ w | .mul _ w | .mulhu _ w | .and _ w | .or _ w | .xor _ w | .shl _ w | .shr _ w | .sra _ w =>
    if ctlBit w 0 then ⟨31, 31, 0, 0, 1, immAll⟩ else ⟨31, 31, 31, 0, 1, 0⟩
  | .cmp _ w => if ctlBit w 0 then ⟨7, 31, 0, 0, 0xF, immAll⟩ else ⟨7, 31, 31, 0, 0xF, 0⟩
  | .plog _ _ => ⟨7, 7, 7, 0, 0xF, 0⟩
  | .ld _ _ => ⟨31, 31, 0, 0, 7, immAll⟩
  | .st _ _ => ⟨0, 31, 31, 0, 3, immAll⟩
  | .br _ _ => ⟨0, 0, 0, 0, 0, immAll⟩
  | .brl _ _ => ⟨31, 0, 0, 0, 0, immAll⟩
  | .jr _ _ => ⟨0, 31, 0, 0, 0, immAll⟩
  | .fence _ _ => ⟨0, 0, 0, 0, 0xF, 0⟩
  | .flset _ _ => ⟨0, 31, 31, 0, 0, immAll⟩
  | .flwait _ _ => ⟨31, 31, 31, 31, 3, immAll⟩
  | .fladd _ _ => ⟨31, 31, 31, 0, 0, immAll⟩
  | .csrRead _ _ => ⟨31, 0, 0, 0, 0x3FFF, 0⟩
  | .csrWrite _ _ | .csrSet _ _ | .csrClear _ _ => ⟨31, 31, 0, 0, 0x3FFF, 0⟩
  | .fadd _ _ | .fsub _ _ | .fmul _ _ | .fdiv _ _ => ⟨31, 31, 31, 0, 0x7F, 0⟩
  | .ffma _ _ => ⟨31, 31, 31, 31, 0x7F, 0⟩
  | .fsqrt _ _ => ⟨31, 31, 0, 0, 0x7F, 0⟩
  | .fminmax _ _ => ⟨31, 31, 31, 0, 0xFF, 0⟩
  | .fcmp _ _ => ⟨7, 31, 31, 0, 0x3FF, 0⟩
  | .fcvt _ _ => ⟨31, 31, 0, 0, 0xFFF, 0⟩
  | .mma _ w => if ctlBits w 7 6 = 2 then ⟨0, 0, 31, 0, 0xFF, 0⟩ else ⟨0, 31, 31, 0, 0xFF, 0⟩
  | .chain _ _ | .dma _ _ => ⟨0, 31, 0, 0, 0, 0⟩
  | .quant _ _ => ⟨0, 31, 31, 31, 2 ^ 32 - 1, 2 ^ 49 - 1⟩
  | .accld _ _ => ⟨0, 31, 0, 0, 7, 0⟩
  | .vld _ _ => ⟨31, 31, 0, 0, 0xFFFF, immAll⟩
  | .vst _ _ => ⟨0, 31, 31, 0, 0x7FFF, immAll⟩
  | .vacc _ _ => ⟨31, 0, 0, 0, 0x3FFFF, 0x3F⟩
  | .vadd _ _ | .vsub _ _ | .vmul _ _ | .vdiv _ _ => ⟨31, 31, 31, 0, 0x7FFF, 0⟩
  | .vfma _ _ | .vsel _ _ => ⟨31, 31, 31, 31, 0x7FFF, 0⟩
  | .vsqrt _ _ => ⟨31, 31, 0, 0, 0x7FFF, 0⟩
  | .vminmax _ _ => ⟨31, 31, 31, 0, 0xFFFF, 0⟩
  | .vcmp _ _ => ⟨31, 31, 31, 0, 0x3FFFF, 0⟩
  | .vcvt _ _ => ⟨31, 31, 0, 0, 0x7F7FFF, 0⟩
  | .vdq _ _ => ⟨31, 31, 31, 0, 0x3FFFFF, 0⟩
  | .vfn _ _ => ⟨31, 31, 0, 0, 0x7FFFF, 0⟩
  | .vred _ _ => ⟨31, 31, 0, 0, 0x1FFFF, 0⟩
  | .vquant _ _ => ⟨0, 31, 31, 31, 2 ^ 32 - 1, 2 ^ 48 - 1⟩
  | .waitd _ _ => ⟨31, 0, 0, 0, 1, 0xFFFF⟩
  | _ => ⟨0, 0, 0, 0, 0, 0⟩

/-- Whether the fields that a core instruction uses hold no reserved value and meet the rules that bind them alone (R109, R128,
R130, R170, R248, R250, R255, R261 to R268). -/
def valuesOk (i : Instr) : Bool :=
  let vec := fun (w : CoreWord) => rmFieldOk (ctlBits w 6 4) && ctlBits w 14 7 ≤ typeLanes (ctlBits w 3 0)
  match i with
  | .cmp _ w => ctlBits w 3 1 ≤ 5
  | .csrRead _ w | .csrWrite _ w | .csrSet _ w | .csrClear _ w =>
    ctlBits w 11 0 ∈ [0x000, 0x001, 0x010, 0x011, 0x020, 0x021]
  | .fadd _ w | .fsub _ w | .fmul _ w | .ffma _ w | .fdiv _ w | .fsqrt _ w | .fminmax _ w =>
    ctlBits w 3 0 ≤ 3 && rmFieldOk (ctlBits w 6 4)
  | .fcmp _ w => ctlBits w 3 0 ≤ 3 && rmFieldOk (ctlBits w 6 4) && ctlBits w 9 7 ≤ 6
  | .fcvt _ w => fcvtType (ctlBits w 10 7) && fcvtType (ctlBits w 3 0) && rmFieldOk (ctlBits w 6 4)
  | .mma _ w => ctlBits w 3 2 ≤ aselMax (ctlBits w 1 0) && !(ctlBits w 7 6 ≠ 0 && ctlBits w 1 0 = 3)
  | .quant _ w =>
    let q := qctlOf w.ctl.toNat
    qctlValid q true true q.fmt q.gsz && w.rs1.val % 8 / 4 = (w.rs1.val % 8 + w.rs1.val / 8) / 4
  | .vquant _ w =>
    let q := qctlOf w.ctl.toNat
    qctlValid q false false q.fmt q.gsz && q.fmt ≠ 0x14
  | .vld _ w | .vst _ w => ctlBits w 3 0 ≤ 7 && vec w
  | .vacc _ w => ctlBits w 3 0 = 1 && vec w
  | .vadd _ w | .vsub _ w | .vmul _ w | .vfma _ w | .vdiv _ w | .vsqrt _ w | .vminmax _ w | .vsel _ w =>
    ctlBits w 3 0 ≤ 4 && vec w
  | .vcmp _ w => ctlBits w 3 0 ≤ 4 && ctlBits w 17 15 ≤ (if ctlBits w 3 0 = 4 then 5 else 6) && vec w
  | .vcvt _ w =>
    let ns := typeLanes (ctlBits w 19 16)
    let nd := typeLanes (ctlBits w 3 0)
    ctlBits w 19 16 ≤ 7 && ctlBits w 3 0 ≤ 7 && ctlBits w 21 20 < max ns nd / max 1 (min ns nd) && vec w
  | .vdq _ w => ctlBits w 3 0 = 1 && 0x02 ≤ ctlBits w 19 15 && ctlBits w 19 15 ≤ 0x0E && vec w
  | .vfn _ w => 1 ≤ ctlBits w 3 0 && ctlBits w 3 0 ≤ 3 && ctlBits w 18 15 ≤ 6 && vec w
  | .vred _ w => ctlBits w 3 0 ≤ 4 && ctlBits w 16 15 ≤ 2 && vec w
  | _ => true

/-- A tile descriptor that an instruction reads: it lies at `p` in the device map, is free to be read, is not poisoned and
is valid (R257 to R259, R285). -/
abbrev TileAt (s : State) (c : Fin 192) (a p : Nat) (t : TileDesc) : Prop :=
  a % 32 = 0 ∧ localRange c a 32 = some p ∧ blocked s c [⟨p, 32⟩] [] = false ∧ anyPoison s p 32 = false
    ∧ tileOf (readNat s p 32) = t ∧ tileValid c t = true

/-- Tiles and other ranges that may be read and written now, the tiles read free of poison (R285, R288). -/
abbrev TilesFree (s : State) (c : Fin 192) (rs ws : List TileDesc) (mr mw : List Rng) : Prop :=
  blocked s c (rs.flatMap (tileRanges c) ++ mr) (ws.flatMap (tileRanges c) ++ mw) = false
    ∧ rs.findSome? (tilePoison s c) = none

/-- The state after the tiles have been read: what their rows' reads meet is corrected or marked (R396). -/
abbrev tilesRead (s : State) (c : Fin 192) (rs : List TileDesc) : State := demandAll s (rs.flatMap (tileRowRngs c))

/-! ### Commands -/

/-- What lets command `id` of an opcode start on a unit: it waits (R475), ORDER and its deadline allow it (R469, R477), its
epoch still holds (R476), and its target is not fenced or resetting (R637). -/
abbrev Startable (s : State) (id op : Nat) (c : CmdRec) (u : PUnit) : Prop :=
  waiting s id op = some c ∧ orderMet s c = true ∧ ¬ (hAbandon c.hdr = true ∧ now s ≥ hDeadline c.hdr)
    ∧ c.target = .unit u ∧ c.epoch = (getUnit s u).epoch ∧ (getUnit s u).lastWrap ≤ c.acceptedAt
    ∧ baseState s u ≠ .fenced ∧ baseState s u ≠ .resetting

/-- The same for a command on a group, which starts whatever its members' states are (R28). -/
abbrev StartableGroup (s : State) (id op : Nat) (c : CmdRec) (g : Nat) : Prop :=
  waiting s id op = some c ∧ orderMet s c = true ∧ ¬ (hAbandon c.hdr = true ∧ now s ≥ hDeadline c.hdr)
    ∧ c.target = .group g ∧ c.epoch = groupEpoch s g ∧ smapGet 0 s.groups.wrap g ≤ c.acceptedAt

/-- The record of a command that starts now (R482). -/
def begun (s : State) (c : CmdRec) : CmdRec := { c with phase := .started, startedAt := some (now s) }

end Sys2Proof.Machine
end

