-- ==== Sys2Proof/Certificates/Slice0/Obligations.lean ====
section
/-! DEFINITION. The statements for the provers: what commands and events do, where each completes, what it leaves unchanged, the
forms that are kept, and the encodings of core instructions and of UIDs. -/

open Sys2Proof
open Sys2Proof.Machine

/-! ### The block -/

/-- 95_what_each_step_holds.md, 14_command_interface.md: For every command and state with that command at the front of the
queue, a step is exec of the command on the state with the queue's rest. -/
def Obligations.StepRunsTheFrontCommand : Prop :=
  ∀ (s : State) (i : Instr) (rest : List Instr), s.pending = i :: rest → step s = exec i { s with pending := rest }

/-- 02_self_timed_operation.md, 95_what_each_step_holds.md: On an empty queue (the model's choice of where time moves, log entry
1) the next state has the timebase one tick on where it is locked, and nothing changes where it is not. Where no instruction of a
core's queues, request of a peer or of the host, management message, plan of a set, command of a queue pair or for another device
and no fence of the dies waits, and no error stands in memory (the choices of log entries 107, 111, 115 and 117), memory, units,
commands, lease and host interface stay as they were. -/
def Obligations.EmptyQueueTicksTheTimebase : Prop :=
  ∀ (s : State), s.pending = [] →
    ∃ t, step s = .next t ∧ t.pending = [] ∧ (s.tb.locked = false → t = s)
      ∧ t.tb.count = (if s.tb.locked then (tbTick s.tb).count else s.tb.count)
      ∧ ((∀ c, (getCore s c).matQ = [] ∧ (getCore s c).vecQ = []) → s.fab.parked = [] → s.host.parkedTlp = [] →
        s.fab.outbox = [] → (∀ k ∈ s.cmd.inflight, k.phase ≠ .held) → s.rst.bridgeDue = false → s.seq.planned = none →
        nextTurn s = none → s.ecc.lines = [] →
        t.mem = s.mem ∧ t.units = s.units ∧ t.cmd = s.cmd ∧ t.lease = s.lease ∧ t.host = s.host
          ∧ t.tb = (if s.tb.locked then tbTick s.tb else s.tb))

/-! ### Core instructions -/

/-- 08_core_programming.md: An integer instruction that issues (R241, R246, R247) writes x[RD] with x[RS1] op b, b = IMM where
CTL[0] is 1 and x[RS2] elsewhere, and goes on to the next instruction; CMP writes p[RD] with its comparison and PLOG with the
bit of CTL[3:0] that its two predicates select (R249). The next state is given whole, so nothing else changes. -/
def Obligations.IntegerAndPredicateInstructionsComplete : Prop :=
  (∀ (s : State) (c : Fin 192) (w : CoreWord),
    let a := xr (getCore s c) w.rs1
    let b := if ctlBit w 0 then w.imm else xr (getCore s c) w.rs2
    let u : FieldUse := if ctlBit w 0 then ⟨31, 31, 0, 0, 1, immAll⟩ else ⟨31, 31, 31, 0, 1, 0⟩
    let res : Nat → BitVec 64 → Res := fun o v => .next
      (retiredNext s (modCore s c fun x => setX x w.rd v) c 2 o)
    (Issues s c 0x01 u w → exec (.add c w) s = res 0x01 (a + b))
    ∧ (Issues s c 0x02 u w → exec (.sub c w) s = res 0x02 (a - b))
    ∧ (Issues s c 0x03 u w → exec (.mul c w) s = res 0x03 (a * b))
    ∧ (Issues s c 0x04 u w → exec (.mulhu c w) s = res 0x04 (BitVec.ofNat 64 (a.toNat * b.toNat / 2 ^ 64)))
    ∧ (Issues s c 0x05 u w → exec (.and c w) s = res 0x05 (a &&& b))
    ∧ (Issues s c 0x06 u w → exec (.or c w) s = res 0x06 (a ||| b))
    ∧ (Issues s c 0x07 u w → exec (.xor c w) s = res 0x07 (a ^^^ b))
    ∧ (Issues s c 0x08 u w → exec (.shl c w) s = res 0x08 (a <<< (b.toNat % 64)))
    ∧ (Issues s c 0x09 u w → exec (.shr c w) s = res 0x09 (a >>> (b.toNat % 64)))
    ∧ (Issues s c 0x0A u w → exec (.sra c w) s = res 0x0A (a.sshiftRight (b.toNat % 64))))
  ∧ (∀ (s : State) (c : Fin 192) (w : CoreWord),
    let x := getCore s c
    let a := xr x w.rs1
    let b := if ctlBit w 0 then w.imm else xr x w.rs2
    let u : FieldUse := if ctlBit w 0 then ⟨7, 31, 0, 0, 0xF, immAll⟩ else ⟨7, 31, 31, 0, 0xF, 0⟩
    let res : Nat → Bool → Res := fun o v => .next
      (retiredNext s (modCore s c fun y => setP y (predField w.rd) v) c 2 o)
    (Issues s c 0x10 u w → ctlBits w 3 1 = 0 → exec (.cmp c w) s = res 0x10 (a == b))
    ∧ (Issues s c 0x10 u w → ctlBits w 3 1 = 1 → exec (.cmp c w) s = res 0x10 (a != b))
    ∧ (Issues s c 0x10 u w → ctlBits w 3 1 = 2 → exec (.cmp c w) s = res 0x10 (decide (a.toInt < b.toInt)))
    ∧ (Issues s c 0x10 u w → ctlBits w 3 1 = 3 → exec (.cmp c w) s = res 0x10 (decide (b.toInt ≤ a.toInt)))
    ∧ (Issues s c 0x10 u w → ctlBits w 3 1 = 4 → exec (.cmp c w) s = res 0x10 (decide (a.toNat < b.toNat)))
    ∧ (Issues s c 0x10 u w → ctlBits w 3 1 = 5 → exec (.cmp c w) s = res 0x10 (decide (b.toNat ≤ a.toNat)))
    ∧ (Issues s c 0x11 ⟨7, 7, 7, 0, 0xF, 0⟩ w → exec (.plog c w) s
        = res 0x11 (ctlBit w (2 * b2n (pr x (predField w.rs1)) + b2n (pr x (predField w.rs2))))))

/-- 08_core_programming.md, 09_memory_model.md: LD writes x[RD] with 1, 2, 4 or 8 bytes, sign-extended with CTL[2], and ST stores
the low bytes of x[RS2], at x[RS1] + IMM. VLD writes the active lanes of v[RD] with NL elements of TYPE, or one element to each
with CTL[15], and VST stores NL elements of v[RS2], NL = 0 standing for every lane. FLSET stores x[RS2] into a flag, FLADD adds it
and gives the old value, FLWAIT writes 0 once its comparison holds and 1 once x[RS3] is not 0 and that time has come; each writes
its FLAG trace record. What a read meets is corrected or marked (R396). -/
def Obligations.LoadsStoresAndFlagInstructionsComplete : Prop :=
  (∀ (s : State) (c : Fin 192) (w : CoreWord) (p : Nat),
    let n := 2 ^ ctlBits w 1 0
    let a := (xr (getCore s c) w.rs1 + w.imm).toNat
    a % n = 0 → coreRange c a n = some p →
    (Issues s c 0x14 ⟨31, 31, 0, 0, 7, immAll⟩ w → blocked s c [⟨p, n⟩] [] = false → anyPoison s p n = false →
      exec (.ld c w) s = .next (retiredNext s (modCore (demand s p n) c fun x => setX x w.rd
        (if ctlBit w 2 then BitVec.ofInt 64 (sext (8 * n) (readNat s p n)) else BitVec.ofNat 64 (readNat s p n))) c 2 0x14))
    ∧ (Issues s c 0x15 ⟨0, 31, 31, 0, 3, immAll⟩ w → blocked s c [] [⟨p, n⟩] = false →
      exec (.st c w) s = .next (retiredNext s (writeNat s p n (xr (getCore s c) w.rs2).toNat) c 2 0x15)))
  ∧ (∀ (s : State) (c : Fin 192) (w : CoreWord) (p : Nat),
    let x := getCore s c
    let ty := ctlBits w 3 0
    let b := typeBits ty / 8
    let nl := if ctlBits w 14 7 = 0 then typeLanes ty else ctlBits w 14 7
    let n := (if ctlBit w 15 then 1 else nl) * b
    let a := (xr x w.rs1 + w.imm).toNat
    let old := vr x w.rd
    ty ≤ 7 → rmFieldOk (ctlBits w 6 4) = true → ctlBits w 14 7 ≤ typeLanes ty → a % b = 0 →
    (Starts s c 1 0x50 ⟨31, 31, 0, 0, 0xFFFF, immAll⟩ w → coreRange c a n = some p → blocked s c [⟨p, n⟩] [] = false →
      anyPoison s p n = false →
      exec (.vld c w) s = .next (retiredNext s (modCore (demand s p n) c fun y => setV y w.rd (packElems (typeBits ty)
        ((List.range (typeLanes ty)).map fun i =>
          if i < nl then readNat s (p + (if ctlBit w 15 then 0 else i * b)) b else elemAt (typeBits ty) old i))) c 1 0x50))
    ∧ (Starts s c 1 0x51 ⟨0, 31, 31, 0, 0x7FFF, immAll⟩ w → coreRange c a (nl * b) = some p →
      blocked s c [] [⟨p, nl * b⟩] = false →
      exec (.vst c w) s = .next (retiredNext s (writeBytes s p ((List.range nl).flatMap fun i =>
        leBytes b (elemAt (typeBits ty) (vr x w.rs2) i))) c 1 0x51)))
  ∧ (∀ (s : State) (c : Fin 192) (w : CoreWord) (p : Nat),
    let x := getCore s c
    let a := (xr x w.rs1 + w.imm).toNat
    let old := readNat s p 8
    let rec_ := fun (t : State) (k : Nat) => traceCore t c 2 7 (k * 2 ^ 60 + a % 2 ^ 48)
    flagAt c a = some p →
    (Issues s c 0x20 ⟨0, 31, 31, 0, 0, immAll⟩ w → releaseHeld s x = false → blocked s c [] [⟨p, 8⟩] = false →
      exec (.flset c w) s = .next (retiredNext s (rec_ (writeNat s p 8 (xr x w.rs2).toNat) 0) c 2 0x20))
    ∧ (Issues s c 0x22 ⟨31, 31, 31, 0, 0, immAll⟩ w → releaseHeld s x = false → blocked s c [⟨p, 8⟩] [⟨p, 8⟩] = false →
        anyPoison s p 8 = false →
        exec (.fladd c w) s = .next (retiredNext s (rec_ (modCore (writeNat (demand s p 8) p 8 (BitVec.ofNat 64 old + xr x w.rs2).toNat) c
          fun y => setX y w.rd (BitVec.ofNat 64 old)) 1) c 2 0x22))
    ∧ (Issues s c 0x21 ⟨31, 31, 31, 31, 3, immAll⟩ w → blocked s c [⟨p, 8⟩] [] = false → anyPoison s p 8 = false →
        flagCond (ctlBits w 1 0) old (xr x w.rs2).toNat = true →
        exec (.flwait c w) s = .next (retiredNext s (rec_ (modCore (demand s p 8) c fun y => setX y w.rd 0) 2) c 2 0x21))
    ∧ (Issues s c 0x21 ⟨31, 31, 31, 31, 3, immAll⟩ w → blocked s c [⟨p, 8⟩] [] = false → anyPoison s p 8 = false →
        flagCond (ctlBits w 1 0) old (xr x w.rs2).toNat = false → xr x w.rs3 ≠ 0 → (xr x w.rs3).toNat ≤ now s →
        exec (.flwaitTimeout c w) s = .next (retiredNext s (rec_ (modCore (demand s p 8) c fun y => setX y w.rd 1) 3) c 2 0x21)))

/-- 08_core_programming.md: BR adds IMM to the program counter, BRL also saves the address after it, JR goes to x[RS1] + IMM. HALT
ends the core's part once its queues are empty, its own DMA entries have ended and no verdict is open, with ST_OK or the first
failure of a DMA entry that no WAITD has returned; FENCE goes on once what CTL names has completed. -/
def Obligations.BranchesHaltAndFenceComplete : Prop :=
  (∀ (s : State) (c : Fin 192) (w : CoreWord),
    let x := getCore s c
    (Issues s c 0x18 ⟨0, 0, 0, 0, 0, immAll⟩ w → exec (.br c w) s = .next (retiredAt s s c 2 0x18 (x.pc + w.imm)))
    ∧ (Issues s c 0x19 ⟨31, 0, 0, 0, 0, immAll⟩ w → exec (.brl c w) s
        = .next (retiredAt s (modCore s c fun y => setX y w.rd (x.pc + 16)) c 2 0x19 (x.pc + w.imm)))
    ∧ (Issues s c 0x1A ⟨0, 31, 0, 0, 0, immAll⟩ w → exec (.jr c w) s
        = .next (retiredAt s s c 2 0x1A (xr x w.rs1 + w.imm))))
  ∧ (∀ (s : State) (c : Fin 192) (w : CoreWord),
    let x := getCore s c
    (Issues s c 0x1B ⟨0, 0, 0, 0, 0, 0⟩ w → x.matQ = [] → x.vecQ = [] → (ownEnts x).all entEnded = true → x.pend = none →
      x.cont = none →
      exec (.halt c w) s = .next (endCore (retire s c 2 0x1B (pcOffset x)) c ((dmaUnreported x).getD stOk)))
    ∧ (Issues s c 0x1C ⟨0, 0, 0, 0, 0xF, 0⟩ w →
        (ctlBit w 2 = true → (ownEnts x).all entEnded = true) →
        (ctlBit w 0 = true → x.matQ = [] ∧ (x.pend.isSome = true → x.verdict = .open)) →
        (ctlBit w 1 = true → x.vecQ = []) →
        (ctlBit w 3 = true → x.pend = none ∧ x.cont = none) →
        exec (.fence c w) s = .next (retiredNext s s c 2 0x1C)))

/-- 08_core_programming.md: A CSR access gives the register's value before it in x[RD]; modes 1 to 3 then write, set and clear
the two FCSRs and leave the read-only registers; an access to the vector engine's FCSR waits for the earlier instructions that use
it (R286). A reserved CSR number stops the core as invalid. -/
def Obligations.CsrAccessReadsThenModifies : Prop :=
  ∀ (s : State) (c : Fin 192) (w : CoreWord),
    let x := getCore s c
    let n := ctlBits w 11 0
    let m := ctlBits w 13 12
    let old : Nat := if n = 0 then x.fcsrS.toNat else if n = 1 then x.fcsrV.toNat else if n = 0x10 then now s
      else if n = 0x11 then s.pace.record.toNat else if n = 0x20 then uidOf (.core c)
      else (x.dma.filter fun e => !entEnded e).length
    let upd := fun (y : CoreSt) => if n = 0 then { y with fcsrS := fcsrWrite y.fcsrS (xr x w.rs1).toNat m }
      else if n = 1 then { y with fcsrV := fcsrWrite y.fcsrV (xr x w.rs1).toNat m } else y
    let res : (CoreSt → CoreSt) → Res := fun f => .next
      (retiredNext s (modCore s c fun y => setX (f y) w.rd (BitVec.ofNat 64 old)) c 2 0x24)
    (¬(n = 0 ∨ n = 1 ∨ n = 0x10 ∨ n = 0x11 ∨ n = 0x20 ∨ n = 0x21) →
      (m = 0 → Issues s c 0x24 ⟨31, 0, 0, 0, 0x3FFF, 0⟩ w → exec (.csrRead c w) s = .next (stopCore s c 1 0))
      ∧ (Issues s c 0x24 ⟨31, 31, 0, 0, 0x3FFF, 0⟩ w →
        (m = 1 → exec (.csrWrite c w) s = .next (stopCore s c 1 0)) ∧ (m = 2 → exec (.csrSet c w) s = .next (stopCore s c 1 0))
        ∧ (m = 3 → exec (.csrClear c w) s = .next (stopCore s c 1 0))))
    ∧ (n = 0 ∨ n = 1 ∨ n = 0x10 ∨ n = 0x11 ∨ n = 0x20 ∨ n = 0x21 → (n = 1 → vecFcsrHeld x = false) →
    (m = 0 → Issues s c 0x24 ⟨31, 0, 0, 0, 0x3FFF, 0⟩ w → exec (.csrRead c w) s = res id)
    ∧ (m = 1 → Issues s c 0x24 ⟨31, 31, 0, 0, 0x3FFF, 0⟩ w → exec (.csrWrite c w) s = res upd)
    ∧ (m = 2 → Issues s c 0x24 ⟨31, 31, 0, 0, 0x3FFF, 0⟩ w → exec (.csrSet c w) s = res upd)
    ∧ (m = 3 → Issues s c 0x24 ⟨31, 31, 0, 0, 0x3FFF, 0⟩ w → exec (.csrClear c w) s = res upd))

/-- 08_core_programming.md, 03_number_formats.md: FADD to FMINMAX write x[RD] with the result rounded by the rounding field or
FCSR.RM, upper bits zero, FCMP a predicate, FCVT the converted value, and each raises its flags in the scalar FCSR. -/
def Obligations.ScalarFloatingPointCompletes : Prop :=
  (∀ (s : State) (c : Fin 192) (w : CoreWord),
    let x := getCore s c
    let ty := ctlBits w 3 0
    let f := typeFmt ty
    let e := envOf x.fcsrS (ctlBits w 6 4)
    let arg := fun (r : Fin 32) => (xr x r).toNat % 2 ^ typeBits ty
    let res : Nat → (Nat × FFlags) → Res := fun o r => .next
      (retiredNext s (modCore s c fun y => setX { y with fcsrS := raise y.fcsrS r.2 } w.rd (BitVec.ofNat 64 r.1)) c 2 o)
    let u2 : FieldUse := ⟨31, 31, 31, 0, 0x7F, 0⟩
    ty ≤ 3 → rmFieldOk (ctlBits w 6 4) = true →
    (Issues s c 0x28 u2 w → exec (.fadd c w) s = res 0x28 (fAdd f e (arg w.rs1) (arg w.rs2)))
    ∧ (Issues s c 0x29 u2 w → exec (.fsub c w) s = res 0x29 (fSub f e (arg w.rs1) (arg w.rs2)))
    ∧ (Issues s c 0x2A u2 w → exec (.fmul c w) s = res 0x2A (fMul f e (arg w.rs1) (arg w.rs2)))
    ∧ (Issues s c 0x2B ⟨31, 31, 31, 31, 0x7F, 0⟩ w →
        exec (.ffma c w) s = res 0x2B (fFma f e (arg w.rs1) (arg w.rs2) (arg w.rs3)))
    ∧ (Issues s c 0x2C u2 w → exec (.fdiv c w) s = res 0x2C (fDiv f e (arg w.rs1) (arg w.rs2)))
    ∧ (Issues s c 0x2D ⟨31, 31, 0, 0, 0x7F, 0⟩ w → exec (.fsqrt c w) s = res 0x2D (fSqrt f e (arg w.rs1)))
    ∧ (Issues s c 0x2E ⟨31, 31, 31, 0, 0xFF, 0⟩ w →
        exec (.fminmax c w) s = res 0x2E (fMinMax f e (ctlBit w 7) (arg w.rs1) (arg w.rs2))))
  ∧ (∀ (s : State) (c : Fin 192) (w : CoreWord),
    let x := getCore s c
    let e := envOf x.fcsrS (ctlBits w 6 4)
    (Issues s c 0x2F ⟨7, 31, 31, 0, 0x3FF, 0⟩ w → ctlBits w 3 0 ≤ 3 → rmFieldOk (ctlBits w 6 4) = true → ctlBits w 9 7 ≤ 6 →
      exec (.fcmp c w) s =
        (let arg := fun (r : Fin 32) => (xr x r).toNat % 2 ^ typeBits (ctlBits w 3 0)
         let r := fCmp (typeFmt (ctlBits w 3 0)) e.daz (ctlBits w 9 7) (arg w.rs1) (arg w.rs2)
         .next (retiredNext s (modCore s c fun y => setP { y with fcsrS := raise y.fcsrS r.2 } (predField w.rd) r.1) c 2 0x2F)))
    ∧ (Issues s c 0x30 ⟨31, 31, 0, 0, 0xFFF, 0⟩ w → fcvtType (ctlBits w 10 7) = true → fcvtType (ctlBits w 3 0) = true →
        rmFieldOk (ctlBits w 6 4) = true →
        exec (.fcvt c w) s =
          (let v := typeDecode e.daz (ctlBits w 10 7) ((xr x w.rs1).toNat % 2 ^ typeBits (ctlBits w 10 7))
           let r := typeConvert e (ctlBit w 11) (ctlBits w 3 0) v
           .next (retiredNext s (modCore s c fun y => setX { y with fcsrS := raise y.fcsrS r.2 } w.rd (BitVec.ofNat 64 r.1)) c 2 0x30))))

/-- 08_core_programming.md, 03_number_formats.md: VADD, VSUB, VMUL, VFMA, VDIV, VSQRT, VMINMAX, VCMP and VSEL write each active
lane of v[RD], keep the lanes at and above NL, and raise the lanes' flags together in the vector FCSR. A quotient by 0 and the
root of a negative number on I32 lanes are free values (log entries of the model). -/
def Obligations.VectorArithmeticCompletes : Prop :=
  ∀ (s : State) (c : Fin 192) (w : CoreWord),
    let x := getCore s c
    let ty := ctlBits w 3 0
    let nl := if ctlBits w 14 7 = 0 then typeLanes ty else ctlBits w 14 7
    let e := envOf x.fcsrV (ctlBits w 6 4)
    let ln := fun (r : Fin 32) (i : Nat) => elemAt (typeBits ty) (vr x r) i
    let res : State → Nat → (Nat → Nat × FFlags) → Res := fun t o f => .next
      (retiredNext s (modCore t c fun y =>
        let rs := (List.range (typeLanes ty)).map fun i => if i < nl then f i else (ln w.rd i, 0)
        setV { y with fcsrV := raise y.fcsrV (joinFlags (rs.map (·.2))) } w.rd (packElems (typeBits ty) (rs.map (·.1)))) c 1 o)
    let u1 : FieldUse := ⟨31, 31, 0, 0, 0x7FFF, 0⟩
    let u2 : FieldUse := ⟨31, 31, 31, 0, 0x7FFF, 0⟩
    let u3 : FieldUse := ⟨31, 31, 31, 31, 0x7FFF, 0⟩
    let t0 := if ty = 4 then (drawFree s).2 else s
    let free := fun (i : Nat) => bits (Config.free s.free) (32 * i + 31) (32 * i)
    ty ≤ 4 → rmFieldOk (ctlBits w 6 4) = true → ctlBits w 14 7 ≤ typeLanes ty →
    (Starts s c 1 0x53 u2 w → exec (.vadd c w) s = res s 0x53 fun i => laneAdd ty e (ln w.rs1 i) (ln w.rs2 i))
    ∧ (Starts s c 1 0x54 u2 w → exec (.vsub c w) s = res s 0x54 fun i => laneOp ty e fSub (· - ·) (ln w.rs1 i) (ln w.rs2 i))
    ∧ (Starts s c 1 0x55 u2 w → exec (.vmul c w) s = res s 0x55 fun i => laneOp ty e fMul (· * ·) (ln w.rs1 i) (ln w.rs2 i))
    ∧ (Starts s c 1 0x56 u3 w → exec (.vfma c w) s = res s 0x56 fun i =>
        if ty = 4 then (ofI32 (i32 (ln w.rs1 i) * i32 (ln w.rs2 i) + i32 (ln w.rs3 i)), 0)
        else fFma (typeFmt ty) e (ln w.rs1 i) (ln w.rs2 i) (ln w.rs3 i))
    ∧ (Starts s c 1 0x57 u2 w → exec (.vdiv c w) s = res t0 0x57 fun i =>
        if ty = 4 then (ofI32 (divI32 e.rm (free i) (i32 (ln w.rs1 i)) (i32 (ln w.rs2 i))), 0)
        else fDiv (typeFmt ty) e (ln w.rs1 i) (ln w.rs2 i))
    ∧ (Starts s c 1 0x58 u1 w → exec (.vsqrt c w) s = res t0 0x58 fun i =>
        if ty = 4 then (ofI32 (sqrtI32 e.rm (free i) (i32 (ln w.rs1 i))), 0) else fSqrt (typeFmt ty) e (ln w.rs1 i))
    ∧ (Starts s c 1 0x59 ⟨31, 31, 31, 0, 0xFFFF, 0⟩ w →
        exec (.vminmax c w) s = res s 0x59 fun i => laneMinMax (ctlBit w 15) ty e (ln w.rs1 i) (ln w.rs2 i))
    ∧ (Starts s c 1 0x5A ⟨31, 31, 31, 0, 0x3FFFF, 0⟩ w → ctlBits w 17 15 ≤ (if ty = 4 then 5 else 6) →
        exec (.vcmp c w) s = res s 0x5A fun i => laneCmp ty (ctlBits w 17 15) e.daz (ln w.rs1 i) (ln w.rs2 i))
    ∧ (Starts s c 1 0x5B u3 w →
        exec (.vsel c w) s = res s 0x5B fun i => (if ln w.rs1 i ≠ 0 then ln w.rs2 i else ln w.rs3 i, 0))

/-- 08_core_programming.md, 03_number_formats.md, 05_accumulation_and_quantisation.md: VCVT converts the elements of its part,
VDQ decodes narrow elements with their group scale, VFN applies its row function, VRED reduces the active lanes by the tree and
writes lane 0, VACC reads a row of an accumulator tile out as FP32. -/
def Obligations.VectorConversionsAndReductionsComplete : Prop :=
  ∀ (s : State) (c : Fin 192) (w : CoreWord),
    let x := getCore s c
    let ty := ctlBits w 3 0
    let nl := if ctlBits w 14 7 = 0 then typeLanes ty else ctlBits w 14 7
    let e := envOf x.fcsrV (ctlBits w 6 4)
    let res : Nat → (Nat × FFlags) → Res := fun o r => .next
      (retiredNext s (modCore s c fun y => setV { y with fcsrV := raise y.fcsrV r.2 } w.rd r.1) c 1 o)
    let old := vr x w.rd
    rmFieldOk (ctlBits w 6 4) = true → ctlBits w 14 7 ≤ typeLanes ty →
    (Starts s c 1 0x5C ⟨31, 31, 0, 0, 0x7F7FFF, 0⟩ w → ctlBits w 19 16 ≤ 7 → ty ≤ 7 →
        ctlBits w 21 20 < max (typeLanes (ctlBits w 19 16)) (typeLanes ty) / max 1 (min (typeLanes (ctlBits w 19 16)) (typeLanes ty)) →
        exec (.vcvt c w) s = res 0x5C (vLanes ty nl old fun i =>
          let src := ctlBits w 19 16
          let n := min (typeLanes src) (typeLanes ty)
          let part := ctlBits w 21 20
          let cv := fun k => typeConvert e (ctlBit w 22) ty (typeDecode e.daz src (lane src (vr x w.rs1) k))
          if typeLanes ty ≤ typeLanes src then cv (part * n + i)
          else if part * n ≤ i ∧ i < part * n + n then cv (i - part * n)
          else (lane ty old i, 0)))
    ∧ (Starts s c 1 0x5D ⟨31, 31, 31, 0, 0x3FFFFF, 0⟩ w → ty = 1 → 0x02 ≤ ctlBits w 19 15 → ctlBits w 19 15 ≤ 0x0E →
        exec (.vdq c w) s = res 0x5D (vLanes ty nl old
          (dqLane e (ctlBits w 19 15) (ctlBits w 21 20) (vr x w.rs1) (vr x w.rs2))))
    ∧ (Starts s c 1 0x5E ⟨31, 31, 0, 0, 0x7FFFF, 0⟩ w → 1 ≤ ty → ty ≤ 3 → ctlBits w 18 15 ≤ 6 →
        exec (.vfn c w) s = res 0x5E (vLanes ty nl old fun i => vfnLane e ty (ctlBits w 18 15) (src1 x w i)))
    ∧ (Starts s c 1 0x5F ⟨31, 31, 0, 0, 0x1FFFF, 0⟩ w → ty ≤ 4 → ctlBits w 16 15 ≤ 2 →
        exec (.vred c w) s = res 0x5F ((redTree (redOp ty (ctlBits w 16 15) e) 8
          ((List.range nl).map fun i => (src1 x w i, (0 : FFlags)))).headD (0, 0)))
    ∧ (Starts s c 1 0x52 ⟨31, 0, 0, 0, 0x3FFFF, 0x3F⟩ w → ty = 1 → blocked s c [accRng (ctlBits w 17 15)] [] = false →
        exec (.vacc c w) s = res 0x52 (vLanes 1 nl old fun j => totToF32 e.rm (accGet x (ctlBits w 17 15) (immBits w 5 0) j)))

/-- 04_matrix_arrays.md, 08_core_programming.md: MMA under HR = OFF or LOAD multiplies tile A with tile B into the accumulators
its shape names, LOAD also recording the held rows; under USE it takes A from the held rows, under SHIFT_USE it first shifts them
and takes the row that comes in from tile A. It counts the invalid MT codes it decodes. Its descriptors are read one after the
other, then the rows of its tiles. -/
def Obligations.MatrixMultiplyCompletes : Prop :=
  (∀ (s : State) (c : Fin 192) (w : CoreWord) (pa pb : Nat) (a b : TileDesc),
    let x := getCore s c
    let shape := ctlBits w 1 0
    let asel := ctlBits w 3 2
    let load := ctlBits w 7 6 = 1
    let s1 := demand s pa 32
    let s2 := demand s1 pb 32
    let t := tilesRead s2 c [a, b]
    Starts s c 0 0x40 ⟨0, 31, 31, 0, 0xFF, 0⟩ w → ctlBits w 7 6 ≤ 1 → x.pend = none → x.cont = none →
    TileAt s c (xr x w.rs1).toNat pa a → TileAt s1 c (xr x w.rs2).toNat pb b →
    mmaShapeOk shape asel a.fmt b.fmt a.rows b.rows a.cols b.cols = true → tileInScratch c a = true → tileInScratch c b = true →
    (load → shape ≠ 3 ∧ a.cols ≤ 64) → TilesFree s2 c [a, b] [] [] (mmaAccs w) →
    exec (.mma c w) s = .next (retiredNext s
      (countInvalid (modCore t c fun y =>
        runMma (if load then heldLoad t c y a shape asel else y)
          { shape := shape, asel := asel, keep := ctlBit w 4, drain := ctlBit w 5, fa := a.fmt, fb := b.fmt, k := a.cols
            a := (List.range a.rows).map fun m => tileOpRow t c a a.cols m
            b := (List.range b.rows).map fun n => tileOpRow t c b a.cols n })
        c (mtCount t c a a.cols + mtCount t c b a.cols)) c 0 0x40))
  ∧ (∀ (s : State) (c : Fin 192) (w : CoreWord) (pb : Nat) (b : TileDesc) (r : HeldRec),
    let x := getCore s c
    let run := fun (t : State) (y : CoreSt) => runMma y
      { shape := r.shape, asel := r.asel, keep := ctlBit w 4, drain := ctlBit w 5, fa := r.fmt, fb := b.fmt, k := r.kh
        a := (List.range r.mh).map fun m => heldOpRow y r.fmt r.gsz (shapeBase r.shape r.asel + m) r.kh
        b := (List.range b.rows).map fun n => tileOpRow t c b r.kh n }
    x.pend = none → x.cont = none → x.heldRec = some r → ctlBits w 1 0 = r.shape → ctlBits w 3 2 = r.asel → r.shape ≠ 3 →
    mmaShapeOk r.shape r.asel r.fmt b.fmt r.mh b.rows r.kh b.cols = true → r.kh ≤ 64 → tileInScratch c b = true →
    (let s1 := demand s pb 32
     let t := tilesRead s1 c [b]
     Starts s c 0 0x40 ⟨0, 0, 31, 0, 0xFF, 0⟩ w → ctlBits w 7 6 = 2 → TileAt s c (xr x w.rs2).toNat pb b →
      TilesFree s1 c [b] [] [] (mmaAccs w) →
      exec (.mma c w) s = .next (retiredNext s (countInvalid (modCore t c (run t)) c (mtCount t c b r.kh)) c 0 0x40))
    ∧ (∀ (pa : Nat) (a : TileDesc),
      let s1 := demand s pa 32
      let s2 := demand s1 pb 32
      let t := tilesRead s2 c [a, b]
      Starts s c 0 0x40 ⟨0, 31, 31, 0, 0xFF, 0⟩ w → ctlBits w 7 6 = 3 →
      TileAt s c (xr x w.rs1).toNat pa a → TileAt s1 c (xr x w.rs2).toNat pb b →
      a.cols = r.kh → a.rows ≤ 1 → a.fmt = r.fmt → a.gsz = r.gsz → tileInScratch c a = true →
      TilesFree s2 c [a, b] [] [] (mmaAccs w) →
      exec (.mma c w) s = .next (retiredNext s (countInvalid (modCore t c fun y => run t (heldShift t c y a r)) c
        (mtCount t c a r.kh + mtCount t c b r.kh)) c 0 0x40)))

/-- 05_accumulation_and_quantisation.md, 08_core_programming.md: QUANT converts accumulator totals and VQUANT a tile's elements
into the destination tile from column DCOL on under the control word CTL, and updates the statistics that it names. -/
def Obligations.QuantisersComplete : Prop :=
  ∀ (s : State) (c : Fin 192) (w : CoreWord) (pd pt : Nat) (d t : TileDesc),
    let x := getCore s c
    let q := qctlOf w.ctl.toNat
    let a : StatsAt := ⟨immBits w 31 0, (xr x w.rs3).toNat⟩
    let dcol := immBits w 47 32
    let first := w.rs1.val % 8
    let nt := w.rs1.val / 8 + 1
    let per := if bit w.imm.toNat 48 then 16 else 64
    let nc := min 64 (d.cols - dcol)
    let reads := quantReads c q d q.sinit a
    q.gsz = 0 ∨ dcol % gszLen q.gsz = 0 →
    (let s1 := demand s pd 32
     let r := tilesRead s1 c []
     Starts s c 0 0x42 ⟨0, 31, 31, 31, 2 ^ 32 - 1, 2 ^ 49 - 1⟩ w → x.pend = none → x.cont = none →
      TileAt s c (xr x w.rs2).toNat pd d → q.fmt = d.fmt → q.gsz = d.gsz →
      qctlValid q true true d.fmt d.gsz = true → first / 4 = (first + nt - 1) / 4 → nt * per ≤ d.rows → 1 ≤ nc →
      statsOk c q d (nt * per) a = true → TilesFree s1 c [] [d] (quantAccs w) (statsRanges c q d (nt * per) a) →
      quantPoison r c q d q.sinit a = none →
      exec (.quant c w) s = .next (retiredNext s (quantRows (demandAll r reads) c q (rmOf x.fcsrV q.rm) d dcol a q.sinit
        ((List.range (nt * per)).map fun i => (List.range nc).map fun j =>
          let v := accGet x (first + i / per) (i % per) j
          if q.fmt = 0x14 then (totDecode v, v.toNat) else (fDecode fmt32 (totToF32 .rne v).1, v.toNat))).1 c 0 0x42))
    ∧ (let s1 := demand s pt 32
       let s2 := demand s1 pd 32
       let r := tilesRead s2 c [t]
       Starts s c 1 0x60 ⟨0, 31, 31, 31, 2 ^ 32 - 1, 2 ^ 48 - 1⟩ w → TileAt s c (xr x w.rs1).toNat pt t →
      TileAt s1 c (xr x w.rs2).toNat pd d → q.fmt = d.fmt → q.gsz = d.gsz →
      qctlValid q false false d.fmt d.gsz = true → t.fmt = 0x0F ∨ t.fmt = 0x01 ∨ t.fmt = 0x00 → tileLocal c t = true →
      tileLocal c d = true → t.rows ≤ d.rows → dcol + t.cols ≤ d.cols → q.fmt ≠ 0x14 → statsOk c q d t.rows a = true →
      TilesFree s2 c [t] [d] [] (statsRanges c q d t.rows a) → quantPoison r c q d q.sinit a = none →
      exec (.vquant c w) s = .next (retiredNext s (quantRows (demandAll r reads) c q (rmOf x.fcsrV q.rm) d dcol a q.sinit
        ((List.range t.rows).map fun m => (rowElems r c t m 0 t.cols).map fun e => (elemDecode t.fmt e, 0))).1 c 1 0x60))

/-- 08_core_programming.md, 05_accumulation_and_quantisation.md: ACCLD loads an accumulator from a 64 by 64 tile of FP32 or
ACC48. WAITD ends once every entry of its tag (of every tag with CTL[0]) has ended, gives the first failure among them or ST_OK,
and forgets them. DMA, while fewer than 32 entries live and the tracker has room, reads its chain of descriptors and queues the
entries of its parts. -/
def Obligations.AccumulatorLoadAndDmaInstructionsComplete : Prop :=
  (∀ (s : State) (c : Fin 192) (w : CoreWord),
    let x := getCore s c
    (∀ (p : Nat) (t : TileDesc),
      let r := tilesRead (demand s p 32) c [t]
      Starts s c 0 0x43 ⟨0, 31, 0, 0, 7, 0⟩ w → x.pend = none → x.cont = none →
      TileAt s c (xr x w.rs1).toNat p t → t.rows = 64 → t.cols = 64 → t.fmt = 0x0F ∨ t.fmt = 0x14 →
      TilesFree (demand s p 32) c [t] [] [] [accRng (ctlBits w 2 0)] →
      exec (.accld c w) s = .next (retiredNext s (modCore r c fun y => (List.range 64).foldl (fun y i =>
        let es := (rowElems r c t i 0 64).map fun e => if t.fmt = 0x0F then totOfF32 e else totOfAcc48 e
        { y with acc := smapSetRun 0 y.acc (accKey (ctlBits w 2 0) i 0) es }) y) c 0 0x43))
    ∧ (let hit := fun (t : Nat) => ctlBit w 0 || t == immBits w 15 0
       Issues s c 0x71 ⟨31, 0, 0, 0, 1, 0xFFFF⟩ w → (ownEnts x).all (fun e => !hit (dTag e.desc) || entEnded e) = true →
       exec (.waitd c w) s = .next (retiredNext s (modCore s c fun y =>
         setX { dropEnded y with dmaStat := y.dmaStat.filter fun r => !hit r.2.1 } w.rd
           (BitVec.ofNat 64 (match x.dmaStat.find? fun r => hit r.2.1 with | some r => r.2.2 % 256 | none => stOk))) c 2 0x71)))
  ∧ (∀ (s : State) (c : Fin 192) (w : CoreWord) (ds : List (BitVec 512)),
    let x := getCore s c
    let a := (xr x w.rs1).toNat
    let rs : List Rng := (chainAddrs 16 s c a).map fun a => ⟨devAt c a, 64⟩
    Issues s c 0x70 ⟨0, 31, 0, 0, 0, 0⟩ w → liveEnts x < 32 → blocked s c rs [] = false →
    readChain 16 s c a = .ok ds → ds.all (descOk c) = true →
    trackerFull c x ((chainReads c ds).length + (chainWrites c ds).length) = false →
    exec (.dma c w) s = .next (retiredNext s (queueChain (demandAll s rs) c none ds) c 3 0x70))

/-- 07_fused_chains.md, 06_guarded_narrow_arithmetic.md: CHAIN runs its program on the accumulators; with a guarded stage its
verdict opens and the guard's ordinal advances; where another verdict of its core is open and the rules allow it, it runs as the
continuation. -/
def Obligations.ChainCompletes : Prop :=
  ∀ (s : State) (c : Fin 192) (w : CoreWord) (p : ChainProg),
    let x := getCore s c
    let a := (xr x w.rs1).toNat
    let o := x.chainNext
    let mode : ChainMode := ⟨false, x.rebind, false⟩
    let rs := modeReadRngs c p mode ++ inoutRngs c p
    let ws := chainOutRngs c p ++ inoutRngs c p ++ chainAccs p
    let r := demandAll (demandAll s (issueRanges s c a)) (chainDemand c p mode)
    Starts s c 0 0x41 ⟨0, 31, 0, 0, 0, 0⟩ w → x.cont = none →
    flightBlocks c x o (issueRanges s c a) [] = false → provBlocks s (issueRanges s c a) [] = false →
    readChainProg s c a = .ok p → chainOk s c p = true → flightBlocks c x o rs ws = false → othersBlock s c rs ws = false →
    chainPoison s c p mode = none →
    (x.pend = none → guardIdx p = none →
      exec (.chain c w) s = .next (retiredNext s (runChain r c p mode) c 0 0x41))
    ∧ (∀ g, x.pend = none → guardIdx p = some g →
      exec (.chain c w) s =
        (let rec_ := (stageAt p.stages g).addr0
         let n := smapGet 0 x.guardSeq rec_
         .next (retiredNext s (modCore (runChain r c p mode) c fun y =>
           { y with guardSeq := smapSet 0 y.guardSeq rec_ (n + 1), pend := some (pendOf r c p mode n (pcOffset x) o), verdict := .open })
           c 0 0x41)))
    ∧ (∀ q, x.pend = some q → x.verdict = .open → mayContinue c p q = true →
      exec (.chain c w) s =
        (let rec_ := match guardIdx p with | some g => (stageAt p.stages g).addr0 | none => 0
         let n := smapGet 0 x.guardSeq rec_
         .next (retiredNext s (modCore (runChain r c p mode) c fun y =>
           { y with guardSeq := if (guardIdx p).isSome then smapSet 0 y.guardSeq rec_ (n + 1) else y.guardSeq
                    cont := some (pendOf r c p mode n (pcOffset x) o) })
           c 0 0x41)))

/-! ### Commands -/

/-- 14_command_interface.md, 18_bring_up_reset_recovery.md: A command that no guard trip marks and that is no part of another is
finished with the status and DETAIL that its deadline leaves, at that instant. A finished command is answered when its turn in
its completion queue has come and there is room, one refused by permission not before 20 us after its fetch. At its timeout a
FLAG_WAIT, and a command for another device, end with their target named and change nothing else, a decided atomic command with
its decision, its set's stamps taken, an undecided one is aborted, another's work is fenced. -/
def Obligations.CommandsFinishAndAreAnswered : Prop :=
  (∀ (s : State) (id st d : Nat) (c : CmdRec),
    findCmd s id = some c → c.phase ≠ .finished → c.phase ≠ .refused → (∀ p i, c.origin ≠ .sub p i) → c.tripRecs = [] →
    finishCmd s id st d = updCmd s id fun k =>
      { k with phase := .finished, status := (finalStatus s c st d).1, detail := (finalStatus s c st d).2, finishedAt := now s })
  ∧ (∀ (s : State) (id : Nat) (c : CmdRec), findCmd s id = some c → cqTurn s c = true → cqOpen s c = true →
    (c.phase = .finished → exec (.completionWrite id) s = .next (answerCmd { s with cmd := { s.cmd with
      decisions := s.cmd.decisions.filter fun d => d.1 ≠ id || c.status = stTimeout } } c))
    ∧ (c.phase = .refused → c.fetchedAt + 20000 ≤ now s → exec (.permissionRefusalReply id) s = .next (answerCmd s c)))
  ∧ (∀ (s : State) (id : Nat) (c : CmdRec), findCmd s id = some c → c.phase ≠ .finished → c.phase ≠ .refused → c.hung = none →
    graphNode s c = false → c.acceptedAt + cmdTimeout c.hdr c.acceptedAt ≤ now s →
    (hOpcode c.hdr = 0x0305 → c.fan = [] → exec (.commandTimeout id) s = .next (finishCmd s id stTimeout (memberUid c.target)))
    ∧ (hOpcode c.hdr ≠ 0x0305 →
      (c.phase = .forwarded ∨ c.phase = .held → exec (.commandTimeout id) s = .next (finishCmd s id stTimeout (memberUid c.target)))
      ∧ (∀ b, c.phase ≠ .forwarded → c.phase ≠ .held → c.decided = some b →
        exec (.commandTimeout id) s = .next (finishCmd (stampSet s c) id stTimeout (2 ^ 31 + (if b then 2 ^ 30 else 0))))
      ∧ (c.phase ≠ .forwarded → c.phase ≠ .held → c.decided = none → leading c = true →
        exec (.commandTimeout id) s = .next (abortAtomic s c))
      ∧ (∀ d, c.phase ≠ .forwarded → c.phase ≠ .held → c.decided = none → leading c = false → findCmd (timeoutFar s id) id = some d →
        d.phase ≠ .finished → exec (.commandTimeout id) s = .next (fenceWork (timeoutFar s id) d))))

/-- 01_architecture.md, 14_command_interface.md: Each opcode that may name a group and is neither atomic nor a launch, where its
command may start, goes out to the group's expansion, each member with a part of its own. -/
def Obligations.GroupCommandsGoToTheExpansion : Prop :=
  ∀ (s : State) (id g : Nat) (c : CmdRec),
    let out := Host.Outcome.next (fanCmd (markStarted s id) (begun s c) g)
    (StartableGroup s id 0x0103 c g → (paramNat c.params).testBit 511 = true → exec (.mgmtOutOfServiceTake id) s = out)
    ∧ (StartableGroup s id 0x0103 c g → (paramNat c.params).testBit 511 = false → exec (.mgmtOutOfServiceRestore id) s = out)
    ∧ (StartableGroup s id 0x0104 c g → s.cmd.prepared = [] → exec (.mgmtReset id) s = out)
    ∧ (StartableGroup s id 0x0120 c g → exec (.memTest id) s = out)
    ∧ (StartableGroup s id 0x0302 c g → exec (.dmaCopy id) s = out)
    ∧ (StartableGroup s id 0x0501 c g → exec (.seqConfig id) s = out)
    ∧ (StartableGroup s id 0x0502 c g → exec (.seqCreate id) s = out)
    ∧ (StartableGroup s id 0x0503 c g → exec (.seqDestroy id) s = out)
    ∧ (StartableGroup s id 0x0506 c g → exec (.seqDraft id) s = out)
    ∧ (StartableGroup s id 0x0509 c g → exec (.seqSuspend id) s = out)
    ∧ (StartableGroup s id 0x050A c g → exec (.seqResume id) s = out)
    ∧ (StartableGroup s id 0x050B c g → exec (.seqEvict id) s = out)
    ∧ (StartableGroup s id 0x050C c g → exec (.prefixPublish id) s = out)
    ∧ (StartableGroup s id 0x0704 c g → exec (.traceCtl id) s = out)

/-- 14_command_interface.md, 18_bring_up_reset_recovery.md, 19_power_and_thermal.md, 15_onaux_fabric.md: MGMT_SET_LIMITS takes the
fields it gives, those of the next lease apart while one is open; MGMT_SET_PROFILE sets a die's profile, completes once no fall of
its voltage is left, and answers ST_NOT_READY while another command's change of the die runs (its acceptance, which sets the
profile first, is not part of this); MGMT_SET_IDENTITY replaces the identity and counts a new epoch for every unit; MGMT_FIRMWARE
keeps an image whose signature and version pass for the next boot and refuses another. Taking a unit out of service, once no undecided
change holds it, ends the work on it and takes it and what it contains out; a restore starts it again; a reset answers the commands of its domain and begins, or
joins one that covers it. -/
def Obligations.ManagementCommandsComplete : Prop :=
  (∀ (s : State) (id : Nat) (c : CmdRec) (u : Sys2Proof.PUnit),
    let p := paramNat c.params
    let t := markStarted s id
    let ds := match u with | .die d => [d.val] | _ => [0, 1]
    let v := bits p 511 510
    let falls := ds.filter fun d => profileTarget s d v < (dieOf s d).vcore
    let set := ds.foldl (fun s d =>
      setDie (setProfile s d v) d { dieOf (setProfile s d v) d with changing := if falls.contains d then some id else none }) t
    let other := fun (d : Nat) => (dieOf s d).changing.isSome = true ∧ (dieOf s d).changing ≠ some id
    (Startable s id 0x0101 c u →
      exec (.mgmtSetLimits id) s =
        (let n := mergeLimits s.limits p
         let kept := { n with profok := n.nextProfok, defprof := n.nextDefprof }
         .next (finishCmd { t with limits := if s.lease.openL then n else kept, sec := { s.sec with flashLimits := kept } } id stOk 0)))
    ∧ (Startable s id 0x0102 c u → (∀ d ∈ ds, ¬other d) → falls = [] → exec (.mgmtSetProfile id) s = .next (finishCmd set id stOk 0))
    ∧ (Startable s id 0x0102 c u → (∀ d ∈ ds, ¬other d) → falls ≠ [] → exec (.mgmtSetProfile id) s = .next set)
    ∧ (∀ d rest, Startable s id 0x0102 c u → ds = d :: rest → other d →
      exec (.mgmtSetProfile id) s = .next (finishCmd t id stNotReady (uidOf (.die (fin 2 d)))))
    ∧ (Startable s id 0x0105 c u → checkSetIdentity t c.params = [] →
      exec (.mgmtSetIdentity id) s =
        (let r := c.params.headD 0
         .next (finishCmd (bumpUnits { t with
           fab := { s.fab with ident := r }, sec := { s.sec with flashIdent := r }
           tb := if r.toNat.testBit 495 = s.tb.root then s.tb
             else { s.tb with root := r.toNat.testBit 495, serving := false, probe := none } }
           false 1 allUnits []) id stOk 0)))
    ∧ (Startable s id 0x0106 c u →
      exec (.mgmtFirmware id) s = .next (if checkFirmware t c.params ≠ [] then finishCmd t id stBadParam (badDetail [])
        else finishCmd { t with sec := { s.sec with
        fwNext := some (Config.sha384 (paramBytes c.params), Config.firmwareVersion (paramBytes c.params)) } } id stOk 0)))
  ∧ (∀ (s : State) (id : Nat) (c : CmdRec) (u : Sys2Proof.PUnit),
    let t := markStarted s id
    let root := match u with | .seqEngine d => .die d | u => u
    let back := backInService t u
    (Startable s id 0x0103 c u → (paramNat c.params).testBit 511 = true → takeHeld s u = false →
      exec (.mgmtOutOfServiceTake id) s = .next (finishCmd (takeOut (fenceOut t u [id]) u) id stOk 0))
    ∧ (Startable s id 0x0103 c u → (paramNat c.params).testBit 511 = false → (getUnit s u).own ≠ .outOfService →
      exec (.mgmtOutOfServiceRestore id) s = .next (finishCmd t id stOk 0))
    ∧ (Startable s id 0x0103 c u → (paramNat c.params).testBit 511 = false → (getUnit s u).own = .outOfService → u ≠ .device →
      exec (.mgmtOutOfServiceRestore id) s =
        (let r := modUnit back u fun r => { r with own := .notReady, cause := 4, startAt := now back }
         let r := match u with
           | .port p => { r with ports := r.ports.set p { r.ports[p] with phase := .down } }
           | .channel n => { r with channels := r.channels.set n { r.channels[n] with
               train := BitVec.ofNat 64 (bits (r.channels[n]).train.toNat 60 0) } }
           | _ => r
         .next (finishCmd (tellState (checkAllReady r 4 (now r)) u) id stOk 0)))
    ∧ (u = .device → Startable s id 0x0103 c u → (paramNat c.params).testBit 511 = false → (getUnit s u).own = .outOfService →
      exec (.mgmtOutOfServiceRestore id) s =
        .next (finishCmd (beginReset (setOwn (answerDomain back .device stFenced [id]) .device .ready) .device 4 [] (now back)) id stOk 0))
    ∧ (Startable s id 0x0104 c u → s.cmd.prepared = [] → largerAct t root = none →
      exec (.mgmtReset id) s = .next (beginReset (answerDomain t root stFenced [id]) root 2 [id] (now (answerDomain t root stFenced [id]))))
    ∧ (∀ a, Startable s id 0x0104 c u → s.cmd.prepared = [] → largerAct t root = some a →
      exec (.mgmtReset id) s = .next { t with rst := { s.rst with acts := s.rst.acts.map fun b =>
        if b.root = a.root then { b with cmds := b.cmds ++ [id] } else b } }))

/-- 14_command_interface.md, 17_security_and_leasing.md: QP_CREATE puts a pair of its role at a free number. QP_DELETE, accepted,
stops its pair's fetching; it deletes the pair once its commands are answered, and completes where the pair is gone. LEASE_OPEN on the device
commits a lease of a new identifier and answers with it, LEASE_CLOSE starts the closing; over a group each leads an atomic
command. -/
def Obligations.QueuePairAndLeaseCommandsComplete : Prop :=
  (∀ (s : State) (id : Nat) (c : CmdRec) (u : Sys2Proof.PUnit),
    let p := paramNat c.params
    let n := bits p 511 504
    let t := markStarted s id
    (Startable s id 0x0110 c u → getQp s n = none →
      exec (.qpCreate id) s = .next (finishCmd
        (setQp t n (some (pairOf p (if c.role = .tenant then Role.tenant else .operator)))) id stOk 0))
    ∧ (∀ q, hOpcode c.hdr = 0x0111 → ¬(hAbandon c.hdr = true ∧ hDeadline c.hdr ≤ now s) → getQp s n = some q →
      onAccepted s c = setQp s n (some { q with deleting := q.deleting ++ [c.id] }))
    ∧ (∀ q, q.deleting ≠ [] → nextCmdOf q = none)
    ∧ (∀ q, Startable s id 0x0111 c u → getQp s n = some q → exec (.qpDelete id) s = .next (keepPair (tryDeletePair t n) id))
    ∧ (Startable s id 0x0111 c u → getQp s n = none → exec (.qpDelete id) s = .next (keepPair (finishCmd t id stOk 0) id)))
  ∧ (∀ (s : State) (id : Nat) (c : CmdRec),
    let t := markStarted s id
    let d := begun s c
    (∀ u, Startable s id 0x0201 c u → blockedObj t d = false → (prepOpen t c.params).status = stOk →
      exec (.leaseOpen id) s =
        (let r := drawRandom t
         .next (finishCmd (commitLeaseOpen r.2 c.params (leaseIdOf r.1)) c.id stOk (leaseIdOf r.1))))
    ∧ (∀ u, Startable s id 0x0202 c u → blockedObj t d = false → s.lease.closing = none →
      exec (.leaseClose id) s = .next (commitLeaseClose t c.id (c.role = .tenant) (closeVerify c.params)))
    ∧ (∀ g, StartableGroup s id 0x0201 c g → exec (.leaseOpen id) s = .next (leadAtomic t d g))
    ∧ (∀ g, StartableGroup s id 0x0202 c g → exec (.leaseClose id) s = .next (leadAtomic t d g)))

/-- 14_command_interface.md, 13_address_translation.md: MEM_MAP, accepted, puts its records in place and fails the unstarted
entries of a PASID that they take away; it completes once no entry that lives uses what they replaced. DMA_COPY queues its
descriptors on an engine, FLAG_SET stores a flag, FLAG_ADD adds to it and gives the low half of its old value, FLAG_WAIT ends once
its comparison holds, at its start or later. -/
def Obligations.MemoryAndFlagCommandsComplete : Prop :=
  ∀ (s : State) (id : Nat) (c : CmdRec) (u : Sys2Proof.PUnit),
    let t := markStarted s id
    let d := begun s c
    let a := fcAddr c.params
    let v := fcValue c.params
    let r := touchAddr t a
    let ends := fun (s : State) => (s.cmd.inflight.filter fun k => hOpcode k.hdr = 0x0301 && k.phase = .started && !mapHeld s k.aux).foldl
      (fun s k => finishCmd s k.id stOk 0) s
    (hOpcode c.hdr = 0x0301 → ¬(hAbandon c.hdr = true ∧ hDeadline c.hdr ≤ now s) →
      onAccepted s c =
        (let r := if orderMet s c then markStarted s c.id else s
         let x := (mapRecs c.params).foldl (fun (a : List Nat × State) r => (a.1 ++ mapWaits a.2 r, putMapRec a.2 r)) ([], r)
         let gone := (gonePasids x.1).filter fun p => (pasidRec x.2 p).isNone
         failEnts (updCmd x.2 c.id fun k => { k with aux := x.1 })
           (fun e => unstarted e && dHost e.desc && gone.contains (dPasid e.desc)) stXlateFault))
    ∧ (Startable s id 0x0301 c u → exec (.memMap id) s = .next (ends t))
    ∧ (findCmd s id = some c → hOpcode c.hdr = 0x0301 → c.phase = .started → exec (.memMap id) s = .next (ends s))
    ∧ (∀ k e, Startable s id 0x0302 c (.engine k e) → (vget s.doze .init k.val).off = false → checkDmaCopy k c.params = [] →
      exec (.dmaCopy id) s = .next (queueChain t k (some id) c.params))
    ∧ (Startable s id 0x0303 c u → flagFree s c = true → checkFlag 0x0303 (.unit u) c.params = [] →
      exec (.flagSet id) s = .next (finishCmd (writeNat r a 8 v) c.id stOk 0))
    ∧ (Startable s id 0x0304 c u → flagFree s c = true → checkFlag 0x0304 (.unit u) c.params = [] → anyPoison r a 8 = false →
      exec (.flagAdd id) s = .next (finishCmd (writeNat (demand r a 8) a 8 ((readNat r a 8 + v) % 2 ^ 64)) c.id stOk (readNat r a 8 % 2 ^ 32)))
    ∧ (Startable s id 0x0305 c u → checkFlag 0x0305 (.unit u) c.params = [] → flagFree t d = true → anyPoison t a 8 = false →
      flagCond (fcCond c.params) (readNat t a 8) v = true →
      exec (.flagWait id) s = .next (finishCmd t c.id stOk 0))
    ∧ (findCmd s id = some c → hOpcode c.hdr = 0x0305 → c.phase = .started → c.target = .unit u →
      checkFlag 0x0305 (.unit u) c.params = [] → flagFree s c = true → anyPoison s a 8 = false →
      flagCond (fcCond c.params) (readNat s a 8) v = true →
      exec (.flagWait id) s = .next (finishCmd s c.id stOk 0))

/-- 14_command_interface.md, 08_core_programming.md: KERNEL_LAUNCH starts the cores of its target, or of its group, once each is
idle; GRAPH_RUN drives its graph of commands to where they wait, at its start and whenever it is run again. -/
def Obligations.LaunchCommandsComplete : Prop :=
  ∀ (s : State) (id : Nat) (c : CmdRec),
    let t := markStarted s id
    let d := begun s c
    let x := graphOfBlocks c.params
    (∀ u, Startable s id 0x0401 c u → launchFree s c (coresFor s c) = true → checkLaunch c.params = [] → holdsCores u = true →
      coresFor t d ≠ [] → exec (.kernelLaunch id) s = .next (startCores t d (coresFor t d)))
    ∧ (∀ g, StartableGroup s id 0x0401 c g → launchFree s c (coresFor s c) = true →
      exec (.kernelLaunch id) s = .next (startGroupLaunch t d g))
    ∧ (∀ u, Startable s id 0x0402 c u → graphOk t x = true →
      exec (.graphRun id) s = .next (driveGraph (updCmd t id fun k => { k with graph := some (startGraph t x.2) }) id))
    ∧ (findCmd s id = some c → hOpcode c.hdr = 0x0402 → c.phase = .started → c.graph.isSome = true →
      exec (.graphRun id) s = .next (driveGraph s id))

/-- 11_sequence_engine.md, 14_command_interface.md: Where the sequence engine is configured and it is the command's turn, each
sequence command whose effect succeeds leaves the state it gives and ends ST_OK; SEQ_PREFILL, SEQ_COMMIT and SEQ_RETRACT to a
set lead an atomic command; SEQ_STEP on the lead device plans its step from its own contexts or, with a mirror, from the host's
plan in device or host memory. -/
def Obligations.SequenceCommandsComplete : Prop :=
  (∀ (s r : State) (id : Nat) (c : CmdRec) (u : Sys2Proof.PUnit) (g : BitVec 256) (f : BitVec 1024),
    let t := markStarted s id
    let d := begun s c
    let ctx := hCtx c.hdr
    let out := Host.Outcome.next (finishCmd r id stOk 0)
    (Startable s id 0x0501 c u → configSeq t c.params = (stOk, r) → exec (.seqConfig id) s = out)
    ∧ (s.seq.geom = some g → s.seq.cfg = some f → seqTurn s c (ctx :: (createSrc c.params).toList) false = true →
      Startable s id 0x0502 c u → createCtx t d g f = (stOk, r) → exec (.seqCreate id) s = out)
    ∧ (s.seq.geom = some g → s.seq.cfg = some f → seqTurn s c [ctx] false = true →
      (Startable s id 0x0503 c u → destroyCtx t ctx g = (stOk, r) → exec (.seqDestroy id) s = out)
      ∧ (Startable s id 0x0504 c u → prefillCtx t d g f = (stOk, r) → exec (.seqPrefill id) s = out)
      ∧ (Startable s id 0x0506 c u → draftCtx t d g = (stOk, r) → exec (.seqDraft id) s = out)
      ∧ (Startable s id 0x0507 c u → commitCtx t d g f = (stOk, r) → exec (.seqCommit id) s = out)
      ∧ (Startable s id 0x0508 c u → commitCtx t d g f = (stOk, r) → exec (.seqRetract id) s = out)
      ∧ (Startable s id 0x0509 c u → suspendCtx t ctx g = (stOk, r) → exec (.seqSuspend id) s = out)
      ∧ (Startable s id 0x050A c u → resumeCtx t ctx g f = (stOk, r) → exec (.seqResume id) s = out)
      ∧ (Startable s id 0x050B c u → evictCtx t ctx g = (stOk, r) → exec (.seqEvict id) s = out)
      ∧ (∀ x n, Startable s id 0x050C c u → getCtx s ctx = some x → admitted x = true ∨ x.state = csSuspended →
        publishFrom (pubCount c.params) t g f ctx 0 0 none = (n, false, r) → exec (.prefixPublish id) s = out)))
  ∧ (∀ (s : State) (id g : Nat) (c : CmdRec),
    let out := Host.Outcome.next (leadAtomic (markStarted s id) (begun s c) g)
    seqTurn s c [hCtx c.hdr] false = true →
    (StartableGroup s id 0x0504 c g → exec (.seqPrefill id) s = out)
    ∧ (StartableGroup s id 0x0507 c g → exec (.seqCommit id) s = out)
    ∧ (StartableGroup s id 0x0508 c g → exec (.seqRetract id) s = out))
  ∧ (∀ (s : State) (id : Nat) (h : HostData) (c : CmdRec) (u : Sys2Proof.PUnit) (g : BitVec 256) (f : BitVec 1024),
    let t := markStarted s id
    let d := begun s c
    let a := spPlan c.params
    let n := bits (readNat t a 64) 447 432
    Startable s id 0x0505 c u → seqTurn s c [] true = true → s.seq.geom = some g → s.seq.cfg = some f →
    isLead t f = true → checkSeqStep t c.params = [] →
    (cMirror f = false → exec (.seqStep id h) s = .next (planStep t d g f))
    ∧ (cMirror f = true → spPlandev c.params = true → devRangeOk a (64 + 16 * n) = true → kvProtected t a (64 + 16 * n) = false →
      anyPoison t a (64 + 16 * n) = false →
      exec (.seqStep id h) s = .next (hostStep (demand t a (64 + 16 * n)) d g f (wordsOf (readBytes t a (64 + 16 * n)))))
    ∧ (cMirror f = true → spPlandev c.params = false → h.err = false →
      exec (.seqStep id h) s = .next (hostStep t d g f (wordsOf h.bytes))))

/-- 15_onaux_fabric.md: FAB_ROUTE_SET writes its port sets and sends what waited for a port; a collective starts its instance
once what came before it in order has ended; arming fills a trigger slot and disarming empties it. A port is enabled, disabled,
retrained or put into loopback as its phase allows; in a lease loopback is refused. -/
def Obligations.FabricAndPortCommandsComplete : Prop :=
  (∀ (s : State) (id : Nat) (c : CmdRec) (u : Sys2Proof.PUnit),
    let t := markStarted s id
    let d := c.params.headD 0
    (Startable s id 0x0601 c u → checkRouteSet t c.params = [] →
      exec (.fabRouteSet id) s =
        (let sets := (List.range (rtCount c.params)).map fun i => BitVec.ofNat 32 (rtSet c.params i)
         .next (flushHeld (finishCmd (setFab t { s.fab with
           routes := smapSetRun 0 s.fab.routes (rtFirst c.params) sets }) id stOk 0))))
    ∧ (Startable s id 0x0602 c u → checkCollective t c.params = [] →
      (coArm d = false → earlierOrdered s c = true → exec (.fabCollective id) s = .next (startInst t d (some c.id) none))
      ∧ (coArm d = true → coOp d ≠ 0 →
        exec (.collectiveArm id) s = .next (finishCmd (setFab t { s.fab with
          slots := smapSet none s.fab.slots (coSlot d) (some (d, 0)) }) c.id stOk 0))
      ∧ (coArm d = true → coOp d = 0 → (s.fab.insts.any fun i => i.slot = some (coSlot d)) = false →
        exec (.collectiveDisarm id) s = .next (finishCmd (setFab t { s.fab with
          slots := smapSet none s.fab.slots (coSlot d) none }) c.id stOk 0))))
  ∧ (∀ (s : State) (id : Nat) (c : CmdRec) (p : Fin 32),
    let t := markStarted s id
    let ph := (s.ports[p]).phase
    Startable s id 0x0603 c (.port p) →
    (pcAction c.params = 1 →
      exec (.portEnable id) s = .next (finishCmd (if ph = .disabled then bumpUnits (movePort t p .down 4) false 3 [.port p] []
        else if ph = .loopback then movePort t p .down 4 else t) c.id stOk 0))
    ∧ (pcAction c.params = 2 →
      exec (.portDisable id) s = .next (finishCmd (if ph = .disabled then t
        else bumpUnits (movePort (modPort t p fun x => { x with lost := false }) p .disabled 0) false 3 [.port p] []) c.id stOk 0))
    ∧ (pcAction c.params = 3 →
      exec (.portRetrain id) s = .next (finishCmd (if portUp s p || ph = .training then retrainPort t p 2 else t) c.id stOk 0))
    ∧ (pcAction c.params = 4 → s.lease.openL = false →
      exec (.portLoopback id) s = .next (finishCmd (if ph = .disabled then t else movePort t p .loopback 2) c.id stOk 0))
    ∧ (pcAction c.params = 4 → s.lease.openL = true → exec (.portLoopback id) s = .next (refuseCmd t (begun s c) 2)))

/-- 20_debug_and_telemetry.md, 17_security_and_leasing.md: TELEM_READ writes its telemetry, DUMP_COLLECT one dump, TRACE_CTL
sets a cluster's trace, AUDIT_READ writes a range of the audit ring, signed where it is asked, and each answers ST_OK. -/
def Obligations.ObservabilityCommandsComplete : Prop :=
  ∀ (s : State) (id : Nat) (c : CmdRec),
    let p := paramNat c.params
    let t := markStarted s id
    let d := begun s c
    (∀ u, Startable s id 0x0701 c u → checkTelemRead c.params false [u] [] = [] →
      exec (.telemRead id) s = .next (finishCmd (telemRun t d [u]).2 id stOk (telemRun t d [u]).1))
    ∧ (∀ u x, Startable s id 0x0702 c u → findDump t u p = some x → 64 + x.body.length + 16 ≤ bits p 319 288 →
      exec (.dumpCollect id) s =
        (let r := hostWriteCmd t d (bits p 383 320) (dumpBytes t x)
         let ds := if bit p 479 then r.dumps.filter (· ≠ x)
           else r.dumps.map fun e => if e = x then { e with collected := true } else e
         .next (finishCmd { r with dumps := ds } id stOk (dumpOut x))))
    ∧ (∀ k, Startable s id 0x0704 c (.cluster k) →
      exec (.traceCtl id) s =
        (let x := s.clusters[k]
         let y := if bit p 485 then { x with trace := [], traceLost := 0 } else x
         let y := { y with traceCtl := BitVec.ofNat 32 (bits p 511 504 * 2 ^ 18 + bits p 503 488 * 2 ^ 2 + bits p 487 486) }
         let y := if bit p 487 && !x.traceCtl.toNat.testBit 1 then traceSync (now t) y else y
         .next (finishCmd { t with clusters := t.clusters.set k y } id stOk 0)))
    ∧ (∀ u, Startable s id 0x0705 c u → checkAuditRead c.params = [] → arSign p = false →
      exec (.auditRead id) s =
        (let es := auditRange t c.role (arFirst p) (arCount p)
         let r := hostWriteCmd t d (bits p 383 320) (es.flatMap fun e => leBytes 128 e.toNat)
         .next (finishCmd (if arArchive p then archiveRange r es else r) id stOk es.length)))
    ∧ (∀ u, Startable s id 0x0705 c u → checkAuditRead c.params = [] → arSign p = true → auditRoom t 1 = true →
      exec (.auditRead id) s =
        (let t := auditCheckpoint t
         let es := auditRange t c.role (arFirst p) (arCount p)
         let x := checkpointRecord t
         let r := hostWriteCmd x.2 d (bits p 383 320) ((es.flatMap fun e => leBytes 128 e.toNat) ++ x.1)
         .next (finishCmd (if arArchive p then archiveRange r es else r) id stOk es.length)))

/-- 20_debug_and_telemetry.md, 01_architecture.md, 14_command_interface.md: STOP_GLOBAL ARM holds a token until its time while
no lease is open, the device is scrubbed and the maker has not barred it (at the effect: the model's reading, log entry 102);
FIRE with the armed token stops the device, and forwards the stop where it is asked; DISARM drops the arming. GROUP_DEFINE puts
a group of local members in place and answers with its vector size, or leads an atomic command where it reaches a remote member;
GROUP_DISSOLVE removes a group that no other holds and no undecided definition names. -/
def Obligations.GlobalStopAndGroupCommandsComplete : Prop :=
  (∀ (s : State) (id : Nat) (c : CmdRec) (u : Sys2Proof.PUnit),
    let p := paramNat c.params
    let t := markStarted s id
    Startable s id 0x0703 c u →
    (sgMode p = 1 → starOpen t = true → exec (.stopGlobalArm id) s
      = .next (finishCmd { t with stopArm := some (sgToken p, c.acceptedAt + bits p 479 464 * 1000000000) } id stOk 0))
    ∧ (sgMode p = 2 → starOpen t = true → armed t (sgToken p) = true → exec (.stopGlobalFire id) s
      = .next (finishCmd (stopDevice (if bit p 509 then sbSend t (sbFrame 2 0 0 (leBytes 2 (sgToken p))) else t)) id stOk 0))
    ∧ (sgMode p = 3 → exec (.stopGlobalDisarm id) s = .next (finishCmd { t with stopArm := none } id stOk 0)))
  ∧ (∀ (s : State) (id : Nat) (c : CmdRec),
    let t := markStarted s id
    let d := begun s c
    let ms := parsedMembers t (paramNat c.params)
    let far := (reachOf t ms).any fun m => match m with | .remote _ => true | _ => false
    (∀ u, Startable s id 0x0801 c u → checkGroupDefine t c.params = [] → blockedObj t d = false →
      (far = false → exec (.groupDefine id) s = .next (finishCmd (commitGroupDefine t c.params) id stOk (newVecSize t ms)))
      ∧ (far = true → exec (.groupDefine id) s = .next (leadDefine t d ms)))
    ∧ (∀ g, StartableGroup s id 0x0802 c g → askedGroup s g = false → parentGroups t g = [] →
      exec (.groupDissolve id) s = .next (finishCmd (dissolveGroup t g) id stOk 0)))

/-! ### Events -/

/-- 18_bring_up_reset_recovery.md, 12_memory_system.md: A unit that is not ready becomes ready once what it depends on is; a
channel's training makes it ready, ends its reset or takes it out of service. A hang's drain ends in a dump, a report and a reset;
a reset's end makes its domain ready, a die's once its pace record stands, the host interface's once its link is up; a reset that
overruns goes to the next larger domain, the device's takes it out of service. A channel lost goes out of service with its damage
taken in; a bridge fault fences both dies, once no undecided change of a member holds them. MEM_TEST takes its channel, and the
test's end clears what it tested and answers, with ST_XLATE_FAULT where the host refuses its result (when it does is the model's
free value, log entry 122). -/
def Obligations.UnitAndResetEventsComplete : Prop :=
  (∀ (s : State), s.rst.porAt.isSome = true →
    (∀ u, (getUnit s u).own = .notReady → dependsMet s u = true →
      exec (.unitReady u) s = .next (becomeReady
        (if u = .hostIf then { s with host := { s.host with ready := true } } else s) u))
    ∧ (∀ (n : Fin 256) (rec : BitVec 64), isReady (getUnit s (.mgmt 0)).own = true →
      (getUnit s (.channel n)).own = .notReady ∨ (getUnit s (.channel n)).own = .resetting →
      (bits rec.toNat 63 61 = 1 ∨ bits rec.toNat 63 61 = 2 →
        (findAct s (.channel n) = none → exec (.hbmChannelTrained n rec) s = .next (becomeReady (trainChannel s n rec) (.channel n)))
        ∧ (∀ a, findAct s (.channel n) = some a → exec (.hbmChannelTrained n rec) s = .next (endReset (trainChannel s n rec) a)))
      ∧ (bits rec.toNat 63 61 ≠ 1 → bits rec.toNat 63 61 ≠ 2 → findAct s (.channel n) = none →
        exec (.hbmChannelTrained n rec) s =
          (let r := { s with channels := s.channels.set n { s.channels[n] with train := failedRecord s.channels[n] rec } }
           let r := bumpUnits (setOwn (dropAct r (.channel n)) (.channel n) .outOfService) false 3 [.channel n] []
           .next (checkAllReady (checkScrubbed r) 0 (getUnit r (.channel n)).startAt)))
      ∧ (∀ a, bits rec.toNat 63 61 ≠ 1 → bits rec.toNat 63 61 ≠ 2 → findAct s (.channel n) = some a →
        exec (.hbmChannelTrained n rec) s =
          (let r := { s with channels := s.channels.set n { s.channels[n] with train := failedRecord s.channels[n] rec } }
           let r := bumpUnits (setOwn (dropAct r (.channel n)) (.channel n) .outOfService) false 3 [.channel n] []
           let r := a.cmds.foldl (fun s id => finishCmd s id stOutOfService (uidOf (.channel n))) r
           .next (checkAllReady (checkScrubbed r) 0 (getUnit r (.channel n)).startAt)))))
  ∧ (∀ (s : State) (root : Sys2Proof.PUnit) (a : DomAct), findAct s root = some a →
    (∀ t, a.phase = .draining t → t ≤ now s → fenceHeld s root = false → (endsDevice s root = true → fenceHeld s .device = false) →
      exec (.hangDrainEnd root) s =
        (let hung := s.cmd.inflight.filter fun c => c.hung = some root && c.phase ≠ .finished
         let r := (hung.map (·.id)).foldl (fun s id => finishCmd s id stTimeout (uidOf root)) (answerDomain s root stTimeout [])
         let x := captureDump r root
         let info := match s.cmd.inflight.find? fun c => c.hung = some root && c.phase ≠ .finished with
           | some c => hTag c.hdr + (match cmdQp x.2 c with | some q => q | none => 0) * 2 ^ 16
           | none => 0
         let r := faultReport x.2 (concentratorOf root) (fuidOf x.2 (uidOf root)) (getUnit x.2 root).epoch 0x0002 0
           (uidOf root) x.1 0 info
         .next (escalate (beginReset r root a.cause a.cmds a.startAt) root)))
    ∧ (∀ t b, a.phase = .resetting t b → root ≠ .hostIf → (∀ n, root ≠ .channel n) → awaitsPace s root = false →
      exec (.resetEnd root) s = .next (endReset s a))
    ∧ (∀ t b, a.phase = .resetting t b → root = .hostIf → s.host.linkUp = true → s.host.perst = false →
      exec (.resetEnd root) s = .next (endReset { s with host := { s.host with ready := true } } a))
    ∧ (∀ t b, a.phase = .resetting t b → root = .hostIf → s.host.linkUp = false ∨ s.host.perst = true → b ≤ now s → a.cmds = [] →
      exec (.resetEnd root) s = .next (tellState (setOwn (dropAct s .hostIf) .hostIf .notReady) .hostIf))
    ∧ (∀ t b r, a.phase = .resetting t b → t + 4 * resetTime root ≤ now s → nextDomain root = some r → fenceHeld s r = false →
      (endsDevice s r = true → fenceHeld s .device = false) →
      exec (.resetFaultEscalate root) s =
        (let x := captureDump (faultUnit s root 0x0010 0 (uidOf root) 0 (uidOf root)) r
         .next (escalate (beginReset (answerDomain x.2 r stFenced a.cmds) r 3 a.cmds a.startAt) r)))
    ∧ (∀ t b, a.phase = .resetting t b → t + 4 * resetTime root ≤ now s → root = .device → fenceHeld s .device = false →
      exec (.resetFaultEscalate root) s =
        (let r := fenceOut (answerDomain s .device stFenced a.cmds) .device a.cmds
         .next (endResetCmds (auditEscalation (takeOut (dropAct r .device) .device) .device) .device a.cmds true))))
  ∧ (∀ (s : State),
    (∀ n : Fin 256, isReady (getUnit s (.channel n)).own = true →
      exec (.channelLost n) s =
        (let r := setOwn (fenceOut s (.channel n) []) (.channel n) .outOfService
         let r := { r with channels := r.channels.set n { r.channels[n] with lost := true } }
         let r := bumpUnits r false 3 [.channel n] []
         let r := unitEvent r 0x000B (uidOf (.channel n)) (epochOf r (.channel n)) 0 1 0
         .next (checkAllReady (channelDamage r n) 0 (now r))))
    ∧ (let r := emit (faultUnit { s with rst := { s.rst with bridge := true } } .device 0x0008 0 (uidOf .device) 0 0) (.pin "FAULT_N" false)
      s.rst.porAt.isSome = true → s.rst.bridge = false →
      (fenceHeld r (.die 0) = true ∨ fenceHeld r (.die 1) = true →
        exec .bridgeFault s = .next { r with rst := { r.rst with bridgeDue := true } })
      ∧ (fenceHeld r (.die 0) = false → fenceHeld r (.die 1) = false → exec .bridgeFault s =
        (let r := { r with rst := { r.rst with bridgeDue := false } }
         let r := answerDomain (answerDomain r (.die 0) stFenced []) (.die 1) stFenced []
         let r := endDieActs (endDieActs r 0) 1
         let r := setOwn (setOwn r (.die 0) .fenced) (.die 1) .fenced
         .next (checkAllReady r 3 (now r))))))
  ∧ (∀ (s : State) (id : Nat) (c : CmdRec) (n : Fin 256),
    (Startable s id 0x0120 c (.channel n) → (s.channels[n]).testing = none →
      exec (.memTest id) s =
        (let t := markStarted s id
         let p := paramNat c.params
         .next (checkAllReady { t with channels := t.channels.set n { t.channels[n] with
           testing := some (id, (getUnit t (.channel n)).own, bits p 175 144, bits p 143 112) } } 2 (now t))))
    ∧ (∀ o a len r, (s.channels[n]).testing = some (id, o, a, len) → findCmd s id = none →
      exec (.memTestEnd n r) s =
        (let t := { s with channels := s.channels.set n { s.channels[n] with testing := none } }
         let t := touchDoze (clearTested t n a len) (216 + n / 32)
         .next (checkAllReady t 2 (now t))))
    ∧ (∀ o a len r, (s.channels[n]).testing = some (id, o, a, len) → findCmd s id = some c → (∀ q i, c.origin ≠ .sub q i) →
      exec (.memTestEnd n r) s =
        (let t := { s with channels := s.channels.set n { s.channels[n] with testing := none } }
         let t := touchDoze (clearTested t n a len) (216 + n / 32)
         let t0 := c.startedAt.getD (now t)
         let res := r.lanes.toNat * 2 ^ 174 + min r.errors 0xFFFFFFFF * 2 ^ 142
           + (if r.errors > 0 then r.firstOff % 2 ^ 32 * 2 ^ 110 else 0) + (now t - t0) % 2 ^ 64 * 2 ^ 32 + stOk * 2 ^ 16
         let lost := hMvbuf c.hdr ≠ 0 && hostWriteFails t c (hMvbuf c.hdr) 32
         let t := if hMvbuf c.hdr = 0 then t
           else updCmd (hostWriteCmd t c (hMvbuf c.hdr) (leBytes 32 res)) id fun x => if lost then x else { x with mvptr := hMvbuf x.hdr }
         .next (checkAllReady (finishCmd t id (if lost then stXlateFault else stOk) 0) 2 t0))))

/-- 14_command_interface.md, 01_architecture.md: A command over the management bus or from another device arrives as one of its
path, is answered ST_STALE_EPOCH where it is the tenant's and not of the lease in force, and is answered for its header, or refused,
where its sender's role is not honoured here. A member's state is recorded; a prepare is answered with its vote; a decision is applied; a member whose deadline
passes undecided is in doubt, says so and asks again each millisecond. -/
def Obligations.ArrivalsAndSetMessagesComplete : Prop :=
  (∀ (s : State), mgmtReady s = true →
    (∀ m, remoteHonoured s m = true →
      exec (.remoteCommand m) s = .next (arrive s (.remote m.peer m.tid) m.role 3 true false m.hdr m.params))
    ∧ (∀ m, m.role = .tenant → sameLease s m = false →
      let c := newCmd s (.remote m.peer m.tid) m.role m.hdr m.params
      exec (.remoteCommand m) s = .next (failCmd s c stStaleEpoch
        (match parseTarget s c.hdr with | .inl t => (targetEpoch s t).toNat | .inr _ => 0)))
    ∧ (∀ m, m.role ≠ .tenant → remoteHonoured s m = false →
      let c := newCmd s (.remote m.peer m.tid) m.role m.hdr m.params
      (headerBad m.hdr true false = [] → exec (.remoteCommand m) s = .next (refuseNew s c 3 3))
      ∧ (headerBad m.hdr true false ≠ [] →
        exec (.remoteCommand m) s = .next (failCmd s c stBadParam (badDetail (headerBad m.hdr true false)))))
    ∧ (∀ h ps, exec (.i3cCommand (h :: ps)) s = .next (arrive s .i3c .operator 1 true true h ps)))
  ∧ (∀ (s : State),
    (∀ f x t e, exec (.memberStateMessage f x t e) s = .next (remoteState s f x t e))
    ∧ (∀ m t, m.peer ≠ selfId s → prepareAt s m = some t → exec (.atomicPrepare m) s = .next t)
    ∧ (∀ lead key dec hits p, lead ≠ selfId s → findPrep s lead key = some p →
      exec (.atomicDecision lead key dec hits) s = .next (applyDecision s p dec hits))
    ∧ (∀ lead key p, findPrep s lead key = some p → lead ≠ selfId s → p.inDoubt = false → p.deadline ≤ now s →
      exec (.atomicInDoubt lead key) s = .next (doubtEvent
        (modPrep s lead key fun q => { q with inDoubt := true, lastAsk := now s }) p 0x0012 0))
    ∧ (∀ lead key p, findPrep s lead key = some p → p.inDoubt = true → p.lastAsk + 1000000 ≤ now s →
      exec (.atomicDecisionQuery lead key) s = .next (sendMsg (modPrep s lead key fun q => { q with lastAsk := now s })
        (atomOwn p.role (hOpcode p.hdr)) lead 13 [key])))

/-- 08_core_programming.md, 13_address_translation.md: The first entry of its class that waits takes a free slot and asks for its
translations; a submitted entry whose pages are granted and fresh starts, takes what its host reads return and issues those left,
delivers what it read, and ends once its bytes are done; stale pages are asked for again, a domain that is off is woken first. A
translation completion fills the slots of its pages, one whose pages were invalidated since its request is asked for again, a denied
one is refused; a page request's success within its time asks again, a failure or the end of its wait ends the entry. An
invalidation marks the copies it covers, is completed when the reads under way are done, and after 45 us ends what still reads. -/
def Obligations.DmaEntriesAndTranslationsComplete : Prop :=
  (∀ (s : State) (c : Fin 192) (seq : Nat) (e : DmaEnt) (h : HostData), findEnt s c seq = some e → frozen s = false →
    (∀ a b f, e.phase = .waiting → slotsHeld (getCore s c) < 32 →
      anyBefore (getCore s c) e (·.phase = .waiting) = false → submitCheck s e.desc = .inr (a, b, f) →
      exec (.dmaEntrySubmit c seq) s =
        (let slots := if dHost e.desc then (partPages e.desc e.part).map XSlot.init else []
         let r := updEnt s c seq fun e => { e with phase := .submitted, slots := slots, srcFpa := a, dstFpa := b, flagFpa := f }
         .next (askTranslations (traceCore r c 3 10 (dTag e.desc)) c seq)))
    ∧ (e.phase = .submitted → translated e = true → mayStart s c e = true →
      (hasStale e = true → exec (.dmaEntryComplete c seq h) s = .next (refresh s c seq))
      ∧ (hasStale e = false → entOff s c e = true → exec (.dmaEntryComplete c seq h) s = .next (entTouch s c e))
      ∧ (hasStale e = false → entOff s c e = false →
        exec (.dmaEntryComplete c seq h) s = .next (startEnt (entTouch s c e) c e)))
    ∧ (e.phase = .started → hostReads e = true →
      (h.err = true → exec (.dmaEntryComplete c seq h) s = .next (endEnt s c seq stXlateFault))
      ∧ (h.err = false → h.bytes.length = piecesLen (outPieces e) →
        exec (.dmaEntryComplete c seq h) s = .next (takeReads s c e h.bytes)))
    ∧ (e.phase = .started → hostReads e = false → readsLeft e = true → translated e = true →
      (hasStale e = true → exec (.dmaEntryComplete c seq h) s = .next (refresh s c seq))
      ∧ (hasStale e = false → exec (.dmaEntryComplete c seq h) s = .next (issueReads s c e)))
    ∧ (e.phase = .started → hostReads e = false → readsLeft e = false → bytesDone e = true →
      exec (.dmaEntryComplete c seq h) s = .next (finishEnt s c e))
    ∧ (e.phase = .started → bytesDone e = false → readsDone e = true →
      exec (.dmaEntryComplete c seq h) s = .next (deliverRead s c e)))
  ∧ (∀ (s : State) (c : Fin 192) (seq : Nat) (e : DmaEnt), findEnt s c seq = some e →
    (∀ (t : TransIn) (q : Nat × List (Nat × Nat)),
      let left := { e with xreqs := e.xreqs.filter fun q => q.1 ≠ t.asked }
      let gone := q.2.any fun v => v.1 < t.page + t.pages.length && t.page < v.1 + v.2
      let d := { left with slots := left.slots.map (fillSlot t) }
      entEnded e = false → (e.xreqs.find? fun q => q.1 = t.asked) = some q →
      let held := match e.phase with | .priWait _ _ => true | _ => false
      let refused := d.slots.any fun x => x.filled && !slotGrants d.desc x
      (gone = true → exec (.atsTranslationCompletion c seq t) s = .next (askTranslations (updEnt s c seq fun _ => left) c seq))
      ∧ (gone = false →
        (held = false → refused = true →
          exec (.atsTranslationCompletion c seq t) s = .next (denied (updEnt s c seq fun _ => d) c d))
        ∧ (held = true ∨ refused = false → exec (.atsTranslationCompletion c seq t) s = .next (updEnt s c seq fun _ => d))))
    ∧ (∀ a b, e.phase = .priWait a b →
      (now s < a + b → exec (.prgResponse c seq 0) s = .next (askTranslations (updEnt s c seq fun g => { g with
        phase := if e.startedAt = 0 then .submitted else .started, retried := true
        slots := g.slots.map fun x => if slotGrants g.desc x then x else XSlot.init x.page }) c seq))
      ∧ (∀ code, code ≠ 0 ∨ a + b ≤ now s → exec (.prgResponse c seq code) s = .next (endEnt s c seq stXlateFault))
      ∧ (a + b ≤ now s → exec (.priWaitExpiry c seq) s = .next (endEnt s c seq stXlateFault))))
  ∧ (∀ (s : State) (itag : Nat),
    (∀ pasid page n, s.xl.invals.length < 32 → (s.xl.invals.any fun i => i.itag = itag) = false →
      let hit := invalHits pasid page n
      let mine := fun (e : DmaEnt) => match pasid with | some p => dPasid e.desc == p | none => true
      let mark := fun (e : DmaEnt) => { e with
        slots := e.slots.map fun x => { x with stale := x.stale || (x.filled && hit e x.page) }
        xreqs := if mine e then e.xreqs.map fun r => (r.1, r.2 ++ [(page, n)]) else e.xreqs }
      let reads := (List.finRange 192).flatMap fun c => ((getCore s c).dma.filter fun e =>
        !entEnded e && (outPieces e).any fun p => hit e (p.1 / 4096)).map fun e => (c.val, e.seq, e.hostAt)
      exec (.atsInvalidateRequest itag pasid page n) s = .next { s with
        cores := s.cores.map fun (x : CoreSt) => { x with dma := x.dma.map mark }
        xl := { s.xl with invals := s.xl.invals ++ [⟨itag, pasid, page, n, now s, false, reads⟩] } })
    ∧ (∀ i, (s.xl.invals.find? fun i => i.itag = itag) = some i →
      (i.reads.any (readOut s) = false → exec (.invalidateCompletion itag) s = .next (emit
        { s with xl := { s.xl with invals := s.xl.invals.filter fun j => j.itag ≠ itag } } (.invalComplete itag)))
      ∧ (i.at_ + 45000 ≤ now s → exec (.invalidateReadExpiry itag) s = .next
        ((i.reads.filter (readOut s)).foldl (fun s r => endEnt s (fin 192 r.1) r.2.1 stFenced) s))))

/-- 06_guarded_narrow_arithmetic.md: When every core of a guarded stage presents its part, the verdict combines their statistics
with the guard record and writes it; without a trip, and with one under policy 0, each core goes on, under the other policies
each replays. A replay whose transfers have ended runs its program again, or fails its part where one of them failed. -/
def Obligations.GuardVerdictsAndReplaysComplete : Prop :=
  (∀ (s : State) (c : Fin 192) (p : PendChain),
    let x := getCore s c
    let ps := participants s c p
    let ra := verdictRecord ps p.record
    let g := readNat s ra 64
    let k := combineRecs (ps.map (tensorOf s))
    let cmp := tripCmp g k true
    let pol := bits g 303 302
    let t := traceVerdict (writeNat (demand s ra 64) ra 64 (grVerdict g k (cmp ≠ 0))) ps p.record (cmp ≠ 0)
    let note := fun (n : List Nat) (b : BitVec 4) => noteTrip (bumpGuards t n) x.launch (ps.headD 0 / 8) p.record (bits g 319 304) 1 cmp b
    x.pend = some p → awaitsVerdict x = true → fencedPart s x.dispatch ps = none →
    (ps.filter (presents s x.dispatch p.record p.ordinal)).length = ps.length → anyPoison s ra 64 = false →
    (cmp = 0 → exec (.guardVerdict c) s = .next (resolveAll (bumpGuards t [0]) ps))
    ∧ (cmp ≠ 0 → pol = 0 → exec (.guardVerdict c) s = .next (resolveAll (note [0, 1] 1) ps))
    ∧ (cmp ≠ 0 → pol = 2 →
      exec (.guardVerdict c) s = .next (ps.foldl (fun s d => beginReplay s (fin 192 d) true g ps) (note [0, 1, 2, 3] 6)))
    ∧ (cmp ≠ 0 → pol ≠ 0 → pol ≠ 2 →
      exec (.guardVerdict c) s = .next (ps.foldl (fun s d => beginReplay s (fin 192 d) false g ps) (note [0, 1, 2] 2))))
  ∧ (∀ (s : State) (c : Fin 192) (p : PendChain) (wide : Bool) (since g : Nat) (ps : List Nat),
    let x := getCore s c
    let r := noteReplay (modCore s c fun x => { x with dma := x.dma.filter fun e => e.owner ≠ some x.launch }) x.launch
      (now (modCore s c fun x => { x with dma := x.dma.filter fun e => e.owner ≠ some x.launch }) - since) (ps.headD 0 = c.val)
    let bad := (blockEnts x).findSome? fun e => match e.phase with
      | .ended st => if st ≠ stOk then some st else none
      | _ => none
    x.pend = some p → x.verdict = .replaying wide since g ps → (blockEnts x).all entEnded = true →
    (bad = none → exec (.replayEnd c) s = .next (endReplays (rerun r c p wide g ps) x.dispatch x.launch p.record p.ordinal g ps))
    ∧ (∀ st, bad = some st →
      exec (.replayEnd c) s = .next (endReplays (failPart r c st) x.dispatch x.launch p.record p.ordinal g ps)))

/-- 10_attention_and_kv.md, 11_sequence_engine.md: The attention unit of a cluster takes the request at the head of a core's
ring, counts it consumed and, where its operation succeeds, leaves the operation's effect and its completion; an APPEND whose source
an earlier guarded failure withheld fails with that part's status. A step whose graph
has ended well applies its results, another closes without them; a follower takes the plan it is sent; run-ahead stages the next
page a step will read. -/
def Obligations.AttentionRequestsAndStepsComplete : Prop :=
  (∀ (s t : State) (k : Fin 24) (r : Fin 8) (g : BitVec 256),
    let n := ringConsumed s k r
    let a := ringEntryAt k r n
    let q := BitVec.ofNat 512 (readNat s a 64)
    let taken := takeReq (demand s a 64) k r n
    let rs := (attnRanges k r (aqReads g q)).getD []
    let out := Host.Outcome.next (attnDone t k r q)
    n < ringDoorbell s k r → isReady (baseState s (.attn k)) = true → frozen s = false → attnAsleep s k (aqOp q) = [] →
    anyPoison s a 64 = false →
    s.seq.geom = some g → attnValid g k r q = true →
    (∀ st, withheld s k r n q rs = some st → exec (.append k r) s = .next (attnFail taken k r q n (plainFail st)))
    ∧ (withheld s k r n q rs = none → provBlocks s rs ((attnRanges k r (aqWrites g q)).getD []) = false →
    (aqOp q < 2 ∨ aqOp q > 5 → doFetch taken g k r q = (none, t) → exec (.fetch k r) s = out)
    ∧ (aqOp q = 2 → doAppend taken g k r q = (none, t) → exec (.append k r) s = out)
    ∧ (aqOp q = 3 → doStage taken g k r q = (none, t) → exec (.stage k r) s = out)
    ∧ (aqOp q = 4 → doXpose taken g k r q = (none, t) → exec (.xpose k r) s = out)
    ∧ (aqOp q = 5 → doMerge taken g k r q = (none, t) → exec (.merge k r) s = out)))
  ∧ (∀ (s : State) (g : BitVec 256) (f : BitVec 1024) (r : StepRun),
    let t := pumpGraph 4097 s r.cmd
    (∀ c st d, s.seq.step = some r → s.seq.geom = some g → s.seq.cfg = some f → r.ended = none →
      findCmd t r.cmd = some c → c.phase ≠ .finished → c.graph.bind graphResult = some (st, d) →
      (completing st = true →
        exec .stepgraphComplete s =
          (let x := applyStep t g f r
           .next (closeStep { x.2 with seq := { x.2.seq with step := some { r with done := x.1 } } }
             (if c.trips > 0 then stGuardReplayed else stOk) (guardSummary c))))
      ∧ (completing st = false → exec .stepgraphComplete s = .next (closeStep t st d)))
    ∧ (∀ lead dst plan, exec (.planReceive lead dst plan) s = .next (receivePlan s lead dst plan))
    ∧ (∀ k c l p, s.seq.step = some r → s.seq.geom = some g → r.ended = none → frozen s = false →
      prefetchNext s g r = some (k, c, l, p) →
      (∀ t, stageOne s g k c l p = (none, t) → exec .runAheadPrefetch s = .next t)
      ∧ (∀ e t, stageOne s g k c l p = (some e, t) → exec .runAheadPrefetch s = .next (attnReport t k c 0 e))))

/-- 02_self_timed_operation.md, 19_power_and_thermal.md: A canary sample, once at each 100 us, updates both dies and is
published 2 us later, with a report where it breaches the floor; a thermal trip pulls its two pins and is reported. A sync pulse
comes each microsecond; an exchange of the lowest root seen corrects the count and aligns after three good offsets; 10 ms without
one clears the alignment; a root probes its ports and serves 10 ms later, never behind the latest time it was told. -/
def Obligations.PaceAndTimebaseEventsComplete : Prop :=
  (∀ (s : State),
    (∀ m : SampleIn, s.tb.locked = true → s.pace.lastSample ≠ some (now s / 100000 * 100000) →
      exec (.canarySample m) s =
        (let instant := now s / 100000 * 100000
         let t := takeSample s m instant
         let a := sampleDie t 0 m.implied0 m.temps0 t.pace.pavg instant
         let b := sampleDie a.1 1 m.implied1 m.temps1 t.pace.pavg instant
         .next (endProfileChanges s (noteCap b.1 { instant := instant, profile0 := (dieOf s 0).profile, profile1 := (dieOf s 1).profile
                                                   skip0 := false, skip1 := false, floor0 := a.2.1, floor1 := b.2.1
                                                   pace0 := a.2.2.1, pace1 := b.2.2.1, fb0 := a.2.2.2, fb1 := b.2.2.2 }))))
    ∧ (∀ m, s.pace.sample = some m → m.instant + 2000 ≤ now s →
      exec .pacePublish s =
        (let a := if m.skip0 then dieOf s 0 else publishDie (dieOf s 0) m.floor0 m.pace0 m.profile0 m.fb0 0 (m.instant / 100000)
         let b := if m.skip1 then dieOf s 1 else publishDie (dieOf s 1) m.floor1 m.pace1 m.profile1 m.fb1 1 (m.instant / 100000)
         let breach := s.pace.published && min a.floor b.floor + 3 < paceFloor s
         let r := deviceRecord a b breach (m.instant / 100000)
         let t := setDie (setDie s 0 a) 1 b
         let t := { t with pace := { t.pace with
           record := r, published := true, sample := none
           breachSeen := s.pace.breachSeen || breach || a.fallback || b.fallback } }
         .next (if breach then faultUnit t .device 0x0007 0 (uidOf .device) 0 r.toNat else t)))
    ∧ (∀ (d : Fin 2) sensor, s.rst.porAt.isSome = true →
      exec (.thermalTrip d sensor) s =
        (let t := { s with rst := { s.rst with tripped := true } }
         let t := emit (emit t (.pin "THERM_TRIP_N" false)) (.pin "FAULT_N" false)
         .next (faultUnit t (.die d) 0x000F 0 (uidOf (.die d)) 0 sensor))))
  ∧ (∀ (s : State), s.tb.locked = true →
    (s.tb.lastSync + 1000 ≤ now s →
      exec .tbSyncPulse s = .next (emit { s with tb := { s.tb with lastSync := now s } } .syncPulse))
    ∧ (∀ (src : BitVec 2) (port : Fin 32) (x : ExchIn), s.tb.root = false → src = 1 ∨ src = 2 →
      let q := seeRoot s x.root
      let good := if x.offset.natAbs ≤ 2 then q.tb.good + 1 else 0
      let y := correctTime q.tb true x.offset
      let t := { q with tb := { y with
        offset := x.offset, good := good, lastValid := now q, source := src, port := BitVec.ofNat 5 port
        aligned := y.aligned || good ≥ 3, everAligned := y.everAligned || good ≥ 3 } }
      (q.tb.rootSeen = some x.root →
        exec (.timeExchange src port x) s = .next (if x.offset.natAbs > 8 then clearAligned t else t))
      ∧ (q.tb.rootSeen ≠ some x.root → exec (.timeExchange src port x) s = .next q))
    ∧ (s.tb.root = false → s.tb.lastValid + 10000000 ≤ now s →
      exec .alignTimeout s =
        (let t := clearAligned s
         .next { t with tb := { t.tb with source := if t.tb.source = 3 then 3 else 0, rootSeen := none } }))
    ∧ (s.tb.root = true → s.tb.serving = false → s.tb.probe = none →
      exec .timeRootProbe s =
        (let t := ((List.range 32).filter fun p => portUp s p && !xOnly s p).foldl (fun s p =>
           let x := sealFrame s (newFrame s (everyDst s) 0 0 0 (.time 1 (now s) true))
           placeFrame x.1 p x.2) s
         .next { t with tb := { t.tb with probe := some (now t, 0) } }))
    ∧ (∀ t0 best, s.tb.root = true → s.tb.probe = some (t0, best) → t0 + 10000000 ≤ now s →
      exec .timeRootProbeExpiry s = .next { s with tb := { s.tb with
        count := BitVec.ofNat 64 (now s + best)
        probe := none, serving := true, aligned := true, everAligned := true } }))

/-- 15_onaux_fabric.md, 09_memory_model.md: A read, write or flag addition that is granted is served and answered, one that is
not is answered with its status; an answer ends the outstanding request it names; collective frames are taken in and answered;
management, time, digest and key exchange frames have the effect their rules give. -/
def Obligations.FramesAreServedAndAnswered : Prop :=
  (∀ (s t u : State) (f : FrameIn) (bs : List Byte),
    frozen s = false → recvFrame s f = .ok t →
    (∀ n, f.body = .read n →
      (serveRead t false (fpaLocal f) n (fhCtx f.hdr) = .ok u bs → exec (.frameRead f) s = .next (respond u f (.readData bs)))
      ∧ (∀ st, serveRead t false (fpaLocal f) n (fhCtx f.hdr) = .err u st → exec (.frameRead f) s = .next (respond u f (.nack st))))
    ∧ (∀ ws, f.body = .write ws →
      (serveWrite t false (fpaLocal f) ws (fhCtx f.hdr) = .ok u bs → exec (.frameWrite f) s = .next (respond u f .ack))
      ∧ (∀ st, serveWrite t false (fpaLocal f) ws (fhCtx f.hdr) = .err u st → exec (.frameWrite f) s = .next (respond u f (.nack st))))
    ∧ (∀ v, f.body = .flagAdd v →
      (serveFlag t false (fpaLocal f) v (fhCtx f.hdr) = .ok u bs → exec (.frameFlagAdd f) s = .next (respond u f .ack))
      ∧ (∀ st, serveFlag t false (fpaLocal f) v (fhCtx f.hdr) = .err u st → exec (.frameFlagAdd f) s = .next (respond u f (.nack st)))))
  ∧ (∀ (s t : State) (f : FrameIn), frozen s = false → recvFrame s f = .ok t →
    (∀ bs, f.body = .readData bs →
      exec (.frameReadData f) s = .next (match findReq t f with
        | some r => if r.kind = 1 && bs.length = r.len then takeAnswer t r stOk bs else t
        | none => t))
    ∧ (f.body = .ack →
      exec (.frameAck f) s = .next (match findReq t f with
        | some r => if r.kind ≠ 1 then takeAnswer t r stOk [] else t
        | none => t))
    ∧ (∀ st, f.body = .nack st →
      exec (.frameNack f) s = .next (match findReq t f with
        | some r => takeAnswer t r (if st = stOk then stRefused else st) []
        | none => t))
    ∧ (∀ u st id inst h, f.body = .collReady id inst h → takeReady t (fhSrc f.hdr) id inst h = .ans u st →
      exec (.frameColl f) s = .next (respond u f (if st = stOk then .ack else .nack st)))
    ∧ (∀ u st id inst g chunk rank off bs, f.body = .collData id inst g chunk rank off bs →
      takeData t false id inst g chunk rank off bs = .ans u st →
      exec (.frameColl f) s = .next (respond u f (if st = stOk then .ack else .nack st))))
  ∧ (∀ (s t : State) (f : FrameIn), frozen s = false → recvFrame s f = .ok t →
    (∀ u k args, f.body = .mgmt k args → takeMessage t (fhSrc f.hdr) (fhLease f.hdr) k args = some u → exec (.frameMgmt f) s = .next u)
    ∧ (∀ k args, f.body = .mgmt k args → takeMessage t (fhSrc f.hdr) (fhLease f.hdr) k args = none →
      exec (.frameMgmt f) s = .next (park t f))
    ∧ (∀ v root, f.body = .time 0 v root → (t.tb.root && t.tb.serving) || (!t.tb.root && t.tb.aligned) →
      exec (.frameTime f) s = .next (respond t f (.time 3 (now t) t.tb.root)))
    ∧ (∀ v root, f.body = .time 1 v root → t.tb.everAligned = true →
      exec (.frameTime f) s = .next (respond t f (.time 2 (now t) t.tb.root)))
    ∧ (∀ v root t0 best, f.body = .time 2 v root → t.tb.probe = some (t0, best) →
      exec (.frameTime f) s = .next { t with tb := { t.tb with
        probe := some (t0, max best (v + bits f.hdr.toNat 31 0 / 1000 - now t)) } })
    ∧ (∀ v, f.body = .time 3 v true → exec (.frameTime f) s = .next (seeRoot t (fhSrc f.hdr)))
    ∧ (∀ qpn n g, f.body = .digest qpn n g → (mirrorKey t).isSome = true →
      exec (.frameDigest f) s = .next (digestPartner t ⟨qpn, n, g, 0, now t⟩))
    ∧ (∀ nonce g inst, f.body = .keyx nonce g inst → leaseLive t = true → t.lease.fabSecret.isSome = true →
      exec (.frameKeyx f) s = .next (flushHeld (takeKeyx t (fhSrc f.hdr) nonce g inst))))

/-- 15_onaux_fabric.md: A confirmed link is rekeyed after 2^48 frames or an hour, closed where that takes 10 s or its counter runs
out; frames held a millisecond for a port are dropped and every DMA entry with a frame to their destination ends with ST_TIMEOUT;
a digest without a partner for a second is reported. An armed collective starts when its flag has come to the next multiple of its
increment; an instance that has moved all its data ends. -/
def Obligations.LinkAndCollectiveEventsComplete : Prop :=
  (∀ (s : State) (peer : Nat),
    (∀ l, getLink s peer = some l →
      (l.confirmed = true → l.rekeyAt = none → 2 ^ 48 ≤ l.sendCtr ∨ l.setAt + 3600000000000 ≤ now s →
        exec (.rekeyTrigger peer) s =
          (let x := drawNonce s
           .next (sendKeyx (putLink x.2 { l with gen := l.gen + 1, myNonce := x.1, rekeyAt := some (now x.2) }) peer x.1 (l.gen + 1)
             false)))
      ∧ (∀ t, l.rekeyAt = some t → t + 10000000000 ≤ now s → exec (.rekeyTimeout peer) s = .next (closeLink s peer))
      ∧ (2 ^ 64 - 1 ≤ l.sendCtr → exec (.frameCounterLimit peer) s = .next (closeLink s peer)))
    ∧ (let due := s.fab.held.filter fun h => h.1.any (fun t => now s ≥ t + 1000000) && (choosePort s h.2).isNone
       let peers := (due.map fun h => fhDst h.2.hdr).eraseDups
       let t := peers.foldl (fun s p => (entFor s p).foldl (fun s e => endEnt s e.1 e.2 stTimeout) s) s
       exec .fabricHoldExpiry s = .next (setFab t { t.fab with held := t.fab.held.filter fun h =>
         h ∉ due && !(fhVc h.2.hdr = 0 && peers.contains (fhDst h.2.hdr)) }))
    ∧ (∀ qpn seqno e, (s.fab.digLocal.find? fun e => e.qpn = qpn && e.seqno = seqno) = some e → e.at_ + 1000000000 ≤ now s →
      exec (.digestMissingTimeout qpn seqno) s = .next (mirrorEvent
        (setDigs s (s.fab.digLocal.erase e) s.fab.digPartner) 1 e.tag 1 e.digest.toNat 0 qpn seqno)))
  ∧ (∀ (s : State), frozen s = false →
    (∀ (slot : Fin 64) d f, smapGet none s.fab.slots slot = some (d, f) → provBlocks s [⟨coTrig d, 8⟩] [] = false →
      anyPoison s (coTrig d) 8 = false → (f + 1) * coTrigInc d ≤ readNat s (coTrig d) 8 →
      exec (.collectiveTrigger slot) s = .next (startInst
        (setFab s { s.fab with slots := smapSet none s.fab.slots slot (some (d, f + 1)) }) d none (some slot.val)))
    ∧ (∀ collid inst i, findInst (collPump s) collid inst = some i → i.begun = true → i.due = 0 → i.acksOut = 0 → i.out = [] →
      exec (.collectiveInstanceEnd collid inst) s = .next (collPump (endInst (collPump s) i stOk))))

/-- 15_onaux_fabric.md, 22_package_pins_electrical.md: A port trains on a signal and comes up, falls on a loss and is retrained
once a second; a retransmission resends its class's frames while no thermal trip holds; returned credits and refilled tokens send
what waited. The head of the sideband sends a mark each 10 us; sound marks, stops, management messages and replies are taken in and
sent on; the bypass pin closes the ring around a device, which passes every frame on as it is, and opens it once its input has been
idle for 29.3 us. -/
def Obligations.PortAndSidebandEventsComplete : Prop :=
  (∀ (s : State),
    (∀ p : Fin 32,
      let x := s.ports[p]
      (s.rst.porAt.isSome = true → x.phase = .down → x.lost = false →
        exec (.portSignalDetected p) s = .next { s with ports := s.ports.set p { x with phase := .training } })
      ∧ (∀ full : Bool, s.rst.porAt.isSome = true → x.phase = .training →
        exec (.portTrained p full) s =
          (let t := { s with ports := s.ports.set p { x with phase := if full then .up else .up2, lost := false } }
           .next (flushHeld (if (getUnit t (.port p)).own = .notReady && dependsMet t (.port p) then becomeReady t (.port p) else t))))
      ∧ (x.phase = .up ∨ x.phase = .up2 →
        exec (.portLinkLoss p) s = .next (movePort (modPort s p fun x => { x with lost := true }) p .down 3))
      ∧ (x.phase = .down → x.lost = true → (∀ t, x.lastRetrain = some t → t + 1000000000 ≤ now s) →
        exec (.portRetrainTimer p) s = .next (retrainPort (modPort s p fun x => { x with lastRetrain := some (now s) }) p 3))
      ∧ (∀ i f, x.replayBuf[i]? = some f → portUp s p = true → s.rst.tripped = false →
        exec (.linkRetransmit p i) s =
          (let again := (x.replayBuf.drop i).filter fun g => fhVc g.hdr = fhVc f.hdr
           .next (again.foldl (fun s g => emit s (.frame p g))
             (modPort s p fun x => { x with replay := sat32 (x.replay + again.length) }))))
      ∧ (∀ (vc : Fin 4) n, portUp s p = true →
        exec (.vcCreditReturn p vc n) s = .next (flushPort (modPort s p fun x => { x with
          credits := vset x.credits vc (vget x.credits 0 vc + n), replayBuf := dropAcked vc n x.replayBuf }) p)))
    ∧ (leaseLive s = true →
      exec .injectionTokenRefill s = .next (flushWaiting (setFab s { s.fab with
        tokens := min 65536 (s.fab.tokens + s.lease.injrate * (now s - s.fab.tokenAt)), tokenAt := now s }))))
  ∧ (∀ (s : State),
    let at_ := fun (f : SbIn) => { s with sb := { s.sb with lastIn := now s + sbTime f } }
    (sbLive s = true → sbPos s = 0 → s.tb.locked = true → (s.tb.root = true → s.tb.serving = true) → s.sb.nextMark ≤ now s →
      exec .sbMarkOriginate s = .next (sbSend { s with sb := { s.sb with nextMark := now s + 10000 } }
        (sbFrame 1 0 0 (leBytes 8 (now s) ++ leBytes 4 0))))
    ∧ (∀ f, s.sb.bypass = true → exec (.sbMark f) s = .next (emit (at_ f) (.sideband f))
      ∧ exec (.sbStop f) s = .next (emit (at_ f) (.sideband f)) ∧ exec (.sbMgmt f) s = .next (emit (at_ f) (.sideband f))
      ∧ exec (.sbReply f) s = .next (emit (at_ f) (.sideband f)))
    ∧ (∀ f, sbLive s = true → sbTaken 1 f = true → f.payload.length ≠ 12 →
      exec (.sbMark f) s = .next (sbForward (at_ f) f f.payload))
    ∧ (∀ f, sbLive s = true → sbTaken 1 f = true → f.payload.length = 12 →
      exec (.sbMark f) s = .next (takeMark (sbForward (at_ f) f (leBytes 8 (markT0 f) ++ leBytes 4 (markFwd f + (Config.sbDelay - 1))))
        (markT0 f + markFwd f + sbDly (at_ f))))
    ∧ (∀ f, sbLive s = true → sbTaken 2 f = true →
      let t := sbForward (at_ f) f f.payload
      t.sec.halted = false →
      ((f.payload.length = 2 && armed t (fromLe f.payload) && starOpen t) = true → exec (.sbStop f) s = .next (stopDevice t))
      ∧ ((f.payload.length = 2 && armed t (fromLe f.payload) && starOpen t) = false →
        exec (.sbStop f) s = .next { t with sb := { t.sb with stopFails := t.sb.stopFails + 1 } }))
    ∧ (∀ f h ps, sbLive s = true → sbTaken 3 f = true → sbBlocks f.payload = h :: ps →
      let t := sbForward (at_ f) f f.payload
      f.dpos = sbPos t ∨ f.dpos = 0xFF → f.payload.length % 64 = 0 → mgmtReady t = true →
      exec (.sbMgmt f) s = .next (arrive t .sideband .operator 2 true true h ps))
    ∧ (∀ f, sbLive s = true → sbTaken 4 f = true → exec (.sbReply f) s = .next (sbForward (at_ f) f f.payload))
    ∧ exec .sbBypassAssert s = .next { s with sb := { s.sb with pinLow := true, bypass := true, sending := none } }
    ∧ (s.rst.porAt.isSome = true →
      exec .sbBypassOpen s = .next { s with sb := { s.sb with
        pinLow := false, portUp := true, bypass := s.sb.bypass && decide (now s < s.sb.lastIn + 29300) } }))

/-- 20_debug_and_telemetry.md, 12_memory_system.md: A report is taken in by its concentrator; the end of a millisecond sends its
summaries. A scrub passes over a poisoned word; one that reads what cannot be corrected poisons the word and reports it, one that
corrects counts each error, of a lane or of a store, whether the error is the scrub's own outcome or stands in the word (the
model's choice, log entry 107). -/
def Obligations.FaultEventsComplete : Prop :=
  ∀ (s : State),
    (∀ r : ReportIn, s.rst.porAt.isSome = true → 1 ≤ r.cls → r.cls ≤ 0x10 →
      exec (.faultReport r) s =
        (let u := (unitOfUid (r.subject % 2 ^ 32)).getD .device
         let epoch := if isLocalFuid s r.subject then (getUnit s u).epoch else memberEpoch s (.remote r.subject)
         .next (faultReport s (concentratorOf ((unitOfUid r.reporter).getD .device)) r.subject epoch r.cls r.reason r.reporter 0
           r.addr r.info)))
    ∧ (∀ d : Fin 2,
      let f := s.faults[d]
      let w := now s / 1000000 * 1000000
      w ≠ f.window →
      exec (.faultWindowEnd d) s =
        (let told := if f.summary then f.sums else []
         let kept := f.kept ++ told
         let t := { s with
           faults := s.faults.set d { f with
             window := w, unmatched := 0, sums := [], summary := f.summary && decide (f.unmatched ≥ 256)
             kept := kept.drop (kept.length - 64) }
           host := { s.host with newFault := s.host.newFault || !told.isEmpty } }
         .next (told.foldl (fun s x => ringEvent s s.lease.openL
           ⟨0x000E, fuidOf s (uidOf (.die d)), epochOf s (.die d), 0, x.reports, sumBits x⟩) t)))
    ∧ (∀ addr,
      let a := lineOf addr * 64
      let t := if isHbm a then touchAddr s a else s
      let counted := fun (s : State) (lane : Nat) => match placeUnit a with
        | .channel n => if lane < 82 then laneError s n lane else s
        | u => { s with ecc := { s.ecc with counts := smapSet 0 s.ecc.counts (uidOf u) (smapGet 0 s.ecc.counts (uidOf u) + 1) } }
      let bad := (let u := placeUnit a
        let r := faultUnit (setPoison t (lineOf addr) true) u 0x0005 0 (uidOf u) a 0
        poisonAct (memPoisonEvent r a 0) (lineOf addr))
      let errs := fun (e : EccIn) => (eccOf t (lineOf addr)).errs ++ (match e with
        | .clean => []
        | .corrected k => [2 + k]
        | .uncorrectable => [1])
      s.rst.porAt.isSome = true → (placeOf a).isSome = true → hbmClearing s = false → (isHbm a = true → hbmBusy s = false ∧ stackOff s (hbmChannel a) = false) →
      (∀ e, poisonSet t (lineOf addr) = true → exec (.scrubRead addr e) s = .next t)
      ∧ (∀ e, poisonSet t (lineOf addr) = false →
        (errs e = [] → exec (.scrubRead addr e) s = .next t)
        ∧ (errsBad (lineOf addr) (errs e) = true → exec (.scrubRead addr e) s = .next bad)
        ∧ (errs e ≠ [] → errsBad (lineOf addr) (errs e) = false → exec (.scrubRead addr e) s = .next
          ((errs e).eraseDups.foldl (fun s k => counted s (k - 2)) (setEcc t (lineOf addr) (freshEcc (eccOf t (lineOf addr))))))))

/-- 19_power_and_thermal.md, 22_package_pins_electrical.md, 18_bring_up_reset_recovery.md: A domain that is idle long enough
dozes, begins to wake when it has work and is awake when its wake has run its time, both times counted. The release of the
power-on reset takes the straps and the stored records and, where the firmware is accepted, writes the boot's audit record; a
power loss leaves what the rules leave; GETSTATUS answers 5AH where no firmware was accepted and a free byte elsewhere (the
model's free value). -/
def Obligations.DozeAndPowerEventsComplete : Prop :=
  (∀ (s : State) (i : Fin 256),
    let d := s.doze[i]
    (s.rst.porAt.isSome = true → d.off = false → dozeDue s i = true →
      exec (.domainDoze i) s =
        (let t := dozeTrace s i 5 0
         let d := t.doze[i]
         .next (setDoze t i { d with off := true, wakeAt := none, offAt := now t, dozes := d.dozes + 1 })))
    ∧ (d.off = true → d.wakeAt = none →
      exec (.domainWake i) s = .next (setDoze s i { d with wakeAt := some (now s), dozeNs := d.dozeNs + (now s - d.offAt) }))
    ∧ (∀ w, d.wakeAt = some w → wakeReady s i = true →
      exec (.domainWakeComplete i) s =
        (let t := setDoze s i { d with off := false, wakeAt := none, idleAt := now s, wakeNs := d.wakeNs + (now s - w) }
         let t := dozeTrace t i 6 (now t - w)
         .next (if 192 ≤ i.val ∧ i.val < 216 then
             { t with clusters := t.clusters.set (fin 24 (i.val - 192)) (traceSync (now t) (t.clusters[fin 24 (i.val - 192)])) }
           else t))))
  ∧ (∀ (s : State),
    (∀ p : PowerIn, s.rst.porAt = none →
      exec (.porNDeassert p) s =
        (let sec := if p.recordsOk then s.sec else blankFlash s.sec
         let sec := { sec with
           fwOk := p.fwOk, chainOk := p.chainOk, fwNow := (match sec.fwNext with | some x => x.1 | none => sec.fwNow), fwNext := none }
         let t := { s with
           straps := p.straps, sec := sec, limits := sec.flashLimits, fab := { s.fab with ident := sec.flashIdent }
           tb := { s.tb with locked := p.fwOk, root := sec.flashIdent.toNat.testBit 495 }
           dies := s.dies.map (fun x => { x with profile := sec.flashLimits.defprof })
           rst := { s.rst with porAt := some (now s) } }
         let t := sec.flashOos.foldl (fun s u => holdPort (setOwn s u .outOfService) u) (setOwn t .device .ready)
         .next (if p.fwOk then bootAudit (installKey t) else t)))
    ∧ (∀ l : LossIn,
      let clears := l.cause = 2 || (l.cause = 0 && l.low)
      let t := afterLoss s (s.rst.tripped && !clears)
      exec (.powerLoss l) s = .next (if s.rst.tripped && clears then emit t (.pin "THERM_TRIP_N" true) else t))
    ∧ (s.rst.porAt.isSome = true → s.sec.fwOk = false → exec .getstatus s = .next (emit s (.i3c [0x5A])))
    ∧ (s.rst.porAt.isSome = true → s.sec.fwOk = true → exec .getstatus s
      = .next (emit { s with free := s.free + 1 } (.i3c [BitVec.ofNat 8 (Config.free s.free)]))))

/-- 17_security_and_leasing.md: The closing of a lease runs drain, hardware scrub, the scrub of the security processor, the
clearing of HBM and, where asked, the verify pass, each at its time. A message of the tenant sets a secret of its lease once,
one of the installer a key or the fabric's plain secret, where its signature verifies, and is refused where it does not or where
its form is not its kind's; each outcome is audited and answered. -/
def Obligations.LeaseClosingAndSecretsComplete : Prop :=
  (∀ (s : State),
    (∀ t, s.lease.closing = some (.drain t) → t ≤ now s →
      exec .leaseCloseDrainEnd s =
        (let r := hardwareScrub s
         .next { r with lease := { r.lease with closing := some (.hwScrub (now r + 220000)) } }))
    ∧ (∀ t, s.lease.closing = some (.hwScrub t) → t ≤ now s →
      exec .hardwareScrubEnd s = .next { s with lease := { s.lease with closing := some (.askoc (now s + 3000000)) } })
    ∧ (∀ t, s.lease.closing = some (.askoc t) → t ≤ now s →
      exec .askocScrubEnd s =
        (let r := askocScrub s
         .next (checkAllReady { r with lease := { r.lease with closing := some (.hbmClear (now r + 28000000)) } } 2 (now r))))
    ∧ (∀ t, s.lease.closing = some (.hbmClear t) →
      let r := (List.range 8).foldl (fun s i => touchDoze s (216 + i)) (clearHbm s)
      (r.lease.verify = true → exec .hbmClearEnd s
        = .next { r with lease := { r.lease with closing := some (.verify (now r + 28000000)) } })
      ∧ (r.lease.verify = false → exec .hbmClearEnd s = .next (finishClose r)))
    ∧ (∀ t repairs bad, s.lease.closing = some (.verify t) →
      exec (.hbmVerifyEnd repairs bad) s = .next (finishClose (bad.foldl (fun s a =>
        repairRows s (fin 256 (hbmChannel a)) 1 (a / 64 * 64)) (repairs.foldl (fun s r =>
        repairRows { s with free := s.free + 1 } (fin 256 r.1) r.2
          (hbmAddr (r.1 % 256) (Config.free s.free % 0x60000000 / 64 * 64))) s)))))
  ∧ (∀ (s : State) (m : VangaerIn), serialOk s m = true → s.sec.sessions.contains m.session = true →
    let by_ := fun (key : BitVec 768) => Config.ecdsaOk key (vangaerDigest m) m.sig
    let refused := fun (role : Nat) => Host.Outcome.next (vangaerReply (auditRefusal s role 3 0 0 0 10 0) 1)
    (leaseLive s = true → vgLease m = s.lease.id.toNat →
      (vgForm m 1 = true → s.lease.fabSecret = none → exec (.fabricSecret m) s = .next (vangaerDone s 3 1 (by_ s.lease.tenant) fun s =>
        { s with lease := { s.lease with fabSecret := some (vgSecret m) } }))
      ∧ (vgForm m 2 = true → s.lease.mirSecret = none → s.lease.mirror = true →
        exec (.mirrorSecret m) s = .next (vangaerDone s 3 2 (by_ s.lease.tenant) fun s =>
          { s with lease := { s.lease with mirSecret := some (vgSecret m) } })))
    ∧ (s.lease.openL = false → s.lease.closing = none → s.sec.authInst < vgAuthseq m →
      (vgForm m 3 = true → s.sec.instSlots < 4 → s.sec.instSlots = 0 ∨ installerKeyOk s = true →
        exec (.installKey m) s = .next (vangaerDone s 1 3 (by_ (if s.sec.instSlots = 0 then vgKey m else s.sec.instKey)) fun s =>
          { s with sec := { s.sec with
            instSlots := s.sec.instSlots + 1, instKey := vgKey m, instHash := Config.sha384 (leBytes 96 (vgKey m).toNat)
            authInst := vgAuthseq m } }))
      ∧ (vgForm m 4 = true → installerKeyOk s = true →
        exec (.plainSecret m) s = .next (vangaerDone s 1 4 (by_ s.sec.instKey) fun s =>
          { s with sec := { s.sec with plain := some (vgSecret m), authInst := vgAuthseq m } })))
    ∧ (vgForm m 1 = false → exec (.fabricSecret m) s = refused 3) ∧ (vgForm m 2 = false → exec (.mirrorSecret m) s = refused 3)
    ∧ (vgForm m 3 = false → exec (.installKey m) s = refused 1) ∧ (vgForm m 4 = false → exec (.plainSecret m) s = refused 1))

/-- 16_host_interface.md, 17_security_and_leasing.md, 20_debug_and_telemetry.md: Certificates, measurements, key exchange, key
programming and setting, and the TDISP lock, start, stop and error complete as the conditions of each allow; replies that are
due are sent; the audit log is checkpointed when due; an arming ends at its time. -/
def Obligations.SecureSessionsComplete : Prop :=
  ∀ (s : State) (session stream : Nat),
    let r := drawRandom s
    let x := vget s.sec.streams .init stream
    (exec .vangaerReply s =
      (let due := s.sec.replies.filter fun r => now s ≥ r.1
       let t := { s with sec := { s.sec with replies := s.sec.replies.filter fun r => now s < r.1 } }
       .next (due.foldl (fun s r => emit s (.spdm 4 [BitVec.ofNat 8 r.2])) t)))
    ∧ (isReady (getUnit s .vangaer).own = true →
      exec (.getCertificate session) s = .next (emit s (.spdm 5 Config.certChain))
      ∧ (∀ y : MeasureIn,
        let b := if y.index = 0xFF then (List.range 9).flatMap fun i => dmtfBlock s (i + 1) else dmtfBlock s y.index
        (1 ≤ y.index ∧ y.index ≤ 9) ∨ y.index = 0xFF →
        exec (.getMeasurements session y) s = .next (emit r.2 (.spdm 6
          (b ++ leBytes 96 (Config.deviceSign (Config.spdmHash session (leBytes 32 y.nonce.toNat ++ b)) r.1).toNat))))
      ∧ (s.sec.sessions.contains session = false → s.sec.sessions.length < 4 →
        exec (.keyExchange session) s =
          (let q := drawRandom r.2
           let key := leBytes 96 (Config.ephemeralPub r.1).toNat
           .next (emit { q.2 with sec := { q.2.sec with sessions := q.2.sec.sessions ++ [session] } } (.spdm 1
             (key ++ leBytes 96 (Config.deviceSign (Config.spdmHash session key) q.1).toNat)))))
      ∧ (4096 ≤ s.audit.sinceCkpt ∨ (0 < s.audit.sinceCkpt ∧ s.audit.ckptAt + 3600000000000 ≤ now s) →
        exec .auditCheckpoint s = .next (auditCheckpoint s)))
    ∧ (s.sec.sessions.contains session = true → stream < 5 →
      (∀ k : StreamKeyIn, k.keySet < 2 → exec (.keyProg session stream k) s =
        (let t := setStream s stream (if k.keySet = 0 then { x with key0 := some k.key } else { x with key1 := some k.key })
         .next (emit { t with sec := { t.sec with
           ideSessions := t.sec.ideSessions ++ (if t.sec.ideSessions.contains session then [] else [session]) } } (.spdm 2 []))))
      ∧ (∀ k, (if k = 0 then x.key0 else if k = 1 then x.key1 else none).isSome = true →
        exec (.kSetGo session stream k) s = .next (emit (setStream s stream { x with secure := true, keySet := k }) (.spdm 3 [])))
      ∧ (stream < 4 → s.host.tdi = .unlocked → leaseLive s = true → x.secure = true → tenantPairs s = [] → s.host.wasRun = false →
        exec (.lockInterface session stream) s =
          (let t := setTdi { r.2 with host := { r.2.host with bound := some (stream, session), nonce := some r.1 } } .locked
           .next (emit t (.tdisp true r.1)))))
    ∧ (∀ nonce, s.host.tdi = .locked → s.host.nonce = some nonce → s.host.bound.map (·.2) = some session →
      exec (.startInterface session nonce) s =
        .next (emit (setTdi { s with host := { s.host with nonce := none, wasRun := true } } .run) (.tdisp true 0)))
    ∧ (s.sec.sessions.contains session = true →
      exec (.stopInterface session) s =
        (let t := moveTdi s .unlocked
         .next (emit { t with host := { t.host with bound := none, nonce := none } } (.tdisp true 0))))
    ∧ (∀ e : TdiErrorIn,
      let t := if e.cause = 1 then setStream s e.subject { vget s.sec.streams .init e.subject with secure := false }
        else if e.cause = 2 then { s with sec := { s.sec with
          sessions := s.sec.sessions.filter (· ≠ e.subject), ideSessions := s.sec.ideSessions.filter (· ≠ e.subject) } }
        else s
      (∀ a b, s.host.bound = some (a, b) → (if e.cause = 2 then b else a) = e.subject → exec (.tdiError e) s = .next (tdiFail t))
      ∧ ((∀ a b, s.host.bound = some (a, b) → (if e.cause = 2 then b else a) ≠ e.subject) → exec (.tdiError e) s = .next t))
    ∧ (∀ tok t, s.stopArm = some (tok, t) → t ≤ now s → exec .stopArmExpiry s = .next { s with stopArm := none })

/-- 16_host_interface.md: Each reset of the host function domain leaves the state the rules give. An admitted read of BAR2 replies
with its bytes, each completion that holds a poisoned line marked and that line's bytes free (the model's free value); an admitted
write stores its bytes; both wait where their stack is off or an earlier one waits; a request that its window does not admit is
refused and counted. A configuration request is answered with a retry until the function is ready, and reads and writes its register
then. -/
def Obligations.HostResetsAndDeviceMemoryComplete : Prop :=
  (∀ (s : State),
    (s.host.ready = true → exec .functionLevelReset s = .next (hostReset s true) ∧ exec .d3hotToD0 s = .next (hostReset s true))
    ∧ (s.host.linkUp = true → exec .hotReset s = .next (hostReset s true))
    ∧ (∀ rate width, s.host.linkUp = true → exec (.linkDown rate width) s =
      (let t := hostReset s false
       let ok := linkTrains rate width
       .next { t with host := { t.host with linkUp := ok, rate := if ok then rate else 0, width := if ok then width else 0 } }))
    ∧ (s.host.perst = false → s.rst.porAt.isSome = true → exec .perstNAssert s =
      (let t := hostReset s false
       .next { t with host := { t.host with perst := true, linkUp := false } }))
    ∧ (∀ rate width, s.host.perst = true → exec (.perstNDeassert rate width) s =
      (let ok := linkTrains rate width
       .next { s with host := { s.host with
         perst := false, linkUp := ok, rate := if ok then rate else 0, width := if ok then width else 0 } })))
  ∧ (∀ (s : State) (t : TlpIn),
    let a := s.host.bar2.toNat + t.off
    let rcb := if t.rcb128 then 128 else 64
    (t.bar = 2 → access2 s t = .admitted → s.host.parkedTlp ≠ [] ∨ rangeOff s a t.len = true →
      let r := touchRange s a t.len
      let out := Host.Outcome.next { r with host := { r.host with parkedTlp := r.host.parkedTlp ++ [t] } }
      (t.write = false → exec (.bar2Read t) s = out) ∧ (t.write = true → exec (.bar2Write t) s = out))
    ∧ (t.bar = 2 → access2 s t = .admitted → s.host.parkedTlp = [] → rangeOff s a t.len = false → rangeResetting s a t.len = false →
      (t.write = false → exec (.bar2Read t) s =
        (let ep := (List.range (if t.len = 0 then 0 else (a + t.len - 1) / rcb + 1 - a / rcb)).map fun i =>
           anyPoison s (max a ((a / rcb + i) * rcb)) (min (a + t.len) ((a / rcb + i + 1) * rcb) - max a ((a / rcb + i) * rcb))
         let x := if ep.any id then drawFree s else (0, s)
         let bs := (readBytes x.2 a t.len).zipIdx.map fun b => if poisoned x.2 (lineOf (a + b.2)) then byteOf x.1 b.2 else b.1
         .next (emit (demand (touchRange x.2 a t.len) a t.len) (.readReply bs false ep))))
      ∧ (t.write = true → exec (.bar2Write t) s = .next (writeBytes (touchRange s a t.len) a (t.data.take t.len))))
    ∧ (t.bar = 6 → s.host.linkUp = true →
      (s.host.ready = false →
        (t.write = true → exec (.msixUnmask t) s = .next (emit s .configRetry) ∧ exec (.registerWrite t) s = .next (emit s .configRetry))
        ∧ (t.write = false → exec (.registerSnapshotRead t) s = .next (emit s .configRetry)))
      ∧ (s.host.ready = true →
        (t.write = true →
          exec (.msixUnmask t) s = .next (flushPending { s with host := { s.host with fmask := (fromLe t.data).testBit 0 } })
          ∧ exec (.registerWrite t) s = .next (writeConfig s t.off (fromLe t.data)))
        ∧ (t.write = false →
          exec (.registerSnapshotRead t) s = .next (emit s (.readReply (leBytes 4 (configReg s t.off)) false [])))))
    ∧ ((if t.bar = 2 then access2 s t else access0 s t) = .refused → exec (.tlpRefused t) s = .next (refuseTlp s t)))

/-- 21_registers.md, 16_host_interface.md: What an admitted write of each BAR0 register leaves: NEWFAULT is cleared by 1; base
registers and settings of a queue or ring that is not ACTIVE, the BAR2 base, the bootstrap record while no GO runs and the MSI-X
table take the written half or whole, the other half kept, the messages of vectors so unmasked being sent; the lease region takes
nothing outside a lease; a read-only or reserved offset takes nothing. An admitted read replies with the register's value; an
8-byte read of RDY0 takes the snapshot that later reads of RDY1 to RDY7 return. Pair 0 and the event rings are enabled where their
settings hold, refused with ERR where they do not, and disabled. -/
def Obligations.RegisterRequestsComplete : Prop :=
  ∀ (s : State) (t : TlpIn), access0 s t = .admitted →
    let h := s.host
    let out := fun (k : HostSt) => Host.Outcome.next { s with host := k }
    let wr := fun (old : Nat) => if t.len = 8 then fromLe t.data
      else if t.off % 8 = 0 then fromLe t.data + old / 2 ^ 32 * 2 ^ 32 else fromLe t.data * 2 ^ 32 + old % 2 ^ 32
    let reply := fun (r : State) (v : Nat) => Host.Outcome.next (emit r (.readReply (leBytes t.len v) false []))
    (t.write = true →
      (regOf t = 0x20 → exec (.registerWrite t) s = out (if (wr 0).testBit 63 then { h with newFault := false } else h))
      ∧ (regOf t = 0x100 → mqActive s = false →
        exec (.registerWrite t) s = out { h with mqSq := BitVec.ofNat 64 (wr h.mqSq.toNat / 4096 * 4096) })
      ∧ (regOf t = 0x108 → mqActive s = false →
        exec (.registerWrite t) s = out { h with mqCq := BitVec.ofNat 64 (wr h.mqCq.toNat / 4096 * 4096) })
      ∧ (regOf t = 0x140 → ringActive h.mer = false →
        exec (.registerWrite t) s = out { h with mer := { h.mer with base := BitVec.ofNat 64 (wr h.mer.base.toNat / 4096 * 4096) } })
      ∧ (regOf t = 0x10080 → exec (.registerWrite t) s = out { h with bar2 := BitVec.ofNat 64 (wr h.bar2.toNat / 2 ^ 30 * 2 ^ 30) })
      ∧ (regOf t = 0x10040 → s.lease.openL = true → ringActive h.ler = false →
        exec (.registerWrite t) s = out { h with ler := { h.ler with base := BitVec.ofNat 64 (wr h.ler.base.toNat / 4096 * 4096) } })
      ∧ (∀ k, regOf t = 0x10100 + 8 * k → k < 8 → s.lease.openL = true → h.bootCtl.toNat.testBit 63 = false →
        exec (.registerWrite t) s = out { h with bootRec := BitVec.ofNat 512 (h.bootRec.toNat
          - bits h.bootRec.toNat (64 * k + 63) (64 * k) * 2 ^ (64 * k)
          + wr (bits h.bootRec.toNat (64 * k + 63) (64 * k)) * 2 ^ (64 * k)) })
      ∧ (∀ v k, regOf t = 0x20000 + 16 * v + 8 * k → v < 2048 → k < 2 →
        exec (.registerWrite t) s = .next (flushPending { s with host := { h with
          msix := smapSet (BitVec.ofNat 128 (2 ^ 96)) h.msix v (BitVec.ofNat 128
            ((msixEntry s v).toNat - bits (msixEntry s v).toNat (64 * k + 63) (64 * k) * 2 ^ (64 * k)
              + wr (bits (msixEntry s v).toNat (64 * k + 63) (64 * k)) * 2 ^ (64 * k))) } }))
      ∧ (0x10000 ≤ regOf t → regOf t < 0x20000 → regOf t ≠ 0x10080 → s.lease.openL = false →
        exec (.registerWrite t) s = .next s)
      ∧ (regOf t ∈ [0x00, 0x08, 0x10, 0x18, 0x28, 0x40, 0x48, 0x50, 0x58, 0x60, 0x68, 0x70, 0x78, 0x80, 0x88, 0x90, 0xA0, 0xA8,
          0x100C0, 0x100C8, 0x100D0] → exec (.registerWrite t) s = .next s))
    ∧ (t.write = false → t.len = 8 →
      (t.off = 0x28 → exec (.registerSnapshotRead t) s = reply s h.refused.toNat)
      ∧ (t.off = 0x80 → exec (.registerSnapshotRead t) s = reply s (now s))
      ∧ (t.off = 0x100 → exec (.registerSnapshotRead t) s = reply s h.mqSq.toNat)
      ∧ (t.off = 0x110 → exec (.registerSnapshotRead t) s = reply s h.mqCtl.toNat)
      ∧ (t.off = 0x10080 → exec (.registerSnapshotRead t) s = reply s h.bar2.toNat)
      ∧ (t.off = 0x40 →
        let r := { s with host := { h with snapRdy := some (BitVec.ofNat 512 (readinessSummary s)) } }
        exec (.registerSnapshotRead t) s = reply r (bits (readinessSummary s % 2 ^ 512) 63 0))
      ∧ (∀ k z, t.off = 0x40 + 8 * k → 0 < k → k < 8 → h.snapRdy = some z →
        exec (.registerSnapshotRead t) s = reply s (bits z.toNat (64 * k + 63) (64 * k))))
    ∧ (t.write = false → t.len = 4 → t.off = 0x80 → exec (.registerSnapshotRead t) s = reply s (bits (now s) 31 0))
    ∧ (t.write = true → regOf t = 0x110 →
      let v := wr h.mqCtl.toNat
      let good := 7 ≤ bits v 60 57 ∧ bits v 60 57 ≤ 16 ∧ 7 ≤ bits v 56 53 ∧ bits v 56 53 ≤ 16 ∧ (v.testBit 52 = true ∨ bits v 51 32 = 0)
      let kept := bits v 60 21 * 2 ^ 21
      (h.mqCtl.toNat.testBit 62 = false → v.testBit 63 = true → good →
        exec (.mqEnable t) s = .next (setQp { s with host := { h with mqCtl := BitVec.ofNat 64 (kept + 2 ^ 63 + 2 ^ 62) } } 0
          (some (mqPair s v))))
      ∧ (h.mqCtl.toNat.testBit 62 = false → v.testBit 63 = true → ¬good →
        exec (.mqEnable t) s = out { h with mqCtl := BitVec.ofNat 64 (kept + 2 ^ 61) })
      ∧ (∀ q, h.mqCtl.toNat.testBit 62 = true → h.mqCtl.toNat.testBit 63 = true → v.testBit 63 = false → getQp s 0 = some q →
        let r := { s with host := { h with mqCtl := BitVec.ofNat 64 (h.mqCtl.toNat &&& (2 ^ 64 - 1 - 2 ^ 63)) } }
        ((s.cmd.inflight.any fun c => c.origin = .qp 0 && !([0].contains c.id)) = true →
          exec (.mqDisable t) s = .next (setQp r 0 (some { q with stopped := true, deleting := [0] })))
        ∧ ((s.cmd.inflight.any fun c => c.origin = .qp 0 && !([0].contains c.id)) = false →
          exec (.mqDisable t) s = .next (setQp { s with host := { h with
            mqCtl := BitVec.ofNat 64 (h.mqCtl.toNat &&& (2 ^ 64 - 1 - 2 ^ 63) &&& (2 ^ 64 - 1 - 2 ^ 62)) } } 0 none))))
    ∧ (t.write = true → ∀ lease r, (regOf t = 0x148 ∧ lease = false ∧ r = h.mer) ∨
        (regOf t = 0x10048 ∧ lease = true ∧ r = h.ler ∧ s.lease.openL = true) →
      let v := wr r.ctl.toNat
      let good := 7 ≤ bits v 60 57 ∧ bits v 60 57 ≤ 16 ∧ (v.testBit 56 = true ∨ bits v 55 36 = 0)
      let kept := bits v 60 25 * 2 ^ 25
      (r.ctl.toNat.testBit 62 = false → v.testBit 63 = true → good →
        exec (.eventRingEnable t) s = .next (ringReport (setRing s lease { r with
          ctl := BitVec.ofNat 64 (kept + 2 ^ 63 + 2 ^ 62), head := 0, tail := 0, full := false, phase := true, seq := 1 }) lease))
      ∧ (r.ctl.toNat.testBit 62 = false → v.testBit 63 = true → ¬good →
        exec (.eventRingEnable t) s = .next (setRing s lease { r with ctl := BitVec.ofNat 64 (kept + 2 ^ 61) }))
      ∧ (r.ctl.toNat.testBit 62 = true → v.testBit 63 = false →
        exec (.eventRingDisable t) s = .next (setRing s lease { r with
          ctl := r.ctl &&& BitVec.ofNat 64 (2 ^ 64 - 1 - 2 ^ 63 - 2 ^ 62) })))

/-- 21_registers.md, 14_command_interface.md: A submission doorbell in range moves the pair's tail and puts the entries it
announces in the pair's ring, from where the command processor takes them one at a time; a completion or event ring head doorbell
frees the entries before it, all of a full ring's where it equals the tail (the model's choice, log entry 121), and ends its
vector's outstanding state; one out of range is an error event, or nothing for a ring, and moves nothing. The bootstrap doorbell
creates the lease's first pair, or answers why not (the record first, then room in the audit log and the pair's number, then other
pairs), and leaves its audit entry. -/
def Obligations.DoorbellsComplete : Prop :=
  ∀ (s : State) (t : TlpIn), access0 s t = .admitted → t.write = true →
    let v := fromLe t.data % 65536
    let quiet := fun (r : State) (vec : Nat) => { r with host := { r.host with outst := smapSet false r.host.outst vec false } }
    (0x100000 ≤ t.off → t.off < 0x200000 → t.off % 8 = 0 → ∀ q, getQp s ((t.off - 0x100000) / 0x1000) = some q →
      let n := (t.off - 0x100000) / 0x1000
      let err := Host.Outcome.next (ringEvent s (q.role = .tenant)
        ⟨0x0011, fuidOf s (uidOf .hostIf), epochOf s .hostIf, 0, 1, n + v * 2 ^ 16⟩)
      (∀ fs, t.off % 0x1000 = 0 →
        exec (.sqTailDoorbell t fs) s = if v < 2 ^ q.sqlog then .next (setQp s n (some { q with sqTail := v, ring := q.ring ++ fs }))
          else err)
      ∧ (t.off % 0x1000 = 8 →
        exec (.cqHeadDoorbell t) s =
          if v < 2 ^ q.cqlog ∧ (q.cqFull = true ∨
              (v + 2 ^ q.cqlog - q.cqHead) % 2 ^ q.cqlog ≤ (q.cqTail + 2 ^ q.cqlog - q.cqHead) % 2 ^ q.cqlog) then
            .next (quiet (setQp s n (some { q with cqHead := v, cqFull := false })) q.vec)
          else err))
    ∧ (t.off = 0x150 ∨ (t.off = 0x10050 ∧ s.lease.openL = true) →
      let lease := decide (t.off = 0x10050)
      let r := ringOf s lease
      let size := 2 ^ bits r.ctl.toNat 60 57
      let moved := quiet (setRing s lease { r with head := v, full := false }) (bits r.ctl.toNat 35 25)
      let good := v < size ∧ (r.full = true ∨ (v + size - r.head) % size ≤ (r.tail + size - r.head) % size)
      (r.ctl.toNat.testBit 62 = true → good →
        exec (.eventRingHeadDoorbell t) s = .next (if lease = true ∧ s.host.tdi ≠ .run then moved else ringReport moved lease))
      ∧ (r.ctl.toNat.testBit 62 = false ∨ ¬good → exec (.eventRingHeadDoorbell t) s = .next s))
    ∧ (t.off = 0x10140 → t.len = 8 → s.lease.openL = true → (fromLe t.data).testBit 63 = true →
      let p := s.host.bootRec.toNat
      let n := bits p 511 504
      let audit := fun (r : State) (st : Nat) => Host.Outcome.next (auditPut
        { r with host := { r.host with bootCtl := BitVec.ofNat 64 (st * 2 ^ 48 + 2 ^ 47) } } 0x0002 3 0 true { AuditPriv.zero with
          qpn := n, opcode := 0x0110, status := st, target := uidOf .hostIf
          pdigest := BitVec.ofNat 256 ((Config.sha384 (leBytes 64 p)).toNat >>> 128) })
      (checkQueueRecord p ≠ [] → exec (.bootstrapGo t) s = audit s stBadParam)
      ∧ (checkQueueRecord p = [] → auditRoom s 1 = false ∨ (getQp s n).isSome = true → exec (.bootstrapGo t) s = audit s stNoResource)
      ∧ (checkQueueRecord p = [] → auditRoom s 1 = true → getQp s n = none → tenantPairs s ≠ [] →
        exec (.bootstrapGo t) s = audit s stBadParam)
      ∧ (checkQueueRecord p = [] → auditRoom s 1 = true → getQp s n = none → tenantPairs s = [] →
        exec (.bootstrapGo t) s = audit (setQp s n (some (pairOf p .tenant))) stOk))

/-! ### What every command keeps -/

/-- 95_what_each_step_holds.md, 00_scope.md: For every command and event and every state exec answers a next state, and every
state is safe for any number of steps: no run faults and none is refused. -/
def Obligations.EveryRunGoesOn : Prop :=
  (∀ (i : Instr) (s : State), ∃ t, exec i s = .next t) ∧ ∀ (n : Nat) (s : State), safeFor n s

/-- 95_what_each_step_holds.md: Where exec of any command answers a next state, the queue of that state is the queue it was
given. -/
def Obligations.CommandsKeepTheQueue : Prop :=
  ∀ (i : Instr) (s t : State), exec i s = .next t → t.pending = s.pending

/-- 09_memory_model.md, 12_memory_system.md: A command or event that is none of those named as storing leaves the stored bytes,
tags, keys and marks of poison as they were (an error that a read meets stands in the record of errors, log entry 107), and every
byte reads as before, a byte of HBM provided its line's key generation is unchanged. -/
def Obligations.CommandsThatStoreNothingKeepMemory : Prop :=
  ∀ (i : Instr) (s t : State), storesToMemory i = false → exec i s = .next t →
    t.mem = s.mem ∧ ∀ a, isHbm a = false ∨ lineGen t (lineOf a) = lineGen s (lineOf a) → readByte t a = readByte s a

/-- 12_memory_system.md: For every state whose memory is in canonical form and every step that answers a next state, the next
state's memory is in canonical form. -/
def Obligations.EveryStepKeepsMemoryCanonical : Prop :=
  ∀ (s t : State), memWf s.mem = true → step s = .next t → memWf t.mem = true

/-- R37: At reset every unit and every group has epoch 1. Each increment of a unit's or group's epoch adds one, and from 0xFFFF
gives 1. Where no epoch held is 0, no step leaves one that is. -/
def Obligations.EpochsAreNeverZero : Prop :=
  (∀ e : BitVec 16, epochNext e = if e = 0xFFFF then 1 else e + 1)
    ∧ (∀ u : Sys2Proof.PUnit, (getUnit State.reset u).epoch = 1) ∧ (∀ g, groupEpoch State.reset g = 1)
    ∧ (∀ (s : State) (mgmt : Bool) (cause : Nat) (u : Sys2Proof.PUnit),
      (getUnit (bumpUnit s mgmt cause u) u).epoch = epochNext (getUnit s u).epoch)
    ∧ (∀ (s : State) (mgmt : Bool) (cause g : Nat), smapWf 1 s.groups.epoch = true →
      groupEpoch (bumpGroup s mgmt cause g) g = epochNext (groupEpoch s g))
    ∧ ∀ (s t : State), EpochsOk s → step s = .next t → EpochsOk t

/-- 20_debug_and_telemetry.md, 17_security_and_leasing.md: For every state in which an arming is held only while no lease is
open, and every step that answers a next state, the same holds of the next state (that ARM checks it at its effect is the
model's reading, log entry 102). -/
def Obligations.NoArmingBesideALease : Prop :=
  ∀ (s t : State), ArmOk s → step s = .next t → ArmOk t

/-- 02_self_timed_operation.md: While the count of the timebase and what is about to move it fit its 64 bits, no step but a loss
of power leaves an earlier time. -/
def Obligations.TimeNeverFalls : Prop :=
  ∀ (s t : State), TimeFits s → (∀ l, s.pending.head? ≠ some (.powerLoss l)) → step s = .next t → now s ≤ now t

/-! ### Memory -/

/-- 12_memory_system.md, 09_memory_model.md: In a memory of canonical form a number written over n bytes reads back modulo
2^(8n), every byte outside them reads as before, whatever key its line was written under, and nothing but memory and its record of
errors changes. -/
def Obligations.WrittenBytesReadBack : Prop :=
  ∀ (s : State) (a n v : Nat), memWf s.mem = true →
    readNat (writeNat s a n v) a n = v % 2 ^ (8 * n)
    ∧ (∀ b, b < a ∨ a + n ≤ b → readByte (writeNat s a n v) b = readByte s b)
    ∧ ∃ e, writeNat s a n v = { s with mem := (writeNat s a n v).mem, ecc := e }

/-- 08_core_programming.md, 09_memory_model.md: Each store instruction that issues leaves every byte outside its own, at the
place of x[RS1] + IMM, every register but FLADD's destination, every other core, and the units, commands, lease and host
interface as they were. -/
def Obligations.StoresChangeOnlyTheirBytes : Prop :=
  ∀ (s t : State) (c : Fin 192) (w : CoreWord) (p : Nat),
    let a := (xr (getCore s c) w.rs1 + w.imm).toNat
    let nl := if ctlBits w 14 7 = 0 then typeLanes (ctlBits w 3 0) else ctlBits w 14 7
    let same := fun (n : Nat) => (∀ b, b < p ∨ p + n ≤ b → readByte t b = readByte s b)
      ∧ (∀ d, d ≠ c → getCore t d = getCore s d) ∧ t.units = s.units ∧ t.cmd = s.cmd ∧ t.lease = s.lease ∧ t.host = s.host
    let kept := ∀ r, vr (getCore t c) r = vr (getCore s c) r
    memWf s.mem = true →
    (Issues s c 0x15 ⟨0, 31, 31, 0, 3, immAll⟩ w → a % 2 ^ ctlBits w 1 0 = 0 → coreRange c a (2 ^ ctlBits w 1 0) = some p →
      exec (.st c w) s = .next t → same (2 ^ ctlBits w 1 0) ∧ (∀ r, xr (getCore t c) r = xr (getCore s c) r) ∧ kept)
    ∧ (Issues s c 0x51 ⟨0, 31, 31, 0, 0x7FFF, immAll⟩ w → ctlBits w 3 0 ≤ 7 → rmFieldOk (ctlBits w 6 4) = true →
      ctlBits w 14 7 ≤ typeLanes (ctlBits w 3 0) → a % (typeBits (ctlBits w 3 0) / 8) = 0 →
      coreRange c a (nl * (typeBits (ctlBits w 3 0) / 8)) = some p →
      exec (.vst c w) s = .next t →
        same (nl * (typeBits (ctlBits w 3 0) / 8)) ∧ (∀ r, xr (getCore t c) r = xr (getCore s c) r) ∧ kept)
    ∧ (Issues s c 0x20 ⟨0, 31, 31, 0, 0, immAll⟩ w → flagAt c a = some p →
      exec (.flset c w) s = .next t → same 8 ∧ (∀ r, xr (getCore t c) r = xr (getCore s c) r) ∧ kept)
    ∧ (Issues s c 0x22 ⟨31, 31, 31, 0, 0, immAll⟩ w → flagAt c a = some p → anyPoison s p 8 = false →
      exec (.fladd c w) s = .next t → same 8 ∧ (∀ r, r ≠ w.rd → xr (getCore t c) r = xr (getCore s c) r) ∧ kept)

/-! ### Encodings and what core instructions leave unchanged -/

/-- 08_core_programming.md: Every core instruction's word decodes to it, with every operand at every value, and every 128-bit
word that decodes to an instruction is that instruction's word. The row of a CSR access is its mode, CTL[13:12]; the timeout of
FLWAIT shares FLWAIT's word. -/
def Obligations.CoreInstructionsAndTheirWordsAgree : Prop :=
  (∀ (i : Instr) (c : Fin 192) (n : Nat), coreBits i = some (c, n) → (∀ d w, i ≠ .flwaitTimeout d w) →
    (∀ d w, i = .csrRead d w → ctlBits w 13 12 = 0) → (∀ d w, i = .csrWrite d w → ctlBits w 13 12 = 1) →
    (∀ d w, i = .csrSet d w → ctlBits w 13 12 = 2) → (∀ d w, i = .csrClear d w → ctlBits w 13 12 = 3) →
    coreInstr c n = some i)
  ∧ (∀ (i : Instr) (c : Fin 192) (n : Nat), n < 2 ^ 128 → coreInstr c n = some i → coreBits i = some (c, n))

/-- R247: A fetched instruction whose unused fields are not zero or whose fields hold a reserved value stops its core, whatever
its guard predicate; one whose encoding is valid and whose guard predicate is off only moves the program counter on, whatever
its descriptors hold, beside what its fetch meets. A reserved opcode stops the core. -/
def Obligations.GuardPredicateAndEncodingAreChecked : Prop :=
  ∀ (s : State) (c : Fin 192) (n : Nat), coreRuns s c = true → fetchWord s c = .word n →
    (∀ i, coreInstr c n = some i →
      let w := coreWordOf n
      (fieldsOk (fieldsUsed i) w = false ∨ valuesOk i = false → exec i s = .next (stopCore s c 1 0))
      ∧ (fieldsOk (fieldsUsed i) w = true → valuesOk i = true → pr (getCore s c) w.pred = w.pneg →
        exec i s = .next (modCore (fetchMet s c) c fun x => { x with pc := x.pc + 16 })))
    ∧ (∀ i m, coreInstr c n = none → coreInstr c m = some i → exec i s = .next (stopCore s c 1 0))

/-- R254: A core's loads, stores and flag instructions reach the scratchpad (also in its rank's window), the cluster's store and
the tenant part of the die's store at their local addresses, and nothing else; an address outside them, or not aligned to the
element's size, stops the core with an address fault for LD, ST, VLD, VST and the flag instructions. VLD and VST move NL elements
of TYPE, or every lane where NL is 0. -/
def Obligations.LoadsAndStoresReachTheStores : Prop :=
  (∀ (c : Fin 192) (a n : Nat), 0 < n →
    let own := 0x1000000 + c % 8 * 0x800000
    coreRange c a n =
      if a + n ≤ 0x500000 then some (scratchAt c + a)
      else if own ≤ a ∧ a + n ≤ own + 0x500000 then some (scratchAt c + (a - own))
      else if 0x10000000 ≤ a ∧ a + n ≤ 0x12800000 then some (clusterStoreAt (c / 8) + (a - 0x10000000))
      else if 0x20000000 ≤ a ∧ a + n ≤ 0x23000000 then some (dieStoreAt (c / 96) + (a - 0x20000000))
      else none)
  ∧ ∀ (s : State) (c : Fin 192) (w : CoreWord),
    let x := getCore s c
    let a := (xr x w.rs1 + w.imm).toNat
    let n := 2 ^ ctlBits w 1 0
    let ty := ctlBits w 3 0
    let b := typeBits ty / 8
    let nl := if ctlBits w 14 7 = 0 then typeLanes ty else ctlBits w 14 7
    let vok := ty ≤ 7 ∧ rmFieldOk (ctlBits w 6 4) = true ∧ ctlBits w 14 7 ≤ typeLanes ty
    let out := Host.Outcome.next (stopCore s c 2 a)
    let uld : FieldUse := ⟨31, 31, 0, 0, 0xFFFF, immAll⟩
    let ust : FieldUse := ⟨0, 31, 31, 0, 0x7FFF, immAll⟩
    (a % n ≠ 0 ∨ coreRange c a n = none →
      (Issues s c 0x14 ⟨31, 31, 0, 0, 7, immAll⟩ w → exec (.ld c w) s = out)
      ∧ (Issues s c 0x15 ⟨0, 31, 31, 0, 3, immAll⟩ w → exec (.st c w) s = out))
    ∧ (a % 8 ≠ 0 ∨ coreRange c a 8 = none →
      (Issues s c 0x20 ⟨0, 31, 31, 0, 0, immAll⟩ w → exec (.flset c w) s = out)
      ∧ (Issues s c 0x21 ⟨31, 31, 31, 31, 3, immAll⟩ w → exec (.flwait c w) s = out ∧ exec (.flwaitTimeout c w) s = out)
      ∧ (Issues s c 0x22 ⟨31, 31, 31, 0, 0, immAll⟩ w → exec (.fladd c w) s = out))
    ∧ (vok →
      (Starts s c 1 0x50 uld w → a % b ≠ 0 ∨ coreRange c a ((if ctlBit w 15 then 1 else nl) * b) = none → exec (.vld c w) s = out)
      ∧ (Starts s c 1 0x51 ust w → a % b ≠ 0 ∨ coreRange c a (nl * b) = none → exec (.vst c w) s = out)
      ∧ (∀ p, Starts s c 1 0x50 uld w → ctlBit w 15 = false → a % b = 0 → coreRange c a (nl * b) = some p →
        blocked s c [⟨p, nl * b⟩] [] = false → anyPoison s p (nl * b) = false →
        ∃ t, exec (.vld c w) s = .next t
          ∧ (∀ i, i < nl → elemAt (8 * b) (vr (getCore t c) w.rd) i = readNat s (p + i * b) b)
          ∧ ∀ i, nl ≤ i → i < typeLanes ty → elemAt (8 * b) (vr (getCore t c) w.rd) i = elemAt (8 * b) (vr x w.rd) i)
      ∧ (∀ p, memWf s.mem = true → Starts s c 1 0x51 ust w → a % b = 0 → coreRange c a (nl * b) = some p →
        blocked s c [] [⟨p, nl * b⟩] = false →
        ∃ t, exec (.vst c w) s = .next t
          ∧ (∀ i, i < nl → readNat t (p + i * b) b = elemAt (8 * b) (vr x w.rs2) i)
          ∧ ∀ d, d < p ∨ p + nl * b ≤ d → readByte t d = readByte s d))

/-- R109: A CSR access whose result for RM is 5, 6 or 7 leaves RM of the scalar or vector FCSR unchanged, in each writing mode;
every scalar floating-point and vector instruction whose rounding field is 5 or 6 stops its core as illegal. -/
def Obligations.ReservedRoundingCodesAreRefused : Prop :=
  (∀ (s : State) (c : Fin 192) (w : CoreWord),
    let n := ctlBits w 11 0
    let of := fun (x : CoreSt) => if n = 0 then x.fcsrS.toNat else x.fcsrV.toNat
    let old := of (getCore s c)
    let v := (xr (getCore s c) w.rs1).toNat
    let u : FieldUse := ⟨31, 31, 0, 0, 0x3FFF, 0⟩
    Issues s c 0x24 u w → n ≤ 1 → (n = 1 → vecFcsrHeld (getCore s c) = false) →
    (ctlBits w 13 12 = 1 → 5 ≤ bits v 7 5 →
      ∃ t, exec (.csrWrite c w) s = .next t ∧ bits (of (getCore t c)) 7 5 = bits old 7 5)
    ∧ (ctlBits w 13 12 = 2 → 5 ≤ bits (old ||| v) 7 5 →
      ∃ t, exec (.csrSet c w) s = .next t ∧ bits (of (getCore t c)) 7 5 = bits old 7 5)
    ∧ (ctlBits w 13 12 = 3 → 5 ≤ bits (old &&& (2 ^ 64 - 1 - v)) 7 5 →
      ∃ t, exec (.csrClear c w) s = .next t ∧ bits (of (getCore t c)) 7 5 = bits old 7 5))
  ∧ ∀ (s : State) (c : Fin 192) (n : Nat) (i : Instr), coreRuns s c = true → fetchWord s c = .word n → coreInstr c n = some i →
    let w := coreWordOf n
    let o := n / 2 ^ 120
    (0x28 ≤ o ∧ o ≤ 0x30) ∨ (0x50 ≤ o ∧ o ≤ 0x5F) → ctlBits w 6 4 = 5 ∨ ctlBits w 6 4 = 6 →
    exec i s = .next (stopCore s c 1 0)

/-- R251: ADD, SUB and MUL wrap modulo 2^64 on x registers, VADD, VSUB, VMUL, VFMA and the sum of VRED modulo 2^32 on I32 lanes,
and these and the other I32 forms leave both FCSRs as they were. -/
def Obligations.IntegerArithmeticWraps : Prop :=
  ∀ (s : State) (c : Fin 192) (w : CoreWord),
    let x := getCore s c
    let a := (xr x w.rs1).toNat
    let b := (if ctlBit w 0 then w.imm else xr x w.rs2).toNat
    let u : FieldUse := if ctlBit w 0 then ⟨31, 31, 0, 0, 1, immAll⟩ else ⟨31, 31, 31, 0, 1, 0⟩
    let quiet := fun (t : State) => (getCore t c).fcsrS = x.fcsrS ∧ (getCore t c).fcsrV = x.fcsrV
    let gives := fun (r : Res) (v : Nat) => ∃ t, r = .next t ∧ quiet t ∧ (w.rd ≠ 0 → (xr (getCore t c) w.rd).toNat = v % 2 ^ 64)
    let nl := if ctlBits w 14 7 = 0 then 64 else ctlBits w 14 7
    let ln := fun (r : Fin 32) (i : Nat) => elemAt 32 (vr x r) i
    let lanes := fun (r : Res) (f : Nat → Nat) => ∃ t, r = .next t ∧ quiet t ∧
      ∀ i, i < nl → elemAt 32 (vr (getCore t c) w.rd) i = f i % 2 ^ 32
    let u2 : FieldUse := ⟨31, 31, 31, 0, 0x7FFF, 0⟩
    (Issues s c 0x01 u w → gives (exec (.add c w) s) (a + b))
    ∧ (Issues s c 0x02 u w → gives (exec (.sub c w) s) (a + (2 ^ 64 - b)))
    ∧ (Issues s c 0x03 u w → gives (exec (.mul c w) s) (a * b))
    ∧ (ctlBits w 3 0 = 4 → rmFieldOk (ctlBits w 6 4) = true → ctlBits w 14 7 ≤ 64 →
      (Starts s c 1 0x53 u2 w → lanes (exec (.vadd c w) s) fun i => ln w.rs1 i + ln w.rs2 i)
      ∧ (Starts s c 1 0x54 u2 w → lanes (exec (.vsub c w) s) fun i => ln w.rs1 i + (2 ^ 32 - ln w.rs2 i))
      ∧ (Starts s c 1 0x55 u2 w → lanes (exec (.vmul c w) s) fun i => ln w.rs1 i * ln w.rs2 i)
      ∧ (Starts s c 1 0x56 ⟨31, 31, 31, 31, 0x7FFF, 0⟩ w →
        lanes (exec (.vfma c w) s) fun i => ln w.rs1 i * ln w.rs2 i + ln w.rs3 i)
      ∧ (Starts s c 1 0x57 u2 w → ∃ t, exec (.vdiv c w) s = .next t ∧ quiet t)
      ∧ (Starts s c 1 0x58 ⟨31, 31, 0, 0, 0x7FFF, 0⟩ w → ∃ t, exec (.vsqrt c w) s = .next t ∧ quiet t)
      ∧ (Starts s c 1 0x59 ⟨31, 31, 31, 0, 0xFFFF, 0⟩ w → ∃ t, exec (.vminmax c w) s = .next t ∧ quiet t)
      ∧ (Starts s c 1 0x5F ⟨31, 31, 0, 0, 0x1FFFF, 0⟩ w → ctlBits w 16 15 ≤ 2 → ∃ t, exec (.vred c w) s = .next t ∧ quiet t
        ∧ (ctlBits w 16 15 = 0 → elemAt 32 (vr (getCore t c) w.rd) 0 = ((List.range nl).map (ln w.rs1)).sum % 2 ^ 32)))

/-- R250: For FCMP and VCMP: EQ, NE and UN raise NV for a signalling NaN alone, LT, LE, GT and GE for any NaN; with a NaN
operand only NE and UN hold; on I32 lanes COND 0 to 5 compare as signed integers and COND 6 and above stops the core. -/
def Obligations.ComparisonsTreatNaNsAsStated : Prop :=
  ∀ (s : State) (c : Fin 192) (w : CoreWord),
    let x := getCore s c
    let nan := fun (ty v : Nat) => 2 ^ (typeFmt ty).fb * (2 ^ (typeFmt ty).eb - 1) < v % 2 ^ (typeBits ty - 1)
    let sig := fun (ty v : Nat) => nan ty v ∧ v / 2 ^ ((typeFmt ty).fb - 1) % 2 = 0
    let quiet := fun (k : Nat) => k = 0 ∨ k = 1 ∨ k = 6
    let nv := fun (ty k v u : Nat) => if quiet k then sig ty v ∨ sig ty u else nan ty v ∨ nan ty u
    (Issues s c 0x2F ⟨7, 31, 31, 0, 0x3FF, 0⟩ w → ctlBits w 3 0 ≤ 3 → rmFieldOk (ctlBits w 6 4) = true → ctlBits w 9 7 ≤ 6 →
      let ty := ctlBits w 3 0
      let k := ctlBits w 9 7
      let v := (xr x w.rs1).toNat % 2 ^ typeBits ty
      let u := (xr x w.rs2).toNat % 2 ^ typeBits ty
      ∃ t, exec (.fcmp c w) s = .next t
        ∧ (nv ty k v u → (getCore t c).fcsrS = x.fcsrS ||| 0x10) ∧ (¬nv ty k v u → (getCore t c).fcsrS = x.fcsrS)
        ∧ (nan ty v ∨ nan ty u → predField w.rd ≠ 0 → (pr (getCore t c) (predField w.rd) = true ↔ k = 1 ∨ k = 6)))
    ∧ (Starts s c 1 0x5A ⟨31, 31, 31, 0, 0x3FFFF, 0⟩ w → rmFieldOk (ctlBits w 6 4) = true →
      ctlBits w 14 7 ≤ typeLanes (ctlBits w 3 0) →
      let ty := ctlBits w 3 0
      let k := ctlBits w 17 15
      let nl := if ctlBits w 14 7 = 0 then typeLanes ty else ctlBits w 14 7
      let ln := fun (r : Fin 32) (i : Nat) => elemAt (typeBits ty) (vr x r) i
      (ty ≤ 3 → k ≤ 6 → ∃ t, exec (.vcmp c w) s = .next t
        ∧ ((∃ i, i < nl ∧ nv ty k (ln w.rs1 i) (ln w.rs2 i)) → (getCore t c).fcsrV = x.fcsrV ||| 0x10)
        ∧ ((∀ i, i < nl → ¬nv ty k (ln w.rs1 i) (ln w.rs2 i)) → (getCore t c).fcsrV = x.fcsrV)
        ∧ ∀ i, i < nl → nan ty (ln w.rs1 i) ∨ nan ty (ln w.rs2 i) →
          elemAt (typeBits ty) (vr (getCore t c) w.rd) i = if k = 1 ∨ k = 6 then 2 ^ typeBits ty - 1 else 0)
      ∧ (ty = 4 → 6 ≤ k → exec (.vcmp c w) s = .next (stopCore s c 1 0))
      ∧ (ty = 4 → k ≤ 5 → ∃ t, exec (.vcmp c w) s = .next t ∧ (getCore t c).fcsrV = x.fcsrV ∧ ∀ i, i < nl →
          let v := (BitVec.ofNat 32 (ln w.rs1 i)).toInt
          let u := (BitVec.ofNat 32 (ln w.rs2 i)).toInt
          elemAt 32 (vr (getCore t c) w.rd) i = if (k = 0 ∧ v = u) ∨ (k = 1 ∧ v ≠ u) ∨ (k = 2 ∧ v < u) ∨ (k = 3 ∧ v ≤ u)
            ∨ (k = 4 ∧ u < v) ∨ (k = 5 ∧ u ≤ v) then 2 ^ 32 - 1 else 0))

/-- 08_core_programming.md: Each core instruction that only works on registers (0x01 to 0x11, branches, scalar floating point,
vector arithmetic to VRED and VACC), with a valid encoding, a vector instruction where its engine, its queue and the tracker have room
and VACC where its tile is free, completes and leaves every other register, the accumulators, held rows, DMA entries and verdicts of its core, every other
core, memory and every other part of the device as they were, but the record of errors that their fetch meets. -/
def Obligations.RegisterInstructionsFrame : Prop :=
  ∀ (s : State) (c : Fin 192) (n : Nat) (i : Instr), coreRuns s c = true → fetchWord s c = .word n → coreInstr c n = some i →
    let w := coreWordOf n
    let o := n / 2 ^ 120
    fieldsOk (fieldsUsed i) w = true → valuesOk i = true →
    (0x52 ≤ o → (engQueue (getCore s c) 1).length < queueCap 1 ∧ trackerFull c (getCore s c) 1 = false
      ∧ (engQueue (getCore s c) 1).any (fun q => sharePipe q.opc o) = false) →
    (o = 0x52 → blocked s c [accRng (ctlBits w 17 15)] [] = false) →
    ∃ t, exec i s = .next t ∧
      ((1 ≤ o ∧ o ≤ 0x0A → CoreFrame s t c [w.rd] [] [] false false)
      ∧ (o = 0x10 ∨ o = 0x11 → CoreFrame s t c [] [predField w.rd] [] false false)
      ∧ (o = 0x18 ∨ o = 0x1A → CoreFrame s t c [] [] [] false false)
      ∧ (o = 0x19 → CoreFrame s t c [w.rd] [] [] false false)
      ∧ (0x28 ≤ o ∧ o ≤ 0x2E ∨ o = 0x30 → CoreFrame s t c [w.rd] [] [] true false)
      ∧ (o = 0x2F → CoreFrame s t c [] [predField w.rd] [] true false)
      ∧ (0x52 ≤ o ∧ o ≤ 0x5F → CoreFrame s t c [] [] [w.rd] false true))

/-! ### Names, reset and how commands end -/

/-- 01_architecture.md: Every unit's UID is below 2^32 and names it, and a number that names a unit is that unit's UID, so
unused fields are zero. -/
def Obligations.UidsNameTheirUnits : Prop :=
  (∀ u : Sys2Proof.PUnit, uidOf u < 2 ^ 32 ∧ unitOfUid (uidOf u) = some u)
    ∧ (∀ (n : Nat) (u : Sys2Proof.PUnit), unitOfUid n = some u → uidOf u = n)

/-- 03_number_formats.md, 04_matrix_arrays.md, 05_accumulation_and_quantisation.md, 19_power_and_thermal.md, 21_registers.md,
01_architecture.md: Right after power-on: FCSRs 0, accumulators and held rows +0 and no LOAD, no DMA entry and no verdict,
counters 0, epochs 1 and no group, the limits of their record, profile Vale and 0.70 V, ports down, no queue pair and no
command, no lease, no arming, no geometry and a correction factor of 1024, an unlocked timebase, MQ_CTL 0, the TDI unlocked, an
empty queue; memory in canonical form, no epoch 0, no arming beside a lease. -/
def Obligations.ResetLeavesTheStatedValues : Prop :=
  let s := State.reset
  (∀ c, let x := getCore s c
    x.fcsrS = 0 ∧ x.fcsrV = 0 ∧ x.acc = [] ∧ x.held = [] ∧ x.heldRec = none ∧ x.phase = .idle ∧ x.dma = [] ∧ x.pend = none
      ∧ ∀ e : Fin 4, (x.counts[e]).instrs = 0)
  ∧ (∀ u, (getUnit s u).epoch = 1) ∧ s.groups.tab = [] ∧ (∀ g, groupEpoch s g = 1)
  ∧ s.limits.pcap = 1200 ∧ s.limits.profok = 7 ∧ s.limits.defprof = 1 ∧ s.limits.tjderate = 100 ∧ s.limits.tjhyst = 3
  ∧ (∀ d : Fin 2, (s.dies[d]).profile = 1 ∧ (s.dies[d]).vcore = 700)
  ∧ (∀ p : Fin 32, (s.ports[p]).phase = .down) ∧ s.cmd.qps = [] ∧ s.cmd.inflight = []
  ∧ s.lease.openL = false ∧ s.lease.closing = none ∧ s.stopArm = none ∧ s.seq.geom = none ∧ s.seq.cf = 1024
  ∧ s.tb.locked = false ∧ s.tb.aligned = false ∧ s.host.mqCtl = 0 ∧ s.host.tdi = .unlocked
  ∧ s.pending = [] ∧ memWf s.mem = true ∧ EpochsOk s ∧ ArmOk s

/-- R479: A started command that completes its work after a DEADLINE that is not 0 is finished with ST_DEADLINE_MISSED at that
instant, and its results stand: memory and the sequence engine stay as they are. -/
def Obligations.LateCommandsMissTheirDeadline : Prop :=
  ∀ (s : State) (id st d : Nat) (c : CmdRec),
    findCmd s id = some c → c.phase ≠ .finished → c.phase ≠ .refused → c.startedAt.isSome = true → (∀ p i, c.origin ≠ .sub p i) →
    completing st = true → hDeadline c.hdr ≠ 0 → hDeadline c.hdr < now s →
    (finishCmd s id st d).mem = s.mem ∧ (finishCmd s id st d).seq = s.seq ∧
    ∃ k, findCmd (finishCmd s id st d) id = some k ∧ k.phase = .finished ∧ k.status = stDeadlineMissed ∧ k.finishedAt = now s

/-- 14_command_interface.md: A waiting command of one of 17 opcodes does not start under DL_ABANDON once its DEADLINE has come,
and does no work on a unit or a group whose epoch has moved on or wrapped since it was accepted: it ends with that status and
changes nothing else, but that QP_DELETE leaves its pair to go on. -/
def Obligations.CommandsThatMayNotStartEnd : Prop :=
  ∀ (s : State) (id op : Nat) (i : Instr) (c : CmdRec),
    let end_ := fun (st d : Nat) => Host.Outcome.next (if op = 0x0111 then keepPair (finishCmd s id st d) id else finishCmd s id st d)
    (i, op) ∈ ([(.mgmtSetLimits id, 0x0101), (.mgmtSetProfile id, 0x0102), (.mgmtSetIdentity id, 0x0105), (.mgmtFirmware id, 0x0106),
      (.qpCreate id, 0x0110), (.qpDelete id, 0x0111), (.memTest id, 0x0120), (.leaseOpen id, 0x0201), (.leaseClose id, 0x0202),
      (.memMap id, 0x0301), (.seqConfig id, 0x0501), (.fabRouteSet id, 0x0601), (.telemRead id, 0x0701), (.dumpCollect id, 0x0702),
      (.traceCtl id, 0x0704), (.auditRead id, 0x0705), (.groupDefine id, 0x0801)] : List (Instr × Nat)) →
    waiting s id op = some c → orderMet s c = true →
    (hAbandon c.hdr = true → hDeadline c.hdr ≤ now s → exec i s = end_ stDeadlineMissed 0)
    ∧ (∀ u, ¬(hAbandon c.hdr = true ∧ hDeadline c.hdr ≤ now s) → c.target = .unit u →
      c.epoch ≠ (getUnit s u).epoch ∨ c.acceptedAt < (getUnit s u).lastWrap →
      exec i s = end_ stStaleEpoch (epochOf s u))
    ∧ (∀ g, ¬(hAbandon c.hdr = true ∧ hDeadline c.hdr ≤ now s) → c.target = .group g →
      c.epoch ≠ groupEpoch s g ∨ c.acceptedAt < smapGet 0 s.groups.wrap g →
      exec i s = end_ stStaleEpoch (groupEpoch s g).toNat)

/-- R601, R586: LEASE_OPEN on the device ends ST_BAD_PARAM for a parameter out of range, else ST_NOT_READY while a lease is open
or closing, the device is not scrubbed, a queue pair 1 to 255 exists or a unit is fenced or resetting, else ST_OUT_OF_SERVICE
while a channel is out of service, else ST_NO_RESOURCE without room for 8,192 audit entries; nothing but the command's own end
changes. -/
def Obligations.LeaseOpenFailsInPrepare : Prop :=
  ∀ (s : State) (id : Nat) (c : CmdRec) (u : Sys2Proof.PUnit),
    let t := markStarted s id
    let p := paramNat c.params
    let good := leaseProfile c.params ≤ 2 ∧ s.limits.nextProfok.toNat.testBit (leaseProfile c.params) = true
      ∧ 1 ≤ leaseInjrate c.params ∧ leaseInjrate c.params ≤ 3200 ∧ bits p 1008 768 = 0
      ∧ (leaseMirror c.params = true → s.fab.ident.toNat.testBit 489 = true) ∧ onP384 (bits p 767 384) (bits p 383 0) = true
    let busy := s.lease.openL = true ∨ s.lease.closing.isSome = true ∨ s.lease.scrubbed = false ∨ tenantPairs s ≠ []
      ∨ ∃ v : Sys2Proof.PUnit, (getUnit s v).own = .fenced ∨ (getUnit s v).own = .resetting
    let lost := ∃ n : Fin 256, (getUnit s (.channel n)).own = .outOfService
    let fails := fun (st : Nat) => ∃ d, exec (.leaseOpen id) s = .next (finishCmd t id st d)
    Startable s id 0x0201 c u → blockedObj t (begun s c) = false →
    (¬good → fails stBadParam)
    ∧ (good → busy → fails stNotReady)
    ∧ (good → ¬busy → lost → fails stOutOfService)
    ∧ (good → ¬busy → ¬lost → auditRoom t 8192 = false → fails stNoResource)
end

