-- ==== Sys2Proof/Laws/Commands.lean ====
section
/-! SUPPORT. Laws of commands: what starting, running and finishing one does where nothing holds it. -/

namespace Sys2Proof.Machine

/-- A command that is waiting is in the table and accepted. -/
theorem findCmd_of_waiting {s : State} {id op : Nat} {c : CmdRec} (h : waiting s id op = some c) :
    findCmd s id = some c ∧ hOpcode c.hdr = op ∧ c.phase = .accepted := by
  unfold waiting at h
  cases hf : findCmd s id with
  | none => simp [hf] at h
  | some d =>
    simp only [hf] at h
    split at h
    · rename_i hd
      obtain rfl : d = c := Option.some.inj h
      exact ⟨rfl, hd⟩
    · exact absurd h (by simp)

/-- A command on a unit that may start starts. -/
theorem startCmd_startable {s : State} {id op : Nat} {c : CmdRec} {u : PUnit} (h : Startable s id op c u) :
    startCmd s id op = .go (markStarted s id) (begun s c) := by
  obtain ⟨h1, h2, h3, h4, h5, h6, h7, h8⟩ := h
  unfold startCmd
  have h9 : staleFor s (.unit u) c.epoch c.acceptedAt = false := by
    simp [staleFor, targetEpoch, targetWrap, memberEpoch, h5, Nat.not_lt.mpr h6]
  have h10 : ¬ ((baseState s u = .fenced ∨ baseState s u = .resetting) ∧ op ≠ 0x0202) := fun x => x.1.elim h7 h8
  simp only [h1, h2, h4, Bool.not_true, Bool.false_eq_true, if_false]
  rw [if_neg h3, h9]
  simp only [Bool.false_eq_true, if_false]
  rw [if_neg h10]
  simp [begun, h4]

/-- A command on a group that may start starts. -/
theorem startCmd_startableGroup {s : State} {id op g : Nat} {c : CmdRec} (h : StartableGroup s id op c g) :
    startCmd s id op = .go (markStarted s id) (begun s c) := by
  obtain ⟨h1, h2, h3, h4, h5, h6⟩ := h
  unfold startCmd
  have h9 : staleFor s (.group g) c.epoch c.acceptedAt = false := by
    simp [staleFor, targetEpoch, targetWrap, memberEpoch, h5, Nat.not_lt.mpr h6]
  simp only [h1, h2, h4, Bool.not_true, Bool.false_eq_true, if_false]
  rw [if_neg h3, h9]
  simp [begun, h4]

/-- A command on a unit runs its effect. -/
theorem runCmd_startable {s : State} {id op : Nat} {c : CmdRec} {u : PUnit} (f : State → CmdRec → PUnit → State)
    (h : Startable s id op c u) : runCmd s id op f = .next (f (markStarted s id) (begun s c) u) := by
  unfold runCmd
  rw [startCmd_startable h]
  have : (begun s c).target = .unit u := h.2.2.2.1
  simp only [this]

/-- The lower of a die's cap and thermal targets (R659). -/
def trimmedVcore (x : DiePace) : Nat :=
  min (max (profileVcore x.profile - x.trim) (trimFloor x.profile)) (max (profileVcore x.profile - x.derate) 550)

/-- The hold margin adds at most 20 mV to a die's target, and nothing above 850 mV. -/
theorem vcoreTarget_bounds (x : DiePace) (m : Nat) :
    vcoreTarget x m ≤ trimmedVcore x + 20 ∧ min 850 (trimmedVcore x) ≤ vcoreTarget x m := by
  unfold vcoreTarget trimmedVcore
  dsimp only
  split <;> omega

/-- A command on a group goes out to it. -/
theorem runCmd_startableGroup {s : State} {id op g : Nat} {c : CmdRec} (f : State → CmdRec → PUnit → State)
    (h : StartableGroup s id op c g) : runCmd s id op f = .next (fanCmd (markStarted s id) (begun s c) g) := by
  unfold runCmd
  rw [startCmd_startableGroup h]
  have : (begun s c).target = .group g := h.2.2.2.1
  simp only [this]

end Sys2Proof.Machine
end

