-- ==== Sys2Proof/Laws/Issue.lean ====
section
/-! SUPPORT. Laws of instruction issue: what `issue` answers where an instruction issues, and the fields of its word. -/

namespace Sys2Proof.Machine

theorem b2n_lt (b : Bool) : b2n b < 2 := by cases b <;> decide

/-- The low 120 bits of an instruction's word. -/
theorem wordLow_lt (w : CoreWord) : b2n w.pneg * 2 ^ 119 + w.pred.val * 2 ^ 116 + w.rd.val * 2 ^ 111 + w.rs1.val * 2 ^ 106
    + w.rs2.val * 2 ^ 101 + w.rs3.val * 2 ^ 96 + w.ctl.toNat * 2 ^ 64 + w.imm.toNat < 2 ^ 120 := by
  have := b2n_lt w.pneg
  have := w.pred.isLt
  have := w.rd.isLt
  have := w.rs1.isLt
  have := w.rs2.isLt
  have := w.rs3.isLt
  have := w.ctl.isLt
  have := w.imm.isLt
  omega

/-- OPC of an instruction's word (R246). -/
theorem wordBits_opc (o : Nat) (w : CoreWord) : wordBits o w / 2 ^ 120 = o := by
  have := wordLow_lt w
  unfold wordBits
  omega

/-- What `issue` answers where the instruction issues: what its body gives. -/
theorem issue_of_issues {o : Nat} {e : Fin 4} {u : FieldUse} {ok : Bool} {c : Fin 192} {w : CoreWord} {s : State}
    {body : CoreSt → CoreOut} (h : Issues s c o u w) (hk : opcKnown o = true) (hok : ok = true) :
    issue o e u ok c w s body = match body (getCore s c) with
      | .wait => .next s
      | .hold t => .next t
      | .queued t => .next (modCore (traceIssue t c e o (pcOffset (getCore s c))) c fun x => { x with pc := x.pc + 16 })
      | .poisoned t a => .next (stopCore t c 3 a)
      | .stop r a => .next (stopCore s c r a)
      | .done t => .next (retiredNext s t c e o)
      | .jump t pc => .next (retiredAt s t c e o pc)
      | .ended t => .next t := by
  obtain ⟨hr, hf, hu, hp⟩ := h
  unfold issue
  cases hw : fetchWord s c with
  | fault r a => rw [hw] at hf; exact hf.elim
  | wait => rw [hw] at hf; exact hf.elim
  | word n =>
    rw [hw] at hf
    subst hf
    subst hok
    have hp' : (pr (getCore s c) w.pred == w.pneg) = false := by simpa using hp
    simp only [hr, wordBits_opc, hk, hu, hp', Bool.not_true, Bool.and_true, Bool.false_eq_true, if_false, ne_eq, not_true_eq_false]
    cases body (getCore s c) <;> rfl

section
variable {o : Nat} {e : Fin 4} {u : FieldUse} {ok : Bool} {c : Fin 192} {w : CoreWord} {s t : State} {body : CoreSt → CoreOut}

/-- An instruction that issues and completes. -/
theorem issue_done (h : Issues s c o u w) (hk : opcKnown o = true) (hok : ok = true) (hb : body (getCore s c) = .done t) :
    issue o e u ok c w s body = .next (retiredNext s t c e o) := by
  rw [issue_of_issues h hk hok, hb]

/-- An instruction that issues and sets the program counter. -/
theorem issue_jump {pc : BitVec 64} (h : Issues s c o u w) (hk : opcKnown o = true) (hok : ok = true)
    (hb : body (getCore s c) = .jump t pc) : issue o e u ok c w s body = .next (retiredAt s t c e o pc) := by
  rw [issue_of_issues h hk hok, hb]

/-- An instruction that issues and stops its core. -/
theorem issue_stop {r a : Nat} (h : Issues s c o u w) (hk : opcKnown o = true) (hok : ok = true)
    (hb : body (getCore s c) = .stop r a) : issue o e u ok c w s body = .next (stopCore s c r a) := by
  rw [issue_of_issues h hk hok, hb]

/-- An instruction that issues and ends its core's part. -/
theorem issue_ended (h : Issues s c o u w) (hk : opcKnown o = true) (hok : ok = true) (hb : body (getCore s c) = .ended t) :
    issue o e u ok c w s body = .next t := by
  rw [issue_of_issues h hk hok, hb]

/-- A tile instruction that starts as it issues completes. -/
theorem issueTile_done {rngs : CoreSt → TileRngs} (h : Starts s c e o u w) (hk : opcKnown o = true) (hok : ok = true)
    (hb : body (getCore s c) = .done t) : issueTile o e u ok rngs c w s body = .next (retiredNext s t c e o) := by
  unfold issueTile
  refine issue_done h.1 hk hok ?_
  simp [h.2, hb]

end

end Sys2Proof.Machine
end

