-- ==== Sys2Proof/Laws/State.lean ====
section
/-! SUPPORT. Projections of the named updates of State: one lemma per field per update, so that no proof unfolds a record
update. -/

namespace Sys2Proof.Machine

@[simp] theorem emit_pending (s : State) (e : OutEv) : (emit s e).pending = s.pending := rfl
@[simp] theorem emit_out (s : State) (e : OutEv) : (emit s e).out = e :: s.out := rfl
@[simp] theorem emit_free (s : State) (e : OutEv) : (emit s e).free = s.free := rfl
@[simp] theorem emit_tb (s : State) (e : OutEv) : (emit s e).tb = s.tb := rfl
@[simp] theorem emit_pace (s : State) (e : OutEv) : (emit s e).pace = s.pace := rfl
@[simp] theorem emit_dies (s : State) (e : OutEv) : (emit s e).dies = s.dies := rfl
@[simp] theorem emit_limits (s : State) (e : OutEv) : (emit s e).limits = s.limits := rfl
@[simp] theorem emit_units (s : State) (e : OutEv) : (emit s e).units = s.units := rfl
@[simp] theorem emit_groups (s : State) (e : OutEv) : (emit s e).groups = s.groups := rfl
@[simp] theorem emit_ecc (s : State) (e : OutEv) : (emit s e).ecc = s.ecc := rfl
@[simp] theorem emit_mem (s : State) (e : OutEv) : (emit s e).mem = s.mem := rfl
@[simp] theorem emit_cores (s : State) (e : OutEv) : (emit s e).cores = s.cores := rfl
@[simp] theorem emit_clusters (s : State) (e : OutEv) : (emit s e).clusters = s.clusters := rfl
@[simp] theorem emit_channels (s : State) (e : OutEv) : (emit s e).channels = s.channels := rfl
@[simp] theorem emit_ports (s : State) (e : OutEv) : (emit s e).ports = s.ports := rfl
@[simp] theorem emit_doze (s : State) (e : OutEv) : (emit s e).doze = s.doze := rfl
@[simp] theorem emit_fab (s : State) (e : OutEv) : (emit s e).fab = s.fab := rfl
@[simp] theorem emit_seq (s : State) (e : OutEv) : (emit s e).seq = s.seq := rfl
@[simp] theorem emit_xl (s : State) (e : OutEv) : (emit s e).xl = s.xl := rfl
@[simp] theorem emit_cmd (s : State) (e : OutEv) : (emit s e).cmd = s.cmd := rfl
@[simp] theorem emit_host (s : State) (e : OutEv) : (emit s e).host = s.host := rfl
@[simp] theorem emit_lease (s : State) (e : OutEv) : (emit s e).lease = s.lease := rfl
@[simp] theorem emit_sec (s : State) (e : OutEv) : (emit s e).sec = s.sec := rfl
@[simp] theorem emit_audit (s : State) (e : OutEv) : (emit s e).audit = s.audit := rfl
@[simp] theorem emit_faults (s : State) (e : OutEv) : (emit s e).faults = s.faults := rfl
@[simp] theorem emit_rst (s : State) (e : OutEv) : (emit s e).rst = s.rst := rfl
@[simp] theorem emit_dumps (s : State) (e : OutEv) : (emit s e).dumps = s.dumps := rfl
@[simp] theorem emit_dumpCount (s : State) (e : OutEv) : (emit s e).dumpCount = s.dumpCount := rfl
@[simp] theorem emit_stopArm (s : State) (e : OutEv) : (emit s e).stopArm = s.stopArm := rfl
@[simp] theorem emit_sb (s : State) (e : OutEv) : (emit s e).sb = s.sb := rfl
@[simp] theorem emit_straps (s : State) (e : OutEv) : (emit s e).straps = s.straps := rfl

@[simp] theorem putCore_pending (s : State) (c : Fin 192) (x : CoreSt) : (putCore s c x).pending = s.pending := rfl
@[simp] theorem putCore_out (s : State) (c : Fin 192) (x : CoreSt) : (putCore s c x).out = s.out := rfl
@[simp] theorem putCore_free (s : State) (c : Fin 192) (x : CoreSt) : (putCore s c x).free = s.free := rfl
@[simp] theorem putCore_tb (s : State) (c : Fin 192) (x : CoreSt) : (putCore s c x).tb = s.tb := rfl
@[simp] theorem putCore_pace (s : State) (c : Fin 192) (x : CoreSt) : (putCore s c x).pace = s.pace := rfl
@[simp] theorem putCore_dies (s : State) (c : Fin 192) (x : CoreSt) : (putCore s c x).dies = s.dies := rfl
@[simp] theorem putCore_limits (s : State) (c : Fin 192) (x : CoreSt) : (putCore s c x).limits = s.limits := rfl
@[simp] theorem putCore_units (s : State) (c : Fin 192) (x : CoreSt) : (putCore s c x).units = s.units := rfl
@[simp] theorem putCore_groups (s : State) (c : Fin 192) (x : CoreSt) : (putCore s c x).groups = s.groups := rfl
@[simp] theorem putCore_ecc (s : State) (c : Fin 192) (x : CoreSt) : (putCore s c x).ecc = s.ecc := rfl
@[simp] theorem putCore_mem (s : State) (c : Fin 192) (x : CoreSt) : (putCore s c x).mem = s.mem := rfl
@[simp] theorem putCore_cores (s : State) (c : Fin 192) (x : CoreSt) : (putCore s c x).cores = s.cores.set c x := rfl
@[simp] theorem putCore_clusters (s : State) (c : Fin 192) (x : CoreSt) : (putCore s c x).clusters = s.clusters := rfl
@[simp] theorem putCore_channels (s : State) (c : Fin 192) (x : CoreSt) : (putCore s c x).channels = s.channels := rfl
@[simp] theorem putCore_ports (s : State) (c : Fin 192) (x : CoreSt) : (putCore s c x).ports = s.ports := rfl
@[simp] theorem putCore_doze (s : State) (c : Fin 192) (x : CoreSt) : (putCore s c x).doze = s.doze := rfl
@[simp] theorem putCore_fab (s : State) (c : Fin 192) (x : CoreSt) : (putCore s c x).fab = s.fab := rfl
@[simp] theorem putCore_seq (s : State) (c : Fin 192) (x : CoreSt) : (putCore s c x).seq = s.seq := rfl
@[simp] theorem putCore_xl (s : State) (c : Fin 192) (x : CoreSt) : (putCore s c x).xl = s.xl := rfl
@[simp] theorem putCore_cmd (s : State) (c : Fin 192) (x : CoreSt) : (putCore s c x).cmd = s.cmd := rfl
@[simp] theorem putCore_host (s : State) (c : Fin 192) (x : CoreSt) : (putCore s c x).host = s.host := rfl
@[simp] theorem putCore_lease (s : State) (c : Fin 192) (x : CoreSt) : (putCore s c x).lease = s.lease := rfl
@[simp] theorem putCore_sec (s : State) (c : Fin 192) (x : CoreSt) : (putCore s c x).sec = s.sec := rfl
@[simp] theorem putCore_audit (s : State) (c : Fin 192) (x : CoreSt) : (putCore s c x).audit = s.audit := rfl
@[simp] theorem putCore_faults (s : State) (c : Fin 192) (x : CoreSt) : (putCore s c x).faults = s.faults := rfl
@[simp] theorem putCore_rst (s : State) (c : Fin 192) (x : CoreSt) : (putCore s c x).rst = s.rst := rfl
@[simp] theorem putCore_dumps (s : State) (c : Fin 192) (x : CoreSt) : (putCore s c x).dumps = s.dumps := rfl
@[simp] theorem putCore_dumpCount (s : State) (c : Fin 192) (x : CoreSt) : (putCore s c x).dumpCount = s.dumpCount := rfl
@[simp] theorem putCore_stopArm (s : State) (c : Fin 192) (x : CoreSt) : (putCore s c x).stopArm = s.stopArm := rfl
@[simp] theorem putCore_sb (s : State) (c : Fin 192) (x : CoreSt) : (putCore s c x).sb = s.sb := rfl
@[simp] theorem putCore_straps (s : State) (c : Fin 192) (x : CoreSt) : (putCore s c x).straps = s.straps := rfl

@[simp] theorem modCore_pending (s : State) (c : Fin 192) (f : CoreSt → CoreSt) : (modCore s c f).pending = s.pending := rfl
@[simp] theorem modCore_out (s : State) (c : Fin 192) (f : CoreSt → CoreSt) : (modCore s c f).out = s.out := rfl
@[simp] theorem modCore_free (s : State) (c : Fin 192) (f : CoreSt → CoreSt) : (modCore s c f).free = s.free := rfl
@[simp] theorem modCore_tb (s : State) (c : Fin 192) (f : CoreSt → CoreSt) : (modCore s c f).tb = s.tb := rfl
@[simp] theorem modCore_pace (s : State) (c : Fin 192) (f : CoreSt → CoreSt) : (modCore s c f).pace = s.pace := rfl
@[simp] theorem modCore_dies (s : State) (c : Fin 192) (f : CoreSt → CoreSt) : (modCore s c f).dies = s.dies := rfl
@[simp] theorem modCore_limits (s : State) (c : Fin 192) (f : CoreSt → CoreSt) : (modCore s c f).limits = s.limits := rfl
@[simp] theorem modCore_units (s : State) (c : Fin 192) (f : CoreSt → CoreSt) : (modCore s c f).units = s.units := rfl
@[simp] theorem modCore_groups (s : State) (c : Fin 192) (f : CoreSt → CoreSt) : (modCore s c f).groups = s.groups := rfl
@[simp] theorem modCore_ecc (s : State) (c : Fin 192) (f : CoreSt → CoreSt) : (modCore s c f).ecc = s.ecc := rfl
@[simp] theorem modCore_mem (s : State) (c : Fin 192) (f : CoreSt → CoreSt) : (modCore s c f).mem = s.mem := rfl
@[simp] theorem modCore_cores (s : State) (c : Fin 192) (f : CoreSt → CoreSt) : (modCore s c f).cores = s.cores.set c (f s.cores[c]) := rfl
@[simp] theorem modCore_clusters (s : State) (c : Fin 192) (f : CoreSt → CoreSt) : (modCore s c f).clusters = s.clusters := rfl
@[simp] theorem modCore_channels (s : State) (c : Fin 192) (f : CoreSt → CoreSt) : (modCore s c f).channels = s.channels := rfl
@[simp] theorem modCore_ports (s : State) (c : Fin 192) (f : CoreSt → CoreSt) : (modCore s c f).ports = s.ports := rfl
@[simp] theorem modCore_doze (s : State) (c : Fin 192) (f : CoreSt → CoreSt) : (modCore s c f).doze = s.doze := rfl
@[simp] theorem modCore_fab (s : State) (c : Fin 192) (f : CoreSt → CoreSt) : (modCore s c f).fab = s.fab := rfl
@[simp] theorem modCore_seq (s : State) (c : Fin 192) (f : CoreSt → CoreSt) : (modCore s c f).seq = s.seq := rfl
@[simp] theorem modCore_xl (s : State) (c : Fin 192) (f : CoreSt → CoreSt) : (modCore s c f).xl = s.xl := rfl
@[simp] theorem modCore_cmd (s : State) (c : Fin 192) (f : CoreSt → CoreSt) : (modCore s c f).cmd = s.cmd := rfl
@[simp] theorem modCore_host (s : State) (c : Fin 192) (f : CoreSt → CoreSt) : (modCore s c f).host = s.host := rfl
@[simp] theorem modCore_lease (s : State) (c : Fin 192) (f : CoreSt → CoreSt) : (modCore s c f).lease = s.lease := rfl
@[simp] theorem modCore_sec (s : State) (c : Fin 192) (f : CoreSt → CoreSt) : (modCore s c f).sec = s.sec := rfl
@[simp] theorem modCore_audit (s : State) (c : Fin 192) (f : CoreSt → CoreSt) : (modCore s c f).audit = s.audit := rfl
@[simp] theorem modCore_faults (s : State) (c : Fin 192) (f : CoreSt → CoreSt) : (modCore s c f).faults = s.faults := rfl
@[simp] theorem modCore_rst (s : State) (c : Fin 192) (f : CoreSt → CoreSt) : (modCore s c f).rst = s.rst := rfl
@[simp] theorem modCore_dumps (s : State) (c : Fin 192) (f : CoreSt → CoreSt) : (modCore s c f).dumps = s.dumps := rfl
@[simp] theorem modCore_dumpCount (s : State) (c : Fin 192) (f : CoreSt → CoreSt) : (modCore s c f).dumpCount = s.dumpCount := rfl
@[simp] theorem modCore_stopArm (s : State) (c : Fin 192) (f : CoreSt → CoreSt) : (modCore s c f).stopArm = s.stopArm := rfl
@[simp] theorem modCore_sb (s : State) (c : Fin 192) (f : CoreSt → CoreSt) : (modCore s c f).sb = s.sb := rfl
@[simp] theorem modCore_straps (s : State) (c : Fin 192) (f : CoreSt → CoreSt) : (modCore s c f).straps = s.straps := rfl

@[simp] theorem modCluster_pending (s : State) (k : Fin 24) (f : ClusterSt → ClusterSt) : (modCluster s k f).pending = s.pending := rfl
@[simp] theorem modCluster_out (s : State) (k : Fin 24) (f : ClusterSt → ClusterSt) : (modCluster s k f).out = s.out := rfl
@[simp] theorem modCluster_free (s : State) (k : Fin 24) (f : ClusterSt → ClusterSt) : (modCluster s k f).free = s.free := rfl
@[simp] theorem modCluster_tb (s : State) (k : Fin 24) (f : ClusterSt → ClusterSt) : (modCluster s k f).tb = s.tb := rfl
@[simp] theorem modCluster_pace (s : State) (k : Fin 24) (f : ClusterSt → ClusterSt) : (modCluster s k f).pace = s.pace := rfl
@[simp] theorem modCluster_dies (s : State) (k : Fin 24) (f : ClusterSt → ClusterSt) : (modCluster s k f).dies = s.dies := rfl
@[simp] theorem modCluster_limits (s : State) (k : Fin 24) (f : ClusterSt → ClusterSt) : (modCluster s k f).limits = s.limits := rfl
@[simp] theorem modCluster_units (s : State) (k : Fin 24) (f : ClusterSt → ClusterSt) : (modCluster s k f).units = s.units := rfl
@[simp] theorem modCluster_groups (s : State) (k : Fin 24) (f : ClusterSt → ClusterSt) : (modCluster s k f).groups = s.groups := rfl
@[simp] theorem modCluster_ecc (s : State) (k : Fin 24) (f : ClusterSt → ClusterSt) : (modCluster s k f).ecc = s.ecc := rfl
@[simp] theorem modCluster_mem (s : State) (k : Fin 24) (f : ClusterSt → ClusterSt) : (modCluster s k f).mem = s.mem := rfl
@[simp] theorem modCluster_cores (s : State) (k : Fin 24) (f : ClusterSt → ClusterSt) : (modCluster s k f).cores = s.cores := rfl
@[simp] theorem modCluster_clusters (s : State) (k : Fin 24) (f : ClusterSt → ClusterSt) : (modCluster s k f).clusters = s.clusters.set k (f s.clusters[k]) := rfl
@[simp] theorem modCluster_channels (s : State) (k : Fin 24) (f : ClusterSt → ClusterSt) : (modCluster s k f).channels = s.channels := rfl
@[simp] theorem modCluster_ports (s : State) (k : Fin 24) (f : ClusterSt → ClusterSt) : (modCluster s k f).ports = s.ports := rfl
@[simp] theorem modCluster_doze (s : State) (k : Fin 24) (f : ClusterSt → ClusterSt) : (modCluster s k f).doze = s.doze := rfl
@[simp] theorem modCluster_fab (s : State) (k : Fin 24) (f : ClusterSt → ClusterSt) : (modCluster s k f).fab = s.fab := rfl
@[simp] theorem modCluster_seq (s : State) (k : Fin 24) (f : ClusterSt → ClusterSt) : (modCluster s k f).seq = s.seq := rfl
@[simp] theorem modCluster_xl (s : State) (k : Fin 24) (f : ClusterSt → ClusterSt) : (modCluster s k f).xl = s.xl := rfl
@[simp] theorem modCluster_cmd (s : State) (k : Fin 24) (f : ClusterSt → ClusterSt) : (modCluster s k f).cmd = s.cmd := rfl
@[simp] theorem modCluster_host (s : State) (k : Fin 24) (f : ClusterSt → ClusterSt) : (modCluster s k f).host = s.host := rfl
@[simp] theorem modCluster_lease (s : State) (k : Fin 24) (f : ClusterSt → ClusterSt) : (modCluster s k f).lease = s.lease := rfl
@[simp] theorem modCluster_sec (s : State) (k : Fin 24) (f : ClusterSt → ClusterSt) : (modCluster s k f).sec = s.sec := rfl
@[simp] theorem modCluster_audit (s : State) (k : Fin 24) (f : ClusterSt → ClusterSt) : (modCluster s k f).audit = s.audit := rfl
@[simp] theorem modCluster_faults (s : State) (k : Fin 24) (f : ClusterSt → ClusterSt) : (modCluster s k f).faults = s.faults := rfl
@[simp] theorem modCluster_rst (s : State) (k : Fin 24) (f : ClusterSt → ClusterSt) : (modCluster s k f).rst = s.rst := rfl
@[simp] theorem modCluster_dumps (s : State) (k : Fin 24) (f : ClusterSt → ClusterSt) : (modCluster s k f).dumps = s.dumps := rfl
@[simp] theorem modCluster_dumpCount (s : State) (k : Fin 24) (f : ClusterSt → ClusterSt) : (modCluster s k f).dumpCount = s.dumpCount := rfl
@[simp] theorem modCluster_stopArm (s : State) (k : Fin 24) (f : ClusterSt → ClusterSt) : (modCluster s k f).stopArm = s.stopArm := rfl
@[simp] theorem modCluster_sb (s : State) (k : Fin 24) (f : ClusterSt → ClusterSt) : (modCluster s k f).sb = s.sb := rfl
@[simp] theorem modCluster_straps (s : State) (k : Fin 24) (f : ClusterSt → ClusterSt) : (modCluster s k f).straps = s.straps := rfl

@[simp] theorem setInflight_pending (s : State) (cs : List CmdRec) : (setInflight s cs).pending = s.pending := rfl
@[simp] theorem setInflight_out (s : State) (cs : List CmdRec) : (setInflight s cs).out = s.out := rfl
@[simp] theorem setInflight_free (s : State) (cs : List CmdRec) : (setInflight s cs).free = s.free := rfl
@[simp] theorem setInflight_tb (s : State) (cs : List CmdRec) : (setInflight s cs).tb = s.tb := rfl
@[simp] theorem setInflight_pace (s : State) (cs : List CmdRec) : (setInflight s cs).pace = s.pace := rfl
@[simp] theorem setInflight_dies (s : State) (cs : List CmdRec) : (setInflight s cs).dies = s.dies := rfl
@[simp] theorem setInflight_limits (s : State) (cs : List CmdRec) : (setInflight s cs).limits = s.limits := rfl
@[simp] theorem setInflight_units (s : State) (cs : List CmdRec) : (setInflight s cs).units = s.units := rfl
@[simp] theorem setInflight_groups (s : State) (cs : List CmdRec) : (setInflight s cs).groups = s.groups := rfl
@[simp] theorem setInflight_ecc (s : State) (cs : List CmdRec) : (setInflight s cs).ecc = s.ecc := rfl
@[simp] theorem setInflight_mem (s : State) (cs : List CmdRec) : (setInflight s cs).mem = s.mem := rfl
@[simp] theorem setInflight_cores (s : State) (cs : List CmdRec) : (setInflight s cs).cores = s.cores := rfl
@[simp] theorem setInflight_clusters (s : State) (cs : List CmdRec) : (setInflight s cs).clusters = s.clusters := rfl
@[simp] theorem setInflight_channels (s : State) (cs : List CmdRec) : (setInflight s cs).channels = s.channels := rfl
@[simp] theorem setInflight_ports (s : State) (cs : List CmdRec) : (setInflight s cs).ports = s.ports := rfl
@[simp] theorem setInflight_doze (s : State) (cs : List CmdRec) : (setInflight s cs).doze = s.doze := rfl
@[simp] theorem setInflight_fab (s : State) (cs : List CmdRec) : (setInflight s cs).fab = s.fab := rfl
@[simp] theorem setInflight_seq (s : State) (cs : List CmdRec) : (setInflight s cs).seq = s.seq := rfl
@[simp] theorem setInflight_xl (s : State) (cs : List CmdRec) : (setInflight s cs).xl = s.xl := rfl
@[simp] theorem setInflight_cmd (s : State) (cs : List CmdRec) : (setInflight s cs).cmd = { s.cmd with inflight := cs } := rfl
@[simp] theorem setInflight_host (s : State) (cs : List CmdRec) : (setInflight s cs).host = s.host := rfl
@[simp] theorem setInflight_lease (s : State) (cs : List CmdRec) : (setInflight s cs).lease = s.lease := rfl
@[simp] theorem setInflight_sec (s : State) (cs : List CmdRec) : (setInflight s cs).sec = s.sec := rfl
@[simp] theorem setInflight_audit (s : State) (cs : List CmdRec) : (setInflight s cs).audit = s.audit := rfl
@[simp] theorem setInflight_faults (s : State) (cs : List CmdRec) : (setInflight s cs).faults = s.faults := rfl
@[simp] theorem setInflight_rst (s : State) (cs : List CmdRec) : (setInflight s cs).rst = s.rst := rfl
@[simp] theorem setInflight_dumps (s : State) (cs : List CmdRec) : (setInflight s cs).dumps = s.dumps := rfl
@[simp] theorem setInflight_dumpCount (s : State) (cs : List CmdRec) : (setInflight s cs).dumpCount = s.dumpCount := rfl
@[simp] theorem setInflight_stopArm (s : State) (cs : List CmdRec) : (setInflight s cs).stopArm = s.stopArm := rfl
@[simp] theorem setInflight_sb (s : State) (cs : List CmdRec) : (setInflight s cs).sb = s.sb := rfl
@[simp] theorem setInflight_straps (s : State) (cs : List CmdRec) : (setInflight s cs).straps = s.straps := rfl

@[simp] theorem updCmd_pending (s : State) (id : Nat) (f : CmdRec → CmdRec) : (updCmd s id f).pending = s.pending := rfl
@[simp] theorem updCmd_out (s : State) (id : Nat) (f : CmdRec → CmdRec) : (updCmd s id f).out = s.out := rfl
@[simp] theorem updCmd_free (s : State) (id : Nat) (f : CmdRec → CmdRec) : (updCmd s id f).free = s.free := rfl
@[simp] theorem updCmd_tb (s : State) (id : Nat) (f : CmdRec → CmdRec) : (updCmd s id f).tb = s.tb := rfl
@[simp] theorem updCmd_pace (s : State) (id : Nat) (f : CmdRec → CmdRec) : (updCmd s id f).pace = s.pace := rfl
@[simp] theorem updCmd_dies (s : State) (id : Nat) (f : CmdRec → CmdRec) : (updCmd s id f).dies = s.dies := rfl
@[simp] theorem updCmd_limits (s : State) (id : Nat) (f : CmdRec → CmdRec) : (updCmd s id f).limits = s.limits := rfl
@[simp] theorem updCmd_units (s : State) (id : Nat) (f : CmdRec → CmdRec) : (updCmd s id f).units = s.units := rfl
@[simp] theorem updCmd_groups (s : State) (id : Nat) (f : CmdRec → CmdRec) : (updCmd s id f).groups = s.groups := rfl
@[simp] theorem updCmd_ecc (s : State) (id : Nat) (f : CmdRec → CmdRec) : (updCmd s id f).ecc = s.ecc := rfl
@[simp] theorem updCmd_mem (s : State) (id : Nat) (f : CmdRec → CmdRec) : (updCmd s id f).mem = s.mem := rfl
@[simp] theorem updCmd_cores (s : State) (id : Nat) (f : CmdRec → CmdRec) : (updCmd s id f).cores = s.cores := rfl
@[simp] theorem updCmd_clusters (s : State) (id : Nat) (f : CmdRec → CmdRec) : (updCmd s id f).clusters = s.clusters := rfl
@[simp] theorem updCmd_channels (s : State) (id : Nat) (f : CmdRec → CmdRec) : (updCmd s id f).channels = s.channels := rfl
@[simp] theorem updCmd_ports (s : State) (id : Nat) (f : CmdRec → CmdRec) : (updCmd s id f).ports = s.ports := rfl
@[simp] theorem updCmd_doze (s : State) (id : Nat) (f : CmdRec → CmdRec) : (updCmd s id f).doze = s.doze := rfl
@[simp] theorem updCmd_fab (s : State) (id : Nat) (f : CmdRec → CmdRec) : (updCmd s id f).fab = s.fab := rfl
@[simp] theorem updCmd_seq (s : State) (id : Nat) (f : CmdRec → CmdRec) : (updCmd s id f).seq = s.seq := rfl
@[simp] theorem updCmd_xl (s : State) (id : Nat) (f : CmdRec → CmdRec) : (updCmd s id f).xl = s.xl := rfl
@[simp] theorem updCmd_cmd (s : State) (id : Nat) (f : CmdRec → CmdRec) : (updCmd s id f).cmd = { s.cmd with inflight := s.cmd.inflight.map fun c => if c.id = id then f c else c } := rfl
@[simp] theorem updCmd_host (s : State) (id : Nat) (f : CmdRec → CmdRec) : (updCmd s id f).host = s.host := rfl
@[simp] theorem updCmd_lease (s : State) (id : Nat) (f : CmdRec → CmdRec) : (updCmd s id f).lease = s.lease := rfl
@[simp] theorem updCmd_sec (s : State) (id : Nat) (f : CmdRec → CmdRec) : (updCmd s id f).sec = s.sec := rfl
@[simp] theorem updCmd_audit (s : State) (id : Nat) (f : CmdRec → CmdRec) : (updCmd s id f).audit = s.audit := rfl
@[simp] theorem updCmd_faults (s : State) (id : Nat) (f : CmdRec → CmdRec) : (updCmd s id f).faults = s.faults := rfl
@[simp] theorem updCmd_rst (s : State) (id : Nat) (f : CmdRec → CmdRec) : (updCmd s id f).rst = s.rst := rfl
@[simp] theorem updCmd_dumps (s : State) (id : Nat) (f : CmdRec → CmdRec) : (updCmd s id f).dumps = s.dumps := rfl
@[simp] theorem updCmd_dumpCount (s : State) (id : Nat) (f : CmdRec → CmdRec) : (updCmd s id f).dumpCount = s.dumpCount := rfl
@[simp] theorem updCmd_stopArm (s : State) (id : Nat) (f : CmdRec → CmdRec) : (updCmd s id f).stopArm = s.stopArm := rfl
@[simp] theorem updCmd_sb (s : State) (id : Nat) (f : CmdRec → CmdRec) : (updCmd s id f).sb = s.sb := rfl
@[simp] theorem updCmd_straps (s : State) (id : Nat) (f : CmdRec → CmdRec) : (updCmd s id f).straps = s.straps := rfl

@[simp] theorem dropCmd_pending (s : State) (id : Nat) : (dropCmd s id).pending = s.pending := rfl
@[simp] theorem dropCmd_out (s : State) (id : Nat) : (dropCmd s id).out = s.out := rfl
@[simp] theorem dropCmd_free (s : State) (id : Nat) : (dropCmd s id).free = s.free := rfl
@[simp] theorem dropCmd_tb (s : State) (id : Nat) : (dropCmd s id).tb = s.tb := rfl
@[simp] theorem dropCmd_pace (s : State) (id : Nat) : (dropCmd s id).pace = s.pace := rfl
@[simp] theorem dropCmd_dies (s : State) (id : Nat) : (dropCmd s id).dies = s.dies := rfl
@[simp] theorem dropCmd_limits (s : State) (id : Nat) : (dropCmd s id).limits = s.limits := rfl
@[simp] theorem dropCmd_units (s : State) (id : Nat) : (dropCmd s id).units = s.units := rfl
@[simp] theorem dropCmd_groups (s : State) (id : Nat) : (dropCmd s id).groups = s.groups := rfl
@[simp] theorem dropCmd_ecc (s : State) (id : Nat) : (dropCmd s id).ecc = s.ecc := rfl
@[simp] theorem dropCmd_mem (s : State) (id : Nat) : (dropCmd s id).mem = s.mem := rfl
@[simp] theorem dropCmd_cores (s : State) (id : Nat) : (dropCmd s id).cores = s.cores := rfl
@[simp] theorem dropCmd_clusters (s : State) (id : Nat) : (dropCmd s id).clusters = s.clusters := rfl
@[simp] theorem dropCmd_channels (s : State) (id : Nat) : (dropCmd s id).channels = s.channels := rfl
@[simp] theorem dropCmd_ports (s : State) (id : Nat) : (dropCmd s id).ports = s.ports := rfl
@[simp] theorem dropCmd_doze (s : State) (id : Nat) : (dropCmd s id).doze = s.doze := rfl
@[simp] theorem dropCmd_fab (s : State) (id : Nat) : (dropCmd s id).fab = s.fab := rfl
@[simp] theorem dropCmd_seq (s : State) (id : Nat) : (dropCmd s id).seq = s.seq := rfl
@[simp] theorem dropCmd_xl (s : State) (id : Nat) : (dropCmd s id).xl = s.xl := rfl
@[simp] theorem dropCmd_cmd (s : State) (id : Nat) : (dropCmd s id).cmd = { s.cmd with inflight := s.cmd.inflight.filter fun c => c.id ≠ id } := rfl
@[simp] theorem dropCmd_host (s : State) (id : Nat) : (dropCmd s id).host = s.host := rfl
@[simp] theorem dropCmd_lease (s : State) (id : Nat) : (dropCmd s id).lease = s.lease := rfl
@[simp] theorem dropCmd_sec (s : State) (id : Nat) : (dropCmd s id).sec = s.sec := rfl
@[simp] theorem dropCmd_audit (s : State) (id : Nat) : (dropCmd s id).audit = s.audit := rfl
@[simp] theorem dropCmd_faults (s : State) (id : Nat) : (dropCmd s id).faults = s.faults := rfl
@[simp] theorem dropCmd_rst (s : State) (id : Nat) : (dropCmd s id).rst = s.rst := rfl
@[simp] theorem dropCmd_dumps (s : State) (id : Nat) : (dropCmd s id).dumps = s.dumps := rfl
@[simp] theorem dropCmd_dumpCount (s : State) (id : Nat) : (dropCmd s id).dumpCount = s.dumpCount := rfl
@[simp] theorem dropCmd_stopArm (s : State) (id : Nat) : (dropCmd s id).stopArm = s.stopArm := rfl
@[simp] theorem dropCmd_sb (s : State) (id : Nat) : (dropCmd s id).sb = s.sb := rfl
@[simp] theorem dropCmd_straps (s : State) (id : Nat) : (dropCmd s id).straps = s.straps := rfl

@[simp] theorem addCmd_pending (s : State) (c : CmdRec) : (addCmd s c).pending = s.pending := rfl
@[simp] theorem addCmd_out (s : State) (c : CmdRec) : (addCmd s c).out = s.out := rfl
@[simp] theorem addCmd_free (s : State) (c : CmdRec) : (addCmd s c).free = s.free := rfl
@[simp] theorem addCmd_tb (s : State) (c : CmdRec) : (addCmd s c).tb = s.tb := rfl
@[simp] theorem addCmd_pace (s : State) (c : CmdRec) : (addCmd s c).pace = s.pace := rfl
@[simp] theorem addCmd_dies (s : State) (c : CmdRec) : (addCmd s c).dies = s.dies := rfl
@[simp] theorem addCmd_limits (s : State) (c : CmdRec) : (addCmd s c).limits = s.limits := rfl
@[simp] theorem addCmd_units (s : State) (c : CmdRec) : (addCmd s c).units = s.units := rfl
@[simp] theorem addCmd_groups (s : State) (c : CmdRec) : (addCmd s c).groups = s.groups := rfl
@[simp] theorem addCmd_ecc (s : State) (c : CmdRec) : (addCmd s c).ecc = s.ecc := rfl
@[simp] theorem addCmd_mem (s : State) (c : CmdRec) : (addCmd s c).mem = s.mem := rfl
@[simp] theorem addCmd_cores (s : State) (c : CmdRec) : (addCmd s c).cores = s.cores := rfl
@[simp] theorem addCmd_clusters (s : State) (c : CmdRec) : (addCmd s c).clusters = s.clusters := rfl
@[simp] theorem addCmd_channels (s : State) (c : CmdRec) : (addCmd s c).channels = s.channels := rfl
@[simp] theorem addCmd_ports (s : State) (c : CmdRec) : (addCmd s c).ports = s.ports := rfl
@[simp] theorem addCmd_doze (s : State) (c : CmdRec) : (addCmd s c).doze = s.doze := rfl
@[simp] theorem addCmd_fab (s : State) (c : CmdRec) : (addCmd s c).fab = s.fab := rfl
@[simp] theorem addCmd_seq (s : State) (c : CmdRec) : (addCmd s c).seq = s.seq := rfl
@[simp] theorem addCmd_xl (s : State) (c : CmdRec) : (addCmd s c).xl = s.xl := rfl
@[simp] theorem addCmd_cmd (s : State) (c : CmdRec) : (addCmd s c).cmd = { s.cmd with inflight := s.cmd.inflight ++ [c], nextId := c.id + 1 } := rfl
@[simp] theorem addCmd_host (s : State) (c : CmdRec) : (addCmd s c).host = s.host := rfl
@[simp] theorem addCmd_lease (s : State) (c : CmdRec) : (addCmd s c).lease = s.lease := rfl
@[simp] theorem addCmd_sec (s : State) (c : CmdRec) : (addCmd s c).sec = s.sec := rfl
@[simp] theorem addCmd_audit (s : State) (c : CmdRec) : (addCmd s c).audit = s.audit := rfl
@[simp] theorem addCmd_faults (s : State) (c : CmdRec) : (addCmd s c).faults = s.faults := rfl
@[simp] theorem addCmd_rst (s : State) (c : CmdRec) : (addCmd s c).rst = s.rst := rfl
@[simp] theorem addCmd_dumps (s : State) (c : CmdRec) : (addCmd s c).dumps = s.dumps := rfl
@[simp] theorem addCmd_dumpCount (s : State) (c : CmdRec) : (addCmd s c).dumpCount = s.dumpCount := rfl
@[simp] theorem addCmd_stopArm (s : State) (c : CmdRec) : (addCmd s c).stopArm = s.stopArm := rfl
@[simp] theorem addCmd_sb (s : State) (c : CmdRec) : (addCmd s c).sb = s.sb := rfl
@[simp] theorem addCmd_straps (s : State) (c : CmdRec) : (addCmd s c).straps = s.straps := rfl

@[simp] theorem setQp_pending (s : State) (n : Nat) (q : Option QpSt) : (setQp s n q).pending = s.pending := rfl
@[simp] theorem setQp_out (s : State) (n : Nat) (q : Option QpSt) : (setQp s n q).out = s.out := rfl
@[simp] theorem setQp_free (s : State) (n : Nat) (q : Option QpSt) : (setQp s n q).free = s.free := rfl
@[simp] theorem setQp_tb (s : State) (n : Nat) (q : Option QpSt) : (setQp s n q).tb = s.tb := rfl
@[simp] theorem setQp_pace (s : State) (n : Nat) (q : Option QpSt) : (setQp s n q).pace = s.pace := rfl
@[simp] theorem setQp_dies (s : State) (n : Nat) (q : Option QpSt) : (setQp s n q).dies = s.dies := rfl
@[simp] theorem setQp_limits (s : State) (n : Nat) (q : Option QpSt) : (setQp s n q).limits = s.limits := rfl
@[simp] theorem setQp_units (s : State) (n : Nat) (q : Option QpSt) : (setQp s n q).units = s.units := rfl
@[simp] theorem setQp_groups (s : State) (n : Nat) (q : Option QpSt) : (setQp s n q).groups = s.groups := rfl
@[simp] theorem setQp_ecc (s : State) (n : Nat) (q : Option QpSt) : (setQp s n q).ecc = s.ecc := rfl
@[simp] theorem setQp_mem (s : State) (n : Nat) (q : Option QpSt) : (setQp s n q).mem = s.mem := rfl
@[simp] theorem setQp_cores (s : State) (n : Nat) (q : Option QpSt) : (setQp s n q).cores = s.cores := rfl
@[simp] theorem setQp_clusters (s : State) (n : Nat) (q : Option QpSt) : (setQp s n q).clusters = s.clusters := rfl
@[simp] theorem setQp_channels (s : State) (n : Nat) (q : Option QpSt) : (setQp s n q).channels = s.channels := rfl
@[simp] theorem setQp_ports (s : State) (n : Nat) (q : Option QpSt) : (setQp s n q).ports = s.ports := rfl
@[simp] theorem setQp_doze (s : State) (n : Nat) (q : Option QpSt) : (setQp s n q).doze = s.doze := rfl
@[simp] theorem setQp_fab (s : State) (n : Nat) (q : Option QpSt) : (setQp s n q).fab = s.fab := rfl
@[simp] theorem setQp_seq (s : State) (n : Nat) (q : Option QpSt) : (setQp s n q).seq = s.seq := rfl
@[simp] theorem setQp_xl (s : State) (n : Nat) (q : Option QpSt) : (setQp s n q).xl = s.xl := rfl
@[simp] theorem setQp_cmd (s : State) (n : Nat) (q : Option QpSt) : (setQp s n q).cmd = { s.cmd with qps := smapSet none s.cmd.qps n q } := rfl
@[simp] theorem setQp_host (s : State) (n : Nat) (q : Option QpSt) : (setQp s n q).host = s.host := rfl
@[simp] theorem setQp_lease (s : State) (n : Nat) (q : Option QpSt) : (setQp s n q).lease = s.lease := rfl
@[simp] theorem setQp_sec (s : State) (n : Nat) (q : Option QpSt) : (setQp s n q).sec = s.sec := rfl
@[simp] theorem setQp_audit (s : State) (n : Nat) (q : Option QpSt) : (setQp s n q).audit = s.audit := rfl
@[simp] theorem setQp_faults (s : State) (n : Nat) (q : Option QpSt) : (setQp s n q).faults = s.faults := rfl
@[simp] theorem setQp_rst (s : State) (n : Nat) (q : Option QpSt) : (setQp s n q).rst = s.rst := rfl
@[simp] theorem setQp_dumps (s : State) (n : Nat) (q : Option QpSt) : (setQp s n q).dumps = s.dumps := rfl
@[simp] theorem setQp_dumpCount (s : State) (n : Nat) (q : Option QpSt) : (setQp s n q).dumpCount = s.dumpCount := rfl
@[simp] theorem setQp_stopArm (s : State) (n : Nat) (q : Option QpSt) : (setQp s n q).stopArm = s.stopArm := rfl
@[simp] theorem setQp_sb (s : State) (n : Nat) (q : Option QpSt) : (setQp s n q).sb = s.sb := rfl
@[simp] theorem setQp_straps (s : State) (n : Nat) (q : Option QpSt) : (setQp s n q).straps = s.straps := rfl

@[simp] theorem setMqCtl_pending (s : State) (v : Nat) : (setMqCtl s v).pending = s.pending := rfl
@[simp] theorem setMqCtl_out (s : State) (v : Nat) : (setMqCtl s v).out = s.out := rfl
@[simp] theorem setMqCtl_free (s : State) (v : Nat) : (setMqCtl s v).free = s.free := rfl
@[simp] theorem setMqCtl_tb (s : State) (v : Nat) : (setMqCtl s v).tb = s.tb := rfl
@[simp] theorem setMqCtl_pace (s : State) (v : Nat) : (setMqCtl s v).pace = s.pace := rfl
@[simp] theorem setMqCtl_dies (s : State) (v : Nat) : (setMqCtl s v).dies = s.dies := rfl
@[simp] theorem setMqCtl_limits (s : State) (v : Nat) : (setMqCtl s v).limits = s.limits := rfl
@[simp] theorem setMqCtl_units (s : State) (v : Nat) : (setMqCtl s v).units = s.units := rfl
@[simp] theorem setMqCtl_groups (s : State) (v : Nat) : (setMqCtl s v).groups = s.groups := rfl
@[simp] theorem setMqCtl_ecc (s : State) (v : Nat) : (setMqCtl s v).ecc = s.ecc := rfl
@[simp] theorem setMqCtl_mem (s : State) (v : Nat) : (setMqCtl s v).mem = s.mem := rfl
@[simp] theorem setMqCtl_cores (s : State) (v : Nat) : (setMqCtl s v).cores = s.cores := rfl
@[simp] theorem setMqCtl_clusters (s : State) (v : Nat) : (setMqCtl s v).clusters = s.clusters := rfl
@[simp] theorem setMqCtl_channels (s : State) (v : Nat) : (setMqCtl s v).channels = s.channels := rfl
@[simp] theorem setMqCtl_ports (s : State) (v : Nat) : (setMqCtl s v).ports = s.ports := rfl
@[simp] theorem setMqCtl_doze (s : State) (v : Nat) : (setMqCtl s v).doze = s.doze := rfl
@[simp] theorem setMqCtl_fab (s : State) (v : Nat) : (setMqCtl s v).fab = s.fab := rfl
@[simp] theorem setMqCtl_seq (s : State) (v : Nat) : (setMqCtl s v).seq = s.seq := rfl
@[simp] theorem setMqCtl_xl (s : State) (v : Nat) : (setMqCtl s v).xl = s.xl := rfl
@[simp] theorem setMqCtl_cmd (s : State) (v : Nat) : (setMqCtl s v).cmd = s.cmd := rfl
@[simp] theorem setMqCtl_host (s : State) (v : Nat) : (setMqCtl s v).host = { s.host with mqCtl := BitVec.ofNat 64 v } := rfl
@[simp] theorem setMqCtl_lease (s : State) (v : Nat) : (setMqCtl s v).lease = s.lease := rfl
@[simp] theorem setMqCtl_sec (s : State) (v : Nat) : (setMqCtl s v).sec = s.sec := rfl
@[simp] theorem setMqCtl_audit (s : State) (v : Nat) : (setMqCtl s v).audit = s.audit := rfl
@[simp] theorem setMqCtl_faults (s : State) (v : Nat) : (setMqCtl s v).faults = s.faults := rfl
@[simp] theorem setMqCtl_rst (s : State) (v : Nat) : (setMqCtl s v).rst = s.rst := rfl
@[simp] theorem setMqCtl_dumps (s : State) (v : Nat) : (setMqCtl s v).dumps = s.dumps := rfl
@[simp] theorem setMqCtl_dumpCount (s : State) (v : Nat) : (setMqCtl s v).dumpCount = s.dumpCount := rfl
@[simp] theorem setMqCtl_stopArm (s : State) (v : Nat) : (setMqCtl s v).stopArm = s.stopArm := rfl
@[simp] theorem setMqCtl_sb (s : State) (v : Nat) : (setMqCtl s v).sb = s.sb := rfl
@[simp] theorem setMqCtl_straps (s : State) (v : Nat) : (setMqCtl s v).straps = s.straps := rfl

@[simp] theorem modUnit_pending (s : State) (u : PUnit) (f : UnitRec → UnitRec) : (modUnit s u f).pending = s.pending := rfl
@[simp] theorem modUnit_out (s : State) (u : PUnit) (f : UnitRec → UnitRec) : (modUnit s u f).out = s.out := rfl
@[simp] theorem modUnit_free (s : State) (u : PUnit) (f : UnitRec → UnitRec) : (modUnit s u f).free = s.free := rfl
@[simp] theorem modUnit_tb (s : State) (u : PUnit) (f : UnitRec → UnitRec) : (modUnit s u f).tb = s.tb := rfl
@[simp] theorem modUnit_pace (s : State) (u : PUnit) (f : UnitRec → UnitRec) : (modUnit s u f).pace = s.pace := rfl
@[simp] theorem modUnit_dies (s : State) (u : PUnit) (f : UnitRec → UnitRec) : (modUnit s u f).dies = s.dies := rfl
@[simp] theorem modUnit_limits (s : State) (u : PUnit) (f : UnitRec → UnitRec) : (modUnit s u f).limits = s.limits := rfl
@[simp] theorem modUnit_units (s : State) (u : PUnit) (f : UnitRec → UnitRec) : (modUnit s u f).units = setUnitRec s.units u (f (getUnit s u)) := rfl
@[simp] theorem modUnit_groups (s : State) (u : PUnit) (f : UnitRec → UnitRec) : (modUnit s u f).groups = s.groups := rfl
@[simp] theorem modUnit_ecc (s : State) (u : PUnit) (f : UnitRec → UnitRec) : (modUnit s u f).ecc = s.ecc := rfl
@[simp] theorem modUnit_mem (s : State) (u : PUnit) (f : UnitRec → UnitRec) : (modUnit s u f).mem = s.mem := rfl
@[simp] theorem modUnit_cores (s : State) (u : PUnit) (f : UnitRec → UnitRec) : (modUnit s u f).cores = s.cores := rfl
@[simp] theorem modUnit_clusters (s : State) (u : PUnit) (f : UnitRec → UnitRec) : (modUnit s u f).clusters = s.clusters := rfl
@[simp] theorem modUnit_channels (s : State) (u : PUnit) (f : UnitRec → UnitRec) : (modUnit s u f).channels = s.channels := rfl
@[simp] theorem modUnit_ports (s : State) (u : PUnit) (f : UnitRec → UnitRec) : (modUnit s u f).ports = s.ports := rfl
@[simp] theorem modUnit_doze (s : State) (u : PUnit) (f : UnitRec → UnitRec) : (modUnit s u f).doze = s.doze := rfl
@[simp] theorem modUnit_fab (s : State) (u : PUnit) (f : UnitRec → UnitRec) : (modUnit s u f).fab = s.fab := rfl
@[simp] theorem modUnit_seq (s : State) (u : PUnit) (f : UnitRec → UnitRec) : (modUnit s u f).seq = s.seq := rfl
@[simp] theorem modUnit_xl (s : State) (u : PUnit) (f : UnitRec → UnitRec) : (modUnit s u f).xl = s.xl := rfl
@[simp] theorem modUnit_cmd (s : State) (u : PUnit) (f : UnitRec → UnitRec) : (modUnit s u f).cmd = s.cmd := rfl
@[simp] theorem modUnit_host (s : State) (u : PUnit) (f : UnitRec → UnitRec) : (modUnit s u f).host = s.host := rfl
@[simp] theorem modUnit_lease (s : State) (u : PUnit) (f : UnitRec → UnitRec) : (modUnit s u f).lease = s.lease := rfl
@[simp] theorem modUnit_sec (s : State) (u : PUnit) (f : UnitRec → UnitRec) : (modUnit s u f).sec = s.sec := rfl
@[simp] theorem modUnit_audit (s : State) (u : PUnit) (f : UnitRec → UnitRec) : (modUnit s u f).audit = s.audit := rfl
@[simp] theorem modUnit_faults (s : State) (u : PUnit) (f : UnitRec → UnitRec) : (modUnit s u f).faults = s.faults := rfl
@[simp] theorem modUnit_rst (s : State) (u : PUnit) (f : UnitRec → UnitRec) : (modUnit s u f).rst = s.rst := rfl
@[simp] theorem modUnit_dumps (s : State) (u : PUnit) (f : UnitRec → UnitRec) : (modUnit s u f).dumps = s.dumps := rfl
@[simp] theorem modUnit_dumpCount (s : State) (u : PUnit) (f : UnitRec → UnitRec) : (modUnit s u f).dumpCount = s.dumpCount := rfl
@[simp] theorem modUnit_stopArm (s : State) (u : PUnit) (f : UnitRec → UnitRec) : (modUnit s u f).stopArm = s.stopArm := rfl
@[simp] theorem modUnit_sb (s : State) (u : PUnit) (f : UnitRec → UnitRec) : (modUnit s u f).sb = s.sb := rfl
@[simp] theorem modUnit_straps (s : State) (u : PUnit) (f : UnitRec → UnitRec) : (modUnit s u f).straps = s.straps := rfl

@[simp] theorem setOwn_pending (s : State) (u : PUnit) (x : UState) : (setOwn s u x).pending = s.pending := rfl
@[simp] theorem setOwn_out (s : State) (u : PUnit) (x : UState) : (setOwn s u x).out = s.out := rfl
@[simp] theorem setOwn_free (s : State) (u : PUnit) (x : UState) : (setOwn s u x).free = s.free := rfl
@[simp] theorem setOwn_tb (s : State) (u : PUnit) (x : UState) : (setOwn s u x).tb = s.tb := rfl
@[simp] theorem setOwn_pace (s : State) (u : PUnit) (x : UState) : (setOwn s u x).pace = s.pace := rfl
@[simp] theorem setOwn_dies (s : State) (u : PUnit) (x : UState) : (setOwn s u x).dies = s.dies := rfl
@[simp] theorem setOwn_limits (s : State) (u : PUnit) (x : UState) : (setOwn s u x).limits = s.limits := rfl
@[simp] theorem setOwn_units (s : State) (u : PUnit) (x : UState) : (setOwn s u x).units = setUnitRec s.units u { getUnit s u with own := x } := rfl
@[simp] theorem setOwn_groups (s : State) (u : PUnit) (x : UState) : (setOwn s u x).groups = s.groups := rfl
@[simp] theorem setOwn_ecc (s : State) (u : PUnit) (x : UState) : (setOwn s u x).ecc = s.ecc := rfl
@[simp] theorem setOwn_mem (s : State) (u : PUnit) (x : UState) : (setOwn s u x).mem = s.mem := rfl
@[simp] theorem setOwn_cores (s : State) (u : PUnit) (x : UState) : (setOwn s u x).cores = s.cores := rfl
@[simp] theorem setOwn_clusters (s : State) (u : PUnit) (x : UState) : (setOwn s u x).clusters = s.clusters := rfl
@[simp] theorem setOwn_channels (s : State) (u : PUnit) (x : UState) : (setOwn s u x).channels = s.channels := rfl
@[simp] theorem setOwn_ports (s : State) (u : PUnit) (x : UState) : (setOwn s u x).ports = s.ports := rfl
@[simp] theorem setOwn_doze (s : State) (u : PUnit) (x : UState) : (setOwn s u x).doze = s.doze := rfl
@[simp] theorem setOwn_fab (s : State) (u : PUnit) (x : UState) : (setOwn s u x).fab = s.fab := rfl
@[simp] theorem setOwn_seq (s : State) (u : PUnit) (x : UState) : (setOwn s u x).seq = s.seq := rfl
@[simp] theorem setOwn_xl (s : State) (u : PUnit) (x : UState) : (setOwn s u x).xl = s.xl := rfl
@[simp] theorem setOwn_cmd (s : State) (u : PUnit) (x : UState) : (setOwn s u x).cmd = s.cmd := rfl
@[simp] theorem setOwn_host (s : State) (u : PUnit) (x : UState) : (setOwn s u x).host = s.host := rfl
@[simp] theorem setOwn_lease (s : State) (u : PUnit) (x : UState) : (setOwn s u x).lease = s.lease := rfl
@[simp] theorem setOwn_sec (s : State) (u : PUnit) (x : UState) : (setOwn s u x).sec = s.sec := rfl
@[simp] theorem setOwn_audit (s : State) (u : PUnit) (x : UState) : (setOwn s u x).audit = s.audit := rfl
@[simp] theorem setOwn_faults (s : State) (u : PUnit) (x : UState) : (setOwn s u x).faults = s.faults := rfl
@[simp] theorem setOwn_rst (s : State) (u : PUnit) (x : UState) : (setOwn s u x).rst = s.rst := rfl
@[simp] theorem setOwn_dumps (s : State) (u : PUnit) (x : UState) : (setOwn s u x).dumps = s.dumps := rfl
@[simp] theorem setOwn_dumpCount (s : State) (u : PUnit) (x : UState) : (setOwn s u x).dumpCount = s.dumpCount := rfl
@[simp] theorem setOwn_stopArm (s : State) (u : PUnit) (x : UState) : (setOwn s u x).stopArm = s.stopArm := rfl
@[simp] theorem setOwn_sb (s : State) (u : PUnit) (x : UState) : (setOwn s u x).sb = s.sb := rfl
@[simp] theorem setOwn_straps (s : State) (u : PUnit) (x : UState) : (setOwn s u x).straps = s.straps := rfl

@[simp] theorem setPoison_pending (s : State) (line : Nat) (b : Bool) : (setPoison s line b).pending = s.pending := rfl
@[simp] theorem setPoison_out (s : State) (line : Nat) (b : Bool) : (setPoison s line b).out = s.out := rfl
@[simp] theorem setPoison_free (s : State) (line : Nat) (b : Bool) : (setPoison s line b).free = s.free := rfl
@[simp] theorem setPoison_tb (s : State) (line : Nat) (b : Bool) : (setPoison s line b).tb = s.tb := rfl
@[simp] theorem setPoison_pace (s : State) (line : Nat) (b : Bool) : (setPoison s line b).pace = s.pace := rfl
@[simp] theorem setPoison_dies (s : State) (line : Nat) (b : Bool) : (setPoison s line b).dies = s.dies := rfl
@[simp] theorem setPoison_limits (s : State) (line : Nat) (b : Bool) : (setPoison s line b).limits = s.limits := rfl
@[simp] theorem setPoison_units (s : State) (line : Nat) (b : Bool) : (setPoison s line b).units = s.units := rfl
@[simp] theorem setPoison_groups (s : State) (line : Nat) (b : Bool) : (setPoison s line b).groups = s.groups := rfl
@[simp] theorem setPoison_ecc (s : State) (line : Nat) (b : Bool) : (setPoison s line b).ecc = { s.ecc with lines := smapSet .none s.ecc.lines line (freshEcc (eccOf s line)) } := rfl
@[simp] theorem setPoison_mem (s : State) (line : Nat) (b : Bool) : (setPoison s line b).mem = { s.mem with poison := smapSet false s.mem.poison line (b != poisonBase s line) } := rfl
@[simp] theorem setPoison_cores (s : State) (line : Nat) (b : Bool) : (setPoison s line b).cores = s.cores := rfl
@[simp] theorem setPoison_clusters (s : State) (line : Nat) (b : Bool) : (setPoison s line b).clusters = s.clusters := rfl
@[simp] theorem setPoison_channels (s : State) (line : Nat) (b : Bool) : (setPoison s line b).channels = s.channels := rfl
@[simp] theorem setPoison_ports (s : State) (line : Nat) (b : Bool) : (setPoison s line b).ports = s.ports := rfl
@[simp] theorem setPoison_doze (s : State) (line : Nat) (b : Bool) : (setPoison s line b).doze = s.doze := rfl
@[simp] theorem setPoison_fab (s : State) (line : Nat) (b : Bool) : (setPoison s line b).fab = s.fab := rfl
@[simp] theorem setPoison_seq (s : State) (line : Nat) (b : Bool) : (setPoison s line b).seq = s.seq := rfl
@[simp] theorem setPoison_xl (s : State) (line : Nat) (b : Bool) : (setPoison s line b).xl = s.xl := rfl
@[simp] theorem setPoison_cmd (s : State) (line : Nat) (b : Bool) : (setPoison s line b).cmd = s.cmd := rfl
@[simp] theorem setPoison_host (s : State) (line : Nat) (b : Bool) : (setPoison s line b).host = s.host := rfl
@[simp] theorem setPoison_lease (s : State) (line : Nat) (b : Bool) : (setPoison s line b).lease = s.lease := rfl
@[simp] theorem setPoison_sec (s : State) (line : Nat) (b : Bool) : (setPoison s line b).sec = s.sec := rfl
@[simp] theorem setPoison_audit (s : State) (line : Nat) (b : Bool) : (setPoison s line b).audit = s.audit := rfl
@[simp] theorem setPoison_faults (s : State) (line : Nat) (b : Bool) : (setPoison s line b).faults = s.faults := rfl
@[simp] theorem setPoison_rst (s : State) (line : Nat) (b : Bool) : (setPoison s line b).rst = s.rst := rfl
@[simp] theorem setPoison_dumps (s : State) (line : Nat) (b : Bool) : (setPoison s line b).dumps = s.dumps := rfl
@[simp] theorem setPoison_dumpCount (s : State) (line : Nat) (b : Bool) : (setPoison s line b).dumpCount = s.dumpCount := rfl
@[simp] theorem setPoison_stopArm (s : State) (line : Nat) (b : Bool) : (setPoison s line b).stopArm = s.stopArm := rfl
@[simp] theorem setPoison_sb (s : State) (line : Nat) (b : Bool) : (setPoison s line b).sb = s.sb := rfl
@[simp] theorem setPoison_straps (s : State) (line : Nat) (b : Bool) : (setPoison s line b).straps = s.straps := rfl

@[simp] theorem touchDoze_pending (s : State) (i : Nat) : (touchDoze s i).pending = s.pending := rfl
@[simp] theorem touchDoze_out (s : State) (i : Nat) : (touchDoze s i).out = s.out := rfl
@[simp] theorem touchDoze_free (s : State) (i : Nat) : (touchDoze s i).free = s.free := rfl
@[simp] theorem touchDoze_tb (s : State) (i : Nat) : (touchDoze s i).tb = s.tb := rfl
@[simp] theorem touchDoze_pace (s : State) (i : Nat) : (touchDoze s i).pace = s.pace := rfl
@[simp] theorem touchDoze_dies (s : State) (i : Nat) : (touchDoze s i).dies = s.dies := rfl
@[simp] theorem touchDoze_limits (s : State) (i : Nat) : (touchDoze s i).limits = s.limits := rfl
@[simp] theorem touchDoze_units (s : State) (i : Nat) : (touchDoze s i).units = s.units := rfl
@[simp] theorem touchDoze_groups (s : State) (i : Nat) : (touchDoze s i).groups = s.groups := rfl
@[simp] theorem touchDoze_ecc (s : State) (i : Nat) : (touchDoze s i).ecc = s.ecc := rfl
@[simp] theorem touchDoze_mem (s : State) (i : Nat) : (touchDoze s i).mem = s.mem := rfl
@[simp] theorem touchDoze_cores (s : State) (i : Nat) : (touchDoze s i).cores = s.cores := rfl
@[simp] theorem touchDoze_clusters (s : State) (i : Nat) : (touchDoze s i).clusters = s.clusters := rfl
@[simp] theorem touchDoze_channels (s : State) (i : Nat) : (touchDoze s i).channels = s.channels := rfl
@[simp] theorem touchDoze_ports (s : State) (i : Nat) : (touchDoze s i).ports = s.ports := rfl
@[simp] theorem touchDoze_doze (s : State) (i : Nat) : (touchDoze s i).doze = vset s.doze i { startWake (now s) (vget s.doze .init i) with idleAt := now s } := rfl
@[simp] theorem touchDoze_fab (s : State) (i : Nat) : (touchDoze s i).fab = s.fab := rfl
@[simp] theorem touchDoze_seq (s : State) (i : Nat) : (touchDoze s i).seq = s.seq := rfl
@[simp] theorem touchDoze_xl (s : State) (i : Nat) : (touchDoze s i).xl = s.xl := rfl
@[simp] theorem touchDoze_cmd (s : State) (i : Nat) : (touchDoze s i).cmd = s.cmd := rfl
@[simp] theorem touchDoze_host (s : State) (i : Nat) : (touchDoze s i).host = s.host := rfl
@[simp] theorem touchDoze_lease (s : State) (i : Nat) : (touchDoze s i).lease = s.lease := rfl
@[simp] theorem touchDoze_sec (s : State) (i : Nat) : (touchDoze s i).sec = s.sec := rfl
@[simp] theorem touchDoze_audit (s : State) (i : Nat) : (touchDoze s i).audit = s.audit := rfl
@[simp] theorem touchDoze_faults (s : State) (i : Nat) : (touchDoze s i).faults = s.faults := rfl
@[simp] theorem touchDoze_rst (s : State) (i : Nat) : (touchDoze s i).rst = s.rst := rfl
@[simp] theorem touchDoze_dumps (s : State) (i : Nat) : (touchDoze s i).dumps = s.dumps := rfl
@[simp] theorem touchDoze_dumpCount (s : State) (i : Nat) : (touchDoze s i).dumpCount = s.dumpCount := rfl
@[simp] theorem touchDoze_stopArm (s : State) (i : Nat) : (touchDoze s i).stopArm = s.stopArm := rfl
@[simp] theorem touchDoze_sb (s : State) (i : Nat) : (touchDoze s i).sb = s.sb := rfl
@[simp] theorem touchDoze_straps (s : State) (i : Nat) : (touchDoze s i).straps = s.straps := rfl

@[simp] theorem setDoze_pending (s : State) (i : Nat) (d : DozeSt) : (setDoze s i d).pending = s.pending := rfl
@[simp] theorem setDoze_out (s : State) (i : Nat) (d : DozeSt) : (setDoze s i d).out = s.out := rfl
@[simp] theorem setDoze_free (s : State) (i : Nat) (d : DozeSt) : (setDoze s i d).free = s.free := rfl
@[simp] theorem setDoze_tb (s : State) (i : Nat) (d : DozeSt) : (setDoze s i d).tb = s.tb := rfl
@[simp] theorem setDoze_pace (s : State) (i : Nat) (d : DozeSt) : (setDoze s i d).pace = s.pace := rfl
@[simp] theorem setDoze_dies (s : State) (i : Nat) (d : DozeSt) : (setDoze s i d).dies = s.dies := rfl
@[simp] theorem setDoze_limits (s : State) (i : Nat) (d : DozeSt) : (setDoze s i d).limits = s.limits := rfl
@[simp] theorem setDoze_units (s : State) (i : Nat) (d : DozeSt) : (setDoze s i d).units = s.units := rfl
@[simp] theorem setDoze_groups (s : State) (i : Nat) (d : DozeSt) : (setDoze s i d).groups = s.groups := rfl
@[simp] theorem setDoze_ecc (s : State) (i : Nat) (d : DozeSt) : (setDoze s i d).ecc = s.ecc := rfl
@[simp] theorem setDoze_mem (s : State) (i : Nat) (d : DozeSt) : (setDoze s i d).mem = s.mem := rfl
@[simp] theorem setDoze_cores (s : State) (i : Nat) (d : DozeSt) : (setDoze s i d).cores = s.cores := rfl
@[simp] theorem setDoze_clusters (s : State) (i : Nat) (d : DozeSt) : (setDoze s i d).clusters = s.clusters := rfl
@[simp] theorem setDoze_channels (s : State) (i : Nat) (d : DozeSt) : (setDoze s i d).channels = s.channels := rfl
@[simp] theorem setDoze_ports (s : State) (i : Nat) (d : DozeSt) : (setDoze s i d).ports = s.ports := rfl
@[simp] theorem setDoze_doze (s : State) (i : Nat) (d : DozeSt) : (setDoze s i d).doze = vset s.doze i d := rfl
@[simp] theorem setDoze_fab (s : State) (i : Nat) (d : DozeSt) : (setDoze s i d).fab = s.fab := rfl
@[simp] theorem setDoze_seq (s : State) (i : Nat) (d : DozeSt) : (setDoze s i d).seq = s.seq := rfl
@[simp] theorem setDoze_xl (s : State) (i : Nat) (d : DozeSt) : (setDoze s i d).xl = s.xl := rfl
@[simp] theorem setDoze_cmd (s : State) (i : Nat) (d : DozeSt) : (setDoze s i d).cmd = s.cmd := rfl
@[simp] theorem setDoze_host (s : State) (i : Nat) (d : DozeSt) : (setDoze s i d).host = s.host := rfl
@[simp] theorem setDoze_lease (s : State) (i : Nat) (d : DozeSt) : (setDoze s i d).lease = s.lease := rfl
@[simp] theorem setDoze_sec (s : State) (i : Nat) (d : DozeSt) : (setDoze s i d).sec = s.sec := rfl
@[simp] theorem setDoze_audit (s : State) (i : Nat) (d : DozeSt) : (setDoze s i d).audit = s.audit := rfl
@[simp] theorem setDoze_faults (s : State) (i : Nat) (d : DozeSt) : (setDoze s i d).faults = s.faults := rfl
@[simp] theorem setDoze_rst (s : State) (i : Nat) (d : DozeSt) : (setDoze s i d).rst = s.rst := rfl
@[simp] theorem setDoze_dumps (s : State) (i : Nat) (d : DozeSt) : (setDoze s i d).dumps = s.dumps := rfl
@[simp] theorem setDoze_dumpCount (s : State) (i : Nat) (d : DozeSt) : (setDoze s i d).dumpCount = s.dumpCount := rfl
@[simp] theorem setDoze_stopArm (s : State) (i : Nat) (d : DozeSt) : (setDoze s i d).stopArm = s.stopArm := rfl
@[simp] theorem setDoze_sb (s : State) (i : Nat) (d : DozeSt) : (setDoze s i d).sb = s.sb := rfl
@[simp] theorem setDoze_straps (s : State) (i : Nat) (d : DozeSt) : (setDoze s i d).straps = s.straps := rfl

@[simp] theorem setFab_pending (s : State) (f : FabSt) : (setFab s f).pending = s.pending := rfl
@[simp] theorem setFab_out (s : State) (f : FabSt) : (setFab s f).out = s.out := rfl
@[simp] theorem setFab_free (s : State) (f : FabSt) : (setFab s f).free = s.free := rfl
@[simp] theorem setFab_tb (s : State) (f : FabSt) : (setFab s f).tb = s.tb := rfl
@[simp] theorem setFab_pace (s : State) (f : FabSt) : (setFab s f).pace = s.pace := rfl
@[simp] theorem setFab_dies (s : State) (f : FabSt) : (setFab s f).dies = s.dies := rfl
@[simp] theorem setFab_limits (s : State) (f : FabSt) : (setFab s f).limits = s.limits := rfl
@[simp] theorem setFab_units (s : State) (f : FabSt) : (setFab s f).units = s.units := rfl
@[simp] theorem setFab_groups (s : State) (f : FabSt) : (setFab s f).groups = s.groups := rfl
@[simp] theorem setFab_ecc (s : State) (f : FabSt) : (setFab s f).ecc = s.ecc := rfl
@[simp] theorem setFab_mem (s : State) (f : FabSt) : (setFab s f).mem = s.mem := rfl
@[simp] theorem setFab_cores (s : State) (f : FabSt) : (setFab s f).cores = s.cores := rfl
@[simp] theorem setFab_clusters (s : State) (f : FabSt) : (setFab s f).clusters = s.clusters := rfl
@[simp] theorem setFab_channels (s : State) (f : FabSt) : (setFab s f).channels = s.channels := rfl
@[simp] theorem setFab_ports (s : State) (f : FabSt) : (setFab s f).ports = s.ports := rfl
@[simp] theorem setFab_doze (s : State) (f : FabSt) : (setFab s f).doze = s.doze := rfl
@[simp] theorem setFab_fab (s : State) (f : FabSt) : (setFab s f).fab = f := rfl
@[simp] theorem setFab_seq (s : State) (f : FabSt) : (setFab s f).seq = s.seq := rfl
@[simp] theorem setFab_xl (s : State) (f : FabSt) : (setFab s f).xl = s.xl := rfl
@[simp] theorem setFab_cmd (s : State) (f : FabSt) : (setFab s f).cmd = s.cmd := rfl
@[simp] theorem setFab_host (s : State) (f : FabSt) : (setFab s f).host = s.host := rfl
@[simp] theorem setFab_lease (s : State) (f : FabSt) : (setFab s f).lease = s.lease := rfl
@[simp] theorem setFab_sec (s : State) (f : FabSt) : (setFab s f).sec = s.sec := rfl
@[simp] theorem setFab_audit (s : State) (f : FabSt) : (setFab s f).audit = s.audit := rfl
@[simp] theorem setFab_faults (s : State) (f : FabSt) : (setFab s f).faults = s.faults := rfl
@[simp] theorem setFab_rst (s : State) (f : FabSt) : (setFab s f).rst = s.rst := rfl
@[simp] theorem setFab_dumps (s : State) (f : FabSt) : (setFab s f).dumps = s.dumps := rfl
@[simp] theorem setFab_dumpCount (s : State) (f : FabSt) : (setFab s f).dumpCount = s.dumpCount := rfl
@[simp] theorem setFab_stopArm (s : State) (f : FabSt) : (setFab s f).stopArm = s.stopArm := rfl
@[simp] theorem setFab_sb (s : State) (f : FabSt) : (setFab s f).sb = s.sb := rfl
@[simp] theorem setFab_straps (s : State) (f : FabSt) : (setFab s f).straps = s.straps := rfl

@[simp] theorem setSeq_pending (s : State) (q : SeqSt) : (setSeq s q).pending = s.pending := rfl
@[simp] theorem setSeq_out (s : State) (q : SeqSt) : (setSeq s q).out = s.out := rfl
@[simp] theorem setSeq_free (s : State) (q : SeqSt) : (setSeq s q).free = s.free := rfl
@[simp] theorem setSeq_tb (s : State) (q : SeqSt) : (setSeq s q).tb = s.tb := rfl
@[simp] theorem setSeq_pace (s : State) (q : SeqSt) : (setSeq s q).pace = s.pace := rfl
@[simp] theorem setSeq_dies (s : State) (q : SeqSt) : (setSeq s q).dies = s.dies := rfl
@[simp] theorem setSeq_limits (s : State) (q : SeqSt) : (setSeq s q).limits = s.limits := rfl
@[simp] theorem setSeq_units (s : State) (q : SeqSt) : (setSeq s q).units = s.units := rfl
@[simp] theorem setSeq_groups (s : State) (q : SeqSt) : (setSeq s q).groups = s.groups := rfl
@[simp] theorem setSeq_ecc (s : State) (q : SeqSt) : (setSeq s q).ecc = s.ecc := rfl
@[simp] theorem setSeq_mem (s : State) (q : SeqSt) : (setSeq s q).mem = s.mem := rfl
@[simp] theorem setSeq_cores (s : State) (q : SeqSt) : (setSeq s q).cores = s.cores := rfl
@[simp] theorem setSeq_clusters (s : State) (q : SeqSt) : (setSeq s q).clusters = s.clusters := rfl
@[simp] theorem setSeq_channels (s : State) (q : SeqSt) : (setSeq s q).channels = s.channels := rfl
@[simp] theorem setSeq_ports (s : State) (q : SeqSt) : (setSeq s q).ports = s.ports := rfl
@[simp] theorem setSeq_doze (s : State) (q : SeqSt) : (setSeq s q).doze = s.doze := rfl
@[simp] theorem setSeq_fab (s : State) (q : SeqSt) : (setSeq s q).fab = s.fab := rfl
@[simp] theorem setSeq_seq (s : State) (q : SeqSt) : (setSeq s q).seq = q := rfl
@[simp] theorem setSeq_xl (s : State) (q : SeqSt) : (setSeq s q).xl = s.xl := rfl
@[simp] theorem setSeq_cmd (s : State) (q : SeqSt) : (setSeq s q).cmd = s.cmd := rfl
@[simp] theorem setSeq_host (s : State) (q : SeqSt) : (setSeq s q).host = s.host := rfl
@[simp] theorem setSeq_lease (s : State) (q : SeqSt) : (setSeq s q).lease = s.lease := rfl
@[simp] theorem setSeq_sec (s : State) (q : SeqSt) : (setSeq s q).sec = s.sec := rfl
@[simp] theorem setSeq_audit (s : State) (q : SeqSt) : (setSeq s q).audit = s.audit := rfl
@[simp] theorem setSeq_faults (s : State) (q : SeqSt) : (setSeq s q).faults = s.faults := rfl
@[simp] theorem setSeq_rst (s : State) (q : SeqSt) : (setSeq s q).rst = s.rst := rfl
@[simp] theorem setSeq_dumps (s : State) (q : SeqSt) : (setSeq s q).dumps = s.dumps := rfl
@[simp] theorem setSeq_dumpCount (s : State) (q : SeqSt) : (setSeq s q).dumpCount = s.dumpCount := rfl
@[simp] theorem setSeq_stopArm (s : State) (q : SeqSt) : (setSeq s q).stopArm = s.stopArm := rfl
@[simp] theorem setSeq_sb (s : State) (q : SeqSt) : (setSeq s q).sb = s.sb := rfl
@[simp] theorem setSeq_straps (s : State) (q : SeqSt) : (setSeq s q).straps = s.straps := rfl

@[simp] theorem setDie_pending (s : State) (d : Nat) (x : DiePace) : (setDie s d x).pending = s.pending := rfl
@[simp] theorem setDie_out (s : State) (d : Nat) (x : DiePace) : (setDie s d x).out = s.out := rfl
@[simp] theorem setDie_free (s : State) (d : Nat) (x : DiePace) : (setDie s d x).free = s.free := rfl
@[simp] theorem setDie_tb (s : State) (d : Nat) (x : DiePace) : (setDie s d x).tb = s.tb := rfl
@[simp] theorem setDie_pace (s : State) (d : Nat) (x : DiePace) : (setDie s d x).pace = s.pace := rfl
@[simp] theorem setDie_dies (s : State) (d : Nat) (x : DiePace) : (setDie s d x).dies = vset s.dies d x := rfl
@[simp] theorem setDie_limits (s : State) (d : Nat) (x : DiePace) : (setDie s d x).limits = s.limits := rfl
@[simp] theorem setDie_units (s : State) (d : Nat) (x : DiePace) : (setDie s d x).units = s.units := rfl
@[simp] theorem setDie_groups (s : State) (d : Nat) (x : DiePace) : (setDie s d x).groups = s.groups := rfl
@[simp] theorem setDie_ecc (s : State) (d : Nat) (x : DiePace) : (setDie s d x).ecc = s.ecc := rfl
@[simp] theorem setDie_mem (s : State) (d : Nat) (x : DiePace) : (setDie s d x).mem = s.mem := rfl
@[simp] theorem setDie_cores (s : State) (d : Nat) (x : DiePace) : (setDie s d x).cores = s.cores := rfl
@[simp] theorem setDie_clusters (s : State) (d : Nat) (x : DiePace) : (setDie s d x).clusters = s.clusters := rfl
@[simp] theorem setDie_channels (s : State) (d : Nat) (x : DiePace) : (setDie s d x).channels = s.channels := rfl
@[simp] theorem setDie_ports (s : State) (d : Nat) (x : DiePace) : (setDie s d x).ports = s.ports := rfl
@[simp] theorem setDie_doze (s : State) (d : Nat) (x : DiePace) : (setDie s d x).doze = s.doze := rfl
@[simp] theorem setDie_fab (s : State) (d : Nat) (x : DiePace) : (setDie s d x).fab = s.fab := rfl
@[simp] theorem setDie_seq (s : State) (d : Nat) (x : DiePace) : (setDie s d x).seq = s.seq := rfl
@[simp] theorem setDie_xl (s : State) (d : Nat) (x : DiePace) : (setDie s d x).xl = s.xl := rfl
@[simp] theorem setDie_cmd (s : State) (d : Nat) (x : DiePace) : (setDie s d x).cmd = s.cmd := rfl
@[simp] theorem setDie_host (s : State) (d : Nat) (x : DiePace) : (setDie s d x).host = s.host := rfl
@[simp] theorem setDie_lease (s : State) (d : Nat) (x : DiePace) : (setDie s d x).lease = s.lease := rfl
@[simp] theorem setDie_sec (s : State) (d : Nat) (x : DiePace) : (setDie s d x).sec = s.sec := rfl
@[simp] theorem setDie_audit (s : State) (d : Nat) (x : DiePace) : (setDie s d x).audit = s.audit := rfl
@[simp] theorem setDie_faults (s : State) (d : Nat) (x : DiePace) : (setDie s d x).faults = s.faults := rfl
@[simp] theorem setDie_rst (s : State) (d : Nat) (x : DiePace) : (setDie s d x).rst = s.rst := rfl
@[simp] theorem setDie_dumps (s : State) (d : Nat) (x : DiePace) : (setDie s d x).dumps = s.dumps := rfl
@[simp] theorem setDie_dumpCount (s : State) (d : Nat) (x : DiePace) : (setDie s d x).dumpCount = s.dumpCount := rfl
@[simp] theorem setDie_stopArm (s : State) (d : Nat) (x : DiePace) : (setDie s d x).stopArm = s.stopArm := rfl
@[simp] theorem setDie_sb (s : State) (d : Nat) (x : DiePace) : (setDie s d x).sb = s.sb := rfl
@[simp] theorem setDie_straps (s : State) (d : Nat) (x : DiePace) : (setDie s d x).straps = s.straps := rfl

@[simp] theorem setFaults_pending (s : State) (d : Nat) (f : FaultSt) : (setFaults s d f).pending = s.pending := rfl
@[simp] theorem setFaults_out (s : State) (d : Nat) (f : FaultSt) : (setFaults s d f).out = s.out := rfl
@[simp] theorem setFaults_free (s : State) (d : Nat) (f : FaultSt) : (setFaults s d f).free = s.free := rfl
@[simp] theorem setFaults_tb (s : State) (d : Nat) (f : FaultSt) : (setFaults s d f).tb = s.tb := rfl
@[simp] theorem setFaults_pace (s : State) (d : Nat) (f : FaultSt) : (setFaults s d f).pace = s.pace := rfl
@[simp] theorem setFaults_dies (s : State) (d : Nat) (f : FaultSt) : (setFaults s d f).dies = s.dies := rfl
@[simp] theorem setFaults_limits (s : State) (d : Nat) (f : FaultSt) : (setFaults s d f).limits = s.limits := rfl
@[simp] theorem setFaults_units (s : State) (d : Nat) (f : FaultSt) : (setFaults s d f).units = s.units := rfl
@[simp] theorem setFaults_groups (s : State) (d : Nat) (f : FaultSt) : (setFaults s d f).groups = s.groups := rfl
@[simp] theorem setFaults_ecc (s : State) (d : Nat) (f : FaultSt) : (setFaults s d f).ecc = s.ecc := rfl
@[simp] theorem setFaults_mem (s : State) (d : Nat) (f : FaultSt) : (setFaults s d f).mem = s.mem := rfl
@[simp] theorem setFaults_cores (s : State) (d : Nat) (f : FaultSt) : (setFaults s d f).cores = s.cores := rfl
@[simp] theorem setFaults_clusters (s : State) (d : Nat) (f : FaultSt) : (setFaults s d f).clusters = s.clusters := rfl
@[simp] theorem setFaults_channels (s : State) (d : Nat) (f : FaultSt) : (setFaults s d f).channels = s.channels := rfl
@[simp] theorem setFaults_ports (s : State) (d : Nat) (f : FaultSt) : (setFaults s d f).ports = s.ports := rfl
@[simp] theorem setFaults_doze (s : State) (d : Nat) (f : FaultSt) : (setFaults s d f).doze = s.doze := rfl
@[simp] theorem setFaults_fab (s : State) (d : Nat) (f : FaultSt) : (setFaults s d f).fab = s.fab := rfl
@[simp] theorem setFaults_seq (s : State) (d : Nat) (f : FaultSt) : (setFaults s d f).seq = s.seq := rfl
@[simp] theorem setFaults_xl (s : State) (d : Nat) (f : FaultSt) : (setFaults s d f).xl = s.xl := rfl
@[simp] theorem setFaults_cmd (s : State) (d : Nat) (f : FaultSt) : (setFaults s d f).cmd = s.cmd := rfl
@[simp] theorem setFaults_host (s : State) (d : Nat) (f : FaultSt) : (setFaults s d f).host = s.host := rfl
@[simp] theorem setFaults_lease (s : State) (d : Nat) (f : FaultSt) : (setFaults s d f).lease = s.lease := rfl
@[simp] theorem setFaults_sec (s : State) (d : Nat) (f : FaultSt) : (setFaults s d f).sec = s.sec := rfl
@[simp] theorem setFaults_audit (s : State) (d : Nat) (f : FaultSt) : (setFaults s d f).audit = s.audit := rfl
@[simp] theorem setFaults_faults (s : State) (d : Nat) (f : FaultSt) : (setFaults s d f).faults = vset s.faults d f := rfl
@[simp] theorem setFaults_rst (s : State) (d : Nat) (f : FaultSt) : (setFaults s d f).rst = s.rst := rfl
@[simp] theorem setFaults_dumps (s : State) (d : Nat) (f : FaultSt) : (setFaults s d f).dumps = s.dumps := rfl
@[simp] theorem setFaults_dumpCount (s : State) (d : Nat) (f : FaultSt) : (setFaults s d f).dumpCount = s.dumpCount := rfl
@[simp] theorem setFaults_stopArm (s : State) (d : Nat) (f : FaultSt) : (setFaults s d f).stopArm = s.stopArm := rfl
@[simp] theorem setFaults_sb (s : State) (d : Nat) (f : FaultSt) : (setFaults s d f).sb = s.sb := rfl
@[simp] theorem setFaults_straps (s : State) (d : Nat) (f : FaultSt) : (setFaults s d f).straps = s.straps := rfl

@[simp] theorem modPort_pending (s : State) (p : Nat) (f : PortSt → PortSt) : (modPort s p f).pending = s.pending := rfl
@[simp] theorem modPort_out (s : State) (p : Nat) (f : PortSt → PortSt) : (modPort s p f).out = s.out := rfl
@[simp] theorem modPort_free (s : State) (p : Nat) (f : PortSt → PortSt) : (modPort s p f).free = s.free := rfl
@[simp] theorem modPort_tb (s : State) (p : Nat) (f : PortSt → PortSt) : (modPort s p f).tb = s.tb := rfl
@[simp] theorem modPort_pace (s : State) (p : Nat) (f : PortSt → PortSt) : (modPort s p f).pace = s.pace := rfl
@[simp] theorem modPort_dies (s : State) (p : Nat) (f : PortSt → PortSt) : (modPort s p f).dies = s.dies := rfl
@[simp] theorem modPort_limits (s : State) (p : Nat) (f : PortSt → PortSt) : (modPort s p f).limits = s.limits := rfl
@[simp] theorem modPort_units (s : State) (p : Nat) (f : PortSt → PortSt) : (modPort s p f).units = s.units := rfl
@[simp] theorem modPort_groups (s : State) (p : Nat) (f : PortSt → PortSt) : (modPort s p f).groups = s.groups := rfl
@[simp] theorem modPort_ecc (s : State) (p : Nat) (f : PortSt → PortSt) : (modPort s p f).ecc = s.ecc := rfl
@[simp] theorem modPort_mem (s : State) (p : Nat) (f : PortSt → PortSt) : (modPort s p f).mem = s.mem := rfl
@[simp] theorem modPort_cores (s : State) (p : Nat) (f : PortSt → PortSt) : (modPort s p f).cores = s.cores := rfl
@[simp] theorem modPort_clusters (s : State) (p : Nat) (f : PortSt → PortSt) : (modPort s p f).clusters = s.clusters := rfl
@[simp] theorem modPort_channels (s : State) (p : Nat) (f : PortSt → PortSt) : (modPort s p f).channels = s.channels := rfl
@[simp] theorem modPort_ports (s : State) (p : Nat) (f : PortSt → PortSt) : (modPort s p f).ports = vset s.ports p (f (vget s.ports .init p)) := rfl
@[simp] theorem modPort_doze (s : State) (p : Nat) (f : PortSt → PortSt) : (modPort s p f).doze = s.doze := rfl
@[simp] theorem modPort_fab (s : State) (p : Nat) (f : PortSt → PortSt) : (modPort s p f).fab = s.fab := rfl
@[simp] theorem modPort_seq (s : State) (p : Nat) (f : PortSt → PortSt) : (modPort s p f).seq = s.seq := rfl
@[simp] theorem modPort_xl (s : State) (p : Nat) (f : PortSt → PortSt) : (modPort s p f).xl = s.xl := rfl
@[simp] theorem modPort_cmd (s : State) (p : Nat) (f : PortSt → PortSt) : (modPort s p f).cmd = s.cmd := rfl
@[simp] theorem modPort_host (s : State) (p : Nat) (f : PortSt → PortSt) : (modPort s p f).host = s.host := rfl
@[simp] theorem modPort_lease (s : State) (p : Nat) (f : PortSt → PortSt) : (modPort s p f).lease = s.lease := rfl
@[simp] theorem modPort_sec (s : State) (p : Nat) (f : PortSt → PortSt) : (modPort s p f).sec = s.sec := rfl
@[simp] theorem modPort_audit (s : State) (p : Nat) (f : PortSt → PortSt) : (modPort s p f).audit = s.audit := rfl
@[simp] theorem modPort_faults (s : State) (p : Nat) (f : PortSt → PortSt) : (modPort s p f).faults = s.faults := rfl
@[simp] theorem modPort_rst (s : State) (p : Nat) (f : PortSt → PortSt) : (modPort s p f).rst = s.rst := rfl
@[simp] theorem modPort_dumps (s : State) (p : Nat) (f : PortSt → PortSt) : (modPort s p f).dumps = s.dumps := rfl
@[simp] theorem modPort_dumpCount (s : State) (p : Nat) (f : PortSt → PortSt) : (modPort s p f).dumpCount = s.dumpCount := rfl
@[simp] theorem modPort_stopArm (s : State) (p : Nat) (f : PortSt → PortSt) : (modPort s p f).stopArm = s.stopArm := rfl
@[simp] theorem modPort_sb (s : State) (p : Nat) (f : PortSt → PortSt) : (modPort s p f).sb = s.sb := rfl
@[simp] theorem modPort_straps (s : State) (p : Nat) (f : PortSt → PortSt) : (modPort s p f).straps = s.straps := rfl

@[simp] theorem setStream_pending (s : State) (i : Nat) (x : StreamSt) : (setStream s i x).pending = s.pending := rfl
@[simp] theorem setStream_out (s : State) (i : Nat) (x : StreamSt) : (setStream s i x).out = s.out := rfl
@[simp] theorem setStream_free (s : State) (i : Nat) (x : StreamSt) : (setStream s i x).free = s.free := rfl
@[simp] theorem setStream_tb (s : State) (i : Nat) (x : StreamSt) : (setStream s i x).tb = s.tb := rfl
@[simp] theorem setStream_pace (s : State) (i : Nat) (x : StreamSt) : (setStream s i x).pace = s.pace := rfl
@[simp] theorem setStream_dies (s : State) (i : Nat) (x : StreamSt) : (setStream s i x).dies = s.dies := rfl
@[simp] theorem setStream_limits (s : State) (i : Nat) (x : StreamSt) : (setStream s i x).limits = s.limits := rfl
@[simp] theorem setStream_units (s : State) (i : Nat) (x : StreamSt) : (setStream s i x).units = s.units := rfl
@[simp] theorem setStream_groups (s : State) (i : Nat) (x : StreamSt) : (setStream s i x).groups = s.groups := rfl
@[simp] theorem setStream_ecc (s : State) (i : Nat) (x : StreamSt) : (setStream s i x).ecc = s.ecc := rfl
@[simp] theorem setStream_mem (s : State) (i : Nat) (x : StreamSt) : (setStream s i x).mem = s.mem := rfl
@[simp] theorem setStream_cores (s : State) (i : Nat) (x : StreamSt) : (setStream s i x).cores = s.cores := rfl
@[simp] theorem setStream_clusters (s : State) (i : Nat) (x : StreamSt) : (setStream s i x).clusters = s.clusters := rfl
@[simp] theorem setStream_channels (s : State) (i : Nat) (x : StreamSt) : (setStream s i x).channels = s.channels := rfl
@[simp] theorem setStream_ports (s : State) (i : Nat) (x : StreamSt) : (setStream s i x).ports = s.ports := rfl
@[simp] theorem setStream_doze (s : State) (i : Nat) (x : StreamSt) : (setStream s i x).doze = s.doze := rfl
@[simp] theorem setStream_fab (s : State) (i : Nat) (x : StreamSt) : (setStream s i x).fab = s.fab := rfl
@[simp] theorem setStream_seq (s : State) (i : Nat) (x : StreamSt) : (setStream s i x).seq = s.seq := rfl
@[simp] theorem setStream_xl (s : State) (i : Nat) (x : StreamSt) : (setStream s i x).xl = s.xl := rfl
@[simp] theorem setStream_cmd (s : State) (i : Nat) (x : StreamSt) : (setStream s i x).cmd = s.cmd := rfl
@[simp] theorem setStream_host (s : State) (i : Nat) (x : StreamSt) : (setStream s i x).host = s.host := rfl
@[simp] theorem setStream_lease (s : State) (i : Nat) (x : StreamSt) : (setStream s i x).lease = s.lease := rfl
@[simp] theorem setStream_sec (s : State) (i : Nat) (x : StreamSt) : (setStream s i x).sec = { s.sec with streams := vset s.sec.streams i x } := rfl
@[simp] theorem setStream_audit (s : State) (i : Nat) (x : StreamSt) : (setStream s i x).audit = s.audit := rfl
@[simp] theorem setStream_faults (s : State) (i : Nat) (x : StreamSt) : (setStream s i x).faults = s.faults := rfl
@[simp] theorem setStream_rst (s : State) (i : Nat) (x : StreamSt) : (setStream s i x).rst = s.rst := rfl
@[simp] theorem setStream_dumps (s : State) (i : Nat) (x : StreamSt) : (setStream s i x).dumps = s.dumps := rfl
@[simp] theorem setStream_dumpCount (s : State) (i : Nat) (x : StreamSt) : (setStream s i x).dumpCount = s.dumpCount := rfl
@[simp] theorem setStream_stopArm (s : State) (i : Nat) (x : StreamSt) : (setStream s i x).stopArm = s.stopArm := rfl
@[simp] theorem setStream_sb (s : State) (i : Nat) (x : StreamSt) : (setStream s i x).sb = s.sb := rfl
@[simp] theorem setStream_straps (s : State) (i : Nat) (x : StreamSt) : (setStream s i x).straps = s.straps := rfl

@[simp] theorem clearRange_pending (s : State) (a n : Nat) : (clearRange s a n).pending = s.pending := rfl
@[simp] theorem clearRange_out (s : State) (a n : Nat) : (clearRange s a n).out = s.out := rfl
@[simp] theorem clearRange_free (s : State) (a n : Nat) : (clearRange s a n).free = s.free := rfl
@[simp] theorem clearRange_tb (s : State) (a n : Nat) : (clearRange s a n).tb = s.tb := rfl
@[simp] theorem clearRange_pace (s : State) (a n : Nat) : (clearRange s a n).pace = s.pace := rfl
@[simp] theorem clearRange_dies (s : State) (a n : Nat) : (clearRange s a n).dies = s.dies := rfl
@[simp] theorem clearRange_limits (s : State) (a n : Nat) : (clearRange s a n).limits = s.limits := rfl
@[simp] theorem clearRange_units (s : State) (a n : Nat) : (clearRange s a n).units = s.units := rfl
@[simp] theorem clearRange_groups (s : State) (a n : Nat) : (clearRange s a n).groups = s.groups := rfl
@[simp] theorem clearRange_ecc (s : State) (a n : Nat) : (clearRange s a n).ecc = { s.ecc with lines := freshLines (fun l => a / 64 ≤ l && l < (a + n) / 64) s.ecc.lines } := rfl
@[simp] theorem clearRange_cores (s : State) (a n : Nat) : (clearRange s a n).cores = s.cores := rfl
@[simp] theorem clearRange_clusters (s : State) (a n : Nat) : (clearRange s a n).clusters = s.clusters := rfl
@[simp] theorem clearRange_channels (s : State) (a n : Nat) : (clearRange s a n).channels = s.channels := rfl
@[simp] theorem clearRange_ports (s : State) (a n : Nat) : (clearRange s a n).ports = s.ports := rfl
@[simp] theorem clearRange_doze (s : State) (a n : Nat) : (clearRange s a n).doze = s.doze := rfl
@[simp] theorem clearRange_fab (s : State) (a n : Nat) : (clearRange s a n).fab = s.fab := rfl
@[simp] theorem clearRange_seq (s : State) (a n : Nat) : (clearRange s a n).seq = s.seq := rfl
@[simp] theorem clearRange_xl (s : State) (a n : Nat) : (clearRange s a n).xl = s.xl := rfl
@[simp] theorem clearRange_cmd (s : State) (a n : Nat) : (clearRange s a n).cmd = s.cmd := rfl
@[simp] theorem clearRange_host (s : State) (a n : Nat) : (clearRange s a n).host = s.host := rfl
@[simp] theorem clearRange_lease (s : State) (a n : Nat) : (clearRange s a n).lease = s.lease := rfl
@[simp] theorem clearRange_sec (s : State) (a n : Nat) : (clearRange s a n).sec = s.sec := rfl
@[simp] theorem clearRange_audit (s : State) (a n : Nat) : (clearRange s a n).audit = s.audit := rfl
@[simp] theorem clearRange_faults (s : State) (a n : Nat) : (clearRange s a n).faults = s.faults := rfl
@[simp] theorem clearRange_rst (s : State) (a n : Nat) : (clearRange s a n).rst = s.rst := rfl
@[simp] theorem clearRange_dumps (s : State) (a n : Nat) : (clearRange s a n).dumps = s.dumps := rfl
@[simp] theorem clearRange_dumpCount (s : State) (a n : Nat) : (clearRange s a n).dumpCount = s.dumpCount := rfl
@[simp] theorem clearRange_stopArm (s : State) (a n : Nat) : (clearRange s a n).stopArm = s.stopArm := rfl
@[simp] theorem clearRange_sb (s : State) (a n : Nat) : (clearRange s a n).sb = s.sb := rfl
@[simp] theorem clearRange_straps (s : State) (a n : Nat) : (clearRange s a n).straps = s.straps := rfl

@[simp] theorem installKey_pending (s : State) : (installKey s).pending = s.pending := rfl
@[simp] theorem installKey_out (s : State) : (installKey s).out = s.out := rfl
@[simp] theorem installKey_free (s : State) : (installKey s).free = s.free := rfl
@[simp] theorem installKey_tb (s : State) : (installKey s).tb = s.tb := rfl
@[simp] theorem installKey_pace (s : State) : (installKey s).pace = s.pace := rfl
@[simp] theorem installKey_dies (s : State) : (installKey s).dies = s.dies := rfl
@[simp] theorem installKey_limits (s : State) : (installKey s).limits = s.limits := rfl
@[simp] theorem installKey_units (s : State) : (installKey s).units = s.units := rfl
@[simp] theorem installKey_groups (s : State) : (installKey s).groups = s.groups := rfl
@[simp] theorem installKey_ecc (s : State) : (installKey s).ecc = s.ecc := rfl
@[simp] theorem installKey_mem (s : State) : (installKey s).mem = { s.mem with keyGen := s.mem.keyNext, keyNext := s.mem.keyNext + 1 } := rfl
@[simp] theorem installKey_cores (s : State) : (installKey s).cores = s.cores := rfl
@[simp] theorem installKey_clusters (s : State) : (installKey s).clusters = s.clusters := rfl
@[simp] theorem installKey_channels (s : State) : (installKey s).channels = s.channels := rfl
@[simp] theorem installKey_ports (s : State) : (installKey s).ports = s.ports := rfl
@[simp] theorem installKey_doze (s : State) : (installKey s).doze = s.doze := rfl
@[simp] theorem installKey_fab (s : State) : (installKey s).fab = s.fab := rfl
@[simp] theorem installKey_seq (s : State) : (installKey s).seq = s.seq := rfl
@[simp] theorem installKey_xl (s : State) : (installKey s).xl = s.xl := rfl
@[simp] theorem installKey_cmd (s : State) : (installKey s).cmd = s.cmd := rfl
@[simp] theorem installKey_host (s : State) : (installKey s).host = s.host := rfl
@[simp] theorem installKey_lease (s : State) : (installKey s).lease = s.lease := rfl
@[simp] theorem installKey_sec (s : State) : (installKey s).sec = s.sec := rfl
@[simp] theorem installKey_audit (s : State) : (installKey s).audit = s.audit := rfl
@[simp] theorem installKey_faults (s : State) : (installKey s).faults = s.faults := rfl
@[simp] theorem installKey_rst (s : State) : (installKey s).rst = s.rst := rfl
@[simp] theorem installKey_dumps (s : State) : (installKey s).dumps = s.dumps := rfl
@[simp] theorem installKey_dumpCount (s : State) : (installKey s).dumpCount = s.dumpCount := rfl
@[simp] theorem installKey_stopArm (s : State) : (installKey s).stopArm = s.stopArm := rfl
@[simp] theorem installKey_sb (s : State) : (installKey s).sb = s.sb := rfl
@[simp] theorem installKey_straps (s : State) : (installKey s).straps = s.straps := rfl

@[simp] theorem setEcc_pending (s : State) (l : Nat) (e : EccLine) : (setEcc s l e).pending = s.pending := rfl
@[simp] theorem setEcc_out (s : State) (l : Nat) (e : EccLine) : (setEcc s l e).out = s.out := rfl
@[simp] theorem setEcc_free (s : State) (l : Nat) (e : EccLine) : (setEcc s l e).free = s.free := rfl
@[simp] theorem setEcc_tb (s : State) (l : Nat) (e : EccLine) : (setEcc s l e).tb = s.tb := rfl
@[simp] theorem setEcc_pace (s : State) (l : Nat) (e : EccLine) : (setEcc s l e).pace = s.pace := rfl
@[simp] theorem setEcc_dies (s : State) (l : Nat) (e : EccLine) : (setEcc s l e).dies = s.dies := rfl
@[simp] theorem setEcc_limits (s : State) (l : Nat) (e : EccLine) : (setEcc s l e).limits = s.limits := rfl
@[simp] theorem setEcc_units (s : State) (l : Nat) (e : EccLine) : (setEcc s l e).units = s.units := rfl
@[simp] theorem setEcc_groups (s : State) (l : Nat) (e : EccLine) : (setEcc s l e).groups = s.groups := rfl
@[simp] theorem setEcc_cores (s : State) (l : Nat) (e : EccLine) : (setEcc s l e).cores = s.cores := rfl
@[simp] theorem setEcc_clusters (s : State) (l : Nat) (e : EccLine) : (setEcc s l e).clusters = s.clusters := rfl
@[simp] theorem setEcc_channels (s : State) (l : Nat) (e : EccLine) : (setEcc s l e).channels = s.channels := rfl
@[simp] theorem setEcc_ports (s : State) (l : Nat) (e : EccLine) : (setEcc s l e).ports = s.ports := rfl
@[simp] theorem setEcc_doze (s : State) (l : Nat) (e : EccLine) : (setEcc s l e).doze = s.doze := rfl
@[simp] theorem setEcc_fab (s : State) (l : Nat) (e : EccLine) : (setEcc s l e).fab = s.fab := rfl
@[simp] theorem setEcc_seq (s : State) (l : Nat) (e : EccLine) : (setEcc s l e).seq = s.seq := rfl
@[simp] theorem setEcc_xl (s : State) (l : Nat) (e : EccLine) : (setEcc s l e).xl = s.xl := rfl
@[simp] theorem setEcc_cmd (s : State) (l : Nat) (e : EccLine) : (setEcc s l e).cmd = s.cmd := rfl
@[simp] theorem setEcc_host (s : State) (l : Nat) (e : EccLine) : (setEcc s l e).host = s.host := rfl
@[simp] theorem setEcc_lease (s : State) (l : Nat) (e : EccLine) : (setEcc s l e).lease = s.lease := rfl
@[simp] theorem setEcc_sec (s : State) (l : Nat) (e : EccLine) : (setEcc s l e).sec = s.sec := rfl
@[simp] theorem setEcc_audit (s : State) (l : Nat) (e : EccLine) : (setEcc s l e).audit = s.audit := rfl
@[simp] theorem setEcc_faults (s : State) (l : Nat) (e : EccLine) : (setEcc s l e).faults = s.faults := rfl
@[simp] theorem setEcc_rst (s : State) (l : Nat) (e : EccLine) : (setEcc s l e).rst = s.rst := rfl
@[simp] theorem setEcc_dumps (s : State) (l : Nat) (e : EccLine) : (setEcc s l e).dumps = s.dumps := rfl
@[simp] theorem setEcc_dumpCount (s : State) (l : Nat) (e : EccLine) : (setEcc s l e).dumpCount = s.dumpCount := rfl
@[simp] theorem setEcc_stopArm (s : State) (l : Nat) (e : EccLine) : (setEcc s l e).stopArm = s.stopArm := rfl
@[simp] theorem setEcc_sb (s : State) (l : Nat) (e : EccLine) : (setEcc s l e).sb = s.sb := rfl
@[simp] theorem setEcc_straps (s : State) (l : Nat) (e : EccLine) : (setEcc s l e).straps = s.straps := rfl
@[simp] theorem setEcc_mem (s : State) (l : Nat) (e : EccLine) : (setEcc s l e).mem = s.mem := rfl
@[simp] theorem setEcc_ecc (s : State) (l : Nat) (e : EccLine) : (setEcc s l e).ecc = { s.ecc with lines := smapSet .none s.ecc.lines l e } := rfl

end Sys2Proof.Machine
end

