-- ==== Sys2Proof/Laws/Memory.lean ====
section
/-! SUPPORT. Laws of memory: every operation keeps the canonical form (R396 to R408), and a write reads back. -/

namespace Sys2Proof.Machine

theorem memWf_iff {m : MemSt} : memWf m = true ↔ smapWf 0 m.bytes = true ∧ smapWf false m.poison = true
    ∧ smapWf 0 m.tags = true ∧ smapWf 0 m.lineKey = true := by
  simp only [memWf, Bool.and_eq_true, and_assoc]

theorem memWf_init : memWf MemSt.init = true := rfl

theorem memWf_reset : memWf State.reset.mem = true := rfl

theorem memWf_setPoison {s : State} (l : Nat) (b : Bool) (h : memWf s.mem = true) : memWf (setPoison s l b).mem = true := by
  rw [memWf_iff] at *
  exact ⟨h.1, smapWf_set h.2.1, h.2.2.1, h.2.2.2⟩

theorem memWf_adoptLine {s : State} (l : Nat) (h : memWf s.mem = true) : memWf (adoptLine s l).mem = true := by
  unfold adoptLine
  split
  · rw [memWf_iff] at *
    dsimp only
    exact ⟨smapWf_setRun _ h.1, h.2.1, h.2.2.1, smapWf_set h.2.2.2⟩
  · exact h

theorem memWf_bytes {s : State} (a : Nat) (bs : List Byte) (h : memWf s.mem = true) :
    memWf { s.mem with bytes := smapSetRun 0 s.mem.bytes a bs } = true := by
  rw [memWf_iff] at *
  exact ⟨smapWf_setRun _ h.1, h.2.1, h.2.2.1, h.2.2.2⟩

theorem memWf_lineKey {s : State} (l v : Nat) (h : memWf s.mem = true) :
    memWf { s.mem with lineKey := smapSet 0 s.mem.lineKey l v } = true := by
  rw [memWf_iff] at *
  exact ⟨h.1, h.2.1, h.2.2.1, smapWf_set h.2.2.2⟩

/-- A read that meets an error changes the record of errors alone. -/
theorem meetError_eq (s : State) (l : Nat) : ∃ e, meetError s l = { s with ecc := e } := by
  unfold meetError
  dsimp only
  split
  · exact ⟨s.ecc, rfl⟩
  · split <;> exact ⟨_, rfl⟩

theorem demandLine_eq (s : State) (l : Nat) : ∃ e, demandLine s l = { s with ecc := e } := by
  unfold demandLine
  split
  · exact ⟨_, rfl⟩
  · exact meetError_eq s l

/-- A demand read changes the record of errors alone. -/
theorem demand_eq (s : State) (a n : Nat) : ∃ e, demand s a n = { s with ecc := e } := by
  unfold demand
  induction linesOf a n generalizing s with
  | nil => exact ⟨s.ecc, rfl⟩
  | cons l ls ih =>
    obtain ⟨e, he⟩ := demandLine_eq s l
    rw [List.foldl_cons, he]
    obtain ⟨f, hf⟩ := ih { s with ecc := e }
    exact ⟨f, hf⟩

/-- Demand reads of some ranges change the record of errors alone. -/
theorem demandAll_eq (s : State) (rs : List Rng) : ∃ e, demandAll s rs = { s with ecc := e } := by
  unfold demandAll
  induction rs generalizing s with
  | nil => exact ⟨s.ecc, rfl⟩
  | cons r rs ih =>
    obtain ⟨e, he⟩ := demand_eq s r.lo r.len
    rw [List.foldl_cons, he]
    obtain ⟨f, hf⟩ := ih { s with ecc := e }
    exact ⟨f, hf⟩

@[simp] theorem demand_mem (s : State) (a n : Nat) : (demand s a n).mem = s.mem := by
  obtain ⟨e, he⟩ := demand_eq s a n
  rw [he]

@[simp] theorem demand_cores (s : State) (a n : Nat) : (demand s a n).cores = s.cores := by
  obtain ⟨e, he⟩ := demand_eq s a n
  rw [he]

@[simp] theorem demandAll_mem (s : State) (rs : List Rng) : (demandAll s rs).mem = s.mem := by
  obtain ⟨e, he⟩ := demandAll_eq s rs
  rw [he]

@[simp] theorem demandAll_cores (s : State) (rs : List Rng) : (demandAll s rs).cores = s.cores := by
  obtain ⟨e, he⟩ := demandAll_eq s rs
  rw [he]

theorem memWf_writeLine {s : State} (a : Nat) (bs : List Byte) (h : memWf s.mem = true) : memWf (writeLine s a bs).mem = true := by
  unfold writeLine
  have key : ∀ t : State, memWf t.mem = true → memWf { t.mem with bytes := smapSetRun 0 t.mem.bytes a bs } = true :=
    fun t ht => memWf_bytes a bs ht
  by_cases hw : a % 64 = 0 ∧ bs.length = 64
  · simp only [hw, and_self, if_true]
    apply memWf_setPoison
    split
    · exact memWf_lineKey (s := { s with mem := { s.mem with bytes := smapSetRun 0 s.mem.bytes a bs } }) _ _ (key s h)
    · exact key s h
  · simp only [hw, if_false]
    obtain ⟨e, he⟩ := meetError_eq (adoptLine s (lineOf a)) (lineOf a)
    rw [he]
    exact key _ (memWf_adoptLine _ h)

theorem memWf_writeWords (fuel : Nat) : ∀ {s : State} (a : Nat) (bs : List Byte), memWf s.mem = true →
    memWf (writeWords s fuel a bs).mem = true := by
  induction fuel with
  | zero => intro s a bs h; exact h
  | succ n ih =>
    intro s a bs h
    unfold writeWords
    split
    · exact h
    · exact ih _ _ (memWf_writeLine _ _ h)

/-- A write of bytes keeps memory's canonical form. -/
theorem memWf_writeBytes {s : State} (a : Nat) (bs : List Byte) (h : memWf s.mem = true) : memWf (writeBytes s a bs).mem = true :=
  memWf_writeWords _ _ _ h

theorem memWf_writeNat {s : State} (a n x : Nat) (h : memWf s.mem = true) : memWf (writeNat s a n x).mem = true :=
  memWf_writeBytes _ _ h

theorem memWf_clearRange {s : State} (a n : Nat) (h : memWf s.mem = true) : memWf (clearRange s a n).mem = true := by
  rw [memWf_iff] at *
  exact ⟨smapWf_clear _ _ h.1, smapWf_clear _ _ h.2.1, h.2.2.1, h.2.2.2⟩

theorem memWf_clearChannel {s : State} (n : Nat) (h : memWf s.mem = true) : memWf (clearChannel s n).mem = true := by
  rw [memWf_iff] at *
  exact ⟨smapWf_filter _ h.1, smapWf_filter _ h.2.1, smapWf_filter _ h.2.2.1, smapWf_filter _ h.2.2.2⟩

theorem memWf_clearHbm {s : State} (h : memWf s.mem = true) : memWf (clearHbm s).mem = true := by
  rw [memWf_iff] at *
  exact ⟨smapWf_filter _ h.1, smapWf_filter _ h.2.1, rfl, rfl⟩

theorem memWf_installKey {s : State} (h : memWf s.mem = true) : memWf (installKey s).mem = true := h

theorem memWf_tags {s : State} (l : Nat) (t : BitVec 48) (h : memWf s.mem = true) :
    memWf { s.mem with tags := smapSet 0 s.mem.tags l t } = true := by
  rw [memWf_iff] at *
  exact ⟨h.1, h.2.1, smapWf_set h.2.2.1, h.2.2.2⟩

theorem memWf_writeTagged {s : State} (l : Nat) (bs : List Byte) (t : BitVec 48) (h : memWf s.mem = true) :
    memWf (writeTagged s l bs t).mem = true :=
  memWf_tags (s := writeBytes s (l * 64) bs) l t (memWf_writeBytes _ _ h)

/-- A fold of operations that keep the form keeps it. -/
theorem memWf_foldl {β : Type} {f : State → β → State} (hf : ∀ s x, memWf s.mem = true → memWf (f s x).mem = true) (xs : List β) :
    ∀ {s : State}, memWf s.mem = true → memWf (xs.foldl f s).mem = true := by
  induction xs with
  | nil => intro s h; exact h
  | cons x xs ih => intro s h; exact ih (hf s x h)

theorem memWf_zeroFrame {s : State} (g : BitVec 256) (f : Nat) (t : BitVec 48) (h : memWf s.mem = true) :
    memWf (zeroFrame s g f t).mem = true :=
  memWf_foldl (fun _ _ h => memWf_writeTagged _ _ _ h) _ h

theorem memWf_retagFrame {s : State} (g : BitVec 256) (f : Nat) (t : BitVec 48) (h : memWf s.mem = true) :
    memWf (retagFrame s g f t).mem = true := by
  refine memWf_foldl (fun s x h => ?_) _ h
  split
  · exact memWf_tags _ _ h
  · exact memWf_writeTagged _ _ _ h

theorem memWf_writePte {s : State} (g : BitVec 256) (c l : Nat) (p : Option Nat) (x : Nat) (h : memWf s.mem = true) :
    memWf (writePte s g c l p x).mem = true := memWf_writeNat _ _ _ h

/-! ### Reads after writes -/

theorem isHbm_line (a : Nat) : isHbm (lineOf a * 64) = isHbm a := by
  rw [Bool.eq_iff_iff]
  unfold isHbm lineOf hbmBase hbmEnd
  simp only [Bool.and_eq_true, decide_eq_true_eq]
  omega

/-- What a byte reads as is settled by its line's stored bytes, its line's key and the key in force. -/
theorem readByte_congr {s t : State} {b : Nat} (h1 : lineGen t (lineOf b) = lineGen s (lineOf b)) (h2 : t.mem.keyGen = s.mem.keyGen)
    (h3 : ∀ x, lineOf x = lineOf b → rawByte t x = rawByte s x) : readByte t b = readByte s b := by
  have h4 : (List.range 64).map (fun i => rawByte t (lineOf b * 64 + i)) = (List.range 64).map (fun i => rawByte s (lineOf b * 64 + i)) := by
    refine List.map_congr_left fun i hi => h3 _ ?_
    have := List.mem_range.mp hi
    unfold lineOf
    omega
  unfold readByte lineForeign
  rw [h1, h2, h4, h3 b rfl]

theorem readByte_own {s : State} {b : Nat} (h : lineForeign s (lineOf b) = false) : readByte s b = rawByte s b := by
  unfold readByte
  rw [if_neg (by simp [h])]

/-- The merge read before a partial write changes no byte that is read, and leaves the line under the key in force. -/
theorem adoptLine_own {s : State} (l : Nat) (h : memWf s.mem = true) : lineForeign (adoptLine s l) l = false := by
  unfold adoptLine
  split
  · have hg : lineGen { s with mem := { s.mem with
        bytes := smapSetRun 0 s.mem.bytes (l * 64) (readBytes s (l * 64) 64)
        lineKey := smapSet 0 s.mem.lineKey l (s.mem.keyGen + 1) } } l = s.mem.keyGen := by
      unfold lineGen
      dsimp only
      rw [smapGet_set_same (memWf_iff.mp h).2.2.2]
    unfold lineForeign
    dsimp only at hg ⊢
    rw [hg]
    simp
  · rename_i hf
    exact Bool.not_eq_true _ ▸ hf

theorem readByte_adoptLine {s : State} (l b : Nat) (h : memWf s.mem = true) : readByte (adoptLine s l) b = readByte s b := by
  by_cases hf : lineForeign s l = true
  · by_cases hb : lineOf b = l
    · rw [readByte_own (hb ▸ adoptLine_own l h)]
      unfold adoptLine
      rw [if_pos hf]
      unfold rawByte
      dsimp only
      have e : b = l * 64 + (b - l * 64) := by unfold lineOf at hb; omega
      have hlt : b - l * 64 < 64 := by unfold lineOf at hb; omega
      have hl : b - l * 64 < (readBytes s (l * 64) 64).length := by simpa [readBytes] using hlt
      rw [e, smapGet_setRun_in _ (memWf_iff.mp h).1 (by simpa [readBytes] using hlt)]
      simp [readBytes]
    · refine readByte_congr ?_ ?_ ?_
      · unfold adoptLine
        rw [if_pos hf]
        unfold lineGen
        dsimp only
        rw [smapGet_set_other hb]
      · unfold adoptLine; rw [if_pos hf]
      · intro x hx
        unfold adoptLine
        rw [if_pos hf]
        unfold rawByte
        dsimp only
        rw [smapGet_setRun_other]
        simp only [readBytes, List.length_map, List.length_range]
        unfold lineOf at hx hb
        omega
  · unfold adoptLine
    rw [if_neg hf]

/-- A state whose bytes alone differ, by a run of writes within one line that is under the key in force. -/
theorem readByte_run {u f : State} {a : Nat} {bs : List Byte} (b : Nat) (h : smapWf 0 u.mem.bytes = true)
    (hn : a % 64 + bs.length ≤ 64) (h1 : f.mem.bytes = smapSetRun 0 u.mem.bytes a bs) (h2 : f.mem.keyGen = u.mem.keyGen)
    (h3 : lineForeign f (lineOf a) = false) (h4 : bs.length < 64 → lineForeign u (lineOf a) = false)
    (h5 : ∀ l, l ≠ lineOf a → lineGen f l = lineGen u l) :
    readByte f b = if a ≤ b ∧ b < a + bs.length then bs.getD (b - a) 0 else readByte u b := by
  have raw : ∀ x, rawByte f x = if a ≤ x ∧ x < a + bs.length then bs.getD (x - a) 0 else rawByte u x := by
    intro x
    unfold rawByte
    rw [h1]
    split
    · rename_i hx
      have hi : x - a < bs.length := by omega
      rw [show x = a + (x - a) by omega, smapGet_setRun_in bs h hi, List.getD_eq_getElem?_getD, Nat.add_sub_cancel_left,
        List.getElem?_eq_getElem hi]
      rfl
    · rw [smapGet_setRun_other]
      omega
  by_cases hb : lineOf b = lineOf a
  · rw [readByte_own (hb ▸ h3), raw b]
    split
    · rfl
    · rename_i hx
      have hl : bs.length < 64 := by unfold lineOf at hb; omega
      rw [readByte_own (hb ▸ h4 hl)]
  · have hx : ¬(a ≤ b ∧ b < a + bs.length) := by unfold lineOf at hb; omega
    rw [if_neg hx]
    refine readByte_congr (h5 _ hb) h2 fun x e => ?_
    rw [raw x, if_neg]
    unfold lineOf at hb e
    omega

/-- One word's part of a write: the bytes written read back, every other byte reads as before. -/
theorem readByte_writeLine {s : State} (a : Nat) (bs : List Byte) (b : Nat) (h : memWf s.mem = true) (hn : a % 64 + bs.length ≤ 64) :
    readByte (writeLine s a bs) b = if a ≤ b ∧ b < a + bs.length then bs.getD (b - a) 0 else readByte s b := by
  unfold writeLine
  dsimp only
  by_cases hw : a % 64 = 0 ∧ bs.length = 64
  · simp only [if_pos hw]
    by_cases hh : isHbm a = true
    · rw [if_pos hh]
      have e : lineOf a * 64 = a := by unfold lineOf; omega
      refine readByte_run b (memWf_iff.mp h).1 hn rfl rfl ?_ (fun x => by omega) ?_
      · unfold lineForeign lineGen setPoison setEcc
        dsimp only
        rw [smapGet_set_same (memWf_iff.mp h).2.2.2, e]
        generalize (vget s.channels .init (hbmChannel a)).baseGen = base
        by_cases e2 : base = s.mem.keyGen <;> simp [e2]
      · intro l hl
        unfold lineGen setPoison setEcc
        dsimp only
        rw [smapGet_set_other hl]
    · rw [if_neg hh]
      refine readByte_run b (memWf_iff.mp h).1 hn rfl rfl ?_ (fun x => by omega) fun l _ => rfl
      unfold lineForeign
      rw [isHbm_line, Bool.eq_false_iff.mpr hh]
      rfl
  · simp only [if_neg hw]
    have ha := adoptLine_own (lineOf a) h
    rw [← readByte_adoptLine (lineOf a) b h]
    obtain ⟨e, he⟩ := meetError_eq (adoptLine s (lineOf a)) (lineOf a)
    rw [he]
    exact readByte_run b (memWf_iff.mp (memWf_adoptLine (lineOf a) h)).1 hn rfl rfl ha (fun _ => ha) fun l _ => rfl

end Sys2Proof.Machine
end

