-- ==== Sys2Proof/Laws/Core.lean ====
section
/-! SUPPORT. Laws of core state: reading a core after writing one, registers after a write, and the tiles an instruction
reads. -/

namespace Sys2Proof.Machine

/-! ### One core's state -/

@[simp] theorem getCore_putCore (s : State) (c : Fin 192) (x : CoreSt) : getCore (putCore s c x) c = x := by
  simp [getCore, putCore]

theorem getCore_putCore_other (s : State) {c d : Fin 192} (x : CoreSt) (h : d ≠ c) : getCore (putCore s c x) d = getCore s d := by
  have : c.val ≠ d.val := fun e => h (Fin.ext e.symm)
  simp [getCore, putCore, Vector.getElem_set_ne, this]

@[simp] theorem getCore_modCore (s : State) (c : Fin 192) (f : CoreSt → CoreSt) : getCore (modCore s c f) c = f (getCore s c) := by
  simp [modCore]

theorem getCore_modCore_other (s : State) {c d : Fin 192} (f : CoreSt → CoreSt) (h : d ≠ c) :
    getCore (modCore s c f) d = getCore s d := getCore_putCore_other s _ h

@[simp] theorem putCore_putCore (s : State) (c : Fin 192) (x y : CoreSt) : putCore (putCore s c x) c y = putCore s c y := by
  simp [putCore]

@[simp] theorem putCore_getCore (s : State) (c : Fin 192) : putCore s c (getCore s c) = s := by
  simp [putCore, getCore]

/-- Two changes of one core are one. -/
theorem modCore_modCore (s : State) (c : Fin 192) (f g : CoreSt → CoreSt) :
    modCore (modCore s c f) c g = modCore s c fun x => g (f x) := by
  simp [modCore]

@[simp] theorem modCore_id (s : State) (c : Fin 192) : modCore s c (fun x => x) = s := by
  simp [modCore]

@[simp] theorem getCore_demand (s : State) (c : Fin 192) (a n : Nat) : getCore (demand s a n) c = getCore s c := by
  simp [getCore]

@[simp] theorem getCore_demandAll (s : State) (c : Fin 192) (rs : List Rng) : getCore (demandAll s rs) c = getCore s c := by
  simp [getCore]

/-! ### Registers -/

@[simp] theorem xr_zero (x : CoreSt) : xr x 0 = 0 := rfl

@[simp] theorem pr_zero (x : CoreSt) : pr x 0 = true := rfl

@[simp] theorem setX_zero (x : CoreSt) (v : BitVec 64) : setX x 0 v = x := rfl

@[simp] theorem setP_zero (x : CoreSt) (b : Bool) : setP x 0 b = x := rfl

theorem xr_setX_same (x : CoreSt) {r : Fin 32} (v : BitVec 64) (h : r ≠ 0) : xr (setX x r v) r = v := by
  simp [xr, setX, h]

theorem xr_setX_other (x : CoreSt) {r q : Fin 32} (v : BitVec 64) (h : q ≠ r) : xr (setX x r v) q = xr x q := by
  have : r.val ≠ q.val := fun e => h (Fin.ext e.symm)
  unfold xr setX
  split
  · rfl
  · split <;> simp [Vector.getElem_set_ne, this]

theorem pr_setP_same (x : CoreSt) {r : Fin 8} (b : Bool) (h : r ≠ 0) : pr (setP x r b) r = b := by
  simp [pr, setP, h]

theorem pr_setP_other (x : CoreSt) {r q : Fin 8} (b : Bool) (h : q ≠ r) : pr (setP x r b) q = pr x q := by
  have : r.val ≠ q.val := fun e => h (Fin.ext e.symm)
  unfold pr setP
  split
  · rfl
  · split <;> simp [Vector.getElem_set_ne, this]

/-! ### Tiles -/

/-- A descriptor that may be read now gives its tile. -/
theorem withTile_at {s : State} {c : Fin 192} {o a p : Nat} {t : TileDesc} {f : State → TileDesc → CoreOut}
    (h : TileAt s c a p t) (ho : o = (getCore s c).chainNext) : withTile s c o a f = f (demand s p 32) t := by
  subst ho
  obtain ⟨h1, h2, h3, h4, h5, h6⟩ := h
  unfold withTile readTile readDesc
  have h3' : blockedAt s c (getCore s c).chainNext [⟨p, 32⟩] [] = false := h3
  simp [h1, h2, h3', h4, h5, h6]

/-- Tiles that are free let the instruction go on. -/
theorem withTiles_free {s : State} {c : Fin 192} {o : Nat} {rs ws : List TileDesc} {mr mw : List Rng} {f : State → CoreOut}
    (h : TilesFree s c rs ws mr mw) (ho : o = (getCore s c).chainNext) :
    withTiles s c o rs ws mr mw f = f (tilesRead s c rs) := by
  subst ho
  obtain ⟨h1, h2⟩ := h
  unfold blocked at h1
  unfold withTiles
  simp only [h1, h2, Bool.false_eq_true, if_false]

/-- The matrix engine waits for no verdict where none is open. -/
theorem matrixHeld_false {x : CoreSt} (h : x.pend = none) (k : x.cont = none) : matrixHeld x = false := by
  simp [matrixHeld, h, k]

end Sys2Proof.Machine
end

