-- ==== Sys2Proof/Laws/Keeps.lean ====
section
/-! SUPPORT. What almost everything keeps: the queue of commands, the time, memory's canonical form, epochs that are not 0, and no
arming while a lease is open; and the ways a State is carried by the answers of the model's operations. -/

namespace Sys2Proof.Machine

/-- `t` has the queue and the time of `a`, memory in canonical form, epochs that are not 0 and no arming beside a lease where `a`
has, and with `m` the memory of `a`. -/
structure Keeps (m : Bool) (a t : State) : Prop where
  pending : t.pending = a.pending
  time : t.tb.count = a.tb.count
  mem : m = true → t.mem = a.mem
  wf : memWf a.mem = true → memWf t.mem = true
  epochs : EpochsOk a → EpochsOk t
  arm : ArmOk a → ArmOk t

/-- What holds of the value an option holds. -/
structure Given {α : Type} (P : α → Prop) (o : Option α) : Prop where
  get : ∀ x, o = some x → P x

/-- What holds of the right side of a sum. -/
structure GivenR {α β : Type} (P : β → Prop) (o : α ⊕ β) : Prop where
  get : ∀ x, o = .inr x → P x

/-- A meaning that answers a next state answers one that keeps what `Keeps` says. -/
structure KeepsRes (m : Bool) (a : State) (r : Res) : Prop where
  get : ∀ t, r = .next t → Keeps m a t

theorem Keeps.refl (m : Bool) (a : State) : Keeps m a a := ⟨rfl, rfl, fun _ => rfl, id, id, id⟩

theorem Keeps.trans {m : Bool} {a b c : State} (h : Keeps m a b) (k : Keeps m b c) : Keeps m a c :=
  ⟨k.pending.trans h.pending, k.time.trans h.time, fun x => (k.mem x).trans (h.mem x), fun x => k.wf (h.wf x),
    fun x => k.epochs (h.epochs x), fun x => k.arm (h.arm x)⟩

theorem Keeps.weaken {m : Bool} {a b : State} (h : Keeps m a b) : Keeps false a b :=
  ⟨h.pending, h.time, nofun, h.wf, h.epochs, h.arm⟩

theorem EpochsOk.of_eq {b t : State} (h : EpochsOk b) (h1 : t.units = b.units) (h2 : t.groups.epoch = b.groups.epoch) :
    EpochsOk t := by
  refine ⟨fun u => ?_, h2 ▸ h.2⟩
  have := h.1 u
  unfold getUnit at *
  rwa [h1]

/-- A group's epoch is not 0 where no epoch held is. -/
theorem groupEpoch_ne_zero {s : State} (h : EpochsOk s) (g : Nat) : groupEpoch s g ≠ 0 := by
  rcases smapGet_mem (d := (1 : BitVec 16)) (m := s.groups.epoch) (k := g) with e | e
  · unfold groupEpoch
    rw [e]
    decide
  · exact h.2 _ e

theorem ArmOk.of_eq {b t : State} (h : ArmOk b) (h1 : t.stopArm = b.stopArm) (h2 : t.lease.openL = b.lease.openL) : ArmOk t := by
  unfold ArmOk at *
  rwa [h1, h2]

/-- A state that differs from another in nothing that `Keeps` speaks of. -/
theorem Keeps.of_eq {m : Bool} {a b t : State} (h : Keeps m a b) (h1 : t.pending = b.pending) (h2 : t.tb.count = b.tb.count)
    (h3 : t.mem = b.mem) (h4 : t.units = b.units) (h5 : t.groups.epoch = b.groups.epoch) (h6 : t.stopArm = b.stopArm)
    (h7 : t.lease.openL = b.lease.openL) : Keeps m a t :=
  ⟨h1.trans h.pending, h2.trans h.time, fun x => h3.trans (h.mem x), fun x => h3 ▸ h.wf x,
    fun x => (h.epochs x).of_eq h4 h5, fun x => (h.arm x).of_eq h6 h7⟩

/-- A state that differs from another in the lease and the arming alone, of what `Keeps` speaks of. -/
theorem Keeps.of_arm {m : Bool} {a b t : State} (h : Keeps m a b) (h1 : t.pending = b.pending) (h2 : t.tb.count = b.tb.count)
    (h3 : t.mem = b.mem) (h4 : t.units = b.units) (h5 : t.groups.epoch = b.groups.epoch) (h6 : ArmOk b → ArmOk t) : Keeps m a t :=
  ⟨h1.trans h.pending, h2.trans h.time, fun x => h3.trans (h.mem x), fun x => h3 ▸ h.wf x,
    fun x => (h.epochs x).of_eq h4 h5, fun x => h6 (h.arm x)⟩

theorem armOk_disarmed {t : State} (h : t.stopArm = none) : ArmOk t := by
  intro x
  rw [h] at x
  exact absurd x nofun

theorem armOk_closed {t : State} (h : t.lease.openL = false) : ArmOk t := fun _ => h

/-- A state that differs from another in memory alone, of what `Keeps` speaks of. -/
theorem Keeps.of_wf {a b t : State} (h : Keeps false a b) (h1 : t.pending = b.pending) (h2 : t.tb.count = b.tb.count)
    (h3 : memWf b.mem = true → memWf t.mem = true) (h4 : t.units = b.units) (h5 : t.groups.epoch = b.groups.epoch)
    (h6 : t.stopArm = b.stopArm) (h7 : t.lease.openL = b.lease.openL) : Keeps false a t :=
  ⟨h1.trans h.pending, h2.trans h.time, nofun, fun x => h3 (h.wf x), fun x => (h.epochs x).of_eq h4 h5,
    fun x => (h.arm x).of_eq h6 h7⟩

/-- A record update of nothing that `Keeps` speaks of. -/
theorem keeps_mk_iff {m : Bool} {a b : State} {out : List OutEv} {free : Nat} {tb : TbSt} {pace : PaceSt} {dies : Vector DiePace
    2} {limits : Limits} {units : UnitTab} {groups : GroupSt} {mem : MemSt} {ecc : EccSt} {cores : Vector CoreSt 192} {clusters : Vector
    ClusterSt 24} {channels : Vector ChanSt 256} {ports : Vector PortSt 32} {doze : Vector DozeSt 256} {fab : FabSt} {seq :
    SeqSt} {xl : XlateSt} {cmd : CmdSt} {host : HostSt} {lease : LeaseSt} {sec : SecSt} {audit : AuditSt} {faults : Vector
    FaultSt 2} {rst : ResetSt} {dumps : List DumpRec} {dumpCount : Nat} {stopArm : Option (Nat × Nat)} {sb : SbSt} {straps :
    BitVec 3} (h1 : tb.count = b.tb.count) (h2 : mem = b.mem) (h3 : units = b.units) (h4 : groups.epoch = b.groups.epoch) (h5 :
    stopArm = b.stopArm) (h6 : lease.openL = b.lease.openL) : Keeps m a (State.mk b.pending out free tb pace dies limits units
    groups mem ecc cores clusters channels ports doze fab seq xl cmd host lease sec audit faults rst dumps dumpCount stopArm sb
    straps) ↔ Keeps m a b :=
  ⟨fun h => h.of_eq rfl h1.symm h2.symm h3.symm h4.symm h5.symm h6.symm, fun h => h.of_eq rfl h1 h2 h3 h4 h5 h6⟩

theorem given_none {α : Type} {P : α → Prop} : Given P none := ⟨fun _ e => nomatch e⟩

theorem given_some {α : Type} {P : α → Prop} {x : α} (h : P x) : Given P (some x) := ⟨fun _ e => Option.some.inj e ▸ h⟩

theorem givenR_inl {α β : Type} {P : β → Prop} {x : α} : GivenR P (.inl x : α ⊕ β) := ⟨fun _ e => nomatch e⟩

theorem givenR_inr {α β : Type} {P : β → Prop} {x : β} (h : P x) : GivenR P (.inr x : α ⊕ β) := ⟨fun _ e => Sum.inr.inj e ▸ h⟩

theorem given_map {α β : Type} {P : α → Prop} {Q : β → Prop} {f : α → β} {o : Option α} (h : Given P o)
    (hf : ∀ y, P y → Q (f y)) : Given Q (o.map f) := by
  cases o with
  | none => exact given_none
  | some y => exact given_some (hf y (h.get y rfl))

theorem given_bind {α β : Type} {P : α → Prop} {Q : β → Prop} {f : α → Option β} {o : Option α} (h : Given P o)
    (hf : ∀ y, P y → Given Q (f y)) : Given Q (o.bind f) := by
  cases o with
  | none => exact given_none
  | some y => exact hf y (h.get y rfl)

theorem given_getD {α : Type} {P : α → Prop} {o : Option α} {d : α} (h : Given P o) (k : P d) : P (o.getD d) := by
  cases o with
  | none => exact k
  | some y => exact h.get y rfl

theorem given_any {α : Type} {o : Option α} : Given (fun _ => True) o := ⟨fun _ _ => trivial⟩

theorem given_foldl {α β : Type} {P : α → Prop} {f : Option α → β → Option α} {xs : List β}
    (hf : ∀ s x, Given P s → Given P (f s x)) : ∀ {s : Option α}, Given P s → Given P (xs.foldl f s) := by
  induction xs with
  | nil => intro s h; exact h
  | cons x xs ih => intro s h; exact ih (hf s x h)

theorem keeps_of_some {m : Bool} {a t : State} {o : Option State} (h : Given (Keeps m a) o) (e : o = some t) : Keeps m a t := h.get t e

theorem keeps_of_some_fst {β : Type} {m : Bool} {a t : State} {o : Option (State × β)} {b : β} (h : Given (fun p => Keeps m a p.1) o)
    (e : o = some (t, b)) : Keeps m a t := h.get (t, b) e

theorem keeps_of_some_snd {β : Type} {m : Bool} {a t : State} {o : Option (β × State)} {b : β} (h : Given (fun p => Keeps m a p.2) o)
    (e : o = some (b, t)) : Keeps m a t := h.get (b, t) e

theorem keeps_of_some_trd {m : Bool} {β γ : Type} {a t : State} {o : Option (β × γ × State)} {b : β} {c : γ}
    (h : Given (fun p => Keeps m a p.2.2) o) (e : o = some (b, c, t)) : Keeps m a t := h.get (b, c, t) e

theorem keeps_of_inr_snd {α β : Type} {m : Bool} {a t : State} {o : α ⊕ (β × State)} {b : β} (h : GivenR (fun p => Keeps m a p.2) o)
    (e : o = .inr (b, t)) : Keeps m a t := h.get (b, t) e

theorem keeps_of_inr_trd {α β γ : Type} {m : Bool} {a t : State} {o : α ⊕ (β × γ × State)} {b : β} {c : γ}
    (h : GivenR (fun p => Keeps m a p.2.2) o) (e : o = .inr (b, c, t)) : Keeps m a t := h.get (b, c, t) e

theorem keepsRes_next {m : Bool} {a t : State} (h : Keeps m a t) : KeepsRes m a (.next t) := by
  constructor
  intro u e
  cases e
  exact h

theorem keepsRes_fault {m : Bool} {a : State} {f : Fault} : KeepsRes m a (.fault f) := ⟨fun _ e => nomatch e⟩

theorem keepsRes_refused {m : Bool} {a : State} {r : Refusal} : KeepsRes m a (.refused r) := ⟨fun _ e => nomatch e⟩

theorem keeps_ite {m : Bool} {a s t : State} {p : Prop} [Decidable p] (h : Keeps m a s) (k : Keeps m a t) : Keeps m a (if p then s else t) := by
  split
  · exact h
  · exact k

theorem keeps_of_fst {β : Type} {m : Bool} {a t : State} {p : State × β} {b : β} (h : Keeps m a p.1) (e : p = (t, b)) : Keeps m a t := by
  subst e; exact h

theorem keeps_of_snd {β : Type} {m : Bool} {a t : State} {p : β × State} {b : β} (h : Keeps m a p.2) (e : p = (b, t)) : Keeps m a t := by
  subst e; exact h

theorem keeps_of_trd {m : Bool} {β γ : Type} {a t : State} {p : β × γ × State} {b : β} {c : γ} (h : Keeps m a p.2.2) (e : p = (b, c, t)) :
    Keeps m a t := by
  subst e; exact h

theorem keeps_foldl {m : Bool} {β : Type} {a : State} {f : State → β → State} {xs : List β} (hf : ∀ s x, Keeps m a s → Keeps m a (f s x)) :
    ∀ {s : State}, Keeps m a s → Keeps m a (xs.foldl f s) := by
  induction xs with
  | nil => intro s h; exact h
  | cons x xs ih => intro s h; exact ih (hf s x h)

theorem keeps_foldl_fst {m : Bool} {β γ : Type} {a : State} {f : State × γ → β → State × γ} {xs : List β}
    (hf : ∀ s x, Keeps m a s.1 → Keeps m a (f s x).1) : ∀ {s : State × γ}, Keeps m a s.1 → Keeps m a (xs.foldl f s).1 := by
  induction xs with
  | nil => intro s h; exact h
  | cons x xs ih => intro s h; exact ih (hf s x h)

theorem keeps_foldl_snd {m : Bool} {β γ : Type} {a : State} {f : γ × State → β → γ × State} {xs : List β}
    (hf : ∀ s x, Keeps m a s.2 → Keeps m a (f s x).2) : ∀ {s : γ × State}, Keeps m a s.2 → Keeps m a (xs.foldl f s).2 := by
  induction xs with
  | nil => intro s h; exact h
  | cons x xs ih => intro s h; exact ih (hf s x h)

/-- What a fold keeps that each of its steps keeps. -/
theorem foldl_holds {α β : Type} {P : α → Prop} {f : α → β → α} {xs : List β} (hf : ∀ r x, P r → P (f r x)) :
    ∀ {r : α}, P r → P (xs.foldl f r) := by
  induction xs with
  | nil => intro r h; exact h
  | cons x xs ih => intro r h; exact ih (hf r x h)

/-! ### The operations of memory -/

theorem keeps_setPoison {a s : State} (l : Nat) (b : Bool) (h : Keeps false a s) : Keeps false a (setPoison s l b) :=
  h.of_wf rfl rfl (memWf_setPoison l b) rfl rfl rfl rfl

theorem keeps_adoptLine {a s : State} (l : Nat) (h : Keeps false a s) : Keeps false a (adoptLine s l) := by
  refine h.of_wf ?_ ?_ (memWf_adoptLine l) ?_ ?_ ?_ ?_ <;> (unfold adoptLine; split <;> rfl)

theorem keeps_setEcc {same : Bool} {a s : State} {line : Nat} {e : EccLine} (h0 : Keeps same a s) :
    Keeps same a (setEcc s line e) := by
  unfold setEcc
  try dsimp only
  repeat' first
    | (with_reducible first
        | assumption | simp only [keeps_mk_iff])
    | intro _
    | split

theorem keeps_meetError {same : Bool} {a s : State} {line : Nat} (h0 : Keeps same a s) :
    Keeps same a (meetError s line) := by
  unfold meetError
  try dsimp only
  repeat' first
    | (with_reducible first
        | assumption | apply keeps_setEcc)
    | intro _
    | split

theorem keeps_demandLine {same : Bool} {a s : State} {line : Nat} (h0 : Keeps same a s) :
    Keeps same a (demandLine s line) := by
  unfold demandLine
  try dsimp only
  repeat' first
    | (with_reducible first
        | assumption | apply keeps_setEcc | apply keeps_meetError | apply keeps_ite)
    | intro _
    | split

theorem keeps_demand {same : Bool} {a s : State} {y1 n : Nat} (h0 : Keeps same a s) :
    Keeps same a (demand s y1 n) := by
  unfold demand
  try dsimp only
  repeat' first
    | (with_reducible first
        | assumption | apply keeps_foldl | apply keeps_demandLine | apply keeps_foldl)
    | intro _
    | split

theorem keeps_demandAll {same : Bool} {a s : State} {rs : List Rng} (h0 : Keeps same a s) :
    Keeps same a (demandAll s rs) := by
  unfold demandAll
  try dsimp only
  repeat' first
    | (with_reducible first
        | assumption | apply keeps_foldl | apply keeps_demand | apply keeps_foldl)
    | intro _
    | split

theorem keeps_writeLine {a s : State} (x : Nat) (bs : List Byte) (h : Keeps false a s) : Keeps false a (writeLine s x bs) := by
  have k : Keeps false s (meetError (adoptLine s (lineOf x)) (lineOf x)) :=
    keeps_meetError (keeps_adoptLine (lineOf x) (Keeps.refl false s))
  have e : ∀ l, (meetError (adoptLine s l) l).units = s.units ∧ (meetError (adoptLine s l) l).groups.epoch = s.groups.epoch
      ∧ (meetError (adoptLine s l) l).stopArm = s.stopArm ∧ (meetError (adoptLine s l) l).lease.openL = s.lease.openL := by
    intro l
    obtain ⟨e, he⟩ := meetError_eq (adoptLine s l) l
    rw [he]
    unfold adoptLine; split <;> exact ⟨rfl, rfl, rfl, rfl⟩
  by_cases w : x % 64 = 0 ∧ bs.length = 64
  · refine h.of_wf ?_ ?_ (memWf_writeLine x bs) ?_ ?_ ?_ ?_ <;>
      (unfold writeLine; simp only [w, and_self, if_true]; unfold setPoison; dsimp only; split <;> rfl)
  · refine h.of_wf ?_ ?_ (memWf_writeLine x bs) ?_ ?_ ?_ ?_ <;> (unfold writeLine; simp only [w, if_false])
    · exact k.pending
    · exact k.time
    · exact (e _).1
    · exact (e _).2.1
    · exact (e _).2.2.1
    · exact (e _).2.2.2

theorem keeps_writeWords {a : State} (fuel : Nat) : ∀ {s : State} (x : Nat) (bs : List Byte), Keeps false a s →
    Keeps false a (writeWords s fuel x bs) := by
  induction fuel with
  | zero => intro s x bs h; exact h
  | succ n ih =>
    intro s x bs h
    unfold writeWords
    split
    · exact h
    · exact ih _ _ (keeps_writeLine _ _ h)

theorem keeps_writeBytes {a s : State} (x : Nat) (bs : List Byte) (h : Keeps false a s) : Keeps false a (writeBytes s x bs) :=
  keeps_writeWords _ _ _ h

theorem keeps_writeNat {a s : State} (x n v : Nat) (h : Keeps false a s) : Keeps false a (writeNat s x n v) :=
  keeps_writeBytes _ _ h

theorem keeps_clearRange {a s : State} (x n : Nat) (h : Keeps false a s) : Keeps false a (clearRange s x n) :=
  h.of_wf rfl rfl (memWf_clearRange x n) rfl rfl rfl rfl

theorem keeps_clearChannel {a s : State} (n : Nat) (h : Keeps false a s) : Keeps false a (clearChannel s n) :=
  h.of_wf rfl rfl (memWf_clearChannel n) rfl rfl rfl rfl

theorem keeps_clearHbm {a s : State} (h : Keeps false a s) : Keeps false a (clearHbm s) :=
  h.of_wf rfl rfl memWf_clearHbm rfl rfl rfl rfl

theorem keeps_installKey {a s : State} (h : Keeps false a s) : Keeps false a (installKey s) :=
  h.of_wf rfl rfl memWf_installKey rfl rfl rfl rfl

theorem keeps_writeTagged {a s : State} (l : Nat) (bs : List Byte) (t : BitVec 48) (h : Keeps false a s) :
    Keeps false a (writeTagged s l bs t) := by
  have k := keeps_writeBytes (l * 64) bs h
  exact k.of_wf rfl rfl (fun x => memWf_tags (s := writeBytes s (l * 64) bs) l t x) rfl rfl rfl rfl

/-! ### Units and their epochs -/

theorem vget_vset {α : Type} {n : Nat} (v : Vector α n) (d x : α) (i j : Nat) (hi : i < n) :
    vget (vset v i x) d j = if j = i then x else vget v d j := by
  unfold vget vset
  simp only [Vector.toList_setIfInBounds, List.getD_eq_getElem?_getD, List.getElem?_set, Vector.length_toList]
  by_cases e : j = i
  · subst e
    simp [hi]
  · simp [e, Ne.symm e]

theorem getUnit_modUnit (s : State) (u v : PUnit) (f : UnitRec → UnitRec) :
    getUnit (modUnit s u f) v = if v = u then f (getUnit s u) else getUnit s v := by
  cases u <;> cases v <;> simp only [modUnit, getUnit, unitRec, setUnitRec, reduceCtorEq, if_false, if_true, PUnit.core.injEq,
    PUnit.cluster.injEq, PUnit.die.injEq, PUnit.channel.injEq, PUnit.port.injEq, PUnit.attn.injEq, PUnit.seqEngine.injEq,
    PUnit.mgmt.injEq, PUnit.engine.injEq]
  case engine.engine c e d g =>
    rw [vget_vset _ _ _ _ _ (by omega)]
    by_cases h : d = c ∧ g = e
    · obtain ⟨rfl, rfl⟩ := h
      simp
    · have k : ¬ ((d : Nat) * 4 + (g : Nat) = (c : Nat) * 4 + (e : Nat)) := by
        intro x
        exact h ⟨by omega, by omega⟩
      rw [if_neg h, if_neg k]
  all_goals
    rename_i x y
    by_cases h : y = x
    · subst h
      simp
    · have k : ¬ ((x : Nat) = (y : Nat)) := fun z => h (Fin.ext z.symm)
      simp [h, k]

/-- A unit's record changed to one with an epoch that is not 0. -/
theorem keeps_modUnit_epoch {m : Bool} {a s : State} {u : PUnit} {f : UnitRec → UnitRec}
    (hf : EpochsOk s → (f (getUnit s u)).epoch ≠ 0) (h : Keeps m a s) : Keeps m a (modUnit s u f) := by
  refine ⟨h.pending, h.time, h.mem, h.wf, fun x => ?_, h.arm⟩
  have y := h.epochs x
  refine ⟨fun v => ?_, y.2⟩
  rw [getUnit_modUnit]
  split
  · exact hf y
  · exact y.1 v

/-- A unit's record changed in all but its epoch. -/
theorem keeps_modUnit {m : Bool} {a s : State} {u : PUnit} {f : UnitRec → UnitRec} (hf : ∀ r, (f r).epoch = r.epoch)
    (h : Keeps m a s) : Keeps m a (modUnit s u f) :=
  keeps_modUnit_epoch (fun y => hf (getUnit s u) ▸ y.1 u) h

theorem epochNext_ne_zero (e : BitVec 16) : epochNext e ≠ 0 := by
  unfold epochNext
  split
  · decide
  · rename_i h
    intro z
    exact h (by bv_omega)

end Sys2Proof.Machine
end

