-- ==== Sys2Proof/Laws/KeepsOps.lean ====
section
/-! SUPPORT. What the operations of Machine/Ops.lean keep. -/

namespace Sys2Proof.Machine

theorem keeps_drawFree {same : Bool} {a s : State} (h0 : Keeps same a s) :
    Keeps same a (drawFree s).2 := by
  unfold drawFree
  try dsimp only
  repeat' first
    | (with_reducible first
        | assumption | simp only [keeps_mk_iff])
    | intro _
    | split
    | refine keeps_of_snd ?_ ‹_›

theorem keeps_drawRandom {same : Bool} {a s : State} (h0 : Keeps same a s) :
    Keeps same a (drawRandom s).2 := by
  unfold drawRandom
  try dsimp only
  repeat' first
    | (with_reducible first
        | assumption | simp only [keeps_mk_iff])
    | intro _
    | split
    | refine keeps_of_snd ?_ ‹_›

theorem keeps_emit {same : Bool} {a s : State} {e : OutEv} (h0 : Keeps same a s) :
    Keeps same a (emit s e) := by
  unfold emit
  try dsimp only
  repeat' first
    | (with_reducible first
        | assumption | simp only [keeps_mk_iff])
    | intro _
    | split

theorem keeps_sendMsg {same : Bool} {a s : State} {own : Bool} {peer kind : Nat} {args : List Nat} (h0 : Keeps same a s) :
    Keeps same a (sendMsg s own peer kind args) := by
  unfold sendMsg
  try dsimp only
  repeat' first
    | (with_reducible first
        | assumption | simp only [keeps_mk_iff])
    | intro _
    | split

theorem keeps_setOwn {same : Bool} {a s : State} {u : Sys2Proof.PUnit} {x : UState} (h0 : Keeps same a s) :
    Keeps same a (setOwn s u x) := by
  unfold setOwn
  try dsimp only
  repeat' first
    | (with_reducible first
        | assumption | apply keeps_modUnit)
    | intro _
    | split
    | rfl

theorem keeps_touchDoze {same : Bool} {a s : State} {i : Nat} (h0 : Keeps same a s) :
    Keeps same a (touchDoze s i) := by
  unfold touchDoze
  try dsimp only
  repeat' first
    | (with_reducible first
        | assumption | simp only [keeps_mk_iff])
    | intro _
    | split

theorem keeps_touchAddr {same : Bool} {a s : State} {y1 : Nat} (h0 : Keeps same a s) :
    Keeps same a (touchAddr s y1) := by
  unfold touchAddr
  generalize placeOf y1 = p
  split
  · exact keeps_touchDoze h0
  · exact keeps_touchDoze h0
  · exact h0

theorem keeps_touchRange {same : Bool} {a s : State} {y1 n : Nat} (h0 : Keeps same a s) :
    Keeps same a (touchRange s y1 n) := by
  unfold touchRange
  try dsimp only
  repeat' first
    | (with_reducible first
        | assumption | apply keeps_foldl | apply keeps_touchAddr | apply keeps_foldl)
    | intro _
    | split

end Sys2Proof.Machine
end

