-- ==== Sys2Proof/Laws/KeepsReport.lean ====
section
/-! SUPPORT. What the operations of Machine/Report.lean keep. -/

namespace Sys2Proof.Machine

theorem keeps_hostPut {same : Bool} {a : State} {fuel : Nat} {s : State} {addr : Nat} {pasid tstream : Option Nat} {relaxed :
    Bool} {bs : List Byte} (h0 : Keeps same a s) :
    Keeps same a (hostPut fuel s addr pasid tstream relaxed bs) := by
  induction fuel generalizing s addr bs with
  | zero => exact h0
  | succ n ih =>
    simp only [hostPut]
    split
    · exact h0
    · exact ih (keeps_emit h0)

theorem keeps_auditAppend {same : Bool} {a s : State} {kind role path : Nat} {vis : Bool} {p : AuditPriv} (h0 : Keeps same a s)
    :
    Keeps same a (auditAppend s kind role path vis p) := by
  unfold auditAppend
  try dsimp only
  repeat' first
    | (with_reducible first
        | assumption | simp only [keeps_mk_iff])
    | intro _
    | split

theorem keeps_auditPut {same : Bool} {a s : State} {kind role path : Nat} {vis : Bool} {p : AuditPriv} (h0 : Keeps same a s) :
    Keeps same a (auditPut s kind role path vis p) := by
  unfold auditPut
  try dsimp only
  repeat' first
    | (with_reducible first
        | assumption | apply keeps_auditAppend | simp only [keeps_mk_iff])
    | intro _
    | split

theorem keeps_auditCheckpoint {same : Bool} {a s : State} (h0 : Keeps same a s) :
    Keeps same a (auditCheckpoint s) := by
  unfold auditCheckpoint
  try dsimp only
  repeat' first
    | (with_reducible first
        | assumption | apply keeps_auditPut)
    | intro _
    | split

theorem keeps_auditRefusal {same : Bool} {a s : State} {role path qpn opcode target reason : Nat} {pdigest : BitVec 256} (h0 :
    Keeps same a s) :
    Keeps same a (auditRefusal s role path qpn opcode target reason pdigest) := by
  unfold auditRefusal
  try dsimp only
  repeat' first
    | (with_reducible first
        | assumption | apply keeps_auditPut)
    | intro _
    | split

theorem keeps_auditTdi {same : Bool} {a s : State} {code : Nat} (h0 : Keeps same a s) :
    Keeps same a (auditTdi s code) := by
  unfold auditTdi
  try dsimp only
  repeat' first
    | (with_reducible first
        | assumption | apply keeps_auditPut)
    | intro _
    | split

theorem keeps_setRing {same : Bool} {a s : State} {lease : Bool} {r : RingSt} (h0 : Keeps same a s) :
    Keeps same a (setRing s lease r) := by
  unfold setRing
  try dsimp only
  repeat' first
    | (with_reducible first
        | assumption | simp only [keeps_mk_iff])
    | intro _
    | split

theorem keeps_ringLose {same : Bool} {a s : State} {lease : Bool} (h0 : Keeps same a s) :
    Keeps same a (ringLose s lease) := by
  unfold ringLose
  try dsimp only
  repeat' first
    | (with_reducible first
        | assumption | apply keeps_setRing)
    | intro _
    | split

theorem keeps_msixSend {same : Bool} {a s : State} {vec : Nat} (h0 : Keeps same a s) :
    Keeps same a (msixSend s vec) := by
  unfold msixSend
  try dsimp only
  repeat' first
    | (with_reducible first
        | assumption | apply keeps_emit | simp only [keeps_mk_iff])
    | intro _
    | split

theorem keeps_msixNotify {same : Bool} {a s : State} {vec : Nat} (h0 : Keeps same a s) :
    Keeps same a (msixNotify s vec) := by
  unfold msixNotify
  try dsimp only
  repeat' first
    | (with_reducible first
        | assumption | apply keeps_msixSend)
    | intro _
    | split

theorem keeps_ringPush {same : Bool} {a s : State} {lease : Bool} {e : Event} (h0 : Keeps same a s) :
    Keeps same a (ringPush s lease e) := by
  unfold ringPush
  try dsimp only
  repeat' first
    | (with_reducible first
        | assumption | apply keeps_emit | apply keeps_setRing | apply keeps_msixNotify)
    | intro _
    | split

theorem keeps_ringReport {same : Bool} {a s : State} {lease : Bool} (h0 : Keeps same a s) :
    Keeps same a (ringReport s lease) := by
  unfold ringReport
  try dsimp only
  repeat' first
    | (with_reducible first
        | assumption | apply keeps_ringPush | apply keeps_setRing)
    | intro _
    | split

theorem keeps_ringEvent {same : Bool} {a s : State} {lease : Bool} {e : Event} (h0 : Keeps same a s) :
    Keeps same a (ringEvent s lease e) := by
  unfold ringEvent
  try dsimp only
  repeat' first
    | (with_reducible first
        | assumption | apply keeps_ringLose | apply keeps_ringReport | apply keeps_ringPush)
    | intro _
    | split

theorem keeps_epochEvent {same : Bool} {a s : State} {mgmt : Bool} {uid epoch cause : Nat} (h0 : Keeps same a s) :
    Keeps same a (epochEvent s mgmt uid epoch cause) := by
  unfold epochEvent
  try dsimp only
  repeat' first
    | (with_reducible first
        | assumption | apply keeps_ringEvent)
    | intro _
    | split

theorem keeps_bumpGroup {same : Bool} {a s : State} {mgmt : Bool} {cause g : Nat} (h0 : Keeps same a s) :
    Keeps same a (bumpGroup s mgmt cause g) := by
  unfold bumpGroup
  refine keeps_epochEvent ⟨h0.pending, h0.time, h0.mem, h0.wf, fun x => ?_, h0.arm⟩
  have y := h0.epochs x
  refine ⟨y.1, fun e he => ?_⟩
  rcases mem_smapSet he with z | z
  · exact y.2 e z
  · subst z
    exact epochNext_ne_zero _

theorem keeps_sendState {same : Bool} {a s : State} {f : Nat × Nat × Bool} {u : Sys2Proof.PUnit} (h0 : Keeps same a s) :
    Keeps same a (sendState s f u) := by
  unfold sendState
  try dsimp only
  repeat' first
    | (with_reducible first
        | assumption | apply keeps_sendMsg)
    | intro _
    | split

theorem keeps_tellEpoch {same : Bool} {a s : State} {u : Sys2Proof.PUnit} (h0 : Keeps same a s) :
    Keeps same a (tellEpoch s u) := by
  unfold tellEpoch
  try dsimp only
  repeat' first
    | (with_reducible first
        | assumption | apply keeps_sendState | apply keeps_foldl)
    | intro _
    | split

theorem keeps_bumpUnit {same : Bool} {a s : State} {mgmt : Bool} {cause : Nat} {u : Sys2Proof.PUnit} (h0 : Keeps same a s) :
    Keeps same a (bumpUnit s mgmt cause u) := by
  unfold bumpUnit
  exact keeps_epochEvent (keeps_tellEpoch (keeps_modUnit_epoch (fun _ => epochNext_ne_zero _) h0))

theorem keeps_bumpUnits {same : Bool} {a s : State} {mgmt : Bool} {cause : Nat} {us : List Sys2Proof.PUnit} {skip : List Nat}
    (h0 : Keeps same a s) :
    Keeps same a (bumpUnits s mgmt cause us skip) := by
  unfold bumpUnits
  try dsimp only
  repeat' first
    | (with_reducible first
        | assumption | apply keeps_bumpUnit | apply keeps_bumpGroup | apply keeps_foldl)
    | intro _
    | split

theorem keeps_setFaults {same : Bool} {a s : State} {d : Nat} {f : FaultSt} (h0 : Keeps same a s) :
    Keeps same a (setFaults s d f) := by
  unfold setFaults
  try dsimp only
  repeat' first
    | (with_reducible first
        | assumption | simp only [keeps_mk_iff])
    | intro _
    | split

theorem keeps_faultReport {same : Bool} {a s : State} {d subject : Nat} {epoch : BitVec 16} {cls reason reporter dump addr
    info : Nat} (h0 : Keeps same a s) :
    Keeps same a (faultReport s d subject epoch cls reason reporter dump addr info) := by
  unfold faultReport
  try dsimp only
  repeat' first
    | (with_reducible first
        | assumption | apply keeps_setFaults | apply keeps_ringEvent | simp only [keeps_mk_iff])
    | intro _
    | split

theorem keeps_faultUnit {same : Bool} {a s : State} {u : Sys2Proof.PUnit} {cls reason reporter addr info : Nat} (h0 : Keeps same
    a s) :
    Keeps same a (faultUnit s u cls reason reporter addr info) := by
  unfold faultUnit
  try dsimp only
  repeat' first
    | (with_reducible first
        | assumption | apply keeps_faultReport)
    | intro _
    | split

theorem keeps_tellState {same : Bool} {a s : State} {u : Sys2Proof.PUnit} (h0 : Keeps same a s) :
    Keeps same a (tellState s u) := by
  unfold tellState
  try dsimp only
  repeat' first
    | (with_reducible first
        | assumption | apply keeps_sendState | apply keeps_foldl)
    | intro _
    | split

theorem keeps_unitEvent {same : Bool} {a s : State} {typ uid epoch tag count payload : Nat} (h0 : Keeps same a s) :
    Keeps same a (unitEvent s typ uid epoch tag count payload) := by
  unfold unitEvent
  try dsimp only
  repeat' first
    | (with_reducible first
        | assumption | apply keeps_ringEvent)
    | intro _
    | split

end Sys2Proof.Machine
end

