-- ==== Sys2Proof/Laws/KeepsCmdOps.lean ====
section
/-! SUPPORT. What the operations of Machine/CmdOps.lean keep. -/

namespace Sys2Proof.Machine

/-- The states a Start carries keep what `Keeps` says. -/
def KeepsStart (m : Bool) (a : State) : Start → Prop
  | .wait => True
  | .ended t => Keeps m a t
  | .go t _ => Keeps m a t

theorem keepsStart_wait {m : Bool} {a : State} : KeepsStart m a (.wait) := trivial

theorem keepsStart_ended {m : Bool} {a t : State} (h : Keeps m a t) : KeepsStart m a (.ended t) := h

theorem keeps_of_Start_ended {m : Bool} {a t : State} {o : Start} (h : KeepsStart m a o) (e : o = .ended t) : Keeps m a t := by
  subst e; exact h

theorem keepsStart_go {m : Bool} {a t : State} {y1 : CmdRec} (h : Keeps m a t) : KeepsStart m a (.go t y1) := h

theorem keeps_of_Start_go {m : Bool} {a t : State} {o : Start} {y1 : CmdRec} (h : KeepsStart m a o) (e : o = .go t y1) : Keeps m a t := by
  subst e; exact h

theorem keeps_addCmd {same : Bool} {a s : State} {c : CmdRec} (h0 : Keeps same a s) :
    Keeps same a (addCmd s c) := by
  unfold addCmd
  try dsimp only
  repeat' first
    | (with_reducible first
        | assumption | simp only [keeps_mk_iff])
    | intro _
    | split

theorem keeps_setInflight {same : Bool} {a s : State} {cs : List CmdRec} (h0 : Keeps same a s) :
    Keeps same a (setInflight s cs) := by
  unfold setInflight
  try dsimp only
  repeat' first
    | (with_reducible first
        | assumption | simp only [keeps_mk_iff])
    | intro _
    | split

theorem keeps_dropCmd {same : Bool} {a s : State} {id : Nat} (h0 : Keeps same a s) :
    Keeps same a (dropCmd s id) := by
  unfold dropCmd
  try dsimp only
  repeat' first
    | (with_reducible first
        | assumption | apply keeps_setInflight)
    | intro _
    | split

theorem keeps_updCmd {same : Bool} {a s : State} {id : Nat} {f : CmdRec → CmdRec} (h0 : Keeps same a s) :
    Keeps same a (updCmd s id f) := by
  unfold updCmd
  try dsimp only
  repeat' first
    | (with_reducible first
        | assumption | apply keeps_setInflight)
    | intro _
    | split

theorem keeps_sendCmd {same : Bool} {a s : State} {kind peer tid : Nat} {role : Role} {h : BitVec 512} {ps : List (BitVec
    512)} (h0 : Keeps same a s) :
    Keeps same a (sendCmd s kind peer tid role h ps) := by
  unfold sendCmd
  try dsimp only
  repeat' first
    | (with_reducible first
        | assumption | apply keeps_sendMsg)
    | intro _
    | split

theorem keeps_guardEvents {same : Bool} {a s : State} {c : CmdRec} (h0 : Keeps same a s) :
    Keeps same a (guardEvents s c) := by
  unfold guardEvents
  try dsimp only
  repeat' first
    | (with_reducible first
        | assumption | apply keeps_unitEvent | apply keeps_foldl)
    | intro _
    | split

theorem keeps_withTree {same : Bool} {a s : State} {c : CmdRec} (h0 : Keeps same a s) :
    Keeps same a (withTree s c) := by
  unfold withTree
  try dsimp only
  repeat' first
    | (with_reducible first
        | assumption | apply keeps_foldl | simp only [keeps_mk_iff] | apply keeps_foldl)
    | intro _
    | split

theorem keeps_telemBytes {same : Bool} {a s : State} {c : CmdRec} {es : List (Nat × Nat × Nat)} (h0 : Keeps same a s) :
    Keeps same a (telemBytes s c es).2 := by
  unfold telemBytes
  dsimp only
  split
  · exact keeps_drawFree h0
  · exact h0

theorem keeps_hostWriteCmd {same : Bool} {a s : State} {c : CmdRec} {addr : Nat} {bs : List Byte} (h0 : Keeps same a s) :
    Keeps same a (hostWriteCmd s c addr bs) := by
  unfold hostWriteCmd
  try dsimp only
  repeat' first
    | (with_reducible first
        | assumption | apply keeps_sendMsg | apply keeps_hostPut | apply given_none | apply given_some)
    | intro _
    | split

theorem keeps_telemWrite {same : Bool} {a s : State} {c : CmdRec} (h0 : Keeps same a s) :
    Keeps same a (telemWrite s c) := by
  unfold telemWrite
  split
  · exact keeps_hostWriteCmd (keeps_telemBytes h0)
  · exact h0

theorem keeps_haltNodes {same : Bool} {a s : State} {p : Nat} (h0 : Keeps same a s) :
    Keeps same a (haltNodes s p) := by
  unfold haltNodes
  try dsimp only
  repeat' first
    | (with_reducible first
        | assumption | apply keeps_setInflight | apply keeps_updCmd)
    | intro _
    | split

theorem keeps_finishFuel {same : Bool} {a : State} {fuel : Nat} {s : State} {id st detail : Nat} (h0 : Keeps same a s) :
    Keeps same a (finishFuel fuel s id st detail) := by
  induction fuel generalizing s id st detail with
  | zero => first | exact h0 | exact given_none
  | succ fuel ih =>
  unfold finishFuel
  try dsimp only
  repeat' first
    | (with_reducible first
        | assumption | apply ih | apply keeps_dropCmd | apply keeps_updCmd | apply keeps_haltNodes | apply
          keeps_telemWrite)
    | intro _
    | split

theorem keeps_finishCmd {same : Bool} {a s : State} {id st detail : Nat} (h0 : Keeps same a s) :
    Keeps same a (finishCmd s id st detail) := by
  unfold finishCmd
  try dsimp only
  repeat' first
    | (with_reducible first
        | assumption | apply keeps_finishFuel)
    | intro _
    | split

theorem keeps_replyGroup {same : Bool} {a s : State} {id : Nat} (h0 : Keeps same a s) :
    Keeps same a (replyGroup s id) := by
  unfold replyGroup
  try dsimp only
  repeat' first
    | (with_reducible first
        | assumption | apply keeps_finishCmd)
    | intro _
    | split

theorem keeps_endPart {same : Bool} {a s : State} {id core st detail : Nat} (h0 : Keeps same a s) :
    Keeps same a (endPart s id core st detail) := by
  unfold endPart
  try dsimp only
  repeat' first
    | (with_reducible first
        | assumption | apply keeps_updCmd | apply keeps_replyGroup | apply keeps_foldl | apply keeps_finishCmd
          | apply keeps_foldl)
    | intro _
    | split

theorem keeps_refuseCmd {same : Bool} {a s : State} {c : CmdRec} {reason : Nat} (h0 : Keeps same a s) :
    Keeps same a (refuseCmd s c reason) := by
  unfold refuseCmd
  try dsimp only
  repeat' first
    | (with_reducible first
        | assumption | apply keeps_auditRefusal | apply keeps_finishCmd | apply keeps_updCmd)
    | intro _
    | split

theorem keeps_fanCmd {same : Bool} {a s : State} {c : CmdRec} {g : Nat} (h0 : Keeps same a s) :
    Keeps same a (fanCmd s c g) := by
  unfold fanCmd
  try dsimp only
  repeat' first
    | (with_reducible first
        | assumption | apply keeps_updCmd | apply keeps_foldl | apply keeps_addCmd | apply keeps_finishCmd |
          apply keeps_sendCmd | apply keeps_foldl)
    | intro _
    | split

theorem keeps_markStarted {same : Bool} {a s : State} {id : Nat} (h0 : Keeps same a s) :
    Keeps same a (markStarted s id) := by
  unfold markStarted
  try dsimp only
  repeat' first
    | (with_reducible first
        | assumption | apply keeps_updCmd)
    | intro _
    | split

theorem keeps_startCmd {same : Bool} {a s : State} {id op : Nat} (h0 : Keeps same a s) :
    KeepsStart same a (startCmd s id op) := by
  unfold startCmd
  try dsimp only
  repeat' first
    | (with_reducible first
        | assumption | apply keeps_finishCmd | apply keeps_markStarted | apply keepsStart_wait | apply
          keepsStart_ended | apply keepsStart_go)
    | intro _
    | split
    | refine keeps_of_Start_ended ?_ ‹_›
    | refine keeps_of_Start_go ?_ ‹_›

theorem keeps_runCmd {same : Bool} {a s : State} {id op : Nat} {onUnit : State → CmdRec → Sys2Proof.PUnit → State} (h0 : Keeps
    same a s) (h1 : ∀ (z0 : State) (z1 : CmdRec) (z2 : Sys2Proof.PUnit), Keeps same a z0 → Keeps same a (onUnit z0 z1 z2)) :
    KeepsRes same a (runCmd s id op onUnit) := by
  unfold runCmd
  try dsimp only
  repeat' first
    | (with_reducible first
        | assumption | apply h1 | apply keeps_startCmd | apply keeps_fanCmd | apply keepsRes_next | apply
          keepsRes_fault | apply keepsRes_refused | apply keepsStart_wait | apply keepsStart_ended | apply
          keepsStart_go)
    | intro _
    | split
    | refine keeps_of_Start_ended ?_ ‹_›
    | refine keeps_of_Start_go ?_ ‹_›

theorem keeps_setQp {same : Bool} {a s : State} {n : Nat} {q : Option QpSt} (h0 : Keeps same a s) :
    Keeps same a (setQp s n q) := by
  unfold setQp
  try dsimp only
  repeat' first
    | (with_reducible first
        | assumption | simp only [keeps_mk_iff])
    | intro _
    | split

end Sys2Proof.Machine
end

