-- ==== Sys2Proof/Laws/KeepsOperands.lean ====
section
/-! SUPPORT. What the operations of Machine/Operands.lean keep. -/

namespace Sys2Proof.Machine

theorem keeps_putCore {same : Bool} {a s : State} {c : Fin 192} {x : CoreSt} (h0 : Keeps same a s) :
    Keeps same a (putCore s c x) := by
  unfold putCore
  try dsimp only
  repeat' first
    | (with_reducible first
        | assumption | simp only [keeps_mk_iff])
    | intro _
    | split

theorem keeps_modCore {same : Bool} {a s : State} {c : Fin 192} {f : CoreSt → CoreSt} (h0 : Keeps same a s) :
    Keeps same a (modCore s c f) := by
  unfold modCore
  try dsimp only
  repeat' first
    | (with_reducible first
        | assumption | apply keeps_putCore)
    | intro _
    | split

theorem keeps_modCluster {same : Bool} {a s : State} {k : Fin 24} {f : ClusterSt → ClusterSt} (h0 : Keeps same a s) :
    Keeps same a (modCluster s k f) := by
  unfold modCluster
  try dsimp only
  repeat' first
    | (with_reducible first
        | assumption | simp only [keeps_mk_iff])
    | intro _
    | split

theorem keeps_writeElems {a s : State} {c : Fin 192} {t : TileDesc} {m k0 : Nat} {xs : List Nat} (h0 : Keeps false a s) :
    Keeps false a (writeElems s c t m k0 xs) := by
  unfold writeElems
  try dsimp only
  repeat' first
    | (with_reducible first
        | assumption | apply keeps_writeNat)
    | intro _
    | split

end Sys2Proof.Machine
end

