-- ==== Sys2Proof/Laws/KeepsTrace.lean ====
section
/-! SUPPORT. What the operations of Machine/Trace.lean keep. -/

namespace Sys2Proof.Machine

theorem keeps_traceCluster {same : Bool} {a s : State} {k : Fin 24} {typ data : Nat} (h0 : Keeps same a s) :
    Keeps same a (traceCluster s k typ data) := by
  unfold traceCluster
  try dsimp only
  repeat' first
    | (with_reducible first
        | assumption | simp only [keeps_mk_iff])
    | intro _
    | split

theorem keeps_traceCore {same : Bool} {a s : State} {c : Fin 192} {etype typ data : Nat} (h0 : Keeps same a s) :
    Keeps same a (traceCore s c etype typ data) := by
  unfold traceCore
  try dsimp only
  repeat' first
    | (with_reducible first
        | assumption | simp only [keeps_mk_iff])
    | intro _
    | split

end Sys2Proof.Machine
end

