-- ==== Sys2Proof/Laws/KeepsIssue.lean ====
section
/-! SUPPORT. What the operations of Machine/Issue.lean keep. -/

namespace Sys2Proof.Machine

/-- The states a CoreOut carries keep what `Keeps` says. -/
def KeepsCoreOut (m : Bool) (a : State) : CoreOut → Prop
  | .wait => True
  | .hold t => Keeps m a t
  | .queued t => Keeps m a t
  | .poisoned t _ => Keeps m a t
  | .stop _ _ => True
  | .done t => Keeps m a t
  | .jump t _ => Keeps m a t
  | .ended t => Keeps m a t

theorem keepsCoreOut_wait {m : Bool} {a : State} : KeepsCoreOut m a (.wait) := trivial

theorem keepsCoreOut_stop {m : Bool} {a : State} {y0 : Nat} {y1 : Nat} : KeepsCoreOut m a (.stop y0 y1) := trivial

theorem keepsCoreOut_hold {m : Bool} {a t : State} (h : Keeps m a t) : KeepsCoreOut m a (.hold t) := h

theorem keeps_of_CoreOut_hold {m : Bool} {a t : State} {o : CoreOut} (h : KeepsCoreOut m a o) (e : o = .hold t) : Keeps m a t := by
  subst e; exact h

theorem keepsCoreOut_queued {m : Bool} {a t : State} (h : Keeps m a t) : KeepsCoreOut m a (.queued t) := h

theorem keeps_of_CoreOut_queued {m : Bool} {a t : State} {o : CoreOut} (h : KeepsCoreOut m a o) (e : o = .queued t) : Keeps m a t := by
  subst e; exact h

theorem keepsCoreOut_poisoned {m : Bool} {a t : State} {y1 : Nat} (h : Keeps m a t) : KeepsCoreOut m a (.poisoned t y1) := h

theorem keeps_of_CoreOut_poisoned {m : Bool} {a t : State} {o : CoreOut} {y1 : Nat} (h : KeepsCoreOut m a o) (e : o = .poisoned t y1) :
    Keeps m a t := by
  subst e; exact h

theorem keepsCoreOut_done {m : Bool} {a t : State} (h : Keeps m a t) : KeepsCoreOut m a (.done t) := h

theorem keeps_of_CoreOut_done {m : Bool} {a t : State} {o : CoreOut} (h : KeepsCoreOut m a o) (e : o = .done t) : Keeps m a t := by
  subst e; exact h

theorem keepsCoreOut_jump {m : Bool} {a t : State} {y1 : BitVec 64} (h : Keeps m a t) : KeepsCoreOut m a (.jump t y1) := h

theorem keeps_of_CoreOut_jump {m : Bool} {a t : State} {o : CoreOut} {y1 : BitVec 64} (h : KeepsCoreOut m a o) (e : o = .jump t y1) : Keeps m a t := by
  subst e; exact h

theorem keepsCoreOut_ended {m : Bool} {a t : State} (h : Keeps m a t) : KeepsCoreOut m a (.ended t) := h

theorem keeps_of_CoreOut_ended {m : Bool} {a t : State} {o : CoreOut} (h : KeepsCoreOut m a o) (e : o = .ended t) : Keeps m a t := by
  subst e; exact h

theorem keeps_endCore {same : Bool} {a s : State} {c : Fin 192} {st : Nat} (h0 : Keeps same a s) :
    Keeps same a (endCore s c st) := by
  unfold endCore
  try dsimp only
  repeat' first
    | (with_reducible first
        | assumption | apply keeps_putCore | apply keeps_endPart)
    | intro _
    | split

theorem keeps_settleCore {same : Bool} {a s : State} {c : Fin 192} (h0 : Keeps same a s) :
    Keeps same a (settleCore s c) := by
  unfold settleCore
  try dsimp only
  repeat' first
    | (with_reducible first
        | assumption | apply keeps_endCore)
    | intro _
    | split

theorem keeps_stopAt {same : Bool} {a s : State} {c : Fin 192} {reason addr off : Nat} (h0 : Keeps same a s) :
    Keeps same a (stopAt s c reason addr off) := by
  unfold stopAt
  try dsimp only
  repeat' first
    | (with_reducible first
        | assumption | apply keeps_modCore | apply keeps_settleCore | apply keeps_faultUnit)
    | intro _
    | split

theorem keeps_fetchMet {same : Bool} {a s : State} {c : Fin 192} (h0 : Keeps same a s) :
    Keeps same a (fetchMet s c) := by
  unfold fetchMet
  try dsimp only
  repeat' first
    | (with_reducible first
        | assumption | apply keeps_demand)
    | intro _
    | split

theorem keeps_countInstr {same : Bool} {a s : State} {c : Fin 192} {e : Fin 4} (h0 : Keeps same a s) :
    Keeps same a (countInstr s c e) := by
  unfold countInstr
  try dsimp only
  repeat' first
    | (with_reducible first
        | assumption | apply keeps_modCore)
    | intro _
    | split

theorem keeps_countInvalid {same : Bool} {a s : State} {c : Fin 192} {n : Nat} (h0 : Keeps same a s) :
    Keeps same a (countInvalid s c n) := by
  unfold countInvalid
  try dsimp only
  repeat' first
    | (with_reducible first
        | assumption | apply keeps_modCore)
    | intro _
    | split

theorem keeps_dropRebind {same : Bool} {a s : State} {c : Fin 192} (h0 : Keeps same a s) :
    Keeps same a (dropRebind s c) := by
  unfold dropRebind
  try dsimp only
  repeat' first
    | (with_reducible first
        | assumption | apply keeps_modCore)
    | intro _
    | split

theorem keeps_stopCore {same : Bool} {a s : State} {c : Fin 192} {reason addr : Nat} (h0 : Keeps same a s) :
    Keeps same a (stopCore s c reason addr) := by
  unfold stopCore
  try dsimp only
  repeat' first
    | (with_reducible first
        | assumption | apply keeps_stopAt | apply keeps_fetchMet)
    | intro _
    | split

theorem keeps_traceIssue {same : Bool} {a s : State} {c : Fin 192} {e : Fin 4} {opc off : Nat} (h0 : Keeps same a s) :
    Keeps same a (traceIssue s c e opc off) := by
  unfold traceIssue
  try dsimp only
  repeat' first
    | (with_reducible first
        | assumption | apply keeps_traceCore | apply keeps_fetchMet)
    | intro _
    | split

theorem keeps_completed {same : Bool} {a s : State} {c : Fin 192} {e : Fin 4} {opc off : Nat} (h0 : Keeps same a s) :
    Keeps same a (completed s c e opc off) := by
  unfold completed
  try dsimp only
  repeat' first
    | (with_reducible first
        | assumption | apply keeps_traceCore | apply keeps_countInstr)
    | intro _
    | split

theorem keeps_retire {same : Bool} {a s : State} {c : Fin 192} {e : Fin 4} {opc off : Nat} (h0 : Keeps same a s) :
    Keeps same a (retire s c e opc off) := by
  unfold retire
  try dsimp only
  repeat' first
    | (with_reducible first
        | assumption | apply keeps_completed | apply keeps_traceIssue | apply keeps_dropRebind)
    | intro _
    | split

theorem keeps_issue {same : Bool} {a : State} {opc : Nat} {e : Fin 4} {u : FieldUse} {ok : Bool} {c : Fin 192} {w : CoreWord}
    {s : State} {body : CoreSt → CoreOut} (h0 : Keeps same a s) (h1 : ∀ (z0 : CoreSt), KeepsCoreOut same a (body z0)) :
    KeepsRes same a (issue opc e u ok c w s body) := by
  unfold issue
  try dsimp only
  repeat' first
    | (with_reducible first
        | assumption | apply h1 | apply keeps_stopCore | apply keeps_modCore | apply keeps_fetchMet | apply
          keeps_traceIssue | apply keeps_retire | apply keepsRes_next | apply keepsRes_fault | apply
          keepsRes_refused | apply keepsCoreOut_wait | apply keepsCoreOut_stop | apply keepsCoreOut_done |
          apply keepsCoreOut_jump | apply keepsCoreOut_ended | apply keepsCoreOut_hold | apply
          keepsCoreOut_queued | apply keepsCoreOut_poisoned)
    | intro _
    | split
    | refine keeps_of_CoreOut_done ?_ ‹_›
    | refine keeps_of_CoreOut_jump ?_ ‹_›
    | refine keeps_of_CoreOut_ended ?_ ‹_›
    | refine keeps_of_CoreOut_hold ?_ ‹_›
    | refine keeps_of_CoreOut_queued ?_ ‹_›
    | refine keeps_of_CoreOut_poisoned ?_ ‹_›

theorem keeps_enqueue {same : Bool} {a t : State} {c : Fin 192} {x : CoreSt} {e : Fin 4} {opc : Nat} {w : CoreWord} {r :
    TileRngs} {met : Bool} (h0 : Keeps same a t) :
    KeepsCoreOut same a (enqueue t c x e opc w r met) := by
  unfold enqueue
  try dsimp only
  repeat' first
    | (with_reducible first
        | assumption | apply keeps_modCore | apply keepsCoreOut_wait | apply keepsCoreOut_stop | apply
          keepsCoreOut_done | apply keepsCoreOut_jump | apply keepsCoreOut_ended | apply keepsCoreOut_hold |
          apply keepsCoreOut_queued | apply keepsCoreOut_poisoned)
    | intro _
    | split
    | refine keeps_of_CoreOut_done ?_ ‹_›
    | refine keeps_of_CoreOut_jump ?_ ‹_›
    | refine keeps_of_CoreOut_ended ?_ ‹_›
    | refine keeps_of_CoreOut_hold ?_ ‹_›
    | refine keeps_of_CoreOut_queued ?_ ‹_›
    | refine keeps_of_CoreOut_poisoned ?_ ‹_›

theorem keeps_issueTile {same : Bool} {a : State} {opc : Nat} {e : Fin 4} {u : FieldUse} {ok : Bool} {rngs : CoreSt →
    TileRngs} {c : Fin 192} {w : CoreWord} {s : State} {body : CoreSt → CoreOut} (h0 : Keeps same a s) (h1 : ∀ (z0 : CoreSt),
    KeepsCoreOut same a (body z0)) :
    KeepsRes same a (issueTile opc e u ok rngs c w s body) := by
  unfold issueTile
  try dsimp only
  repeat' first
    | (with_reducible first
        | assumption | apply h1 | apply keeps_issue | apply keeps_enqueue | apply keepsRes_next | apply
          keepsRes_fault | apply keepsRes_refused | apply keepsCoreOut_wait | apply keepsCoreOut_stop | apply
          keepsCoreOut_done | apply keepsCoreOut_jump | apply keepsCoreOut_ended | apply keepsCoreOut_hold |
          apply keepsCoreOut_queued | apply keepsCoreOut_poisoned)
    | intro _
    | split
    | refine keeps_of_CoreOut_done ?_ ‹_›
    | refine keeps_of_CoreOut_jump ?_ ‹_›
    | refine keeps_of_CoreOut_ended ?_ ‹_›
    | refine keeps_of_CoreOut_hold ?_ ‹_›
    | refine keeps_of_CoreOut_queued ?_ ‹_›
    | refine keeps_of_CoreOut_poisoned ?_ ‹_›

end Sys2Proof.Machine
end

