-- ==== Sys2Proof/Laws/KeepsCoreScalar.lean ====
section
/-! SUPPORT. What the operations of Machine/CoreScalar.lean keep. -/

namespace Sys2Proof.Machine

theorem keeps_alu {same : Bool} {a : State} {opc : Nat} {f : BitVec 64 → BitVec 64 → BitVec 64} {c : Fin 192} {w : CoreWord} {s
    : State} (h0 : Keeps same a s) :
    KeepsRes same a (alu opc f c w s) := by
  unfold alu
  try dsimp only
  repeat' first
    | (with_reducible first
        | assumption | apply keeps_issue | apply keeps_modCore | apply keepsRes_next | apply keepsRes_fault | apply
          keepsRes_refused | apply keepsCoreOut_wait | apply keepsCoreOut_stop | apply keepsCoreOut_done | apply
          keepsCoreOut_jump | apply keepsCoreOut_ended)
    | intro _
    | split
    | refine keeps_of_CoreOut_done ?_ ‹_›
    | refine keeps_of_CoreOut_jump ?_ ‹_›
    | refine keeps_of_CoreOut_ended ?_ ‹_›

theorem keeps_csr {same : Bool} {a : State} {mode : Nat} {c : Fin 192} {w : CoreWord} {s : State} (h0 : Keeps same a s) :
    KeepsRes same a (csr mode c w s) := by
  unfold csr
  try dsimp only
  repeat' first
    | (with_reducible first
        | assumption | apply keeps_issue | apply keeps_modCore | apply keepsRes_next | apply keepsRes_fault |
          apply keepsRes_refused | apply keepsCoreOut_wait | apply keepsCoreOut_stop | apply keepsCoreOut_done
          | apply keepsCoreOut_jump | apply keepsCoreOut_ended | apply keepsCoreOut_hold | apply
          keepsCoreOut_queued | apply keepsCoreOut_poisoned)
    | intro _
    | split

theorem keeps_execAdd {same : Bool} {a : State} {c : Fin 192} {w : CoreWord} {s : State} (h0 : Keeps same a s) :
    KeepsRes same a (execAdd c w s) := by
  unfold execAdd
  try dsimp only
  repeat' first
    | (with_reducible first
        | assumption | apply keeps_alu | apply keepsRes_next | apply keepsRes_fault | apply keepsRes_refused)
    | intro _
    | split

theorem keeps_execAnd {same : Bool} {a : State} {c : Fin 192} {w : CoreWord} {s : State} (h0 : Keeps same a s) :
    KeepsRes same a (execAnd c w s) := by
  unfold execAnd
  try dsimp only
  repeat' first
    | (with_reducible first
        | assumption | apply keeps_alu | apply keepsRes_next | apply keepsRes_fault | apply keepsRes_refused)
    | intro _
    | split

theorem keeps_execBr {same : Bool} {a : State} {c : Fin 192} {w : CoreWord} {s : State} (h0 : Keeps same a s) :
    KeepsRes same a (execBr c w s) := by
  unfold execBr
  try dsimp only
  repeat' first
    | (with_reducible first
        | assumption | apply keeps_issue | apply keepsRes_next | apply keepsRes_fault | apply keepsRes_refused |
          apply keepsCoreOut_wait | apply keepsCoreOut_stop | apply keepsCoreOut_done | apply keepsCoreOut_jump |
          apply keepsCoreOut_ended)
    | intro _
    | split
    | refine keeps_of_CoreOut_done ?_ ‹_›
    | refine keeps_of_CoreOut_jump ?_ ‹_›
    | refine keeps_of_CoreOut_ended ?_ ‹_›

theorem keeps_execBrl {same : Bool} {a : State} {c : Fin 192} {w : CoreWord} {s : State} (h0 : Keeps same a s) :
    KeepsRes same a (execBrl c w s) := by
  unfold execBrl
  try dsimp only
  repeat' first
    | (with_reducible first
        | assumption | apply keeps_issue | apply keeps_modCore | apply keepsRes_next | apply keepsRes_fault | apply
          keepsRes_refused | apply keepsCoreOut_wait | apply keepsCoreOut_stop | apply keepsCoreOut_done | apply
          keepsCoreOut_jump | apply keepsCoreOut_ended)
    | intro _
    | split
    | refine keeps_of_CoreOut_done ?_ ‹_›
    | refine keeps_of_CoreOut_jump ?_ ‹_›
    | refine keeps_of_CoreOut_ended ?_ ‹_›

theorem keeps_execCmp {same : Bool} {a : State} {c : Fin 192} {w : CoreWord} {s : State} (h0 : Keeps same a s) :
    KeepsRes same a (execCmp c w s) := by
  unfold execCmp
  try dsimp only
  repeat' first
    | (with_reducible first
        | assumption | apply keeps_issue | apply keeps_modCore | apply keepsRes_next | apply keepsRes_fault | apply
          keepsRes_refused | apply keepsCoreOut_wait | apply keepsCoreOut_stop | apply keepsCoreOut_done | apply
          keepsCoreOut_jump | apply keepsCoreOut_ended)
    | intro _
    | split
    | refine keeps_of_CoreOut_done ?_ ‹_›
    | refine keeps_of_CoreOut_jump ?_ ‹_›
    | refine keeps_of_CoreOut_ended ?_ ‹_›

theorem keeps_execCsrClear {same : Bool} {a : State} {c : Fin 192} {w : CoreWord} {s : State} (h0 : Keeps same a s) :
    KeepsRes same a (execCsrClear c w s) := by
  unfold execCsrClear
  try dsimp only
  repeat' first
    | (with_reducible first
        | assumption | apply keeps_csr | apply keepsRes_next | apply keepsRes_fault | apply keepsRes_refused)
    | intro _
    | split

theorem keeps_execCsrRead {same : Bool} {a : State} {c : Fin 192} {w : CoreWord} {s : State} (h0 : Keeps same a s) :
    KeepsRes same a (execCsrRead c w s) := by
  unfold execCsrRead
  try dsimp only
  repeat' first
    | (with_reducible first
        | assumption | apply keeps_csr | apply keepsRes_next | apply keepsRes_fault | apply keepsRes_refused)
    | intro _
    | split

theorem keeps_execCsrSet {same : Bool} {a : State} {c : Fin 192} {w : CoreWord} {s : State} (h0 : Keeps same a s) :
    KeepsRes same a (execCsrSet c w s) := by
  unfold execCsrSet
  try dsimp only
  repeat' first
    | (with_reducible first
        | assumption | apply keeps_csr | apply keepsRes_next | apply keepsRes_fault | apply keepsRes_refused)
    | intro _
    | split

theorem keeps_execCsrWrite {same : Bool} {a : State} {c : Fin 192} {w : CoreWord} {s : State} (h0 : Keeps same a s) :
    KeepsRes same a (execCsrWrite c w s) := by
  unfold execCsrWrite
  try dsimp only
  repeat' first
    | (with_reducible first
        | assumption | apply keeps_csr | apply keepsRes_next | apply keepsRes_fault | apply keepsRes_refused)
    | intro _
    | split

theorem keeps_execFence {same : Bool} {a : State} {c : Fin 192} {w : CoreWord} {s : State} (h0 : Keeps same a s) :
    KeepsRes same a (execFence c w s) := by
  unfold execFence
  try dsimp only
  repeat' first
    | (with_reducible first
        | assumption | apply keeps_issue | apply keepsRes_next | apply keepsRes_fault | apply keepsRes_refused
          | apply keepsCoreOut_wait | apply keepsCoreOut_stop | apply keepsCoreOut_done | apply
          keepsCoreOut_jump | apply keepsCoreOut_ended | apply keepsCoreOut_hold | apply keepsCoreOut_queued |
          apply keepsCoreOut_poisoned)
    | intro _
    | split

theorem keeps_execFladd {a : State} {c : Fin 192} {w : CoreWord} {s : State} (h0 : Keeps false a s) :
    KeepsRes false a (execFladd c w s) := by
  unfold execFladd
  try dsimp only
  repeat' first
    | (with_reducible first
        | assumption | apply keeps_issue | apply keeps_demand | apply keeps_writeNat | apply keeps_traceCore |
          apply keeps_modCore | apply keepsRes_next | apply keepsRes_fault | apply keepsRes_refused | apply
          keepsCoreOut_wait | apply keepsCoreOut_stop | apply keepsCoreOut_done | apply keepsCoreOut_jump |
          apply keepsCoreOut_ended | apply keepsCoreOut_hold | apply keepsCoreOut_queued | apply
          keepsCoreOut_poisoned)
    | intro _
    | split

theorem keeps_execFlset {a : State} {c : Fin 192} {w : CoreWord} {s : State} (h0 : Keeps false a s) :
    KeepsRes false a (execFlset c w s) := by
  unfold execFlset
  try dsimp only
  repeat' first
    | (with_reducible first
        | assumption | apply keeps_issue | apply keeps_traceCore | apply keeps_writeNat | apply keepsRes_next
          | apply keepsRes_fault | apply keepsRes_refused | apply keepsCoreOut_wait | apply keepsCoreOut_stop
          | apply keepsCoreOut_done | apply keepsCoreOut_jump | apply keepsCoreOut_ended | apply
          keepsCoreOut_hold | apply keepsCoreOut_queued | apply keepsCoreOut_poisoned)
    | intro _
    | split

theorem keeps_execFlwait {same : Bool} {a : State} {c : Fin 192} {w : CoreWord} {s : State} (h0 : Keeps same a s) :
    KeepsRes same a (execFlwait c w s) := by
  unfold execFlwait
  try dsimp only
  repeat' first
    | (with_reducible first
        | assumption | apply keeps_issue | apply keeps_demand | apply keeps_traceCore | apply keeps_modCore |
          apply keepsRes_next | apply keepsRes_fault | apply keepsRes_refused | apply keepsCoreOut_wait |
          apply keepsCoreOut_stop | apply keepsCoreOut_done | apply keepsCoreOut_jump | apply
          keepsCoreOut_ended | apply keepsCoreOut_hold | apply keepsCoreOut_queued | apply
          keepsCoreOut_poisoned)
    | intro _
    | split

theorem keeps_execFlwaitTimeout {same : Bool} {a : State} {c : Fin 192} {w : CoreWord} {s : State} (h0 : Keeps same a s) :
    KeepsRes same a (execFlwaitTimeout c w s) := by
  unfold execFlwaitTimeout
  try dsimp only
  repeat' first
    | (with_reducible first
        | assumption | apply keeps_issue | apply keeps_demand | apply keeps_traceCore | apply keeps_modCore |
          apply keepsRes_next | apply keepsRes_fault | apply keepsRes_refused | apply keepsCoreOut_wait |
          apply keepsCoreOut_stop | apply keepsCoreOut_done | apply keepsCoreOut_jump | apply
          keepsCoreOut_ended | apply keepsCoreOut_hold | apply keepsCoreOut_queued | apply
          keepsCoreOut_poisoned)
    | intro _
    | split

theorem keeps_execHalt {same : Bool} {a : State} {c : Fin 192} {w : CoreWord} {s : State} (h0 : Keeps same a s) :
    KeepsRes same a (execHalt c w s) := by
  unfold execHalt
  try dsimp only
  repeat' first
    | (with_reducible first
        | assumption | apply keeps_issue | apply keeps_endCore | apply keeps_retire | apply keepsRes_next |
          apply keepsRes_fault | apply keepsRes_refused | apply keepsCoreOut_wait | apply keepsCoreOut_stop |
          apply keepsCoreOut_done | apply keepsCoreOut_jump | apply keepsCoreOut_ended | apply
          keepsCoreOut_hold | apply keepsCoreOut_queued | apply keepsCoreOut_poisoned)
    | intro _
    | split

theorem keeps_execJr {same : Bool} {a : State} {c : Fin 192} {w : CoreWord} {s : State} (h0 : Keeps same a s) :
    KeepsRes same a (execJr c w s) := by
  unfold execJr
  try dsimp only
  repeat' first
    | (with_reducible first
        | assumption | apply keeps_issue | apply keepsRes_next | apply keepsRes_fault | apply keepsRes_refused |
          apply keepsCoreOut_wait | apply keepsCoreOut_stop | apply keepsCoreOut_done | apply keepsCoreOut_jump |
          apply keepsCoreOut_ended)
    | intro _
    | split
    | refine keeps_of_CoreOut_done ?_ ‹_›
    | refine keeps_of_CoreOut_jump ?_ ‹_›
    | refine keeps_of_CoreOut_ended ?_ ‹_›

theorem keeps_execLd {same : Bool} {a : State} {c : Fin 192} {w : CoreWord} {s : State} (h0 : Keeps same a s) :
    KeepsRes same a (execLd c w s) := by
  unfold execLd
  try dsimp only
  repeat' first
    | (with_reducible first
        | assumption | apply keeps_issue | apply keeps_demand | apply keeps_modCore | apply keepsRes_next |
          apply keepsRes_fault | apply keepsRes_refused | apply keepsCoreOut_wait | apply keepsCoreOut_stop |
          apply keepsCoreOut_done | apply keepsCoreOut_jump | apply keepsCoreOut_ended | apply
          keepsCoreOut_hold | apply keepsCoreOut_queued | apply keepsCoreOut_poisoned)
    | intro _
    | split

theorem keeps_execMul {same : Bool} {a : State} {c : Fin 192} {w : CoreWord} {s : State} (h0 : Keeps same a s) :
    KeepsRes same a (execMul c w s) := by
  unfold execMul
  try dsimp only
  repeat' first
    | (with_reducible first
        | assumption | apply keeps_alu | apply keepsRes_next | apply keepsRes_fault | apply keepsRes_refused)
    | intro _
    | split

theorem keeps_execMulhu {same : Bool} {a : State} {c : Fin 192} {w : CoreWord} {s : State} (h0 : Keeps same a s) :
    KeepsRes same a (execMulhu c w s) := by
  unfold execMulhu
  try dsimp only
  repeat' first
    | (with_reducible first
        | assumption | apply keeps_alu | apply keepsRes_next | apply keepsRes_fault | apply keepsRes_refused)
    | intro _
    | split

theorem keeps_execOr {same : Bool} {a : State} {c : Fin 192} {w : CoreWord} {s : State} (h0 : Keeps same a s) :
    KeepsRes same a (execOr c w s) := by
  unfold execOr
  try dsimp only
  repeat' first
    | (with_reducible first
        | assumption | apply keeps_alu | apply keepsRes_next | apply keepsRes_fault | apply keepsRes_refused)
    | intro _
    | split

theorem keeps_execPlog {same : Bool} {a : State} {c : Fin 192} {w : CoreWord} {s : State} (h0 : Keeps same a s) :
    KeepsRes same a (execPlog c w s) := by
  unfold execPlog
  try dsimp only
  repeat' first
    | (with_reducible first
        | assumption | apply keeps_issue | apply keeps_modCore | apply keepsRes_next | apply keepsRes_fault | apply
          keepsRes_refused | apply keepsCoreOut_wait | apply keepsCoreOut_stop | apply keepsCoreOut_done | apply
          keepsCoreOut_jump | apply keepsCoreOut_ended)
    | intro _
    | split
    | refine keeps_of_CoreOut_done ?_ ‹_›
    | refine keeps_of_CoreOut_jump ?_ ‹_›
    | refine keeps_of_CoreOut_ended ?_ ‹_›

theorem keeps_execShl {same : Bool} {a : State} {c : Fin 192} {w : CoreWord} {s : State} (h0 : Keeps same a s) :
    KeepsRes same a (execShl c w s) := by
  unfold execShl
  try dsimp only
  repeat' first
    | (with_reducible first
        | assumption | apply keeps_alu | apply keepsRes_next | apply keepsRes_fault | apply keepsRes_refused)
    | intro _
    | split

theorem keeps_execShr {same : Bool} {a : State} {c : Fin 192} {w : CoreWord} {s : State} (h0 : Keeps same a s) :
    KeepsRes same a (execShr c w s) := by
  unfold execShr
  try dsimp only
  repeat' first
    | (with_reducible first
        | assumption | apply keeps_alu | apply keepsRes_next | apply keepsRes_fault | apply keepsRes_refused)
    | intro _
    | split

theorem keeps_execSra {same : Bool} {a : State} {c : Fin 192} {w : CoreWord} {s : State} (h0 : Keeps same a s) :
    KeepsRes same a (execSra c w s) := by
  unfold execSra
  try dsimp only
  repeat' first
    | (with_reducible first
        | assumption | apply keeps_alu | apply keepsRes_next | apply keepsRes_fault | apply keepsRes_refused)
    | intro _
    | split

theorem keeps_execSt {a : State} {c : Fin 192} {w : CoreWord} {s : State} (h0 : Keeps false a s) :
    KeepsRes false a (execSt c w s) := by
  unfold execSt
  try dsimp only
  repeat' first
    | (with_reducible first
        | assumption | apply keeps_issue | apply keeps_writeNat | apply keepsRes_next | apply keepsRes_fault | apply
          keepsRes_refused | apply keepsCoreOut_wait | apply keepsCoreOut_stop | apply keepsCoreOut_done | apply
          keepsCoreOut_jump | apply keepsCoreOut_ended)
    | intro _
    | split
    | refine keeps_of_CoreOut_done ?_ ‹_›
    | refine keeps_of_CoreOut_jump ?_ ‹_›
    | refine keeps_of_CoreOut_ended ?_ ‹_›

theorem keeps_execSub {same : Bool} {a : State} {c : Fin 192} {w : CoreWord} {s : State} (h0 : Keeps same a s) :
    KeepsRes same a (execSub c w s) := by
  unfold execSub
  try dsimp only
  repeat' first
    | (with_reducible first
        | assumption | apply keeps_alu | apply keepsRes_next | apply keepsRes_fault | apply keepsRes_refused)
    | intro _
    | split

theorem keeps_execXor {same : Bool} {a : State} {c : Fin 192} {w : CoreWord} {s : State} (h0 : Keeps same a s) :
    KeepsRes same a (execXor c w s) := by
  unfold execXor
  try dsimp only
  repeat' first
    | (with_reducible first
        | assumption | apply keeps_alu | apply keepsRes_next | apply keepsRes_fault | apply keepsRes_refused)
    | intro _
    | split

end Sys2Proof.Machine
end

