-- ==== Sys2Proof/Laws/KeepsGroups.lean ====
section
/-! SUPPORT. What the operations of Machine/Groups.lean keep. -/

namespace Sys2Proof.Machine

theorem keeps_commitGroupDefine {same : Bool} {a s : State} {ps : List (BitVec 512)} (h0 : Keeps same a s) :
    Keeps same a (commitGroupDefine s ps) := by
  unfold commitGroupDefine
  try dsimp only
  repeat' first
    | (with_reducible first
        | assumption | apply keeps_bumpGroup | apply keeps_bumpUnits | simp only [keeps_mk_iff])
    | intro _
    | split

theorem keeps_commitMembership {same : Bool} {a s : State} {uid definer : Nat} (h0 : Keeps same a s) :
    Keeps same a (commitMembership s uid definer) := by
  unfold commitMembership
  try dsimp only
  repeat' first
    | (with_reducible first
        | assumption | apply keeps_bumpUnits | simp only [keeps_mk_iff])
    | intro _
    | split

theorem keeps_tellRemotes {same : Bool} {a s : State} {own : Bool} {kind g : Nat} {ms : List Member} (h0 : Keeps same a s) :
    Keeps same a (tellRemotes s own kind g ms) := by
  unfold tellRemotes
  try dsimp only
  repeat' first
    | (with_reducible first
        | assumption | apply keeps_foldl | apply keeps_sendMsg | apply keeps_foldl)
    | intro _
    | split

theorem keeps_dissolveGroup {same : Bool} {a s : State} {g : Nat} (h0 : Keeps same a s) :
    Keeps same a (dissolveGroup s g) := by
  unfold dissolveGroup
  try dsimp only
  repeat' first
    | (with_reducible first
        | assumption | apply keeps_tellRemotes | apply keeps_bumpGroup | apply keeps_bumpUnits | simp only
          [keeps_mk_iff])
    | intro _
    | split

theorem keeps_execGroupDissolve {same : Bool} {a : State} {id : Nat} {s : State} (h0 : Keeps same a s) :
    KeepsRes same a (execGroupDissolve id s) := by
  unfold execGroupDissolve
  try dsimp only
  repeat' first
    | (with_reducible first
        | assumption | apply keeps_startCmd | apply keeps_finishCmd | apply keeps_dissolveGroup | apply
          keepsRes_next | apply keepsRes_fault | apply keepsRes_refused | apply keepsStart_wait | apply
          keepsStart_ended | apply keepsStart_go)
    | intro _
    | split
    | refine keeps_of_Start_ended ?_ ‹_›
    | refine keeps_of_Start_go ?_ ‹_›

theorem keeps_remoteState {same : Bool} {a s : State} {fuid st stamp epoch : Nat} (h0 : Keeps same a s) :
    Keeps same a (remoteState s fuid st stamp epoch) := by
  unfold remoteState
  try dsimp only
  repeat' first
    | (with_reducible first
        | assumption | apply keeps_bumpGroup | apply keeps_foldl | simp only [keeps_mk_iff])
    | intro _
    | split

end Sys2Proof.Machine
end

