-- ==== Sys2Proof/Laws/KeepsKv.lean ====
section
/-! SUPPORT. What the operations of Machine/Kv.lean keep. -/

namespace Sys2Proof.Machine

theorem keeps_addChild {a s : State} {g : BitVec 256} {c : BitVec 1024} {y3 : Nat} {up : Bool} (h0 : Keeps false a s) :
    Keeps false a (addChild s g c y3 up) := by
  unfold addChild
  try dsimp only
  repeat' first
    | (with_reducible first
        | assumption | apply keeps_writeNat)
    | intro _
    | split

theorem keeps_shiftBack {a : State} {fuel : Nat} {s : State} {g : BitVec 256} {c : BitVec 1024} {i j : Nat} (h0 : Keeps false a
    s) :
    Keeps false a (shiftBack fuel s g c i j) := by
  induction fuel generalizing s g c i j with
  | zero => first | exact h0 | exact given_none
  | succ fuel ih =>
  unfold shiftBack
  try dsimp only
  repeat' first
    | (with_reducible first
        | assumption | apply ih | apply keeps_writeNat)
    | intro _
    | split

theorem keeps_removeSlot {a s : State} {g : BitVec 256} {c : BitVec 1024} {n : Nat} (h0 : Keeps false a s) :
    Keeps false a (removeSlot s g c n) := by
  unfold removeSlot
  try dsimp only
  repeat' first
    | (with_reducible first
        | assumption | apply keeps_shiftBack | apply keeps_writeNat)
    | intro _
    | split

theorem keeps_setFrame {a s : State} {g : BitVec 256} {f x : Nat} (h0 : Keeps false a s) :
    Keeps false a (setFrame s g f x) := by
  unfold setFrame
  try dsimp only
  repeat' first
    | (with_reducible first
        | assumption | apply keeps_writeNat)
    | intro _
    | split

theorem keeps_discardStaged {same : Bool} {a s : State} {f : Nat} (h0 : Keeps same a s) :
    Keeps same a (discardStaged s f) := by
  unfold discardStaged
  try dsimp only
  repeat' first
    | (with_reducible first
        | assumption | simp only [keeps_mk_iff])
    | intro _
    | split

theorem keeps_freeFrame {a s : State} {g : BitVec 256} {f : Nat} (h0 : Keeps false a s) :
    Keeps false a (freeFrame s g f) := by
  unfold freeFrame
  try dsimp only
  repeat' first
    | (with_reducible first
        | assumption | apply keeps_setFrame | apply keeps_discardStaged)
    | intro _
    | split

theorem keeps_dropRef {a s : State} {g : BitVec 256} {f : Nat} (h0 : Keeps false a s) :
    Keeps false a (dropRef s g f) := by
  unfold dropRef
  try dsimp only
  repeat' first
    | (with_reducible first
        | assumption | apply keeps_freeFrame | apply keeps_setFrame)
    | intro _
    | split

theorem keeps_removeNode {a s : State} {g : BitVec 256} {c : BitVec 1024} {n : Nat} (h0 : Keeps false a s) :
    Keeps false a (removeNode s g c n) := by
  unfold removeNode
  try dsimp only
  repeat' first
    | (with_reducible first
        | assumption | apply keeps_addChild | apply keeps_removeSlot | apply keeps_dropRef | apply keeps_writeNat |
          apply keeps_foldl)
    | intro _
    | split

theorem keeps_evictLeaf {a s : State} {g : BitVec 256} {c : BitVec 1024} (h0 : Keeps false a s) :
    Given (Keeps false a) (evictLeaf s g c) := by
  unfold evictLeaf
  exact given_map given_any fun _ _ => keeps_removeNode h0

theorem keeps_seqEvent {same : Bool} {a s : State} {typ tag y3 b : Nat} (h0 : Keeps same a s) :
    Keeps same a (seqEvent s typ tag y3 b) := by
  unfold seqEvent
  try dsimp only
  repeat' first
    | (with_reducible first
        | assumption | apply keeps_unitEvent)
    | intro _
    | split

theorem keeps_retireFrame {a s : State} {g : BitVec 256} {f : Nat} (h0 : Keeps false a s) :
    Keeps false a (retireFrame s g f) := by
  unfold retireFrame
  try dsimp only
  repeat' first
    | (with_reducible first
        | assumption | apply keeps_seqEvent | apply keeps_setFrame | apply keeps_discardStaged)
    | intro _
    | split

theorem keeps_zeroFrame {a s : State} {g : BitVec 256} {f : Nat} {tag : BitVec 48} (h0 : Keeps false a s) :
    Keeps false a (zeroFrame s g f tag) := by
  unfold zeroFrame
  try dsimp only
  repeat' first
    | (with_reducible first
        | assumption | apply keeps_writeTagged | apply keeps_foldl)
    | intro _
    | split

theorem keeps_setSeq {same : Bool} {a s : State} {q : SeqSt} (h0 : Keeps same a s) :
    Keeps same a (setSeq s q) := by
  unfold setSeq
  try dsimp only
  repeat' first
    | (with_reducible first
        | assumption | simp only [keeps_mk_iff])
    | intro _
    | split

theorem keeps_allocFuel {a : State} {fuel : Nat} {s : State} {g : BitVec 256} {ctx : Nat} (h0 : Keeps false a s) :
    Keeps false a (allocFuel fuel s g ctx).2 := by
  induction fuel generalizing s g ctx with
  | zero => first | exact h0 | exact given_none
  | succ fuel ih =>
  unfold allocFuel
  try dsimp only
  repeat' first
    | (with_reducible first
        | assumption | apply ih | apply keeps_evictLeaf | apply keeps_retireFrame | apply keeps_zeroFrame | apply
          keeps_setFrame | apply keeps_setSeq | apply given_none | apply given_some)
    | intro _
    | split
    | refine keeps_of_snd ?_ ‹_›
    | refine keeps_of_some ?_ ‹_›

theorem keeps_allocFrame {a s : State} {g : BitVec 256} {ctx : Nat} (h0 : Keeps false a s) :
    Keeps false a (allocFrame s g ctx).2 := by
  unfold allocFrame
  try dsimp only
  repeat' first
    | (with_reducible first
        | assumption | apply keeps_allocFuel | apply given_none | apply given_some)
    | intro _
    | split
    | refine keeps_of_snd ?_ ‹_›

theorem keeps_dropLab {same : Bool} {a s : State} {c l : Nat} {p : Option Nat} (h0 : Keeps same a s) :
    Keeps same a (dropLab s c l p) := by
  unfold dropLab
  try dsimp only
  repeat' first
    | (with_reducible first
        | assumption | simp only [keeps_mk_iff])
    | intro _
    | split

theorem keeps_writePte {a s : State} {g : BitVec 256} {c l : Nat} {p : Option Nat} {x : Nat} (h0 : Keeps false a s) :
    Keeps false a (writePte s g c l p x) := by
  unfold writePte
  try dsimp only
  repeat' first
    | (with_reducible first
        | assumption | apply keeps_dropLab | apply keeps_writeNat)
    | intro _
    | split

theorem keeps_setCtx {same : Bool} {a s : State} {c : Nat} {r : Option CtxRec} (h0 : Keeps same a s) :
    Keeps same a (setCtx s c r) := by
  unfold setCtx
  try dsimp only
  repeat' first
    | (with_reducible first
        | assumption | apply keeps_setSeq)
    | intro _
    | split

theorem keeps_updCtx {same : Bool} {a s : State} {c : Nat} {f : CtxRec → CtxRec} (h0 : Keeps same a s) :
    Keeps same a (updCtx s c f) := by
  unfold updCtx
  try dsimp only
  repeat' first
    | (with_reducible first
        | assumption | apply keeps_setCtx)
    | intro _
    | split

theorem keeps_discharge {same : Bool} {a s : State} {c n : Nat} (h0 : Keeps same a s) :
    Keeps same a (discharge s c n) := by
  unfold discharge
  try dsimp only
  repeat' first
    | (with_reducible first
        | assumption | apply keeps_updCtx)
    | intro _
    | split

theorem keeps_keepRetired {a s t : State} {g : BitVec 256} (h0 : Keeps false a s) (h1 : Keeps false a t) :
    Keeps false a (keepRetired s t g) := by
  unfold keepRetired
  try dsimp only
  repeat' first
    | (with_reducible first
        | assumption | apply keeps_foldl | apply keeps_retireFrame | apply keeps_foldl)
    | intro _
    | split

theorem keeps_allocPublishable {a : State} {fuel : Nat} : ∀ {s : State} {g : BitVec 256} {ctx : Nat}, Keeps false a s →
    Keeps false a (allocPublishable fuel s g ctx).2 := by
  induction fuel with
  | zero => intro s g ctx h; exact h
  | succ n ih =>
    intro s g ctx h
    unfold allocPublishable
    split
    · exact keeps_of_snd (keeps_allocFrame h) ‹_›
    · have k := keeps_of_snd (keeps_allocFrame h) ‹_›
      split
      · exact ih (keeps_retireFrame k)
      · exact k

theorem keeps_retractDraft {a s : State} {g : BitVec 256} {c : Nat} (h0 : Keeps false a s) :
    Keeps false a (retractDraft s g c) := by
  unfold retractDraft
  try dsimp only
  repeat' first
    | (with_reducible first
        | assumption | apply keeps_discharge | apply keeps_writePte | apply keeps_freeFrame | apply keeps_updCtx |
          apply keeps_foldl)
    | intro _
    | split

theorem keeps_damage {a s : State} {c cause frame : Nat} (h0 : Keeps false a s) :
    Keeps false a (damage s c cause frame) := by
  unfold damage
  try dsimp only
  repeat' first
    | (with_reducible first
        | assumption | apply keeps_retractDraft | apply keeps_seqEvent | apply keeps_updCtx)
    | intro _
    | split

theorem keeps_frameHit {a s : State} {g : BitVec 256} {c : BitVec 1024} {f : Nat} (h0 : Keeps false a s) :
    Keeps false a (frameHit s g c f) := by
  unfold frameHit
  try dsimp only
  repeat' first
    | (with_reducible first
        | assumption | apply keeps_writePte | apply keeps_damage | apply keeps_removeNode | apply keeps_foldl)
    | intro _
    | split

theorem keeps_logHit {a s : State} {c : Nat} (h0 : Keeps false a s) :
    Keeps false a (logHit s c) := by
  unfold logHit
  try dsimp only
  repeat' first
    | (with_reducible first
        | assumption | apply keeps_damage)
    | intro _
    | split

theorem keeps_systemHit {a s : State} {line : Nat} (h0 : Keeps false a s) :
    Keeps false a (systemHit s line) := by
  unfold systemHit
  try dsimp only
  repeat' first
    | (with_reducible first
        | assumption | apply keeps_drawFree | apply keeps_setPoison | apply keeps_faultUnit)
    | intro _
    | split
    | refine keeps_of_snd ?_ ‹_›

theorem keeps_rebuildSlots {a s : State} {g : BitVec 256} {c : BitVec 1024} (h0 : Keeps false a s) :
    Keeps false a (rebuildSlots s g c) := by
  unfold rebuildSlots
  try dsimp only
  repeat' first
    | (with_reducible first
        | assumption | apply keeps_writeBytes | apply keeps_foldl | apply keeps_writeNat | apply keeps_foldl)
    | intro _
    | split

theorem keeps_channelDamage {a s : State} {n : Nat} (h0 : Keeps false a s) :
    Keeps false a (channelDamage s n) := by
  unfold channelDamage
  try dsimp only
  repeat' first
    | (with_reducible first
        | assumption | apply keeps_foldl | apply keeps_frameHit | apply keeps_logHit | apply keeps_damage |
          apply keeps_removeNode | apply keeps_rebuildSlots | apply keeps_foldl)
    | intro _
    | split

theorem keeps_charge {same : Bool} {a s : State} {c n : Nat} (h0 : Keeps same a s) :
    Keeps same a (charge s c n) := by
  unfold charge
  try dsimp only
  repeat' first
    | (with_reducible first
        | assumption | apply keeps_updCtx)
    | intro _
    | split

theorem keeps_attnReport {a s : State} {k : Fin 24} {c n : Nat} {e : AttnFail} (h0 : Keeps false a s) :
    Keeps false a (attnReport s k c n e) := by
  unfold attnReport
  try dsimp only
  repeat' first
    | (with_reducible first
        | assumption | apply keeps_faultUnit | apply keeps_damage)
    | intro _
    | split

theorem keeps_clearMailbox {a s : State} {k : Nat} (h0 : Keeps false a s) :
    Keeps false a (clearMailbox s k) := by
  unfold clearMailbox
  try dsimp only
  repeat' first
    | (with_reducible first
        | assumption | apply keeps_writeBytes | apply keeps_foldl)
    | intro _
    | split

theorem keeps_copyFrame {a s : State} {g : BitVec 256} {src dst : Nat} {tag : BitVec 48} (h0 : Keeps false a s) :
    Keeps false a (copyFrame s g src dst tag) := by
  unfold copyFrame
  try dsimp only
  repeat' first
    | (with_reducible first
        | assumption | apply keeps_foldl | apply keeps_writeTagged | apply keeps_setPoison | apply keeps_foldl)
    | intro _
    | split

theorem keeps_poisonAct {a s : State} {line : Nat} (h0 : Keeps false a s) :
    Keeps false a (poisonAct s line) := by
  unfold poisonAct
  try dsimp only
  repeat' first
    | (with_reducible first
        | assumption | apply keeps_systemHit | apply keeps_frameHit | apply keeps_foldl | apply keeps_damage |
          apply keeps_logHit | apply keeps_rebuildSlots | apply keeps_removeNode | apply keeps_foldl)
    | intro _
    | split

theorem keeps_retagFrame {a s : State} {g : BitVec 256} {f : Nat} {tag : BitVec 48} (h0 : Keeps false a s) :
    Keeps false a (retagFrame s g f tag) := by
  refine keeps_foldl (fun s x h => ?_) h0
  dsimp only
  split
  · exact h.of_wf rfl rfl (memWf_tags _ _) rfl rfl rfl rfl
  · exact keeps_writeTagged _ _ _ h

theorem keeps_publishFrame {a s : State} {g : BitVec 256} {ctx f sgrp ref : Nat} (h0 : Keeps false a s) :
    Keeps false a (publishFrame s g ctx f sgrp ref).2 := by
  unfold publishFrame
  try dsimp only
  repeat' first
    | (with_reducible first
        | assumption | apply keeps_discardStaged | apply keeps_allocPublishable | apply keeps_copyFrame |
          apply keeps_retireFrame | apply keeps_setFrame | apply keeps_retagFrame | apply given_none | apply
          given_some)
    | intro _
    | split
    | refine keeps_of_trd ?_ ‹_›
    | refine keeps_of_snd ?_ ‹_›

theorem keeps_releasePte {a s : State} {g : BitVec 256} {x : Nat} (h0 : Keeps false a s) :
    Keeps false a (releasePte s g x) := by
  unfold releasePte
  try dsimp only
  repeat' first
    | (with_reducible first
        | assumption | apply keeps_dropRef | apply keeps_freeFrame)
    | intro _
    | split

theorem keeps_releasePages {a s : State} {g : BitVec 256} {c st : Nat} (h0 : Keeps false a s) :
    Keeps false a (releasePages s g c st) := by
  unfold releasePages
  try dsimp only
  repeat' first
    | (with_reducible first
        | assumption | apply keeps_discharge | apply keeps_writePte | apply keeps_releasePte | apply keeps_foldl)
    | intro _
    | split

end Sys2Proof.Machine
end

