-- ==== Sys2Proof/Laws/KeepsFabSend.lean ====
section
/-! SUPPORT. What the operations of Machine/FabSend.lean keep. -/

namespace Sys2Proof.Machine

/-- The states a Served carries keep what `Keeps` says. -/
def KeepsServed (m : Bool) (a : State) : Served → Prop
  | .wait t => Keeps m a t
  | .ok t _ => Keeps m a t
  | .err t _ => Keeps m a t

theorem keepsServed_wait {m : Bool} {a t : State} (h : Keeps m a t) : KeepsServed m a (.wait t) := h

theorem keeps_of_Served_wait {m : Bool} {a t : State} {o : Served} (h : KeepsServed m a o) (e : o = .wait t) : Keeps m a t := by
  subst e; exact h

theorem keepsServed_ok {m : Bool} {a t : State} {y1 : List Byte} (h : Keeps m a t) : KeepsServed m a (.ok t y1) := h

theorem keeps_of_Served_ok {m : Bool} {a t : State} {o : Served} {y1 : List Byte} (h : KeepsServed m a o) (e : o = .ok t y1) : Keeps m a t := by
  subst e; exact h

theorem keepsServed_err {m : Bool} {a t : State} {y1 : Nat} (h : Keeps m a t) : KeepsServed m a (.err t y1) := h

theorem keeps_of_Served_err {m : Bool} {a t : State} {o : Served} {y1 : Nat} (h : KeepsServed m a o) (e : o = .err t y1) : Keeps m a t := by
  subst e; exact h

theorem keeps_setFab {same : Bool} {a s : State} {f : FabSt} (h0 : Keeps same a s) :
    Keeps same a (setFab s f) := by
  unfold setFab
  try dsimp only
  repeat' first
    | (with_reducible first
        | assumption | simp only [keeps_mk_iff])
    | intro _
    | split

theorem keeps_putLink {same : Bool} {a s : State} {l : LinkSt} (h0 : Keeps same a s) :
    Keeps same a (putLink s l) := by
  unfold putLink
  try dsimp only
  repeat' first
    | (with_reducible first
        | assumption | apply keeps_setFab)
    | intro _
    | split

theorem keeps_holdFrame {same : Bool} {a s : State} {since : Nat} {f : FrameRec} (h0 : Keeps same a s) :
    Keeps same a (holdFrame s since f) := by
  unfold holdFrame
  try dsimp only
  repeat' first
    | (with_reducible first
        | assumption | apply keeps_setFab)
    | intro _
    | split

theorem keeps_noteHeld {same : Bool} {a s : State} (h0 : Keeps same a s) :
    Keeps same a (noteHeld s) := by
  unfold noteHeld
  try dsimp only
  repeat' first
    | (with_reducible first
        | assumption | apply keeps_setFab)
    | intro _
    | split

theorem keeps_sealFrame {same : Bool} {a s : State} {f : FrameRec} (h0 : Keeps same a s) :
    Keeps same a (sealFrame s f).1 := by
  unfold sealFrame
  try dsimp only
  repeat' first
    | (with_reducible first
        | assumption | apply keeps_setFab | apply keeps_putLink)
    | intro _
    | split
    | refine keeps_of_fst ?_ ‹_›

theorem keeps_placeFrame {same : Bool} {a s : State} {p : Nat} {f : FrameRec} (h0 : Keeps same a s) :
    Keeps same a (placeFrame s p f) := by
  unfold placeFrame
  try dsimp only
  repeat' first
    | (with_reducible first
        | assumption | apply keeps_emit | simp only [keeps_mk_iff])
    | intro _
    | split

theorem keeps_routeFrame {same : Bool} {a s : State} {since : Nat} {f : FrameRec} (h0 : Keeps same a s) :
    Keeps same a (routeFrame s since f) := by
  unfold routeFrame
  try dsimp only
  repeat' first
    | (with_reducible first
        | assumption | apply keeps_holdFrame | apply keeps_setFab | apply keeps_sealFrame | apply keeps_placeFrame)
    | intro _
    | split
    | refine keeps_of_fst ?_ ‹_›

theorem keeps_beginLink {same : Bool} {a s : State} {peer : Nat} (h0 : Keeps same a s) :
    Keeps same a (beginLink s peer) := by
  unfold beginLink
  try dsimp only
  repeat' first
    | (with_reducible first
        | assumption | apply keeps_drawRandom | apply keeps_putLink | apply keeps_routeFrame)
    | intro _
    | split
    | refine keeps_of_snd ?_ ‹_›

theorem keeps_pushFrame {same : Bool} {a s : State} {since : Nat} {f : FrameRec} (h0 : Keeps same a s) :
    Keeps same a (pushFrame s since f) := by
  unfold pushFrame
  try dsimp only
  repeat' first
    | (with_reducible first
        | assumption | apply keeps_routeFrame | apply keeps_holdFrame | apply keeps_beginLink)
    | intro _
    | split

theorem keeps_sendOutbox {same : Bool} {a s : State} (h0 : Keeps same a s) :
    Keeps same a (sendOutbox s) := by
  unfold sendOutbox
  try dsimp only
  repeat' first
    | (with_reducible first
        | assumption | apply keeps_foldl | apply keeps_pushFrame | apply keeps_setFab | apply keeps_foldl)
    | intro _
    | split

theorem keeps_checkTarget {same : Bool} {a s : State} {adm : Bool} {grant y3 n ctx : Nat} (h0 : Keeps same a s) :
    Given (fun p => Keeps same a p.1) (checkTarget s adm grant y3 n ctx) := by
  unfold checkTarget
  try dsimp only
  repeat' first
    | (with_reducible first
        | assumption | apply keeps_setFab | apply given_none | apply given_some)
    | intro _
    | split
    | refine keeps_of_some_fst ?_ ‹_›

theorem keeps_dropLink {same : Bool} {a s : State} {peer : Nat} (h0 : Keeps same a s) :
    Keeps same a (dropLink s peer) := by
  unfold dropLink
  try dsimp only
  repeat' first
    | (with_reducible first
        | assumption | apply keeps_setFab)
    | intro _
    | split

theorem keeps_flushHeld {same : Bool} {a s : State} (h0 : Keeps same a s) :
    Keeps same a (flushHeld s) := by
  unfold flushHeld
  try dsimp only
  repeat' first
    | (with_reducible first
        | assumption | apply keeps_foldl | apply keeps_pushFrame | apply keeps_setFab | apply keeps_foldl)
    | intro _
    | split

theorem keeps_flushPort {same : Bool} {a s : State} {p : Nat} (h0 : Keeps same a s) :
    Keeps same a (flushPort s p) := by
  unfold flushPort
  try dsimp only
  repeat' first
    | (with_reducible first
        | assumption | apply keeps_placeFrame | apply keeps_foldl | simp only [keeps_mk_iff])
    | intro _
    | split

theorem keeps_flushWaiting {same : Bool} {a s : State} (h0 : Keeps same a s) :
    Keeps same a (flushWaiting s) := by
  unfold flushWaiting
  try dsimp only
  repeat' first
    | (with_reducible first
        | assumption | apply keeps_foldl | apply keeps_pushFrame | apply keeps_setFab | apply keeps_foldl)
    | intro _
    | split

theorem keeps_portHandoff {same : Bool} {a s : State} {p : Nat} (h0 : Keeps same a s) :
    Keeps same a (portHandoff s p) := by
  unfold portHandoff
  try dsimp only
  repeat' first
    | (with_reducible first
        | assumption | apply keeps_foldl | apply keeps_holdFrame | apply keeps_placeFrame | apply
          keeps_noteHeld | simp only [keeps_mk_iff] | apply keeps_foldl)
    | intro _
    | split

theorem keeps_sendBody {same : Bool} {a s : State} {dst ctx tid fpa : Nat} {b : FrameBody} (h0 : Keeps same a s) :
    Keeps same a (sendBody s dst ctx tid fpa b) := by
  unfold sendBody
  try dsimp only
  repeat' first
    | (with_reducible first
        | assumption | apply keeps_pushFrame)
    | intro _
    | split

theorem keeps_respond {same : Bool} {a s : State} {f : FrameIn} {b : FrameBody} (h0 : Keeps same a s) :
    Keeps same a (respond s f b) := by
  unfold respond
  try dsimp only
  repeat' first
    | (with_reducible first
        | assumption | apply keeps_sendBody)
    | intro _
    | split

theorem keeps_sendRequest {same : Bool} {a s : State} {o : FabOwner} {ctx fpa len off : Nat} {b : FrameBody} (h0 : Keeps same a
    s) :
    Keeps same a (sendRequest s o ctx fpa len off b) := by
  unfold sendRequest
  try dsimp only
  repeat' first
    | (with_reducible first
        | assumption | apply keeps_setFab | apply keeps_sendBody)
    | intro _
    | split

theorem keeps_serveFlag {a s : State} {adm : Bool} {y2 v ctx : Nat} (h0 : Keeps false a s) :
    KeepsServed false a (serveFlag s adm y2 v ctx) := by
  unfold serveFlag
  try dsimp only
  repeat' first
    | (with_reducible first
        | assumption | apply keeps_setFab | apply keeps_checkTarget | apply keeps_touchAddr | apply
          keeps_demand | apply keeps_writeNat | apply keepsServed_wait | apply keepsServed_ok | apply
          keepsServed_err | apply given_none | apply given_some)
    | intro _
    | split
    | refine keeps_of_Served_wait ?_ ‹_›
    | refine keeps_of_Served_ok ?_ ‹_›
    | refine keeps_of_Served_err ?_ ‹_›
    | refine keeps_of_some_fst ?_ ‹_›

theorem keeps_serveRead {same : Bool} {a s : State} {adm : Bool} {y2 n ctx : Nat} (h0 : Keeps same a s) :
    KeepsServed same a (serveRead s adm y2 n ctx) := by
  unfold serveRead
  try dsimp only
  repeat' first
    | (with_reducible first
        | assumption | apply keeps_checkTarget | apply keeps_touchRange | apply keeps_demand | apply
          keepsServed_wait | apply keepsServed_ok | apply keepsServed_err | apply given_none | apply
          given_some)
    | intro _
    | split
    | refine keeps_of_Served_wait ?_ ‹_›
    | refine keeps_of_Served_ok ?_ ‹_›
    | refine keeps_of_Served_err ?_ ‹_›
    | refine keeps_of_some_fst ?_ ‹_›

theorem keeps_serveWrite {a s : State} {adm : Bool} {y2 : Nat} {bs : List Byte} {ctx : Nat} (h0 : Keeps false a s) :
    KeepsServed false a (serveWrite s adm y2 bs ctx) := by
  unfold serveWrite
  try dsimp only
  repeat' first
    | (with_reducible first
        | assumption | apply keeps_checkTarget | apply keeps_touchRange | apply keeps_writeBytes | apply
          keepsServed_wait | apply keepsServed_ok | apply keepsServed_err | apply given_none | apply
          given_some)
    | intro _
    | split
    | refine keeps_of_Served_wait ?_ ‹_›
    | refine keeps_of_Served_ok ?_ ‹_›
    | refine keeps_of_Served_err ?_ ‹_›
    | refine keeps_of_some_fst ?_ ‹_›

end Sys2Proof.Machine
end

