-- ==== Sys2Proof/Laws/KeepsDma.lean ====
section
/-! SUPPORT. What the operations of Machine/Dma.lean keep. -/

namespace Sys2Proof.Machine

theorem keeps_updEnt {same : Bool} {a s : State} {c : Fin 192} {seq : Nat} {f : DmaEnt → DmaEnt} (h0 : Keeps same a s) :
    Keeps same a (updEnt s c seq f) := by
  unfold updEnt
  try dsimp only
  repeat' first
    | (with_reducible first
        | assumption | apply keeps_modCore)
    | intro _
    | split

theorem keeps_askTranslations {same : Bool} {a s : State} {c : Fin 192} {seq : Nat} (h0 : Keeps same a s) :
    Keeps same a (askTranslations s c seq) := by
  unfold askTranslations
  try dsimp only
  repeat' first
    | (with_reducible first
        | assumption | apply keeps_updEnt | apply keeps_foldl | apply keeps_emit | apply keeps_foldl)
    | intro _
    | split

theorem keeps_dropReqs {same : Bool} {a s : State} {c : Fin 192} {st seq : Nat} (h0 : Keeps same a s) :
    Keeps same a (dropReqs s c st seq) := by
  unfold dropReqs
  try dsimp only
  repeat' first
    | (with_reducible first
        | assumption | apply keeps_setFab)
    | intro _
    | split

theorem keeps_settleMaps {same : Bool} {a s : State} (h0 : Keeps same a s) :
    Keeps same a (settleMaps s) := by
  unfold settleMaps
  try dsimp only
  repeat' first
    | (with_reducible first
        | assumption | apply keeps_finishCmd | apply keeps_foldl)
    | intro _
    | split

theorem keeps_endEnt {same : Bool} {a s : State} {c : Fin 192} {seq st : Nat} (h0 : Keeps same a s) :
    Keeps same a (endEnt s c seq st) := by
  unfold endEnt
  try dsimp only
  repeat' first
    | (with_reducible first
        | assumption | apply keeps_putCore | apply keeps_foldl | apply keeps_dropReqs | apply keeps_traceCore
          | apply keeps_countInstr | apply keeps_modCore | apply keeps_finishCmd | apply keeps_settleMaps |
          apply keeps_settleCore | apply keeps_foldl)
    | intro _
    | split

theorem keeps_readSource {same : Bool} {a s : State} {rs : List Rng} (h0 : Keeps same a s) :
    Keeps same a (readSource s rs).1 := by
  unfold readSource
  try dsimp only
  repeat' first
    | (with_reducible first
        | assumption | apply keeps_demandAll | apply given_none | apply given_some | apply givenR_inl | apply
          givenR_inr)
    | intro _
    | split
    | refine keeps_of_fst ?_ ‹_›

theorem keeps_selfPiece {same : Bool} {a : State} {r : SelfRun} {x : Served} (h0 : Keeps same a r.s) (h1 : KeepsServed same a x) :
    Keeps same a (selfPiece r x).s := by
  unfold selfPiece
  split
  · exact h1
  · exact h1
  · exact h1

theorem keeps_selfRead {same : Bool} {a s : State} {e : DmaEnt} {base : Nat} (h0 : Keeps same a s) :
    Keeps same a (selfRead s e base).s :=
  foldl_holds (P := fun r : SelfRun => Keeps same a r.s) (fun _ _ h => keeps_selfPiece h (keeps_serveRead h)) h0

theorem keeps_selfWrite {a s : State} {e : DmaEnt} {base : Nat} {bs : List Byte} (h0 : Keeps false a s) :
    Keeps false a (selfWrite s e base bs).s :=
  foldl_holds (P := fun r : SelfRun => Keeps false a r.s) (fun _ _ h => keeps_selfPiece h (keeps_serveWrite h)) h0

theorem keeps_finishEnt {a s : State} {c : Fin 192} {e : DmaEnt} (h0 : Keeps false a s) :
    Keeps false a (finishEnt s c e) := by
  unfold finishEnt
  try dsimp only
  repeat' first
    | (with_reducible first
        | assumption | apply keeps_updEnt | apply keeps_endEnt | apply keeps_touchAddr | apply keeps_demand |
          apply keeps_writeNat | apply keeps_serveFlag | apply keeps_sendRequest | apply keepsServed_wait |
          apply keepsServed_ok | apply keepsServed_err)
    | intro _
    | split
    | refine keeps_of_Served_wait ?_ ‹_›
    | refine keeps_of_Served_ok ?_ ‹_›
    | refine keeps_of_Served_err ?_ ‹_›

theorem keeps_hostWriteEnt {same : Bool} {a s : State} {c : Fin 192} {e : DmaEnt} {bs : List Byte} (h0 : Keeps same a s) :
    Keeps same a (hostWriteEnt s c e bs) := by
  unfold hostWriteEnt
  dsimp only
  refine keeps_updCmd (keeps_foldl_fst (s := (s, bs)) ?_ h0)
  intro x y h
  exact keeps_hostPut h

theorem keeps_writeRanges {a s : State} {rs : List Rng} {bs : List Byte} (h0 : Keeps false a s) :
    Keeps false a (writeRanges s rs bs) := by
  unfold writeRanges
  exact keeps_foldl_fst (fun _ _ h => keeps_writeBytes _ _ h) (s := (s, bs)) h0

theorem keeps_refresh {same : Bool} {a s : State} {c : Fin 192} {seq : Nat} (h0 : Keeps same a s) :
    Keeps same a (refresh s c seq) := by
  unfold refresh
  try dsimp only
  repeat' first
    | (with_reducible first
        | assumption | apply keeps_askTranslations | apply keeps_updEnt)
    | intro _
    | split

theorem keeps_deliver {a s : State} {c : Fin 192} {e : DmaEnt} {bs : List Byte} (h0 : Keeps false a s) :
    Keeps false a (deliver s c e bs) := by
  unfold deliver
  try dsimp only
  repeat' first
    | (with_reducible first
        | assumption | apply keeps_finishEnt | apply keeps_hostWriteEnt | apply keeps_selfWrite | apply
          keeps_endEnt | apply keeps_updEnt | apply keeps_foldl | apply keeps_sendRequest | apply
          keeps_writeRanges | apply keeps_foldl)
    | intro _
    | split

theorem keeps_denied {same : Bool} {a s : State} {c : Fin 192} {e : DmaEnt} (h0 : Keeps same a s) :
    Keeps same a (denied s c e) := by
  unfold denied
  try dsimp only
  repeat' first
    | (with_reducible first
        | assumption | apply keeps_endEnt | apply keeps_updEnt | apply keeps_emit)
    | intro _
    | split

theorem keeps_entTouch {same : Bool} {a s : State} {c : Fin 192} {e : DmaEnt} (h0 : Keeps same a s) :
    Keeps same a (entTouch s c e) := by
  unfold entTouch
  try dsimp only
  repeat' first
    | (with_reducible first
        | assumption | apply keeps_foldl | apply keeps_touchRange | apply keeps_foldl)
    | intro _
    | split

theorem keeps_issueReads {same : Bool} {a s : State} {c : Fin 192} {e : DmaEnt} (h0 : Keeps same a s) :
    Keeps same a (issueReads s c e) := by
  unfold issueReads
  try dsimp only
  repeat' first
    | (with_reducible first
        | assumption | apply keeps_updEnt | apply keeps_foldl | apply keeps_emit | apply keeps_foldl)
    | intro _
    | split

theorem keeps_deliverRead {a s : State} {c : Fin 192} {e : DmaEnt} (h0 : Keeps false a s) :
    Keeps false a (deliverRead s c e) := by
  unfold deliverRead
  try dsimp only
  repeat' first
    | (with_reducible first
        | assumption | apply keeps_foldl | apply keeps_deliver | apply keeps_foldl)
    | intro _
    | split

theorem keeps_takeReads {a s : State} {c : Fin 192} {e : DmaEnt} {bs : List Byte} (h0 : Keeps false a s) :
    Keeps false a (takeReads s c e bs) := by
  unfold takeReads
  try dsimp only
  repeat' first
    | (with_reducible first
        | assumption | apply keeps_updEnt | apply keeps_deliverRead)
    | intro _
    | split

theorem keeps_entAnswer {a s : State} {c : Fin 192} {seq off : Nat} {bs : List Byte} (h0 : Keeps false a s) :
    Keeps false a (entAnswer s c seq off bs) := by
  unfold entAnswer
  try dsimp only
  repeat' first
    | (with_reducible first
        | assumption | apply keeps_updEnt | apply keeps_endEnt | apply keeps_deliverRead | apply
          keeps_finishEnt)
    | intro _
    | split

theorem keeps_execAtsInvalidateRequest {same : Bool} {a : State} {itag : Nat} {pasid : Option Nat} {page npages : Nat} {s :
    State} (h0 : Keeps same a s) :
    KeepsRes same a (execAtsInvalidateRequest itag pasid page npages s) := by
  unfold execAtsInvalidateRequest
  try dsimp only
  repeat' first
    | (with_reducible first
        | assumption | apply keepsRes_next | apply keepsRes_fault | apply keepsRes_refused | apply given_none
          | apply given_some | simp only [keeps_mk_iff])
    | intro _
    | split

theorem keeps_execAtsTranslationCompletion {same : Bool} {a : State} {c : Fin 192} {seq : Nat} {t : TransIn} {s : State} (h0 :
    Keeps same a s) :
    KeepsRes same a (execAtsTranslationCompletion c seq t s) := by
  unfold execAtsTranslationCompletion
  try dsimp only
  repeat' first
    | (with_reducible first
        | assumption | apply keeps_askTranslations | apply keeps_updEnt | apply keeps_denied | apply
          keepsRes_next | apply keepsRes_fault | apply keepsRes_refused)
    | intro _
    | split

theorem keeps_queueChain {same : Bool} {a s : State} {c : Fin 192} {owner : Option Nat} {ds : List (BitVec 512)} (h0 : Keeps
    same a s) :
    Keeps same a (queueChain s c owner ds) := by
  unfold queueChain
  try dsimp only
  repeat' first
    | (with_reducible first
        | assumption | apply keeps_touchDoze | apply keeps_putCore | apply given_none | apply given_some)
    | intro _
    | split

theorem keeps_execDma {same : Bool} {a : State} {c : Fin 192} {w : CoreWord} {s : State} (h0 : Keeps same a s) :
    KeepsRes same a (execDma c w s) := by
  unfold execDma
  try dsimp only
  repeat' first
    | (with_reducible first
        | assumption | apply keeps_issue | apply keeps_demandAll | apply keeps_queueChain | apply
          keepsRes_next | apply keepsRes_fault | apply keepsRes_refused | apply keepsCoreOut_wait | apply
          keepsCoreOut_stop | apply keepsCoreOut_done | apply keepsCoreOut_jump | apply keepsCoreOut_ended |
          apply keepsCoreOut_hold | apply keepsCoreOut_queued | apply keepsCoreOut_poisoned | apply given_none
          | apply given_some)
    | intro _
    | split

theorem keeps_execDmaCopy {same : Bool} {a : State} {id : Nat} {s : State} (h0 : Keeps same a s) :
    KeepsRes same a (execDmaCopy id s) := by
  unfold execDmaCopy
  try dsimp only
  repeat' first
    | (with_reducible first
        | assumption | apply keeps_runCmd | apply keeps_queueChain | apply keeps_finishCmd | apply keepsRes_next |
          apply keepsRes_fault | apply keepsRes_refused)
    | intro _
    | split

theorem keeps_startEnt {a s : State} {c : Fin 192} {e : DmaEnt} (h0 : Keeps false a s) :
    Keeps false a (startEnt s c e) := by
  unfold startEnt
  try dsimp only
  repeat' first
    | (with_reducible first
        | assumption | apply keeps_endEnt | apply keeps_issueReads | apply keeps_selfRead | apply
          keeps_deliver | apply keeps_updEnt | apply keeps_foldl | apply keeps_sendRequest | apply
          keeps_readSource | apply given_none | apply given_some | apply givenR_inl | apply givenR_inr | apply
          keeps_foldl)
    | intro _
    | split
    | refine keeps_of_fst ?_ ‹_›

theorem keeps_execDmaEntryComplete {a : State} {c : Fin 192} {seq : Nat} {d : HostData} {s : State} (h0 : Keeps false a s) :
    KeepsRes false a (execDmaEntryComplete c seq d s) := by
  unfold execDmaEntryComplete
  try dsimp only
  repeat' first
    | (with_reducible first
        | assumption | apply keeps_refresh | apply keeps_entTouch | apply keeps_startEnt | apply keeps_endEnt
          | apply keeps_takeReads | apply keeps_issueReads | apply keeps_finishEnt | apply keeps_deliverRead |
          apply keepsRes_next | apply keepsRes_fault | apply keepsRes_refused)
    | intro _
    | split

theorem keeps_execDmaEntrySubmit {same : Bool} {a : State} {c : Fin 192} {seq : Nat} {s : State} (h0 : Keeps same a s) :
    KeepsRes same a (execDmaEntrySubmit c seq s) := by
  unfold execDmaEntrySubmit
  try dsimp only
  repeat' first
    | (with_reducible first
        | assumption | apply keeps_endEnt | apply keeps_updEnt | apply keeps_askTranslations | apply
          keeps_traceCore | apply keepsRes_next | apply keepsRes_fault | apply keepsRes_refused)
    | intro _
    | split

theorem keeps_execInvalidateCompletion {same : Bool} {a : State} {itag : Nat} {s : State} (h0 : Keeps same a s) :
    KeepsRes same a (execInvalidateCompletion itag s) := by
  unfold execInvalidateCompletion
  try dsimp only
  repeat' first
    | (with_reducible first
        | assumption | apply keeps_emit | apply keepsRes_next | apply keepsRes_fault | apply keepsRes_refused | simp
          only [keeps_mk_iff])
    | intro _
    | split

theorem keeps_execInvalidateReadExpiry {same : Bool} {a : State} {itag : Nat} {s : State} (h0 : Keeps same a s) :
    KeepsRes same a (execInvalidateReadExpiry itag s) := by
  unfold execInvalidateReadExpiry
  try dsimp only
  repeat' first
    | (with_reducible first
        | assumption | apply keeps_foldl | apply keeps_endEnt | apply keepsRes_next | apply keepsRes_fault |
          apply keepsRes_refused | apply keeps_foldl)
    | intro _
    | split

theorem keeps_execPrgResponse {same : Bool} {a : State} {c : Fin 192} {seq code : Nat} {s : State} (h0 : Keeps same a s) :
    KeepsRes same a (execPrgResponse c seq code s) := by
  unfold execPrgResponse
  try dsimp only
  repeat' first
    | (with_reducible first
        | assumption | apply keeps_endEnt | apply keeps_updEnt | apply keeps_askTranslations | apply
          keepsRes_next | apply keepsRes_fault | apply keepsRes_refused)
    | intro _
    | split

theorem keeps_execPriWaitExpiry {same : Bool} {a : State} {c : Fin 192} {seq : Nat} {s : State} (h0 : Keeps same a s) :
    KeepsRes same a (execPriWaitExpiry c seq s) := by
  unfold execPriWaitExpiry
  try dsimp only
  repeat' first
    | (with_reducible first
        | assumption | apply keeps_endEnt | apply keepsRes_next | apply keepsRes_fault | apply keepsRes_refused)
    | intro _
    | split

theorem keeps_execWaitd {same : Bool} {a : State} {c : Fin 192} {w : CoreWord} {s : State} (h0 : Keeps same a s) :
    KeepsRes same a (execWaitd c w s) := by
  unfold execWaitd
  try dsimp only
  repeat' first
    | (with_reducible first
        | assumption | apply keeps_issue | apply keeps_modCore | apply keepsRes_next | apply keepsRes_fault | apply
          keepsRes_refused | apply keepsCoreOut_wait | apply keepsCoreOut_stop | apply keepsCoreOut_done | apply
          keepsCoreOut_jump | apply keepsCoreOut_ended)
    | intro _
    | split
    | refine keeps_of_CoreOut_done ?_ ‹_›
    | refine keeps_of_CoreOut_jump ?_ ‹_›
    | refine keeps_of_CoreOut_ended ?_ ‹_›

theorem keeps_failEnts {same : Bool} {a s : State} {p : DmaEnt → Bool} {st : Nat} (h0 : Keeps same a s) :
    Keeps same a (failEnts s p st) := by
  unfold failEnts
  try dsimp only
  repeat' first
    | (with_reducible first
        | assumption | apply keeps_endEnt | apply keeps_foldl)
    | intro _
    | split

theorem keeps_failHostDma {same : Bool} {a s : State} (h0 : Keeps same a s) :
    Keeps same a (failHostDma s) := by
  unfold failHostDma
  try dsimp only
  repeat' first
    | (with_reducible first
        | assumption | apply keeps_failEnts)
    | intro _
    | split

end Sys2Proof.Machine
end

