-- ==== Sys2Proof/Laws/KeepsMemMap.lean ====
section
/-! SUPPORT. What the operations of Machine/MemMap.lean keep. -/

namespace Sys2Proof.Machine

theorem keeps_putMapRec {same : Bool} {a s : State} {r : Nat} (h0 : Keeps same a s) :
    Keeps same a (putMapRec s r) := by
  unfold putMapRec
  try dsimp only
  repeat' first
    | (with_reducible first
        | assumption | simp only [keeps_mk_iff])
    | intro _
    | split

theorem keeps_acceptMap {same : Bool} {a s : State} {id : Nat} {ps : List (BitVec 512)} (h0 : Keeps same a s) :
    Keeps same a (acceptMap s id ps) :=
  keeps_failEnts (keeps_updCmd (keeps_foldl_snd (fun _ _ h => keeps_putMapRec h) (s := (([] : List Nat), s)) h0))

theorem keeps_execMemMap {same : Bool} {a : State} {id : Nat} {s : State} (h0 : Keeps same a s) :
    KeepsRes same a (execMemMap id s) := by
  unfold execMemMap
  split
  · exact keepsRes_next (keeps_settleMaps h0)
  · exact keeps_runCmd h0 fun _ _ _ h => keeps_settleMaps h

end Sys2Proof.Machine
end

