-- ==== Sys2Proof/Laws/KeepsDigest.lean ====
section
/-! SUPPORT. What the operations of Machine/Digest.lean keep. -/

namespace Sys2Proof.Machine

theorem keeps_setDigs {same : Bool} {a s : State} {l p : List DigestEnt} (h0 : Keeps same a s) :
    Keeps same a (setDigs s l p) := by
  unfold setDigs
  try dsimp only
  repeat' first
    | (with_reducible first
        | assumption | simp only [keeps_mk_iff])
    | intro _
    | split

theorem keeps_mirrorEvent {same : Bool} {a s : State} {kind tag count lo pa qpn seqno : Nat} (h0 : Keeps same a s) :
    Keeps same a (mirrorEvent s kind tag count lo pa qpn seqno) := by
  unfold mirrorEvent
  try dsimp only
  repeat' first
    | (with_reducible first
        | assumption | apply keeps_ringEvent)
    | intro _
    | split

theorem keeps_digestRoom {same : Bool} {a s : State} (h0 : Keeps same a s) :
    Keeps same a (digestRoom s) := by
  unfold digestRoom
  try dsimp only
  repeat' first
    | (with_reducible first
        | assumption | apply keeps_mirrorEvent | apply keeps_setDigs | apply keeps_foldl)
    | intro _
    | split

theorem keeps_digestLocal {same : Bool} {a s : State} {e : DigestEnt} (h0 : Keeps same a s) :
    Keeps same a (digestLocal s e) := by
  unfold digestLocal
  try dsimp only
  repeat' first
    | (with_reducible first
        | assumption | apply keeps_setDigs | apply keeps_mirrorEvent | apply keeps_digestRoom)
    | intro _
    | split

theorem keeps_digestPartner {same : Bool} {a s : State} {e : DigestEnt} (h0 : Keeps same a s) :
    Keeps same a (digestPartner s e) := by
  unfold digestPartner
  try dsimp only
  repeat' first
    | (with_reducible first
        | assumption | apply keeps_setDigs | apply keeps_mirrorEvent | apply keeps_digestRoom)
    | intro _
    | split

theorem keeps_digestUnit {same : Bool} {a s : State} {c : CmdRec} (h0 : Keeps same a s) :
    Keeps same a (digestUnit s c) := by
  unfold digestUnit
  try dsimp only
  repeat' first
    | (with_reducible first
        | assumption | apply keeps_sendBody | apply keeps_digestLocal)
    | intro _
    | split

theorem keeps_execDigestMissingTimeout {same : Bool} {a : State} {qpn seqno : Nat} {s : State} (h0 : Keeps same a s) :
    KeepsRes same a (execDigestMissingTimeout qpn seqno s) := by
  unfold execDigestMissingTimeout
  try dsimp only
  repeat' first
    | (with_reducible first
        | assumption | apply keeps_mirrorEvent | apply keeps_setDigs | apply keepsRes_next | apply keepsRes_fault |
          apply keepsRes_refused)
    | intro _
    | split

theorem keeps_mirrorLinkDown {same : Bool} {a s : State} (h0 : Keeps same a s) :
    Keeps same a (mirrorLinkDown s) := by
  unfold mirrorLinkDown
  try dsimp only
  repeat' first
    | (with_reducible first
        | assumption | apply keeps_mirrorEvent | apply keeps_setDigs)
    | intro _
    | split

end Sys2Proof.Machine
end

