-- ==== Sys2Proof/Laws/KeepsCoreFloat.lean ====
section
/-! SUPPORT. What the operations of Machine/CoreFloat.lean keep. -/

namespace Sys2Proof.Machine

theorem keeps_fpWrite {same : Bool} {a s : State} {c : Fin 192} {w : CoreWord} {r : Nat × FFlags} (h0 : Keeps same a s) :
    Keeps same a (fpWrite s c w r) := by
  unfold fpWrite
  try dsimp only
  repeat' first
    | (with_reducible first
        | assumption | apply keeps_modCore)
    | intro _
    | split

theorem keeps_fp2 {same : Bool} {a : State} {opc : Nat} {f : FFmt → FEnv → Nat → Nat → Nat × FFlags} {c : Fin 192} {w :
    CoreWord} {s : State} (h0 : Keeps same a s) :
    KeepsRes same a (fp2 opc f c w s) := by
  unfold fp2
  try dsimp only
  repeat' first
    | (with_reducible first
        | assumption | apply keeps_issue | apply keeps_fpWrite | apply keepsRes_next | apply keepsRes_fault | apply
          keepsRes_refused | apply keepsCoreOut_wait | apply keepsCoreOut_stop | apply keepsCoreOut_done | apply
          keepsCoreOut_jump | apply keepsCoreOut_ended)
    | intro _
    | split
    | refine keeps_of_CoreOut_done ?_ ‹_›
    | refine keeps_of_CoreOut_jump ?_ ‹_›
    | refine keeps_of_CoreOut_ended ?_ ‹_›

theorem keeps_execFadd {same : Bool} {a : State} {c : Fin 192} {w : CoreWord} {s : State} (h0 : Keeps same a s) :
    KeepsRes same a (execFadd c w s) := by
  unfold execFadd
  try dsimp only
  repeat' first
    | (with_reducible first
        | assumption | apply keeps_fp2 | apply keepsRes_next | apply keepsRes_fault | apply keepsRes_refused)
    | intro _
    | split

theorem keeps_execFcmp {same : Bool} {a : State} {c : Fin 192} {w : CoreWord} {s : State} (h0 : Keeps same a s) :
    KeepsRes same a (execFcmp c w s) := by
  unfold execFcmp
  try dsimp only
  repeat' first
    | (with_reducible first
        | assumption | apply keeps_issue | apply keeps_modCore | apply keepsRes_next | apply keepsRes_fault | apply
          keepsRes_refused | apply keepsCoreOut_wait | apply keepsCoreOut_stop | apply keepsCoreOut_done | apply
          keepsCoreOut_jump | apply keepsCoreOut_ended)
    | intro _
    | split
    | refine keeps_of_CoreOut_done ?_ ‹_›
    | refine keeps_of_CoreOut_jump ?_ ‹_›
    | refine keeps_of_CoreOut_ended ?_ ‹_›

theorem keeps_execFcvt {same : Bool} {a : State} {c : Fin 192} {w : CoreWord} {s : State} (h0 : Keeps same a s) :
    KeepsRes same a (execFcvt c w s) := by
  unfold execFcvt
  try dsimp only
  repeat' first
    | (with_reducible first
        | assumption | apply keeps_issue | apply keeps_fpWrite | apply keepsRes_next | apply keepsRes_fault | apply
          keepsRes_refused | apply keepsCoreOut_wait | apply keepsCoreOut_stop | apply keepsCoreOut_done | apply
          keepsCoreOut_jump | apply keepsCoreOut_ended)
    | intro _
    | split
    | refine keeps_of_CoreOut_done ?_ ‹_›
    | refine keeps_of_CoreOut_jump ?_ ‹_›
    | refine keeps_of_CoreOut_ended ?_ ‹_›

theorem keeps_execFdiv {same : Bool} {a : State} {c : Fin 192} {w : CoreWord} {s : State} (h0 : Keeps same a s) :
    KeepsRes same a (execFdiv c w s) := by
  unfold execFdiv
  try dsimp only
  repeat' first
    | (with_reducible first
        | assumption | apply keeps_fp2 | apply keepsRes_next | apply keepsRes_fault | apply keepsRes_refused)
    | intro _
    | split

theorem keeps_execFfma {same : Bool} {a : State} {c : Fin 192} {w : CoreWord} {s : State} (h0 : Keeps same a s) :
    KeepsRes same a (execFfma c w s) := by
  unfold execFfma
  try dsimp only
  repeat' first
    | (with_reducible first
        | assumption | apply keeps_issue | apply keeps_fpWrite | apply keepsRes_next | apply keepsRes_fault | apply
          keepsRes_refused | apply keepsCoreOut_wait | apply keepsCoreOut_stop | apply keepsCoreOut_done | apply
          keepsCoreOut_jump | apply keepsCoreOut_ended)
    | intro _
    | split
    | refine keeps_of_CoreOut_done ?_ ‹_›
    | refine keeps_of_CoreOut_jump ?_ ‹_›
    | refine keeps_of_CoreOut_ended ?_ ‹_›

theorem keeps_execFminmax {same : Bool} {a : State} {c : Fin 192} {w : CoreWord} {s : State} (h0 : Keeps same a s) :
    KeepsRes same a (execFminmax c w s) := by
  unfold execFminmax
  try dsimp only
  repeat' first
    | (with_reducible first
        | assumption | apply keeps_issue | apply keeps_fpWrite | apply keepsRes_next | apply keepsRes_fault | apply
          keepsRes_refused | apply keepsCoreOut_wait | apply keepsCoreOut_stop | apply keepsCoreOut_done | apply
          keepsCoreOut_jump | apply keepsCoreOut_ended)
    | intro _
    | split
    | refine keeps_of_CoreOut_done ?_ ‹_›
    | refine keeps_of_CoreOut_jump ?_ ‹_›
    | refine keeps_of_CoreOut_ended ?_ ‹_›

theorem keeps_execFmul {same : Bool} {a : State} {c : Fin 192} {w : CoreWord} {s : State} (h0 : Keeps same a s) :
    KeepsRes same a (execFmul c w s) := by
  unfold execFmul
  try dsimp only
  repeat' first
    | (with_reducible first
        | assumption | apply keeps_fp2 | apply keepsRes_next | apply keepsRes_fault | apply keepsRes_refused)
    | intro _
    | split

theorem keeps_execFsqrt {same : Bool} {a : State} {c : Fin 192} {w : CoreWord} {s : State} (h0 : Keeps same a s) :
    KeepsRes same a (execFsqrt c w s) := by
  unfold execFsqrt
  try dsimp only
  repeat' first
    | (with_reducible first
        | assumption | apply keeps_issue | apply keeps_fpWrite | apply keepsRes_next | apply keepsRes_fault | apply
          keepsRes_refused | apply keepsCoreOut_wait | apply keepsCoreOut_stop | apply keepsCoreOut_done | apply
          keepsCoreOut_jump | apply keepsCoreOut_ended)
    | intro _
    | split
    | refine keeps_of_CoreOut_done ?_ ‹_›
    | refine keeps_of_CoreOut_jump ?_ ‹_›
    | refine keeps_of_CoreOut_ended ?_ ‹_›

theorem keeps_execFsub {same : Bool} {a : State} {c : Fin 192} {w : CoreWord} {s : State} (h0 : Keeps same a s) :
    KeepsRes same a (execFsub c w s) := by
  unfold execFsub
  try dsimp only
  repeat' first
    | (with_reducible first
        | assumption | apply keeps_fp2 | apply keepsRes_next | apply keepsRes_fault | apply keepsRes_refused)
    | intro _
    | split

end Sys2Proof.Machine
end

