-- ==== Sys2Proof/Laws/KeepsColl.lean ====
section
/-! SUPPORT. What the operations of Machine/Coll.lean keep. -/

namespace Sys2Proof.Machine

/-- The states a CollAns carries keep what `Keeps` says. -/
def KeepsCollAns (m : Bool) (a : State) : CollAns → Prop
  | .wait => True
  | .drop t => Keeps m a t
  | .ans t _ => Keeps m a t

theorem keepsCollAns_wait {m : Bool} {a : State} : KeepsCollAns m a (.wait) := trivial

theorem keepsCollAns_drop {m : Bool} {a t : State} (h : Keeps m a t) : KeepsCollAns m a (.drop t) := h

theorem keeps_of_CollAns_drop {m : Bool} {a t : State} {o : CollAns} (h : KeepsCollAns m a o) (e : o = .drop t) : Keeps m a t := by
  subst e; exact h

theorem keepsCollAns_ans {m : Bool} {a t : State} {y1 : Nat} (h : Keeps m a t) : KeepsCollAns m a (.ans t y1) := h

theorem keeps_of_CollAns_ans {m : Bool} {a t : State} {o : CollAns} {y1 : Nat} (h : KeepsCollAns m a o) (e : o = .ans t y1) : Keeps m a t := by
  subst e; exact h

theorem keeps_addDevFlag {a s : State} {y1 v : Nat} {failed : Bool} (h0 : Keeps false a s) :
    Keeps false a (addDevFlag s y1 v failed) := by
  unfold addDevFlag
  try dsimp only
  repeat' first
    | (with_reducible first
        | assumption | apply keeps_writeNat)
    | intro _
    | split

theorem keeps_setInsts {same : Bool} {a s : State} {f : List CollInst → List CollInst} (h0 : Keeps same a s) :
    Keeps same a (setInsts s f) := by
  unfold setInsts
  try dsimp only
  repeat' first
    | (with_reducible first
        | assumption | apply keeps_setFab)
    | intro _
    | split

theorem keeps_dropInst {same : Bool} {a s : State} {id inst : Nat} (h0 : Keeps same a s) :
    Keeps same a (dropInst s id inst) := by
  unfold dropInst
  try dsimp only
  repeat' first
    | (with_reducible first
        | assumption | apply keeps_setInsts | apply keeps_setFab)
    | intro _
    | split

theorem keeps_endInst {a s : State} {i : CollInst} {st : Nat} (h0 : Keeps false a s) :
    Keeps false a (endInst s i st) := by
  unfold endInst
  try dsimp only
  repeat' first
    | (with_reducible first
        | assumption | apply keeps_addDevFlag | apply keeps_dropInst | apply keeps_finishCmd)
    | intro _
    | split

theorem keeps_failInst {a s : State} {i : CollInst} {cls st : Nat} (h0 : Keeps false a s) :
    Keeps false a (failInst s i cls st) := by
  unfold failInst
  try dsimp only
  repeat' first
    | (with_reducible first
        | assumption | apply keeps_endInst | apply keeps_faultUnit)
    | intro _
    | split

theorem keeps_updInst {same : Bool} {a s : State} {id inst : Nat} {f : CollInst → CollInst} (h0 : Keeps same a s) :
    Keeps same a (updInst s id inst f) := by
  unfold updInst
  try dsimp only
  repeat' first
    | (with_reducible first
        | assumption | apply keeps_setInsts)
    | intro _
    | split

theorem keeps_writeCollDst {a s : State} {i : CollInst} {off : Nat} {bs : List Byte} (h0 : Keeps false a s) :
    Keeps false a (writeCollDst s i off bs) := by
  unfold writeCollDst
  try dsimp only
  repeat' first
    | (with_reducible first
        | assumption | apply keeps_updInst | apply keeps_writeBytes)
    | intro _
    | split

theorem keeps_pushOut {same : Bool} {a s : State} {i : CollInst} {xs : List (Nat × FrameBody)} (h0 : Keeps same a s) :
    Keeps same a (pushOut s i xs) := by
  unfold pushOut
  try dsimp only
  repeat' first
    | (with_reducible first
        | assumption | apply keeps_updInst)
    | intro _
    | split

theorem keeps_reducedChunk {a s : State} {i : CollInst} {n r : Nat} {bs : List Byte} (h0 : Keeps false a s) :
    Keeps false a (reducedChunk s i n r bs) := by
  unfold reducedChunk
  try dsimp only
  repeat' first
    | (with_reducible first
        | assumption | apply keeps_failInst | apply keeps_writeCollDst | apply keeps_pushOut)
    | intro _
    | split

theorem keeps_reduceDirect {a s : State} {i : CollInst} {n r : Nat} (h0 : Keeps false a s) :
    Keeps false a (reduceDirect s i n r) := by
  unfold reduceDirect
  try dsimp only
  repeat' first
    | (with_reducible first
        | assumption | apply keeps_reducedChunk | apply keeps_updInst | apply keeps_foldl)
    | intro _
    | split

theorem keeps_beginInst {a s : State} {i : CollInst} (h0 : Keeps false a s) :
    Keeps false a (beginInst s i) := by
  unfold beginInst
  try dsimp only
  repeat' first
    | (with_reducible first
        | assumption | apply keeps_failInst | apply keeps_demand | apply keeps_setFab | apply keeps_updInst |
          apply keeps_foldl | apply keeps_sendRequest | apply keeps_writeCollDst | apply keeps_pushOut | apply
          keeps_reducedChunk | apply keeps_reduceDirect | apply keeps_foldl)
    | intro _
    | split

theorem keeps_tryBegin {a s : State} {i : CollInst} (h0 : Keeps false a s) :
    Keeps false a (tryBegin s i) := by
  unfold tryBegin
  try dsimp only
  repeat' first
    | (with_reducible first
        | assumption | apply keeps_foldl | apply keeps_touchRange | apply keeps_beginInst | apply keeps_foldl)
    | intro _
    | split

theorem keeps_collAnswer {a s : State} {id inst st : Nat} (h0 : Keeps false a s) :
    Keeps false a (collAnswer s id inst st) := by
  unfold collAnswer
  try dsimp only
  repeat' first
    | (with_reducible first
        | assumption | apply keeps_updInst | apply keeps_failInst)
    | intro _
    | split

theorem keeps_sendReady {same : Bool} {a s : State} {i : CollInst} (h0 : Keeps same a s) :
    Keeps same a (sendReady s i) := by
  unfold sendReady
  try dsimp only
  repeat' first
    | (with_reducible first
        | assumption | apply keeps_updInst | apply keeps_sendRequest | apply keeps_foldl)
    | intro _
    | split

theorem keeps_collPump {a s : State} (h0 : Keeps false a s) :
    Keeps false a (collPump s) := by
  unfold collPump
  try dsimp only
  repeat' first
    | (with_reducible first
        | assumption | apply keeps_foldl | apply keeps_tryBegin | apply keeps_sendReady | apply keeps_foldl)
    | intro _
    | split

theorem keeps_fabCollCmd {same : Bool} {a : State} {pick : BitVec 512 → Bool} {ready : State → CmdRec → Bool} {act : State →
    CmdRec → BitVec 512 → State} {id : Nat} {s : State} (h0 : ∀ (z0 : State) (z1 : CmdRec) (z2 : BitVec 512), Keeps same a z0 →
    Keeps same a (act z0 z1 z2)) (h1 : Keeps same a s) :
    KeepsRes same a (fabCollCmd pick ready act id s) := by
  unfold fabCollCmd
  try dsimp only
  repeat' first
    | (with_reducible first
        | assumption | apply h0 | apply keeps_runCmd | apply keeps_finishCmd | apply keepsRes_next | apply
          keepsRes_fault | apply keepsRes_refused)
    | intro _
    | split

theorem keeps_execCollectiveArm {same : Bool} {a : State} {id : Nat} {s : State} (h0 : Keeps same a s) :
    KeepsRes same a (execCollectiveArm id s) := by
  unfold execCollectiveArm
  try dsimp only
  repeat' first
    | (with_reducible first
        | assumption | apply keeps_fabCollCmd | apply keeps_finishCmd | apply keeps_setFab | apply keepsRes_next |
          apply keepsRes_fault | apply keepsRes_refused)
    | intro _
    | split

theorem keeps_execCollectiveDisarm {same : Bool} {a : State} {id : Nat} {s : State} (h0 : Keeps same a s) :
    KeepsRes same a (execCollectiveDisarm id s) := by
  unfold execCollectiveDisarm
  try dsimp only
  repeat' first
    | (with_reducible first
        | assumption | apply keeps_fabCollCmd | apply keeps_finishCmd | apply keeps_setFab | apply keepsRes_next |
          apply keepsRes_fault | apply keepsRes_refused)
    | intro _
    | split

theorem keeps_execCollectiveInstanceEnd {a : State} {collid inst : Nat} {s : State} (h0 : Keeps false a s) :
    KeepsRes false a (execCollectiveInstanceEnd collid inst s) := by
  unfold execCollectiveInstanceEnd
  try dsimp only
  repeat' first
    | (with_reducible first
        | assumption | apply keeps_collPump | apply keeps_endInst | apply keepsRes_next | apply keepsRes_fault |
          apply keepsRes_refused)
    | intro _
    | split

theorem keeps_startInst {a s : State} {d : BitVec 512} {cmd slot : Option Nat} (h0 : Keeps false a s) :
    Keeps false a (startInst s d cmd slot) := by
  unfold startInst
  try dsimp only
  repeat' first
    | (with_reducible first
        | assumption | apply keeps_setFab | apply keeps_collPump | apply keeps_setInsts)
    | intro _
    | split

theorem keeps_execCollectiveTrigger {a : State} {slot : Fin 64} {s : State} (h0 : Keeps false a s) :
    KeepsRes false a (execCollectiveTrigger slot s) := by
  unfold execCollectiveTrigger
  try dsimp only
  repeat' first
    | (with_reducible first
        | assumption | apply keeps_setFab | apply keeps_startInst | apply keepsRes_next | apply keepsRes_fault |
          apply keepsRes_refused)
    | intro _
    | split

theorem keeps_execFabCollective {a : State} {id : Nat} {s : State} (h0 : Keeps false a s) :
    KeepsRes false a (execFabCollective id s) := by
  unfold execFabCollective
  try dsimp only
  repeat' first
    | (with_reducible first
        | assumption | apply keeps_fabCollCmd | apply keeps_startInst | apply keepsRes_next | apply keepsRes_fault |
          apply keepsRes_refused)
    | intro _
    | split

theorem keeps_failCollectives {a s : State} {st : Nat} (h0 : Keeps false a s) :
    Keeps false a (failCollectives s st) := by
  unfold failCollectives
  try dsimp only
  repeat' first
    | (with_reducible first
        | assumption | apply keeps_failInst | apply keeps_foldl)
    | intro _
    | split

theorem keeps_reduceRing {a s : State} {i : CollInst} {n r chunk : Nat} (h0 : Keeps false a s) :
    Keeps false a (reduceRing s i n r chunk) := by
  unfold reduceRing
  try dsimp only
  repeat' first
    | (with_reducible first
        | assumption | apply keeps_updInst | apply keeps_reducedChunk | apply keeps_pushOut)
    | intro _
    | split

theorem keeps_takeData {a s : State} {adm : Bool} {id inst : Nat} {gather : Bool} {chunk rank off : Nat} {bs : List Byte} (h0
    : Keeps false a s) :
    KeepsCollAns false a (takeData s adm id inst gather chunk rank off bs) := by
  unfold takeData
  try dsimp only
  repeat' first
    | (with_reducible first
        | assumption | apply keeps_updInst | apply keeps_collPump | apply keeps_reduceDirect | apply
          keeps_reduceRing | apply keeps_checkTarget | apply keeps_failInst | apply keeps_writeCollDst | apply
          keeps_pushOut | apply keepsCollAns_wait | apply keepsCollAns_drop | apply keepsCollAns_ans | apply
          given_none | apply given_some)
    | intro _
    | split
    | refine keeps_of_CollAns_drop ?_ ‹_›
    | refine keeps_of_CollAns_ans ?_ ‹_›
    | refine keeps_of_some_fst ?_ ‹_›

theorem keeps_takeReady {a s : State} {src id inst y4 : Nat} (h0 : Keeps false a s) :
    KeepsCollAns false a (takeReady s src id inst y4) := by
  unfold takeReady
  try dsimp only
  repeat' first
    | (with_reducible first
        | assumption | apply keeps_setFab | apply keeps_failInst | apply keeps_collPump | apply keeps_updInst |
          apply keepsCollAns_wait | apply keepsCollAns_drop | apply keepsCollAns_ans)
    | intro _
    | split
    | refine keeps_of_CollAns_drop ?_ ‹_›
    | refine keeps_of_CollAns_ans ?_ ‹_›

end Sys2Proof.Machine
end

