-- ==== Sys2Proof/Laws/KeepsPace.lean ====
section
/-! SUPPORT. What the operations of Machine/Pace.lean keep. -/

namespace Sys2Proof.Machine

theorem keeps_endProfileChanges {same : Bool} {a before s : State} (_h0 : Keeps same a before) (h1 : Keeps same a s) :
    Keeps same a (endProfileChanges before s) := by
  unfold endProfileChanges
  try dsimp only
  repeat' first
    | (with_reducible first
        | assumption | apply keeps_finishCmd | apply keeps_foldl)
    | intro _
    | split

theorem keeps_takeSample {same : Bool} {a s : State} {m : SampleIn} {instant : Nat} (h0 : Keeps same a s) :
    Keeps same a (takeSample s m instant) := by
  unfold takeSample
  try dsimp only
  repeat' first
    | (with_reducible first
        | assumption | apply keeps_foldl | simp only [keeps_mk_iff])
    | intro _
    | split

theorem keeps_setDie {same : Bool} {a s : State} {d : Nat} {x : DiePace} (h0 : Keeps same a s) :
    Keeps same a (setDie s d x) := by
  unfold setDie
  try dsimp only
  repeat' first
    | (with_reducible first
        | assumption | simp only [keeps_mk_iff])
    | intro _
    | split

theorem keeps_sampleDie {same : Bool} {a s : State} {d : Nat} {implied : List Nat} {temps : List Int} {pavg instant : Nat} (h0 :
    Keeps same a s) :
    Keeps same a (sampleDie s d implied temps pavg instant).1 := by
  unfold sampleDie
  try dsimp only
  repeat' first
    | (with_reducible first
        | assumption | apply keeps_setDie | apply keeps_faultUnit | apply keeps_foldl)
    | intro _
    | split
    | refine keeps_of_fst ?_ ‹_›

theorem keeps_noteCap {same : Bool} {a s : State} {x : PaceSample} (h0 : Keeps same a s) :
    Keeps same a (noteCap s x) := by
  unfold noteCap
  try dsimp only
  repeat' first
    | (with_reducible first
        | assumption | apply keeps_faultUnit | simp only [keeps_mk_iff])
    | intro _
    | split

theorem keeps_execCanarySample {same : Bool} {a : State} {m : SampleIn} {s : State} (h0 : Keeps same a s) :
    KeepsRes same a (execCanarySample m s) := by
  unfold execCanarySample
  try dsimp only
  repeat' first
    | (with_reducible first
        | assumption | apply keeps_takeSample | apply keeps_sampleDie | apply keeps_endProfileChanges | apply
          keeps_noteCap | apply keepsRes_next | apply keepsRes_fault | apply keepsRes_refused)
    | intro _
    | split
    | refine keeps_of_fst ?_ ‹_›

theorem keeps_execMgmtSetLimits {same : Bool} {a : State} {id : Nat} {s : State} (h0 : Keeps same a s) :
    KeepsRes same a (execMgmtSetLimits id s) := by
  unfold execMgmtSetLimits
  try dsimp only
  repeat' first
    | (with_reducible first
        | assumption | apply keeps_runCmd | apply keeps_finishCmd | apply keepsRes_next | apply keepsRes_fault |
          apply keepsRes_refused | simp only [keeps_mk_iff])
    | intro _
    | split

theorem keeps_setProfile {same : Bool} {a s : State} {d p : Nat} (h0 : Keeps same a s) :
    Keeps same a (setProfile s d p) := by
  unfold setProfile
  try dsimp only
  repeat' first
    | (with_reducible first
        | assumption | apply keeps_setDie)
    | intro _
    | split

theorem keeps_acceptProfile {same : Bool} {a s : State} {id : Nat} {ps : List (BitVec 512)} {u : Sys2Proof.PUnit} (h0 : Keeps same
    a s) :
    Keeps same a (acceptProfile s id ps u) := by
  unfold acceptProfile
  try dsimp only
  repeat' first
    | (with_reducible first
        | assumption | apply keeps_setProfile | apply keeps_setDie | apply keeps_foldl | simp only [keeps_mk_iff])
    | intro _
    | split

theorem keeps_execMgmtSetProfile {same : Bool} {a : State} {id : Nat} {s : State} (h0 : Keeps same a s) :
    KeepsRes same a (execMgmtSetProfile id s) := by
  unfold execMgmtSetProfile
  try dsimp only
  repeat' first
    | (with_reducible first
        | assumption | apply keeps_runCmd | apply keeps_finishCmd | apply keeps_setProfile | apply keeps_setDie |
          apply keepsRes_next | apply keepsRes_fault | apply keepsRes_refused | apply keeps_foldl)
    | intro _
    | split

theorem keeps_execPacePublish {same : Bool} {a s : State} (h0 : Keeps same a s) :
    KeepsRes same a (execPacePublish s) := by
  unfold execPacePublish
  try dsimp only
  repeat' first
    | (with_reducible first
        | assumption | apply keeps_setDie | apply keeps_faultUnit | apply keepsRes_next | apply keepsRes_fault
          | apply keepsRes_refused | simp only [keeps_mk_iff])
    | intro _
    | split

theorem keeps_execThermalTrip {same : Bool} {a : State} {d : Fin 2} {sensor : Nat} {s : State} (h0 : Keeps same a s) :
    KeepsRes same a (execThermalTrip d sensor s) := by
  unfold execThermalTrip
  try dsimp only
  repeat' first
    | (with_reducible first
        | assumption | apply keeps_emit | apply keeps_faultUnit | apply keepsRes_next | apply keepsRes_fault | apply
          keepsRes_refused | simp only [keeps_mk_iff])
    | intro _
    | split

theorem keeps_paceDieReset {same : Bool} {a s : State} {ds : List Nat} (h0 : Keeps same a s) :
    Keeps same a (paceDieReset s ds) := by
  unfold paceDieReset
  try dsimp only
  repeat' first
    | (with_reducible first
        | assumption | apply keeps_foldl | apply keeps_setDie | simp only [keeps_mk_iff] | apply keeps_foldl)
    | intro _
    | split

end Sys2Proof.Machine
end

