-- ==== Sys2Proof/Laws/KeepsSeqBase.lean ====
section
/-! SUPPORT. What the operations of Machine/SeqBase.lean keep. -/

namespace Sys2Proof.Machine

theorem keeps_demandCopies {same : Bool} {a s : State} {g : BitVec 256} {c p n : Nat} (h0 : Keeps same a s) :
    Keeps same a (demandCopies s g c p n) := by
  unfold demandCopies
  try dsimp only
  repeat' first
    | (with_reducible first
        | assumption | apply keeps_foldl | apply keeps_demandAll | apply keeps_foldl)
    | intro _
    | split

theorem keeps_publishPage {a s : State} {g : BitVec 256} {ctx sgrp p l : Nat} (h0 : Keeps false a s) :
    Keeps false a (publishPage s g ctx sgrp p l).2 := by
  unfold publishPage
  try dsimp only
  repeat' first
    | (with_reducible first
        | assumption | apply keeps_setFrame | apply keeps_publishFrame | apply keeps_writePte | apply
          given_none | apply given_some)
    | intro _
    | split
    | refine keeps_of_snd ?_ ‹_›
    | refine keeps_of_trd ?_ ‹_›

theorem keeps_publishPages {a s : State} {g : BitVec 256} {ctx sgrp b : Nat} (h0 : Keeps false a s) :
    Keeps false a (publishPages s g ctx sgrp b).2 := by
  unfold publishPages
  refine keeps_foldl_snd (s := (some [], s)) (fun o l h => ?_) h0
  split
  · exact h
  · exact keeps_publishPage h

theorem keeps_demandSprouts {same : Bool} {a s : State} {g : BitVec 256} {c : Nat} {path : List Nat} (h0 : Keeps same a s) :
    Keeps same a (demandSprouts s g c path) := by
  unfold demandSprouts
  try dsimp only
  repeat' first
    | (with_reducible first
        | assumption | apply keeps_foldl | apply keeps_demandAll | apply keeps_foldl)
    | intro _
    | split

theorem keeps_clearStep {same : Bool} {a s : State} (h0 : Keeps same a s) :
    Keeps same a (clearStep s) := by
  unfold clearStep
  try dsimp only
  repeat' first
    | (with_reducible first
        | assumption | apply keeps_setSeq)
    | intro _
    | split

theorem keeps_reportStep {same : Bool} {a s : State} {lead stepNo st detail : Nat} (h0 : Keeps same a s) :
    Keeps same a (reportStep s lead stepNo st detail) := by
  unfold reportStep
  try dsimp only
  repeat' first
    | (with_reducible first
        | assumption | apply keeps_sendMsg)
    | intro _
    | split

theorem keeps_endStep {same : Bool} {a s : State} {st detail : Nat} (h0 : Keeps same a s) :
    Keeps same a (endStep s st detail) := by
  unfold endStep
  try dsimp only
  repeat' first
    | (with_reducible first
        | assumption | apply keeps_clearStep | apply keeps_dropCmd | apply keeps_reportStep | apply keeps_finishCmd)
    | intro _
    | split

theorem keeps_abandonStep {same : Bool} {a s : State} {st detail : Nat} (h0 : Keeps same a s) :
    Keeps same a (abandonStep s st detail) := by
  unfold abandonStep
  try dsimp only
  repeat' first
    | (with_reducible first
        | assumption | apply keeps_endStep | apply keeps_reportStep | apply keeps_setSeq)
    | intro _
    | split

theorem keeps_copySlots {a s : State} {g : BitVec 256} {src dst n : Nat} (h0 : Keeps false a s) :
    Keeps false a (copySlots s g src dst n) := by
  unfold copySlots
  try dsimp only
  repeat' first
    | (with_reducible first
        | assumption | apply keeps_writeBytes | apply keeps_foldl)
    | intro _
    | split

theorem keeps_openPage {a s : State} {g : BitVec 256} {c l p n : Nat} (h0 : Keeps false a s) :
    Keeps false a (openPage s g c l p n).2 := by
  unfold openPage
  try dsimp only
  repeat' first
    | (with_reducible first
        | assumption | apply keeps_allocFrame | apply keeps_copySlots | apply keeps_dropRef | apply
          keeps_writePte | apply keeps_charge | apply given_none | apply given_some)
    | intro _
    | split
    | refine keeps_of_snd ?_ ‹_›

theorem keeps_openPages {a s : State} {g : BitVec 256} {c y3 b : Nat} (h0 : Keeps false a s) :
    Keeps false a (openPages s g c y3 b).2 := by
  unfold openPages
  dsimp only
  refine keeps_foldl_snd (s := (true, s)) (fun o x h => ?_) h0
  split
  · exact keeps_openPage h
  · exact h

theorem keeps_copySprouts {a s : State} {g : BitVec 256} {c pos : Nat} {path : List Nat} (h0 : Keeps false a s) :
    Keeps false a (copySprouts s g c pos path) := by
  unfold copySprouts
  try dsimp only
  repeat' first
    | (with_reducible first
        | assumption | apply keeps_writeBytes | apply keeps_foldl)
    | intro _
    | split

theorem keeps_writeLog {a s : State} {g : BitVec 256} {c : BitVec 1024} {ctx pos : Nat} {toks : List Nat} (h0 : Keeps false a s)
    :
    Keeps false a (writeLog s g c ctx pos toks) := by
  unfold writeLog
  try dsimp only
  repeat' first
    | (with_reducible first
        | assumption | apply keeps_writeBytes)
    | intro _
    | split

theorem keeps_commitPath {a s : State} {g : BitVec 256} {c : BitVec 1024} {ctx : Nat} {path : List Nat} {next : Nat} (h0 :
    Keeps false a s) :
    Keeps false a (commitPath s g c ctx path next).2 := by
  unfold commitPath
  try dsimp only
  repeat' first
    | (with_reducible first
        | assumption | apply keeps_demandSprouts | apply keeps_demandCopies | apply keeps_drawFree | apply
          keeps_attnReport | apply keeps_damage | apply keeps_openPages | apply keeps_keepRetired | apply
          keeps_copySprouts | apply keeps_writeLog | apply keeps_retractDraft | apply keeps_updCtx)
    | intro _
    | split
    | refine keeps_of_snd ?_ ‹_›

theorem keeps_freeNode {a s : State} {g : BitVec 256} {c : BitVec 1024} (h0 : Keeps false a s) :
    Given (fun p => Keeps false a p.2) (freeNode s g c) := by
  unfold freeNode
  split
  · exact given_some h0
  · split
    · exact given_none
    · exact given_map given_any fun _ _ => keeps_of_some (keeps_evictLeaf h0) ‹_›

theorem keeps_shareInto {a s : State} {g : BitVec 256} {ctx l p f sgrp : Nat} (h0 : Keeps false a s) :
    Keeps false a (shareInto s g ctx l p f sgrp) := by
  unfold shareInto
  try dsimp only
  repeat' first
    | (with_reducible first
        | assumption | apply keeps_setFrame | apply keeps_writePte | apply keeps_releasePte | apply keeps_charge)
    | intro _
    | split

theorem keeps_touchNode {a s : State} {g : BitVec 256} {c : BitVec 1024} {n : Nat} (h0 : Keeps false a s) :
    Keeps false a (touchNode s g c n) := by
  unfold touchNode
  try dsimp only
  repeat' first
    | (with_reducible first
        | assumption | apply keeps_writeNat)
    | intro _
    | split

theorem keeps_publishBlock {a s : State} {g : BitVec 256} {c : BitVec 1024} {ctx sgrp b pkey : Nat} {parent : Option Nat} (h0 :
    Keeps false a s) :
    Keeps false a (publishBlock s g c ctx sgrp b pkey parent).2 := by
  unfold publishBlock
  dsimp only
  split
  · exact keeps_touchNode (keeps_foldl (fun _ _ h => keeps_shareInto h) h0)
  · split
    · exact h0
    · have k := keeps_of_some_snd (keeps_freeNode h0) ‹_›
      split
      · exact k
      · split
        · exact keeps_of_snd (keeps_publishPages k) ‹_›
        · exact keeps_addChild (keeps_writeNat _ _ _ (keeps_writeBytes _ _ (keeps_of_snd (keeps_publishPages k) ‹_›)))

theorem keeps_publishFrom {a : State} {fuel : Nat} {s : State} {g : BitVec 256} {c : BitVec 1024} {ctx b pkey : Nat} {parent :
    Option Nat} (h0 : Keeps false a s) :
    Keeps false a (publishFrom fuel s g c ctx b pkey parent).2.2 := by
  induction fuel generalizing s g c ctx b pkey parent with
  | zero => exact h0
  | succ fuel ih =>
    unfold publishFrom
    split
    · exact h0
    · dsimp only
      have k := keeps_demand (y1 := logAddr g c ctx (64 * b)) (n := 256) h0
      split
      · exact k
      · split
        · exact keeps_keepRetired k (keeps_of_snd (keeps_publishBlock k) ‹_›)
        · exact ih (keeps_of_snd (keeps_publishBlock k) ‹_›)

theorem keeps_takeHits {a s : State} {g : BitVec 256} {c : BitVec 1024} {ctx sgrp : Nat} {ns : List Nat} (h0 : Keeps false a s)
    :
    Keeps false a (takeHits s g c ctx sgrp ns) := by
  unfold takeHits
  try dsimp only
  repeat' first
    | (with_reducible first
        | assumption | apply keeps_shareInto | apply keeps_touchNode | apply keeps_updCtx | apply keeps_foldl)
    | intro _
    | split

theorem keeps_recoverCtx {a s : State} {g : BitVec 256} {c : BitVec 1024} {ctx : Nat} (h0 : Keeps false a s) :
    Keeps false a (recoverCtx s g c ctx).2 := by
  unfold recoverCtx
  try dsimp only
  repeat' first
    | (with_reducible first
        | assumption | apply keeps_demand | apply keeps_releasePages | apply keeps_retractDraft | apply
          keeps_updCtx | apply keeps_takeHits)
    | intro _
    | split
    | refine keeps_of_snd ?_ ‹_›

theorem keeps_retractFirst {a s : State} {g : BitVec 256} {ctx : Nat} (h0 : Keeps false a s) :
    Keeps false a (retractFirst s g ctx) := by
  unfold retractFirst
  try dsimp only
  repeat' first
    | (with_reducible first
        | assumption | apply keeps_updCtx | apply keeps_retractDraft)
    | intro _
    | split

end Sys2Proof.Machine
end

