-- ==== Sys2Proof/Laws/KeepsTimebase.lean ====
section
/-! SUPPORT. What the operations of Machine/Timebase.lean keep. -/

namespace Sys2Proof.Machine

theorem keeps_tbUnaligned {same : Bool} {a s : State} (h0 : Keeps same a s) :
    Keeps same a (tbUnaligned s) := by
  unfold tbUnaligned
  try dsimp only
  repeat' first
    | (with_reducible first
        | assumption | apply keeps_ringEvent)
    | intro _
    | split

theorem keeps_clearAligned {same : Bool} {a s : State} (h0 : Keeps same a s) :
    Keeps same a (clearAligned s) := by
  unfold clearAligned
  try dsimp only
  repeat' first
    | (with_reducible first
        | assumption | apply keeps_tbUnaligned | simp only [keeps_mk_iff])
    | intro _
    | split

theorem keeps_execAlignTimeout {same : Bool} {a s : State} (h0 : Keeps same a s) :
    KeepsRes same a (execAlignTimeout s) := by
  unfold execAlignTimeout
  try dsimp only
  repeat' first
    | (with_reducible first
        | assumption | apply keeps_clearAligned | apply keepsRes_next | apply keepsRes_fault | apply
          keepsRes_refused | simp only [keeps_mk_iff])
    | intro _
    | split

theorem keeps_execTbSyncPulse {same : Bool} {a s : State} (h0 : Keeps same a s) :
    KeepsRes same a (execTbSyncPulse s) := by
  unfold execTbSyncPulse
  try dsimp only
  repeat' first
    | (with_reducible first
        | assumption | apply keeps_emit | apply keepsRes_next | apply keepsRes_fault | apply keepsRes_refused | simp
          only [keeps_mk_iff])
    | intro _
    | split

theorem keeps_seeRoot {same : Bool} {a s : State} {src : Nat} (h0 : Keeps same a s) :
    Keeps same a (seeRoot s src) := by
  unfold seeRoot
  try dsimp only
  repeat' first
    | (with_reducible first
        | assumption | apply keeps_faultUnit | simp only [keeps_mk_iff])
    | intro _
    | split

end Sys2Proof.Machine
end

