-- ==== Sys2Proof/Laws/KeepsFabRecv.lean ====
section
/-! SUPPORT. What the operations of Machine/FabRecv.lean keep. -/

namespace Sys2Proof.Machine

/-- The states a Recv carries keep what `Keeps` says. -/
def KeepsRecv (m : Bool) (a : State) : Recv → Prop
  | .drop t => Keeps m a t
  | .ok t => Keeps m a t

theorem keepsRecv_drop {m : Bool} {a t : State} (h : Keeps m a t) : KeepsRecv m a (.drop t) := h

theorem keeps_of_Recv_drop {m : Bool} {a t : State} {o : Recv} (h : KeepsRecv m a o) (e : o = .drop t) : Keeps m a t := by
  subst e; exact h

theorem keepsRecv_ok {m : Bool} {a t : State} (h : Keeps m a t) : KeepsRecv m a (.ok t) := h

theorem keeps_of_Recv_ok {m : Bool} {a t : State} {o : Recv} (h : KeepsRecv m a o) (e : o = .ok t) : Keeps m a t := by
  subst e; exact h

theorem keeps_park {same : Bool} {a s : State} {f : FrameIn} (h0 : Keeps same a s) :
    Keeps same a (park s f) := by
  unfold park
  try dsimp only
  repeat' first
    | (with_reducible first
        | assumption | apply keeps_setFab)
    | intro _
    | split

theorem keeps_answerServed {same : Bool} {a : State} {f : FrameIn} {ack : List Byte → FrameBody} {y2 : Served} (h0 : KeepsServed
    same a (y2)) :
    Keeps same a (answerServed f ack y2) := by
  cases y2 <;> first | exact keeps_park h0 | exact keeps_respond h0

theorem keeps_modPort {same : Bool} {a s : State} {p : Nat} {f : PortSt → PortSt} (h0 : Keeps same a s) :
    Keeps same a (modPort s p f) := by
  unfold modPort
  try dsimp only
  repeat' first
    | (with_reducible first
        | assumption | simp only [keeps_mk_iff])
    | intro _
    | split

theorem keeps_authFail {same : Bool} {a s : State} {p : Nat} (h0 : Keeps same a s) :
    Keeps same a (authFail s p) := by
  unfold authFail
  try dsimp only
  repeat' first
    | (with_reducible first
        | assumption | apply keeps_modPort)
    | intro _
    | split

theorem keeps_collReply {same : Bool} {a s : State} {f : FrameIn} {y1 : CollAns} (h : Keeps same a s) (h0 : KeepsCollAns same a (y1)) :
    Keeps same a (collReply s f y1) := by
  cases y1 <;> first | exact h0 | exact keeps_park h | exact keeps_respond h0

theorem keeps_serveReq {a : State} {adm : Bool} {f : FrameIn} {s : State} (h0 : Keeps false a s) :
    Keeps false a (serveReq adm f s) := by
  unfold serveReq
  try dsimp only
  repeat' first
    | (with_reducible first
        | assumption | apply keeps_answerServed | apply keeps_serveRead | apply keeps_serveWrite | apply
          keeps_serveFlag | apply keeps_collReply | apply keeps_takeReady | apply keeps_takeData | apply
          keepsServed_wait | apply keepsServed_ok | apply keepsServed_err | apply keepsCollAns_wait | apply
          keepsCollAns_drop | apply keepsCollAns_ans)
    | intro _
    | split
    | refine keeps_of_Served_wait ?_ ‹_›
    | refine keeps_of_Served_ok ?_ ‹_›
    | refine keeps_of_Served_err ?_ ‹_›
    | refine keeps_of_CollAns_drop ?_ ‹_›
    | refine keeps_of_CollAns_ans ?_ ‹_›

theorem keeps_serveParked {a s : State} (h0 : Keeps false a s) : Keeps false a (serveParked s) := by
  unfold serveParked
  split
  · exact h0
  · exact keeps_settleMaps (keeps_foldl (fun _ _ h => keeps_serveReq h) (keeps_setFab h0))

theorem keeps_execTimeRootProbe {same : Bool} {a s : State} (h0 : Keeps same a s) :
    KeepsRes same a (execTimeRootProbe s) := by
  unfold execTimeRootProbe
  try dsimp only
  repeat' first
    | (with_reducible first
        | assumption | apply keeps_foldl | apply keeps_sealFrame | apply keeps_placeFrame | apply
          keepsRes_next | apply keepsRes_fault | apply keepsRes_refused | simp only [keeps_mk_iff] | apply
          keeps_foldl)
    | intro _
    | split
    | refine keeps_of_fst ?_ ‹_›

theorem keeps_failPeer {same : Bool} {a s : State} {peer st : Nat} (h0 : Keeps same a s) :
    Keeps same a (failPeer s peer st) := by
  unfold failPeer
  try dsimp only
  repeat' first
    | (with_reducible first
        | assumption | apply keeps_endEnt | apply keeps_foldl)
    | intro _
    | split

theorem keeps_closeLink {same : Bool} {a s : State} {peer : Nat} (h0 : Keeps same a s) :
    Keeps same a (closeLink s peer) := by
  unfold closeLink
  try dsimp only
  repeat' first
    | (with_reducible first
        | assumption | apply keeps_faultUnit | apply keeps_failPeer | apply keeps_setFab | apply
          keeps_dropLink)
    | intro _
    | split

theorem keeps_drawNonce {same : Bool} {a s : State} (h0 : Keeps same a s) :
    Keeps same a (drawNonce s).2 := by
  unfold drawNonce
  try dsimp only
  repeat' first
    | (with_reducible first
        | assumption | apply keeps_drawRandom)
    | intro _
    | split
    | refine keeps_of_snd ?_ ‹_›

theorem keeps_dropReq {same : Bool} {a s : State} {r : OutReq} (h0 : Keeps same a s) :
    Keeps same a (dropReq s r) := by
  unfold dropReq
  try dsimp only
  repeat' first
    | (with_reducible first
        | assumption | apply keeps_setFab)
    | intro _
    | split

theorem keeps_execFabricHoldExpiry {same : Bool} {a s : State} (h0 : Keeps same a s) :
    KeepsRes same a (execFabricHoldExpiry s) := by
  unfold execFabricHoldExpiry
  try dsimp only
  repeat' first
    | (with_reducible first
        | assumption | apply keeps_foldl | apply keeps_failPeer | apply keeps_setFab | apply keepsRes_next |
          apply keepsRes_fault | apply keepsRes_refused | apply keeps_foldl)
    | intro _
    | split

theorem keeps_staleFrame {same : Bool} {a s : State} {p : Nat} (h0 : Keeps same a s) :
    Keeps same a (staleFrame s p) := by
  unfold staleFrame
  try dsimp only
  repeat' first
    | (with_reducible first
        | assumption | apply keeps_modPort | apply keeps_setFab)
    | intro _
    | split

theorem keeps_recvSealed {same : Bool} {a s : State} {f : FrameIn} (h0 : Keeps same a s) :
    KeepsRecv same a (recvSealed s f) := by
  unfold recvSealed
  try dsimp only
  repeat' first
    | (with_reducible first
        | assumption | apply keeps_staleFrame | apply keeps_authFail | apply keeps_putLink | apply keepsRecv_drop |
          apply keepsRecv_ok)
    | intro _
    | split
    | refine keeps_of_Recv_drop ?_ ‹_›
    | refine keeps_of_Recv_ok ?_ ‹_›

theorem keeps_recvFrame {same : Bool} {a s : State} {f : FrameIn} (h0 : Keeps same a s) :
    KeepsRecv same a (recvFrame s f) := by
  unfold recvFrame
  try dsimp only
  repeat' first
    | (with_reducible first
        | assumption | apply keeps_authFail | apply keeps_recvSealed | apply keepsRecv_drop | apply
          keepsRecv_ok)
    | intro _
    | split
    | refine keeps_of_Recv_drop ?_ ‹_›
    | refine keeps_of_Recv_ok ?_ ‹_›

theorem keeps_onFrame {same : Bool} {a : State} {f : FrameIn} {s : State} {act : State → State} (h0 : Keeps same a s) (h1 : ∀
    (z0 : State), Keeps same a z0 → Keeps same a (act z0)) :
    KeepsRes same a (onFrame f s act) := by
  unfold onFrame
  try dsimp only
  repeat' first
    | (with_reducible first
        | assumption | apply h1 | apply keeps_recvFrame | apply keepsRes_next | apply keepsRes_fault | apply
          keepsRes_refused | apply keepsRecv_drop | apply keepsRecv_ok)
    | intro _
    | split
    | refine keeps_of_Recv_drop ?_ ‹_›
    | refine keeps_of_Recv_ok ?_ ‹_›

theorem keeps_takeAnswer {a s : State} {r : OutReq} {st : Nat} {bs : List Byte} (h0 : Keeps false a s) :
    Keeps false a (takeAnswer s r st bs) := by
  unfold takeAnswer
  try dsimp only
  repeat' first
    | (with_reducible first
        | assumption | apply keeps_dropReq | apply keeps_entAnswer | apply keeps_endEnt | apply keeps_collAnswer)
    | intro _
    | split

theorem keeps_execFrameAck {a : State} {f : FrameIn} {s : State} (h0 : Keeps false a s) :
    KeepsRes false a (execFrameAck f s) := by
  unfold execFrameAck
  try dsimp only
  repeat' first
    | (with_reducible first
        | assumption | apply keeps_onFrame | apply keeps_takeAnswer | apply keepsRes_next | apply
          keepsRes_fault | apply keepsRes_refused)
    | intro _
    | split

theorem keeps_execFrameColl {a : State} {f : FrameIn} {s : State} (h0 : Keeps false a s) :
    KeepsRes false a (execFrameColl f s) := by
  unfold execFrameColl
  try dsimp only
  repeat' first
    | (with_reducible first
        | assumption | apply keeps_onFrame | apply keeps_serveReq | apply keepsRes_next | apply keepsRes_fault
          | apply keepsRes_refused)
    | intro _
    | split

theorem keeps_execFrameCounterLimit {same : Bool} {a : State} {peer : Nat} {s : State} (h0 : Keeps same a s) :
    KeepsRes same a (execFrameCounterLimit peer s) := by
  unfold execFrameCounterLimit
  try dsimp only
  repeat' first
    | (with_reducible first
        | assumption | apply keeps_closeLink | apply keepsRes_next | apply keepsRes_fault | apply keepsRes_refused)
    | intro _
    | split

theorem keeps_execFrameFlagAdd {a : State} {f : FrameIn} {s : State} (h0 : Keeps false a s) :
    KeepsRes false a (execFrameFlagAdd f s) := by
  unfold execFrameFlagAdd
  try dsimp only
  repeat' first
    | (with_reducible first
        | assumption | apply keeps_onFrame | apply keeps_serveReq | apply keepsRes_next | apply keepsRes_fault
          | apply keepsRes_refused)
    | intro _
    | split

theorem keeps_sendKeyx {same : Bool} {a s : State} {peer : Nat} {nonce : BitVec 128} {g : Nat} {inst : Bool} (h0 : Keeps same a
    s) :
    Keeps same a (sendKeyx s peer nonce g inst) := by
  unfold sendKeyx
  try dsimp only
  repeat' first
    | (with_reducible first
        | assumption | apply keeps_routeFrame)
    | intro _
    | split

theorem keeps_takeKeyx {same : Bool} {a s : State} {peer : Nat} {nonce : BitVec 128} {g : Nat} {inst : Bool} (h0 : Keeps same
    a s) :
    Keeps same a (takeKeyx s peer nonce g inst) := by
  unfold takeKeyx
  try dsimp only
  repeat' first
    | (with_reducible first
        | assumption | apply keeps_drawNonce | apply keeps_sendKeyx | apply keeps_putLink | apply
          keeps_dropLink)
    | intro _
    | split
    | refine keeps_of_snd ?_ ‹_›

theorem keeps_execFrameKeyx {same : Bool} {a : State} {f : FrameIn} {s : State} (h0 : Keeps same a s) :
    KeepsRes same a (execFrameKeyx f s) := by
  unfold execFrameKeyx
  try dsimp only
  repeat' first
    | (with_reducible first
        | assumption | apply keeps_onFrame | apply keeps_flushHeld | apply keeps_takeKeyx | apply
          keepsRes_next | apply keepsRes_fault | apply keepsRes_refused)
    | intro _
    | split

theorem keeps_execFrameNack {a : State} {f : FrameIn} {s : State} (h0 : Keeps false a s) :
    KeepsRes false a (execFrameNack f s) := by
  unfold execFrameNack
  try dsimp only
  repeat' first
    | (with_reducible first
        | assumption | apply keeps_onFrame | apply keeps_takeAnswer | apply keepsRes_next | apply
          keepsRes_fault | apply keepsRes_refused)
    | intro _
    | split

theorem keeps_serveReq_read {same : Bool} {a s : State} {adm : Bool} {f : FrameIn} {n : Nat} (hb : f.body = .read n) (h0 : Keeps same a s) :
    Keeps same a (serveReq adm f s) := by
  unfold serveReq
  rw [hb]
  exact keeps_answerServed (keeps_serveRead h0)

theorem keeps_execFrameRead {same : Bool} {a : State} {f : FrameIn} {s : State} (h0 : Keeps same a s) :
    KeepsRes same a (execFrameRead f s) := by
  unfold execFrameRead
  split
  · next hb => exact keeps_onFrame h0 fun z hz => keeps_serveReq_read hb hz
  · exact keepsRes_next h0

theorem keeps_execFrameReadData {a : State} {f : FrameIn} {s : State} (h0 : Keeps false a s) :
    KeepsRes false a (execFrameReadData f s) := by
  unfold execFrameReadData
  try dsimp only
  repeat' first
    | (with_reducible first
        | assumption | apply keeps_onFrame | apply keeps_takeAnswer | apply keepsRes_next | apply
          keepsRes_fault | apply keepsRes_refused)
    | intro _
    | split

theorem keeps_execFrameTime {same : Bool} {a : State} {f : FrameIn} {s : State} (h0 : Keeps same a s) :
    KeepsRes same a (execFrameTime f s) := by
  unfold execFrameTime
  try dsimp only
  repeat' first
    | (with_reducible first
        | assumption | apply keeps_onFrame | apply keeps_respond | apply keeps_seeRoot | apply keepsRes_next |
          apply keepsRes_fault | apply keepsRes_refused | simp only [keeps_mk_iff])
    | intro _
    | split

theorem keeps_execFrameWrite {a : State} {f : FrameIn} {s : State} (h0 : Keeps false a s) :
    KeepsRes false a (execFrameWrite f s) := by
  unfold execFrameWrite
  try dsimp only
  repeat' first
    | (with_reducible first
        | assumption | apply keeps_onFrame | apply keeps_serveReq | apply keepsRes_next | apply keepsRes_fault
          | apply keepsRes_refused)
    | intro _
    | split

theorem keeps_execRekeyTimeout {same : Bool} {a : State} {peer : Nat} {s : State} (h0 : Keeps same a s) :
    KeepsRes same a (execRekeyTimeout peer s) := by
  unfold execRekeyTimeout
  try dsimp only
  repeat' first
    | (with_reducible first
        | assumption | apply keeps_closeLink | apply keepsRes_next | apply keepsRes_fault | apply keepsRes_refused)
    | intro _
    | split

theorem keeps_execRekeyTrigger {same : Bool} {a : State} {peer : Nat} {s : State} (h0 : Keeps same a s) :
    KeepsRes same a (execRekeyTrigger peer s) := by
  unfold execRekeyTrigger
  try dsimp only
  repeat' first
    | (with_reducible first
        | assumption | apply keeps_drawNonce | apply keeps_putLink | apply keeps_sendKeyx | apply keepsRes_next |
          apply keepsRes_fault | apply keepsRes_refused)
    | intro _
    | split
    | refine keeps_of_snd ?_ ‹_›

end Sys2Proof.Machine
end

