-- ==== Sys2Proof/Laws/KeepsVerdict.lean ====
section
/-! SUPPORT. What the operations of Machine/Verdict.lean keep. -/

namespace Sys2Proof.Machine

theorem keeps_restoreChain {a s : State} {c : Fin 192} {p : PendChain} (h0 : Keeps false a s) :
    Keeps false a (restoreChain s c p) := by
  unfold restoreChain
  try dsimp only
  repeat' first
    | (with_reducible first
        | assumption | apply keeps_writeBytes | apply keeps_modCore | apply keeps_foldl)
    | intro _
    | split

theorem keeps_squash {a s : State} {c : Fin 192} (h0 : Keeps false a s) :
    Keeps false a (squash s c) := by
  unfold squash
  try dsimp only
  repeat' first
    | (with_reducible first
        | assumption | apply keeps_traceCore | apply keeps_restoreChain)
    | intro _
    | split

theorem keeps_failHeldInsts {a s : State} {c : Fin 192} {st : Nat} (h0 : Keeps false a s) :
    Keeps false a (failHeldInsts s c st) := by
  unfold failHeldInsts
  try dsimp only
  repeat' first
    | (with_reducible first
        | assumption | apply keeps_foldl | apply keeps_failInst | apply keeps_foldl)
    | intro _
    | split

theorem keeps_noteHeldReqs {same : Bool} {a s : State} {c : Fin 192} {st : Nat} (h0 : Keeps same a s) :
    Keeps same a (noteHeldReqs s c st) := by
  unfold noteHeldReqs
  try dsimp only
  repeat' first
    | (with_reducible first
        | assumption | apply keeps_modCluster)
    | intro _
    | split

theorem keeps_failParked {same : Bool} {a s : State} {c : Fin 192} {st : Nat} (h0 : Keeps same a s) :
    Keeps same a (failParked s c st) := by
  unfold failParked
  try dsimp only
  repeat' first
    | (with_reducible first
        | assumption | apply keeps_foldl | apply keeps_respond | apply keeps_setFab | apply keeps_foldl)
    | intro _
    | split

theorem keeps_failPart {a s : State} {c : Fin 192} {st : Nat} (h0 : Keeps false a s) :
    Keeps false a (failPart s c st) := by
  unfold failPart
  try dsimp only
  repeat' first
    | (with_reducible first
        | assumption | apply keeps_noteHeldReqs | apply keeps_failHeldInsts | apply keeps_failParked | apply
          keeps_squash | apply keeps_foldl | apply keeps_endEnt | apply keeps_modCore | apply keeps_settleCore
          | apply keeps_foldl)
    | intro _
    | split

theorem keeps_abandonVerdicts {a s : State} {cores : List Nat} {root : Sys2Proof.PUnit} (h0 : Keeps false a s) :
    Keeps false a (abandonVerdicts s cores root) := by
  unfold abandonVerdicts
  try dsimp only
  repeat' first
    | (with_reducible first
        | assumption | apply keeps_failPart | apply keeps_foldl)
    | intro _
    | split

end Sys2Proof.Machine
end

