-- ==== Sys2Proof/Laws/KeepsResets.lean ====
section
/-! SUPPORT. What the operations of Machine/Resets.lean keep. -/

namespace Sys2Proof.Machine

theorem keeps_setTdi {same : Bool} {a s : State} {x : Tdi} (h0 : Keeps same a s) :
    Keeps same a (setTdi s x) := by
  unfold setTdi
  try dsimp only
  repeat' first
    | (with_reducible first
        | assumption | apply keeps_auditTdi | simp only [keeps_mk_iff])
    | intro _
    | split

theorem keeps_leaveRun {same : Bool} {a s : State} (h0 : Keeps same a s) :
    Keeps same a (leaveRun s) := by
  unfold leaveRun
  try dsimp only
  repeat' first
    | (with_reducible first
        | assumption | apply keeps_foldl | apply keeps_setQp | apply keeps_bumpUnits | apply keeps_failHostDma
          | apply given_none | apply given_some | apply keeps_foldl)
    | intro _
    | split

theorem keeps_moveTdi {same : Bool} {a s : State} {x : Tdi} (h0 : Keeps same a s) :
    Keeps same a (moveTdi s x) := by
  unfold moveTdi
  try dsimp only
  repeat' first
    | (with_reducible first
        | assumption | apply keeps_setTdi | apply keeps_leaveRun)
    | intro _
    | split

theorem keeps_tdiFail {same : Bool} {a s : State} (h0 : Keeps same a s) :
    Keeps same a (tdiFail s) := by
  unfold tdiFail
  try dsimp only
  repeat' first
    | (with_reducible first
        | assumption | apply keeps_moveTdi)
    | intro _
    | split

theorem keeps_clearHost {same : Bool} {a s : State} (h0 : Keeps same a s) :
    Keeps same a (clearHost s) := by
  unfold clearHost
  try dsimp only
  repeat' first
    | (with_reducible first
        | assumption | apply keeps_tdiFail | apply keeps_foldl | apply keeps_setQp | apply keeps_setInflight |
          apply keeps_failHostDma | apply given_none | apply given_some | simp only [keeps_mk_iff] | apply
          keeps_foldl)
    | intro _
    | split

theorem keeps_answerUnits {same : Bool} {a s : State} {inD : Sys2Proof.PUnit → Bool} {d st : Nat} {keep : List Nat} (h0 :
    Keeps same a s) :
    Keeps same a (answerUnits s inD d st keep) := by
  unfold answerUnits
  try dsimp only
  repeat' first
    | (with_reducible first
        | assumption | apply keeps_foldl | apply keeps_endPart | apply keeps_finishCmd | apply keeps_foldl)
    | intro _
    | split

theorem keeps_answerDomain {same : Bool} {a s : State} {root : Sys2Proof.PUnit} {st : Nat} {keep : List Nat} (h0 : Keeps same
    a s) :
    Keeps same a (answerDomain s root st keep) := by
  unfold answerDomain
  try dsimp only
  repeat' first
    | (with_reducible first
        | assumption | apply keeps_foldl | apply keeps_finishCmd | apply keeps_answerUnits)
    | intro _
    | split

theorem keeps_auditEscalation {same : Bool} {a s : State} {u : Sys2Proof.PUnit} (h0 : Keeps same a s) :
    Keeps same a (auditEscalation s u) := by
  unfold auditEscalation
  try dsimp only
  repeat' first
    | (with_reducible first
        | assumption | simp only [keeps_mk_iff] | apply keeps_auditPut)
    | intro _
    | split

theorem keeps_stopUnit {same : Bool} {a s : State} {u : Sys2Proof.PUnit} (h0 : Keeps same a s) :
    Keeps same a (stopUnit s u) := by
  unfold stopUnit
  try dsimp only
  repeat' first
    | (with_reducible first
        | assumption | apply keeps_foldl | apply keeps_dropReqs | apply keeps_putCore | apply keeps_endEnt |
          apply keeps_abandonStep | simp only [keeps_mk_iff] | apply keeps_foldl)
    | intro _
    | split

theorem keeps_fenceOut {a s : State} {u : Sys2Proof.PUnit} {keep : List Nat} (h0 : Keeps false a s) :
    Keeps false a (fenceOut s u keep) := by
  unfold fenceOut
  try dsimp only
  repeat' first
    | (with_reducible first
        | assumption | apply keeps_abandonVerdicts | apply keeps_answerUnits | apply keeps_foldl | apply
          keeps_stopUnit | apply keeps_foldl)
    | intro _
    | split

theorem keeps_backInService {same : Bool} {a s : State} {u : Sys2Proof.PUnit} (h0 : Keeps same a s) :
    Keeps same a (backInService s u) := by
  unfold backInService
  try dsimp only
  repeat' first
    | (with_reducible first
        | assumption | apply keeps_bumpUnits | simp only [keeps_mk_iff])
    | intro _
    | split

theorem keeps_readyEvent {same : Bool} {a s : State} {u : Sys2Proof.PUnit} {cause startAt : Nat} (h0 : Keeps same a s) :
    Keeps same a (readyEvent s u cause startAt) := by
  unfold readyEvent
  try dsimp only
  repeat' first
    | (with_reducible first
        | assumption | apply keeps_unitEvent)
    | intro _
    | split

theorem keeps_checkAllReady {same : Bool} {a s : State} {cause startAt : Nat} (h0 : Keeps same a s) :
    Keeps same a (checkAllReady s cause startAt) := by
  unfold checkAllReady
  try dsimp only
  repeat' first
    | (with_reducible first
        | assumption | apply keeps_readyEvent | simp only [keeps_mk_iff])
    | intro _
    | split

theorem keeps_checkScrubbed {same : Bool} {a s : State} (h0 : Keeps same a s) :
    Keeps same a (checkScrubbed s) := by
  unfold checkScrubbed
  try dsimp only
  repeat' first
    | (with_reducible first
        | assumption | simp only [keeps_mk_iff])
    | intro _
    | split

theorem keeps_becomeReady {same : Bool} {a s : State} {u : Sys2Proof.PUnit} (h0 : Keeps same a s) :
    Keeps same a (becomeReady s u) := by
  unfold becomeReady
  try dsimp only
  repeat' first
    | (with_reducible first
        | assumption | apply keeps_setOwn | apply keeps_readyEvent | apply keeps_tellState | apply
          keeps_checkAllReady | apply keeps_checkScrubbed | apply keeps_foldl)
    | intro _
    | split

theorem keeps_dropAct {same : Bool} {a s : State} {root : Sys2Proof.PUnit} (h0 : Keeps same a s) :
    Keeps same a (dropAct s root) := by
  unfold dropAct
  try dsimp only
  repeat' first
    | (with_reducible first
        | assumption | simp only [keeps_mk_iff])
    | intro _
    | split

theorem keeps_putAct {a s : State} {y1 : DomAct} {st : UState} (h0 : Keeps false a s) :
    Keeps false a (putAct s y1 st) := by
  unfold putAct
  try dsimp only
  repeat' first
    | (with_reducible first
        | assumption | apply keeps_foldl | apply keeps_dropAct | apply keeps_setOwn | apply keeps_modUnit |
          apply keeps_abandonVerdicts | apply keeps_tellState | simp only [keeps_mk_iff] | apply keeps_foldl)
    | intro _
    | split

theorem keeps_clearCore {same : Bool} {a s : State} {c : Fin 192} (h0 : Keeps same a s) :
    Keeps same a (clearCore s c) := by
  unfold clearCore
  try dsimp only
  repeat' first
    | (with_reducible first
        | assumption | apply keeps_setFab | simp only [keeps_mk_iff])
    | intro _
    | split

theorem keeps_clearCluster {a s : State} {k : Fin 24} (h0 : Keeps false a s) :
    Keeps false a (clearCluster s k) := by
  unfold clearCluster
  try dsimp only
  repeat' first
    | (with_reducible first
        | assumption | apply keeps_clearCore | apply keeps_clearMailbox | apply keeps_foldl | simp only
          [keeps_mk_iff])
    | intro _
    | split

theorem keeps_clearDie {a s : State} {d : Fin 2} (h0 : Keeps false a s) :
    Keeps false a (clearDie s d) := by
  unfold clearDie
  try dsimp only
  repeat' first
    | (with_reducible first
        | assumption | apply keeps_clearCluster | apply keeps_abandonStep | apply keeps_failCollectives | apply
          keeps_foldl | simp only [keeps_mk_iff])
    | intro _
    | split

theorem keeps_clearDomain {a s : State} {root : Sys2Proof.PUnit} (h0 : Keeps false a s) :
    Keeps false a (clearDomain s root) := by
  cases root with
  | core c => exact keeps_clearCore h0
  | cluster k => exact keeps_clearCluster h0
  | die d => exact keeps_paceDieReset (keeps_clearDie h0)
  | device =>
    have k := keeps_paceDieReset (ds := [0, 1]) (keeps_clearDie (d := 1) (keeps_clearDie (d := 0) h0))
    unfold clearDomain
    dsimp only
    generalize paceDieReset (clearDie (clearDie s 0) 1) [0, 1] = v at k ⊢
    exact k.of_arm rfl rfl rfl rfl rfl fun _ => armOk_disarmed rfl
  | port p =>
    unfold clearDomain
    dsimp only
    simp only [keeps_mk_iff]
    exact keeps_portHandoff h0
  | hostIf => exact keeps_clearHost h0
  | channel n =>
    unfold clearDomain
    dsimp only
    simp only [keeps_mk_iff]
    exact h0
  | engine c => exact h0
  | attn k => exact h0
  | seqEngine => exact h0
  | vangaer => exact h0
  | mgmt => exact h0

theorem keeps_beginReset {a s : State} {root : Sys2Proof.PUnit} {cause : Nat} {cmds : List Nat} {startAt : Nat} (h0 : Keeps
    false a s) :
    Keeps false a (beginReset s root cause cmds startAt) := by
  unfold beginReset
  try dsimp only
  repeat' first
    | (with_reducible first
        | assumption | apply keeps_putAct | apply keeps_clearDomain | apply keeps_checkAllReady | apply
          keeps_bumpUnits)
    | intro _
    | split

theorem keeps_captureDump {same : Bool} {a s : State} {root : Sys2Proof.PUnit} (h0 : Keeps same a s) :
    Keeps same a (captureDump s root).2 := by
  unfold captureDump
  try dsimp only
  repeat' first
    | (with_reducible first
        | assumption | simp only [keeps_mk_iff])
    | intro _
    | split
    | refine keeps_of_snd ?_ ‹_›

theorem keeps_endDieActs {same : Bool} {a s : State} {d : Fin 2} (h0 : Keeps same a s) :
    Keeps same a (endDieActs s d) := by
  unfold endDieActs
  try dsimp only
  repeat' first
    | (with_reducible first
        | assumption | apply keeps_foldl | apply keeps_finishCmd | apply keeps_dropAct | apply keeps_setOwn |
          apply keeps_foldl)
    | intro _
    | split

theorem keeps_bridgeFence {same : Bool} {a s : State} (h0 : Keeps same a s) :
    Keeps same a (bridgeFence s) := by
  unfold bridgeFence
  try dsimp only
  repeat' first
    | (with_reducible first
        | assumption | apply keeps_answerDomain | apply keeps_endDieActs | apply keeps_setOwn | apply
          keeps_checkAllReady | simp only [keeps_mk_iff])
    | intro _
    | split

theorem keeps_clearTested {a s : State} {n start len : Nat} (h0 : Keeps false a s) :
    Keeps false a (clearTested s n start len) := by
  unfold clearTested
  refine h0.of_wf rfl rfl (fun h => ?_) rfl rfl rfl rfl
  rw [memWf_iff] at *
  exact ⟨smapWf_filter _ h.1, smapWf_filter _ h.2.1, smapWf_filter _ h.2.2.1, smapWf_filter _ h.2.2.2⟩

theorem keeps_endResetCmds {same : Bool} {a s : State} {root : Sys2Proof.PUnit} {ids : List Nat} {oos : Bool} (h0 : Keeps same a
    s) :
    Keeps same a (endResetCmds s root ids oos) := by
  unfold endResetCmds
  try dsimp only
  repeat' first
    | (with_reducible first
        | assumption | apply keeps_finishCmd | apply keeps_foldl)
    | intro _
    | split

theorem keeps_endReset {same : Bool} {a s : State} {y1 : DomAct} (h0 : Keeps same a s) :
    Keeps same a (endReset s y1) := by
  unfold endReset
  try dsimp only
  repeat' first
    | (with_reducible first
        | assumption | apply keeps_dropAct | apply keeps_setOwn | apply keeps_foldl | apply keeps_tellState |
          apply keeps_readyEvent | apply keeps_flushHeld | apply keeps_endResetCmds | apply
          keeps_checkAllReady | simp only [keeps_mk_iff] | apply keeps_foldl)
    | intro _
    | split

theorem keeps_takeOut {same : Bool} {a s : State} {u : Sys2Proof.PUnit} (h0 : Keeps same a s) :
    Keeps same a (takeOut s u) := by
  unfold takeOut
  try dsimp only
  repeat' first
    | (with_reducible first
        | assumption | apply keeps_setOwn | apply keeps_portHandoff | apply keeps_mirrorLinkDown | apply
          keeps_bumpUnits | apply keeps_tellState | apply keeps_checkAllReady | simp only [keeps_mk_iff])
    | intro _
    | split

theorem keeps_escalate {a s : State} {root : Sys2Proof.PUnit} (h0 : Keeps false a s) :
    Keeps false a (escalate s root) := by
  unfold escalate
  try dsimp only
  repeat' first
    | (with_reducible first
        | assumption | apply keeps_endResetCmds | apply keeps_auditEscalation | apply keeps_takeOut | apply
          keeps_dropAct | apply keeps_fenceOut | apply keeps_answerDomain | simp only [keeps_mk_iff])
    | intro _
    | split

theorem keeps_execBridgeFault {same : Bool} {a s : State} (h0 : Keeps same a s) :
    KeepsRes same a (execBridgeFault s) := by
  unfold execBridgeFault
  try dsimp only
  repeat' first
    | (with_reducible first
        | assumption | apply keeps_emit | apply keeps_faultUnit | apply keeps_bridgeFence | apply
          keepsRes_next | apply keepsRes_fault | apply keepsRes_refused | simp only [keeps_mk_iff])
    | intro _
    | split

theorem keeps_execChannelLost {a : State} {n : Fin 256} {s : State} (h0 : Keeps false a s) :
    KeepsRes false a (execChannelLost n s) := by
  unfold execChannelLost
  try dsimp only
  repeat' first
    | (with_reducible first
        | assumption | apply keeps_setOwn | apply keeps_fenceOut | apply keeps_bumpUnits | apply
          keeps_unitEvent | apply keeps_checkAllReady | apply keeps_channelDamage | apply keepsRes_next |
          apply keepsRes_fault | apply keepsRes_refused | simp only [keeps_mk_iff])
    | intro _
    | split

theorem keeps_execHangDrainEnd {a : State} {root : Sys2Proof.PUnit} {s : State} (h0 : Keeps false a s) :
    KeepsRes false a (execHangDrainEnd root s) := by
  unfold execHangDrainEnd
  try dsimp only
  repeat' first
    | (with_reducible first
        | assumption | apply keeps_answerDomain | apply keeps_foldl | apply keeps_finishCmd | apply
          keeps_captureDump | apply keeps_faultReport | apply keeps_beginReset | apply keeps_escalate | apply
          keepsRes_next | apply keepsRes_fault | apply keepsRes_refused | apply keeps_foldl)
    | intro _
    | split
    | refine keeps_of_snd ?_ ‹_›

theorem keeps_trainChannel {a s : State} {n : Fin 256} {rec : BitVec 64} (h0 : Keeps false a s) :
    Keeps false a (trainChannel s n rec) := by
  unfold trainChannel
  try dsimp only
  repeat' first
    | (with_reducible first
        | assumption | apply keeps_clearChannel | apply keeps_channelDamage | apply keeps_unitEvent | simp
          only [keeps_mk_iff])
    | intro _
    | split

theorem keeps_execHbmChannelTrained {a : State} {n : Fin 256} {rec : BitVec 64} {s : State} (h0 : Keeps false a s) :
    KeepsRes false a (execHbmChannelTrained n rec s) := by
  unfold execHbmChannelTrained
  try dsimp only
  repeat' first
    | (with_reducible first
        | assumption | apply keeps_trainChannel | apply keeps_endReset | apply keeps_becomeReady | apply
          keeps_setOwn | apply keeps_dropAct | apply keeps_bumpUnits | apply keeps_endResetCmds | apply
          keeps_checkAllReady | apply keeps_checkScrubbed | apply keepsRes_next | apply keepsRes_fault | apply
          keepsRes_refused | simp only [keeps_mk_iff])
    | intro _
    | split

theorem keeps_execMemTest {same : Bool} {a : State} {id : Nat} {s : State} (h0 : Keeps same a s) :
    KeepsRes same a (execMemTest id s) := by
  unfold execMemTest
  try dsimp only
  repeat' first
    | (with_reducible first
        | assumption | apply keeps_runCmd | apply keeps_finishCmd | apply keeps_checkAllReady | apply
          keepsRes_next | apply keepsRes_fault | apply keepsRes_refused | simp only [keeps_mk_iff])
    | intro _
    | split

theorem keeps_execMemTestEnd {a : State} {n : Fin 256} {r : TestIn} {s : State} (h0 : Keeps false a s) :
    KeepsRes false a (execMemTestEnd n r s) := by
  unfold execMemTestEnd
  try dsimp only
  repeat' first
    | (with_reducible first
        | assumption | apply keeps_touchDoze | apply keeps_clearTested | apply keeps_checkAllReady | apply
          keeps_updCmd | apply keeps_hostWriteCmd | apply keeps_finishCmd | apply keepsRes_next | apply
          keepsRes_fault | apply keepsRes_refused | simp only [keeps_mk_iff])
    | intro _
    | split

theorem keeps_restorePort {same : Bool} {a s : State} {u : Sys2Proof.PUnit} (h0 : Keeps same a s) :
    Keeps same a (restorePort s u) := by
  unfold restorePort
  try dsimp only
  repeat' first
    | (with_reducible first
        | assumption | simp only [keeps_mk_iff])
    | intro _
    | split

theorem keeps_execMgmtOutOfServiceRestore {a : State} {id : Nat} {s : State} (h0 : Keeps false a s) :
    KeepsRes false a (execMgmtOutOfServiceRestore id s) := by
  unfold execMgmtOutOfServiceRestore
  try dsimp only
  repeat' first
    | (with_reducible first
        | assumption | exact fun _ => rfl | apply rfl | apply keeps_runCmd | apply keeps_finishCmd | apply keeps_backInService | apply
          keeps_beginReset | apply keeps_setOwn | apply keeps_answerDomain | apply keeps_modUnit | apply
          keeps_tellState | apply keeps_checkAllReady | apply keeps_restorePort | apply keepsRes_next | apply
          keepsRes_fault | apply keepsRes_refused)
    | intro _
    | split

theorem keeps_execMgmtOutOfServiceTake {a : State} {id : Nat} {s : State} (h0 : Keeps false a s) :
    KeepsRes false a (execMgmtOutOfServiceTake id s) := by
  unfold execMgmtOutOfServiceTake
  try dsimp only
  repeat' first
    | (with_reducible first
        | assumption | apply keeps_runCmd | apply keeps_finishCmd | apply keeps_takeOut | apply keeps_fenceOut
          | apply keepsRes_next | apply keepsRes_fault | apply keepsRes_refused)
    | intro _
    | split

theorem keeps_execMgmtReset {a : State} {id : Nat} {s : State} (h0 : Keeps false a s) :
    KeepsRes false a (execMgmtReset id s) := by
  unfold execMgmtReset
  try dsimp only
  repeat' first
    | (with_reducible first
        | assumption | apply keeps_runCmd | apply keeps_answerDomain | apply keeps_beginReset | apply keepsRes_next
          | apply keepsRes_fault | apply keepsRes_refused | simp only [keeps_mk_iff])
    | intro _
    | split

theorem keeps_execResetEnd {a : State} {root : Sys2Proof.PUnit} {s : State} (h0 : Keeps false a s) :
    KeepsRes false a (execResetEnd root s) := by
  unfold execResetEnd
  split
  · exact keepsRes_next h0
  · split
    · exact keepsRes_next h0
    · cases root
      case channel => exact keepsRes_next h0
      case hostIf =>
        dsimp only
        split
        · refine keepsRes_next (keeps_endReset ?_)
          simp only [keeps_mk_iff]
          exact h0
        · split
          · exact keepsRes_next h0
          · exact keepsRes_next (keeps_tellState (keeps_setOwn (keeps_dropAct h0)))
      all_goals
        dsimp only
        split
        · exact keepsRes_next h0
        · exact keepsRes_next (keeps_endReset h0)

theorem keeps_execResetFaultEscalate {a : State} {root : Sys2Proof.PUnit} {s : State} (h0 : Keeps false a s) :
    KeepsRes false a (execResetFaultEscalate root s) := by
  unfold execResetFaultEscalate
  try dsimp only
  repeat' first
    | (with_reducible first
        | assumption | apply keeps_faultUnit | apply keeps_captureDump | apply keeps_answerDomain | apply
          keeps_beginReset | apply keeps_escalate | apply keeps_fenceOut | apply keeps_endResetCmds | apply
          keeps_auditEscalation | apply keeps_takeOut | apply keeps_dropAct | apply keepsRes_next | apply
          keepsRes_fault | apply keepsRes_refused)
    | intro _
    | split
    | refine keeps_of_snd ?_ ‹_›

theorem keeps_execUnitReady {same : Bool} {a : State} {u : Sys2Proof.PUnit} {s : State} (h0 : Keeps same a s) :
    KeepsRes same a (execUnitReady u s) := by
  unfold execUnitReady
  try dsimp only
  repeat' first
    | (with_reducible first
        | assumption | apply keeps_becomeReady | apply keepsRes_next | apply keepsRes_fault | apply keepsRes_refused
          | simp only [keeps_mk_iff])
    | intro _
    | split

end Sys2Proof.Machine
end

