-- ==== Sys2Proof/Laws/KeepsHostIf.lean ====
section
/-! SUPPORT. What the operations of Machine/HostIf.lean keep. -/

namespace Sys2Proof.Machine

theorem keeps_answerUr {same : Bool} {a s : State} {t : TlpIn} (h0 : Keeps same a s) :
    Keeps same a (answerUr s t) := by
  unfold answerUr
  try dsimp only
  repeat' first
    | (with_reducible first
        | assumption | apply keeps_emit)
    | intro _
    | split

theorem keeps_onConfig {same : Bool} {a s : State} {f : State → State} (h0 : Keeps same a s) (h1 : ∀ (z0 : State), Keeps same
    a z0 → Keeps same a (f z0)) :
    KeepsRes same a (onConfig s f) := by
  unfold onConfig
  try dsimp only
  repeat' first
    | (with_reducible first
        | assumption | apply h1 | apply keeps_emit | apply keepsRes_next | apply keepsRes_fault | apply
          keepsRes_refused)
    | intro _
    | split

theorem keeps_writeConfig {same : Bool} {a s : State} {off v : Nat} (h0 : Keeps same a s) :
    Keeps same a (writeConfig s off v) := by
  unfold writeConfig
  try dsimp only
  repeat' first
    | (with_reducible first
        | assumption | simp only [keeps_mk_iff])
    | intro _
    | split

theorem keeps_doorbellError {same : Bool} {a s : State} {n : Nat} {role : Role} {v : Nat} (h0 : Keeps same a s) :
    Keeps same a (doorbellError s n role v) := by
  unfold doorbellError
  try dsimp only
  repeat' first
    | (with_reducible first
        | assumption | apply keeps_ringEvent)
    | intro _
    | split

theorem keeps_endOutstanding {same : Bool} {a s : State} {vec : Nat} (h0 : Keeps same a s) :
    Keeps same a (endOutstanding s vec) := by
  unfold endOutstanding
  try dsimp only
  repeat' first
    | (with_reducible first
        | assumption | simp only [keeps_mk_iff])
    | intro _
    | split

theorem keeps_refuseTlp {same : Bool} {a s : State} {t : TlpIn} (h0 : Keeps same a s) :
    Keeps same a (refuseTlp s t) := by
  unfold refuseTlp
  try dsimp only
  repeat' first
    | (with_reducible first
        | assumption | apply keeps_answerUr | simp only [keeps_mk_iff])
    | intro _
    | split

theorem keeps_stopPair {same : Bool} {a s : State} {n id : Nat} (h0 : Keeps same a s) :
    Keeps same a (stopPair s n id) := by
  unfold stopPair
  try dsimp only
  repeat' first
    | (with_reducible first
        | assumption | apply keeps_setQp | apply given_none | apply given_some)
    | intro _
    | split

theorem keeps_keepPair {same : Bool} {a s : State} {id : Nat} (h0 : Keeps same a s) :
    Keeps same a (keepPair s id) := by
  unfold keepPair
  try dsimp only
  repeat' first
    | (with_reducible first
        | assumption | apply keeps_setQp | apply given_none | apply given_some)
    | intro _
    | split

theorem keeps_serveBar2One {a s : State} {t : TlpIn} (h0 : Keeps false a s) :
    Keeps false a (serveBar2One s t) := by
  unfold serveBar2One
  try dsimp only
  repeat' first
    | (with_reducible first
        | assumption | apply keeps_answerUr | apply keeps_writeBytes | apply keeps_touchRange | apply
          keeps_drawFree | apply keeps_emit | apply keeps_demand)
    | intro _
    | split
    | refine keeps_of_snd ?_ ‹_›

theorem keeps_onBar2 {a s : State} {t : TlpIn} (h0 : Keeps false a s) :
    Keeps false a (onBar2 s t) := by
  unfold onBar2
  try dsimp only
  repeat' first
    | (with_reducible first
        | assumption | apply keeps_answerUr | apply keeps_refuseTlp | apply keeps_touchRange | apply
          keeps_serveBar2One | simp only [keeps_mk_iff])
    | intro _
    | split

theorem keeps_serveBar2 {a s : State} (h0 : Keeps false a s) :
    Keeps false a (serveBar2 s) := by
  unfold serveBar2
  try dsimp only
  repeat' first
    | (with_reducible first
        | assumption | apply keeps_foldl | apply keeps_onBar2 | simp only [keeps_mk_iff] | apply keeps_foldl)
    | intro _
    | split

theorem keeps_onBar2_read {same : Bool} {a s : State} {t : TlpIn} (ht : t.write = false) (h0 : Keeps same a s) :
    Keeps same a (onBar2 s t) := by
  unfold onBar2 serveBar2One
  rw [ht]
  try dsimp only
  repeat' first
    | (with_reducible first
        | assumption | apply keeps_answerUr | apply keeps_refuseTlp | apply keeps_touchRange | apply
          keeps_drawFree | apply keeps_emit | apply keeps_demand | simp only [keeps_mk_iff])
    | intro _
    | split
    | refine keeps_of_snd ?_ ‹_›
    | contradiction

theorem keeps_execBar2Read {same : Bool} {a : State} {t : TlpIn} {s : State} (h0 : Keeps same a s) :
    KeepsRes same a (execBar2Read t s) := by
  unfold execBar2Read
  split
  · exact keepsRes_next h0
  · next h =>
    simp only [Bool.or_eq_true, not_or, Bool.not_eq_true] at h
    exact keepsRes_next (keeps_onBar2_read h.2 h0)

theorem keeps_execBar2Write {a : State} {t : TlpIn} {s : State} (h0 : Keeps false a s) :
    KeepsRes false a (execBar2Write t s) := by
  unfold execBar2Write
  try dsimp only
  repeat' first
    | (with_reducible first
        | assumption | apply keeps_onBar2 | apply keepsRes_next | apply keepsRes_fault | apply
          keepsRes_refused)
    | intro _
    | split

theorem keeps_onBar0 {same : Bool} {a s : State} {t : TlpIn} {f : State → State} (h0 : Keeps same a s) (h1 : ∀ (z0 : State),
    Keeps same a z0 → Keeps same a (f z0)) :
    KeepsRes same a (onBar0 s t f) := by
  unfold onBar0
  try dsimp only
  repeat' first
    | (with_reducible first
        | assumption | apply h1 | apply keeps_refuseTlp | apply keeps_answerUr | apply keepsRes_next | apply
          keepsRes_fault | apply keepsRes_refused)
    | intro _
    | split

theorem keeps_execBootstrapGo {same : Bool} {a : State} {t : TlpIn} {s : State} (h0 : Keeps same a s) :
    KeepsRes same a (execBootstrapGo t s) := by
  unfold execBootstrapGo
  try dsimp only
  repeat' first
    | (with_reducible first
        | assumption | apply keeps_onBar0 | apply keeps_setQp | apply keeps_auditPut | apply keepsRes_next | apply
          keepsRes_fault | apply keepsRes_refused | simp only [keeps_mk_iff])
    | intro _
    | split

theorem keeps_execCqHeadDoorbell {same : Bool} {a : State} {t : TlpIn} {s : State} (h0 : Keeps same a s) :
    KeepsRes same a (execCqHeadDoorbell t s) := by
  unfold execCqHeadDoorbell
  try dsimp only
  repeat' first
    | (with_reducible first
        | assumption | apply keeps_onBar0 | apply keeps_endOutstanding | apply keeps_setQp | apply
          keeps_doorbellError | apply keepsRes_next | apply keepsRes_fault | apply keepsRes_refused)
    | intro _
    | split

theorem keeps_hostReset {a s : State} {keepLink : Bool} (h0 : Keeps false a s) :
    Keeps false a (hostReset s keepLink) := by
  unfold hostReset
  try dsimp only
  repeat' first
    | (with_reducible first
        | assumption | apply keeps_beginReset | simp only [keeps_mk_iff])
    | intro _
    | split

theorem keeps_execD3hotToD0 {a s : State} (h0 : Keeps false a s) :
    KeepsRes false a (execD3hotToD0 s) := by
  unfold execD3hotToD0
  try dsimp only
  repeat' first
    | (with_reducible first
        | assumption | apply keeps_hostReset | apply keepsRes_next | apply keepsRes_fault | apply keepsRes_refused)
    | intro _
    | split

theorem keeps_execEventRingDisable {same : Bool} {a : State} {t : TlpIn} {s : State} (h0 : Keeps same a s) :
    KeepsRes same a (execEventRingDisable t s) := by
  unfold execEventRingDisable
  try dsimp only
  repeat' first
    | (with_reducible first
        | assumption | apply keeps_onBar0 | apply keeps_setRing | apply keepsRes_next | apply keepsRes_fault | apply
          keepsRes_refused)
    | intro _
    | split
    | simp only [id_eq]

theorem keeps_execEventRingEnable {same : Bool} {a : State} {t : TlpIn} {s : State} (h0 : Keeps same a s) :
    KeepsRes same a (execEventRingEnable t s) := by
  unfold execEventRingEnable
  try dsimp only
  repeat' first
    | (with_reducible first
        | assumption | apply keeps_onBar0 | apply keeps_ringReport | apply keeps_setRing | apply keepsRes_next |
          apply keepsRes_fault | apply keepsRes_refused)
    | intro _
    | split
    | simp only [id_eq]

theorem keeps_execEventRingHeadDoorbell {same : Bool} {a : State} {t : TlpIn} {s : State} (h0 : Keeps same a s) :
    KeepsRes same a (execEventRingHeadDoorbell t s) := by
  unfold execEventRingHeadDoorbell
  try dsimp only
  repeat' first
    | (with_reducible first
        | assumption | apply keeps_onBar0 | apply keeps_endOutstanding | apply keeps_setRing | apply
          keeps_ringReport | apply keepsRes_next | apply keepsRes_fault | apply keepsRes_refused)
    | intro _
    | split

theorem keeps_execFunctionLevelReset {a s : State} (h0 : Keeps false a s) :
    KeepsRes false a (execFunctionLevelReset s) := by
  unfold execFunctionLevelReset
  try dsimp only
  repeat' first
    | (with_reducible first
        | assumption | apply keeps_hostReset | apply keepsRes_next | apply keepsRes_fault | apply keepsRes_refused)
    | intro _
    | split

theorem keeps_execHotReset {a s : State} (h0 : Keeps false a s) :
    KeepsRes false a (execHotReset s) := by
  unfold execHotReset
  try dsimp only
  repeat' first
    | (with_reducible first
        | assumption | apply keeps_hostReset | apply keepsRes_next | apply keepsRes_fault | apply keepsRes_refused)
    | intro _
    | split

theorem keeps_setStream {same : Bool} {a s : State} {i : Nat} {x : StreamSt} (h0 : Keeps same a s) :
    Keeps same a (setStream s i x) := by
  unfold setStream
  try dsimp only
  repeat' first
    | (with_reducible first
        | assumption | simp only [keeps_mk_iff])
    | intro _
    | split

theorem keeps_execKSetGo {same : Bool} {a : State} {session stream key : Nat} {s : State} (h0 : Keeps same a s) :
    KeepsRes same a (execKSetGo session stream key s) := by
  unfold execKSetGo
  try dsimp only
  repeat' first
    | (with_reducible first
        | assumption | apply keeps_emit | apply keeps_setStream | apply keepsRes_next | apply keepsRes_fault |
          apply keepsRes_refused)
    | intro _
    | split

theorem keeps_execKeyExchange {same : Bool} {a : State} {session : Nat} {s : State} (h0 : Keeps same a s) :
    KeepsRes same a (execKeyExchange session s) := by
  unfold execKeyExchange
  try dsimp only
  repeat' first
    | (with_reducible first
        | assumption | apply keeps_emit | apply keeps_drawRandom | apply keepsRes_next | apply keepsRes_fault
          | apply keepsRes_refused | simp only [keeps_mk_iff])
    | intro _
    | split
    | refine keeps_of_snd ?_ ‹_›

theorem keeps_execKeyProg {same : Bool} {a : State} {session stream : Nat} {k : StreamKeyIn} {s : State} (h0 : Keeps same a s)
    :
    KeepsRes same a (execKeyProg session stream k s) := by
  unfold execKeyProg
  try dsimp only
  repeat' first
    | (with_reducible first
        | assumption | apply keeps_emit | apply keeps_setStream | apply keepsRes_next | apply keepsRes_fault |
          apply keepsRes_refused | simp only [keeps_mk_iff])
    | intro _
    | split

theorem keeps_trainLink {same : Bool} {a s : State} {rate width : Nat} (h0 : Keeps same a s) :
    Keeps same a (trainLink s rate width) := by
  unfold trainLink
  try dsimp only
  repeat' first
    | (with_reducible first
        | assumption | simp only [keeps_mk_iff])
    | intro _
    | split

theorem keeps_execLinkDown {a : State} {rate width : Nat} {s : State} (h0 : Keeps false a s) :
    KeepsRes false a (execLinkDown rate width s) := by
  unfold execLinkDown
  try dsimp only
  repeat' first
    | (with_reducible first
        | assumption | apply keeps_trainLink | apply keeps_hostReset | apply keepsRes_next | apply
          keepsRes_fault | apply keepsRes_refused)
    | intro _
    | split

theorem keeps_execLockInterface {same : Bool} {a : State} {session stream : Nat} {s : State} (h0 : Keeps same a s) :
    KeepsRes same a (execLockInterface session stream s) := by
  unfold execLockInterface
  try dsimp only
  repeat' first
    | (with_reducible first
        | assumption | apply keeps_emit | apply keeps_drawRandom | apply keeps_setTdi | apply keepsRes_next |
          apply keepsRes_fault | apply keepsRes_refused | simp only [keeps_mk_iff])
    | intro _
    | split
    | refine keeps_of_snd ?_ ‹_›

theorem keeps_setMqCtl {same : Bool} {a s : State} {v : Nat} (h0 : Keeps same a s) :
    Keeps same a (setMqCtl s v) := by
  unfold setMqCtl
  try dsimp only
  repeat' first
    | (with_reducible first
        | assumption | simp only [keeps_mk_iff])
    | intro _
    | split

theorem keeps_ringFailed {same : Bool} {a s : State} {n : Nat} {q : QpSt} (h0 : Keeps same a s) :
    Keeps same a (ringFailed s n q) := by
  unfold ringFailed
  try dsimp only
  repeat' first
    | (with_reducible first
        | assumption | apply keeps_setMqCtl | apply keeps_ringEvent | apply keeps_setQp)
    | intro _
    | split

theorem keeps_tryDeletePair {same : Bool} {a s : State} {n : Nat} (h0 : Keeps same a s) :
    Keeps same a (tryDeletePair s n) := by
  unfold tryDeletePair
  try dsimp only
  repeat' first
    | (with_reducible first
        | assumption | apply keeps_setQp | apply keeps_setMqCtl | apply keeps_foldl | apply keeps_finishCmd |
          apply given_none | apply given_some | apply keeps_foldl)
    | intro _
    | split

theorem keeps_execMqDisable {same : Bool} {a : State} {t : TlpIn} {s : State} (h0 : Keeps same a s) :
    KeepsRes same a (execMqDisable t s) := by
  unfold execMqDisable
  try dsimp only
  repeat' first
    | (with_reducible first
        | assumption | apply keeps_onBar0 | apply keeps_setMqCtl | apply keeps_tryDeletePair | apply
          keeps_setQp | apply keepsRes_next | apply keepsRes_fault | apply keepsRes_refused | apply given_none
          | apply given_some)
    | intro _
    | split

theorem keeps_execMqEnable {same : Bool} {a : State} {t : TlpIn} {s : State} (h0 : Keeps same a s) :
    KeepsRes same a (execMqEnable t s) := by
  unfold execMqEnable
  try dsimp only
  repeat' first
    | (with_reducible first
        | assumption | apply keeps_onBar0 | apply keeps_setQp | apply keeps_setMqCtl | apply keepsRes_next | apply
          keepsRes_fault | apply keepsRes_refused)
    | intro _
    | split

theorem keeps_flushPending {same : Bool} {a s : State} (h0 : Keeps same a s) :
    Keeps same a (flushPending s) := by
  unfold flushPending
  try dsimp only
  repeat' first
    | (with_reducible first
        | assumption | apply keeps_msixSend | apply keeps_foldl | simp only [keeps_mk_iff])
    | intro _
    | split

theorem keeps_writeReg {same : Bool} {a s : State} {t : TlpIn} (h0 : Keeps same a s) :
    Keeps same a (writeReg s t) := by
  unfold writeReg
  dsimp only
  repeat' first
    | (with_reducible first
        | assumption | apply keeps_flushPending | apply keeps_setMqCtl | simp only [keeps_mk_iff])
    | apply keeps_ite

theorem keeps_execMsixUnmask {same : Bool} {a : State} {t : TlpIn} {s : State} (h0 : Keeps same a s) :
    KeepsRes same a (execMsixUnmask t s) := by
  unfold execMsixUnmask
  try dsimp only
  repeat' first
    | (with_reducible first
        | assumption | apply keeps_onConfig | apply keeps_flushPending | apply keeps_onBar0 | apply
          keeps_writeReg | apply keepsRes_next | apply keepsRes_fault | apply keepsRes_refused | simp only
          [keeps_mk_iff])
    | intro _
    | split

theorem keeps_execPerstNAssert {a s : State} (h0 : Keeps false a s) :
    KeepsRes false a (execPerstNAssert s) := by
  unfold execPerstNAssert
  try dsimp only
  repeat' first
    | (with_reducible first
        | assumption | apply keeps_hostReset | apply keepsRes_next | apply keepsRes_fault | apply keepsRes_refused |
          simp only [keeps_mk_iff])
    | intro _
    | split

theorem keeps_execPerstNDeassert {same : Bool} {a : State} {rate width : Nat} {s : State} (h0 : Keeps same a s) :
    KeepsRes same a (execPerstNDeassert rate width s) := by
  unfold execPerstNDeassert
  try dsimp only
  repeat' first
    | (with_reducible first
        | assumption | apply keeps_trainLink | apply keepsRes_next | apply keepsRes_fault | apply
          keepsRes_refused | simp only [keeps_mk_iff])
    | intro _
    | split

theorem keeps_execQpCreate {same : Bool} {a : State} {id : Nat} {s : State} (h0 : Keeps same a s) :
    KeepsRes same a (execQpCreate id s) := by
  unfold execQpCreate
  try dsimp only
  repeat' first
    | (with_reducible first
        | assumption | apply keeps_runCmd | apply keeps_finishCmd | apply keeps_setQp | apply keepsRes_next | apply
          keepsRes_fault | apply keepsRes_refused)
    | intro _
    | split

theorem keeps_execQpDelete {same : Bool} {a : State} {id : Nat} {s : State} (h0 : Keeps same a s) :
    KeepsRes same a (execQpDelete id s) := by
  have k : KeepsRes same a (runCmd s id 0x0111 fun s c _ =>
      if (getQp s (bits (paramNat c.params) 511 504)).isNone then finishCmd s id stOk 0
      else tryDeletePair s (bits (paramNat c.params) 511 504)) := by
    refine keeps_runCmd h0 fun _ _ _ h => ?_
    split
    · exact keeps_finishCmd h
    · exact keeps_tryDeletePair h
  unfold execQpDelete
  dsimp only
  split
  · exact keepsRes_next (keeps_keepPair (k.get _ ‹_›))
  · exact k

theorem keeps_takeSnapshot {same : Bool} {a s : State} {off : Nat} (h0 : Keeps same a s) :
    Keeps same a (takeSnapshot s off) := by
  unfold takeSnapshot
  try dsimp only
  repeat' first
    | (with_reducible first
        | assumption | simp only [keeps_mk_iff])
    | intro _
    | split

theorem keeps_execRegisterSnapshotRead {same : Bool} {a : State} {t : TlpIn} {s : State} (h0 : Keeps same a s) :
    KeepsRes same a (execRegisterSnapshotRead t s) := by
  unfold execRegisterSnapshotRead
  try dsimp only
  repeat' first
    | (with_reducible first
        | assumption | apply keeps_onConfig | apply keeps_emit | apply keeps_onBar0 | apply keeps_takeSnapshot
          | apply keepsRes_next | apply keepsRes_fault | apply keepsRes_refused)
    | intro _
    | split

theorem keeps_execRegisterWrite {same : Bool} {a : State} {t : TlpIn} {s : State} (h0 : Keeps same a s) :
    KeepsRes same a (execRegisterWrite t s) := by
  unfold execRegisterWrite
  try dsimp only
  repeat' first
    | (with_reducible first
        | assumption | apply keeps_onConfig | apply keeps_writeConfig | apply keeps_onBar0 | apply
          keeps_writeReg | apply keepsRes_next | apply keepsRes_fault | apply keepsRes_refused)
    | intro _
    | split

theorem keeps_execStartInterface {same : Bool} {a : State} {session nonce : Nat} {s : State} (h0 : Keeps same a s) :
    KeepsRes same a (execStartInterface session nonce s) := by
  unfold execStartInterface
  try dsimp only
  repeat' first
    | (with_reducible first
        | assumption | apply keeps_emit | apply keeps_setTdi | apply keepsRes_next | apply keepsRes_fault |
          apply keepsRes_refused | simp only [keeps_mk_iff])
    | intro _
    | split

theorem keeps_execStopInterface {same : Bool} {a : State} {session : Nat} {s : State} (h0 : Keeps same a s) :
    KeepsRes same a (execStopInterface session s) := by
  unfold execStopInterface
  try dsimp only
  repeat' first
    | (with_reducible first
        | assumption | apply keeps_emit | apply keeps_moveTdi | apply keepsRes_next | apply keepsRes_fault |
          apply keepsRes_refused | simp only [keeps_mk_iff])
    | intro _
    | split

theorem keeps_execTdiError {same : Bool} {a : State} {e : TdiErrorIn} {s : State} (h0 : Keeps same a s) :
    KeepsRes same a (execTdiError e s) := by
  unfold execTdiError
  try dsimp only
  repeat' first
    | (with_reducible first
        | assumption | apply keeps_tdiFail | apply keepsRes_next | apply keepsRes_fault | apply
          keepsRes_refused | simp only [keeps_mk_iff])
    | intro _
    | split

theorem keeps_execTlpRefused {same : Bool} {a : State} {t : TlpIn} {s : State} (h0 : Keeps same a s) :
    KeepsRes same a (execTlpRefused t s) := by
  unfold execTlpRefused
  try dsimp only
  repeat' first
    | (with_reducible first
        | assumption | apply keeps_refuseTlp | apply keepsRes_next | apply keepsRes_fault | apply keepsRes_refused)
    | intro _
    | split

end Sys2Proof.Machine
end

