-- ==== Sys2Proof/Laws/KeepsSbLine.lean ====
section
/-! SUPPORT. What the operations of Machine/SbLine.lean keep. -/

namespace Sys2Proof.Machine

theorem keeps_sbStart {same : Bool} {a s : State} {f : SbIn} (h0 : Keeps same a s) :
    Keeps same a (sbStart s f) := by
  unfold sbStart
  try dsimp only
  repeat' first
    | (with_reducible first
        | assumption | apply keeps_emit | simp only [keeps_mk_iff])
    | intro _
    | split

theorem keeps_sbSend {same : Bool} {a s : State} {f : SbIn} (h0 : Keeps same a s) :
    Keeps same a (sbSend s f) := by
  unfold sbSend
  try dsimp only
  repeat' first
    | (with_reducible first
        | assumption | apply keeps_sbStart | apply keeps_emit | simp only [keeps_mk_iff])
    | intro _
    | split

theorem keeps_sbDrain {same : Bool} {a s : State} (h0 : Keeps same a s) :
    Keeps same a (sbDrain s) := by
  unfold sbDrain
  try dsimp only
  repeat' first
    | (with_reducible first
        | assumption | apply keeps_sbStart | simp only [keeps_mk_iff])
    | intro _
    | split

end Sys2Proof.Machine
end

