-- ==== Sys2Proof/Laws/KeepsCompletion.lean ====
section
/-! SUPPORT. What the operations of Machine/Completion.lean keep. -/

namespace Sys2Proof.Machine

theorem keeps_vectorOut {same : Bool} {a s : State} {c : CmdRec} {bs : List Byte} (h0 : Keeps same a s) :
    Keeps same a (vectorOut s c bs).1 := by
  unfold vectorOut
  exact keeps_hostWriteCmd h0

theorem keeps_writeVector {same : Bool} {a s : State} {c : CmdRec} (h0 : Keeps same a s) :
    Keeps same a (writeVector s c).1 := by
  unfold writeVector
  try dsimp only
  repeat' first
    | (with_reducible first
        | assumption | apply keeps_vectorOut | apply keeps_hostWriteCmd)
    | intro _
    | split
    | refine keeps_of_fst ?_ ‹_›

theorem keeps_answerEvents {same : Bool} {a s : State} {c : CmdRec} (h0 : Keeps same a s) :
    Keeps same a (answerEvents s c) := by
  unfold answerEvents
  try dsimp only
  repeat' first
    | (with_reducible first
        | assumption | apply keeps_digestUnit | apply keeps_foldl | apply keeps_seqEvent | apply
          keeps_guardEvents | apply keeps_foldl)
    | intro _
    | split

theorem keeps_answerCmd {same : Bool} {a s : State} {c : CmdRec} (h0 : Keeps same a s) :
    Keeps same a (answerCmd s c) := by
  unfold answerCmd
  try dsimp only
  repeat' first
    | (with_reducible first
        | assumption | apply keeps_dropCmd | apply keeps_answerEvents | apply keeps_tryDeletePair | apply
          keeps_writeVector | apply keeps_emit | apply keeps_setQp | apply keeps_ringFailed | apply
          keeps_msixNotify | apply keeps_sendMsg | apply keeps_sbSend | apply given_none | apply given_some)
    | intro _
    | split
    | refine keeps_of_fst ?_ ‹_›

theorem keeps_execCompletionWrite {same : Bool} {a : State} {id : Nat} {s : State} (h0 : Keeps same a s) :
    KeepsRes same a (execCompletionWrite id s) := by
  unfold execCompletionWrite
  try dsimp only
  repeat' first
    | (with_reducible first
        | assumption | apply keeps_answerCmd | apply keepsRes_next | apply keepsRes_fault | apply keepsRes_refused |
          simp only [keeps_mk_iff])
    | intro _
    | split

theorem keeps_execPermissionRefusalReply {same : Bool} {a : State} {id : Nat} {s : State} (h0 : Keeps same a s) :
    KeepsRes same a (execPermissionRefusalReply id s) := by
  unfold execPermissionRefusalReply
  try dsimp only
  repeat' first
    | (with_reducible first
        | assumption | apply keeps_answerCmd | apply keepsRes_next | apply keepsRes_fault | apply keepsRes_refused)
    | intro _
    | split

end Sys2Proof.Machine
end

