-- ==== Sys2Proof/Laws/KeepsLease.lean ====
section
/-! SUPPORT. What the operations of Machine/Lease.lean keep. -/

namespace Sys2Proof.Machine

theorem keeps_clearPairs {same : Bool} {a s : State} (h0 : Keeps same a s) :
    Keeps same a (clearPairs s) := by
  unfold clearPairs
  try dsimp only
  repeat' first
    | (with_reducible first
        | assumption | apply keeps_setInflight | apply keeps_foldl | apply keeps_setQp | apply given_none |
          apply given_some | apply keeps_foldl)
    | intro _
    | split

theorem keeps_addRepairs {same : Bool} {a s : State} {n k : Nat} (h0 : Keeps same a s) :
    Keeps same a (addRepairs s n k) := by
  unfold addRepairs
  try dsimp only
  repeat' first
    | (with_reducible first
        | assumption | simp only [keeps_mk_iff])
    | intro _
    | split

theorem keeps_askocScrub {same : Bool} {a s : State} (h0 : Keeps same a s) :
    Keeps same a (askocScrub s) := by
  unfold askocScrub
  try dsimp only
  repeat' first
    | (with_reducible first
        | assumption | apply keeps_clearPairs | simp only [keeps_mk_iff])
    | intro _
    | split

theorem keeps_bumpForClose {same : Bool} {a s : State} {gone : List Nat} (h0 : Keeps same a s) :
    Keeps same a (bumpForClose s gone) := by
  unfold bumpForClose
  exact keeps_foldl (fun _ _ h => keeps_bumpGroup h) (keeps_foldl (fun _ _ h => keeps_bumpUnit h) h0)

theorem keeps_clearCounters {same : Bool} {a s : State} (h0 : Keeps same a s) :
    Keeps same a (clearCounters s) := by
  unfold clearCounters
  try dsimp only
  repeat' first
    | (with_reducible first
        | assumption | simp only [keeps_mk_iff])
    | intro _
    | split

theorem keeps_endTenantWork {same : Bool} {a s : State} {keep : Nat} (h0 : Keeps same a s) :
    Keeps same a (endTenantWork s keep) := by
  unfold endTenantWork
  try dsimp only
  repeat' first
    | (with_reducible first
        | assumption | apply keeps_foldl | apply keeps_finishCmd | apply keeps_setInflight | apply
          keeps_answerCmd | apply keeps_dropCmd | apply keeps_foldl)
    | intro _
    | split

theorem keeps_closeSteps123 {a s : State} {id : Nat} {tenant : Bool} (h0 : Keeps false a s) :
    Keeps false a (closeSteps123 s id tenant) := by
  unfold closeSteps123
  try dsimp only
  repeat' first
    | (with_reducible first
        | assumption | apply keeps_endTenantWork | apply keeps_finishCmd | apply keeps_answerCmd | apply
          keeps_dropCmd | apply keeps_setTdi | apply keeps_foldl | apply keeps_setQp | apply keeps_installKey
          | apply given_none | apply given_some | simp only [keeps_mk_iff] | apply keeps_foldl)
    | intro _
    | split

theorem keeps_commitLeaseClose {a s : State} {id : Nat} {tenant verify : Bool} (h0 : Keeps false a s) :
    Keeps false a (commitLeaseClose s id tenant verify) := by
  unfold commitLeaseClose
  try dsimp only
  repeat' first
    | (with_reducible first
        | assumption | apply keeps_closeSteps123 | simp only [keeps_mk_iff])
    | intro _
    | split

theorem keeps_resetLeaseRegs {same : Bool} {a s : State} (h0 : Keeps same a s) :
    Keeps same a (resetLeaseRegs s) := by
  unfold resetLeaseRegs
  try dsimp only
  repeat' first
    | (with_reducible first
        | assumption | simp only [keeps_mk_iff])
    | intro _
    | split

theorem keeps_noteOpened {same : Bool} {a s : State} (h0 : Keeps same a s) :
    Keeps same a (noteOpened s) := by
  unfold noteOpened
  try dsimp only
  repeat' first
    | (with_reducible first
        | assumption | apply keeps_auditCheckpoint | apply keeps_auditPut | simp only [keeps_mk_iff])
    | intro _
    | split

theorem keeps_commitLeaseOpen {a s : State} {ps : List (BitVec 512)} {lid : Nat} (h0 : Keeps false a s) :
    Keeps false a (commitLeaseOpen s ps lid) := by
  have h1 := keeps_drawRandom h0
  have h2 := keeps_drawRandom h1
  unfold commitLeaseOpen
  refine keeps_noteOpened (keeps_bumpUnits (keeps_setProfile (keeps_setProfile (keeps_clearCounters (keeps_resetLeaseRegs ?_)))))
  exact (keeps_installKey h2).of_arm rfl rfl rfl rfl rfl fun _ => armOk_disarmed rfl

theorem keeps_execAskocScrubEnd {same : Bool} {a s : State} (h0 : Keeps same a s) :
    KeepsRes same a (execAskocScrubEnd s) := by
  unfold execAskocScrubEnd
  try dsimp only
  repeat' first
    | (with_reducible first
        | assumption | apply keeps_askocScrub | apply keeps_checkAllReady | apply keepsRes_next | apply
          keepsRes_fault | apply keepsRes_refused | simp only [keeps_mk_iff])
    | intro _
    | split

theorem keeps_loseChannel {same : Bool} {a s : State} {n : Fin 256} {y2 : Nat} (h0 : Keeps same a s) :
    Keeps same a (loseChannel s n y2) := by
  unfold loseChannel
  try dsimp only
  repeat' first
    | (with_reducible first
        | assumption | apply keeps_bumpUnits | apply keeps_setOwn | apply keeps_ringEvent)
    | intro _
    | split

theorem keeps_repairRows {same : Bool} {a s : State} {n : Fin 256} {k y3 : Nat} (h0 : Keeps same a s) :
    Keeps same a (repairRows s n k y3) := by
  unfold repairRows
  try dsimp only
  repeat' first
    | (with_reducible first
        | assumption | apply keeps_addRepairs | apply keeps_loseChannel)
    | intro _
    | split

theorem keeps_vangaerReply {same : Bool} {a s : State} {st : Nat} (h0 : Keeps same a s) :
    Keeps same a (vangaerReply s st) := by
  unfold vangaerReply
  try dsimp only
  repeat' first
    | (with_reducible first
        | assumption | simp only [keeps_mk_iff])
    | intro _
    | split

theorem keeps_vangaerDone {same : Bool} {a s : State} {role kind : Nat} {ok : Bool} {f : State → State} (h0 : Keeps same a s)
    (h1 : ∀ (z0 : State), Keeps same a z0 → Keeps same a (f z0)) :
    Keeps same a (vangaerDone s role kind ok f) := by
  unfold vangaerDone
  try dsimp only
  repeat' first
    | (with_reducible first
        | assumption | apply h1 | apply keeps_auditPut | apply keeps_vangaerReply | apply keeps_auditRefusal)
    | intro _
    | split

theorem keeps_execFabricSecret {same : Bool} {a : State} {m : VangaerIn} {s : State} (h0 : Keeps same a s) :
    KeepsRes same a (execFabricSecret m s) := by
  unfold execFabricSecret
  try dsimp only
  repeat' first
    | (with_reducible first
        | assumption | apply keeps_vangaerDone | apply keepsRes_next | apply keepsRes_fault | apply
          keepsRes_refused | simp only [keeps_mk_iff])
    | intro _
    | split

theorem keeps_execHardwareScrubEnd {same : Bool} {a s : State} (h0 : Keeps same a s) :
    KeepsRes same a (execHardwareScrubEnd s) := by
  unfold execHardwareScrubEnd
  try dsimp only
  repeat' first
    | (with_reducible first
        | assumption | apply keepsRes_next | apply keepsRes_fault | apply keepsRes_refused | simp only
          [keeps_mk_iff])
    | intro _
    | split

theorem keeps_relockDevice {same : Bool} {a s : State} (h0 : Keeps same a s) :
    Keeps same a (relockDevice s) := by
  unfold relockDevice
  exact keeps_checkAllReady (keeps_setProfile (keeps_setProfile (keeps_resetLeaseRegs
    (h0.of_arm rfl rfl rfl rfl rfl fun _ => armOk_closed rfl))))

theorem keeps_noteClosed {same : Bool} {a s : State} (h0 : Keeps same a s) :
    Keeps same a (noteClosed s) := by
  unfold noteClosed
  try dsimp only
  repeat' first
    | (with_reducible first
        | assumption | apply keeps_relockDevice | apply keeps_auditCheckpoint | apply keeps_auditPut | simp only
          [keeps_mk_iff])
    | intro _
    | split

theorem keeps_finishClose {same : Bool} {a s : State} (h0 : Keeps same a s) :
    Keeps same a (finishClose s) := by
  have k : Keeps same a { s with lease := { s.lease with closing := none } } := by
    simp only [keeps_mk_iff]
    exact h0
  have r := keeps_noteClosed (keeps_bumpForClose (gone := s.lease.dissolved) k)
  unfold finishClose
  split
  · exact keeps_finishCmd r
  · exact r

theorem keeps_execHbmClearEnd {a s : State} (h0 : Keeps false a s) :
    KeepsRes false a (execHbmClearEnd s) := by
  unfold execHbmClearEnd
  try dsimp only
  repeat' first
    | (with_reducible first
        | assumption | apply keeps_touchDoze | apply keeps_clearHbm | apply keeps_finishClose | apply keepsRes_next
          | apply keepsRes_fault | apply keepsRes_refused | apply keeps_foldl | simp only [keeps_mk_iff])
    | intro _
    | split

theorem keeps_execHbmVerifyEnd {same : Bool} {a : State} {repairs : List (Nat × Nat)} {bad : List Nat} {s : State} (h0 : Keeps
    same a s) :
    KeepsRes same a (execHbmVerifyEnd repairs bad s) := by
  unfold execHbmVerifyEnd
  try dsimp only
  repeat' first
    | (with_reducible first
        | assumption | apply keeps_foldl | apply keeps_drawFree | apply keeps_repairRows | apply
          keeps_finishClose | apply keepsRes_next | apply keepsRes_fault | apply keepsRes_refused | apply
          keeps_foldl)
    | intro _
    | split
    | refine keeps_of_snd ?_ ‹_›

theorem keeps_execInstallKey {same : Bool} {a : State} {m : VangaerIn} {s : State} (h0 : Keeps same a s) :
    KeepsRes same a (execInstallKey m s) := by
  unfold execInstallKey
  try dsimp only
  repeat' first
    | (with_reducible first
        | assumption | apply keeps_vangaerDone | apply keepsRes_next | apply keepsRes_fault | apply
          keepsRes_refused | simp only [keeps_mk_iff])
    | intro _
    | split

theorem keeps_hardwareScrub {a s : State} (h0 : Keeps false a s) :
    Keeps false a (hardwareScrub s) := by
  unfold hardwareScrub
  refine keeps_clearCounters (h0.of_wf rfl rfl (fun h => ?_) rfl rfl rfl rfl)
  rw [memWf_iff] at *
  exact ⟨smapWf_filter _ h.1, smapWf_filter _ h.2.1, h.2.2.1, h.2.2.2⟩

theorem keeps_execLeaseCloseDrainEnd {a s : State} (h0 : Keeps false a s) :
    KeepsRes false a (execLeaseCloseDrainEnd s) := by
  unfold execLeaseCloseDrainEnd
  try dsimp only
  repeat' first
    | (with_reducible first
        | assumption | apply keeps_hardwareScrub | apply keepsRes_next | apply keepsRes_fault | apply
          keepsRes_refused | simp only [keeps_mk_iff])
    | intro _
    | split

theorem keeps_execMirrorSecret {same : Bool} {a : State} {m : VangaerIn} {s : State} (h0 : Keeps same a s) :
    KeepsRes same a (execMirrorSecret m s) := by
  unfold execMirrorSecret
  try dsimp only
  repeat' first
    | (with_reducible first
        | assumption | apply keeps_vangaerDone | apply keepsRes_next | apply keepsRes_fault | apply
          keepsRes_refused | simp only [keeps_mk_iff])
    | intro _
    | split

theorem keeps_execPlainSecret {same : Bool} {a : State} {m : VangaerIn} {s : State} (h0 : Keeps same a s) :
    KeepsRes same a (execPlainSecret m s) := by
  unfold execPlainSecret
  try dsimp only
  repeat' first
    | (with_reducible first
        | assumption | apply keeps_vangaerDone | apply keepsRes_next | apply keepsRes_fault | apply
          keepsRes_refused | simp only [keeps_mk_iff])
    | intro _
    | split

theorem keeps_execVangaerReply {same : Bool} {a s : State} (h0 : Keeps same a s) :
    KeepsRes same a (execVangaerReply s) := by
  unfold execVangaerReply
  try dsimp only
  repeat' first
    | (with_reducible first
        | assumption | apply keeps_emit | apply keepsRes_next | apply keepsRes_fault | apply keepsRes_refused |
          apply keeps_foldl | simp only [keeps_mk_iff])
    | intro _
    | split

end Sys2Proof.Machine
end

