-- ==== Sys2Proof/Laws/KeepsPorts.lean ====
section
/-! SUPPORT. What the operations of Machine/Ports.lean keep. -/

namespace Sys2Proof.Machine

theorem keeps_execFabRouteSet {same : Bool} {a : State} {id : Nat} {s : State} (h0 : Keeps same a s) :
    KeepsRes same a (execFabRouteSet id s) := by
  unfold execFabRouteSet
  try dsimp only
  repeat' first
    | (with_reducible first
        | assumption | apply keeps_runCmd | apply keeps_finishCmd | apply keeps_setFab | apply keeps_flushHeld |
          apply keepsRes_next | apply keepsRes_fault | apply keepsRes_refused)
    | intro _
    | split

theorem keeps_execFrameDigest {same : Bool} {a : State} {f : FrameIn} {s : State} (h0 : Keeps same a s) :
    KeepsRes same a (execFrameDigest f s) := by
  unfold execFrameDigest
  try dsimp only
  repeat' first
    | (with_reducible first
        | assumption | apply keeps_onFrame | apply keeps_digestPartner | apply keepsRes_next | apply
          keepsRes_fault | apply keepsRes_refused)
    | intro _
    | split

theorem keeps_execInjectionTokenRefill {same : Bool} {a s : State} (h0 : Keeps same a s) :
    KeepsRes same a (execInjectionTokenRefill s) := by
  unfold execInjectionTokenRefill
  try dsimp only
  repeat' first
    | (with_reducible first
        | assumption | apply keeps_flushWaiting | apply keeps_setFab | apply keepsRes_next | apply keepsRes_fault |
          apply keepsRes_refused)
    | intro _
    | split

theorem keeps_execLinkRetransmit {same : Bool} {a : State} {p : Fin 32} {index : Nat} {s : State} (h0 : Keeps same a s) :
    KeepsRes same a (execLinkRetransmit p index s) := by
  unfold execLinkRetransmit
  try dsimp only
  repeat' first
    | (with_reducible first
        | assumption | apply keeps_modPort | apply keeps_emit | apply keepsRes_next | apply keepsRes_fault | apply
          keepsRes_refused | apply keeps_foldl)
    | intro _
    | split

theorem designate_count (t : TbSt) (root : Bool) : (designate t root).count = t.count := by
  unfold designate
  split <;> rfl

theorem keeps_execMgmtSetIdentity {same : Bool} {a : State} {id : Nat} {s : State} (h0 : Keeps same a s) :
    KeepsRes same a (execMgmtSetIdentity id s) := by
  unfold execMgmtSetIdentity
  try dsimp only
  repeat' first
    | (with_reducible first
        | assumption | apply keeps_runCmd | apply keeps_finishCmd | apply keeps_bumpUnits | apply
          keepsRes_next | apply keepsRes_fault | apply keepsRes_refused | simp only [keeps_mk_iff, designate_count])
    | intro _
    | split

theorem keeps_portCtl {same : Bool} {a : State} {action : Nat} {eff : State → CmdRec → Fin 32 → State} {id : Nat} {s : State}
    (h0 : ∀ (z0 : State) (z1 : CmdRec) (z2 : Fin 32), Keeps same a z0 → Keeps same a (eff z0 z1 z2)) (h1 : Keeps same a s) :
    KeepsRes same a (portCtl action eff id s) := by
  unfold portCtl
  try dsimp only
  repeat' first
    | (with_reducible first
        | assumption | apply h0 | apply keeps_runCmd | apply keeps_finishCmd | apply keepsRes_next | apply
          keepsRes_fault | apply keepsRes_refused)
    | intro _
    | split

theorem keeps_movePort {same : Bool} {a s : State} {p : Fin 32} {ph : PortPhase} {cause : Nat} (h0 : Keeps same a s) :
    Keeps same a (movePort s p ph cause) := by
  unfold movePort
  try dsimp only
  repeat' first
    | (with_reducible first
        | assumption | apply keeps_modPort | apply keeps_portHandoff | apply keeps_mirrorLinkDown | apply
          keeps_modUnit | apply keeps_tellState | apply keeps_checkAllReady)
    | intro _
    | split
    | rfl

theorem keeps_execPortDisable {same : Bool} {a : State} {id : Nat} {s : State} (h0 : Keeps same a s) :
    KeepsRes same a (execPortDisable id s) := by
  unfold execPortDisable
  try dsimp only
  repeat' first
    | (with_reducible first
        | assumption | apply keeps_portCtl | apply keeps_bumpUnits | apply keeps_movePort | apply keeps_modPort |
          apply keeps_finishCmd | apply keepsRes_next | apply keepsRes_fault | apply keepsRes_refused)
    | intro _
    | split

theorem keeps_execPortEnable {same : Bool} {a : State} {id : Nat} {s : State} (h0 : Keeps same a s) :
    KeepsRes same a (execPortEnable id s) := by
  unfold execPortEnable
  try dsimp only
  repeat' first
    | (with_reducible first
        | assumption | apply keeps_portCtl | apply keeps_bumpUnits | apply keeps_movePort | apply keeps_finishCmd |
          apply keepsRes_next | apply keepsRes_fault | apply keepsRes_refused)
    | intro _
    | split

theorem keeps_execPortLinkLoss {same : Bool} {a : State} {p : Fin 32} {s : State} (h0 : Keeps same a s) :
    KeepsRes same a (execPortLinkLoss p s) := by
  unfold execPortLinkLoss
  try dsimp only
  repeat' first
    | (with_reducible first
        | assumption | apply keeps_movePort | apply keeps_modPort | apply keepsRes_next | apply keepsRes_fault |
          apply keepsRes_refused)
    | intro _
    | split

theorem keeps_execPortLoopback {same : Bool} {a : State} {id : Nat} {s : State} (h0 : Keeps same a s) :
    KeepsRes same a (execPortLoopback id s) := by
  unfold execPortLoopback
  try dsimp only
  repeat' first
    | (with_reducible first
        | assumption | apply keeps_portCtl | apply keeps_refuseCmd | apply keeps_movePort | apply
          keeps_finishCmd | apply keepsRes_next | apply keepsRes_fault | apply keepsRes_refused)
    | intro _
    | split

theorem keeps_retrainPort {same : Bool} {a s : State} {p : Fin 32} {cause : Nat} (h0 : Keeps same a s) :
    Keeps same a (retrainPort s p cause) := by
  unfold retrainPort
  try dsimp only
  repeat' first
    | (with_reducible first
        | assumption | apply keeps_bumpUnits | apply keeps_movePort | apply keeps_modPort)
    | intro _
    | split

theorem keeps_execPortRetrain {same : Bool} {a : State} {id : Nat} {s : State} (h0 : Keeps same a s) :
    KeepsRes same a (execPortRetrain id s) := by
  unfold execPortRetrain
  try dsimp only
  repeat' first
    | (with_reducible first
        | assumption | apply keeps_portCtl | apply keeps_retrainPort | apply keeps_finishCmd | apply keepsRes_next |
          apply keepsRes_fault | apply keepsRes_refused)
    | intro _
    | split

theorem keeps_execPortRetrainTimer {same : Bool} {a : State} {p : Fin 32} {s : State} (h0 : Keeps same a s) :
    KeepsRes same a (execPortRetrainTimer p s) := by
  unfold execPortRetrainTimer
  try dsimp only
  repeat' first
    | (with_reducible first
        | assumption | apply keeps_retrainPort | apply keeps_modPort | apply keepsRes_next | apply keepsRes_fault |
          apply keepsRes_refused)
    | intro _
    | split

theorem keeps_execPortSignalDetected {same : Bool} {a : State} {p : Fin 32} {s : State} (h0 : Keeps same a s) :
    KeepsRes same a (execPortSignalDetected p s) := by
  unfold execPortSignalDetected
  try dsimp only
  repeat' first
    | (with_reducible first
        | assumption | apply keepsRes_next | apply keepsRes_fault | apply keepsRes_refused | simp only
          [keeps_mk_iff])
    | intro _
    | split

theorem keeps_execPortTrained {same : Bool} {a : State} {p : Fin 32} {full : Bool} {s : State} (h0 : Keeps same a s) :
    KeepsRes same a (execPortTrained p full s) := by
  unfold execPortTrained
  try dsimp only
  repeat' first
    | (with_reducible first
        | assumption | apply keeps_becomeReady | apply keeps_flushHeld | apply keepsRes_next | apply keepsRes_fault
          | apply keepsRes_refused | simp only [keeps_mk_iff])
    | intro _
    | split

theorem keeps_execVcCreditReturn {same : Bool} {a : State} {p : Fin 32} {vc : Fin 4} {n : Nat} {s : State} (h0 : Keeps same a s)
    :
    KeepsRes same a (execVcCreditReturn p vc n s) := by
  unfold execVcCreditReturn
  try dsimp only
  repeat' first
    | (with_reducible first
        | assumption | apply keeps_modPort | apply keeps_flushPort | apply keepsRes_next | apply keepsRes_fault |
          apply keepsRes_refused)
    | intro _
    | split

end Sys2Proof.Machine
end

