-- ==== Sys2Proof/Laws/KeepsTelemetry.lean ====
section
/-! SUPPORT. What the operations of Machine/Telemetry.lean keep. -/

namespace Sys2Proof.Machine

theorem keeps_clearEngines {same : Bool} {a s : State} {us : List Sys2Proof.PUnit} (h0 : Keeps same a s) :
    Keeps same a (clearEngines s us) := by
  unfold clearEngines
  try dsimp only
  repeat' first
    | (with_reducible first
        | assumption | apply keeps_foldl | simp only [keeps_mk_iff])
    | intro _
    | split

theorem keeps_telemClear {same : Bool} {a s : State} {c : CmdRec} {us : List Sys2Proof.PUnit} (h0 : Keeps same a s) :
    Keeps same a (telemClear s c us) := by
  unfold telemClear
  try dsimp only
  repeat' first
    | (with_reducible first
        | assumption | apply keeps_clearEngines)
    | intro _
    | split

theorem keeps_telemFar {same : Bool} {a s : State} {c : CmdRec} {fan : List (Member × BitVec 16)} (h0 : Keeps same a s) :
    Keeps same a (telemFar s c fan) := by
  unfold telemFar
  try dsimp only
  repeat' first
    | (with_reducible first
        | assumption | apply keeps_foldl | apply keeps_sendCmd | apply keeps_addCmd | apply keeps_foldl)
    | intro _
    | split

theorem keeps_takeTelem {same : Bool} {a s : State} {peer tid : Nat} {xs : List Nat} (h0 : Keeps same a s) :
    Keeps same a (takeTelem s peer tid xs) := by
  unfold takeTelem
  try dsimp only
  repeat' first
    | (with_reducible first
        | assumption | apply keeps_updCmd)
    | intro _
    | split

theorem keeps_execDumpCollect {same : Bool} {a : State} {id : Nat} {s : State} (h0 : Keeps same a s) :
    KeepsRes same a (execDumpCollect id s) := by
  unfold execDumpCollect
  try dsimp only
  repeat' first
    | (with_reducible first
        | assumption | apply keeps_runCmd | apply keeps_finishCmd | apply keeps_hostWriteCmd | apply keepsRes_next |
          apply keepsRes_fault | apply keepsRes_refused | simp only [keeps_mk_iff])
    | intro _
    | split

theorem keeps_execFaultReport {same : Bool} {a : State} {r : ReportIn} {s : State} (h0 : Keeps same a s) :
    KeepsRes same a (execFaultReport r s) := by
  unfold execFaultReport
  try dsimp only
  repeat' first
    | (with_reducible first
        | assumption | apply keeps_faultReport | apply keepsRes_next | apply keepsRes_fault | apply keepsRes_refused)
    | intro _
    | split

theorem keeps_execFaultWindowEnd {same : Bool} {a : State} {d : Fin 2} {s : State} (h0 : Keeps same a s) :
    KeepsRes same a (execFaultWindowEnd d s) := by
  unfold execFaultWindowEnd
  try dsimp only
  repeat' first
    | (with_reducible first
        | assumption | apply keeps_foldl | apply keeps_ringEvent | apply keepsRes_next | apply keepsRes_fault
          | apply keepsRes_refused | simp only [keeps_mk_iff] | apply keeps_foldl)
    | intro _
    | split

theorem keeps_memPoisonEvent {same : Bool} {a s : State} {y1 detect : Nat} (h0 : Keeps same a s) :
    Keeps same a (memPoisonEvent s y1 detect) := by
  unfold memPoisonEvent
  try dsimp only
  repeat' first
    | (with_reducible first
        | assumption | apply keeps_unitEvent | apply keeps_ringEvent)
    | intro _
    | split

theorem keeps_laneError {same : Bool} {a s : State} {n : Fin 256} {lane : Nat} (h0 : Keeps same a s) :
    Keeps same a (laneError s n lane) := by
  unfold laneError
  try dsimp only
  repeat' first
    | (with_reducible first
        | assumption | apply keeps_unitEvent | simp only [keeps_mk_iff])
    | intro _
    | split

theorem keeps_countFixed {same : Bool} {a s : State} {y1 lane : Nat} (h0 : Keeps same a s) :
    Keeps same a (countFixed s y1 lane) := by
  unfold countFixed
  try dsimp only
  repeat' first
    | (with_reducible first
        | assumption | apply keeps_laneError | simp only [keeps_mk_iff])
    | intro _
    | split

theorem keeps_reportPoison {a s : State} {line detect : Nat} (h0 : Keeps false a s) :
    Keeps false a (reportPoison s line detect) := by
  unfold reportPoison
  try dsimp only
  repeat' first
    | (with_reducible first
        | assumption | apply keeps_poisonAct | apply keeps_memPoisonEvent | apply keeps_faultUnit)
    | intro _
    | split

theorem keeps_scrubWake {same : Bool} {a s : State} {i : Nat} (h0 : Keeps same a s) :
    Keeps same a (scrubWake s i) := by
  unfold scrubWake
  try dsimp only
  repeat' first
    | (with_reducible first
        | assumption | simp only [keeps_mk_iff])
    | intro _
    | split

theorem keeps_execScrubRead {a : State} {addr : Nat} {e : EccIn} {s : State} (h0 : Keeps false a s) :
    KeepsRes false a (execScrubRead addr e s) := by
  unfold execScrubRead
  try dsimp only
  repeat' first
    | (with_reducible first
        | assumption | apply keeps_scrubWake | apply keeps_touchAddr | apply keeps_reportPoison | apply
          keeps_setPoison | apply keeps_foldl | apply keeps_countFixed | apply keeps_setEcc | apply
          keepsRes_next | apply keepsRes_fault | apply keepsRes_refused | apply keeps_foldl)
    | intro _
    | split

theorem keeps_execStopArmExpiry {same : Bool} {a s : State} (h0 : Keeps same a s) :
    KeepsRes same a (execStopArmExpiry s) := by
  unfold execStopArmExpiry
  split
  · split
    · exact keepsRes_next (h0.of_arm rfl rfl rfl rfl rfl fun _ => armOk_disarmed rfl)
    · exact keepsRes_next h0
  · exact keepsRes_next h0

theorem keeps_stopCmd {same : Bool} {a : State} {id mode : Nat} {s : State} {f : State → CmdRec → State} (h0 : Keeps same a s)
    (h1 : ∀ (z0 : State) (z1 : CmdRec), Keeps same a z0 → Keeps same a (f z0 z1)) :
    KeepsRes same a (stopCmd id mode s f) := by
  unfold stopCmd
  try dsimp only
  repeat' first
    | (with_reducible first
        | assumption | apply h1 | apply keeps_runCmd | apply keepsRes_next | apply keepsRes_fault | apply
          keepsRes_refused)
    | intro _
    | split

theorem keeps_execStopGlobalArm {same : Bool} {a : State} {id : Nat} {s : State} (h0 : Keeps same a s) :
    KeepsRes same a (execStopGlobalArm id s) := by
  unfold execStopGlobalArm
  refine keeps_stopCmd h0 fun u c h => ?_
  dsimp only
  split
  · exact keeps_refuseCmd h
  · rename_i e
    refine keeps_finishCmd (h.of_arm rfl rfl rfl rfl rfl fun _ => armOk_closed ?_)
    unfold starOpen at e
    simp only [Bool.not_eq_true, Bool.not_eq_false'] at e
    simp only [Bool.and_eq_true, Bool.not_eq_true'] at e
    exact e.1.1

theorem keeps_execStopGlobalDisarm {same : Bool} {a : State} {id : Nat} {s : State} (h0 : Keeps same a s) :
    KeepsRes same a (execStopGlobalDisarm id s) := by
  unfold execStopGlobalDisarm
  exact keeps_stopCmd h0 fun _ _ h => keeps_finishCmd (h.of_arm rfl rfl rfl rfl rfl fun _ => armOk_disarmed rfl)

theorem keeps_stopDevice {same : Bool} {a s : State} (h0 : Keeps same a s) :
    Keeps same a (stopDevice s) := by
  exact h0.of_arm rfl rfl rfl rfl rfl fun _ => armOk_disarmed rfl

theorem keeps_execStopGlobalFire {same : Bool} {a : State} {id : Nat} {s : State} (h0 : Keeps same a s) :
    KeepsRes same a (execStopGlobalFire id s) := by
  unfold execStopGlobalFire
  try dsimp only
  repeat' first
    | (with_reducible first
        | assumption | apply keeps_stopCmd | apply keeps_refuseCmd | apply keeps_sbSend | apply
          keeps_finishCmd | apply keeps_stopDevice | apply keepsRes_next | apply keepsRes_fault | apply
          keepsRes_refused)
    | intro _
    | split

theorem keeps_telemRun {same : Bool} {a s : State} {c : CmdRec} {us : List Sys2Proof.PUnit} (h0 : Keeps same a s) :
    Keeps same a (telemRun s c us).2 := by
  unfold telemRun
  try dsimp only
  repeat' first
    | (with_reducible first
        | assumption | apply keeps_hostWriteCmd | apply keeps_telemClear | apply keeps_sendMsg | apply
          keeps_telemBytes)
    | intro _
    | split
    | refine keeps_of_snd ?_ ‹_›

theorem keeps_execTelemRead {same : Bool} {a : State} {id : Nat} {s : State} (h0 : Keeps same a s) :
    KeepsRes same a (execTelemRead id s) := by
  unfold execTelemRead
  try dsimp only
  repeat' first
    | (with_reducible first
        | assumption | apply keeps_startCmd | apply keeps_finishCmd | apply keeps_telemRun | apply
          keeps_telemClear | apply keeps_updCmd | apply keeps_telemWrite | apply keeps_telemFar | apply
          keepsRes_next | apply keepsRes_fault | apply keepsRes_refused | apply keepsStart_wait | apply
          keepsStart_ended | apply keepsStart_go)
    | intro _
    | split
    | refine keeps_of_Start_ended ?_ ‹_›
    | refine keeps_of_Start_go ?_ ‹_›
    | refine keeps_of_snd ?_ ‹_›

theorem keeps_execTraceCtl {same : Bool} {a : State} {id : Nat} {s : State} (h0 : Keeps same a s) :
    KeepsRes same a (execTraceCtl id s) := by
  unfold execTraceCtl
  try dsimp only
  repeat' first
    | (with_reducible first
        | assumption | apply keeps_runCmd | apply keeps_finishCmd | apply keepsRes_next | apply keepsRes_fault |
          apply keepsRes_refused | simp only [keeps_mk_iff])
    | intro _
    | split

theorem keeps_reportLine {a s : State} {line : Nat} {e : EccLine} (h0 : Keeps false a s) :
    Keeps false a (reportLine s line e) := by
  unfold reportLine
  try dsimp only
  repeat' first
    | (with_reducible first
        | assumption | apply keeps_setEcc | apply keeps_foldl | apply keeps_countFixed | apply
          keeps_reportPoison | apply keeps_faultUnit | apply keeps_foldl)
    | intro _
    | split

theorem keeps_reportErrors {a s : State} (h0 : Keeps false a s) :
    Keeps false a (reportErrors s) := by
  unfold reportErrors
  try dsimp only
  repeat' first
    | (with_reducible first
        | assumption | apply keeps_foldl | apply keeps_reportLine | apply keeps_foldl)
    | intro _
    | split

theorem keeps_upsetWord {same : Bool} {a s : State} (h0 : Keeps same a s) :
    Keeps same a (upsetWord s) := by
  unfold upsetWord
  try dsimp only
  repeat' first
    | (with_reducible first
        | assumption | apply keeps_setEcc)
    | intro _
    | split

end Sys2Proof.Machine
end

