-- ==== Sys2Proof/Laws/KeepsAttest.lean ====
section
/-! SUPPORT. What the operations of Machine/Attest.lean keep. -/

namespace Sys2Proof.Machine

theorem keeps_archiveRange {same : Bool} {a s : State} {es : List (BitVec 1024)} (h0 : Keeps same a s) :
    Keeps same a (archiveRange s es) := by
  unfold archiveRange
  try dsimp only
  repeat' first
    | (with_reducible first
        | assumption | simp only [keeps_mk_iff])
    | intro _
    | split

theorem keeps_checkpointRecord {same : Bool} {a s : State} (h0 : Keeps same a s) :
    Keeps same a (checkpointRecord s).2 := by
  unfold checkpointRecord
  try dsimp only
  repeat' first
    | (with_reducible first
        | assumption | apply keeps_drawRandom)
    | intro _
    | split
    | refine keeps_of_snd ?_ ‹_›

theorem keeps_execAuditCheckpoint {same : Bool} {a s : State} (h0 : Keeps same a s) :
    KeepsRes same a (execAuditCheckpoint s) := by
  unfold execAuditCheckpoint
  try dsimp only
  repeat' first
    | (with_reducible first
        | assumption | apply keeps_auditCheckpoint | apply keepsRes_next | apply keepsRes_fault | apply
          keepsRes_refused)
    | intro _
    | split

theorem keeps_execAuditRead {same : Bool} {a : State} {id : Nat} {s : State} (h0 : Keeps same a s) :
    KeepsRes same a (execAuditRead id s) := by
  unfold execAuditRead
  try dsimp only
  repeat' first
    | (with_reducible first
        | assumption | apply keeps_runCmd | apply keeps_finishCmd | apply keeps_auditCheckpoint | apply
          keeps_checkpointRecord | apply keeps_hostWriteCmd | apply keeps_archiveRange | apply keepsRes_next | apply
          keepsRes_fault | apply keepsRes_refused)
    | intro _
    | split
    | refine keeps_of_snd ?_ ‹_›

theorem keeps_execGetCertificate {same : Bool} {a : State} {_session : Nat} {s : State} (h0 : Keeps same a s) :
    KeepsRes same a (execGetCertificate _session s) := by
  unfold execGetCertificate
  try dsimp only
  repeat' first
    | (with_reducible first
        | assumption | apply keeps_emit | apply keepsRes_next | apply keepsRes_fault | apply keepsRes_refused)
    | intro _
    | split

theorem keeps_execGetMeasurements {same : Bool} {a : State} {session : Nat} {x : MeasureIn} {s : State} (h0 : Keeps same a s)
    :
    KeepsRes same a (execGetMeasurements session x s) := by
  unfold execGetMeasurements
  try dsimp only
  repeat' first
    | (with_reducible first
        | assumption | apply keeps_emit | apply keeps_drawRandom | apply keepsRes_next | apply keepsRes_fault
          | apply keepsRes_refused)
    | intro _
    | split
    | refine keeps_of_snd ?_ ‹_›

theorem keeps_execMgmtFirmware {same : Bool} {a : State} {id : Nat} {s : State} (h0 : Keeps same a s) :
    KeepsRes same a (execMgmtFirmware id s) := by
  unfold execMgmtFirmware
  try dsimp only
  repeat' first
    | (with_reducible first
        | assumption | apply keeps_runCmd | apply keeps_finishCmd | apply keepsRes_next | apply keepsRes_fault |
          apply keepsRes_refused | simp only [keeps_mk_iff])
    | intro _
    | split

end Sys2Proof.Machine
end

