-- ==== Sys2Proof/Laws/KeepsPower.lean ====
section
/-! SUPPORT. What the operations of Machine/Power.lean keep. -/

namespace Sys2Proof.Machine

theorem keeps_bootAudit {same : Bool} {a s : State} (h0 : Keeps same a s) :
    Keeps same a (bootAudit s) := by
  unfold bootAudit
  dsimp only
  have k : Keeps same a (if s.audit.nextSeq = 0 then auditAppend s 1 4 3 false .zero else s) := keeps_ite (keeps_auditAppend h0) h0
  generalize (if s.audit.nextSeq = 0 then auditAppend s 1 4 3 false .zero else s) = u at k ⊢
  split
  · exact k
  · rename_i l _
    have r : Keeps same a (auditPut { u with lease := { u.lease with openL := true, logId := l }, stopArm := none } 5 4 3 false
        { AuditPriv.zero with reason := 1 }) := keeps_auditPut (k.of_arm rfl rfl rfl rfl rfl fun _ => armOk_disarmed rfl)
    generalize auditPut { u with lease := { u.lease with openL := true, logId := l }, stopArm := none } 5 4 3 false
        { AuditPriv.zero with reason := 1 } = v at r ⊢
    exact r.of_arm rfl rfl rfl rfl rfl fun _ => armOk_closed rfl

theorem keeps_execGetstatus {same : Bool} {a s : State} (h0 : Keeps same a s) :
    KeepsRes same a (execGetstatus s) := by
  unfold execGetstatus
  try dsimp only
  repeat' first
    | (with_reducible first
        | assumption | apply keeps_emit | apply keeps_drawFree | apply keepsRes_next | apply keepsRes_fault | apply
          keepsRes_refused)
    | intro _
    | split
    | refine keeps_of_snd ?_ ‹_›

theorem keeps_holdPort {same : Bool} {a s : State} {u : Sys2Proof.PUnit} (h0 : Keeps same a s) :
    Keeps same a (holdPort s u) := by
  unfold holdPort
  try dsimp only
  repeat' first
    | (with_reducible first
        | assumption | simp only [keeps_mk_iff])
    | intro _
    | split

theorem keeps_execPorNDeassert {a : State} {p : PowerIn} {s : State} (h0 : Keeps false a s) :
    KeepsRes false a (execPorNDeassert p s) := by
  unfold execPorNDeassert
  try dsimp only
  repeat' first
    | (with_reducible first
        | assumption | apply keeps_setOwn | apply keeps_holdPort | apply keeps_bootAudit | apply keeps_installKey |
          apply keepsRes_next | apply keepsRes_fault | apply keepsRes_refused | apply keeps_foldl | simp only
          [keeps_mk_iff])
    | intro _
    | split

end Sys2Proof.Machine
end

