-- ==== Sys2Proof/Laws/KeepsVector.lean ====
section
/-! SUPPORT. What the operations of Machine/Vector.lean keep. -/

namespace Sys2Proof.Machine

theorem keeps_vWrite {same : Bool} {a s : State} {c : Fin 192} {w : CoreWord} {r : Nat × FFlags} (h0 : Keeps same a s) :
    Keeps same a (vWrite s c w r) := by
  unfold vWrite
  try dsimp only
  repeat' first
    | (with_reducible first
        | assumption | apply keeps_modCore)
    | intro _
    | split

theorem keeps_vRun {same : Bool} {a : State} {f : VFun} {draws : Bool} {c : Fin 192} {w : CoreWord} {s : State} {x : CoreSt}
    (h0 : Keeps same a s) :
    KeepsCoreOut same a (vRun f draws c w s x) := by
  unfold vRun
  try dsimp only
  repeat' first
    | (with_reducible first
        | assumption | apply keeps_drawFree | apply keeps_vWrite | apply keepsCoreOut_wait | apply
          keepsCoreOut_stop | apply keepsCoreOut_done | apply keepsCoreOut_jump | apply keepsCoreOut_ended |
          apply keepsCoreOut_hold | apply keepsCoreOut_queued | apply keepsCoreOut_poisoned)
    | intro _
    | split
    | refine keeps_of_CoreOut_done ?_ ‹_›
    | refine keeps_of_CoreOut_jump ?_ ‹_›
    | refine keeps_of_CoreOut_ended ?_ ‹_›
    | refine keeps_of_CoreOut_hold ?_ ‹_›
    | refine keeps_of_CoreOut_queued ?_ ‹_›
    | refine keeps_of_CoreOut_poisoned ?_ ‹_›
    | refine keeps_of_snd ?_ ‹_›

theorem keeps_vIssue {same : Bool} {a : State} {opc : Nat} {u : FieldUse} {ok : Bool} {f : VFun} {draws : Bool} {c : Fin 192}
    {w : CoreWord} {s : State} (h0 : Keeps same a s) :
    KeepsRes same a (vIssue opc u ok f draws c w s) := by
  unfold vIssue
  try dsimp only
  repeat' first
    | (with_reducible first
        | assumption | apply keeps_issueTile | apply keeps_vRun | apply keepsRes_next | apply keepsRes_fault |
          apply keepsRes_refused | apply keepsCoreOut_wait | apply keepsCoreOut_stop | apply keepsCoreOut_done
          | apply keepsCoreOut_jump | apply keepsCoreOut_ended | apply keepsCoreOut_hold | apply
          keepsCoreOut_queued | apply keepsCoreOut_poisoned)
    | intro _
    | split
    | refine keeps_of_CoreOut_done ?_ ‹_›
    | refine keeps_of_CoreOut_jump ?_ ‹_›
    | refine keeps_of_CoreOut_ended ?_ ‹_›
    | refine keeps_of_CoreOut_hold ?_ ‹_›
    | refine keeps_of_CoreOut_queued ?_ ‹_›
    | refine keeps_of_CoreOut_poisoned ?_ ‹_›

theorem keeps_vldRun {same : Bool} {a : State} {c : Fin 192} {w : CoreWord} {s : State} {x : CoreSt} (h0 : Keeps same a s) :
    KeepsCoreOut same a (vldRun c w s x) := by
  unfold vldRun
  try dsimp only
  repeat' first
    | (with_reducible first
        | assumption | apply keeps_demand | apply keeps_vWrite | apply keepsCoreOut_wait | apply
          keepsCoreOut_stop | apply keepsCoreOut_done | apply keepsCoreOut_jump | apply keepsCoreOut_ended |
          apply keepsCoreOut_hold | apply keepsCoreOut_queued | apply keepsCoreOut_poisoned)
    | intro _
    | split
    | refine keeps_of_CoreOut_done ?_ ‹_›
    | refine keeps_of_CoreOut_jump ?_ ‹_›
    | refine keeps_of_CoreOut_ended ?_ ‹_›
    | refine keeps_of_CoreOut_hold ?_ ‹_›
    | refine keeps_of_CoreOut_queued ?_ ‹_›
    | refine keeps_of_CoreOut_poisoned ?_ ‹_›

theorem keeps_vstRun {a : State} {c : Fin 192} {w : CoreWord} {s : State} {x : CoreSt} (h0 : Keeps false a s) :
    KeepsCoreOut false a (vstRun c w s x) := by
  unfold vstRun
  try dsimp only
  repeat' first
    | (with_reducible first
        | assumption | apply keeps_writeNat | apply keepsCoreOut_wait | apply keepsCoreOut_stop | apply
          keepsCoreOut_done | apply keepsCoreOut_jump | apply keepsCoreOut_ended | apply keepsCoreOut_hold |
          apply keepsCoreOut_queued | apply keepsCoreOut_poisoned)
    | intro _
    | split
    | refine keeps_of_CoreOut_done ?_ ‹_›
    | refine keeps_of_CoreOut_jump ?_ ‹_›
    | refine keeps_of_CoreOut_ended ?_ ‹_›
    | refine keeps_of_CoreOut_hold ?_ ‹_›
    | refine keeps_of_CoreOut_queued ?_ ‹_›
    | refine keeps_of_CoreOut_poisoned ?_ ‹_›

theorem keeps_vaccRun {same : Bool} {a : State} {c : Fin 192} {w : CoreWord} {s : State} {x : CoreSt} (h0 : Keeps same a s) :
    KeepsCoreOut same a (vaccRun c w s x) := by
  unfold vaccRun
  try dsimp only
  repeat' first
    | (with_reducible first
        | assumption | apply keeps_vWrite | apply keepsCoreOut_wait | apply keepsCoreOut_stop | apply
          keepsCoreOut_done | apply keepsCoreOut_jump | apply keepsCoreOut_ended | apply keepsCoreOut_hold |
          apply keepsCoreOut_queued | apply keepsCoreOut_poisoned)
    | intro _
    | split
    | refine keeps_of_CoreOut_done ?_ ‹_›
    | refine keeps_of_CoreOut_jump ?_ ‹_›
    | refine keeps_of_CoreOut_ended ?_ ‹_›
    | refine keeps_of_CoreOut_hold ?_ ‹_›
    | refine keeps_of_CoreOut_queued ?_ ‹_›
    | refine keeps_of_CoreOut_poisoned ?_ ‹_›

theorem keeps_execVacc {same : Bool} {a : State} {c : Fin 192} {w : CoreWord} {s : State} (h0 : Keeps same a s) :
    KeepsRes same a (execVacc c w s) := by
  unfold execVacc
  try dsimp only
  repeat' first
    | (with_reducible first
        | assumption | apply keeps_issueTile | apply keeps_vaccRun | apply keepsRes_next | apply
          keepsRes_fault | apply keepsRes_refused | apply keepsCoreOut_wait | apply keepsCoreOut_stop | apply
          keepsCoreOut_done | apply keepsCoreOut_jump | apply keepsCoreOut_ended | apply keepsCoreOut_hold |
          apply keepsCoreOut_queued | apply keepsCoreOut_poisoned)
    | intro _
    | split
    | refine keeps_of_CoreOut_done ?_ ‹_›
    | refine keeps_of_CoreOut_jump ?_ ‹_›
    | refine keeps_of_CoreOut_ended ?_ ‹_›
    | refine keeps_of_CoreOut_hold ?_ ‹_›
    | refine keeps_of_CoreOut_queued ?_ ‹_›
    | refine keeps_of_CoreOut_poisoned ?_ ‹_›

theorem keeps_execVadd {same : Bool} {a : State} {c : Fin 192} {w : CoreWord} {s : State} (h0 : Keeps same a s) :
    KeepsRes same a (execVadd c w s) := by
  unfold execVadd
  try dsimp only
  repeat' first
    | (with_reducible first
        | assumption | apply keeps_vIssue | apply keepsRes_next | apply keepsRes_fault | apply
          keepsRes_refused)
    | intro _
    | split

theorem keeps_execVcmp {same : Bool} {a : State} {c : Fin 192} {w : CoreWord} {s : State} (h0 : Keeps same a s) :
    KeepsRes same a (execVcmp c w s) := by
  unfold execVcmp
  try dsimp only
  repeat' first
    | (with_reducible first
        | assumption | apply keeps_vIssue | apply keepsRes_next | apply keepsRes_fault | apply
          keepsRes_refused)
    | intro _
    | split

theorem keeps_execVcvt {same : Bool} {a : State} {c : Fin 192} {w : CoreWord} {s : State} (h0 : Keeps same a s) :
    KeepsRes same a (execVcvt c w s) := by
  unfold execVcvt
  try dsimp only
  repeat' first
    | (with_reducible first
        | assumption | apply keeps_vIssue | apply keepsRes_next | apply keepsRes_fault | apply
          keepsRes_refused)
    | intro _
    | split

theorem keeps_execVdiv {same : Bool} {a : State} {c : Fin 192} {w : CoreWord} {s : State} (h0 : Keeps same a s) :
    KeepsRes same a (execVdiv c w s) := by
  unfold execVdiv
  try dsimp only
  repeat' first
    | (with_reducible first
        | assumption | apply keeps_vIssue | apply keepsRes_next | apply keepsRes_fault | apply
          keepsRes_refused)
    | intro _
    | split

theorem keeps_execVdq {same : Bool} {a : State} {c : Fin 192} {w : CoreWord} {s : State} (h0 : Keeps same a s) :
    KeepsRes same a (execVdq c w s) := by
  unfold execVdq
  try dsimp only
  repeat' first
    | (with_reducible first
        | assumption | apply keeps_vIssue | apply keepsRes_next | apply keepsRes_fault | apply
          keepsRes_refused)
    | intro _
    | split

theorem keeps_execVfma {same : Bool} {a : State} {c : Fin 192} {w : CoreWord} {s : State} (h0 : Keeps same a s) :
    KeepsRes same a (execVfma c w s) := by
  unfold execVfma
  try dsimp only
  repeat' first
    | (with_reducible first
        | assumption | apply keeps_vIssue | apply keepsRes_next | apply keepsRes_fault | apply
          keepsRes_refused)
    | intro _
    | split

theorem keeps_execVfn {same : Bool} {a : State} {c : Fin 192} {w : CoreWord} {s : State} (h0 : Keeps same a s) :
    KeepsRes same a (execVfn c w s) := by
  unfold execVfn
  try dsimp only
  repeat' first
    | (with_reducible first
        | assumption | apply keeps_vIssue | apply keepsRes_next | apply keepsRes_fault | apply
          keepsRes_refused)
    | intro _
    | split

theorem keeps_execVld {same : Bool} {a : State} {c : Fin 192} {w : CoreWord} {s : State} (h0 : Keeps same a s) :
    KeepsRes same a (execVld c w s) := by
  unfold execVld
  try dsimp only
  repeat' first
    | (with_reducible first
        | assumption | apply keeps_issueTile | apply keeps_vldRun | apply keepsRes_next | apply keepsRes_fault
          | apply keepsRes_refused | apply keepsCoreOut_wait | apply keepsCoreOut_stop | apply
          keepsCoreOut_done | apply keepsCoreOut_jump | apply keepsCoreOut_ended | apply keepsCoreOut_hold |
          apply keepsCoreOut_queued | apply keepsCoreOut_poisoned)
    | intro _
    | split
    | refine keeps_of_CoreOut_done ?_ ‹_›
    | refine keeps_of_CoreOut_jump ?_ ‹_›
    | refine keeps_of_CoreOut_ended ?_ ‹_›
    | refine keeps_of_CoreOut_hold ?_ ‹_›
    | refine keeps_of_CoreOut_queued ?_ ‹_›
    | refine keeps_of_CoreOut_poisoned ?_ ‹_›

theorem keeps_execVminmax {same : Bool} {a : State} {c : Fin 192} {w : CoreWord} {s : State} (h0 : Keeps same a s) :
    KeepsRes same a (execVminmax c w s) := by
  unfold execVminmax
  try dsimp only
  repeat' first
    | (with_reducible first
        | assumption | apply keeps_vIssue | apply keepsRes_next | apply keepsRes_fault | apply
          keepsRes_refused)
    | intro _
    | split

theorem keeps_execVmul {same : Bool} {a : State} {c : Fin 192} {w : CoreWord} {s : State} (h0 : Keeps same a s) :
    KeepsRes same a (execVmul c w s) := by
  unfold execVmul
  try dsimp only
  repeat' first
    | (with_reducible first
        | assumption | apply keeps_vIssue | apply keepsRes_next | apply keepsRes_fault | apply
          keepsRes_refused)
    | intro _
    | split

theorem keeps_execVred {same : Bool} {a : State} {c : Fin 192} {w : CoreWord} {s : State} (h0 : Keeps same a s) :
    KeepsRes same a (execVred c w s) := by
  unfold execVred
  try dsimp only
  repeat' first
    | (with_reducible first
        | assumption | apply keeps_vIssue | apply keepsRes_next | apply keepsRes_fault | apply
          keepsRes_refused)
    | intro _
    | split

theorem keeps_execVsel {same : Bool} {a : State} {c : Fin 192} {w : CoreWord} {s : State} (h0 : Keeps same a s) :
    KeepsRes same a (execVsel c w s) := by
  unfold execVsel
  try dsimp only
  repeat' first
    | (with_reducible first
        | assumption | apply keeps_vIssue | apply keepsRes_next | apply keepsRes_fault | apply
          keepsRes_refused)
    | intro _
    | split

theorem keeps_execVsqrt {same : Bool} {a : State} {c : Fin 192} {w : CoreWord} {s : State} (h0 : Keeps same a s) :
    KeepsRes same a (execVsqrt c w s) := by
  unfold execVsqrt
  try dsimp only
  repeat' first
    | (with_reducible first
        | assumption | apply keeps_vIssue | apply keepsRes_next | apply keepsRes_fault | apply
          keepsRes_refused)
    | intro _
    | split

theorem keeps_execVst {a : State} {c : Fin 192} {w : CoreWord} {s : State} (h0 : Keeps false a s) :
    KeepsRes false a (execVst c w s) := by
  unfold execVst
  try dsimp only
  repeat' first
    | (with_reducible first
        | assumption | apply keeps_issueTile | apply keeps_vstRun | apply keepsRes_next | apply keepsRes_fault
          | apply keepsRes_refused | apply keepsCoreOut_wait | apply keepsCoreOut_stop | apply
          keepsCoreOut_done | apply keepsCoreOut_jump | apply keepsCoreOut_ended | apply keepsCoreOut_hold |
          apply keepsCoreOut_queued | apply keepsCoreOut_poisoned)
    | intro _
    | split
    | refine keeps_of_CoreOut_done ?_ ‹_›
    | refine keeps_of_CoreOut_jump ?_ ‹_›
    | refine keeps_of_CoreOut_ended ?_ ‹_›
    | refine keeps_of_CoreOut_hold ?_ ‹_›
    | refine keeps_of_CoreOut_queued ?_ ‹_›
    | refine keeps_of_CoreOut_poisoned ?_ ‹_›

theorem keeps_execVsub {same : Bool} {a : State} {c : Fin 192} {w : CoreWord} {s : State} (h0 : Keeps same a s) :
    KeepsRes same a (execVsub c w s) := by
  unfold execVsub
  try dsimp only
  repeat' first
    | (with_reducible first
        | assumption | apply keeps_vIssue | apply keepsRes_next | apply keepsRes_fault | apply
          keepsRes_refused)
    | intro _
    | split

end Sys2Proof.Machine
end

