-- ==== Sys2Proof/Laws/KeepsMatrix.lean ====
section
/-! SUPPORT. What the operations of Machine/Matrix.lean keep. -/

namespace Sys2Proof.Machine

theorem keeps_withTile {same : Bool} {a s : State} {c : Fin 192} {o y3 : Nat} {f : State → TileDesc → CoreOut} (h0 : Keeps
    same a s) (h1 : ∀ (z0 : State) (z1 : TileDesc), Keeps same a z0 → KeepsCoreOut same a (f z0 z1)) :
    KeepsCoreOut same a (withTile s c o y3 f) := by
  unfold withTile
  try dsimp only
  repeat' first
    | (with_reducible first
        | assumption | apply h1 | apply keeps_demand | apply keepsCoreOut_wait | apply keepsCoreOut_stop |
          apply keepsCoreOut_done | apply keepsCoreOut_jump | apply keepsCoreOut_ended | apply
          keepsCoreOut_hold | apply keepsCoreOut_queued | apply keepsCoreOut_poisoned)
    | intro _
    | split
    | refine keeps_of_CoreOut_done ?_ ‹_›
    | refine keeps_of_CoreOut_jump ?_ ‹_›
    | refine keeps_of_CoreOut_ended ?_ ‹_›
    | refine keeps_of_CoreOut_hold ?_ ‹_›
    | refine keeps_of_CoreOut_queued ?_ ‹_›
    | refine keeps_of_CoreOut_poisoned ?_ ‹_›

theorem keeps_withTiles {same : Bool} {a s : State} {c : Fin 192} {o : Nat} {rs ws : List TileDesc} {mr mw : List Rng} {f :
    State → CoreOut} (h0 : Keeps same a s) (h1 : ∀ (z0 : State), Keeps same a z0 → KeepsCoreOut same a (f z0)) :
    KeepsCoreOut same a (withTiles s c o rs ws mr mw f) := by
  unfold withTiles
  try dsimp only
  repeat' first
    | (with_reducible first
        | assumption | apply h1 | apply keeps_demandAll | apply keepsCoreOut_wait | apply keepsCoreOut_stop |
          apply keepsCoreOut_done | apply keepsCoreOut_jump | apply keepsCoreOut_ended | apply
          keepsCoreOut_hold | apply keepsCoreOut_queued | apply keepsCoreOut_poisoned)
    | intro _
    | split
    | refine keeps_of_CoreOut_done ?_ ‹_›
    | refine keeps_of_CoreOut_jump ?_ ‹_›
    | refine keeps_of_CoreOut_ended ?_ ‹_›
    | refine keeps_of_CoreOut_hold ?_ ‹_›
    | refine keeps_of_CoreOut_queued ?_ ‹_›
    | refine keeps_of_CoreOut_poisoned ?_ ‹_›

theorem keeps_mmaHeld {same : Bool} {a s : State} {c : Fin 192} {w : CoreWord} {x : CoreSt} {y4 : Option TileDesc} {b :
    TileDesc} (h0 : Keeps same a s) :
    KeepsCoreOut same a (mmaHeld s c w x y4 b) := by
  unfold mmaHeld
  try dsimp only
  repeat' first
    | (with_reducible first
        | assumption | apply keeps_withTiles | apply keeps_countInvalid | apply keeps_modCore | apply
          keepsCoreOut_wait | apply keepsCoreOut_stop | apply keepsCoreOut_done | apply keepsCoreOut_jump |
          apply keepsCoreOut_ended | apply keepsCoreOut_hold | apply keepsCoreOut_queued | apply
          keepsCoreOut_poisoned | apply given_none | apply given_some)
    | intro _
    | split
    | refine keeps_of_CoreOut_done ?_ ‹_›
    | refine keeps_of_CoreOut_jump ?_ ‹_›
    | refine keeps_of_CoreOut_ended ?_ ‹_›
    | refine keeps_of_CoreOut_hold ?_ ‹_›
    | refine keeps_of_CoreOut_queued ?_ ‹_›
    | refine keeps_of_CoreOut_poisoned ?_ ‹_›

theorem keeps_mmaPlain {same : Bool} {a s : State} {c : Fin 192} {w : CoreWord} {o : Nat} {y4 b : TileDesc} (h0 : Keeps same a
    s) :
    KeepsCoreOut same a (mmaPlain s c w o y4 b) := by
  unfold mmaPlain
  try dsimp only
  repeat' first
    | (with_reducible first
        | assumption | apply keeps_withTiles | apply keeps_countInvalid | apply keeps_modCore | apply
          keepsCoreOut_wait | apply keepsCoreOut_stop | apply keepsCoreOut_done | apply keepsCoreOut_jump |
          apply keepsCoreOut_ended | apply keepsCoreOut_hold | apply keepsCoreOut_queued | apply
          keepsCoreOut_poisoned)
    | intro _
    | split
    | refine keeps_of_CoreOut_done ?_ ‹_›
    | refine keeps_of_CoreOut_jump ?_ ‹_›
    | refine keeps_of_CoreOut_ended ?_ ‹_›
    | refine keeps_of_CoreOut_hold ?_ ‹_›
    | refine keeps_of_CoreOut_queued ?_ ‹_›
    | refine keeps_of_CoreOut_poisoned ?_ ‹_›

theorem keeps_mmaRun {same : Bool} {a : State} {c : Fin 192} {w : CoreWord} {s : State} {x : CoreSt} (h0 : Keeps same a s) :
    KeepsCoreOut same a (mmaRun c w s x) := by
  unfold mmaRun
  try dsimp only
  repeat' first
    | (with_reducible first
        | assumption | apply keeps_withTile | apply keeps_mmaHeld | apply keeps_mmaPlain | apply
          keepsCoreOut_wait | apply keepsCoreOut_stop | apply keepsCoreOut_done | apply keepsCoreOut_jump |
          apply keepsCoreOut_ended | apply keepsCoreOut_hold | apply keepsCoreOut_queued | apply
          keepsCoreOut_poisoned | apply given_none | apply given_some)
    | intro _
    | split
    | refine keeps_of_CoreOut_done ?_ ‹_›
    | refine keeps_of_CoreOut_jump ?_ ‹_›
    | refine keeps_of_CoreOut_ended ?_ ‹_›
    | refine keeps_of_CoreOut_hold ?_ ‹_›
    | refine keeps_of_CoreOut_queued ?_ ‹_›
    | refine keeps_of_CoreOut_poisoned ?_ ‹_›

theorem keeps_writeQRow {a s : State} {c : Fin 192} {q : QCtl} {d : TileDesc} {dcol m : Nat} {row : QRow} (h0 : Keeps false a s)
    :
    Keeps false a (writeQRow s c q d dcol m row) := by
  unfold writeQRow
  try dsimp only
  repeat' first
    | (with_reducible first
        | assumption | apply keeps_writeElems | apply keeps_writeBytes)
    | intro _
    | split

theorem keeps_writeEntries {a s : State} {c : Fin 192} {d : TileDesc} {y3 : StatsAt} {g0 m : Nat} {row : QRow} (h0 : Keeps false
    a s) :
    Keeps false a (writeEntries s c d y3 g0 m row) := by
  unfold writeEntries
  try dsimp only
  repeat' first
    | (with_reducible first
        | assumption | apply keeps_writeNat | apply keeps_foldl)
    | intro _
    | split

theorem keeps_quantRows {a s : State} {c : Fin 192} {q : QCtl} {rm : Rm} {d : TileDesc} {dcol : Nat} {y6 : StatsAt} {zero :
    Bool} {rows : List (List Wide)} (h0 : Keeps false a s) :
    Keeps false a (quantRows s c q rm d dcol y6 zero rows).1 := by
  unfold quantRows
  try dsimp only
  repeat' first
    | (with_reducible first
        | assumption | apply keeps_writeQRow | apply keeps_writeNat | apply keeps_writeEntries | apply keeps_foldl)
    | intro _
    | split
    | refine keeps_of_fst ?_ ‹_›

theorem keeps_quantRun {a : State} {c : Fin 192} {w : CoreWord} {s : State} {x : CoreSt} (h0 : Keeps false a s) :
    KeepsCoreOut false a (quantRun c w s x) := by
  unfold quantRun
  try dsimp only
  repeat' first
    | (with_reducible first
        | assumption | apply keeps_withTile | apply keeps_withTiles | apply keeps_demandAll | apply
          keeps_quantRows | apply keepsCoreOut_wait | apply keepsCoreOut_stop | apply keepsCoreOut_done |
          apply keepsCoreOut_jump | apply keepsCoreOut_ended | apply keepsCoreOut_hold | apply
          keepsCoreOut_queued | apply keepsCoreOut_poisoned)
    | intro _
    | split
    | refine keeps_of_CoreOut_done ?_ ‹_›
    | refine keeps_of_CoreOut_jump ?_ ‹_›
    | refine keeps_of_CoreOut_ended ?_ ‹_›
    | refine keeps_of_CoreOut_hold ?_ ‹_›
    | refine keeps_of_CoreOut_queued ?_ ‹_›
    | refine keeps_of_CoreOut_poisoned ?_ ‹_›
    | refine keeps_of_fst ?_ ‹_›

theorem keeps_vquantRun {a : State} {c : Fin 192} {w : CoreWord} {s : State} {x : CoreSt} (h0 : Keeps false a s) :
    KeepsCoreOut false a (vquantRun c w s x) := by
  unfold vquantRun
  try dsimp only
  repeat' first
    | (with_reducible first
        | assumption | apply keeps_withTile | apply keeps_withTiles | apply keeps_demandAll | apply
          keeps_quantRows | apply keepsCoreOut_wait | apply keepsCoreOut_stop | apply keepsCoreOut_done |
          apply keepsCoreOut_jump | apply keepsCoreOut_ended | apply keepsCoreOut_hold | apply
          keepsCoreOut_queued | apply keepsCoreOut_poisoned)
    | intro _
    | split
    | refine keeps_of_CoreOut_done ?_ ‹_›
    | refine keeps_of_CoreOut_jump ?_ ‹_›
    | refine keeps_of_CoreOut_ended ?_ ‹_›
    | refine keeps_of_CoreOut_hold ?_ ‹_›
    | refine keeps_of_CoreOut_queued ?_ ‹_›
    | refine keeps_of_CoreOut_poisoned ?_ ‹_›
    | refine keeps_of_fst ?_ ‹_›

theorem keeps_accldRun {same : Bool} {a : State} {c : Fin 192} {w : CoreWord} {s : State} {x : CoreSt} (h0 : Keeps same a s) :
    KeepsCoreOut same a (accldRun c w s x) := by
  unfold accldRun
  try dsimp only
  repeat' first
    | (with_reducible first
        | assumption | apply keeps_withTile | apply keeps_withTiles | apply keeps_modCore | apply keeps_foldl
          | apply keepsCoreOut_wait | apply keepsCoreOut_stop | apply keepsCoreOut_done | apply
          keepsCoreOut_jump | apply keepsCoreOut_ended | apply keepsCoreOut_hold | apply keepsCoreOut_queued |
          apply keepsCoreOut_poisoned | apply keeps_foldl)
    | intro _
    | split
    | refine keeps_of_CoreOut_done ?_ ‹_›
    | refine keeps_of_CoreOut_jump ?_ ‹_›
    | refine keeps_of_CoreOut_ended ?_ ‹_›
    | refine keeps_of_CoreOut_hold ?_ ‹_›
    | refine keeps_of_CoreOut_queued ?_ ‹_›
    | refine keeps_of_CoreOut_poisoned ?_ ‹_›

theorem keeps_execAccld {same : Bool} {a : State} {c : Fin 192} {w : CoreWord} {s : State} (h0 : Keeps same a s) :
    KeepsRes same a (execAccld c w s) := by
  unfold execAccld
  try dsimp only
  repeat' first
    | (with_reducible first
        | assumption | apply keeps_issueTile | apply keeps_accldRun | apply keepsRes_next | apply
          keepsRes_fault | apply keepsRes_refused | apply keepsCoreOut_wait | apply keepsCoreOut_stop | apply
          keepsCoreOut_done | apply keepsCoreOut_jump | apply keepsCoreOut_ended | apply keepsCoreOut_hold |
          apply keepsCoreOut_queued | apply keepsCoreOut_poisoned)
    | intro _
    | split
    | refine keeps_of_CoreOut_done ?_ ‹_›
    | refine keeps_of_CoreOut_jump ?_ ‹_›
    | refine keeps_of_CoreOut_ended ?_ ‹_›
    | refine keeps_of_CoreOut_hold ?_ ‹_›
    | refine keeps_of_CoreOut_queued ?_ ‹_›
    | refine keeps_of_CoreOut_poisoned ?_ ‹_›

theorem keeps_execMma {same : Bool} {a : State} {c : Fin 192} {w : CoreWord} {s : State} (h0 : Keeps same a s) :
    KeepsRes same a (execMma c w s) := by
  unfold execMma
  try dsimp only
  repeat' first
    | (with_reducible first
        | assumption | apply keeps_issueTile | apply keeps_mmaRun | apply keepsRes_next | apply keepsRes_fault
          | apply keepsRes_refused | apply keepsCoreOut_wait | apply keepsCoreOut_stop | apply
          keepsCoreOut_done | apply keepsCoreOut_jump | apply keepsCoreOut_ended | apply keepsCoreOut_hold |
          apply keepsCoreOut_queued | apply keepsCoreOut_poisoned)
    | intro _
    | split
    | refine keeps_of_CoreOut_done ?_ ‹_›
    | refine keeps_of_CoreOut_jump ?_ ‹_›
    | refine keeps_of_CoreOut_ended ?_ ‹_›
    | refine keeps_of_CoreOut_hold ?_ ‹_›
    | refine keeps_of_CoreOut_queued ?_ ‹_›
    | refine keeps_of_CoreOut_poisoned ?_ ‹_›

theorem keeps_execQuant {a : State} {c : Fin 192} {w : CoreWord} {s : State} (h0 : Keeps false a s) :
    KeepsRes false a (execQuant c w s) := by
  unfold execQuant
  try dsimp only
  repeat' first
    | (with_reducible first
        | assumption | apply keeps_issueTile | apply keeps_quantRun | apply keepsRes_next | apply
          keepsRes_fault | apply keepsRes_refused | apply keepsCoreOut_wait | apply keepsCoreOut_stop | apply
          keepsCoreOut_done | apply keepsCoreOut_jump | apply keepsCoreOut_ended | apply keepsCoreOut_hold |
          apply keepsCoreOut_queued | apply keepsCoreOut_poisoned)
    | intro _
    | split
    | refine keeps_of_CoreOut_done ?_ ‹_›
    | refine keeps_of_CoreOut_jump ?_ ‹_›
    | refine keeps_of_CoreOut_ended ?_ ‹_›
    | refine keeps_of_CoreOut_hold ?_ ‹_›
    | refine keeps_of_CoreOut_queued ?_ ‹_›
    | refine keeps_of_CoreOut_poisoned ?_ ‹_›

theorem keeps_execVquant {a : State} {c : Fin 192} {w : CoreWord} {s : State} (h0 : Keeps false a s) :
    KeepsRes false a (execVquant c w s) := by
  unfold execVquant
  try dsimp only
  repeat' first
    | (with_reducible first
        | assumption | apply keeps_issueTile | apply keeps_vquantRun | apply keepsRes_next | apply
          keepsRes_fault | apply keepsRes_refused | apply keepsCoreOut_wait | apply keepsCoreOut_stop | apply
          keepsCoreOut_done | apply keepsCoreOut_jump | apply keepsCoreOut_ended | apply keepsCoreOut_hold |
          apply keepsCoreOut_queued | apply keepsCoreOut_poisoned)
    | intro _
    | split
    | refine keeps_of_CoreOut_done ?_ ‹_›
    | refine keeps_of_CoreOut_jump ?_ ‹_›
    | refine keeps_of_CoreOut_ended ?_ ‹_›
    | refine keeps_of_CoreOut_hold ?_ ‹_›
    | refine keeps_of_CoreOut_queued ?_ ‹_›
    | refine keeps_of_CoreOut_poisoned ?_ ‹_›

end Sys2Proof.Machine
end

