-- ==== Sys2Proof/Laws/KeepsChain.lean ====
section
/-! SUPPORT. What the operations of Machine/Chain.lean keep. -/

namespace Sys2Proof.Machine

theorem keeps_foldl_run {m : Bool} {β : Type} {a : State} {f : ChainRun → β → ChainRun} {xs : List β}
    (hf : ∀ r x, Keeps m a r.s → Keeps m a (f r x).s) : ∀ {r : ChainRun}, Keeps m a r.s → Keeps m a (xs.foldl f r).s := by
  induction xs with
  | nil => intro r h; exact h
  | cons x xs ih => intro r h; exact ih (hf r x h)

theorem keeps_foldl_runs {m : Bool} {β γ : Type} {a : State} {f : ChainRun × γ → β → ChainRun × γ} {xs : List β}
    (hf : ∀ r x, Keeps m a r.1.s → Keeps m a (f r x).1.s) : ∀ {r : ChainRun × γ}, Keeps m a r.1.s → Keeps m a (xs.foldl f r).1.s := by
  induction xs with
  | nil => intro r h; exact h
  | cons x xs ih => intro r h; exact ih (hf r x h)

theorem keeps_zeroRecords {a s : State} {c : Fin 192} {p : ChainProg} {mode : ChainMode} (h0 : Keeps false a s) :
    Keeps false a (zeroRecords s c p mode) := by
  unfold zeroRecords
  try dsimp only
  repeat' first
    | (with_reducible first
        | assumption | apply keeps_writeNat | apply keeps_foldl)
    | intro _
    | split

theorem keeps_runH1 {same : Bool} {a s : State} {c : Fin 192} {p : ChainProg} {mode : ChainMode} {t : Nat} (h0 : Keeps same a s)
    :
    Keeps same a (runH1 s c p mode t) := by
  unfold runH1
  try dsimp only
  repeat' first
    | (with_reducible first
        | assumption | apply keeps_countInvalid | apply keeps_putCore)
    | intro _
    | split

theorem keeps_runM2 {same : Bool} {a s : State} {c : Fin 192} {p : ChainProg} {mode : ChainMode} {t k : Nat} {keep drain :
    Bool} {cr : List Nat} (h0 : Keeps same a s) :
    Keeps same a (runM2 s c p mode t k keep drain cr) := by
  unfold runM2
  try dsimp only
  repeat' first
    | (with_reducible first
        | assumption | apply keeps_foldl | apply keeps_countInvalid | apply keeps_putCore | apply keeps_foldl)
    | intro _
    | split

theorem keeps_writeDst {a s : State} {c : Fin 192} {p : ChainProg} {t : Nat} {rows : List (List Nat)} (h0 : Keeps false a s) :
    Keeps false a (writeDst s c p t rows) := by
  unfold writeDst
  try dsimp only
  repeat' first
    | (with_reducible first
        | assumption | apply keeps_writeElems | apply keeps_foldl)
    | intro _
    | split

theorem keeps_writeRowState {a s : State} {c : Fin 192} {p : ChainProg} {mx sm : List Nat} (h0 : Keeps false a s) :
    Keeps false a (writeRowState s c p mx sm) := by
  unfold writeRowState
  try dsimp only
  repeat' first
    | (with_reducible first
        | assumption | apply keeps_foldl | apply keeps_writeBytes | apply keeps_foldl)
    | intro _
    | split

theorem keeps_runStage {a : State} {c : Fin 192} {p : ChainProg} {mode : ChainMode} {t i : Nat} {r : ChainRun} (h0 : Keeps false
    a (r).s) :
    Keeps false a (runStage c p mode t i r).s := by
  unfold runStage
  dsimp only
  split
  · split <;> (try split) <;> exact h0
  · split <;> exact h0
  · exact h0
  · exact h0
  · exact keeps_quantRows h0
  · exact h0
  · exact h0
  · exact h0

theorem keeps_runIter {a : State} {c : Fin 192} {p : ChainProg} {mode : ChainMode} {t : Nat} {first last : Bool} {r : ChainRun}
    (h0 : Keeps false a (r).s) :
    Keeps false a (runIter c p mode t first last r).s := by
  unfold runIter
  dsimp only
  have k := fun n => keeps_foldl_run (xs := if hasM2 p then segStages p 1 else segStages p 2) (fun r i h => keeps_runStage (c := c) (p := p) (mode := mode) (t := t) (i := i) h)
    (r := ⟨runH1 r.s c p mode t, readH1 (runH1 r.s c p mode t) c p n, r.mx, r.sm, r.mx.map fun _ => f32One, r.mx.map fun _ => 0⟩) (keeps_runH1 h0)
  split
  · exact keeps_runM2 (k _)
  · exact keeps_writeDst (k _)

theorem keeps_runIters {a : State} {c : Fin 192} {p : ChainProg} {mode : ChainMode} {r : ChainRun} (h0 : Keeps false a (r).s) :
    Keeps false a (runIters c p mode r).s := by
  unfold runIters
  exact keeps_foldl_runs (fun _ _ h => keeps_runIter h) (r := (r, 0)) h0

theorem keeps_runChain {a s : State} {c : Fin 192} {p : ChainProg} {mode : ChainMode} (h0 : Keeps false a s) :
    Keeps false a (runChain s c p mode) := by
  unfold runChain
  dsimp only
  have k := keeps_runIters (c := c) (p := p) (mode := mode) (r := ⟨zeroRecords s c p mode, [], rowInit s c p kRowmax f32NegInf, rowInit s c p kRowsum 0, [], []⟩)
    (keeps_zeroRecords h0)
  refine keeps_writeRowState ?_
  split
  · exact k
  · refine keeps_writeDst (keeps_foldl_run (fun _ _ h => keeps_runStage h) ?_)
    dsimp only
    split
    · exact keeps_runM2 k
    · exact k

theorem keeps_chainMeets {same : Bool} {a : State} {x : CoreSt} {t : State} {addr : Nat} (h0 : Keeps same a t) :
    KeepsCoreOut same a (chainMeets x t addr) := by
  unfold chainMeets
  try dsimp only
  repeat' first
    | (with_reducible first
        | assumption | apply keepsCoreOut_wait | apply keepsCoreOut_stop | apply keepsCoreOut_done | apply
          keepsCoreOut_jump | apply keepsCoreOut_ended | apply keepsCoreOut_hold | apply keepsCoreOut_queued |
          apply keepsCoreOut_poisoned)
    | intro _
    | split
    | refine keeps_of_CoreOut_done ?_ ‹_›
    | refine keeps_of_CoreOut_jump ?_ ‹_›
    | refine keeps_of_CoreOut_ended ?_ ‹_›
    | refine keeps_of_CoreOut_hold ?_ ‹_›
    | refine keeps_of_CoreOut_queued ?_ ‹_›
    | refine keeps_of_CoreOut_poisoned ?_ ‹_›

theorem keeps_chainRun {a : State} {c : Fin 192} {w : CoreWord} {s : State} {x : CoreSt} (h0 : Keeps false a s) :
    KeepsCoreOut false a (chainRun c w s x) := by
  unfold chainRun
  try dsimp only
  repeat' first
    | (with_reducible first
        | assumption | apply keeps_demandAll | apply keeps_chainMeets | apply keeps_runChain | apply
          keeps_modCore | apply keepsCoreOut_wait | apply keepsCoreOut_stop | apply keepsCoreOut_done | apply
          keepsCoreOut_jump | apply keepsCoreOut_ended | apply keepsCoreOut_hold | apply keepsCoreOut_queued |
          apply keepsCoreOut_poisoned)
    | intro _
    | split
    | refine keeps_of_CoreOut_done ?_ ‹_›
    | refine keeps_of_CoreOut_jump ?_ ‹_›
    | refine keeps_of_CoreOut_ended ?_ ‹_›
    | refine keeps_of_CoreOut_hold ?_ ‹_›
    | refine keeps_of_CoreOut_queued ?_ ‹_›
    | refine keeps_of_CoreOut_poisoned ?_ ‹_›

theorem keeps_execChain {a : State} {c : Fin 192} {w : CoreWord} {s : State} (h0 : Keeps false a s) :
    KeepsRes false a (execChain c w s) := by
  unfold execChain
  try dsimp only
  repeat' first
    | (with_reducible first
        | assumption | apply keeps_issueTile | apply keeps_chainRun | apply keepsRes_next | apply
          keepsRes_fault | apply keepsRes_refused | apply keepsCoreOut_wait | apply keepsCoreOut_stop | apply
          keepsCoreOut_done | apply keepsCoreOut_jump | apply keepsCoreOut_ended | apply keepsCoreOut_hold |
          apply keepsCoreOut_queued | apply keepsCoreOut_poisoned)
    | intro _
    | split
    | refine keeps_of_CoreOut_done ?_ ‹_›
    | refine keeps_of_CoreOut_jump ?_ ‹_›
    | refine keeps_of_CoreOut_ended ?_ ‹_›
    | refine keeps_of_CoreOut_hold ?_ ‹_›
    | refine keeps_of_CoreOut_queued ?_ ‹_›
    | refine keeps_of_CoreOut_poisoned ?_ ‹_›

end Sys2Proof.Machine
end

