-- ==== Sys2Proof/Laws/KeepsGuard.lean ====
section
/-! SUPPORT. What the operations of Machine/Guard.lean keep. -/

namespace Sys2Proof.Machine

theorem keeps_noteTrip1 {same : Bool} {a s : State} {id cl record layer n : Nat} {cmp : BitVec 5} {b : BitVec 4} (h0 : Keeps
    same a s) :
    Keeps same a (noteTrip1 s id cl record layer n cmp b) := by
  unfold noteTrip1
  try dsimp only
  repeat' first
    | (with_reducible first
        | assumption | apply keeps_updCmd)
    | intro _
    | split

theorem keeps_beginReplay {a s : State} {c : Fin 192} {wide : Bool} {g : Nat} {ps : List Nat} (h0 : Keeps false a s) :
    Keeps false a (beginReplay s c wide g ps) := by
  unfold beginReplay
  try dsimp only
  repeat' first
    | (with_reducible first
        | assumption | apply keeps_squash | apply keeps_modCore | apply keeps_foldl | apply keeps_queueChain |
          apply given_none | apply given_some | apply keeps_foldl)
    | intro _
    | split

theorem keeps_bumpGuards {same : Bool} {a s : State} {is : List Nat} (h0 : Keeps same a s) :
    Keeps same a (bumpGuards s is) := by
  unfold bumpGuards
  try dsimp only
  repeat' first
    | (with_reducible first
        | assumption | simp only [keeps_mk_iff])
    | intro _
    | split

theorem keeps_noteTrip {same : Bool} {a s : State} {id cl record layer n : Nat} {cmp : BitVec 5} {b : BitVec 4} (h0 : Keeps
    same a s) :
    Keeps same a (noteTrip s id cl record layer n cmp b) := by
  unfold noteTrip
  try dsimp only
  repeat' first
    | (with_reducible first
        | assumption | apply keeps_noteTrip1)
    | intro _
    | split

theorem keeps_restartCont {a s : State} {c : Fin 192} (h0 : Keeps false a s) :
    Keeps false a (restartCont s c) := by
  unfold restartCont
  try dsimp only
  repeat' first
    | (with_reducible first
        | assumption | apply keeps_demandAll | apply keeps_modCore | apply keeps_faultUnit | apply
          keeps_runChain)
    | intro _
    | split

theorem keeps_resolveCore {same : Bool} {a s : State} {c : Fin 192} (h0 : Keeps same a s) :
    Keeps same a (resolveCore s c) := by
  unfold resolveCore
  try dsimp only
  repeat' first
    | (with_reducible first
        | assumption | apply keeps_modCore | apply keeps_settleCore)
    | intro _
    | split

theorem keeps_resolveAll {same : Bool} {a s : State} {ps : List Nat} (h0 : Keeps same a s) :
    Keeps same a (resolveAll s ps) := by
  unfold resolveAll
  try dsimp only
  repeat' first
    | (with_reducible first
        | assumption | apply keeps_resolveCore | apply keeps_foldl)
    | intro _
    | split

theorem keeps_endReplays {a s : State} {d id record ordinal g : Nat} {parts : List Nat} (h0 : Keeps false a s) :
    Keeps false a (endReplays s d id record ordinal g parts) := by
  unfold endReplays
  try dsimp only
  repeat' first
    | (with_reducible first
        | assumption | apply keeps_noteTrip | apply keeps_bumpGuards | apply keeps_writeNat | apply
          keeps_foldl | apply keeps_restartCont | apply keeps_resolveAll | apply keeps_foldl)
    | intro _
    | split

theorem keeps_traceVerdict {same : Bool} {a s : State} {ps : List Nat} {record : Nat} {trip : Bool} (h0 : Keeps same a s) :
    Keeps same a (traceVerdict s ps record trip) := by
  unfold traceVerdict
  try dsimp only
  repeat' first
    | (with_reducible first
        | assumption | apply keeps_traceCore | apply keeps_foldl)
    | intro _
    | split

theorem keeps_execGuardVerdict {a : State} {c : Fin 192} {s : State} (h0 : Keeps false a s) :
    KeepsRes false a (execGuardVerdict c s) := by
  unfold execGuardVerdict
  try dsimp only
  repeat' first
    | (with_reducible first
        | assumption | apply keeps_foldl | apply keeps_failPart | apply keeps_demand | apply keeps_faultUnit |
          apply keeps_writeNat | apply keeps_traceVerdict | apply keeps_resolveAll | apply keeps_bumpGuards |
          apply keeps_noteTrip | apply keeps_beginReplay | apply keepsRes_next | apply keepsRes_fault | apply
          keepsRes_refused | apply keeps_foldl)
    | intro _
    | split

theorem keeps_noteReplay {same : Bool} {a s : State} {id ns : Nat} {once : Bool} (h0 : Keeps same a s) :
    Keeps same a (noteReplay s id ns once) := by
  unfold noteReplay
  try dsimp only
  repeat' first
    | (with_reducible first
        | assumption | simp only [keeps_mk_iff])
    | intro _
    | split

theorem keeps_rerun {a s : State} {c : Fin 192} {p : PendChain} {wide : Bool} {g : Nat} {ps : List Nat} (h0 : Keeps false a s)
    :
    Keeps false a (rerun s c p wide g ps) := by
  unfold rerun
  try dsimp only
  repeat' first
    | (with_reducible first
        | assumption | apply keeps_restoreChain | apply keeps_runChain | apply keeps_demandAll | apply
          keeps_modCore)
    | intro _
    | split

theorem keeps_execReplayEnd {a : State} {c : Fin 192} {s : State} (h0 : Keeps false a s) :
    KeepsRes false a (execReplayEnd c s) := by
  unfold execReplayEnd
  try dsimp only
  repeat' first
    | (with_reducible first
        | assumption | apply keeps_modCore | apply keeps_noteReplay | apply keeps_endReplays | apply
          keeps_failPart | apply keeps_rerun | apply keepsRes_next | apply keepsRes_fault | apply
          keepsRes_refused)
    | intro _
    | split

end Sys2Proof.Machine
end

