-- ==== Sys2Proof/Laws/KeepsLaunch.lean ====
section
/-! SUPPORT. What the operations of Machine/Launch.lean keep. -/

namespace Sys2Proof.Machine

theorem keeps_startNode {same : Bool} {a s : State} {c : CmdRec} {g : GraphRun} {i : Nat} (h0 : Keeps same a s) :
    Keeps same a (startNode s c g i) := by
  unfold startNode
  try dsimp only
  repeat' first
    | (with_reducible first
        | assumption | apply keeps_demand | apply keeps_updCmd | apply keeps_addCmd | apply keeps_finishCmd)
    | intro _
    | split

theorem keeps_pumpGraph {same : Bool} {a : State} {fuel : Nat} {s : State} {id : Nat} (h0 : Keeps same a s) :
    Keeps same a (pumpGraph fuel s id) := by
  induction fuel generalizing s id with
  | zero => first | exact h0 | exact given_none
  | succ fuel ih =>
  unfold pumpGraph
  try dsimp only
  repeat' first
    | (with_reducible first
        | assumption | apply ih | apply keeps_startNode)
    | intro _
    | split

theorem keeps_driveGraph {same : Bool} {a s : State} {id : Nat} (h0 : Keeps same a s) :
    Keeps same a (driveGraph s id) := by
  unfold driveGraph
  try dsimp only
  repeat' first
    | (with_reducible first
        | assumption | apply keeps_pumpGraph | apply keeps_finishCmd)
    | intro _
    | split

theorem keeps_flagEffect {a : State} {add : Bool} {s : State} {c : CmdRec} {u : Sys2Proof.PUnit} (h0 : Keeps false a s) :
    Keeps false a (flagEffect add s c u) := by
  unfold flagEffect
  try dsimp only
  repeat' first
    | (with_reducible first
        | assumption | apply keeps_touchAddr | apply keeps_finishCmd | apply keeps_writeNat | apply
          keeps_demand)
    | intro _
    | split

theorem keeps_flagCmd {a : State} {add : Bool} {id op : Nat} {s : State} (h0 : Keeps false a s) :
    KeepsRes false a (flagCmd add id op s) := by
  unfold flagCmd
  try dsimp only
  repeat' first
    | (with_reducible first
        | assumption | apply keeps_runCmd | apply keeps_flagEffect | apply keepsRes_next | apply keepsRes_fault |
          apply keepsRes_refused)
    | intro _
    | split

theorem keeps_execFlagAdd {a : State} {id : Nat} {s : State} (h0 : Keeps false a s) :
    KeepsRes false a (execFlagAdd id s) := by
  unfold execFlagAdd
  try dsimp only
  repeat' first
    | (with_reducible first
        | assumption | apply keeps_flagCmd | apply keepsRes_next | apply keepsRes_fault | apply keepsRes_refused)
    | intro _
    | split

theorem keeps_execFlagSet {a : State} {id : Nat} {s : State} (h0 : Keeps false a s) :
    KeepsRes false a (execFlagSet id s) := by
  unfold execFlagSet
  try dsimp only
  repeat' first
    | (with_reducible first
        | assumption | apply keeps_flagCmd | apply keepsRes_next | apply keepsRes_fault | apply keepsRes_refused)
    | intro _
    | split

theorem keeps_flagWaitCheck {same : Bool} {a s : State} {c : CmdRec} {u : Sys2Proof.PUnit} (h0 : Keeps same a s) :
    Keeps same a (flagWaitCheck s c u) := by
  unfold flagWaitCheck
  try dsimp only
  repeat' first
    | (with_reducible first
        | assumption | apply keeps_finishCmd | apply keeps_demand)
    | intro _
    | split

theorem keeps_execFlagWait {same : Bool} {a : State} {id : Nat} {s : State} (h0 : Keeps same a s) :
    KeepsRes same a (execFlagWait id s) := by
  unfold execFlagWait
  try dsimp only
  repeat' first
    | (with_reducible first
        | assumption | apply keeps_flagWaitCheck | apply keeps_runCmd | apply keepsRes_next | apply keepsRes_fault |
          apply keepsRes_refused)
    | intro _
    | split

theorem keeps_execGraphRun {same : Bool} {a : State} {id : Nat} {s : State} (h0 : Keeps same a s) :
    KeepsRes same a (execGraphRun id s) := by
  unfold execGraphRun
  try dsimp only
  repeat' first
    | (with_reducible first
        | assumption | apply keeps_driveGraph | apply keeps_runCmd | apply keeps_updCmd | apply keeps_finishCmd |
          apply keepsRes_next | apply keepsRes_fault | apply keepsRes_refused)
    | intro _
    | split

theorem keeps_startCore {a s : State} {c : CmdRec} {n rank count : Nat} (h0 : Keeps false a s) :
    Keeps false a (startCore s c n rank count) := by
  unfold startCore
  try dsimp only
  repeat' first
    | (with_reducible first
        | assumption | apply keeps_touchDoze | apply keeps_writeBytes | apply keeps_modCore)
    | intro _
    | split

theorem keeps_startCores {a s : State} {c : CmdRec} {cores : List Nat} (h0 : Keeps false a s) :
    Keeps false a (startCores s c cores) := by
  unfold startCores
  try dsimp only
  repeat' first
    | (with_reducible first
        | assumption | apply keeps_updCmd | apply keeps_foldl | apply keeps_startCore | apply keeps_endPart |
          apply keeps_foldl)
    | intro _
    | split

theorem keeps_startGroupLaunch {a s : State} {c : CmdRec} {g : Nat} (h0 : Keeps false a s) :
    Keeps false a (startGroupLaunch s c g) := by
  unfold startGroupLaunch
  try dsimp only
  repeat' first
    | (with_reducible first
        | assumption | apply keeps_updCmd | apply keeps_foldl | apply keeps_sendCmd | apply keeps_addCmd |
          apply keeps_replyGroup | apply keeps_startCores | apply keeps_foldl)
    | intro _
    | split

theorem keeps_execKernelLaunch {a : State} {id : Nat} {s : State} (h0 : Keeps false a s) :
    KeepsRes false a (execKernelLaunch id s) := by
  unfold execKernelLaunch
  try dsimp only
  repeat' first
    | (with_reducible first
        | assumption | apply keeps_startCmd | apply keeps_startGroupLaunch | apply keeps_finishCmd | apply
          keeps_startCores | apply keepsRes_next | apply keepsRes_fault | apply keepsRes_refused | apply
          keepsStart_wait | apply keepsStart_ended | apply keepsStart_go)
    | intro _
    | split
    | refine keeps_of_Start_ended ?_ ‹_›
    | refine keeps_of_Start_go ?_ ‹_›

end Sys2Proof.Machine
end

