-- ==== Sys2Proof/Laws/KeepsSeq.lean ====
section
/-! SUPPORT. What the operations of Machine/Seq.lean keep. -/

namespace Sys2Proof.Machine

theorem keeps_allocSprouts {a s : State} {g : BitVec 256} {ctx : Nat} (h0 : Keeps false a s) :
    Keeps false a (allocSprouts s g ctx).2 := by
  unfold allocSprouts
  refine keeps_foldl_snd (s := (true, s)) (fun o l h => ?_) h0
  split
  · exact h
  · split
    · exact keeps_of_snd (keeps_allocFrame h) ‹_›
    · exact keeps_charge (keeps_writePte (keeps_of_snd (keeps_allocFrame h) ‹_›))

theorem keeps_announce {same : Bool} {a s : State} {c : BitVec 1024} (h0 : Keeps same a s) :
    Keeps same a (announce s c) := by
  unfold announce
  try dsimp only
  repeat' first
    | (with_reducible first
        | assumption | apply keeps_sendMsg)
    | intro _
    | split

theorem keeps_commitCtx {a s : State} {c : CmdRec} {g : BitVec 256} {f : BitVec 1024} (h0 : Keeps false a s) :
    Keeps false a (commitCtx s c g f).2 := by
  unfold commitCtx
  try dsimp only
  repeat' first
    | (with_reducible first
        | assumption | apply keeps_commitPath)
    | intro _
    | split
    | refine keeps_of_snd ?_ ‹_›

theorem keeps_logPrompt {a s : State} {g : BitVec 256} {f : BitVec 1024} {ctx : Nat} {r r' : CtxRec} {toks : List Nat} (h0 :
    Keeps false a s) :
    Keeps false a (logPrompt s g f ctx r r' toks) := by
  unfold logPrompt
  try dsimp only
  repeat' first
    | (with_reducible first
        | assumption | apply keeps_setCtx | apply keeps_writeLog)
    | intro _
    | split

theorem keeps_commitPrefill {a s : State} {g : BitVec 256} {f : BitVec 1024} {c : CmdRec} {ns : List Nat} (h0 : Keeps false a s)
    :
    Keeps false a (commitPrefill s g f c ns) := by
  unfold commitPrefill
  try dsimp only
  repeat' first
    | (with_reducible first
        | assumption | apply keeps_takeHits | apply keeps_logPrompt)
    | intro _
    | split

theorem keeps_zeroFill {a s : State} {r : Rng} (h0 : Keeps false a s) :
    Keeps false a (zeroFill s r) := by
  unfold zeroFill
  try dsimp only
  repeat' first
    | (with_reducible first
        | assumption | apply keeps_writeBytes)
    | intro _
    | split

theorem keeps_configSeq {a s : State} {ps : List (BitVec 512)} (h0 : Keeps false a s) :
    Keeps false a (configSeq s ps).2 := by
  unfold configSeq
  try dsimp only
  repeat' first
    | (with_reducible first
        | assumption | apply keeps_setSeq | apply keeps_zeroFill | apply keeps_announce)
    | intro _
    | split
    | refine keeps_of_snd ?_ ‹_›

theorem keeps_forkPage {a s : State} {g : BitVec 256} {src sgrp : Nat} {lp : Nat × Nat} {x : Nat} (h0 : Keeps false a s) :
    Keeps false a (forkPage s g src sgrp lp x).2 := by
  unfold forkPage
  split
  · exact keeps_setFrame h0
  · split
    · exact keeps_of_snd (keeps_publishFrame h0) ‹_›
    · dsimp only; exact keeps_writePte (keeps_of_snd (keeps_publishFrame h0) ‹_›)

theorem keeps_forkPages {a s : State} {g : BitVec 256} {src dst sgrp : Nat} (h0 : Keeps false a s) :
    Keeps false a (forkPages s g src dst sgrp).2 := by
  unfold forkPages
  refine keeps_foldl_snd (s := (true, s)) (fun o lp h => ?_) h0
  dsimp only
  split
  · exact h
  · split
    · split
      · exact keeps_of_snd (keeps_forkPage h) ‹_›
      · exact keeps_charge (keeps_writePte (keeps_of_snd (keeps_forkPage h) ‹_›))
    · dsimp only
      split
      · exact h
      · exact keeps_writePte h

theorem keeps_createCtx {a s : State} {c : CmdRec} {g : BitVec 256} {f : BitVec 1024} (h0 : Keeps false a s) :
    Keeps false a (createCtx s c g f).2 := by
  unfold createCtx
  dsimp only
  split
  · exact h0
  · split
    · exact keeps_setCtx h0
    · split
      · exact h0
      · split
        · exact h0
        · split
          · exact h0
          · split
            · exact keeps_demand h0
            · split
              · exact keeps_keepRetired (keeps_demand h0) (keeps_of_snd (keeps_forkPages (keeps_setCtx (keeps_demand h0))) ‹_›)
              · exact keeps_writeLog (keeps_of_snd (keeps_forkPages (keeps_setCtx (keeps_demand h0))) ‹_›)

theorem keeps_destroyCtx {a s : State} {ctx : Nat} {g : BitVec 256} (h0 : Keeps false a s) :
    Keeps false a (destroyCtx s ctx g).2 := by
  unfold destroyCtx
  try dsimp only
  repeat' first
    | (with_reducible first
        | assumption | apply keeps_releasePages | apply keeps_retractDraft | apply keeps_setCtx)
    | intro _
    | split
    | refine keeps_of_snd ?_ ‹_›

theorem keeps_draftCtx {a s : State} {c : CmdRec} {g : BitVec 256} (h0 : Keeps false a s) :
    Keeps false a (draftCtx s c g).2 := by
  unfold draftCtx
  try dsimp only
  repeat' first
    | (with_reducible first
        | assumption | apply keeps_allocSprouts | apply keeps_keepRetired | apply keeps_updCtx)
    | intro _
    | split
    | refine keeps_of_snd ?_ ‹_›

theorem keeps_evictCtx {a s : State} {ctx : Nat} {g : BitVec 256} (h0 : Keeps false a s) :
    Keeps false a (evictCtx s ctx g).2 := by
  unfold evictCtx
  try dsimp only
  repeat' first
    | (with_reducible first
        | assumption | apply keeps_updCtx | apply keeps_releasePages | apply keeps_retractFirst)
    | intro _
    | split
    | refine keeps_of_snd ?_ ‹_›

theorem keeps_seqCtxCmd {same : Bool} {a : State} {id op : Nat} {s : State} {also : CmdRec → List Nat} {eff : State → CmdRec →
    BitVec 256 → BitVec 1024 → Nat × Nat × State} (h0 : Keeps same a s) (h1 : ∀ (z0 : State) (z1 : CmdRec) (z2 : BitVec 256) (z3
    : BitVec 1024), Keeps same a z0 → Keeps same a (eff z0 z1 z2 z3).2.2) :
    KeepsRes same a (seqCtxCmd id op s also eff) := by
  unfold seqCtxCmd
  try dsimp only
  repeat' first
    | (with_reducible first
        | assumption | apply h1 | apply keeps_runCmd | apply keeps_finishCmd | apply keepsRes_next | apply
          keepsRes_fault | apply keepsRes_refused)
    | intro _
    | split
    | refine keeps_of_trd ?_ ‹_›

theorem keeps_execPrefixPublish {a : State} {id : Nat} {s : State} (h0 : Keeps false a s) :
    KeepsRes false a (execPrefixPublish id s) := by
  unfold execPrefixPublish
  try dsimp only
  repeat' first
    | (with_reducible first
        | assumption | apply keeps_seqCtxCmd | apply keeps_publishFrom | apply keepsRes_next | apply keepsRes_fault
          | apply keepsRes_refused)
    | intro _
    | split
    | refine keeps_of_trd ?_ ‹_›

theorem keeps_execSeqConfig {a : State} {id : Nat} {s : State} (h0 : Keeps false a s) :
    KeepsRes false a (execSeqConfig id s) := by
  unfold execSeqConfig
  try dsimp only
  repeat' first
    | (with_reducible first
        | assumption | apply keeps_runCmd | apply keeps_configSeq | apply keeps_finishCmd | apply keepsRes_next |
          apply keepsRes_fault | apply keepsRes_refused)
    | intro _
    | split
    | refine keeps_of_snd ?_ ‹_›

theorem keeps_outcome {same : Bool} {a : State} {x : Nat × State} (h : Keeps same a x.2) :
    Keeps same a (outcome x).2.2 := by
  exact h

theorem keeps_execSeqCreate {a : State} {id : Nat} {s : State} (h0 : Keeps false a s) :
    KeepsRes false a (execSeqCreate id s) := by
  unfold execSeqCreate
  try dsimp only
  repeat' first
    | (with_reducible first
        | assumption | apply keeps_seqCtxCmd | apply keeps_outcome | apply keeps_createCtx | apply
          keepsRes_next | apply keepsRes_fault | apply keepsRes_refused)
    | intro _
    | split
    | refine keeps_of_trd ?_ ‹_›
    | refine keeps_of_snd ?_ ‹_›

theorem keeps_execSeqDestroy {a : State} {id : Nat} {s : State} (h0 : Keeps false a s) :
    KeepsRes false a (execSeqDestroy id s) := by
  unfold execSeqDestroy
  try dsimp only
  repeat' first
    | (with_reducible first
        | assumption | apply keeps_seqCtxCmd | apply keeps_outcome | apply keeps_destroyCtx | apply
          keepsRes_next | apply keepsRes_fault | apply keepsRes_refused)
    | intro _
    | split
    | refine keeps_of_trd ?_ ‹_›
    | refine keeps_of_snd ?_ ‹_›

theorem keeps_execSeqDraft {a : State} {id : Nat} {s : State} (h0 : Keeps false a s) :
    KeepsRes false a (execSeqDraft id s) := by
  unfold execSeqDraft
  try dsimp only
  repeat' first
    | (with_reducible first
        | assumption | apply keeps_seqCtxCmd | apply keeps_outcome | apply keeps_draftCtx | apply
          keepsRes_next | apply keepsRes_fault | apply keepsRes_refused)
    | intro _
    | split
    | refine keeps_of_trd ?_ ‹_›
    | refine keeps_of_snd ?_ ‹_›

theorem keeps_execSeqEvict {a : State} {id : Nat} {s : State} (h0 : Keeps false a s) :
    KeepsRes false a (execSeqEvict id s) := by
  unfold execSeqEvict
  try dsimp only
  repeat' first
    | (with_reducible first
        | assumption | apply keeps_seqCtxCmd | apply keeps_outcome | apply keeps_evictCtx | apply
          keepsRes_next | apply keepsRes_fault | apply keepsRes_refused)
    | intro _
    | split
    | refine keeps_of_trd ?_ ‹_›
    | refine keeps_of_snd ?_ ‹_›

theorem keeps_resumeCtx {a s : State} {ctx : Nat} {g : BitVec 256} {f : BitVec 1024} (h0 : Keeps false a s) :
    Keeps false a (resumeCtx s ctx g f).2 := by
  unfold resumeCtx
  try dsimp only
  repeat' first
    | (with_reducible first
        | assumption | apply keeps_setCtx | apply keeps_recoverCtx)
    | intro _
    | split
    | refine keeps_of_snd ?_ ‹_›

theorem keeps_execSeqResume {a : State} {id : Nat} {s : State} (h0 : Keeps false a s) :
    KeepsRes false a (execSeqResume id s) := by
  unfold execSeqResume
  try dsimp only
  repeat' first
    | (with_reducible first
        | assumption | apply keeps_seqCtxCmd | apply keeps_outcome | apply keeps_resumeCtx | apply
          keepsRes_next | apply keepsRes_fault | apply keepsRes_refused)
    | intro _
    | split
    | refine keeps_of_trd ?_ ‹_›
    | refine keeps_of_snd ?_ ‹_›

theorem keeps_suspendCtx {a s : State} {ctx : Nat} {g : BitVec 256} (h0 : Keeps false a s) :
    Keeps false a (suspendCtx s ctx g).2 := by
  unfold suspendCtx
  try dsimp only
  repeat' first
    | (with_reducible first
        | assumption | apply keeps_updCtx | apply keeps_retractFirst)
    | intro _
    | split
    | refine keeps_of_snd ?_ ‹_›

theorem keeps_execSeqSuspend {a : State} {id : Nat} {s : State} (h0 : Keeps false a s) :
    KeepsRes false a (execSeqSuspend id s) := by
  unfold execSeqSuspend
  try dsimp only
  repeat' first
    | (with_reducible first
        | assumption | apply keeps_seqCtxCmd | apply keeps_outcome | apply keeps_suspendCtx | apply
          keepsRes_next | apply keepsRes_fault | apply keepsRes_refused)
    | intro _
    | split
    | refine keeps_of_trd ?_ ‹_›
    | refine keeps_of_snd ?_ ‹_›

theorem keeps_prefillCtx {a s : State} {c : CmdRec} {g : BitVec 256} {f : BitVec 1024} (h0 : Keeps false a s) :
    Keeps false a (prefillCtx s c g f).2 := by
  unfold prefillCtx
  try dsimp only
  repeat' first
    | (with_reducible first
        | assumption | apply keeps_commitPrefill)
    | intro _
    | split
    | refine keeps_of_snd ?_ ‹_›

end Sys2Proof.Machine
end

