-- ==== Sys2Proof/Laws/KeepsSeqStep.lean ====
section
/-! SUPPORT. What the operations of Machine/SeqStep.lean keep. -/

namespace Sys2Proof.Machine

theorem keeps_noteEvents {same : Bool} {a s : State} {id : Nat} {es : List (Nat × Nat × Nat)} (h0 : Keeps same a s) :
    Keeps same a (noteEvents s id es) := by
  unfold noteEvents
  try dsimp only
  repeat' first
    | (with_reducible first
        | assumption | apply keeps_updCmd)
    | intro _
    | split

theorem keeps_stampStep {same : Bool} {a s : State} {done : List StepRes} {t : Nat} (h0 : Keeps same a s) :
    Keeps same a (stampStep s done t) := by
  unfold stampStep
  try dsimp only
  repeat' first
    | (with_reducible first
        | assumption | apply keeps_foldl | apply keeps_updCtx | apply keeps_foldl)
    | intro _
    | split

theorem keeps_noteMissed {same : Bool} {a s : State} {f : BitVec 1024} {r : StepRun} {late : List (Nat × Nat)} (h0 : Keeps
    same a s) :
    Keeps same a (noteMissed s f r late) := by
  unfold noteMissed
  try dsimp only
  repeat' first
    | (with_reducible first
        | assumption | apply keeps_foldl | apply keeps_noteEvents | apply keeps_setSeq | apply keeps_foldl)
    | intro _
    | split

theorem keeps_sendOutputs {a s : State} {id : Nat} {bs : List Byte} (h0 : Keeps false a s) :
    Keeps false a (sendOutputs s id bs) := by
  unfold sendOutputs
  try dsimp only
  repeat' first
    | (with_reducible first
        | assumption | apply keeps_updCmd | apply keeps_writeBytes | apply keeps_hostWriteCmd)
    | intro _
    | split

theorem keeps_judgeStep {a s : State} {f : BitVec 1024} {r : StepRun} {st : Nat} (h0 : Keeps false a s) :
    Keeps false a (judgeStep s f r st).2 := by
  unfold judgeStep
  try dsimp only
  repeat' first
    | (with_reducible first
        | assumption | apply keeps_stampStep | apply keeps_sendOutputs | apply keeps_noteMissed)
    | intro _
    | split
    | refine keeps_of_snd ?_ ‹_›

theorem keeps_stepClosed {same : Bool} {a s : State} {lead stepNo t : Nat} (h0 : Keeps same a s) :
    Keeps same a (stepClosed s lead stepNo t) := by
  unfold stepClosed
  try dsimp only
  repeat' first
    | (with_reducible first
        | assumption | apply keeps_stampStep | apply keeps_setSeq)
    | intro _
    | split

theorem keeps_demandGraph {same : Bool} {a s : State} {y1 : Nat} (h0 : Keeps same a s) :
    Keeps same a (demandGraph s y1) := by
  unfold demandGraph
  try dsimp only
  repeat' first
    | (with_reducible first
        | assumption | apply keeps_demand)
    | intro _
    | split

theorem keeps_entryResult {a s : State} {g : BitVec 256} {f : BitVec 1024} {no : Nat} {e : PlanEnt} (h0 : Keeps false a s) :
    Keeps false a (entryResult s g f no e).2 := by
  unfold entryResult
  try dsimp only
  repeat' first
    | (with_reducible first
        | assumption | apply keeps_updCtx | apply keeps_publishFrom | apply keeps_damage | apply
          keeps_writeLog | apply keeps_commitPath | apply given_none | apply given_some)
    | intro _
    | split
    | refine keeps_of_snd ?_ ‹_›
    | refine keeps_of_trd ?_ ‹_›

theorem keeps_recoverAll {a s : State} {g : BitVec 256} {f : BitVec 1024} (h0 : Keeps false a s) :
    Keeps false a (recoverAll s g f) := by
  unfold recoverAll
  try dsimp only
  repeat' first
    | (with_reducible first
        | assumption | apply keeps_foldl | apply keeps_recoverCtx | apply keeps_foldl)
    | intro _
    | split
    | refine keeps_of_snd ?_ ‹_›

theorem keeps_supply {a : State} {fuel : Nat} {s : State} {g : BitVec 256} {f : BitVec 1024} {need : Nat} (h0 : Keeps false a s)
    :
    Keeps false a (supply fuel s g f need) := by
  induction fuel generalizing s g f need with
  | zero => first | exact h0 | exact given_none
  | succ fuel ih =>
  unfold supply
  try dsimp only
  repeat' first
    | (with_reducible first
        | assumption | apply ih | apply keeps_evictLeaf | apply given_none | apply given_some)
    | intro _
    | split
    | refine keeps_of_some ?_ ‹_›

theorem keeps_closeStep {a s : State} {st detail : Nat} (h0 : Keeps false a s) :
    Keeps false a (closeStep s st detail) := by
  unfold closeStep
  try dsimp only
  repeat' first
    | (with_reducible first
        | assumption | apply keeps_endStep | apply keeps_setSeq | apply keeps_judgeStep | apply keeps_foldl |
          apply keeps_sendMsg | apply keeps_updCmd | apply keeps_foldl)
    | intro _
    | split
    | refine keeps_of_snd ?_ ‹_›

theorem keeps_launchStep {a s : State} {f : BitVec 1024} {r : StepRun} {dst : Nat} {ws : List Nat} (h0 : Keeps false a s) :
    Keeps false a (launchStep s f r dst ws) := by
  unfold launchStep
  try dsimp only
  repeat' first
    | (with_reducible first
        | assumption | apply keeps_writeBytes | apply keeps_closeStep | apply keeps_demandGraph | apply
          keeps_pumpGraph | apply keeps_updCmd | simp only [keeps_mk_iff])
    | intro _
    | split

theorem keeps_reservePlan {same : Bool} {a s : State} {g : BitVec 256} {es : List PlanEnt} (h0 : Keeps same a s) :
    Keeps same a (reservePlan s g es) := by
  unfold reservePlan
  try dsimp only
  repeat' first
    | (with_reducible first
        | assumption | apply keeps_setSeq | apply keeps_foldl)
    | intro _
    | split

theorem keeps_servePlan {a s : State} (h0 : Keeps false a s) :
    Keeps false a (servePlan s) := by
  unfold servePlan
  try dsimp only
  repeat' first
    | (with_reducible first
        | assumption | apply keeps_setSeq | apply keeps_recoverAll | apply keeps_supply | apply
          keeps_reportStep | apply keeps_launchStep | apply keeps_reservePlan | apply keeps_addCmd)
    | intro _
    | split

theorem keeps_addFollower {same : Bool} {a s : State} {fuid : Nat} (h0 : Keeps same a s) :
    Keeps same a (addFollower s fuid) := by
  unfold addFollower
  try dsimp only
  repeat' first
    | (with_reducible first
        | assumption | apply keeps_setSeq)
    | intro _
    | split

theorem keeps_applyEntry {a s : State} {g : BitVec 256} {f : BitVec 1024} {no : Nat} {e : PlanEnt} (h0 : Keeps false a s) :
    Keeps false a (applyEntry s g f no e).2 := by
  unfold applyEntry
  try dsimp only
  repeat' first
    | (with_reducible first
        | assumption | apply keeps_entryResult | apply keeps_updCtx)
    | intro _
    | split
    | refine keeps_of_snd ?_ ‹_›

theorem keeps_applyStep {a s : State} {g : BitVec 256} {f : BitVec 1024} {r : StepRun} (h0 : Keeps false a s) :
    Keeps false a (applyStep s g f r).2 := by
  unfold applyStep
  refine keeps_foldl_snd (s := (([] : List StepRes), s)) (fun x e h => ?_) h0
  exact keeps_applyEntry (g := g) (f := f) (no := r.stepNo) (e := e) h

theorem keeps_receivePlan {a s : State} {lead dst : Nat} {ws : List Nat} (h0 : Keeps false a s) :
    Keeps false a (receivePlan s lead dst ws) := by
  unfold receivePlan
  try dsimp only
  repeat' first
    | (with_reducible first
        | assumption | apply keeps_servePlan | apply keeps_setSeq)
    | intro _
    | split

theorem keeps_execPlanReceive {a : State} {lead dst : Nat} {plan : List Nat} {s : State} (h0 : Keeps false a s) :
    KeepsRes false a (execPlanReceive lead dst plan s) := by
  unfold execPlanReceive
  try dsimp only
  repeat' first
    | (with_reducible first
        | assumption | apply keeps_receivePlan | apply keepsRes_next | apply keepsRes_fault | apply keepsRes_refused)
    | intro _
    | split

theorem keeps_stagePage {a s : State} {g : BitVec 256} {k : Fin 24} {slot frame version : Nat} (h0 : Keeps false a s) :
    Keeps false a (stagePage s g k slot frame version) := by
  unfold stagePage
  try dsimp only
  repeat' first
    | (with_reducible first
        | assumption | apply keeps_writeBytes | simp only [keeps_mk_iff])
    | intro _
    | split

theorem keeps_fullEvents {same : Bool} {a s : State} {id : Nat} {cs : List Nat} (h0 : Keeps same a s) :
    Keeps same a (fullEvents s id cs) := by
  unfold fullEvents
  try dsimp only
  repeat' first
    | (with_reducible first
        | assumption | apply keeps_noteEvents)
    | intro _
    | split

theorem keeps_runPlan {a s : State} {c : CmdRec} {g : BitVec 256} {f : BitVec 1024} {es : List PlanEnt} {omitted : List Nat}
    {pred decPred : Nat} (h0 : Keeps false a s) :
    Keeps false a (runPlan s c g f es omitted pred decPred) := by
  unfold runPlan
  try dsimp only
  repeat' first
    | (with_reducible first
        | assumption | apply keeps_finishCmd | apply keeps_foldl | apply keeps_sendMsg | apply
          keeps_launchStep | apply keeps_reservePlan | apply keeps_foldl)
    | intro _
    | split

theorem keeps_planStep {a s : State} {c : CmdRec} {g : BitVec 256} {f : BitVec 1024} (h0 : Keeps false a s) :
    Keeps false a (planStep s c g f) := by
  unfold planStep
  try dsimp only
  repeat' first
    | (with_reducible first
        | assumption | apply keeps_finishCmd | apply keeps_updCmd | apply keeps_recoverAll | apply
          keeps_fullEvents | apply keeps_supply | apply keeps_foldl | apply keeps_runPlan | apply keeps_foldl)
    | intro _
    | split

theorem keeps_hostStep {a s : State} {c : CmdRec} {g : BitVec 256} {f : BitVec 1024} {ws : List Nat} (h0 : Keeps false a s) :
    Keeps false a (hostStep s c g f ws) := by
  unfold hostStep
  try dsimp only
  repeat' first
    | (with_reducible first
        | assumption | apply keeps_recoverAll | apply keeps_finishCmd | apply keeps_supply | apply
          keeps_runPlan)
    | intro _
    | split

theorem keeps_seqStepOn {a : State} {d : HostData} {s : State} {c : CmdRec} (h0 : Keeps false a s) :
    Keeps false a (seqStepOn d s c) := by
  unfold seqStepOn
  try dsimp only
  repeat' first
    | (with_reducible first
        | assumption | apply keeps_finishCmd | apply keeps_planStep | apply keeps_demand | apply
          keeps_hostStep)
    | intro _
    | split

theorem keeps_execSeqStep {a : State} {id : Nat} {d : HostData} {s : State} (h0 : Keeps false a s) :
    KeepsRes false a (execSeqStep id d s) := by
  unfold execSeqStep
  try dsimp only
  repeat' first
    | (with_reducible first
        | assumption | apply keeps_pumpGraph | apply keeps_runCmd | apply keeps_seqStepOn | apply keepsRes_next |
          apply keepsRes_fault | apply keepsRes_refused)
    | intro _
    | split

theorem keeps_execStepgraphComplete {a s : State} (h0 : Keeps false a s) :
    KeepsRes false a (execStepgraphComplete s) := by
  unfold execStepgraphComplete
  try dsimp only
  repeat' first
    | (with_reducible first
        | assumption | apply keeps_pumpGraph | apply keeps_clearStep | apply keeps_dropCmd | apply
          keeps_reportStep | apply keeps_applyStep | apply keeps_setSeq | apply keeps_closeStep | apply
          keepsRes_next | apply keepsRes_fault | apply keepsRes_refused)
    | intro _
    | split
    | refine keeps_of_snd ?_ ‹_›

theorem keeps_followerReport {a s : State} {fuid stepNo st detail floor : Nat} (h0 : Keeps false a s) :
    Keeps false a (followerReport s fuid stepNo st detail floor) := by
  unfold followerReport
  try dsimp only
  repeat' first
    | (with_reducible first
        | assumption | apply keeps_setSeq | apply keeps_closeStep)
    | intro _
    | split

end Sys2Proof.Machine
end

