-- ==== Sys2Proof/Laws/KeepsAccept.lean ====
section
/-! SUPPORT. What the operations of Machine/Accept.lean keep. -/

namespace Sys2Proof.Machine

theorem keeps_failCmd {same : Bool} {a s : State} {c : CmdRec} {st detail : Nat} (h0 : Keeps same a s) :
    Keeps same a (failCmd s c st detail) := by
  unfold failCmd
  try dsimp only
  repeat' first
    | (with_reducible first
        | assumption | apply keeps_addCmd)
    | intro _
    | split

theorem keeps_refuseNew {same : Bool} {a s : State} {c : CmdRec} {path reason : Nat} (h0 : Keeps same a s) :
    Keeps same a (refuseNew s c path reason) := by
  unfold refuseNew
  try dsimp only
  repeat' first
    | (with_reducible first
        | assumption | apply keeps_addCmd | apply keeps_auditRefusal)
    | intro _
    | split

theorem keeps_noteAuth {same : Bool} {a s : State} {y1 : Auth} (h0 : Keeps same a s) :
    Keeps same a (noteAuth s y1) := by
  unfold noteAuth
  try dsimp only
  repeat' first
    | (with_reducible first
        | assumption | simp only [keeps_mk_iff])
    | intro _
    | split

theorem keeps_auditCommand {same : Bool} {a s : State} {c : CmdRec} {path : Nat} (h0 : Keeps same a s) :
    Keeps same a (auditCommand s c path) := by
  unfold auditCommand
  try dsimp only
  repeat' first
    | (with_reducible first
        | assumption | apply keeps_auditPut)
    | intro _
    | split

theorem keeps_onAccepted {same : Bool} {a s : State} {c : CmdRec} (h0 : Keeps same a s) :
    Keeps same a (onAccepted s c) := by
  unfold onAccepted
  try dsimp only
  repeat' first
    | (with_reducible first
        | assumption | apply keeps_acceptMap | apply keeps_markStarted | apply keeps_acceptProfile | apply
          keeps_stopPair)
    | intro _
    | split

theorem keeps_sendOn {same : Bool} {a s : State} {c : CmdRec} (h0 : Keeps same a s) :
    Keeps same a (sendOn s c) := by
  unfold sendOn
  try dsimp only
  repeat' first
    | (with_reducible first
        | assumption | apply keeps_sendCmd)
    | intro _
    | split

theorem keeps_sendHeld {same : Bool} {a s : State} (h0 : Keeps same a s) :
    Keeps same a (sendHeld s) := by
  unfold sendHeld
  try dsimp only
  repeat' first
    | (with_reducible first
        | assumption | apply keeps_foldl | apply keeps_sendOn | apply keeps_updCmd | apply keeps_foldl)
    | intro _
    | split

theorem keeps_takeFor {same : Bool} {a s : State} {c : CmdRec} {y2 : Arrival} {t : Member} (h0 : Keeps same a s) :
    Keeps same a (takeFor s c y2 t) := by
  unfold takeFor
  try dsimp only
  repeat' first
    | (with_reducible first
        | assumption | apply keeps_failCmd | apply keeps_sendOn | apply keeps_addCmd | apply keeps_onAccepted
          | apply keeps_auditCommand | simp only [keeps_mk_iff])
    | intro _
    | split

theorem keeps_takeIn {same : Bool} {a s : State} {c : CmdRec} {y2 : Arrival} (h0 : Keeps same a s) :
    Keeps same a (takeIn s c y2) := by
  unfold takeIn
  try dsimp only
  repeat' first
    | (with_reducible first
        | assumption | apply keeps_failCmd | apply keeps_noteAuth | apply keeps_refuseNew | apply
          keeps_takeFor)
    | intro _
    | split

theorem keeps_arrive {same : Bool} {a s : State} {o : Origin} {role : Role} {path : Nat} {seqOk perr : Bool} {h : BitVec 512}
    {ps : List (BitVec 512)} (h0 : Keeps same a s) :
    Keeps same a (arrive s o role path seqOk perr h ps) := by
  unfold arrive
  try dsimp only
  repeat' first
    | (with_reducible first
        | assumption | apply keeps_demand | apply keeps_touchRange | apply keeps_takeIn)
    | intro _
    | split

theorem keeps_takeOne {same : Bool} {a s : State} {n : Nat} {q : QpSt} {f : FetchIn} (h0 : Keeps same a s) :
    Keeps same a (takeOne s n q f) := by
  unfold takeOne
  try dsimp only
  repeat' first
    | (with_reducible first
        | assumption | apply keeps_ringFailed | apply keeps_setQp | apply keeps_arrive | apply given_none |
          apply given_some)
    | intro _
    | split

theorem keeps_takeCommand {same : Bool} {a s : State} (h0 : Keeps same a s) :
    Keeps same a (takeCommand s) := by
  unfold takeCommand
  try dsimp only
  repeat' first
    | (with_reducible first
        | assumption | apply keeps_takeOne | simp only [keeps_mk_iff])
    | intro _
    | split

theorem keeps_execI3cCommand {same : Bool} {a : State} {blocks : List (BitVec 512)} {s : State} (h0 : Keeps same a s) :
    KeepsRes same a (execI3cCommand blocks s) := by
  unfold execI3cCommand
  try dsimp only
  repeat' first
    | (with_reducible first
        | assumption | apply keeps_arrive | apply keepsRes_next | apply keepsRes_fault | apply keepsRes_refused)
    | intro _
    | split

theorem keeps_staleRemote {same : Bool} {a s : State} {c : CmdRec} (h0 : Keeps same a s) :
    Keeps same a (staleRemote s c) := by
  unfold staleRemote
  exact keeps_failCmd h0

theorem keeps_execRemoteCommand {same : Bool} {a : State} {m : RemoteIn} {s : State} (h0 : Keeps same a s) :
    KeepsRes same a (execRemoteCommand m s) := by
  unfold execRemoteCommand
  try dsimp only
  repeat' first
    | (with_reducible first
        | assumption | apply keeps_staleRemote | apply keeps_refuseNew | apply keeps_failCmd | apply
          keeps_arrive | apply keepsRes_next | apply keepsRes_fault | apply keepsRes_refused)
    | intro _
    | split

theorem keeps_execSqTailDoorbell {same : Bool} {a : State} {t : TlpIn} {fetched : List FetchIn} {s : State} (h0 : Keeps same a
    s) :
    KeepsRes same a (execSqTailDoorbell t fetched s) := by
  unfold execSqTailDoorbell
  try dsimp only
  repeat' first
    | (with_reducible first
        | assumption | apply keeps_onBar0 | apply keeps_doorbellError | apply keeps_setQp | apply
          keepsRes_next | apply keepsRes_fault | apply keepsRes_refused | apply given_none | apply given_some)
    | intro _
    | split

end Sys2Proof.Machine
end

