-- ==== Sys2Proof/Laws/KeepsAtomic.lean ====
section
/-! SUPPORT. What the operations of Machine/Atomic.lean keep. -/

namespace Sys2Proof.Machine

theorem keeps_logDecision {same : Bool} {a s : State} {id : Nat} {ok : Bool} {hits : Nat} (h0 : Keeps same a s) :
    Keeps same a (logDecision s id ok hits) := by
  unfold logDecision
  try dsimp only
  repeat' first
    | (with_reducible first
        | assumption | simp only [keeps_mk_iff])
    | intro _
    | split

theorem keeps_stampNext {same : Bool} {a s : State} {ctx next t : Nat} (h0 : Keeps same a s) :
    Keeps same a (stampNext s ctx next t) := by
  unfold stampNext
  try dsimp only
  repeat' first
    | (with_reducible first
        | assumption | apply keeps_updCtx)
    | intro _
    | split

theorem keeps_restamp {same : Bool} {a s : State} {ctx next t : Nat} (h0 : Keeps same a s) :
    Keeps same a (restamp s ctx next t) := by
  unfold restamp
  try dsimp only
  repeat' first
    | (with_reducible first
        | assumption | apply keeps_setSeq | apply keeps_stampNext)
    | intro _
    | split

theorem keeps_stampSet {same : Bool} {a s : State} {c : CmdRec} (h0 : Keeps same a s) :
    Keeps same a (stampSet s c) := by
  unfold stampSet
  try dsimp only
  repeat' first
    | (with_reducible first
        | assumption | apply keeps_foldl | apply keeps_sendMsg | apply keeps_restamp | apply keeps_foldl)
    | intro _
    | split

theorem keeps_endAtomic {same : Bool} {a s : State} {id : Nat} (h0 : Keeps same a s) :
    Keeps same a (endAtomic s id) := by
  unfold endAtomic
  try dsimp only
  repeat' first
    | (with_reducible first
        | assumption | apply keeps_finishCmd | apply keeps_stampSet)
    | intro _
    | split

theorem keeps_dropPrep {same : Bool} {a s : State} {lead key : Nat} (h0 : Keeps same a s) :
    Keeps same a (dropPrep s lead key) := by
  unfold dropPrep
  try dsimp only
  repeat' first
    | (with_reducible first
        | assumption | simp only [keeps_mk_iff])
    | intro _
    | split

theorem keeps_lessReserve {same : Bool} {a s : State} {ctx n : Nat} (h0 : Keeps same a s) :
    Keeps same a (lessReserve s ctx n) := by
  unfold lessReserve
  try dsimp only
  repeat' first
    | (with_reducible first
        | assumption | apply keeps_setSeq)
    | intro _
    | split

theorem keeps_releasePrep {same : Bool} {a s : State} {p : PrepRec} (h0 : Keeps same a s) :
    Keeps same a (releasePrep s p) := by
  unfold releasePrep
  try dsimp only
  repeat' first
    | (with_reducible first
        | assumption | apply keeps_lessReserve)
    | intro _
    | split

theorem keeps_commitPrep {a s : State} {p : PrepRec} {hits : Nat} (h0 : Keeps false a s) :
    Keeps false a (commitPrep s p hits) := by
  unfold commitPrep
  try dsimp only
  repeat' first
    | (with_reducible first
        | assumption | apply keeps_commitLeaseOpen | apply keeps_commitGroupDefine | apply
          keeps_commitMembership | apply keeps_commitPrefill | apply keeps_commitPath | apply keeps_setSeq)
    | intro _
    | split
    | refine keeps_of_snd ?_ ‹_›

theorem keeps_settleMine {a s : State} {id : Nat} {ok : Bool} {hits : Nat} {p : PrepRec} (h0 : Keeps false a s) :
    Keeps false a (settleMine s id ok hits p) := by
  unfold settleMine
  try dsimp only
  repeat' first
    | (with_reducible first
        | assumption | apply keeps_dropPrep | apply keeps_releasePrep | apply keeps_commitLeaseClose | apply
          keeps_addCmd | apply keeps_commitPrep)
    | intro _
    | split

theorem keeps_decideAtomic {a s : State} {id : Nat} (h0 : Keeps false a s) :
    Keeps false a (decideAtomic s id) := by
  unfold decideAtomic
  try dsimp only
  repeat' first
    | (with_reducible first
        | assumption | apply keeps_logDecision | apply keeps_foldl | apply keeps_sendMsg | apply keeps_updCmd
          | apply keeps_endAtomic | apply keeps_settleMine | apply keeps_foldl)
    | intro _
    | split

theorem keeps_abortAtomic {a s : State} {c : CmdRec} (h0 : Keeps false a s) :
    Keeps false a (abortAtomic s c) := by
  unfold abortAtomic
  try dsimp only
  repeat' first
    | (with_reducible first
        | assumption | apply keeps_decideAtomic | apply keeps_updCmd | apply keeps_finishCmd)
    | intro _
    | split

theorem keeps_answerQuery {same : Bool} {a s : State} {peer key : Nat} (h0 : Keeps same a s) :
    Keeps same a (answerQuery s peer key) := by
  unfold answerQuery
  try dsimp only
  repeat' first
    | (with_reducible first
        | assumption | apply keeps_sendMsg)
    | intro _
    | split

theorem keeps_remoteClose {a s : State} {p : PrepRec} (h0 : Keeps false a s) :
    Keeps false a (remoteClose s p) := by
  unfold remoteClose
  try dsimp only
  repeat' first
    | (with_reducible first
        | assumption | apply keeps_commitLeaseClose | apply keeps_addCmd)
    | intro _
    | split

theorem keeps_doubtEvent {same : Bool} {a s : State} {p : PrepRec} {typ outcome : Nat} (h0 : Keeps same a s) :
    Keeps same a (doubtEvent s p typ outcome) := by
  unfold doubtEvent
  try dsimp only
  repeat' first
    | (with_reducible first
        | assumption | apply keeps_unitEvent)
    | intro _
    | split

theorem keeps_applyDecision {a s : State} {p : PrepRec} {dec : Option Bool} {hits : Nat} (h0 : Keeps false a s) :
    Keeps false a (applyDecision s p dec hits) := by
  unfold applyDecision
  try dsimp only
  repeat' first
    | (with_reducible first
        | assumption | apply keeps_dropPrep | apply keeps_remoteClose | apply keeps_sendMsg | apply
          keeps_commitPrep | apply keeps_doubtEvent | apply keeps_releasePrep | apply keeps_damage | apply
          given_none | apply given_some)
    | intro _
    | split

theorem keeps_closeHere {a s : State} {c : CmdRec} (h0 : Keeps false a s) :
    Keeps false a (closeHere s c) := by
  unfold closeHere
  try dsimp only
  repeat' first
    | (with_reducible first
        | assumption | apply keeps_finishCmd | apply keeps_commitLeaseClose)
    | intro _
    | split

theorem keeps_takeDecision {a s : State} {lead key : Nat} {dec : Option Bool} {hits : Nat} (h0 : Keeps false a s) :
    Keeps false a (takeDecision s lead key dec hits) := by
  unfold takeDecision
  try dsimp only
  repeat' first
    | (with_reducible first
        | assumption | apply keeps_applyDecision | apply keeps_sendMsg | apply given_none | apply given_some)
    | intro _
    | split

theorem keeps_execAtomicDecision {a : State} {lead key : Nat} {decision : Option Bool} {hits : Nat} {s : State} (h0 : Keeps
    false a s) :
    KeepsRes false a (execAtomicDecision lead key decision hits s) := by
  unfold execAtomicDecision
  try dsimp only
  repeat' first
    | (with_reducible first
        | assumption | apply keeps_takeDecision | apply keepsRes_next | apply keepsRes_fault | apply
          keepsRes_refused)
    | intro _
    | split

theorem keeps_modPrep {same : Bool} {a s : State} {lead key : Nat} {f : PrepRec → PrepRec} (h0 : Keeps same a s) :
    Keeps same a (modPrep s lead key f) := by
  unfold modPrep
  try dsimp only
  repeat' first
    | (with_reducible first
        | assumption | simp only [keeps_mk_iff])
    | intro _
    | split

theorem keeps_execAtomicDecisionQuery {same : Bool} {a : State} {lead key : Nat} {s : State} (h0 : Keeps same a s) :
    KeepsRes same a (execAtomicDecisionQuery lead key s) := by
  unfold execAtomicDecisionQuery
  try dsimp only
  repeat' first
    | (with_reducible first
        | assumption | apply keeps_sendMsg | apply keeps_modPrep | apply keepsRes_next | apply keepsRes_fault
          | apply keepsRes_refused)
    | intro _
    | split

theorem keeps_execAtomicInDoubt {same : Bool} {a : State} {lead key : Nat} {s : State} (h0 : Keeps same a s) :
    KeepsRes same a (execAtomicInDoubt lead key s) := by
  unfold execAtomicInDoubt
  try dsimp only
  repeat' first
    | (with_reducible first
        | assumption | apply keeps_doubtEvent | apply keeps_modPrep | apply keepsRes_next | apply keepsRes_fault |
          apply keepsRes_refused)
    | intro _
    | split

theorem keeps_vote {same : Bool} {a s : State} {m : RemoteIn} {st detail hits : Nat} (h0 : Keeps same a s) :
    Keeps same a (vote s m st detail hits) := by
  unfold vote
  try dsimp only
  repeat' first
    | (with_reducible first
        | assumption | apply keeps_sendMsg)
    | intro _
    | split

theorem keeps_moreReserve {same : Bool} {a s : State} {ctx n : Nat} (h0 : Keeps same a s) :
    Keeps same a (moreReserve s ctx n) := by
  unfold moreReserve
  try dsimp only
  repeat' first
    | (with_reducible first
        | assumption | apply keeps_setSeq)
    | intro _
    | split

theorem keeps_prepSeq {a s : State} {c : CmdRec} {g : BitVec 256} {f : BitVec 1024} (h0 : Keeps false a s) :
    Keeps false a (prepSeq s c g f).2 := by
  unfold prepSeq
  try dsimp only
  repeat' first
    | (with_reducible first
        | assumption | apply keeps_supply | apply keeps_moreReserve)
    | intro _
    | split
    | refine keeps_of_snd ?_ ‹_›

theorem keeps_prepareOp {a s : State} {c : CmdRec} (h0 : Keeps false a s) :
    Keeps false a (prepareOp s c).2 := by
  unfold prepareOp
  try dsimp only
  repeat' first
    | (with_reducible first
        | assumption | apply keeps_prepSeq)
    | intro _
    | split
    | refine keeps_of_snd ?_ ‹_›

theorem keeps_pushPrep {same : Bool} {a s : State} {p : PrepRec} (h0 : Keeps same a s) :
    Keeps same a (pushPrep s p) := by
  unfold pushPrep
  try dsimp only
  repeat' first
    | (with_reducible first
        | assumption | simp only [keeps_mk_iff])
    | intro _
    | split

theorem keeps_prepareMember {a s : State} {lead key : Nat} {u : Sys2Proof.PUnit} {c : CmdRec} (h0 : Keeps false a s) :
    Keeps false a (prepareMember s lead key u c).2 := by
  unfold prepareMember
  try dsimp only
  repeat' first
    | (with_reducible first
        | assumption | apply keeps_prepareOp | apply keeps_pushPrep)
    | intro _
    | split
    | refine keeps_of_snd ?_ ‹_›

theorem keeps_prepareAt {a s : State} {m : RemoteIn} (h0 : Keeps false a s) :
    Given (Keeps false a) (prepareAt s m) := by
  unfold prepareAt
  try dsimp only
  repeat' first
    | (with_reducible first
        | assumption | apply keeps_sendMsg | apply keeps_vote | apply keeps_auditRefusal | apply
          keeps_prepareMember | apply given_none | apply given_some | simp only [keeps_mk_iff])
    | intro _
    | split
    | refine keeps_of_some ?_ ‹_›
    | refine keeps_of_snd ?_ ‹_›

theorem keeps_execAtomicPrepare {a : State} {m : RemoteIn} {s : State} (h0 : Keeps false a s) :
    KeepsRes false a (execAtomicPrepare m s) := by
  unfold execAtomicPrepare
  try dsimp only
  repeat' first
    | (with_reducible first
        | assumption | apply keeps_prepareAt | apply keepsRes_next | apply keepsRes_fault | apply keepsRes_refused |
          apply given_none | apply given_some)
    | intro _
    | split
    | refine keeps_of_some ?_ ‹_›

theorem keeps_timeoutFar {same : Bool} {a s : State} {id : Nat} (h0 : Keeps same a s) :
    Keeps same a (timeoutFar s id) := by
  unfold timeoutFar
  try dsimp only
  repeat' first
    | (with_reducible first
        | assumption | apply keeps_foldl | apply keeps_finishCmd | apply keeps_foldl)
    | intro _
    | split

theorem keeps_fenceWork {a s : State} {c : CmdRec} (h0 : Keeps false a s) :
    Keeps false a (fenceWork s c) := by
  unfold fenceWork
  try dsimp only
  repeat' first
    | (with_reducible first
        | assumption | apply keeps_finishCmd | apply keeps_updCmd | apply keeps_checkAllReady | apply keeps_putAct | simp only
          [keeps_mk_iff])
    | intro _
    | split

theorem keeps_execCommandTimeout {a : State} {id : Nat} {s : State} (h0 : Keeps false a s) :
    KeepsRes false a (execCommandTimeout id s) := by
  unfold execCommandTimeout
  try dsimp only
  repeat' first
    | (with_reducible first
        | assumption | apply keeps_finishCmd | apply keeps_stampSet | apply keeps_abortAtomic | apply
          keeps_timeoutFar | apply keeps_fenceWork | apply keepsRes_next | apply keepsRes_fault | apply
          keepsRes_refused)
    | intro _
    | split

theorem keeps_takePart {a s : State} {id i st detail hits : Nat} (h0 : Keeps false a s) :
    Keeps false a (takePart s id i st detail hits) := by
  unfold takePart
  try dsimp only
  repeat' first
    | (with_reducible first
        | assumption | apply keeps_updCmd | apply keeps_decideAtomic)
    | intro _
    | split

theorem keeps_sendPrepares {a s : State} {c : CmdRec} {fan : List (Member × BitVec 16)} {ps : List (BitVec 512)} {aux : List
    Nat} (h0 : Keeps false a s) :
    Keeps false a (sendPrepares s c fan ps aux) := by
  unfold sendPrepares
  try dsimp only
  repeat' first
    | (with_reducible first
        | assumption | apply keeps_updCmd | apply keeps_foldl | apply keeps_sendCmd | apply keeps_takePart |
          apply keeps_prepareMember | apply keeps_decideAtomic | apply keeps_foldl)
    | intro _
    | split
    | refine keeps_of_snd ?_ ‹_›

theorem keeps_leadDefine {a s : State} {c : CmdRec} {ms : List Member} (h0 : Keeps false a s) :
    Keeps false a (leadDefine s c ms) := by
  unfold leadDefine
  try dsimp only
  repeat' first
    | (with_reducible first
        | assumption | apply keeps_sendPrepares | apply keeps_pushPrep)
    | intro _
    | split

theorem keeps_execGroupDefine {a : State} {id : Nat} {s : State} (h0 : Keeps false a s) :
    KeepsRes false a (execGroupDefine id s) := by
  unfold execGroupDefine
  try dsimp only
  repeat' first
    | (with_reducible first
        | assumption | apply keeps_startCmd | apply keeps_finishCmd | apply keeps_leadDefine | apply
          keeps_commitGroupDefine | apply keepsRes_next | apply keepsRes_fault | apply keepsRes_refused |
          apply keepsStart_wait | apply keepsStart_ended | apply keepsStart_go)
    | intro _
    | split
    | refine keeps_of_Start_ended ?_ ‹_›
    | refine keeps_of_Start_go ?_ ‹_›

theorem keeps_leadAtomic {a s : State} {c : CmdRec} {g : Nat} (h0 : Keeps false a s) :
    Keeps false a (leadAtomic s c g) := by
  unfold leadAtomic
  try dsimp only
  repeat' first
    | (with_reducible first
        | assumption | apply keeps_finishCmd | apply keeps_drawRandom | apply keeps_sendPrepares)
    | intro _
    | split
    | refine keeps_of_snd ?_ ‹_›

theorem keeps_runLease {a : State} {id op : Nat} {here : State → CmdRec → State} {s : State} (h0 : ∀ (z0 : State) (z1 : CmdRec),
    Keeps false a z0 → Keeps false a (here z0 z1)) (h1 : Keeps false a s) :
    KeepsRes false a (runLease id op here s) := by
  unfold runLease
  try dsimp only
  repeat' first
    | (with_reducible first
        | assumption | apply h0 | apply keeps_startCmd | apply keeps_leadAtomic | apply keeps_finishCmd | apply
          keepsRes_next | apply keepsRes_fault | apply keepsRes_refused | apply keepsStart_wait | apply
          keepsStart_ended | apply keepsStart_go)
    | intro _
    | split
    | refine keeps_of_Start_ended ?_ ‹_›
    | refine keeps_of_Start_go ?_ ‹_›

theorem keeps_execLeaseClose {a : State} {id : Nat} {s : State} (h0 : Keeps false a s) :
    KeepsRes false a (execLeaseClose id s) := by
  unfold execLeaseClose
  try dsimp only
  repeat' first
    | (with_reducible first
        | assumption | apply keeps_runLease | apply keeps_closeHere | apply keepsRes_next | apply keepsRes_fault |
          apply keepsRes_refused)
    | intro _
    | split

theorem keeps_openHere {a s : State} {c : CmdRec} (h0 : Keeps false a s) :
    Keeps false a (openHere s c) := by
  unfold openHere
  try dsimp only
  repeat' first
    | (with_reducible first
        | assumption | apply keeps_finishCmd | apply keeps_drawRandom | apply keeps_commitLeaseOpen)
    | intro _
    | split
    | refine keeps_of_snd ?_ ‹_›

theorem keeps_execLeaseOpen {a : State} {id : Nat} {s : State} (h0 : Keeps false a s) :
    KeepsRes false a (execLeaseOpen id s) := by
  unfold execLeaseOpen
  try dsimp only
  repeat' first
    | (with_reducible first
        | assumption | apply keeps_runLease | apply keeps_openHere | apply keepsRes_next | apply keepsRes_fault |
          apply keepsRes_refused)
    | intro _
    | split

theorem keeps_seqAtomic {a : State} {id op : Nat} {s : State} {eff : State → CmdRec → BitVec 256 → BitVec 1024 → Nat × Nat ×
    State} (h0 : Keeps false a s) (h1 : ∀ (z0 : State) (z1 : CmdRec) (z2 : BitVec 256) (z3 : BitVec 1024), Keeps false a z0 →
    Keeps false a (eff z0 z1 z2 z3).2.2) :
    KeepsRes false a (seqAtomic id op s eff) := by
  unfold seqAtomic
  try dsimp only
  repeat' first
    | (with_reducible first
        | assumption | apply h1 | apply keeps_startCmd | apply keeps_leadAtomic | apply keeps_finishCmd |
          apply keeps_seqCtxCmd | apply keepsRes_next | apply keepsRes_fault | apply keepsRes_refused | apply
          keepsStart_wait | apply keepsStart_ended | apply keepsStart_go)
    | intro _
    | split
    | refine keeps_of_Start_ended ?_ ‹_›
    | refine keeps_of_Start_go ?_ ‹_›
    | refine keeps_of_trd ?_ ‹_›

theorem keeps_execSeqCommit {a : State} {id : Nat} {s : State} (h0 : Keeps false a s) :
    KeepsRes false a (execSeqCommit id s) := by
  unfold execSeqCommit
  try dsimp only
  repeat' first
    | (with_reducible first
        | assumption | apply keeps_seqAtomic | apply keeps_commitCtx | apply keepsRes_next | apply
          keepsRes_fault | apply keepsRes_refused)
    | intro _
    | split
    | refine keeps_of_snd ?_ ‹_›

theorem keeps_execSeqPrefill {a : State} {id : Nat} {s : State} (h0 : Keeps false a s) :
    KeepsRes false a (execSeqPrefill id s) := by
  unfold execSeqPrefill
  try dsimp only
  repeat' first
    | (with_reducible first
        | assumption | apply keeps_seqAtomic | apply keeps_outcome | apply keeps_prefillCtx | apply
          keepsRes_next | apply keepsRes_fault | apply keepsRes_refused)
    | intro _
    | split
    | refine keeps_of_trd ?_ ‹_›
    | refine keeps_of_snd ?_ ‹_›

theorem keeps_execSeqRetract {a : State} {id : Nat} {s : State} (h0 : Keeps false a s) :
    KeepsRes false a (execSeqRetract id s) := by
  unfold execSeqRetract
  try dsimp only
  repeat' first
    | (with_reducible first
        | assumption | apply keeps_seqAtomic | apply keeps_commitCtx | apply keepsRes_next | apply
          keepsRes_fault | apply keepsRes_refused)
    | intro _
    | split
    | refine keeps_of_snd ?_ ‹_›

theorem keeps_takeAckFrom {same : Bool} {a s : State} {peer key : Nat} (h0 : Keeps same a s) :
    Keeps same a (takeAckFrom s peer key) := by
  unfold takeAckFrom
  try dsimp only
  repeat' first
    | (with_reducible first
        | assumption | apply keeps_endAtomic | apply keeps_updCmd)
    | intro _
    | split

theorem keeps_takeVote {a s : State} {peer key st detail hits : Nat} (h0 : Keeps false a s) :
    Keeps false a (takeVote s peer key st detail hits) := by
  unfold takeVote
  try dsimp only
  repeat' first
    | (with_reducible first
        | assumption | apply keeps_takePart)
    | intro _
    | split

theorem keeps_takeUnknown {a s : State} {peer key : Nat} (h0 : Keeps false a s) :
    Keeps false a (takeUnknown s peer key) := by
  unfold takeUnknown
  try dsimp only
  repeat' first
    | (with_reducible first
        | assumption | apply keeps_takeDecision | apply keeps_takeVote)
    | intro _
    | split

end Sys2Proof.Machine
end

