-- ==== Sys2Proof/Laws/KeepsAttn.lean ====
section
/-! SUPPORT. What the operations of Machine/Attn.lean keep. -/

namespace Sys2Proof.Machine

theorem keeps_meetPte {same : Bool} {a s : State} {g : BitVec 256} {k : Fin 24} {c l : Nat} {p : Option Nat} (h0 : Keeps same
    a s) :
    Keeps same a (meetPte s g k c l p) := by
  unfold meetPte
  try dsimp only
  repeat' first
    | (with_reducible first
        | assumption | apply keeps_demand | apply given_none | apply given_some)
    | intro _
    | split

theorem keeps_enterLab {same : Bool} {a s : State} {k : Fin 24} {c l : Nat} {p : Option Nat} {x : Nat} (h0 : Keeps same a s) :
    Keeps same a (enterLab s k c l p x) := by
  unfold enterLab
  try dsimp only
  repeat' first
    | (with_reducible first
        | assumption | simp only [keeps_mk_iff])
    | intro _
    | split

theorem keeps_walk {same : Bool} {a s : State} {g : BitVec 256} {k : Fin 24} {c l : Nat} {p : Option Nat} {ok : Nat → Bool}
    {poison : Bool} (h0 : Keeps same a s) :
    GivenR (fun p => Keeps same a p.2) (walk s g k c l p ok poison) := by
  unfold walk
  try dsimp only
  repeat' first
    | (with_reducible first
        | assumption | apply keeps_enterLab | apply given_none | apply given_some | apply givenR_inl | apply
          givenR_inr)
    | intro _
    | split
    | refine keeps_of_inr_snd ?_ ‹_›

theorem keeps_appendFrame {a s : State} {g : BitVec 256} {k : Fin 24} {c l p slot : Nat} (h0 : Keeps false a s) :
    Keeps false a (appendFrame s g k c l p slot).2 := by
  unfold appendFrame
  try dsimp only
  repeat' first
    | (with_reducible first
        | assumption | apply keeps_meetPte | apply keeps_walk | apply keeps_demandAll | apply keeps_allocFrame
          | apply keeps_keepRetired | apply keeps_copySlots | apply given_none | apply given_some | apply
          givenR_inl | apply givenR_inr)
    | intro _
    | split
    | refine keeps_of_trd ?_ ‹_›
    | refine keeps_of_inr_snd ?_ ‹_›
    | refine keeps_of_snd ?_ ‹_›

theorem keeps_putToken {a s : State} {g : BitVec 256} {k : Fin 24} {r : Nat} {q : BitVec 512} {f i slot : Nat} (h0 : Keeps
    false a s) :
    Keeps false a (putToken s g k r q f i slot) := by
  unfold putToken
  try dsimp only
  repeat' first
    | (with_reducible first
        | assumption | apply keeps_foldl | apply keeps_writeBytes | apply keeps_foldl)
    | intro _
    | split

theorem keeps_appendPage {a s : State} {g : BitVec 256} {k : Fin 24} {r : Nat} {q : BitVec 512} {p : Nat} (h0 : Keeps false a
    s) :
    Keeps false a (appendPage s g k r q p).2 := by
  unfold appendPage
  try dsimp only
  repeat' first
    | (with_reducible first
        | assumption | apply keeps_appendFrame | apply keeps_freeFrame | apply keeps_foldl | apply
          keeps_putToken | apply keeps_writePte | apply keeps_dropRef | apply keeps_charge | apply given_none
          | apply given_some | apply givenR_inl | apply givenR_inr | apply keeps_foldl)
    | intro _
    | split
    | refine keeps_of_snd ?_ ‹_›
    | refine keeps_of_trd ?_ ‹_›

theorem keeps_appendSprout {a s : State} {g : BitVec 256} {k : Fin 24} {r : Nat} {q : BitVec 512} (h0 : Keeps false a s) :
    Keeps false a (appendSprout s g k r q).2 := by
  unfold appendSprout
  try dsimp only
  repeat' first
    | (with_reducible first
        | assumption | apply keeps_meetPte | apply keeps_walk | apply keeps_foldl | apply keeps_putToken |
          apply given_none | apply given_some | apply givenR_inl | apply givenR_inr | apply keeps_foldl)
    | intro _
    | split
    | refine keeps_of_snd ?_ ‹_›
    | refine keeps_of_inr_snd ?_ ‹_›

theorem keeps_withSource {same : Bool} {a s : State} {rs : List Rng} {act : State → Option AttnFail × State} (h0 : Keeps same
    a s) (h1 : ∀ (z0 : State), Keeps same a z0 → Keeps same a (act z0).2) :
    Keeps same a (withSource s rs act).2 := by
  unfold withSource
  try dsimp only
  repeat' first
    | (with_reducible first
        | assumption | apply h1 | apply keeps_demandAll | apply given_none | apply given_some)
    | intro _
    | split
    | refine keeps_of_snd ?_ ‹_›

theorem keeps_stageOne {a s : State} {g : BitVec 256} {k : Fin 24} {c l p : Nat} (h0 : Keeps false a s) :
    Keeps false a (stageOne s g k c l p).2 := by
  unfold stageOne
  try dsimp only
  repeat' first
    | (with_reducible first
        | assumption | apply keeps_meetPte | apply keeps_walk | apply keeps_writePte | apply keeps_demand |
          apply keeps_stagePage | apply given_none | apply given_some | apply givenR_inl | apply givenR_inr)
    | intro _
    | split
    | refine keeps_of_snd ?_ ‹_›
    | refine keeps_of_inr_snd ?_ ‹_›

theorem keeps_execRunAheadPrefetch {a s : State} (h0 : Keeps false a s) :
    KeepsRes false a (execRunAheadPrefetch s) := by
  unfold execRunAheadPrefetch
  try dsimp only
  repeat' first
    | (with_reducible first
        | assumption | apply keeps_stageOne | apply keeps_attnReport | apply keepsRes_next | apply
          keepsRes_fault | apply keepsRes_refused | apply given_none | apply given_some)
    | intro _
    | split
    | refine keeps_of_snd ?_ ‹_›

theorem keeps_attnDone {a s : State} {k : Fin 24} {r : Fin 8} {q : BitVec 512} (h0 : Keeps false a s) :
    Keeps false a (attnDone s k r q) := by
  unfold attnDone
  try dsimp only
  repeat' first
    | (with_reducible first
        | assumption | apply keeps_addDevFlag)
    | intro _
    | split

theorem keeps_attnFail {a s : State} {k : Fin 24} {r : Fin 8} {q : BitVec 512} {n : Nat} {e : AttnFail} (h0 : Keeps false a s)
    :
    Keeps false a (attnFail s k r q n e) := by
  unfold attnFail
  try dsimp only
  repeat' first
    | (with_reducible first
        | assumption | apply keeps_addDevFlag | apply keeps_writeNat | apply keeps_attnReport)
    | intro _
    | split

theorem keeps_dropHeld {same : Bool} {a s : State} {k : Fin 24} {r n : Nat} (h0 : Keeps same a s) :
    Keeps same a (dropHeld s k r n) := by
  unfold dropHeld
  try dsimp only
  repeat' first
    | (with_reducible first
        | assumption | apply keeps_modCluster)
    | intro _
    | split

theorem keeps_takeReq {a s : State} {k : Fin 24} {r : Fin 8} {n : Nat} (h0 : Keeps false a s) :
    Keeps false a (takeReq s k r n) := by
  unfold takeReq
  try dsimp only
  repeat' first
    | (with_reducible first
        | assumption | apply keeps_touchDoze | apply keeps_writeNat | apply keeps_dropHeld)
    | intro _
    | split

theorem keeps_startReq {a : State} {k : Fin 24} {r : Fin 8} {n : Nat} {q : BitVec 512} {s : State} {act : State → BitVec 256 →
    Fin 24 → Nat → BitVec 512 → Option AttnFail × State} (h0 : Keeps false a s) (h1 : ∀ (z0 : State) (z1 : BitVec 256) (z2 :
    Fin 24) (z3 : Nat) (z4 : BitVec 512), Keeps false a z0 → Keeps false a (act z0 z1 z2 z3 z4).2) :
    Keeps false a (startReq k r n q s act) := by
  unfold startReq
  try dsimp only
  repeat' first
    | (with_reducible first
        | assumption | apply h1 | apply keeps_takeReq | apply keeps_demand | apply keeps_attnFail | apply
          keeps_attnDone | apply given_none | apply given_some)
    | intro _
    | split
    | refine keeps_of_snd ?_ ‹_›

theorem keeps_attnReq {a : State} {k : Fin 24} {r : Fin 8} {mine : Nat → Bool} {s : State} {act : State → BitVec 256 → Fin 24
    → Nat → BitVec 512 → Option AttnFail × State} (h0 : Keeps false a s) (h1 : ∀ (z0 : State) (z1 : BitVec 256) (z2 : Fin 24)
    (z3 : Nat) (z4 : BitVec 512), Keeps false a z0 → Keeps false a (act z0 z1 z2 z3 z4).2) :
    KeepsRes false a (attnReq k r mine s act) := by
  unfold attnReq
  try dsimp only
  repeat' first
    | (with_reducible first
        | assumption | apply h1 | apply keeps_foldl | apply keeps_touchDoze | apply keeps_startReq | apply
          keepsRes_next | apply keepsRes_fault | apply keepsRes_refused | apply given_none | apply given_some
          | apply keeps_foldl)
    | intro _
    | split
    | refine keeps_of_snd ?_ ‹_›

theorem keeps_deliverPage {a s : State} {y1 : Nat} {xs : List (Byte × Bool)} (h0 : Keeps false a s) :
    Keeps false a (deliverPage s y1 xs) := by
  unfold deliverPage
  try dsimp only
  repeat' first
    | (with_reducible first
        | assumption | apply keeps_writeBytes | apply keeps_setPoison | apply keeps_foldl)
    | intro _
    | split

theorem keeps_untilFail {m : Bool} {a : State} {α : Type} {f : State → α → Option AttnFail × State} {xs : List α} {s : State}
    (h0 : ∀ (z0 : State) (z1 : α), Keeps m a z0 → Keeps m a (f z0 z1).2) (h1 : Keeps m a s) :
    Keeps m a (untilFail f xs s).2 := by
  unfold untilFail
  refine keeps_foldl_snd (fun x y h => ?_) (s := (none, s)) h1
  split
  · exact h
  · exact h0 _ _ h

theorem keeps_doAppend {a s : State} {g : BitVec 256} {k : Fin 24} {r : Nat} {q : BitVec 512} (h0 : Keeps false a s) :
    Keeps false a (doAppend s g k r q).2 := by
  unfold doAppend
  try dsimp only
  repeat' first
    | (with_reducible first
        | assumption | apply keeps_withSource | apply keeps_appendSprout | apply keeps_untilFail | apply
          keeps_appendPage | apply given_none | apply given_some)
    | intro _
    | split
    | refine keeps_of_snd ?_ ‹_›

theorem keeps_stagedSlot {same : Bool} {a s : State} {k : Fin 24} {x : Nat} (h0 : Keeps same a s) :
    Keeps same a (stagedSlot s k x).2 := by
  unfold stagedSlot
  try dsimp only
  repeat' first
    | (with_reducible first
        | assumption | apply given_none | apply given_some | simp only [keeps_mk_iff])
    | intro _
    | split
    | refine keeps_of_snd ?_ ‹_›

theorem keeps_noteFetch {same : Bool} {a s : State} {k : Fin 24} {c l p : Nat} (h0 : Keeps same a s) :
    Keeps same a (noteFetch s k c l p) := by
  unfold noteFetch
  try dsimp only
  repeat' first
    | (with_reducible first
        | assumption | simp only [keeps_mk_iff])
    | intro _
    | split

theorem keeps_fetchPage {a s : State} {g : BitVec 256} {k : Fin 24} {q : BitVec 512} {p : Option Nat} {dst : Nat} (h0 : Keeps
    false a s) :
    Keeps false a (fetchPage s g k q p dst).2 := by
  unfold fetchPage
  try dsimp only
  repeat' first
    | (with_reducible first
        | assumption | apply keeps_meetPte | apply keeps_walk | apply keeps_stagedSlot | apply keeps_noteFetch
          | apply keeps_deliverPage | apply keeps_demandAll | apply keeps_damage | apply given_none | apply
          given_some | apply givenR_inl | apply givenR_inr)
    | intro _
    | split
    | refine keeps_of_snd ?_ ‹_›
    | refine keeps_of_inr_snd ?_ ‹_›

theorem keeps_doFetch {a s : State} {g : BitVec 256} {k : Fin 24} {r : Nat} {q : BitVec 512} (h0 : Keeps false a s) :
    Keeps false a (doFetch s g k r q).2 := by
  unfold doFetch
  try dsimp only
  repeat' first
    | (with_reducible first
        | assumption | apply keeps_untilFail | apply keeps_fetchPage | apply given_none | apply given_some)
    | intro _
    | split
    | refine keeps_of_snd ?_ ‹_›

theorem keeps_doMerge {a s : State} {g : BitVec 256} {k : Fin 24} {r : Nat} {q : BitVec 512} (h0 : Keeps false a s) :
    Keeps false a (doMerge s g k r q).2 := by
  unfold doMerge
  try dsimp only
  repeat' first
    | (with_reducible first
        | assumption | apply keeps_withSource | apply keeps_writeBytes | apply given_none | apply given_some |
          apply given_map)
    | intro _
    | split
    | refine keeps_of_snd ?_ ‹_›

theorem keeps_doStage {a s : State} {g : BitVec 256} {k : Fin 24} {_r : Nat} {q : BitVec 512} (h0 : Keeps false a s) :
    Keeps false a (doStage s g k _r q).2 := by
  unfold doStage
  try dsimp only
  repeat' first
    | (with_reducible first
        | assumption | apply keeps_untilFail | apply keeps_stageOne | apply given_none | apply given_some)
    | intro _
    | split
    | refine keeps_of_snd ?_ ‹_›

theorem keeps_doXpose {a s : State} {g : BitVec 256} {k : Fin 24} {r : Nat} {q : BitVec 512} (h0 : Keeps false a s) :
    Keeps false a (doXpose s g k r q).2 := by
  unfold doXpose
  try dsimp only
  repeat' first
    | (with_reducible first
        | assumption | apply keeps_withSource | apply keeps_foldl | apply keeps_writeBytes | apply given_none
          | apply given_some | apply keeps_foldl)
    | intro _
    | split
    | refine keeps_of_snd ?_ ‹_›

theorem keeps_execAppend {a : State} {k : Fin 24} {r : Fin 8} {s : State} (h0 : Keeps false a s) :
    KeepsRes false a (execAppend k r s) := by
  unfold execAppend
  try dsimp only
  repeat' first
    | (with_reducible first
        | assumption | apply keeps_attnReq | apply keeps_doAppend | apply keepsRes_next | apply keepsRes_fault |
          apply keepsRes_refused | apply given_none | apply given_some)
    | intro _
    | split
    | refine keeps_of_snd ?_ ‹_›

theorem keeps_execFetch {a : State} {k : Fin 24} {r : Fin 8} {s : State} (h0 : Keeps false a s) :
    KeepsRes false a (execFetch k r s) := by
  unfold execFetch
  try dsimp only
  repeat' first
    | (with_reducible first
        | assumption | apply keeps_attnReq | apply keeps_doFetch | apply keepsRes_next | apply keepsRes_fault |
          apply keepsRes_refused | apply given_none | apply given_some)
    | intro _
    | split
    | refine keeps_of_snd ?_ ‹_›

theorem keeps_execMerge {a : State} {k : Fin 24} {r : Fin 8} {s : State} (h0 : Keeps false a s) :
    KeepsRes false a (execMerge k r s) := by
  unfold execMerge
  try dsimp only
  repeat' first
    | (with_reducible first
        | assumption | apply keeps_attnReq | apply keeps_doMerge | apply keepsRes_next | apply keepsRes_fault |
          apply keepsRes_refused | apply given_none | apply given_some)
    | intro _
    | split
    | refine keeps_of_snd ?_ ‹_›

theorem keeps_execStage {a : State} {k : Fin 24} {r : Fin 8} {s : State} (h0 : Keeps false a s) :
    KeepsRes false a (execStage k r s) := by
  unfold execStage
  try dsimp only
  repeat' first
    | (with_reducible first
        | assumption | apply keeps_attnReq | apply keeps_doStage | apply keepsRes_next | apply keepsRes_fault |
          apply keepsRes_refused | apply given_none | apply given_some)
    | intro _
    | split
    | refine keeps_of_snd ?_ ‹_›

theorem keeps_execXpose {a : State} {k : Fin 24} {r : Fin 8} {s : State} (h0 : Keeps false a s) :
    KeepsRes false a (execXpose k r s) := by
  unfold execXpose
  try dsimp only
  repeat' first
    | (with_reducible first
        | assumption | apply keeps_attnReq | apply keeps_doXpose | apply keepsRes_next | apply keepsRes_fault |
          apply keepsRes_refused | apply given_none | apply given_some)
    | intro _
    | split
    | refine keeps_of_snd ?_ ‹_›

end Sys2Proof.Machine
end

