-- ==== Sys2Proof/Laws/KeepsDoze.lean ====
section
/-! SUPPORT. What the operations of Machine/Doze.lean keep. -/

namespace Sys2Proof.Machine

theorem keeps_dozeTrace {same : Bool} {a s : State} {i : Fin 256} {typ wake : Nat} (h0 : Keeps same a s) :
    Keeps same a (dozeTrace s i typ wake) := by
  unfold dozeTrace
  try dsimp only
  repeat' first
    | (with_reducible first
        | assumption | apply keeps_traceCore | apply keeps_traceCluster)
    | intro _
    | split

theorem keeps_setDoze {same : Bool} {a s : State} {i : Nat} {d : DozeSt} (h0 : Keeps same a s) :
    Keeps same a (setDoze s i d) := by
  unfold setDoze
  try dsimp only
  repeat' first
    | (with_reducible first
        | assumption | simp only [keeps_mk_iff])
    | intro _
    | split

theorem keeps_execDomainDoze {same : Bool} {a : State} {i : Fin 256} {s : State} (h0 : Keeps same a s) :
    KeepsRes same a (execDomainDoze i s) := by
  unfold execDomainDoze
  try dsimp only
  repeat' first
    | (with_reducible first
        | assumption | apply keeps_dozeTrace | apply keeps_setDoze | apply keepsRes_next | apply keepsRes_fault |
          apply keepsRes_refused)
    | intro _
    | split

theorem keeps_execDomainWake {same : Bool} {a : State} {i : Fin 256} {s : State} (h0 : Keeps same a s) :
    KeepsRes same a (execDomainWake i s) := by
  unfold execDomainWake
  try dsimp only
  repeat' first
    | (with_reducible first
        | assumption | apply keeps_setDoze | apply keepsRes_next | apply keepsRes_fault | apply
          keepsRes_refused)
    | intro _
    | split

theorem keeps_execDomainWakeComplete {same : Bool} {a : State} {i : Fin 256} {s : State} (h0 : Keeps same a s) :
    KeepsRes same a (execDomainWakeComplete i s) := by
  unfold execDomainWakeComplete
  try dsimp only
  repeat' first
    | (with_reducible first
        | assumption | apply keeps_setDoze | apply keeps_dozeTrace | apply keepsRes_next | apply keepsRes_fault |
          apply keepsRes_refused | simp only [keeps_mk_iff])
    | intro _
    | split

end Sys2Proof.Machine
end

