-- ==== Sys2Proof/Laws/KeepsMgmt.lean ====
section
/-! SUPPORT. What the operations of Machine/Mgmt.lean keep. -/

namespace Sys2Proof.Machine

theorem keeps_leaveMembership {same : Bool} {a s : State} {fuid definer peer : Nat} (h0 : Keeps same a s) :
    Keeps same a (leaveMembership s fuid definer peer) := by
  unfold leaveMembership
  try dsimp only
  repeat' first
    | (with_reducible first
        | assumption | apply keeps_bumpUnits | simp only [keeps_mk_iff])
    | intro _
    | split

theorem keeps_takeReply {same : Bool} {a s : State} {peer : Nat} {args : List Nat} (h0 : Keeps same a s) :
    Keeps same a (takeReply s peer args) := by
  unfold takeReply
  try dsimp only
  repeat' first
    | (with_reducible first
        | assumption | apply keeps_takeAckFrom | apply keeps_finishCmd | apply keeps_updCmd)
    | intro _
    | split

theorem keeps_takeHostWrite {same : Bool} {a s : State} {peer tid addr : Nat} {bs : List Byte} (h0 : Keeps same a s) :
    Keeps same a (takeHostWrite s peer tid addr bs) := by
  unfold takeHostWrite
  try dsimp only
  repeat' first
    | (with_reducible first
        | assumption | apply keeps_updCmd | apply keeps_hostWriteCmd)
    | intro _
    | split

theorem keeps_nextOf {same : Bool} {a s : State} {y1 : Res} (h0 : Keeps same a s) (h1 : KeepsRes same a (y1)) :
    Keeps same a (nextOf s y1) := by
  cases y1 <;> first | exact h0 | exact h1.get _ rfl

theorem keeps_takeMessage {a s : State} {peer lease kind : Nat} {args : List Nat} (h0 : Keeps false a s) :
    Given (Keeps false a) (takeMessage s peer lease kind args) := by
  unfold takeMessage
  try dsimp only
  repeat' first
    | (with_reducible first
        | assumption | apply keeps_leaveMembership | apply keeps_remoteState | apply keeps_takeReply | apply
          keeps_takeVote | apply keeps_takeAckFrom | apply keeps_addFollower | apply keeps_followerReport |
          apply keeps_receivePlan | apply keeps_nextOf | apply keeps_execRemoteCommand | apply
          keeps_takeDecision | apply keeps_answerQuery | apply keeps_takeUnknown | apply keeps_prepareAt |
          apply keeps_takeTelem | apply keeps_stepClosed | apply keeps_restamp | apply keeps_takeHostWrite |
          apply keepsRes_next | apply keepsRes_fault | apply keepsRes_refused | apply given_none | apply
          given_some | apply given_map)
    | intro _
    | split
    | refine keeps_of_some ?_ ‹_›

theorem keeps_takeMgmt {a s : State} {f : FrameIn} (h0 : Keeps false a s) :
    Keeps false a (takeMgmt s f) := by
  unfold takeMgmt
  try dsimp only
  repeat' first
    | (with_reducible first
        | assumption | apply given_getD | apply keeps_takeMessage | apply keeps_park | apply given_none | apply given_some)
    | intro _
    | split
    | refine keeps_of_some ?_ ‹_›

theorem keeps_execFrameMgmt {a : State} {f : FrameIn} {s : State} (h0 : Keeps false a s) :
    KeepsRes false a (execFrameMgmt f s) := by
  unfold execFrameMgmt
  try dsimp only
  repeat' first
    | (with_reducible first
        | assumption | apply keeps_onFrame | apply keeps_takeMgmt | apply keepsRes_next | apply keepsRes_fault
          | apply keepsRes_refused)
    | intro _
    | split

theorem keeps_execMemberStateMessage {same : Bool} {a : State} {fuid state stamp epoch : Nat} {s : State} (h0 : Keeps same a s)
    :
    KeepsRes same a (execMemberStateMessage fuid state stamp epoch s) := by
  unfold execMemberStateMessage
  try dsimp only
  repeat' first
    | (with_reducible first
        | assumption | apply keeps_remoteState | apply keepsRes_next | apply keepsRes_fault | apply keepsRes_refused)
    | intro _
    | split

theorem keeps_serveMgmt {a s : State} (h0 : Keeps false a s) :
    Keeps false a (serveMgmt s) := by
  unfold serveMgmt
  try dsimp only
  repeat' first
    | (with_reducible first
        | assumption | apply keeps_foldl | apply keeps_takeMgmt | apply keeps_setFab | apply keeps_foldl)
    | intro _
    | split

end Sys2Proof.Machine
end

