-- ==== Sys2Proof/Laws/KeepsSideband.lean ====
section
/-! SUPPORT. What the operations of Machine/Sideband.lean keep. -/

namespace Sys2Proof.Machine

theorem keeps_sbArrive {same : Bool} {a s : State} {kind : Nat} {f : SbIn} {act : State → State} (h0 : Keeps same a s) (h1 : ∀
    (z0 : State), Keeps same a z0 → Keeps same a (act z0)) :
    Keeps same a (sbArrive s kind f act) := by
  unfold sbArrive
  try dsimp only
  repeat' first
    | (with_reducible first
        | assumption | apply h1 | apply keeps_emit | simp only [keeps_mk_iff])
    | intro _
    | split

theorem keeps_execSbBypassAssert {same : Bool} {a s : State} (h0 : Keeps same a s) :
    KeepsRes same a (execSbBypassAssert s) := by
  unfold execSbBypassAssert
  try dsimp only
  repeat' first
    | (with_reducible first
        | assumption | apply keepsRes_next | apply keepsRes_fault | apply keepsRes_refused | simp only
          [keeps_mk_iff])
    | intro _
    | split

theorem keeps_execSbBypassOpen {same : Bool} {a s : State} (h0 : Keeps same a s) :
    KeepsRes same a (execSbBypassOpen s) := by
  unfold execSbBypassOpen
  try dsimp only
  repeat' first
    | (with_reducible first
        | assumption | apply keepsRes_next | apply keepsRes_fault | apply keepsRes_refused | simp only
          [keeps_mk_iff])
    | intro _
    | split

theorem keeps_execSbMarkOriginate {same : Bool} {a s : State} (h0 : Keeps same a s) :
    KeepsRes same a (execSbMarkOriginate s) := by
  unfold execSbMarkOriginate
  try dsimp only
  repeat' first
    | (with_reducible first
        | assumption | apply keeps_sbSend | apply keepsRes_next | apply keepsRes_fault | apply
          keepsRes_refused | simp only [keeps_mk_iff])
    | intro _
    | split

theorem keeps_sbForward {same : Bool} {a s : State} {f : SbIn} {payload : List Byte} (h0 : Keeps same a s) :
    Keeps same a (sbForward s f payload) := by
  unfold sbForward
  try dsimp only
  repeat' first
    | (with_reducible first
        | assumption | apply keeps_sbSend)
    | intro _
    | split

theorem keeps_execSbMgmt {same : Bool} {a : State} {f : SbIn} {s : State} (h0 : Keeps same a s) :
    KeepsRes same a (execSbMgmt f s) := by
  unfold execSbMgmt
  try dsimp only
  repeat' first
    | (with_reducible first
        | assumption | apply keeps_sbArrive | apply keeps_sbForward | apply keeps_arrive | apply keepsRes_next
          | apply keepsRes_fault | apply keepsRes_refused)
    | intro _
    | split

theorem keeps_execSbReply {same : Bool} {a : State} {f : SbIn} {s : State} (h0 : Keeps same a s) :
    KeepsRes same a (execSbReply f s) := by
  unfold execSbReply
  try dsimp only
  repeat' first
    | (with_reducible first
        | assumption | apply keeps_sbArrive | apply keeps_sbForward | apply keepsRes_next | apply
          keepsRes_fault | apply keepsRes_refused)
    | intro _
    | split

theorem keeps_execSbStop {same : Bool} {a : State} {f : SbIn} {s : State} (h0 : Keeps same a s) :
    KeepsRes same a (execSbStop f s) := by
  unfold execSbStop
  try dsimp only
  repeat' first
    | (with_reducible first
        | assumption | apply keeps_sbArrive | apply keeps_sbForward | apply keeps_stopDevice | apply
          keepsRes_next | apply keepsRes_fault | apply keepsRes_refused | simp only [keeps_mk_iff])
    | intro _
    | split

end Sys2Proof.Machine
end

