-- ==== Sys2Proof/Laws/KeepsTileQueue.lean ====
section
/-! SUPPORT. What the operations of Machine/TileQueue.lean keep. -/

namespace Sys2Proof.Machine

theorem keeps_tileRun {a : State} {opc : Nat} {c : Fin 192} {w : CoreWord} {s : State} {x : CoreSt} (h0 : Keeps false a s) :
    KeepsCoreOut false a (tileRun opc c w s x) := by
  unfold tileRun
  try dsimp only
  repeat' first
    | (with_reducible first
        | assumption | apply keeps_mmaRun | apply keeps_chainRun | apply keeps_quantRun | apply keeps_accldRun
          | apply keeps_vldRun | apply keeps_vstRun | apply keeps_vaccRun | apply keeps_vRun | apply
          keeps_vquantRun | apply keepsCoreOut_wait | apply keepsCoreOut_stop | apply keepsCoreOut_done |
          apply keepsCoreOut_jump | apply keepsCoreOut_ended | apply keepsCoreOut_hold | apply
          keepsCoreOut_queued | apply keepsCoreOut_poisoned)
    | intro _
    | split
    | refine keeps_of_CoreOut_done ?_ ‹_›
    | refine keeps_of_CoreOut_jump ?_ ‹_›
    | refine keeps_of_CoreOut_ended ?_ ‹_›
    | refine keeps_of_CoreOut_hold ?_ ‹_›
    | refine keeps_of_CoreOut_queued ?_ ‹_›
    | refine keeps_of_CoreOut_poisoned ?_ ‹_›

theorem keeps_stopQueued {same : Bool} {a s : State} {c : Fin 192} {q : QInstr} {reason addr : Nat} (h0 : Keeps same a s) :
    Keeps same a (stopQueued s c q reason addr) := by
  unfold stopQueued
  try dsimp only
  repeat' first
    | (with_reducible first
        | assumption | apply keeps_stopAt | apply keeps_modCore)
    | intro _
    | split

theorem keeps_startQueued {a s : State} {c : Fin 192} {e : Fin 4} {q : QInstr} (h0 : Keeps false a s) :
    Keeps false a (startQueued s c e q) := by
  unfold startQueued
  try dsimp only
  repeat' first
    | (with_reducible first
        | assumption | apply keeps_tileRun | apply keeps_modCore | apply keeps_settleCore | apply
          keeps_completed | apply keeps_dropRebind | apply keeps_stopQueued | apply keepsCoreOut_wait | apply
          keepsCoreOut_stop | apply keepsCoreOut_done | apply keepsCoreOut_jump | apply keepsCoreOut_ended |
          apply keepsCoreOut_hold | apply keepsCoreOut_queued | apply keepsCoreOut_poisoned)
    | intro _
    | split
    | refine keeps_of_CoreOut_done ?_ ‹_›
    | refine keeps_of_CoreOut_jump ?_ ‹_›
    | refine keeps_of_CoreOut_ended ?_ ‹_›
    | refine keeps_of_CoreOut_hold ?_ ‹_›
    | refine keeps_of_CoreOut_queued ?_ ‹_›
    | refine keeps_of_CoreOut_poisoned ?_ ‹_›

theorem keeps_drainQueues {a s : State} {c : Fin 192} (h0 : Keeps false a s) :
    Keeps false a (drainQueues s c) := by
  unfold drainQueues
  try dsimp only
  repeat' first
    | (with_reducible first
        | assumption | apply keeps_foldl | apply keeps_startQueued | apply keeps_foldl)
    | intro _
    | split

theorem keeps_drainAll {a s : State} (h0 : Keeps false a s) :
    Keeps false a (drainAll s) := by
  unfold drainAll
  try dsimp only
  repeat' first
    | (with_reducible first
        | assumption | apply keeps_foldl | apply keeps_drainQueues | apply keeps_foldl)
    | intro _
    | split

end Sys2Proof.Machine
end

