-- ==== Sys2Proof/Laws/KeepsTick.lean ====
section
/-! SUPPORT. What the operations of Machine/Tick.lean keep. -/

namespace Sys2Proof.Machine

theorem keeps_noVerdicts {same : Bool} {a s : State} (h0 : Keeps same a s) :
    Keeps same a (noVerdicts s) := by
  unfold noVerdicts
  try dsimp only
  repeat' first
    | (with_reducible first
        | assumption | simp only [keeps_mk_iff])
    | intro _
    | split

theorem keeps_chargeAll {same : Bool} {a s : State} (h0 : Keeps same a s) :
    Keeps same a (chargeAll s) := by
  unfold chargeAll
  try dsimp only
  repeat' first
    | (with_reducible first
        | assumption | simp only [keeps_mk_iff])
    | intro _
    | split

theorem keeps_traceStall {same : Bool} {a old new s : State} {c : Fin 192} {e : Fin 4} (_h0 : Keeps same a old) (_h1 : Keeps same
    a new) (h2 : Keeps same a s) :
    Keeps same a (traceStall old new s c e) := by
  unfold traceStall
  try dsimp only
  repeat' first
    | (with_reducible first
        | assumption | apply keeps_traceCore)
    | intro _
    | split

theorem keeps_traceStalls {same : Bool} {a old new : State} (h0 : Keeps same a old) (h1 : Keeps same a new) :
    Keeps same a (traceStalls old new) := by
  unfold traceStalls
  refine keeps_foldl (fun s c h => ?_) h1
  exact keeps_foldl (fun s e h => keeps_traceStall h0 h1 h) h

theorem keeps_memoryTick {a s : State} (h0 : Keeps false a s) :
    Keeps false a (memoryTick s) := by
  unfold memoryTick
  try dsimp only
  repeat' first
    | (with_reducible first
        | assumption | apply keeps_foldl | apply keeps_scrubWake | apply keeps_upsetWord | apply
          keeps_reportErrors | apply keeps_foldl)
    | intro _
    | split

theorem keeps_engineTick {a s : State} (h0 : Keeps false a s) :
    Keeps false a (engineTick s) := by
  unfold engineTick
  try dsimp only
  repeat' first
    | (with_reducible first
        | assumption | apply keeps_sbDrain | apply keeps_sendOutbox | apply keeps_sendHeld | apply
          keeps_takeCommand | apply keeps_servePlan | apply keeps_serveMgmt | apply keeps_serveBar2 | apply
          keeps_serveParked | apply keeps_bridgeFence | apply keeps_drainAll)
    | intro _
    | split

end Sys2Proof.Machine
end

