-- ==== Sys2Proof/Laws/KeepsTime.lean ====
section
/-! SUPPORT. What the tick, the time exchanges, the marks and a loss of power keep: all that `Keeps` says but the time, and a loss
of power but memory. -/

namespace Sys2Proof.Machine

/-- A state at another time. -/
def atTime (a : State) (c : BitVec 64) : State := { a with tb := { a.tb with count := c } }

theorem Keeps.atTime {m : Bool} {a s t : State} (h : Keeps m a s) (h1 : t.pending = s.pending) (h2 : t.mem = s.mem)
    (h3 : t.units = s.units) (h4 : t.groups.epoch = s.groups.epoch) (h5 : t.stopArm = s.stopArm)
    (h6 : t.lease.openL = s.lease.openL) : Keeps m (Machine.atTime a t.tb.count) t :=
  ⟨h1.trans h.pending, rfl, fun x => h2.trans (h.mem x), fun x => h2 ▸ h.wf x, fun x => (h.epochs x).of_eq h3 h4,
    fun x => (h.arm x).of_eq h5 h6⟩

theorem Keeps.sameTime {m : Bool} {a t : State} {c : BitVec 64} (h : Keeps m (Machine.atTime a c) t) (e : t.tb.count = c) :
    Keeps m (Machine.atTime a t.tb.count) t := e ▸ h

theorem keeps_takeMark {m : Bool} {a s : State} {v : Nat} (h : Keeps m a s) :
    Keeps m (atTime a (takeMark s v).tb.count) (takeMark s v) := by
  refine h.atTime ?_ ?_ ?_ ?_ ?_ ?_ <;> (unfold takeMark; split <;> rfl)

/-- What keeps the time too is kept at that time. -/
theorem Keeps.here {m : Bool} {a t : State} (h : Keeps m a t) : Keeps m (Machine.atTime a t.tb.count) t :=
  h.atTime rfl rfl rfl rfl rfl rfl

theorem keeps_execTimeExchange {src : BitVec 2} {port : Fin 32} {x : ExchIn} {s t : State}
    (e : execTimeExchange src port x s = .next t) : Keeps true (atTime s t.tb.count) t := by
  unfold execTimeExchange at e
  split at e
  · cases e
    exact (Keeps.refl true s).here
  · have k : Keeps true s (seeRoot s x.root) := keeps_seeRoot (Keeps.refl true s)
    dsimp only at e
    generalize seeRoot s x.root = u at k e
    split at e
    · cases e
      exact k.here
    · cases e
      split
      · have r := keeps_clearAligned (k.atTime (t := { u with tb := { correctTime u.tb true x.offset with
          offset := x.offset, good := if x.offset.natAbs ≤ 2 then u.tb.good + 1 else 0, lastValid := now u, source := src
          port := BitVec.ofNat 5 port
          aligned := (correctTime u.tb true x.offset).aligned || decide ((if x.offset.natAbs ≤ 2 then u.tb.good + 1 else 0) ≥ 3)
          everAligned := (correctTime u.tb true x.offset).everAligned
            || decide ((if x.offset.natAbs ≤ 2 then u.tb.good + 1 else 0) ≥ 3) } }) rfl rfl rfl rfl rfl rfl)
        exact r.sameTime r.time
      · exact k.atTime rfl rfl rfl rfl rfl rfl

theorem keeps_execTimeRootProbeExpiry {s t : State} (e : execTimeRootProbeExpiry s = .next t) :
    Keeps true (atTime s t.tb.count) t := by
  unfold execTimeRootProbeExpiry at e
  split at e
  · cases e
    exact (Keeps.refl true s).here
  · dsimp only at e
    split at e
    · cases e
      exact (Keeps.refl true s).atTime rfl rfl rfl rfl rfl rfl
    · cases e
      exact (Keeps.refl true s).atTime rfl rfl rfl rfl rfl rfl

theorem keeps_execSbMark {f : SbIn} {s t : State} (e : execSbMark f s = .next t) : Keeps true (atTime s t.tb.count) t := by
  unfold execSbMark sbArrive at e
  cases e
  have k : Keeps true s ({ s with sb := { s.sb with lastIn := now s + sbTime f } } : State) :=
    (Keeps.refl true s).of_eq rfl rfl rfl rfl rfl rfl rfl
  dsimp only
  split
  · exact (keeps_emit k).here
  · split
    · split
      · exact (keeps_sbForward k).here
      · exact keeps_takeMark (keeps_sbForward k)
    · exact k.here

theorem keeps_tick {s : State} : Keeps false (atTime s (tick s).tb.count) (tick s) := by
  unfold tick
  split
  · exact (Keeps.refl false s).atTime rfl rfl rfl rfl rfl rfl
  · dsimp only
    generalize hd : ({ s with tb := tbTick s.tb } : State) = u
    have k : Keeps false (atTime s u.tb.count) u := by
      subst hd
      exact (Keeps.refl false s).atTime rfl rfl rfl rfl rfl rfl
    have r := keeps_memoryTick (keeps_engineTick (keeps_traceStalls k (keeps_chargeAll k)))
    exact r.sameTime r.time

theorem unitRec_init (u : PUnit) : unitRec UnitTab.init u = UnitRec.init := by
  cases u with
  | engine c e =>
    unfold unitRec UnitTab.init vget
    simp only [Vector.toList_replicate]
    have h : (c : Nat) * 4 + (e : Nat) < 768 := by omega
    rw [List.getD_eq_getElem?_getD, List.getElem?_replicate, if_pos h]
    rfl
  | _ => first | rfl | exact Vector.getElem_replicate ..

/-- A loss of power keeps the queue, and what it leaves has every form. -/
theorem afterLoss_kept (s : State) (trip : Bool) :
    (afterLoss s trip).pending = s.pending ∧ memWf (afterLoss s trip).mem = true ∧ EpochsOk (afterLoss s trip) ∧ ArmOk (afterLoss s trip) := by
  refine ⟨rfl, rfl, ⟨fun u => ?_, ?_⟩, armOk_disarmed rfl⟩
  · show (unitRec UnitTab.init u).epoch ≠ 0
    rw [unitRec_init]
    decide
  · intro e he
    exact absurd he List.not_mem_nil

end Sys2Proof.Machine
end

