-- ==== Sys2Proof/Laws/Next.lean ====
section
/-! SUPPORT. Every meaning answers a next state. -/

namespace Sys2Proof.Machine

theorem answers {s : State} : ∃ next, (Host.Outcome.next s : Res) = .next next := ⟨s, rfl⟩

theorem next_issue {opc : Nat} {e : Fin 4} {u : FieldUse} {ok : Bool} {c : Fin 192} {w : CoreWord} {s : State} {body : CoreSt →
    CoreOut} : ∃ next, issue opc e u ok c w s body = .next next := by
  unfold issue
  try dsimp only
  repeat' first
    | (with_reducible first
        | apply answers)
    | split

theorem next_issueTile {opc : Nat} {e : Fin 4} {u : FieldUse} {ok : Bool} {rngs : CoreSt → TileRngs} {c : Fin 192} {w : CoreWord}
    {s : State} {body : CoreSt → CoreOut} : ∃ next, issueTile opc e u ok rngs c w s body = .next next := next_issue

theorem next_alu {opc : Nat} {f : BitVec 64 → BitVec 64 → BitVec 64} {c : Fin 192} {w : CoreWord} {s : State} : ∃ next, alu opc
    f c w s = .next next := by
  unfold alu
  try dsimp only
  repeat' first
    | (with_reducible first
        | apply answers | apply next_issue)
    | split

theorem next_attnReq {k : Fin 24} {r : Fin 8} {mine : Nat → Bool} {s : State} {act : State → BitVec 256 → Fin 24 → Nat → BitVec
    512 → Option AttnFail × State} : ∃ next, attnReq k r mine s act = .next next := by
  unfold attnReq
  try dsimp only
  repeat' first
    | (with_reducible first
        | apply answers)
    | split

theorem next_csr {mode : Nat} {c : Fin 192} {w : CoreWord} {s : State} : ∃ next, csr mode c w s = .next next := by
  unfold csr
  try dsimp only
  repeat' first
    | (with_reducible first
        | apply answers | apply next_issue)
    | split

theorem next_execAccld {c : Fin 192} {w : CoreWord} {s : State} : ∃ next, execAccld c w s = .next next := by
  unfold execAccld
  try dsimp only
  repeat' first
    | (with_reducible first
        | apply answers | apply next_issueTile)
    | split

theorem next_execAdd {c : Fin 192} {w : CoreWord} {s : State} : ∃ next, execAdd c w s = .next next := by
  unfold execAdd
  try dsimp only
  repeat' first
    | (with_reducible first
        | apply answers | apply next_alu)
    | split

theorem next_execAlignTimeout {s : State} : ∃ next, execAlignTimeout s = .next next := by
  unfold execAlignTimeout
  try dsimp only
  repeat' first
    | (with_reducible first
        | apply answers)
    | split

theorem next_execAnd {c : Fin 192} {w : CoreWord} {s : State} : ∃ next, execAnd c w s = .next next := by
  unfold execAnd
  try dsimp only
  repeat' first
    | (with_reducible first
        | apply answers | apply next_alu)
    | split

theorem next_execAppend {k : Fin 24} {r : Fin 8} {s : State} : ∃ next, execAppend k r s = .next next := by
  unfold execAppend
  try dsimp only
  repeat' first
    | (with_reducible first
        | apply answers | apply next_attnReq)
    | split

theorem next_execAskocScrubEnd {s : State} : ∃ next, execAskocScrubEnd s = .next next := by
  unfold execAskocScrubEnd
  try dsimp only
  repeat' first
    | (with_reducible first
        | apply answers)
    | split

theorem next_execAtomicDecision {lead key : Nat} {decision : Option Bool} {hits : Nat} {s : State} : ∃ next, execAtomicDecision
    lead key decision hits s = .next next := by
  unfold execAtomicDecision
  try dsimp only
  repeat' first
    | (with_reducible first
        | apply answers)
    | split

theorem next_execAtomicDecisionQuery {lead key : Nat} {s : State} : ∃ next, execAtomicDecisionQuery lead key s = .next next :=
    by
  unfold execAtomicDecisionQuery
  try dsimp only
  repeat' first
    | (with_reducible first
        | apply answers)
    | split

theorem next_execAtomicInDoubt {lead key : Nat} {s : State} : ∃ next, execAtomicInDoubt lead key s = .next next := by
  unfold execAtomicInDoubt
  try dsimp only
  repeat' first
    | (with_reducible first
        | apply answers)
    | split

theorem next_execAtomicPrepare {m : RemoteIn} {s : State} : ∃ next, execAtomicPrepare m s = .next next := by
  unfold execAtomicPrepare
  try dsimp only
  repeat' first
    | (with_reducible first
        | apply answers)
    | split

theorem next_execAtsInvalidateRequest {itag : Nat} {pasid : Option Nat} {page npages : Nat} {s : State} : ∃ next,
    execAtsInvalidateRequest itag pasid page npages s = .next next := by
  unfold execAtsInvalidateRequest
  try dsimp only
  repeat' first
    | (with_reducible first
        | apply answers)
    | split

theorem next_execAtsTranslationCompletion {c : Fin 192} {seq : Nat} {t : TransIn} {s : State} : ∃ next,
    execAtsTranslationCompletion c seq t s = .next next := by
  unfold execAtsTranslationCompletion
  try dsimp only
  repeat' first
    | (with_reducible first
        | apply answers)
    | split

theorem next_execAuditCheckpoint {s : State} : ∃ next, execAuditCheckpoint s = .next next := by
  unfold execAuditCheckpoint
  try dsimp only
  repeat' first
    | (with_reducible first
        | apply answers)
    | split

theorem next_runCmd {s : State} {id op : Nat} {onUnit : State → CmdRec → Sys2Proof.PUnit → State} : ∃ next, runCmd s id op
    onUnit = .next next := by
  unfold runCmd
  try dsimp only
  repeat' first
    | (with_reducible first
        | apply answers)
    | split

theorem next_execAuditRead {id : Nat} {s : State} : ∃ next, execAuditRead id s = .next next := by
  unfold execAuditRead
  try dsimp only
  repeat' first
    | (with_reducible first
        | apply answers | apply next_runCmd)
    | split

theorem next_execBar2Read {t : TlpIn} {s : State} : ∃ next, execBar2Read t s = .next next := by
  unfold execBar2Read
  try dsimp only
  repeat' first
    | (with_reducible first
        | apply answers)
    | split

theorem next_execBar2Write {t : TlpIn} {s : State} : ∃ next, execBar2Write t s = .next next := by
  unfold execBar2Write
  try dsimp only
  repeat' first
    | (with_reducible first
        | apply answers)
    | split

theorem next_onBar0 {s : State} {t : TlpIn} {f : State → State} : ∃ next, onBar0 s t f = .next next := by
  unfold onBar0
  try dsimp only
  repeat' first
    | (with_reducible first
        | apply answers)
    | split

theorem next_onConfig {s : State} {act : State → State} : ∃ next, onConfig s act = .next next := by
  unfold onConfig
  split
  · exact answers
  · split <;> exact answers

theorem next_execBootstrapGo {t : TlpIn} {s : State} : ∃ next, execBootstrapGo t s = .next next := by
  unfold execBootstrapGo
  try dsimp only
  repeat' first
    | (with_reducible first
        | apply answers | apply next_onBar0)
    | split

theorem next_execBr {c : Fin 192} {w : CoreWord} {s : State} : ∃ next, execBr c w s = .next next := by
  unfold execBr
  try dsimp only
  repeat' first
    | (with_reducible first
        | apply answers | apply next_issue)
    | split

theorem next_execBridgeFault {s : State} : ∃ next, execBridgeFault s = .next next := by
  unfold execBridgeFault
  try dsimp only
  repeat' first
    | (with_reducible first
        | apply answers)
    | split

theorem next_execBrl {c : Fin 192} {w : CoreWord} {s : State} : ∃ next, execBrl c w s = .next next := by
  unfold execBrl
  try dsimp only
  repeat' first
    | (with_reducible first
        | apply answers | apply next_issue)
    | split

theorem next_execCanarySample {m : SampleIn} {s : State} : ∃ next, execCanarySample m s = .next next := by
  unfold execCanarySample
  try dsimp only
  repeat' first
    | (with_reducible first
        | apply answers)
    | split

theorem next_execChain {c : Fin 192} {w : CoreWord} {s : State} : ∃ next, execChain c w s = .next next := by
  unfold execChain
  try dsimp only
  repeat' first
    | (with_reducible first
        | apply answers | apply next_issueTile)
    | split

theorem next_execChannelLost {n : Fin 256} {s : State} : ∃ next, execChannelLost n s = .next next := by
  unfold execChannelLost
  try dsimp only
  repeat' first
    | (with_reducible first
        | apply answers)
    | split

theorem next_execCmp {c : Fin 192} {w : CoreWord} {s : State} : ∃ next, execCmp c w s = .next next := by
  unfold execCmp
  try dsimp only
  repeat' first
    | (with_reducible first
        | apply answers | apply next_issue)
    | split

theorem next_fabCollCmd {pick : BitVec 512 → Bool} {ready : State → CmdRec → Bool} {act : State → CmdRec → BitVec 512 → State}
    {id : Nat} {s : State} : ∃ next, fabCollCmd pick ready act id s = .next next := by
  unfold fabCollCmd
  try dsimp only
  repeat' first
    | (with_reducible first
        | apply answers | apply next_runCmd)
    | split

theorem next_execCollectiveArm {id : Nat} {s : State} : ∃ next, execCollectiveArm id s = .next next := by
  unfold execCollectiveArm
  try dsimp only
  repeat' first
    | (with_reducible first
        | apply answers | apply next_fabCollCmd)
    | split

theorem next_execCollectiveDisarm {id : Nat} {s : State} : ∃ next, execCollectiveDisarm id s = .next next := by
  unfold execCollectiveDisarm
  try dsimp only
  repeat' first
    | (with_reducible first
        | apply answers | apply next_fabCollCmd)
    | split

theorem next_execCollectiveInstanceEnd {collid inst : Nat} {s : State} : ∃ next, execCollectiveInstanceEnd collid inst s = .next
    next := by
  unfold execCollectiveInstanceEnd
  try dsimp only
  repeat' first
    | (with_reducible first
        | apply answers)
    | split

theorem next_execCollectiveTrigger {slot : Fin 64} {s : State} : ∃ next, execCollectiveTrigger slot s = .next next := by
  unfold execCollectiveTrigger
  try dsimp only
  repeat' first
    | (with_reducible first
        | apply answers)
    | split

theorem next_execCommandTimeout {id : Nat} {s : State} : ∃ next, execCommandTimeout id s = .next next := by
  unfold execCommandTimeout
  try dsimp only
  repeat' first
    | (with_reducible first
        | apply answers)
    | split

theorem next_execCompletionWrite {id : Nat} {s : State} : ∃ next, execCompletionWrite id s = .next next := by
  unfold execCompletionWrite
  try dsimp only
  repeat' first
    | (with_reducible first
        | apply answers)
    | split

theorem next_execCqHeadDoorbell {t : TlpIn} {s : State} : ∃ next, execCqHeadDoorbell t s = .next next := by
  unfold execCqHeadDoorbell
  try dsimp only
  repeat' first
    | (with_reducible first
        | apply answers | apply next_onBar0)
    | split

theorem next_execCsrClear {c : Fin 192} {w : CoreWord} {s : State} : ∃ next, execCsrClear c w s = .next next := by
  unfold execCsrClear
  try dsimp only
  repeat' first
    | (with_reducible first
        | apply answers | apply next_csr)
    | split

theorem next_execCsrRead {c : Fin 192} {w : CoreWord} {s : State} : ∃ next, execCsrRead c w s = .next next := by
  unfold execCsrRead
  try dsimp only
  repeat' first
    | (with_reducible first
        | apply answers | apply next_csr)
    | split

theorem next_execCsrSet {c : Fin 192} {w : CoreWord} {s : State} : ∃ next, execCsrSet c w s = .next next := by
  unfold execCsrSet
  try dsimp only
  repeat' first
    | (with_reducible first
        | apply answers | apply next_csr)
    | split

theorem next_execCsrWrite {c : Fin 192} {w : CoreWord} {s : State} : ∃ next, execCsrWrite c w s = .next next := by
  unfold execCsrWrite
  try dsimp only
  repeat' first
    | (with_reducible first
        | apply answers | apply next_csr)
    | split

theorem next_execD3hotToD0 {s : State} : ∃ next, execD3hotToD0 s = .next next := by
  unfold execD3hotToD0
  try dsimp only
  repeat' first
    | (with_reducible first
        | apply answers)
    | split

theorem next_execDigestMissingTimeout {qpn seqno : Nat} {s : State} : ∃ next, execDigestMissingTimeout qpn seqno s = .next next
    := by
  unfold execDigestMissingTimeout
  try dsimp only
  repeat' first
    | (with_reducible first
        | apply answers)
    | split

theorem next_execDma {c : Fin 192} {w : CoreWord} {s : State} : ∃ next, execDma c w s = .next next := by
  unfold execDma
  try dsimp only
  repeat' first
    | (with_reducible first
        | apply answers | apply next_issue)
    | split

theorem next_execDmaCopy {id : Nat} {s : State} : ∃ next, execDmaCopy id s = .next next := by
  unfold execDmaCopy
  try dsimp only
  repeat' first
    | (with_reducible first
        | apply answers | apply next_runCmd)
    | split

theorem next_execDmaEntryComplete {c : Fin 192} {seq : Nat} {d : HostData} {s : State} : ∃ next, execDmaEntryComplete c seq d s
    = .next next := by
  unfold execDmaEntryComplete
  try dsimp only
  repeat' first
    | (with_reducible first
        | apply answers)
    | split

theorem next_execDmaEntrySubmit {c : Fin 192} {seq : Nat} {s : State} : ∃ next, execDmaEntrySubmit c seq s = .next next := by
  unfold execDmaEntrySubmit
  try dsimp only
  repeat' first
    | (with_reducible first
        | apply answers)
    | split

theorem next_execDomainDoze {i : Fin 256} {s : State} : ∃ next, execDomainDoze i s = .next next := by
  unfold execDomainDoze
  try dsimp only
  repeat' first
    | (with_reducible first
        | apply answers)
    | split

theorem next_execDomainWake {i : Fin 256} {s : State} : ∃ next, execDomainWake i s = .next next := by
  unfold execDomainWake
  try dsimp only
  repeat' first
    | (with_reducible first
        | apply answers)
    | split

theorem next_execDomainWakeComplete {i : Fin 256} {s : State} : ∃ next, execDomainWakeComplete i s = .next next := by
  unfold execDomainWakeComplete
  try dsimp only
  repeat' first
    | (with_reducible first
        | apply answers)
    | split

theorem next_execDumpCollect {id : Nat} {s : State} : ∃ next, execDumpCollect id s = .next next := by
  unfold execDumpCollect
  try dsimp only
  repeat' first
    | (with_reducible first
        | apply answers | apply next_runCmd)
    | split

theorem next_execEventRingDisable {t : TlpIn} {s : State} : ∃ next, execEventRingDisable t s = .next next := by
  unfold execEventRingDisable
  try dsimp only
  repeat' first
    | (with_reducible first
        | apply answers | apply next_onBar0)
    | split

theorem next_execEventRingEnable {t : TlpIn} {s : State} : ∃ next, execEventRingEnable t s = .next next := by
  unfold execEventRingEnable
  try dsimp only
  repeat' first
    | (with_reducible first
        | apply answers | apply next_onBar0)
    | split

theorem next_execEventRingHeadDoorbell {t : TlpIn} {s : State} : ∃ next, execEventRingHeadDoorbell t s = .next next := by
  unfold execEventRingHeadDoorbell
  try dsimp only
  repeat' first
    | (with_reducible first
        | apply answers | apply next_onBar0)
    | split

theorem next_execFabCollective {id : Nat} {s : State} : ∃ next, execFabCollective id s = .next next := by
  unfold execFabCollective
  try dsimp only
  repeat' first
    | (with_reducible first
        | apply answers | apply next_fabCollCmd)
    | split

theorem next_execFabRouteSet {id : Nat} {s : State} : ∃ next, execFabRouteSet id s = .next next := by
  unfold execFabRouteSet
  try dsimp only
  repeat' first
    | (with_reducible first
        | apply answers | apply next_runCmd)
    | split

theorem next_execFabricHoldExpiry {s : State} : ∃ next, execFabricHoldExpiry s = .next next := by
  unfold execFabricHoldExpiry
  try dsimp only
  repeat' first
    | (with_reducible first
        | apply answers)
    | split

theorem next_execFabricSecret {m : VangaerIn} {s : State} : ∃ next, execFabricSecret m s = .next next := by
  unfold execFabricSecret
  try dsimp only
  repeat' first
    | (with_reducible first
        | apply answers)
    | split

theorem next_fp2 {opc : Nat} {f : FFmt → FEnv → Nat → Nat → Nat × FFlags} {c : Fin 192} {w : CoreWord} {s : State} : ∃ next, fp2
    opc f c w s = .next next := by
  unfold fp2
  try dsimp only
  repeat' first
    | (with_reducible first
        | apply answers | apply next_issue)
    | split

theorem next_execFadd {c : Fin 192} {w : CoreWord} {s : State} : ∃ next, execFadd c w s = .next next := by
  unfold execFadd
  try dsimp only
  repeat' first
    | (with_reducible first
        | apply answers | apply next_fp2)
    | split

theorem next_execFaultReport {r : ReportIn} {s : State} : ∃ next, execFaultReport r s = .next next := by
  unfold execFaultReport
  try dsimp only
  repeat' first
    | (with_reducible first
        | apply answers)
    | split

theorem next_execFaultWindowEnd {d : Fin 2} {s : State} : ∃ next, execFaultWindowEnd d s = .next next := by
  unfold execFaultWindowEnd
  try dsimp only
  repeat' first
    | (with_reducible first
        | apply answers)
    | split

theorem next_execFcmp {c : Fin 192} {w : CoreWord} {s : State} : ∃ next, execFcmp c w s = .next next := by
  unfold execFcmp
  try dsimp only
  repeat' first
    | (with_reducible first
        | apply answers | apply next_issue)
    | split

theorem next_execFcvt {c : Fin 192} {w : CoreWord} {s : State} : ∃ next, execFcvt c w s = .next next := by
  unfold execFcvt
  try dsimp only
  repeat' first
    | (with_reducible first
        | apply answers | apply next_issue)
    | split

theorem next_execFdiv {c : Fin 192} {w : CoreWord} {s : State} : ∃ next, execFdiv c w s = .next next := by
  unfold execFdiv
  try dsimp only
  repeat' first
    | (with_reducible first
        | apply answers | apply next_fp2)
    | split

theorem next_execFence {c : Fin 192} {w : CoreWord} {s : State} : ∃ next, execFence c w s = .next next := by
  unfold execFence
  try dsimp only
  repeat' first
    | (with_reducible first
        | apply answers | apply next_issue)
    | split

theorem next_execFetch {k : Fin 24} {r : Fin 8} {s : State} : ∃ next, execFetch k r s = .next next := by
  unfold execFetch
  try dsimp only
  repeat' first
    | (with_reducible first
        | apply answers | apply next_attnReq)
    | split

theorem next_execFfma {c : Fin 192} {w : CoreWord} {s : State} : ∃ next, execFfma c w s = .next next := by
  unfold execFfma
  try dsimp only
  repeat' first
    | (with_reducible first
        | apply answers | apply next_issue)
    | split

theorem next_execFladd {c : Fin 192} {w : CoreWord} {s : State} : ∃ next, execFladd c w s = .next next := by
  unfold execFladd
  try dsimp only
  repeat' first
    | (with_reducible first
        | apply answers | apply next_issue)
    | split

theorem next_flagCmd {add : Bool} {id op : Nat} {s : State} : ∃ next, flagCmd add id op s = .next next := by
  unfold flagCmd
  try dsimp only
  repeat' first
    | (with_reducible first
        | apply answers | apply next_runCmd)
    | split

theorem next_execFlagAdd {id : Nat} {s : State} : ∃ next, execFlagAdd id s = .next next := by
  unfold execFlagAdd
  try dsimp only
  repeat' first
    | (with_reducible first
        | apply answers | apply next_flagCmd)
    | split

theorem next_execFlagSet {id : Nat} {s : State} : ∃ next, execFlagSet id s = .next next := by
  unfold execFlagSet
  try dsimp only
  repeat' first
    | (with_reducible first
        | apply answers | apply next_flagCmd)
    | split

theorem next_execFlagWait {id : Nat} {s : State} : ∃ next, execFlagWait id s = .next next := by
  unfold execFlagWait
  try dsimp only
  repeat' first
    | (with_reducible first
        | apply answers | apply next_runCmd)
    | split

theorem next_execFlset {c : Fin 192} {w : CoreWord} {s : State} : ∃ next, execFlset c w s = .next next := by
  unfold execFlset
  try dsimp only
  repeat' first
    | (with_reducible first
        | apply answers | apply next_issue)
    | split

theorem next_execFlwait {c : Fin 192} {w : CoreWord} {s : State} : ∃ next, execFlwait c w s = .next next := by
  unfold execFlwait
  try dsimp only
  repeat' first
    | (with_reducible first
        | apply answers | apply next_issue)
    | split

theorem next_execFlwaitTimeout {c : Fin 192} {w : CoreWord} {s : State} : ∃ next, execFlwaitTimeout c w s = .next next := by
  unfold execFlwaitTimeout
  try dsimp only
  repeat' first
    | (with_reducible first
        | apply answers | apply next_issue)
    | split

theorem next_execFminmax {c : Fin 192} {w : CoreWord} {s : State} : ∃ next, execFminmax c w s = .next next := by
  unfold execFminmax
  try dsimp only
  repeat' first
    | (with_reducible first
        | apply answers | apply next_issue)
    | split

theorem next_execFmul {c : Fin 192} {w : CoreWord} {s : State} : ∃ next, execFmul c w s = .next next := by
  unfold execFmul
  try dsimp only
  repeat' first
    | (with_reducible first
        | apply answers | apply next_fp2)
    | split

theorem next_onFrame {f : FrameIn} {s : State} {act : State → State} : ∃ next, onFrame f s act = .next next := by
  unfold onFrame
  try dsimp only
  repeat' first
    | (with_reducible first
        | apply answers)
    | split

theorem next_execFrameAck {f : FrameIn} {s : State} : ∃ next, execFrameAck f s = .next next := by
  unfold execFrameAck
  try dsimp only
  repeat' first
    | (with_reducible first
        | apply answers | apply next_onFrame)
    | split

theorem next_execFrameColl {f : FrameIn} {s : State} : ∃ next, execFrameColl f s = .next next := by
  unfold execFrameColl
  try dsimp only
  repeat' first
    | (with_reducible first
        | apply answers | apply next_onFrame)
    | split

theorem next_execFrameCounterLimit {peer : Nat} {s : State} : ∃ next, execFrameCounterLimit peer s = .next next := by
  unfold execFrameCounterLimit
  try dsimp only
  repeat' first
    | (with_reducible first
        | apply answers)
    | split

theorem next_execFrameDigest {f : FrameIn} {s : State} : ∃ next, execFrameDigest f s = .next next := by
  unfold execFrameDigest
  try dsimp only
  repeat' first
    | (with_reducible first
        | apply answers | apply next_onFrame)
    | split

theorem next_execFrameFlagAdd {f : FrameIn} {s : State} : ∃ next, execFrameFlagAdd f s = .next next := by
  unfold execFrameFlagAdd
  try dsimp only
  repeat' first
    | (with_reducible first
        | apply answers | apply next_onFrame)
    | split

theorem next_execFrameKeyx {f : FrameIn} {s : State} : ∃ next, execFrameKeyx f s = .next next := by
  unfold execFrameKeyx
  try dsimp only
  repeat' first
    | (with_reducible first
        | apply answers | apply next_onFrame)
    | split

theorem next_execFrameMgmt {f : FrameIn} {s : State} : ∃ next, execFrameMgmt f s = .next next := by
  unfold execFrameMgmt
  try dsimp only
  repeat' first
    | (with_reducible first
        | apply answers | apply next_onFrame)
    | split

theorem next_execFrameNack {f : FrameIn} {s : State} : ∃ next, execFrameNack f s = .next next := by
  unfold execFrameNack
  try dsimp only
  repeat' first
    | (with_reducible first
        | apply answers | apply next_onFrame)
    | split

theorem next_execFrameRead {f : FrameIn} {s : State} : ∃ next, execFrameRead f s = .next next := by
  unfold execFrameRead
  try dsimp only
  repeat' first
    | (with_reducible first
        | apply answers | apply next_onFrame)
    | split

theorem next_execFrameReadData {f : FrameIn} {s : State} : ∃ next, execFrameReadData f s = .next next := by
  unfold execFrameReadData
  try dsimp only
  repeat' first
    | (with_reducible first
        | apply answers | apply next_onFrame)
    | split

theorem next_execFrameTime {f : FrameIn} {s : State} : ∃ next, execFrameTime f s = .next next := by
  unfold execFrameTime
  try dsimp only
  repeat' first
    | (with_reducible first
        | apply answers | apply next_onFrame)
    | split

theorem next_execFrameWrite {f : FrameIn} {s : State} : ∃ next, execFrameWrite f s = .next next := by
  unfold execFrameWrite
  try dsimp only
  repeat' first
    | (with_reducible first
        | apply answers | apply next_onFrame)
    | split

theorem next_execFsqrt {c : Fin 192} {w : CoreWord} {s : State} : ∃ next, execFsqrt c w s = .next next := by
  unfold execFsqrt
  try dsimp only
  repeat' first
    | (with_reducible first
        | apply answers | apply next_issue)
    | split

theorem next_execFsub {c : Fin 192} {w : CoreWord} {s : State} : ∃ next, execFsub c w s = .next next := by
  unfold execFsub
  try dsimp only
  repeat' first
    | (with_reducible first
        | apply answers | apply next_fp2)
    | split

theorem next_execFunctionLevelReset {s : State} : ∃ next, execFunctionLevelReset s = .next next := by
  unfold execFunctionLevelReset
  try dsimp only
  repeat' first
    | (with_reducible first
        | apply answers)
    | split

theorem next_execGetCertificate {_session : Nat} {s : State} : ∃ next, execGetCertificate _session s = .next next := by
  unfold execGetCertificate
  try dsimp only
  repeat' first
    | (with_reducible first
        | apply answers)
    | split

theorem next_execGetMeasurements {_session : Nat} {index : MeasureIn} {s : State} : ∃ next, execGetMeasurements _session index s = .next next
    := by
  unfold execGetMeasurements
  try dsimp only
  repeat' first
    | (with_reducible first
        | apply answers)
    | split

theorem next_execGetstatus {s : State} : ∃ next, execGetstatus s = .next next := by
  unfold execGetstatus
  try dsimp only
  repeat' first
    | (with_reducible first
        | apply answers)
    | split

theorem next_execGraphRun {id : Nat} {s : State} : ∃ next, execGraphRun id s = .next next := by
  unfold execGraphRun
  try dsimp only
  repeat' first
    | (with_reducible first
        | apply answers | apply next_runCmd)
    | split

theorem next_execGroupDefine {id : Nat} {s : State} : ∃ next, execGroupDefine id s = .next next := by
  unfold execGroupDefine
  try dsimp only
  repeat' first
    | (with_reducible first
        | apply answers)
    | split

theorem next_execGroupDissolve {id : Nat} {s : State} : ∃ next, execGroupDissolve id s = .next next := by
  unfold execGroupDissolve
  try dsimp only
  repeat' first
    | (with_reducible first
        | apply answers)
    | split

theorem next_execGuardVerdict {c : Fin 192} {s : State} : ∃ next, execGuardVerdict c s = .next next := by
  unfold execGuardVerdict
  try dsimp only
  repeat' first
    | (with_reducible first
        | apply answers)
    | split

theorem next_execHalt {c : Fin 192} {w : CoreWord} {s : State} : ∃ next, execHalt c w s = .next next := by
  unfold execHalt
  try dsimp only
  repeat' first
    | (with_reducible first
        | apply answers | apply next_issue)
    | split

theorem next_execHangDrainEnd {root : Sys2Proof.PUnit} {s : State} : ∃ next, execHangDrainEnd root s = .next next := by
  unfold execHangDrainEnd
  try dsimp only
  repeat' first
    | (with_reducible first
        | apply answers)
    | split

theorem next_execHardwareScrubEnd {s : State} : ∃ next, execHardwareScrubEnd s = .next next := by
  unfold execHardwareScrubEnd
  try dsimp only
  repeat' first
    | (with_reducible first
        | apply answers)
    | split

theorem next_execHbmChannelTrained {n : Fin 256} {rec : BitVec 64} {s : State} : ∃ next, execHbmChannelTrained n rec s = .next
    next := by
  unfold execHbmChannelTrained
  try dsimp only
  repeat' first
    | (with_reducible first
        | apply answers)
    | split

theorem next_execHbmClearEnd {s : State} : ∃ next, execHbmClearEnd s = .next next := by
  unfold execHbmClearEnd
  try dsimp only
  repeat' first
    | (with_reducible first
        | apply answers)
    | split

theorem next_execHbmVerifyEnd {repairs : List (Nat × Nat)} {bad : List Nat} {s : State} : ∃ next, execHbmVerifyEnd repairs bad s
    = .next next := by
  unfold execHbmVerifyEnd
  try dsimp only
  repeat' first
    | (with_reducible first
        | apply answers)
    | split

theorem next_execHotReset {s : State} : ∃ next, execHotReset s = .next next := by
  unfold execHotReset
  try dsimp only
  repeat' first
    | (with_reducible first
        | apply answers)
    | split

theorem next_execI3cCommand {blocks : List (BitVec 512)} {s : State} : ∃ next, execI3cCommand blocks s = .next next := by
  unfold execI3cCommand
  try dsimp only
  repeat' first
    | (with_reducible first
        | apply answers)
    | split

theorem next_execInjectionTokenRefill {s : State} : ∃ next, execInjectionTokenRefill s = .next next := by
  unfold execInjectionTokenRefill
  try dsimp only
  repeat' first
    | (with_reducible first
        | apply answers)
    | split

theorem next_execInstallKey {m : VangaerIn} {s : State} : ∃ next, execInstallKey m s = .next next := by
  unfold execInstallKey
  try dsimp only
  repeat' first
    | (with_reducible first
        | apply answers)
    | split

theorem next_execInvalidateCompletion {itag : Nat} {s : State} : ∃ next, execInvalidateCompletion itag s = .next next := by
  unfold execInvalidateCompletion
  try dsimp only
  repeat' first
    | (with_reducible first
        | apply answers)
    | split

theorem next_execInvalidateReadExpiry {itag : Nat} {s : State} : ∃ next, execInvalidateReadExpiry itag s = .next next := by
  unfold execInvalidateReadExpiry
  try dsimp only
  repeat' first
    | (with_reducible first
        | apply answers)
    | split

theorem next_execJr {c : Fin 192} {w : CoreWord} {s : State} : ∃ next, execJr c w s = .next next := by
  unfold execJr
  try dsimp only
  repeat' first
    | (with_reducible first
        | apply answers | apply next_issue)
    | split

theorem next_execKSetGo {session stream key : Nat} {s : State} : ∃ next, execKSetGo session stream key s = .next next := by
  unfold execKSetGo
  try dsimp only
  repeat' first
    | (with_reducible first
        | apply answers)
    | split

theorem next_execKernelLaunch {id : Nat} {s : State} : ∃ next, execKernelLaunch id s = .next next := by
  unfold execKernelLaunch
  try dsimp only
  repeat' first
    | (with_reducible first
        | apply answers)
    | split

theorem next_execKeyExchange {session : Nat} {s : State} : ∃ next, execKeyExchange session s = .next next := by
  unfold execKeyExchange
  try dsimp only
  repeat' first
    | (with_reducible first
        | apply answers)
    | split

theorem next_execKeyProg {session stream : Nat} {keySet : StreamKeyIn} {s : State} : ∃ next, execKeyProg session stream keySet s = .next next :=
    by
  unfold execKeyProg
  try dsimp only
  repeat' first
    | (with_reducible first
        | apply answers)
    | split

theorem next_execLd {c : Fin 192} {w : CoreWord} {s : State} : ∃ next, execLd c w s = .next next := by
  unfold execLd
  try dsimp only
  repeat' first
    | (with_reducible first
        | apply answers | apply next_issue)
    | split

theorem next_runLease {id op : Nat} {here : State → CmdRec → State} {s : State} : ∃ next, runLease id op here s = .next next :=
    by
  unfold runLease
  try dsimp only
  repeat' first
    | (with_reducible first
        | apply answers)
    | split

theorem next_execLeaseClose {id : Nat} {s : State} : ∃ next, execLeaseClose id s = .next next := by
  unfold execLeaseClose
  try dsimp only
  repeat' first
    | (with_reducible first
        | apply answers | apply next_runLease)
    | split

theorem next_execLeaseCloseDrainEnd {s : State} : ∃ next, execLeaseCloseDrainEnd s = .next next := by
  unfold execLeaseCloseDrainEnd
  try dsimp only
  repeat' first
    | (with_reducible first
        | apply answers)
    | split

theorem next_execLeaseOpen {id : Nat} {s : State} : ∃ next, execLeaseOpen id s = .next next := by
  unfold execLeaseOpen
  try dsimp only
  repeat' first
    | (with_reducible first
        | apply answers | apply next_runLease)
    | split

theorem next_execLinkDown {rate width : Nat} {s : State} : ∃ next, execLinkDown rate width s = .next next := by
  unfold execLinkDown
  try dsimp only
  repeat' first
    | (with_reducible first
        | apply answers)
    | split

theorem next_execLinkRetransmit {p : Fin 32} {index : Nat} {s : State} : ∃ next, execLinkRetransmit p index s = .next next := by
  unfold execLinkRetransmit
  try dsimp only
  repeat' first
    | (with_reducible first
        | apply answers)
    | split

theorem next_execLockInterface {session stream : Nat} {s : State} : ∃ next, execLockInterface session stream s = .next next :=
    by
  unfold execLockInterface
  try dsimp only
  repeat' first
    | (with_reducible first
        | apply answers)
    | split

theorem next_execMemMap {id : Nat} {s : State} : ∃ next, execMemMap id s = .next next := by
  unfold execMemMap
  try dsimp only
  repeat' first
    | (with_reducible first
        | apply answers | apply next_runCmd)
    | split

theorem next_execMemTest {id : Nat} {s : State} : ∃ next, execMemTest id s = .next next := by
  unfold execMemTest
  try dsimp only
  repeat' first
    | (with_reducible first
        | apply answers | apply next_runCmd)
    | split

theorem next_execMemTestEnd {n : Fin 256} {r : TestIn} {s : State} : ∃ next, execMemTestEnd n r s = .next next := by
  unfold execMemTestEnd
  try dsimp only
  repeat' first
    | (with_reducible first
        | apply answers)
    | split

theorem next_execMemberStateMessage {fuid state stamp epoch : Nat} {s : State} : ∃ next, execMemberStateMessage fuid state stamp
    epoch s = .next next := by
  unfold execMemberStateMessage
  try dsimp only
  repeat' first
    | (with_reducible first
        | apply answers)
    | split

theorem next_execMerge {k : Fin 24} {r : Fin 8} {s : State} : ∃ next, execMerge k r s = .next next := by
  unfold execMerge
  try dsimp only
  repeat' first
    | (with_reducible first
        | apply answers | apply next_attnReq)
    | split

theorem next_execMgmtFirmware {id : Nat} {s : State} : ∃ next, execMgmtFirmware id s = .next next := by
  unfold execMgmtFirmware
  try dsimp only
  repeat' first
    | (with_reducible first
        | apply answers | apply next_runCmd)
    | split

theorem next_execMgmtOutOfServiceRestore {id : Nat} {s : State} : ∃ next, execMgmtOutOfServiceRestore id s = .next next := by
  unfold execMgmtOutOfServiceRestore
  try dsimp only
  repeat' first
    | (with_reducible first
        | apply answers | apply next_runCmd)
    | split

theorem next_execMgmtOutOfServiceTake {id : Nat} {s : State} : ∃ next, execMgmtOutOfServiceTake id s = .next next := by
  unfold execMgmtOutOfServiceTake
  try dsimp only
  repeat' first
    | (with_reducible first
        | apply answers | apply next_runCmd)
    | split

theorem next_execMgmtReset {id : Nat} {s : State} : ∃ next, execMgmtReset id s = .next next := by
  unfold execMgmtReset
  try dsimp only
  repeat' first
    | (with_reducible first
        | apply answers | apply next_runCmd)
    | split

theorem next_execMgmtSetIdentity {id : Nat} {s : State} : ∃ next, execMgmtSetIdentity id s = .next next := by
  unfold execMgmtSetIdentity
  try dsimp only
  repeat' first
    | (with_reducible first
        | apply answers | apply next_runCmd)
    | split

theorem next_execMgmtSetLimits {id : Nat} {s : State} : ∃ next, execMgmtSetLimits id s = .next next := by
  unfold execMgmtSetLimits
  try dsimp only
  repeat' first
    | (with_reducible first
        | apply answers | apply next_runCmd)
    | split

theorem next_execMgmtSetProfile {id : Nat} {s : State} : ∃ next, execMgmtSetProfile id s = .next next := by
  unfold execMgmtSetProfile
  try dsimp only
  repeat' first
    | (with_reducible first
        | apply answers | apply next_runCmd)
    | split

theorem next_execMirrorSecret {m : VangaerIn} {s : State} : ∃ next, execMirrorSecret m s = .next next := by
  unfold execMirrorSecret
  try dsimp only
  repeat' first
    | (with_reducible first
        | apply answers)
    | split

theorem next_execMma {c : Fin 192} {w : CoreWord} {s : State} : ∃ next, execMma c w s = .next next := by
  unfold execMma
  try dsimp only
  repeat' first
    | (with_reducible first
        | apply answers | apply next_issueTile)
    | split

theorem next_execMqDisable {t : TlpIn} {s : State} : ∃ next, execMqDisable t s = .next next := by
  unfold execMqDisable
  try dsimp only
  repeat' first
    | (with_reducible first
        | apply answers | apply next_onBar0)
    | split

theorem next_execMqEnable {t : TlpIn} {s : State} : ∃ next, execMqEnable t s = .next next := by
  unfold execMqEnable
  try dsimp only
  repeat' first
    | (with_reducible first
        | apply answers | apply next_onBar0)
    | split

theorem next_execMsixUnmask {t : TlpIn} {s : State} : ∃ next, execMsixUnmask t s = .next next := by
  unfold execMsixUnmask
  try dsimp only
  repeat' first
    | (with_reducible first
        | apply answers | apply next_onBar0 | apply next_onConfig)
    | split

theorem next_execMul {c : Fin 192} {w : CoreWord} {s : State} : ∃ next, execMul c w s = .next next := by
  unfold execMul
  try dsimp only
  repeat' first
    | (with_reducible first
        | apply answers | apply next_alu)
    | split

theorem next_execMulhu {c : Fin 192} {w : CoreWord} {s : State} : ∃ next, execMulhu c w s = .next next := by
  unfold execMulhu
  try dsimp only
  repeat' first
    | (with_reducible first
        | apply answers | apply next_alu)
    | split

theorem next_execOr {c : Fin 192} {w : CoreWord} {s : State} : ∃ next, execOr c w s = .next next := by
  unfold execOr
  try dsimp only
  repeat' first
    | (with_reducible first
        | apply answers | apply next_alu)
    | split

theorem next_execPacePublish {s : State} : ∃ next, execPacePublish s = .next next := by
  unfold execPacePublish
  try dsimp only
  repeat' first
    | (with_reducible first
        | apply answers)
    | split

theorem next_execPermissionRefusalReply {id : Nat} {s : State} : ∃ next, execPermissionRefusalReply id s = .next next := by
  unfold execPermissionRefusalReply
  try dsimp only
  repeat' first
    | (with_reducible first
        | apply answers)
    | split

theorem next_execPerstNAssert {s : State} : ∃ next, execPerstNAssert s = .next next := by
  unfold execPerstNAssert
  try dsimp only
  repeat' first
    | (with_reducible first
        | apply answers)
    | split

theorem next_execPerstNDeassert {rate width : Nat} {s : State} : ∃ next, execPerstNDeassert rate width s = .next next := by
  unfold execPerstNDeassert
  try dsimp only
  repeat' first
    | (with_reducible first
        | apply answers)
    | split

theorem next_execPlainSecret {m : VangaerIn} {s : State} : ∃ next, execPlainSecret m s = .next next := by
  unfold execPlainSecret
  try dsimp only
  repeat' first
    | (with_reducible first
        | apply answers)
    | split

theorem next_execPlanReceive {lead dst : Nat} {plan : List Nat} {s : State} : ∃ next, execPlanReceive lead dst plan s = .next
    next := by
  unfold execPlanReceive
  try dsimp only
  repeat' first
    | (with_reducible first
        | apply answers)
    | split

theorem next_execPlog {c : Fin 192} {w : CoreWord} {s : State} : ∃ next, execPlog c w s = .next next := by
  unfold execPlog
  try dsimp only
  repeat' first
    | (with_reducible first
        | apply answers | apply next_issue)
    | split

theorem next_execPorNDeassert {p : PowerIn} {s : State} : ∃ next, execPorNDeassert p s = .next next := by
  unfold execPorNDeassert
  try dsimp only
  repeat' first
    | (with_reducible first
        | apply answers)
    | split

theorem next_portCtl {action : Nat} {eff : State → CmdRec → Fin 32 → State} {id : Nat} {s : State} : ∃ next, portCtl action eff
    id s = .next next := by
  unfold portCtl
  try dsimp only
  repeat' first
    | (with_reducible first
        | apply answers | apply next_runCmd)
    | split

theorem next_execPortDisable {id : Nat} {s : State} : ∃ next, execPortDisable id s = .next next := by
  unfold execPortDisable
  try dsimp only
  repeat' first
    | (with_reducible first
        | apply answers | apply next_portCtl)
    | split

theorem next_execPortEnable {id : Nat} {s : State} : ∃ next, execPortEnable id s = .next next := by
  unfold execPortEnable
  try dsimp only
  repeat' first
    | (with_reducible first
        | apply answers | apply next_portCtl)
    | split

theorem next_execPortLinkLoss {p : Fin 32} {s : State} : ∃ next, execPortLinkLoss p s = .next next := by
  unfold execPortLinkLoss
  try dsimp only
  repeat' first
    | (with_reducible first
        | apply answers)
    | split

theorem next_execPortLoopback {id : Nat} {s : State} : ∃ next, execPortLoopback id s = .next next := by
  unfold execPortLoopback
  try dsimp only
  repeat' first
    | (with_reducible first
        | apply answers | apply next_portCtl)
    | split

theorem next_execPortRetrain {id : Nat} {s : State} : ∃ next, execPortRetrain id s = .next next := by
  unfold execPortRetrain
  try dsimp only
  repeat' first
    | (with_reducible first
        | apply answers | apply next_portCtl)
    | split

theorem next_execPortRetrainTimer {p : Fin 32} {s : State} : ∃ next, execPortRetrainTimer p s = .next next := by
  unfold execPortRetrainTimer
  try dsimp only
  repeat' first
    | (with_reducible first
        | apply answers)
    | split

theorem next_execPortSignalDetected {p : Fin 32} {s : State} : ∃ next, execPortSignalDetected p s = .next next := by
  unfold execPortSignalDetected
  try dsimp only
  repeat' first
    | (with_reducible first
        | apply answers)
    | split

theorem next_execPortTrained {p : Fin 32} {full : Bool} {s : State} : ∃ next, execPortTrained p full s = .next next := by
  unfold execPortTrained
  try dsimp only
  repeat' first
    | (with_reducible first
        | apply answers)
    | split

theorem next_execPowerLoss {l : LossIn} {s : State} : ∃ next, execPowerLoss l s = .next next := by
  unfold execPowerLoss
  try dsimp only
  repeat' first
    | (with_reducible first
        | apply answers)
    | split

theorem next_seqCtxCmd {id op : Nat} {s : State} {also : CmdRec → List Nat} {eff : State → CmdRec → BitVec 256 → BitVec 1024 →
    Nat × Nat × State} : ∃ next, seqCtxCmd id op s also eff = .next next := by
  unfold seqCtxCmd
  try dsimp only
  repeat' first
    | (with_reducible first
        | apply answers | apply next_runCmd)
    | split

theorem next_execPrefixPublish {id : Nat} {s : State} : ∃ next, execPrefixPublish id s = .next next := by
  unfold execPrefixPublish
  try dsimp only
  repeat' first
    | (with_reducible first
        | apply answers | apply next_seqCtxCmd)
    | split

theorem next_execPrgResponse {c : Fin 192} {seq code : Nat} {s : State} : ∃ next, execPrgResponse c seq code s = .next next :=
    by
  unfold execPrgResponse
  try dsimp only
  repeat' first
    | (with_reducible first
        | apply answers)
    | split

theorem next_execPriWaitExpiry {c : Fin 192} {seq : Nat} {s : State} : ∃ next, execPriWaitExpiry c seq s = .next next := by
  unfold execPriWaitExpiry
  try dsimp only
  repeat' first
    | (with_reducible first
        | apply answers)
    | split

theorem next_execQpCreate {id : Nat} {s : State} : ∃ next, execQpCreate id s = .next next := by
  unfold execQpCreate
  try dsimp only
  repeat' first
    | (with_reducible first
        | apply answers | apply next_runCmd)
    | split

theorem next_execQpDelete {id : Nat} {s : State} : ∃ next, execQpDelete id s = .next next := by
  unfold execQpDelete
  try dsimp only
  repeat' first
    | (with_reducible first
        | apply answers | apply next_runCmd)
    | split

theorem next_execQuant {c : Fin 192} {w : CoreWord} {s : State} : ∃ next, execQuant c w s = .next next := by
  unfold execQuant
  try dsimp only
  repeat' first
    | (with_reducible first
        | apply answers | apply next_issueTile)
    | split

theorem next_execRegisterSnapshotRead {t : TlpIn} {s : State} : ∃ next, execRegisterSnapshotRead t s = .next next := by
  unfold execRegisterSnapshotRead
  try dsimp only
  repeat' first
    | (with_reducible first
        | apply answers | apply next_onBar0 | apply next_onConfig)
    | split

theorem next_execRegisterWrite {t : TlpIn} {s : State} : ∃ next, execRegisterWrite t s = .next next := by
  unfold execRegisterWrite
  try dsimp only
  repeat' first
    | (with_reducible first
        | apply answers | apply next_onBar0 | apply next_onConfig)
    | split

theorem next_execRekeyTimeout {peer : Nat} {s : State} : ∃ next, execRekeyTimeout peer s = .next next := by
  unfold execRekeyTimeout
  try dsimp only
  repeat' first
    | (with_reducible first
        | apply answers)
    | split

theorem next_execRekeyTrigger {peer : Nat} {s : State} : ∃ next, execRekeyTrigger peer s = .next next := by
  unfold execRekeyTrigger
  try dsimp only
  repeat' first
    | (with_reducible first
        | apply answers)
    | split

theorem next_execRemoteCommand {m : RemoteIn} {s : State} : ∃ next, execRemoteCommand m s = .next next := by
  unfold execRemoteCommand
  try dsimp only
  repeat' first
    | (with_reducible first
        | apply answers)
    | split

theorem next_execReplayEnd {c : Fin 192} {s : State} : ∃ next, execReplayEnd c s = .next next := by
  unfold execReplayEnd
  try dsimp only
  repeat' first
    | (with_reducible first
        | apply answers)
    | split

theorem next_execResetEnd {root : Sys2Proof.PUnit} {s : State} : ∃ next, execResetEnd root s = .next next := by
  unfold execResetEnd
  split
  · exact ⟨_, rfl⟩
  · split
    · exact ⟨_, rfl⟩
    · cases root <;> dsimp only <;> repeat' first
        | exact ⟨_, rfl⟩
        | split

theorem next_execResetFaultEscalate {root : Sys2Proof.PUnit} {s : State} : ∃ next, execResetFaultEscalate root s = .next next :=
    by
  unfold execResetFaultEscalate
  try dsimp only
  repeat' first
    | (with_reducible first
        | apply answers)
    | split

theorem next_execRunAheadPrefetch {s : State} : ∃ next, execRunAheadPrefetch s = .next next := by
  unfold execRunAheadPrefetch
  try dsimp only
  repeat' first
    | (with_reducible first
        | apply answers)
    | split

theorem next_execSbBypassAssert {s : State} : ∃ next, execSbBypassAssert s = .next next := by
  unfold execSbBypassAssert
  try dsimp only
  repeat' first
    | (with_reducible first
        | apply answers)
    | split

theorem next_execSbBypassOpen {s : State} : ∃ next, execSbBypassOpen s = .next next := by
  unfold execSbBypassOpen
  try dsimp only
  repeat' first
    | (with_reducible first
        | apply answers)
    | split

theorem next_execSbMark {f : SbIn} {s : State} : ∃ next, execSbMark f s = .next next := by
  unfold execSbMark
  try dsimp only
  repeat' first
    | (with_reducible first
        | apply answers)
    | split

theorem next_execSbMarkOriginate {s : State} : ∃ next, execSbMarkOriginate s = .next next := by
  unfold execSbMarkOriginate
  try dsimp only
  repeat' first
    | (with_reducible first
        | apply answers)
    | split

theorem next_execSbMgmt {f : SbIn} {s : State} : ∃ next, execSbMgmt f s = .next next := by
  unfold execSbMgmt
  try dsimp only
  repeat' first
    | (with_reducible first
        | apply answers)
    | split

theorem next_execSbReply {f : SbIn} {s : State} : ∃ next, execSbReply f s = .next next := by
  unfold execSbReply
  try dsimp only
  repeat' first
    | (with_reducible first
        | apply answers)
    | split

theorem next_execSbStop {f : SbIn} {s : State} : ∃ next, execSbStop f s = .next next := by
  unfold execSbStop
  try dsimp only
  repeat' first
    | (with_reducible first
        | apply answers)
    | split

theorem next_execScrubRead {addr : Nat} {e : EccIn} {s : State} : ∃ next, execScrubRead addr e s = .next next := by
  unfold execScrubRead
  try dsimp only
  repeat' first
    | (with_reducible first
        | apply answers)
    | split

theorem next_seqAtomic {id op : Nat} {s : State} {eff : State → CmdRec → BitVec 256 → BitVec 1024 → Nat × Nat × State} : ∃ next,
    seqAtomic id op s eff = .next next := by
  unfold seqAtomic
  try dsimp only
  repeat' first
    | (with_reducible first
        | apply answers | apply next_seqCtxCmd)
    | split

theorem next_execSeqCommit {id : Nat} {s : State} : ∃ next, execSeqCommit id s = .next next := by
  unfold execSeqCommit
  try dsimp only
  repeat' first
    | (with_reducible first
        | apply answers | apply next_seqAtomic)
    | split

theorem next_execSeqConfig {id : Nat} {s : State} : ∃ next, execSeqConfig id s = .next next := by
  unfold execSeqConfig
  try dsimp only
  repeat' first
    | (with_reducible first
        | apply answers | apply next_runCmd)
    | split

theorem next_execSeqCreate {id : Nat} {s : State} : ∃ next, execSeqCreate id s = .next next := by
  unfold execSeqCreate
  try dsimp only
  repeat' first
    | (with_reducible first
        | apply answers | apply next_seqCtxCmd)
    | split

theorem next_execSeqDestroy {id : Nat} {s : State} : ∃ next, execSeqDestroy id s = .next next := by
  unfold execSeqDestroy
  try dsimp only
  repeat' first
    | (with_reducible first
        | apply answers | apply next_seqCtxCmd)
    | split

theorem next_execSeqDraft {id : Nat} {s : State} : ∃ next, execSeqDraft id s = .next next := by
  unfold execSeqDraft
  try dsimp only
  repeat' first
    | (with_reducible first
        | apply answers | apply next_seqCtxCmd)
    | split

theorem next_execSeqEvict {id : Nat} {s : State} : ∃ next, execSeqEvict id s = .next next := by
  unfold execSeqEvict
  try dsimp only
  repeat' first
    | (with_reducible first
        | apply answers | apply next_seqCtxCmd)
    | split

theorem next_execSeqPrefill {id : Nat} {s : State} : ∃ next, execSeqPrefill id s = .next next := by
  unfold execSeqPrefill
  try dsimp only
  repeat' first
    | (with_reducible first
        | apply answers | apply next_seqAtomic)
    | split

theorem next_execSeqResume {id : Nat} {s : State} : ∃ next, execSeqResume id s = .next next := by
  unfold execSeqResume
  try dsimp only
  repeat' first
    | (with_reducible first
        | apply answers | apply next_seqCtxCmd)
    | split

theorem next_execSeqRetract {id : Nat} {s : State} : ∃ next, execSeqRetract id s = .next next := by
  unfold execSeqRetract
  try dsimp only
  repeat' first
    | (with_reducible first
        | apply answers | apply next_seqAtomic)
    | split

theorem next_execSeqStep {id : Nat} {d : HostData} {s : State} : ∃ next, execSeqStep id d s = .next next := by
  unfold execSeqStep
  try dsimp only
  repeat' first
    | (with_reducible first
        | apply answers | apply next_runCmd)
    | split

theorem next_execSeqSuspend {id : Nat} {s : State} : ∃ next, execSeqSuspend id s = .next next := by
  unfold execSeqSuspend
  try dsimp only
  repeat' first
    | (with_reducible first
        | apply answers | apply next_seqCtxCmd)
    | split

theorem next_execShl {c : Fin 192} {w : CoreWord} {s : State} : ∃ next, execShl c w s = .next next := by
  unfold execShl
  try dsimp only
  repeat' first
    | (with_reducible first
        | apply answers | apply next_alu)
    | split

theorem next_execShr {c : Fin 192} {w : CoreWord} {s : State} : ∃ next, execShr c w s = .next next := by
  unfold execShr
  try dsimp only
  repeat' first
    | (with_reducible first
        | apply answers | apply next_alu)
    | split

theorem next_execSqTailDoorbell {t : TlpIn} {fetched : List FetchIn} {s : State} : ∃ next, execSqTailDoorbell t fetched s =
    .next next := by
  unfold execSqTailDoorbell
  try dsimp only
  repeat' first
    | (with_reducible first
        | apply answers | apply next_onBar0)
    | split

theorem next_execSra {c : Fin 192} {w : CoreWord} {s : State} : ∃ next, execSra c w s = .next next := by
  unfold execSra
  try dsimp only
  repeat' first
    | (with_reducible first
        | apply answers | apply next_alu)
    | split

theorem next_execSt {c : Fin 192} {w : CoreWord} {s : State} : ∃ next, execSt c w s = .next next := by
  unfold execSt
  try dsimp only
  repeat' first
    | (with_reducible first
        | apply answers | apply next_issue)
    | split

theorem next_execStage {k : Fin 24} {r : Fin 8} {s : State} : ∃ next, execStage k r s = .next next := by
  unfold execStage
  try dsimp only
  repeat' first
    | (with_reducible first
        | apply answers | apply next_attnReq)
    | split

theorem next_execStartInterface {session nonce : Nat} {s : State} : ∃ next, execStartInterface session nonce s = .next next :=
    by
  unfold execStartInterface
  try dsimp only
  repeat' first
    | (with_reducible first
        | apply answers)
    | split

theorem next_execStepgraphComplete {s : State} : ∃ next, execStepgraphComplete s = .next next := by
  unfold execStepgraphComplete
  try dsimp only
  repeat' first
    | (with_reducible first
        | apply answers)
    | split

theorem next_execStopArmExpiry {s : State} : ∃ next, execStopArmExpiry s = .next next := by
  unfold execStopArmExpiry
  try dsimp only
  repeat' first
    | (with_reducible first
        | apply answers)
    | split

theorem next_stopCmd {id mode : Nat} {s : State} {f : State → CmdRec → State} : ∃ next, stopCmd id mode s f = .next next := by
  unfold stopCmd
  try dsimp only
  repeat' first
    | (with_reducible first
        | apply answers | apply next_runCmd)
    | split

theorem next_execStopGlobalArm {id : Nat} {s : State} : ∃ next, execStopGlobalArm id s = .next next := by
  unfold execStopGlobalArm
  try dsimp only
  repeat' first
    | (with_reducible first
        | apply answers | apply next_stopCmd)
    | split

theorem next_execStopGlobalDisarm {id : Nat} {s : State} : ∃ next, execStopGlobalDisarm id s = .next next := by
  unfold execStopGlobalDisarm
  try dsimp only
  repeat' first
    | (with_reducible first
        | apply answers | apply next_stopCmd)
    | split

theorem next_execStopGlobalFire {id : Nat} {s : State} : ∃ next, execStopGlobalFire id s = .next next := by
  unfold execStopGlobalFire
  try dsimp only
  repeat' first
    | (with_reducible first
        | apply answers | apply next_stopCmd)
    | split

theorem next_execStopInterface {session : Nat} {s : State} : ∃ next, execStopInterface session s = .next next := by
  unfold execStopInterface
  try dsimp only
  repeat' first
    | (with_reducible first
        | apply answers)
    | split

theorem next_execSub {c : Fin 192} {w : CoreWord} {s : State} : ∃ next, execSub c w s = .next next := by
  unfold execSub
  try dsimp only
  repeat' first
    | (with_reducible first
        | apply answers | apply next_alu)
    | split

theorem next_execTbSyncPulse {s : State} : ∃ next, execTbSyncPulse s = .next next := by
  unfold execTbSyncPulse
  try dsimp only
  repeat' first
    | (with_reducible first
        | apply answers)
    | split

theorem next_execTdiError {cause : TdiErrorIn} {s : State} : ∃ next, execTdiError cause s = .next next := by
  unfold execTdiError
  try dsimp only
  repeat' first
    | (with_reducible first
        | apply answers)
    | split

theorem next_execTelemRead {id : Nat} {s : State} : ∃ next, execTelemRead id s = .next next := by
  unfold execTelemRead
  try dsimp only
  repeat' first
    | (with_reducible first
        | apply answers)
    | split

theorem next_execThermalTrip {d : Fin 2} {sensor : Nat} {s : State} : ∃ next, execThermalTrip d sensor s = .next next := by
  unfold execThermalTrip
  try dsimp only
  repeat' first
    | (with_reducible first
        | apply answers)
    | split

theorem next_execTimeExchange {src : BitVec 2} {port : Fin 32} {offset : ExchIn} {s : State} : ∃ next, execTimeExchange src port
    offset s = .next next := by
  unfold execTimeExchange
  try dsimp only
  repeat' first
    | (with_reducible first
        | apply answers)
    | split

theorem next_execTimeRootProbe {s : State} : ∃ next, execTimeRootProbe s = .next next := by
  unfold execTimeRootProbe
  try dsimp only
  repeat' first
    | (with_reducible first
        | apply answers)
    | split

theorem next_execTimeRootProbeExpiry {s : State} : ∃ next, execTimeRootProbeExpiry s = .next next := by
  unfold execTimeRootProbeExpiry
  try dsimp only
  repeat' first
    | (with_reducible first
        | apply answers)
    | split

theorem next_execTlpRefused {t : TlpIn} {s : State} : ∃ next, execTlpRefused t s = .next next := by
  unfold execTlpRefused
  try dsimp only
  repeat' first
    | (with_reducible first
        | apply answers)
    | split

theorem next_execTraceCtl {id : Nat} {s : State} : ∃ next, execTraceCtl id s = .next next := by
  unfold execTraceCtl
  try dsimp only
  repeat' first
    | (with_reducible first
        | apply answers | apply next_runCmd)
    | split

theorem next_execUnitReady {u : Sys2Proof.PUnit} {s : State} : ∃ next, execUnitReady u s = .next next := by
  unfold execUnitReady
  try dsimp only
  repeat' first
    | (with_reducible first
        | apply answers)
    | split

theorem next_execVacc {c : Fin 192} {w : CoreWord} {s : State} : ∃ next, execVacc c w s = .next next := by
  unfold execVacc
  try dsimp only
  repeat' first
    | (with_reducible first
        | apply answers | apply next_issueTile)
    | split

theorem next_vIssue {opc : Nat} {u : FieldUse} {ok : Bool} {f : VFun} {draws : Bool} {c : Fin 192} {w : CoreWord} {s : State} :
    ∃ next, vIssue opc u ok f draws c w s = .next next := by
  unfold vIssue; exact next_issueTile

theorem next_execVadd {c : Fin 192} {w : CoreWord} {s : State} : ∃ next, execVadd c w s = .next next := by
  unfold execVadd
  try dsimp only
  repeat' first
    | (with_reducible first
        | apply answers | apply next_vIssue)
    | split

theorem next_execVangaerReply {s : State} : ∃ next, execVangaerReply s = .next next := by
  unfold execVangaerReply
  try dsimp only
  repeat' first
    | (with_reducible first
        | apply answers)
    | split

theorem next_execVcCreditReturn {p : Fin 32} {vc : Fin 4} {n : Nat} {s : State} : ∃ next, execVcCreditReturn p vc n s = .next
    next := by
  unfold execVcCreditReturn
  try dsimp only
  repeat' first
    | (with_reducible first
        | apply answers)
    | split

theorem next_execVcmp {c : Fin 192} {w : CoreWord} {s : State} : ∃ next, execVcmp c w s = .next next := by
  unfold execVcmp
  try dsimp only
  repeat' first
    | (with_reducible first
        | apply answers | apply next_vIssue)
    | split

theorem next_execVcvt {c : Fin 192} {w : CoreWord} {s : State} : ∃ next, execVcvt c w s = .next next := by
  unfold execVcvt
  try dsimp only
  repeat' first
    | (with_reducible first
        | apply answers | apply next_vIssue)
    | split

theorem next_execVdiv {c : Fin 192} {w : CoreWord} {s : State} : ∃ next, execVdiv c w s = .next next := by
  unfold execVdiv
  try dsimp only
  repeat' first
    | (with_reducible first
        | apply answers | apply next_vIssue)
    | split

theorem next_execVdq {c : Fin 192} {w : CoreWord} {s : State} : ∃ next, execVdq c w s = .next next := by
  unfold execVdq
  try dsimp only
  repeat' first
    | (with_reducible first
        | apply answers | apply next_vIssue)
    | split

theorem next_execVfma {c : Fin 192} {w : CoreWord} {s : State} : ∃ next, execVfma c w s = .next next := by
  unfold execVfma
  try dsimp only
  repeat' first
    | (with_reducible first
        | apply answers | apply next_vIssue)
    | split

theorem next_execVfn {c : Fin 192} {w : CoreWord} {s : State} : ∃ next, execVfn c w s = .next next := by
  unfold execVfn
  try dsimp only
  repeat' first
    | (with_reducible first
        | apply answers | apply next_vIssue)
    | split

theorem next_execVld {c : Fin 192} {w : CoreWord} {s : State} : ∃ next, execVld c w s = .next next := by
  unfold execVld
  try dsimp only
  repeat' first
    | (with_reducible first
        | apply answers | apply next_issueTile)
    | split

theorem next_execVminmax {c : Fin 192} {w : CoreWord} {s : State} : ∃ next, execVminmax c w s = .next next := by
  unfold execVminmax
  try dsimp only
  repeat' first
    | (with_reducible first
        | apply answers | apply next_vIssue)
    | split

theorem next_execVmul {c : Fin 192} {w : CoreWord} {s : State} : ∃ next, execVmul c w s = .next next := by
  unfold execVmul
  try dsimp only
  repeat' first
    | (with_reducible first
        | apply answers | apply next_vIssue)
    | split

theorem next_execVquant {c : Fin 192} {w : CoreWord} {s : State} : ∃ next, execVquant c w s = .next next := by
  unfold execVquant
  try dsimp only
  repeat' first
    | (with_reducible first
        | apply answers | apply next_issueTile)
    | split

theorem next_execVred {c : Fin 192} {w : CoreWord} {s : State} : ∃ next, execVred c w s = .next next := by
  unfold execVred
  try dsimp only
  repeat' first
    | (with_reducible first
        | apply answers | apply next_vIssue)
    | split

theorem next_execVsel {c : Fin 192} {w : CoreWord} {s : State} : ∃ next, execVsel c w s = .next next := by
  unfold execVsel
  try dsimp only
  repeat' first
    | (with_reducible first
        | apply answers | apply next_vIssue)
    | split

theorem next_execVsqrt {c : Fin 192} {w : CoreWord} {s : State} : ∃ next, execVsqrt c w s = .next next := by
  unfold execVsqrt
  try dsimp only
  repeat' first
    | (with_reducible first
        | apply answers | apply next_vIssue)
    | split

theorem next_execVst {c : Fin 192} {w : CoreWord} {s : State} : ∃ next, execVst c w s = .next next := by
  unfold execVst
  try dsimp only
  repeat' first
    | (with_reducible first
        | apply answers | apply next_issueTile)
    | split

theorem next_execVsub {c : Fin 192} {w : CoreWord} {s : State} : ∃ next, execVsub c w s = .next next := by
  unfold execVsub
  try dsimp only
  repeat' first
    | (with_reducible first
        | apply answers | apply next_vIssue)
    | split

theorem next_execWaitd {c : Fin 192} {w : CoreWord} {s : State} : ∃ next, execWaitd c w s = .next next := by
  unfold execWaitd
  try dsimp only
  repeat' first
    | (with_reducible first
        | apply answers | apply next_issue)
    | split

theorem next_execXor {c : Fin 192} {w : CoreWord} {s : State} : ∃ next, execXor c w s = .next next := by
  unfold execXor
  try dsimp only
  repeat' first
    | (with_reducible first
        | apply answers | apply next_alu)
    | split

theorem next_execXpose {k : Fin 24} {r : Fin 8} {s : State} : ∃ next, execXpose k r s = .next next := by
  unfold execXpose
  try dsimp only
  repeat' first
    | (with_reducible first
        | apply answers | apply next_attnReq)
    | split

end Sys2Proof.Machine
end

