-- ==== Sys2Proof/Laws/PerInstr.lean ====
section
/-! SUPPORT. One law per constructor of Instr about its encoding: the word of a core instruction has 128 bits, its opcode is in
the table, and that opcode and the instruction's own fields are what the word says (08_core_programming.md R246, R249). -/

namespace Sys2Proof.Machine

theorem wordBits_lt {o : Nat} (h : o < 256) (w : CoreWord) : wordBits o w < 2 ^ 128 := by
  have h0 : b2n w.pneg ≤ 1 := by cases w.pneg <;> decide
  have h1 := w.pred.isLt
  have h2 := w.rd.isLt
  have h3 := w.rs1.isLt
  have h4 := w.rs2.isLt
  have h5 := w.rs3.isLt
  have h6 := w.ctl.isLt
  have h7 := w.imm.isLt
  unfold wordBits
  omega

end Sys2Proof.Machine

namespace Sys2Proof.Laws.CoreWords

open Sys2Proof.Machine

/-- The word of a core instruction has 128 bits and an opcode of the table. -/
def Statement (i : Instr) : Prop := ∀ c n, coreBits i = some (c, n) → n < 2 ^ 128 ∧ opcKnown (n / 2 ^ 120) = true

theorem of_none {i : Instr} (h : coreBits i = none) : Statement i := by
  intro c n hn
  rw [h] at hn
  cases hn

theorem of_word {i : Instr} {d : Fin 192} {o : Nat} {w : CoreWord} (h : coreBits i = some (d, wordBits o w)) (ho : o < 256)
    (hk : opcKnown o = true) : Statement i := by
  intro c n hn
  rw [h] at hn
  cases hn
  exact ⟨wordBits_lt ho w, by rw [wordBits_opc]; exact hk⟩

theorem mgmtSetLimits (id : Nat) : Statement (.mgmtSetLimits id) := of_none rfl
theorem mgmtSetProfile (id : Nat) : Statement (.mgmtSetProfile id) := of_none rfl
theorem mgmtOutOfServiceTake (id : Nat) : Statement (.mgmtOutOfServiceTake id) := of_none rfl
theorem mgmtOutOfServiceRestore (id : Nat) : Statement (.mgmtOutOfServiceRestore id) := of_none rfl
theorem mgmtReset (id : Nat) : Statement (.mgmtReset id) := of_none rfl
theorem mgmtSetIdentity (id : Nat) : Statement (.mgmtSetIdentity id) := of_none rfl
theorem mgmtFirmware (id : Nat) : Statement (.mgmtFirmware id) := of_none rfl
theorem qpCreate (id : Nat) : Statement (.qpCreate id) := of_none rfl
theorem qpDelete (id : Nat) : Statement (.qpDelete id) := of_none rfl
theorem memTest (id : Nat) : Statement (.memTest id) := of_none rfl
theorem leaseOpen (id : Nat) : Statement (.leaseOpen id) := of_none rfl
theorem leaseClose (id : Nat) : Statement (.leaseClose id) := of_none rfl
theorem memMap (id : Nat) : Statement (.memMap id) := of_none rfl
theorem dmaCopy (id : Nat) : Statement (.dmaCopy id) := of_none rfl
theorem flagSet (id : Nat) : Statement (.flagSet id) := of_none rfl
theorem flagAdd (id : Nat) : Statement (.flagAdd id) := of_none rfl
theorem flagWait (id : Nat) : Statement (.flagWait id) := of_none rfl
theorem kernelLaunch (id : Nat) : Statement (.kernelLaunch id) := of_none rfl
theorem graphRun (id : Nat) : Statement (.graphRun id) := of_none rfl
theorem seqConfig (id : Nat) : Statement (.seqConfig id) := of_none rfl
theorem seqCreate (id : Nat) : Statement (.seqCreate id) := of_none rfl
theorem seqDestroy (id : Nat) : Statement (.seqDestroy id) := of_none rfl
theorem seqPrefill (id : Nat) : Statement (.seqPrefill id) := of_none rfl
theorem seqStep (id : Nat) (d : HostData) : Statement (.seqStep id d) := of_none rfl
theorem seqDraft (id : Nat) : Statement (.seqDraft id) := of_none rfl
theorem seqCommit (id : Nat) : Statement (.seqCommit id) := of_none rfl
theorem seqRetract (id : Nat) : Statement (.seqRetract id) := of_none rfl
theorem seqSuspend (id : Nat) : Statement (.seqSuspend id) := of_none rfl
theorem seqResume (id : Nat) : Statement (.seqResume id) := of_none rfl
theorem seqEvict (id : Nat) : Statement (.seqEvict id) := of_none rfl
theorem prefixPublish (id : Nat) : Statement (.prefixPublish id) := of_none rfl
theorem fabRouteSet (id : Nat) : Statement (.fabRouteSet id) := of_none rfl
theorem fabCollective (id : Nat) : Statement (.fabCollective id) := of_none rfl
theorem collectiveArm (id : Nat) : Statement (.collectiveArm id) := of_none rfl
theorem collectiveDisarm (id : Nat) : Statement (.collectiveDisarm id) := of_none rfl
theorem portEnable (id : Nat) : Statement (.portEnable id) := of_none rfl
theorem portDisable (id : Nat) : Statement (.portDisable id) := of_none rfl
theorem portRetrain (id : Nat) : Statement (.portRetrain id) := of_none rfl
theorem portLoopback (id : Nat) : Statement (.portLoopback id) := of_none rfl
theorem telemRead (id : Nat) : Statement (.telemRead id) := of_none rfl
theorem dumpCollect (id : Nat) : Statement (.dumpCollect id) := of_none rfl
theorem stopGlobalArm (id : Nat) : Statement (.stopGlobalArm id) := of_none rfl
theorem stopGlobalFire (id : Nat) : Statement (.stopGlobalFire id) := of_none rfl
theorem stopGlobalDisarm (id : Nat) : Statement (.stopGlobalDisarm id) := of_none rfl
theorem traceCtl (id : Nat) : Statement (.traceCtl id) := of_none rfl
theorem auditRead (id : Nat) : Statement (.auditRead id) := of_none rfl
theorem groupDefine (id : Nat) : Statement (.groupDefine id) := of_none rfl
theorem groupDissolve (id : Nat) : Statement (.groupDissolve id) := of_none rfl
theorem permissionRefusalReply (id : Nat) : Statement (.permissionRefusalReply id) := of_none rfl
theorem completionWrite (id : Nat) : Statement (.completionWrite id) := of_none rfl
theorem commandTimeout (id : Nat) : Statement (.commandTimeout id) := of_none rfl
theorem hangDrainEnd (root : PUnit) : Statement (.hangDrainEnd root) := of_none rfl
theorem resetEnd (root : PUnit) : Statement (.resetEnd root) := of_none rfl
theorem resetFaultEscalate (root : PUnit) : Statement (.resetFaultEscalate root) := of_none rfl
theorem unitReady (u : PUnit) : Statement (.unitReady u) := of_none rfl
theorem remoteCommand (m : RemoteIn) : Statement (.remoteCommand m) := of_none rfl
theorem memberStateMessage (fuid state stamp epoch : Nat) : Statement (.memberStateMessage fuid state stamp epoch) := of_none rfl
theorem atomicPrepare (m : RemoteIn) : Statement (.atomicPrepare m) := of_none rfl
theorem atomicDecision (lead key : Nat) (decision : Option Bool) (hits : Nat) : Statement (.atomicDecision lead key decision hits) := of_none rfl
theorem atomicInDoubt (lead key : Nat) : Statement (.atomicInDoubt lead key) := of_none rfl
theorem atomicDecisionQuery (lead key : Nat) : Statement (.atomicDecisionQuery lead key) := of_none rfl
theorem add (c : Fin 192) (w : CoreWord) : Statement (.add c w) := of_word rfl (by decide) (by decide)
theorem sub (c : Fin 192) (w : CoreWord) : Statement (.sub c w) := of_word rfl (by decide) (by decide)
theorem mul (c : Fin 192) (w : CoreWord) : Statement (.mul c w) := of_word rfl (by decide) (by decide)
theorem mulhu (c : Fin 192) (w : CoreWord) : Statement (.mulhu c w) := of_word rfl (by decide) (by decide)
theorem and (c : Fin 192) (w : CoreWord) : Statement (.and c w) := of_word rfl (by decide) (by decide)
theorem or (c : Fin 192) (w : CoreWord) : Statement (.or c w) := of_word rfl (by decide) (by decide)
theorem xor (c : Fin 192) (w : CoreWord) : Statement (.xor c w) := of_word rfl (by decide) (by decide)
theorem shl (c : Fin 192) (w : CoreWord) : Statement (.shl c w) := of_word rfl (by decide) (by decide)
theorem shr (c : Fin 192) (w : CoreWord) : Statement (.shr c w) := of_word rfl (by decide) (by decide)
theorem sra (c : Fin 192) (w : CoreWord) : Statement (.sra c w) := of_word rfl (by decide) (by decide)
theorem cmp (c : Fin 192) (w : CoreWord) : Statement (.cmp c w) := of_word rfl (by decide) (by decide)
theorem plog (c : Fin 192) (w : CoreWord) : Statement (.plog c w) := of_word rfl (by decide) (by decide)
theorem ld (c : Fin 192) (w : CoreWord) : Statement (.ld c w) := of_word rfl (by decide) (by decide)
theorem st (c : Fin 192) (w : CoreWord) : Statement (.st c w) := of_word rfl (by decide) (by decide)
theorem br (c : Fin 192) (w : CoreWord) : Statement (.br c w) := of_word rfl (by decide) (by decide)
theorem brl (c : Fin 192) (w : CoreWord) : Statement (.brl c w) := of_word rfl (by decide) (by decide)
theorem jr (c : Fin 192) (w : CoreWord) : Statement (.jr c w) := of_word rfl (by decide) (by decide)
theorem halt (c : Fin 192) (w : CoreWord) : Statement (.halt c w) := of_word rfl (by decide) (by decide)
theorem fence (c : Fin 192) (w : CoreWord) : Statement (.fence c w) := of_word rfl (by decide) (by decide)
theorem flset (c : Fin 192) (w : CoreWord) : Statement (.flset c w) := of_word rfl (by decide) (by decide)
theorem flwait (c : Fin 192) (w : CoreWord) : Statement (.flwait c w) := of_word rfl (by decide) (by decide)
theorem flwaitTimeout (c : Fin 192) (w : CoreWord) : Statement (.flwaitTimeout c w) := of_word rfl (by decide) (by decide)
theorem fladd (c : Fin 192) (w : CoreWord) : Statement (.fladd c w) := of_word rfl (by decide) (by decide)
theorem csrRead (c : Fin 192) (w : CoreWord) : Statement (.csrRead c w) := of_word rfl (by decide) (by decide)
theorem csrWrite (c : Fin 192) (w : CoreWord) : Statement (.csrWrite c w) := of_word rfl (by decide) (by decide)
theorem csrSet (c : Fin 192) (w : CoreWord) : Statement (.csrSet c w) := of_word rfl (by decide) (by decide)
theorem csrClear (c : Fin 192) (w : CoreWord) : Statement (.csrClear c w) := of_word rfl (by decide) (by decide)
theorem fadd (c : Fin 192) (w : CoreWord) : Statement (.fadd c w) := of_word rfl (by decide) (by decide)
theorem fsub (c : Fin 192) (w : CoreWord) : Statement (.fsub c w) := of_word rfl (by decide) (by decide)
theorem fmul (c : Fin 192) (w : CoreWord) : Statement (.fmul c w) := of_word rfl (by decide) (by decide)
theorem ffma (c : Fin 192) (w : CoreWord) : Statement (.ffma c w) := of_word rfl (by decide) (by decide)
theorem fdiv (c : Fin 192) (w : CoreWord) : Statement (.fdiv c w) := of_word rfl (by decide) (by decide)
theorem fsqrt (c : Fin 192) (w : CoreWord) : Statement (.fsqrt c w) := of_word rfl (by decide) (by decide)
theorem fminmax (c : Fin 192) (w : CoreWord) : Statement (.fminmax c w) := of_word rfl (by decide) (by decide)
theorem fcmp (c : Fin 192) (w : CoreWord) : Statement (.fcmp c w) := of_word rfl (by decide) (by decide)
theorem fcvt (c : Fin 192) (w : CoreWord) : Statement (.fcvt c w) := of_word rfl (by decide) (by decide)
theorem mma (c : Fin 192) (w : CoreWord) : Statement (.mma c w) := of_word rfl (by decide) (by decide)
theorem chain (c : Fin 192) (w : CoreWord) : Statement (.chain c w) := of_word rfl (by decide) (by decide)
theorem quant (c : Fin 192) (w : CoreWord) : Statement (.quant c w) := of_word rfl (by decide) (by decide)
theorem accld (c : Fin 192) (w : CoreWord) : Statement (.accld c w) := of_word rfl (by decide) (by decide)
theorem vld (c : Fin 192) (w : CoreWord) : Statement (.vld c w) := of_word rfl (by decide) (by decide)
theorem vst (c : Fin 192) (w : CoreWord) : Statement (.vst c w) := of_word rfl (by decide) (by decide)
theorem vacc (c : Fin 192) (w : CoreWord) : Statement (.vacc c w) := of_word rfl (by decide) (by decide)
theorem vadd (c : Fin 192) (w : CoreWord) : Statement (.vadd c w) := of_word rfl (by decide) (by decide)
theorem vsub (c : Fin 192) (w : CoreWord) : Statement (.vsub c w) := of_word rfl (by decide) (by decide)
theorem vmul (c : Fin 192) (w : CoreWord) : Statement (.vmul c w) := of_word rfl (by decide) (by decide)
theorem vfma (c : Fin 192) (w : CoreWord) : Statement (.vfma c w) := of_word rfl (by decide) (by decide)
theorem vdiv (c : Fin 192) (w : CoreWord) : Statement (.vdiv c w) := of_word rfl (by decide) (by decide)
theorem vsqrt (c : Fin 192) (w : CoreWord) : Statement (.vsqrt c w) := of_word rfl (by decide) (by decide)
theorem vminmax (c : Fin 192) (w : CoreWord) : Statement (.vminmax c w) := of_word rfl (by decide) (by decide)
theorem vcmp (c : Fin 192) (w : CoreWord) : Statement (.vcmp c w) := of_word rfl (by decide) (by decide)
theorem vsel (c : Fin 192) (w : CoreWord) : Statement (.vsel c w) := of_word rfl (by decide) (by decide)
theorem vcvt (c : Fin 192) (w : CoreWord) : Statement (.vcvt c w) := of_word rfl (by decide) (by decide)
theorem vdq (c : Fin 192) (w : CoreWord) : Statement (.vdq c w) := of_word rfl (by decide) (by decide)
theorem vfn (c : Fin 192) (w : CoreWord) : Statement (.vfn c w) := of_word rfl (by decide) (by decide)
theorem vred (c : Fin 192) (w : CoreWord) : Statement (.vred c w) := of_word rfl (by decide) (by decide)
theorem vquant (c : Fin 192) (w : CoreWord) : Statement (.vquant c w) := of_word rfl (by decide) (by decide)
theorem dma (c : Fin 192) (w : CoreWord) : Statement (.dma c w) := of_word rfl (by decide) (by decide)
theorem waitd (c : Fin 192) (w : CoreWord) : Statement (.waitd c w) := of_word rfl (by decide) (by decide)
theorem dmaEntrySubmit (c : Fin 192) (seq : Nat) : Statement (.dmaEntrySubmit c seq) := of_none rfl
theorem dmaEntryComplete (c : Fin 192) (seq : Nat) (d : HostData) : Statement (.dmaEntryComplete c seq d) := of_none rfl
theorem atsTranslationCompletion (c : Fin 192) (seq : Nat) (t : TransIn) : Statement (.atsTranslationCompletion c seq t) := of_none rfl
theorem prgResponse (c : Fin 192) (seq : Nat) (code : Nat) : Statement (.prgResponse c seq code) := of_none rfl
theorem priWaitExpiry (c : Fin 192) (seq : Nat) : Statement (.priWaitExpiry c seq) := of_none rfl
theorem atsInvalidateRequest (itag : Nat) (pasid : Option Nat) (page npages : Nat) : Statement (.atsInvalidateRequest itag pasid page npages) := of_none rfl
theorem invalidateCompletion (itag : Nat) : Statement (.invalidateCompletion itag) := of_none rfl
theorem invalidateReadExpiry (itag : Nat) : Statement (.invalidateReadExpiry itag) := of_none rfl
theorem fabricHoldExpiry : Statement .fabricHoldExpiry := of_none rfl
theorem guardVerdict (c : Fin 192) : Statement (.guardVerdict c) := of_none rfl
theorem replayEnd (c : Fin 192) : Statement (.replayEnd c) := of_none rfl
theorem fetch (k : Fin 24) (r : Fin 8) : Statement (.fetch k r) := of_none rfl
theorem append (k : Fin 24) (r : Fin 8) : Statement (.append k r) := of_none rfl
theorem stage (k : Fin 24) (r : Fin 8) : Statement (.stage k r) := of_none rfl
theorem xpose (k : Fin 24) (r : Fin 8) : Statement (.xpose k r) := of_none rfl
theorem merge (k : Fin 24) (r : Fin 8) : Statement (.merge k r) := of_none rfl
theorem stepgraphComplete : Statement .stepgraphComplete := of_none rfl
theorem planReceive (lead dst : Nat) (plan : List Nat) : Statement (.planReceive lead dst plan) := of_none rfl
theorem runAheadPrefetch : Statement .runAheadPrefetch := of_none rfl
theorem canarySample (m : SampleIn) : Statement (.canarySample m) := of_none rfl
theorem pacePublish : Statement .pacePublish := of_none rfl
theorem thermalTrip (d : Fin 2) (sensor : Nat) : Statement (.thermalTrip d sensor) := of_none rfl
theorem tbSyncPulse : Statement .tbSyncPulse := of_none rfl
theorem timeExchange (src : BitVec 2) (port : Fin 32) (offset : ExchIn) : Statement (.timeExchange src port offset) := of_none rfl
theorem alignTimeout : Statement .alignTimeout := of_none rfl
theorem timeRootProbe : Statement .timeRootProbe := of_none rfl
theorem timeRootProbeExpiry : Statement .timeRootProbeExpiry := of_none rfl
theorem frameRead (f : FrameIn) : Statement (.frameRead f) := of_none rfl
theorem frameWrite (f : FrameIn) : Statement (.frameWrite f) := of_none rfl
theorem frameFlagAdd (f : FrameIn) : Statement (.frameFlagAdd f) := of_none rfl
theorem frameReadData (f : FrameIn) : Statement (.frameReadData f) := of_none rfl
theorem frameAck (f : FrameIn) : Statement (.frameAck f) := of_none rfl
theorem frameNack (f : FrameIn) : Statement (.frameNack f) := of_none rfl
theorem frameColl (f : FrameIn) : Statement (.frameColl f) := of_none rfl
theorem frameMgmt (f : FrameIn) : Statement (.frameMgmt f) := of_none rfl
theorem frameTime (f : FrameIn) : Statement (.frameTime f) := of_none rfl
theorem frameDigest (f : FrameIn) : Statement (.frameDigest f) := of_none rfl
theorem frameKeyx (f : FrameIn) : Statement (.frameKeyx f) := of_none rfl
theorem digestMissingTimeout (qpn seqno : Nat) : Statement (.digestMissingTimeout qpn seqno) := of_none rfl
theorem rekeyTrigger (peer : Nat) : Statement (.rekeyTrigger peer) := of_none rfl
theorem rekeyTimeout (peer : Nat) : Statement (.rekeyTimeout peer) := of_none rfl
theorem frameCounterLimit (peer : Nat) : Statement (.frameCounterLimit peer) := of_none rfl
theorem collectiveTrigger (slot : Fin 64) : Statement (.collectiveTrigger slot) := of_none rfl
theorem collectiveInstanceEnd (collid inst : Nat) : Statement (.collectiveInstanceEnd collid inst) := of_none rfl
theorem portTrained (p : Fin 32) (full : Bool) : Statement (.portTrained p full) := of_none rfl
theorem portLinkLoss (p : Fin 32) : Statement (.portLinkLoss p) := of_none rfl
theorem portRetrainTimer (p : Fin 32) : Statement (.portRetrainTimer p) := of_none rfl
theorem sbMarkOriginate : Statement .sbMarkOriginate := of_none rfl
theorem sbMark (f : SbIn) : Statement (.sbMark f) := of_none rfl
theorem sbStop (f : SbIn) : Statement (.sbStop f) := of_none rfl
theorem sbMgmt (f : SbIn) : Statement (.sbMgmt f) := of_none rfl
theorem sbReply (f : SbIn) : Statement (.sbReply f) := of_none rfl
theorem sbBypassAssert : Statement .sbBypassAssert := of_none rfl
theorem sbBypassOpen : Statement .sbBypassOpen := of_none rfl
theorem faultReport (r : ReportIn) : Statement (.faultReport r) := of_none rfl
theorem faultWindowEnd (d : Fin 2) : Statement (.faultWindowEnd d) := of_none rfl
theorem scrubRead (addr : Nat) (e : EccIn) : Statement (.scrubRead addr e) := of_none rfl
theorem channelLost (n : Fin 256) : Statement (.channelLost n) := of_none rfl
theorem bridgeFault : Statement .bridgeFault := of_none rfl
theorem hbmChannelTrained (n : Fin 256) (rec : BitVec 64) : Statement (.hbmChannelTrained n rec) := of_none rfl
theorem domainDoze (n : Fin 256) : Statement (.domainDoze n) := of_none rfl
theorem domainWake (n : Fin 256) : Statement (.domainWake n) := of_none rfl
theorem domainWakeComplete (n : Fin 256) : Statement (.domainWakeComplete n) := of_none rfl
theorem leaseCloseDrainEnd : Statement .leaseCloseDrainEnd := of_none rfl
theorem hbmClearEnd : Statement .hbmClearEnd := of_none rfl
theorem hbmVerifyEnd (repairs : List (Nat × Nat)) (bad : List Nat) : Statement (.hbmVerifyEnd repairs bad) := of_none rfl
theorem fabricSecret (m : VangaerIn) : Statement (.fabricSecret m) := of_none rfl
theorem mirrorSecret (m : VangaerIn) : Statement (.mirrorSecret m) := of_none rfl
theorem installKey (m : VangaerIn) : Statement (.installKey m) := of_none rfl
theorem plainSecret (m : VangaerIn) : Statement (.plainSecret m) := of_none rfl
theorem vangaerReply : Statement .vangaerReply := of_none rfl
theorem getCertificate (session : Nat) : Statement (.getCertificate session) := of_none rfl
theorem getMeasurements (session : Nat) (index : MeasureIn) : Statement (.getMeasurements session index) := of_none rfl
theorem kSetGo (session stream key : Nat) : Statement (.kSetGo session stream key) := of_none rfl
theorem lockInterface (session stream : Nat) : Statement (.lockInterface session stream) := of_none rfl
theorem startInterface (session : Nat) (nonce : Nat) : Statement (.startInterface session nonce) := of_none rfl
theorem stopInterface (session : Nat) : Statement (.stopInterface session) := of_none rfl
theorem tdiError (cause : TdiErrorIn) : Statement (.tdiError cause) := of_none rfl
theorem functionLevelReset : Statement .functionLevelReset := of_none rfl
theorem hotReset : Statement .hotReset := of_none rfl
theorem linkDown (rate width : Nat) : Statement (.linkDown rate width) := of_none rfl
theorem d3hotToD0 : Statement .d3hotToD0 := of_none rfl
theorem perstNAssert : Statement .perstNAssert := of_none rfl
theorem perstNDeassert (rate width : Nat) : Statement (.perstNDeassert rate width) := of_none rfl
theorem bar2Read (t : TlpIn) : Statement (.bar2Read t) := of_none rfl
theorem bar2Write (t : TlpIn) : Statement (.bar2Write t) := of_none rfl
theorem tlpRefused (t : TlpIn) : Statement (.tlpRefused t) := of_none rfl
theorem registerWrite (t : TlpIn) : Statement (.registerWrite t) := of_none rfl
theorem sqTailDoorbell (t : TlpIn) (fetched : List FetchIn) : Statement (.sqTailDoorbell t fetched) := of_none rfl
theorem cqHeadDoorbell (t : TlpIn) : Statement (.cqHeadDoorbell t) := of_none rfl
theorem eventRingHeadDoorbell (t : TlpIn) : Statement (.eventRingHeadDoorbell t) := of_none rfl
theorem mqEnable (t : TlpIn) : Statement (.mqEnable t) := of_none rfl
theorem mqDisable (t : TlpIn) : Statement (.mqDisable t) := of_none rfl
theorem eventRingEnable (t : TlpIn) : Statement (.eventRingEnable t) := of_none rfl
theorem eventRingDisable (t : TlpIn) : Statement (.eventRingDisable t) := of_none rfl
theorem bootstrapGo (t : TlpIn) : Statement (.bootstrapGo t) := of_none rfl
theorem msixUnmask (t : TlpIn) : Statement (.msixUnmask t) := of_none rfl
theorem porNDeassert (p : PowerIn) : Statement (.porNDeassert p) := of_none rfl
theorem powerLoss (l : LossIn) : Statement (.powerLoss l) := of_none rfl
theorem stopArmExpiry : Statement .stopArmExpiry := of_none rfl
theorem auditCheckpoint : Statement .auditCheckpoint := of_none rfl
theorem portSignalDetected (p : Fin 32) : Statement (.portSignalDetected p) := of_none rfl
theorem linkRetransmit (p : Fin 32) (index : Nat) : Statement (.linkRetransmit p index) := of_none rfl
theorem vcCreditReturn (p : Fin 32) (vc : Fin 4) (n : Nat) : Statement (.vcCreditReturn p vc n) := of_none rfl
theorem injectionTokenRefill : Statement .injectionTokenRefill := of_none rfl
theorem keyExchange (session : Nat) : Statement (.keyExchange session) := of_none rfl
theorem keyProg (session stream : Nat) (keySet : StreamKeyIn) : Statement (.keyProg session stream keySet) := of_none rfl
theorem memTestEnd (n : Fin 256) (r : TestIn) : Statement (.memTestEnd n r) := of_none rfl
theorem hardwareScrubEnd : Statement .hardwareScrubEnd := of_none rfl
theorem askocScrubEnd : Statement .askocScrubEnd := of_none rfl
theorem i3cCommand (blocks : List (BitVec 512)) : Statement (.i3cCommand blocks) := of_none rfl
theorem getstatus : Statement .getstatus := of_none rfl
theorem registerSnapshotRead (t : TlpIn) : Statement (.registerSnapshotRead t) := of_none rfl

end Sys2Proof.Laws.CoreWords
end

