-- ==== Sys2Proof/Machine/DebugPort.lean ====
section
/-! DEFINITION. The maker debug port: what it shows of the halted fabric, and when it drives its output
(20_debug_and_telemetry.md R695; 22_package_pins_electrical.md R730). It has no path that writes device state, so no command of the
table comes through it: what it does is a function of State (log entry 119). -/

namespace Sys2Proof.Machine

/-- What a full scan-out delivers: latches, queues, trackers and engine registers of the cores, clusters, ports, fabric interface and
sequence engine, and the SRAM arrays (R695). -/
structure ScanImage where
  cores : Vector CoreSt 192
  clusters : Vector ClusterSt 24
  ports : Vector PortSt 32
  fab : FabSt
  seq : SeqSt
  cmd : CmdSt
  sram : List Host.Cell
  deriving DecidableEq, Repr

/-- The bytes of the on-chip stores. -/
def sramCells (s : State) : List Host.Cell := s.mem.bytes.filter fun c => c.1 < hbmBase

/-- Whether the port takes its inputs and drives MDP_DO (R730): only while DBGOPEN is 1. -/
def mdpDrives (s : State) : Bool := s.sec.dbgOpen

/-- What the port reads out: nothing unless DBGOPEN is 1, and then the halted fabric (R695). -/
def scanOut (s : State) : Option ScanImage :=
  if mdpDrives s && s.sec.halted then some ⟨s.cores, s.clusters, s.ports, s.fab, s.seq, s.cmd, sramCells s⟩ else none

end Sys2Proof.Machine
end

