-- ==== Sys2Proof/Tests/Slice0.lean ====
section
/-! SUPPORT. Tests: ill-formed commands that the check refuses, words and results written out from the specification, and for
each statement states and operands that meet its hypotheses. -/

open Sys2Proof
open Sys2Proof.Machine

namespace Sys2Proof.Tests

set_option Elab.async false

/-! ### Small states -/

/-- A core instruction's fields, all zero but those given. -/
def cw (rd rs1 rs2 rs3 : Fin 32) (ctl : BitVec 32) (imm : BitVec 64) : CoreWord := ⟨false, 0, rd, rs1, rs2, rs3, ctl, imm⟩

/-- A change of core 0. -/
def onCore (s : State) (f : CoreSt → CoreSt) : State := modCore s 0 f

/-- Core 0 running at scratchpad address 0, where it finds one word. -/
def wordState (n : Nat) : State := writeNat (onCore State.reset fun x => { x with phase := .running }) (scratchAt 0) 16 n

/-- Core 0 about to run an instruction. -/
def coreState (o : Nat) (w : CoreWord) : State := wordState (wordBits o w)

/-- The same with two x registers set. -/
def coreStateX (o : Nat) (w : CoreWord) (r q : Fin 32) (a b : BitVec 64) : State :=
  onCore (coreState o w) fun x => setX (setX x r a) q b

/-- Whether an instruction issues. -/
def issuesB (s : State) (c : Fin 192) (o : Nat) (u : FieldUse) (w : CoreWord) : Bool :=
  coreRuns s c && (match fetchWord s c with | .word n => n == wordBits o w | _ => false) && fieldsOk u w
    && pr (getCore s c) w.pred != w.pneg

theorem issues_of {s : State} {c : Fin 192} {o : Nat} {u : FieldUse} {w : CoreWord} (h : issuesB s c o u w = true) :
    Issues s c o u w := by
  simp only [issuesB, Bool.and_eq_true, bne_iff_ne] at h
  obtain ⟨⟨⟨h1, h2⟩, h3⟩, h4⟩ := h
  refine ⟨h1, ?_, h3, h4⟩
  revert h2
  cases fetchWord s c <;> simp

theorem starts_of {s : State} {c : Fin 192} {e : Fin 4} {o : Nat} {u : FieldUse} {w : CoreWord}
    (h : (issuesB s c o u w && (decide ((engQueue (getCore s c) e).length < queueCap e) && (!trackerFull c (getCore s c) 1
      && !(engQueue (getCore s c) e).any (fun q => sharePipe q.opc o)))) = true) : Starts s c e o u w := by
  simp only [Bool.and_eq_true, Bool.not_eq_true', decide_eq_true_eq] at h
  exact ⟨issues_of h.1, h.2⟩

/-! ### Core instructions: states in which they issue -/

/-- The word of CTL for a lane instruction of TYPE `ty` on `nl` lanes under a rounding field. -/
def vctl (ty rm nl : Nat) : BitVec 32 := BitVec.ofNat 32 (ty + 16 * rm + 128 * nl)

theorem test_integer_issue_register : ∀ o ∈ [0x01, 0x02, 0x03, 0x04, 0x05, 0x06, 0x07, 0x08, 0x09, 0x0A],
    Issues (coreState o (cw 31 2 3 0 0 0)) 0 o ⟨31, 31, 31, 0, 1, 0⟩ (cw 31 2 3 0 0 0) :=
  fun o h => issues_of (by revert o; decide +kernel)

theorem test_integer_issue_immediate : ∀ o ∈ [0x01, 0x02, 0x03, 0x04, 0x05, 0x06, 0x07, 0x08, 0x09, 0x0A],
    Issues (coreState o (cw 0 2 0 0 1 (-1))) 0 o ⟨31, 31, 0, 0, 1, immAll⟩ (cw 0 2 0 0 1 (-1))
      ∧ ctlBit (cw 0 2 0 0 1 (-1)) 0 = true :=
  fun o h => ⟨issues_of (by revert o; decide +kernel), by decide +kernel⟩

theorem test_cmp_issues : ∀ k ∈ [0, 1, 2, 3, 4, 5],
    Issues (coreState 0x10 (cw 7 1 2 0 (BitVec.ofNat 32 (2 * k)) 0)) 0 0x10 ⟨7, 31, 31, 0, 0xF, 0⟩
      (cw 7 1 2 0 (BitVec.ofNat 32 (2 * k)) 0) ∧ ctlBits (cw 7 1 2 0 (BitVec.ofNat 32 (2 * k)) 0) 3 1 = k :=
  fun k h => ⟨issues_of (by revert k; decide +kernel), by revert k; decide +kernel⟩

theorem test_plog_issues : Issues (coreState 0x11 (cw 7 1 2 0 15 0)) 0 0x11 ⟨7, 7, 7, 0, 0xF, 0⟩ (cw 7 1 2 0 15 0) :=
  issues_of (by decide +kernel)

/-- LD and ST of eight bytes at the last of the scratchpad: x1 holds the address. -/
def ldW : CoreWord := cw 4 1 0 0 7 0
def stW : CoreWord := cw 0 1 2 0 3 0

theorem test_load_and_store_meet :
    (Issues (coreStateX 0x14 ldW 1 2 0x4FFFF8 7) 0 0x14 ⟨31, 31, 0, 0, 7, immAll⟩ ldW
      ∧ coreRange 0 0x4FFFF8 8 = some 0x2004FFFF8
      ∧ (xr (getCore (coreStateX 0x14 ldW 1 2 0x4FFFF8 7) 0) 1 + ldW.imm).toNat = 0x4FFFF8
      ∧ blocked (coreStateX 0x14 ldW 1 2 0x4FFFF8 7) 0 [⟨0x2004FFFF8, 8⟩] [] = false
      ∧ anyPoison (coreStateX 0x14 ldW 1 2 0x4FFFF8 7) 0x2004FFFF8 8 = false)
    ∧ Issues (coreStateX 0x15 stW 1 2 0x4FFFF8 7) 0 0x15 ⟨0, 31, 31, 0, 3, immAll⟩ stW
      ∧ (xr (getCore (coreStateX 0x15 stW 1 2 0x4FFFF8 7) 0) 1 + stW.imm).toNat = 0x4FFFF8
      ∧ blocked (coreStateX 0x15 stW 1 2 0x4FFFF8 7) 0 [] [⟨0x2004FFFF8, 8⟩] = false
      ∧ memWf (coreStateX 0x15 stW 1 2 0x4FFFF8 7).mem = true :=
  ⟨⟨issues_of (by decide +kernel), by decide +kernel⟩, issues_of (by decide +kernel), by decide +kernel⟩

/-- Flag instructions at the first word of the cluster store: x1 holds the address, x2 the value, x3 the time. -/
def flW (ctl : BitVec 32) (rd rs3 : Fin 32) : CoreWord := cw rd 1 2 rs3 ctl 0
def flS (o : Nat) (w : CoreWord) : State := onCore (coreStateX o w 1 2 0x10000000 5) fun x => setX x 3 1

theorem test_flag_instructions_meet :
    flagAt 0 0x10000000 = some 0x100000000
    ∧ (Issues (flS 0x20 (flW 0 0 0)) 0 0x20 ⟨0, 31, 31, 0, 0, immAll⟩ (flW 0 0 0)
      ∧ releaseHeld (flS 0x20 (flW 0 0 0)) (getCore (flS 0x20 (flW 0 0 0)) 0) = false
      ∧ blocked (flS 0x20 (flW 0 0 0)) 0 [] [⟨0x100000000, 8⟩] = false
      ∧ (xr (getCore (flS 0x20 (flW 0 0 0)) 0) 1).toNat = 0x10000000)
    ∧ (Issues (flS 0x22 (flW 0 4 0)) 0 0x22 ⟨31, 31, 31, 0, 0, immAll⟩ (flW 0 4 0)
      ∧ releaseHeld (flS 0x22 (flW 0 4 0)) (getCore (flS 0x22 (flW 0 4 0)) 0) = false
      ∧ blocked (flS 0x22 (flW 0 4 0)) 0 [⟨0x100000000, 8⟩] [⟨0x100000000, 8⟩] = false
      ∧ anyPoison (flS 0x22 (flW 0 4 0)) 0x100000000 8 = false ∧ memWf (flS 0x22 (flW 0 4 0)).mem = true)
    ∧ (Issues (flS 0x21 (flW 1 4 0)) 0 0x21 ⟨31, 31, 31, 31, 3, immAll⟩ (flW 1 4 0)
      ∧ blocked (flS 0x21 (flW 1 4 0)) 0 [⟨0x100000000, 8⟩] [] = false
      ∧ flagCond 1 (readNat (flS 0x21 (flW 1 4 0)) 0x100000000 8) 5 = true)
    ∧ Issues { flS 0x21 (flW 0 4 3) with tb := { State.reset.tb with count := 1 } } 0 0x21 ⟨31, 31, 31, 31, 3, immAll⟩ (flW 0 4 3)
      ∧ flagCond 0 (readNat (flS 0x21 (flW 0 4 3)) 0x100000000 8) 5 = false
      ∧ xr (getCore (flS 0x21 (flW 0 4 3)) 0) 3 ≠ 0
      ∧ (xr (getCore (flS 0x21 (flW 0 4 3)) 0) 3).toNat ≤ now { flS 0x21 (flW 0 4 3) with tb := { State.reset.tb with count := 1 } } :=
  ⟨by decide +kernel, ⟨issues_of (by decide +kernel), by decide +kernel⟩, ⟨issues_of (by decide +kernel), by decide +kernel⟩,
    ⟨issues_of (by decide +kernel), by decide +kernel⟩, issues_of (by decide +kernel), by decide +kernel⟩

theorem test_branches_issue :
    Issues (coreState 0x18 (cw 0 0 0 0 0 (-16))) 0 0x18 ⟨0, 0, 0, 0, 0, immAll⟩ (cw 0 0 0 0 0 (-16))
    ∧ Issues (coreState 0x19 (cw 31 0 0 0 0 32)) 0 0x19 ⟨31, 0, 0, 0, 0, immAll⟩ (cw 31 0 0 0 0 32)
    ∧ Issues (coreState 0x1A (cw 0 31 0 0 0 32)) 0 0x1A ⟨0, 31, 0, 0, 0, immAll⟩ (cw 0 31 0 0 0 32) :=
  ⟨issues_of (by decide +kernel), issues_of (by decide +kernel), issues_of (by decide +kernel)⟩

theorem test_halt_and_fence_meet :
    (Issues (coreState 0x1B (cw 0 0 0 0 0 0)) 0 0x1B ⟨0, 0, 0, 0, 0, 0⟩ (cw 0 0 0 0 0 0)
      ∧ (ownEnts (getCore (coreState 0x1B (cw 0 0 0 0 0 0)) 0)).all entEnded = true
      ∧ (getCore (coreState 0x1B (cw 0 0 0 0 0 0)) 0).pend = none ∧ (getCore (coreState 0x1B (cw 0 0 0 0 0 0)) 0).cont = none
      ∧ (getCore (coreState 0x1B (cw 0 0 0 0 0 0)) 0).matQ = [] ∧ (getCore (coreState 0x1B (cw 0 0 0 0 0 0)) 0).vecQ = [])
    ∧ Issues (coreState 0x1C (cw 0 0 0 0 15 0)) 0 0x1C ⟨0, 0, 0, 0, 0xF, 0⟩ (cw 0 0 0 0 15 0)
      ∧ (ownEnts (getCore (coreState 0x1C (cw 0 0 0 0 15 0)) 0)).all entEnded = true
      ∧ (getCore (coreState 0x1C (cw 0 0 0 0 15 0)) 0).pend = none ∧ (getCore (coreState 0x1C (cw 0 0 0 0 15 0)) 0).cont = none
      ∧ (getCore (coreState 0x1C (cw 0 0 0 0 15 0)) 0).matQ = [] ∧ (getCore (coreState 0x1C (cw 0 0 0 0 15 0)) 0).vecQ = [] :=
  ⟨⟨issues_of (by decide +kernel), by decide +kernel⟩, issues_of (by decide +kernel), by decide +kernel⟩

/-- A CSR access of mode `m` on register `n`. -/
def csrW (m n : Nat) (rs1 : Fin 32) : CoreWord := cw 3 rs1 0 0 (BitVec.ofNat 32 (4096 * m + n)) 0

theorem test_csr_accesses_issue : ∀ n ∈ [0, 1, 0x10, 0x11, 0x20, 0x21, 0x2, 0xFFF],
    (Issues (coreState 0x24 (csrW 0 n 0)) 0 0x24 ⟨31, 0, 0, 0, 0x3FFF, 0⟩ (csrW 0 n 0)
      ∧ ctlBits (csrW 0 n 0) 11 0 = n ∧ ctlBits (csrW 0 n 0) 13 12 = 0 ∧ vecFcsrHeld (getCore (coreState 0x24 (csrW 0 n 0)) 0) = false)
    ∧ ∀ m ∈ [1, 2, 3], Issues (coreState 0x24 (csrW m n 5)) 0 0x24 ⟨31, 31, 0, 0, 0x3FFF, 0⟩ (csrW m n 5)
      ∧ ctlBits (csrW m n 5) 11 0 = n ∧ ctlBits (csrW m n 5) 13 12 = m ∧ vecFcsrHeld (getCore (coreState 0x24 (csrW m n 5)) 0) = false :=
  fun n h => ⟨⟨issues_of (by revert n; decide +kernel), by revert n; decide +kernel⟩,
    fun m k => ⟨issues_of (by revert n m; decide +kernel), by revert n m; decide +kernel⟩⟩

/-- For RM of the scalar FCSR: a write of 5, a set that gives 7 from 1, a clear that gives 5 from 7, RM being 7 in x5. -/
def csrRm (m : Nat) (fcsr x5 : BitVec 64) : State :=
  onCore (coreState 0x24 (csrW m 0 5)) fun x => { setX x 5 x5 with fcsrS := fcsr.setWidth 32 }

theorem test_reserved_rounding_codes_meet :
    (Issues (csrRm 1 0 0xA0) 0 0x24 ⟨31, 31, 0, 0, 0x3FFF, 0⟩ (csrW 1 0 5) ∧ 5 ≤ bits 0xA0 7 5)
    ∧ (Issues (csrRm 2 0x20 0xC0) 0 0x24 ⟨31, 31, 0, 0, 0x3FFF, 0⟩ (csrW 2 0 5)
      ∧ 5 ≤ bits ((getCore (csrRm 2 0x20 0xC0) 0).fcsrS.toNat ||| 0xC0) 7 5)
    ∧ (Issues (csrRm 3 0xE0 0x40) 0 0x24 ⟨31, 31, 0, 0, 0x3FFF, 0⟩ (csrW 3 0 5)
      ∧ 5 ≤ bits ((getCore (csrRm 3 0xE0 0x40) 0).fcsrS.toNat &&& (2 ^ 64 - 1 - 0x40)) 7 5)
    ∧ ∀ o ∈ [0x28, 0x30, 0x50, 0x5F],
      let n := wordBits o (cw 1 2 3 0 (vctl 1 5 0) 0)
      coreRuns (wordState n) 0 = true
      ∧ (match fetchWord (wordState n) 0 with | .word k => k == n | _ => false) = true
      ∧ (coreInstr 0 n).isSome = true ∧ ctlBits (coreWordOf n) 6 4 = 5 :=
  ⟨⟨issues_of (by decide +kernel), by decide +kernel⟩, ⟨issues_of (by decide +kernel), by decide +kernel⟩,
    ⟨issues_of (by decide +kernel), by decide +kernel⟩, by decide +kernel⟩

theorem test_scalar_float_issues :
    (∀ o ∈ [0x28, 0x29, 0x2A, 0x2C], ∀ ty ∈ [0, 3], Issues (coreState o (cw 1 2 3 0 (vctl ty 4 0) 0)) 0 o ⟨31, 31, 31, 0, 0x7F, 0⟩
      (cw 1 2 3 0 (vctl ty 4 0) 0))
    ∧ Issues (coreState 0x2B (cw 1 2 3 4 (vctl 3 7 0) 0)) 0 0x2B ⟨31, 31, 31, 31, 0x7F, 0⟩ (cw 1 2 3 4 (vctl 3 7 0) 0)
    ∧ Issues (coreState 0x2D (cw 1 2 0 0 (vctl 3 7 0) 0)) 0 0x2D ⟨31, 31, 0, 0, 0x7F, 0⟩ (cw 1 2 0 0 (vctl 3 7 0) 0)
    ∧ Issues (coreState 0x2E (cw 1 2 3 0 (vctl 3 7 1) 0)) 0 0x2E ⟨31, 31, 31, 0, 0xFF, 0⟩ (cw 1 2 3 0 (vctl 3 7 1) 0)
    ∧ (∀ k ∈ [0, 1, 2, 6], Issues (coreState 0x2F (cw 7 2 3 0 (vctl 3 7 k) 0)) 0 0x2F ⟨7, 31, 31, 0, 0x3FF, 0⟩
        (cw 7 2 3 0 (vctl 3 7 k) 0) ∧ ctlBits (cw 7 2 3 0 (vctl 3 7 k) 0) 9 7 = k)
    ∧ (Issues (coreState 0x30 (cw 1 2 0 0 (vctl 9 7 24) 0)) 0 0x30 ⟨31, 31, 0, 0, 0xFFF, 0⟩ (cw 1 2 0 0 (vctl 9 7 24) 0)
      ∧ fcvtType (ctlBits (cw 1 2 0 0 (vctl 9 7 24) 0) 10 7) = true ∧ fcvtType (ctlBits (cw 1 2 0 0 (vctl 9 7 24) 0) 3 0) = true)
    ∧ rmFieldOk 7 = true ∧ rmFieldOk 4 = true ∧ ctlBits (cw 1 2 3 0 (vctl 3 7 1) 0) 6 4 = 7 :=
  ⟨fun o h ty k => issues_of (by revert o ty; decide +kernel), issues_of (by decide +kernel), issues_of (by decide +kernel),
    issues_of (by decide +kernel), fun k h => ⟨issues_of (by revert k; decide +kernel), by revert k; decide +kernel⟩,
    ⟨issues_of (by decide +kernel), by decide +kernel⟩, by decide +kernel⟩

/-- Lane instructions at their first and last TYPE, on every lane and on the last lane count. -/
theorem test_vector_arithmetic_issues : ∀ x ∈ [(0, 0), (1, 64), (4, 0), (4, 64)],
    (∀ o ∈ [0x53, 0x54, 0x55, 0x57], Starts (coreState o (cw 1 2 3 0 (vctl x.1 0 x.2) 0)) 0 1 o ⟨31, 31, 31, 0, 0x7FFF, 0⟩
      (cw 1 2 3 0 (vctl x.1 0 x.2) 0))
    ∧ (∀ o ∈ [0x56, 0x5B], Starts (coreState o (cw 1 2 3 4 (vctl x.1 0 x.2) 0)) 0 1 o ⟨31, 31, 31, 31, 0x7FFF, 0⟩
      (cw 1 2 3 4 (vctl x.1 0 x.2) 0))
    ∧ Starts (coreState 0x58 (cw 1 2 0 0 (vctl x.1 0 x.2) 0)) 0 1 0x58 ⟨31, 31, 0, 0, 0x7FFF, 0⟩ (cw 1 2 0 0 (vctl x.1 0 x.2) 0)
    ∧ Starts (coreState 0x59 (cw 1 2 3 0 (vctl x.1 0 (x.2 + 256)) 0)) 0 1 0x59 ⟨31, 31, 31, 0, 0xFFFF, 0⟩
      (cw 1 2 3 0 (vctl x.1 0 (x.2 + 256)) 0)
    ∧ (∀ k ∈ [0, 2, 5, 6, 7], Starts (coreState 0x5A (cw 1 2 3 0 (vctl x.1 0 (x.2 + 256 * k)) 0)) 0 1 0x5A
      ⟨31, 31, 31, 0, 0x3FFFF, 0⟩ (cw 1 2 3 0 (vctl x.1 0 (x.2 + 256 * k)) 0)
      ∧ ctlBits (cw 1 2 3 0 (vctl x.1 0 (x.2 + 256 * k)) 0) 17 15 = k)
    ∧ ctlBits (cw 1 2 3 0 (vctl x.1 0 x.2) 0) 3 0 = x.1 ∧ ctlBits (cw 1 2 3 0 (vctl x.1 0 x.2) 0) 14 7 = x.2
    ∧ x.2 ≤ typeLanes x.1 ∧ rmFieldOk 0 = true :=
  fun x h => ⟨fun o k => starts_of (by revert x o; decide +kernel), fun o k => starts_of (by revert x o; decide +kernel),
    starts_of (by revert x; decide +kernel), starts_of (by revert x; decide +kernel),
    fun k l => ⟨starts_of (by revert x k; decide +kernel), by revert x k; decide +kernel⟩, by revert x; decide +kernel⟩

theorem test_vector_conversions_issue :
    (∀ x ∈ [(0, 2), (2, 0), (7, 7)],
      let p := if x.1 = x.2 then 0 else 3
      let w := cw 1 2 0 0 (BitVec.ofNat 32 (4194304 + 1048576 * p + 65536 * x.1 + x.2)) 0
      Starts (coreState 0x5C w) 0 1 0x5C ⟨31, 31, 0, 0, 0x7F7FFF, 0⟩ w
      ∧ ctlBits w 21 20 = p ∧ p < max (typeLanes x.1) (typeLanes x.2) / max 1 (min (typeLanes x.1) (typeLanes x.2)))
    ∧ (∀ f ∈ [2, 14], Starts (coreState 0x5D (cw 1 2 3 0 (vctl 1 0 (256 * f)) 0)) 0 1 0x5D ⟨31, 31, 31, 0, 0x3FFFFF, 0⟩
      (cw 1 2 3 0 (vctl 1 0 (256 * f)) 0) ∧ ctlBits (cw 1 2 3 0 (vctl 1 0 (256 * f)) 0) 19 15 = f)
    ∧ (∀ ty ∈ [1, 3], Starts (coreState 0x5E (cw 1 2 0 0 (vctl ty 0 (256 * 6)) 0)) 0 1 0x5E ⟨31, 31, 0, 0, 0x7FFFF, 0⟩
      (cw 1 2 0 0 (vctl ty 0 (256 * 6)) 0) ∧ ctlBits (cw 1 2 0 0 (vctl ty 0 (256 * 6)) 0) 18 15 = 6)
    ∧ (∀ k ∈ [0, 1, 2], Starts (coreState 0x5F (cw 1 2 0 0 (vctl 4 0 (256 * k)) 0)) 0 1 0x5F ⟨31, 31, 0, 0, 0x1FFFF, 0⟩
      (cw 1 2 0 0 (vctl 4 0 (256 * k)) 0) ∧ ctlBits (cw 1 2 0 0 (vctl 4 0 (256 * k)) 0) 16 15 = k)
    ∧ Starts (coreState 0x52 (cw 1 0 0 0 (vctl 1 0 (256 * 7)) 0x3F)) 0 1 0x52 ⟨31, 0, 0, 0, 0x3FFFF, 0x3F⟩
      (cw 1 0 0 0 (vctl 1 0 (256 * 7)) 0x3F)
    ∧ blocked (coreState 0x52 (cw 1 0 0 0 (vctl 1 0 (256 * 7)) 0x3F)) 0 [accRng 7] [] = false :=
  ⟨fun x h => ⟨starts_of (by revert x; decide +kernel), by revert x; decide +kernel⟩,
    fun f h => ⟨starts_of (by revert f; decide +kernel), by revert f; decide +kernel⟩,
    fun f h => ⟨starts_of (by revert f; decide +kernel), by revert f; decide +kernel⟩,
    fun f h => ⟨starts_of (by revert f; decide +kernel), by revert f; decide +kernel⟩, starts_of (by decide +kernel), by decide +kernel⟩

/-- Tile descriptors in core 0's scratchpad, and states that hold one at 0x1000 and one at 0x1020, which x1 and x2 name. -/
def tileBits (base rstride rows cols fmt : Nat) : Nat :=
  base * 2 ^ 224 + rstride * 2 ^ 160 + rows * 2 ^ 144 + cols * 2 ^ 128 + fmt * 2 ^ 107

def tilesState (o : Nat) (w : CoreWord) (t1 t2 : Nat) : State :=
  writeNat (writeNat (coreStateX o w 1 2 0x1000 0x1020) (scratchAt 0 + 0x1000) 32 t1) (scratchAt 0 + 0x1020) 32 t2

/-- MMA of a 4 by 64 tile of BF16 with a 64 by 64 tile, and a recorded LOAD of the former. -/
def tileA : Nat := tileBits 0x2000 128 4 64 0
def tileB : Nat := tileBits 0x4000 128 64 64 0
def tileRow1 : Nat := tileBits 0x2000 128 1 64 0
def mmaW (ctl : BitVec 32) (rs1 : Fin 32) : CoreWord := cw 0 rs1 2 0 ctl 0
def heldS (s : State) : State := onCore s fun x => { x with heldRec := some ⟨0, 0, 0, 0, 4, 64⟩ }

theorem test_mma_meets : ∀ ctl ∈ [0, 64],
    let w := mmaW (BitVec.ofNat 32 ctl) 1
    let s := tilesState 0x40 w tileA tileB
    Starts s 0 0 0x40 ⟨0, 31, 31, 0, 0xFF, 0⟩ w ∧ (getCore s 0).pend = none ∧ (getCore s 0).cont = none
    ∧ TileAt s 0 (xr (getCore s 0) w.rs1).toNat (scratchAt 0 + 0x1000) (tileOf tileA)
    ∧ TileAt (demand s (scratchAt 0 + 0x1000) 32) 0 (xr (getCore s 0) w.rs2).toNat (scratchAt 0 + 0x1020) (tileOf tileB)
    ∧ mmaShapeOk 0 0 0 0 4 64 64 64 = true ∧ tileInScratch 0 (tileOf tileA) = true ∧ tileInScratch 0 (tileOf tileB) = true
    ∧ TilesFree (demand (demand s (scratchAt 0 + 0x1000) 32) (scratchAt 0 + 0x1020) 32) 0 [tileOf tileA, tileOf tileB] [] [] (mmaAccs w) :=
  fun ctl h => ⟨starts_of (by revert ctl; decide +kernel), by revert ctl; decide +kernel⟩

theorem test_mma_held_meets :
    (let w := mmaW 0x80 0
      let s := heldS (tilesState 0x40 w tileA tileB)
      Starts s 0 0 0x40 ⟨0, 0, 31, 0, 0xFF, 0⟩ w ∧ (getCore s 0).pend = none ∧ (getCore s 0).cont = none
      ∧ (getCore s 0).heldRec = some ⟨0, 0, 0, 0, 4, 64⟩ ∧ mmaShapeOk 0 0 0 0 4 64 64 64 = true ∧ tileInScratch 0 (tileOf tileB) = true
      ∧ TileAt s 0 (xr (getCore s 0) w.rs2).toNat (scratchAt 0 + 0x1020) (tileOf tileB) ∧ TilesFree (demand s (scratchAt 0 + 0x1020) 32) 0 [tileOf tileB] [] [] (mmaAccs w))
    ∧ (let w := mmaW 0xC0 1
      let s := heldS (tilesState 0x40 w tileRow1 tileB)
      Starts s 0 0 0x40 ⟨0, 31, 31, 0, 0xFF, 0⟩ w
      ∧ TileAt s 0 (xr (getCore s 0) w.rs1).toNat (scratchAt 0 + 0x1000) (tileOf tileRow1)
      ∧ TileAt (demand s (scratchAt 0 + 0x1000) 32) 0 (xr (getCore s 0) w.rs2).toNat (scratchAt 0 + 0x1020) (tileOf tileB)
      ∧ (getCore s 0).pend = none ∧ (getCore s 0).cont = none ∧ (tileOf tileRow1).fmt = 0 ∧ (tileOf tileRow1).gsz = 0
      ∧ tileInScratch 0 (tileOf tileRow1) = true ∧ (tileOf tileRow1).cols = 64 ∧ (tileOf tileRow1).rows ≤ 1
      ∧ (getCore s 0).heldRec = some ⟨0, 0, 0, 0, 4, 64⟩ ∧ 
        TilesFree (demand (demand s (scratchAt 0 + 0x1000) 32) (scratchAt 0 + 0x1020) 32) 0 [tileOf tileRow1, tileOf tileB] [] [] (mmaAccs w)) :=
  ⟨⟨starts_of (by decide +kernel), by decide +kernel⟩, starts_of (by decide +kernel), by decide +kernel⟩

/-- QUANT of 64 rows of an accumulator into BF16, its tensor record at 0x6000; VQUANT of a tile of FP32 into BF16. -/
def quantW : CoreWord := cw 0 0 1 0 0x10000 0x6000
def vquantW : CoreWord := cw 0 2 1 0 0x10000 0x6000
def tileQ : Nat := tileBits 0x4000 128 64 64 0
def tileF : Nat := tileBits 0x8000 256 64 64 0xF

theorem test_quantisers_meet :
    (let s := tilesState 0x42 quantW tileQ tileF
      let q := qctlOf quantW.ctl.toNat
      let s1 := demand s (scratchAt 0 + 0x1000) 32
      Starts s 0 0 0x42 ⟨0, 31, 31, 31, 2 ^ 32 - 1, 2 ^ 49 - 1⟩ quantW ∧ (getCore s 0).pend = none ∧ (getCore s 0).cont = none
      ∧ TileAt s 0 (xr (getCore s 0) 1).toNat (scratchAt 0 + 0x1000) (tileOf tileQ) ∧ q.gsz = 0
      ∧ quantPoison (tilesRead s1 0 []) 0 q (tileOf tileQ) q.sinit ⟨0x6000, 0⟩ = none ∧ qctlValid q true true 0 0 = true
      ∧ statsOk 0 q (tileOf tileQ) 64 ⟨0x6000, 0⟩ = true
      ∧ TilesFree s1 0 [] [tileOf tileQ] (quantAccs quantW) (statsRanges 0 q (tileOf tileQ) 64 ⟨0x6000, 0⟩))
    ∧ (let s := tilesState 0x60 vquantW tileQ tileF
      let q := qctlOf vquantW.ctl.toNat
      let s1 := demand s (scratchAt 0 + 0x1020) 32
      let s2 := demand s1 (scratchAt 0 + 0x1000) 32
      Starts s 0 1 0x60 ⟨0, 31, 31, 31, 2 ^ 32 - 1, 2 ^ 48 - 1⟩ vquantW
      ∧ TileAt s1 0 (xr (getCore s 0) 1).toNat (scratchAt 0 + 0x1000) (tileOf tileQ)
      ∧ TileAt s 0 (xr (getCore s 0) 2).toNat (scratchAt 0 + 0x1020) (tileOf tileF)
      ∧ quantPoison (tilesRead s2 0 [tileOf tileF]) 0 q (tileOf tileQ) q.sinit ⟨0x6000, 0⟩ = none ∧ qctlValid q false false 0 0 = true
      ∧ tileLocal 0 (tileOf tileF) = true ∧ tileLocal 0 (tileOf tileQ) = true ∧ q.fmt ≠ 0x14
      ∧ statsOk 0 q (tileOf tileQ) 64 ⟨0x6000, 0⟩ = true
      ∧ TilesFree s2 0 [tileOf tileF] [tileOf tileQ] [] (statsRanges 0 q (tileOf tileQ) 64 ⟨0x6000, 0⟩)) :=
  ⟨⟨starts_of (by decide +kernel), by decide +kernel⟩, starts_of (by decide +kernel), by decide +kernel⟩

theorem test_accld_and_waitd_meet :
    (∀ t ∈ [tileF, tileBits 0x8000 512 64 64 0x14],
      let w := cw 0 1 0 0 7 0
      let s := tilesState 0x43 w t 0
      Starts s 0 0 0x43 ⟨0, 31, 0, 0, 7, 0⟩ w ∧ (getCore s 0).pend = none ∧ (getCore s 0).cont = none
      ∧ TileAt s 0 (xr (getCore s 0) 1).toNat (scratchAt 0 + 0x1000) (tileOf t) ∧ (tileOf t).rows = 64 ∧ (tileOf t).cols = 64
      ∧ ((tileOf t).fmt = 0x0F ∨ (tileOf t).fmt = 0x14) ∧ TilesFree (demand s (scratchAt 0 + 0x1000) 32) 0 [tileOf t] [] [] [accRng 7])
    ∧ (∀ ctl ∈ [0, 1],
      let w := cw 1 0 0 0 (BitVec.ofNat 32 ctl) 0xFFFF
      Issues (coreState 0x71 w) 0 0x71 ⟨31, 0, 0, 0, 1, 0xFFFF⟩ w ∧ ownEnts (getCore (coreState 0x71 w) 0) = []) :=
  ⟨fun t h => ⟨starts_of (by revert t; decide +kernel), by revert t; decide +kernel⟩,
    fun k h => ⟨issues_of (by revert k; decide +kernel), by revert k; decide +kernel⟩⟩

/-- A DMA descriptor that copies 64 bytes from 0x2000 to 0x3000 of a core's scratchpad, by its fields (R276), at 0x1000. -/
def dmaBits : Nat := 0x2000 * 2 ^ 384 + 0x3000 * 2 ^ 320 + 64 * 2 ^ 288
def dmaW : CoreWord := cw 0 1 0 0 0 0
def dmaState : State := writeNat (coreStateX 0x70 dmaW 1 2 0x1000 0) (scratchAt 0 + 0x1000) 64 dmaBits

theorem test_dma_meets :
    Issues dmaState 0 0x70 ⟨0, 31, 0, 0, 0, 0⟩ dmaW ∧ (xr (getCore dmaState 0) 1).toNat = 0x1000
    ∧ blocked dmaState 0 ((chainAddrs 16 dmaState 0 0x1000).map fun a => ⟨devAt 0 a, 64⟩) [] = false
    ∧ (match readChain 16 dmaState 0 0x1000 with | .ok ds => ds == [BitVec.ofNat 512 dmaBits] | _ => false) = true
    ∧ descOk 0 (BitVec.ofNat 512 dmaBits) = true
    ∧ liveEnts (getCore dmaState 0) < 32
    ∧ trackerFull 0 (getCore dmaState 0) ((chainReads 0 [BitVec.ofNat 512 dmaBits]).length
      + (chainWrites 0 [BitVec.ofNat 512 dmaBits]).length) = false :=
  ⟨issues_of (by decide +kernel), by decide +kernel⟩

/-- Chains of one iteration at 0x1000 (R217, R220): tiles of one BF16 element at 0x800 and 0x820. The first stores FP32 at the
tile of 0x840; the second converts to FP8 (0x860) with a guard whose record is the cluster store's first, in policy 0. -/
def chainHead (nstg dst : Nat) : Nat :=
  1 * 2 ^ 504 + nstg * 2 ^ 500 + 1 * 2 ^ 472 + 0x800 * 2 ^ 416 + 0x820 * 2 ^ 384 + dst * 2 ^ 320
def plainChain : Nat := chainHead 0 0x840
def guardedChain : Nat :=
  chainHead 2 0
    + 2 ^ 512 * (8 * 2 ^ 187 + (2 * 2 ^ 27 + 2 ^ 17 + 2 ^ 16) * 2 ^ 128 + 0x860 * 2 ^ 96 + 0x6000 * 2 ^ 64)
    + 2 ^ 704 * (9 * 2 ^ 187 + 0x10000000 * 2 ^ 96 + 0x880 * 2 ^ 64)
def chainW : CoreWord := cw 0 1 0 0 0 0
def chainState (n : Nat) : State :=
  let at_ := fun (s : State) (a v : Nat) => writeNat s (scratchAt 0 + a) 32 v
  let s := writeNat (coreStateX 0x41 chainW 1 2 0x1000 0) (scratchAt 0 + 0x1000) 256 n
  at_ (at_ (at_ (at_ (at_ s 0x800 (tileBits 0x2000 0 1 1 0)) 0x820 (tileBits 0x3000 0 1 1 0)) 0x840 (tileBits 0x4000 0 1 1 0xF))
    0x860 (tileBits 0x5000 0 1 1 2)) 0x880 (tileBits 0x5040 0 1 1 0)

/-- Whether the chain at 0x1000 may run now, and a property of it. -/
def chainMeets (s : State) (f : ChainProg → Bool) : Bool :=
  match readChainProg s 0 0x1000 with
  | .ok p =>
    let mode : ChainMode := ⟨false, (getCore s 0).rebind, false⟩
    let rs := modeReadRngs 0 p mode ++ inoutRngs 0 p
    let ws := chainOutRngs 0 p ++ inoutRngs 0 p ++ chainAccs p
    chainOk s 0 p && !flightBlocks 0 (getCore s 0) (getCore s 0).chainNext rs ws && !othersBlock s 0 rs ws
      && (chainPoison s 0 p mode).isNone && f p
  | _ => false

/-- The plain chain where another chain's verdict is open. -/
def openState : State :=
  onCore (chainState plainChain) fun x => { x with verdict := .open, pend := match readChainProg (chainState plainChain) 0 0x1000 with
    | .ok p => some { pendOf (chainState plainChain) 0 p ⟨false, none, false⟩ 0 0 0 with writes := [⟨scratchAt 0 + 0x7000, 4⟩] }
    | _ => none }

theorem test_chains_meet : ∀ s ∈ [chainState plainChain, chainState guardedChain, openState],
    Starts s 0 0 0x41 ⟨0, 31, 0, 0, 0, 0⟩ chainW ∧ (getCore s 0).cont = none ∧ (xr (getCore s 0) 1).toNat = 0x1000
    ∧ flightBlocks 0 (getCore s 0) (getCore s 0).chainNext (issueRanges s 0 0x1000) [] = false ∧ provBlocks s (issueRanges s 0 0x1000) [] = false := by
  intro s h
  simp only [List.mem_cons, List.not_mem_nil, or_false] at h
  rcases h with rfl | rfl | rfl <;> exact ⟨starts_of (by decide +kernel), by decide +kernel⟩

theorem test_chains_may_run :
    (chainMeets (chainState plainChain) (fun p => (guardIdx p).isNone) = true ∧ (getCore (chainState plainChain) 0).pend = none)
    ∧ (chainMeets (chainState guardedChain) (fun p => guardIdx p == some 1) = true
      ∧ (getCore (chainState guardedChain) 0).pend = none)
    ∧ (∃ q, (getCore openState 0).pend = some q ∧ (getCore openState 0).verdict = .open
      ∧ chainMeets openState (fun p => mayContinue 0 p q) = true) := by
  refine ⟨by decide +kernel, by decide +kernel, ?_⟩
  cases h : (getCore openState 0).pend with
  | none => exact absurd (by decide +kernel : (getCore openState 0).pend.isSome = true) (by simp [h])
  | some q =>
    have h2 : ∀ q, (getCore openState 0).pend = some q → chainMeets openState (fun p => mayContinue 0 p q) = true := by
      intro q hq
      have h3 : (match (getCore openState 0).pend with | some q => chainMeets openState (fun p => mayContinue 0 p q) | none => false)
        = true := by decide +kernel
      rw [hq] at h3
      exact h3
    exact ⟨q, rfl, by decide +kernel, h2 q h⟩

/-! ### Commands: states in which they start -/

def hdrOf (op ctx : Nat) : BitVec 512 := BitVec.ofNat 512 (op * 2 ^ 496 + ctx * 2 ^ 358)

/-- A waiting command of opcode `op`, number 1. -/
def cmdOf (op ctx : Nat) (m : Member) (ps : List Nat) : CmdRec :=
  { newCmd State.reset .i3c .operator (hdrOf op ctx) (ps.map (BitVec.ofNat 512)) with id := 1, epoch := 1, target := m }

def withCmd (s : State) (c : CmdRec) : State := { s with cmd := { s.cmd with inflight := [c] } }

/-- The device after reset with one command waiting. -/
def cmdSt (op : Nat) (u : Sys2Proof.PUnit) (ps : List Nat) : State := withCmd State.reset (cmdOf op 0 (.unit u) ps)

/-- Whether a command on a unit may start in the device after reset. -/
abbrev StartsAt (op : Nat) (u : Sys2Proof.PUnit) (ps : List Nat) : Prop :=
  Startable (cmdSt op u ps) 1 op (cmdOf op 0 (.unit u) ps) u

theorem test_group_commands_start : ∀ op ∈ [0x0103, 0x0104, 0x0120, 0x0201, 0x0202, 0x0302, 0x0401, 0x0501, 0x0502, 0x0503, 0x0504, 0x0506,
      0x0507, 0x0508, 0x0509, 0x050A, 0x050B, 0x050C, 0x0704, 0x0802], ∀ p ∈ [0, 2 ^ 511],
    let s := withCmd State.reset (cmdOf op 0 (.group 4095) [p])
    let c := cmdOf op 0 (.group 4095) [p]
    StartableGroup s 1 op c 4095 ∧ s.cmd.prepared = [] ∧ launchFree s c (coresFor s c) = true ∧ parentGroups (markStarted s 1) 4095 = []
      ∧ askedGroup s 4095 = false
      ∧ seqTurn s c [hCtx c.hdr] false = true ∧ (paramNat c.params).testBit 511 = decide (p ≠ 0) := by decide +kernel

theorem test_management_commands_start :
    StartsAt 0x0101 .device [] ∧ StartsAt 0x0102 .device [1] ∧ StartsAt 0x0106 .device []
    ∧ (∀ v ∈ [1, 2], StartsAt 0x0102 (.die 1) [v * 2 ^ 510] ∧ (dieOf (cmdSt 0x0102 (.die 1) [v * 2 ^ 510]) 1).changing = none)
    ∧ (StartsAt 0x0105 .device [2 ^ 440] ∧ checkSetIdentity (markStarted (cmdSt 0x0105 .device [2 ^ 440]) 1) [2 ^ 440] = [])
    ∧ (StartsAt 0x0103 (.core 0) [2 ^ 511] ∧ takeHeld (cmdSt 0x0103 (.core 0) [2 ^ 511]) (.core 0) = false) :=
  ⟨by decide +kernel, by decide +kernel, by decide +kernel, by decide +kernel, by decide +kernel, by decide +kernel⟩

/-- Die 1's change by another command runs. -/
def changingSt : State :=
  let s := cmdSt 0x0102 (.die 1) [2 ^ 511]
  setDie s 1 { dieOf s 1 with changing := some 2 }

/-- Hollow lets VCORE fall from 0.70 V at every hold margin; Vale does not. -/
theorem test_profiles_fall :
    (∀ s : State, s = cmdSt 0x0102 (.die 1) [2 ^ 511] → profileTarget s 1 2 < (dieOf s 1).vcore ∧ ¬ profileTarget s 1 1 < (dieOf s 1).vcore)
    ∧ (Startable changingSt 1 0x0102 (cmdOf 0x0102 0 (.unit (.die 1)) [2 ^ 511]) (.die 1) ∧ (dieOf changingSt 1).changing = some 2) := by
  refine ⟨fun s h => ?_, by decide +kernel⟩
  subst h
  have a := (vcoreTarget_bounds (inProfile (dieOf (cmdSt 0x0102 (.die 1) [2 ^ 511]) 1) 2) (Config.holdMargin
    (now (cmdSt 0x0102 (.die 1) [2 ^ 511]) / 100000 * 100000))).1
  have b := (vcoreTarget_bounds (inProfile (dieOf (cmdSt 0x0102 (.die 1) [2 ^ 511]) 1) 1) (Config.holdMargin
    (now (cmdSt 0x0102 (.die 1) [2 ^ 511]) / 100000 * 100000))).2
  have a' : trimmedVcore (inProfile (dieOf (cmdSt 0x0102 (.die 1) [2 ^ 511]) 1) 2) = 600 := by decide +kernel
  have b' : trimmedVcore (inProfile (dieOf (cmdSt 0x0102 (.die 1) [2 ^ 511]) 1) 1) = 700 := by decide +kernel
  have c : (dieOf (cmdSt 0x0102 (.die 1) [2 ^ 511]) 1).vcore = 700 := by decide +kernel
  unfold profileTarget
  rw [a'] at a
  rw [b'] at b
  omega

/-- A unit out of service whose restore waits. -/
def oosSt (op : Nat) (u : Sys2Proof.PUnit) : State := withCmd (setOwn State.reset u .outOfService) (cmdOf op 0 (.unit u) [0])

theorem test_restores_and_resets_start :
    (∀ u ∈ [Sys2Proof.PUnit.core 191, .port 31, .device], Startable (oosSt 0x0103 u) 1 0x0103 (cmdOf 0x0103 0 (.unit u) [0]) u
      ∧ (getUnit (oosSt 0x0103 u) u).own = .outOfService)
    ∧ StartsAt 0x0103 (.core 0) [0] ∧ (getUnit (cmdSt 0x0103 (.core 0) [0]) (.core 0)).own ≠ .outOfService
    ∧ (StartsAt 0x0104 (.core 0) [0] ∧ largerAct (markStarted (cmdSt 0x0104 (.core 0) [0]) 1) (.core 0) = none)
    ∧ (let a : DomAct := ⟨.die 0, .draining 5, 2, [], 0⟩
      let s := withCmd { State.reset with rst := { State.reset.rst with acts := [a] } } (cmdOf 0x0104 0 (.unit (.core 0)) [0])
      Startable s 1 0x0104 (cmdOf 0x0104 0 (.unit (.core 0)) [0]) (.core 0) ∧ largerAct (markStarted s 1) (.core 0) = some a) :=
  ⟨by decide +kernel, by decide +kernel, by decide +kernel, by decide +kernel, by decide +kernel⟩

/-- A queue pair of role operator. -/
def qp0 : QpSt := { pairOf 0 .operator with cqlog := 6 }

theorem test_queue_pair_commands_start :
    (StartsAt 0x0110 .hostIf [5 * 2 ^ 504] ∧ getQp (cmdSt 0x0110 .hostIf [5 * 2 ^ 504]) 5 = none)
    ∧ (let s := withCmd (setQp State.reset 255 (some qp0)) (cmdOf 0x0111 0 (.unit .hostIf) [255 * 2 ^ 504]);
      Startable s 1 0x0111 (cmdOf 0x0111 0 (.unit .hostIf) [255 * 2 ^ 504]) .hostIf ∧ getQp s 255 = some qp0
      ∧ hAbandon (cmdOf 0x0111 0 (.unit .hostIf) [255 * 2 ^ 504]).hdr = false ∧ [1] ≠ ([] : List Nat))
    ∧ (StartsAt 0x0111 .hostIf [255 * 2 ^ 504] ∧ getQp (cmdSt 0x0111 .hostIf [255 * 2 ^ 504]) 255 = none) :=
  ⟨by decide +kernel, by decide +kernel, by decide +kernel⟩

/-- LEASE_OPEN's parameters: profile 1, an injection rate of 1, and the point of P-384 with x = 0. -/
def leaseParams : List Nat :=
  let y := 0xc306610fb0ae5a159cf45c06069f22a6c5eb3641c602d42dea2c4b4f75550793406d80d2b91ad54f9048bd487af1ade1
  [y, 2 ^ 510 + 2 ^ 497]
def scrubbedSt : State := { State.reset with lease := { State.reset.lease with scrubbed := true } }
def leaseCmd : CmdRec := cmdOf 0x0201 0 (.unit .device) leaseParams

theorem own_scrubbed (u : Sys2Proof.PUnit) : (getUnit scrubbedSt u).own = .notReady := by
  show (unitRec UnitTab.init u).own = _
  rw [unitRec_init]
  rfl

theorem test_lease_open_prepares : (prepOpen (markStarted (withCmd scrubbedSt leaseCmd) 1) leaseCmd.params).status = stOk := by
  have hu : ∀ u, (getUnit (markStarted (withCmd scrubbedSt leaseCmd) 1) u).own = .notReady := own_scrubbed
  have h1 : prepareLeaseOpen (markStarted (withCmd scrubbedSt leaseCmd) 1) leaseCmd.params = stOk := by
    have h2 : (allUnits.any fun u => (getUnit (markStarted (withCmd scrubbedSt leaseCmd) 1) u).own = .fenced
        || (getUnit (markStarted (withCmd scrubbedSt leaseCmd) 1) u).own = .resetting) = false :=
      List.any_eq_false.mpr fun u _ => by simp [hu]
    unfold prepareLeaseOpen
    simp only [h2]
    decide +kernel
  unfold prepOpen
  simp only [h1]
  decide

theorem test_lease_commands_start :
    (let s := withCmd scrubbedSt leaseCmd;
      Startable s 1 0x0201 leaseCmd .device ∧ blockedObj (markStarted s 1) (begun s leaseCmd) = false)
    ∧ (let s := cmdSt 0x0202 .device []
      let c := cmdOf 0x0202 0 (.unit .device) []
      Startable s 1 0x0202 c .device ∧ blockedObj (markStarted s 1) (begun s c) = false ∧ s.lease.closing = none) :=
  ⟨by decide +kernel, by decide +kernel⟩

/-- States for each end of LEASE_OPEN's prepare: nothing scrubbed, a channel out of service, no room in the audit ring. -/
def leaseLost : State := setOwn scrubbedSt (.channel 255) .outOfService
def leaseFull : State := { scrubbedSt with audit := { State.reset.audit with nextSeq := 1048576 } }

theorem test_lease_open_failures_meet :
    (∀ s ∈ [scrubbedSt, leaseLost, leaseFull, State.reset], Startable (withCmd s leaseCmd) 1 0x0201 leaseCmd .device
      ∧ blockedObj (markStarted (withCmd s leaseCmd) 1) (begun (withCmd s leaseCmd) leaseCmd) = false)
    ∧ (leaseProfile leaseCmd.params ≤ 2 ∧ 1 ≤ leaseInjrate leaseCmd.params ∧ bits (paramNat leaseCmd.params) 1008 768 = 0
      ∧ leaseMirror leaseCmd.params = false
      ∧ onP384 (bits (paramNat leaseCmd.params) 767 384) (bits (paramNat leaseCmd.params) 383 0) = true)
    ∧ (State.reset.lease.scrubbed = false ∧ scrubbedSt.lease.scrubbed = true ∧ scrubbedSt.lease.openL = false
      ∧ tenantPairs scrubbedSt = [])
    ∧ (∀ u, (getUnit scrubbedSt u).own ≠ .fenced ∧ (getUnit scrubbedSt u).own ≠ .resetting)
    ∧ (getUnit leaseLost (.channel 255)).own = .outOfService
    ∧ auditRoom (markStarted (withCmd leaseFull leaseCmd) 1) 8192 = false := by
  refine ⟨?_, by decide +kernel, by decide +kernel, fun u => by simp [own_scrubbed], by decide +kernel, by decide +kernel⟩
  intro s h
  simp only [List.mem_cons, List.not_mem_nil, or_false] at h
  rcases h with rfl | rfl | rfl | rfl <;> decide +kernel

theorem test_memory_commands_start :
    (let p := 2 * 2 ^ 252 + 2 ^ 240 + 2 ^ 239 + 64 * 2 ^ 80;
      StartsAt 0x0301 .device [p] ∧ checkMemMap (markStarted (cmdSt 0x0301 .device [p]) 1) [BitVec.ofNat 512 p] = [])
    ∧ (StartsAt 0x0302 (.engine 0 3) [dmaBits] ∧ (vget (cmdSt 0x0302 (.engine 0 3) [dmaBits]).doze .init 0).off = false
      ∧ checkDmaCopy 0 [BitVec.ofNat 512 dmaBits] = [])
    ∧ (let c := { cmdOf 0x0301 0 (.unit .device) [2 * 2 ^ 252] with phase := .started, startedAt := some 0 }
      findCmd (withCmd State.reset c) 1 = some c ∧ hOpcode c.hdr = 0x0301 ∧ c.phase = .started
      ∧ ¬(hAbandon c.hdr = true ∧ hDeadline c.hdr ≤ now (withCmd State.reset c))) :=
  ⟨by decide +kernel, by decide +kernel, by decide +kernel⟩

/-- A flag command on the first word of cluster 0's store: a FLAG_WAIT for a value other than 1. -/
def flagParam (cond : Nat) : Nat := 0x100000000 * 2 ^ 464 + cond * 2 ^ 462 + 2 ^ 384

theorem test_flag_commands_start :
    (∀ op ∈ [0x0303, 0x0304], let p := flagParam 0
      let s := cmdSt op (.cluster 0) [p]
      StartsAt op (.cluster 0) [p] ∧ flagFree s (cmdOf op 0 (.unit (.cluster 0)) [p]) = true
      ∧ checkFlag op (.unit (.cluster 0)) [BitVec.ofNat 512 p] = []
      ∧ anyPoison (touchAddr (markStarted s 1) 0x100000000) 0x100000000 8 = false ∧ fcAddr [BitVec.ofNat 512 p] = 0x100000000)
    ∧ (let p := flagParam 1
      let s := cmdSt 0x0305 (.cluster 0) [p]
      let c := cmdOf 0x0305 0 (.unit (.cluster 0)) [p]
      StartsAt 0x0305 (.cluster 0) [p] ∧ checkFlag 0x0305 (.unit (.cluster 0)) [BitVec.ofNat 512 p] = []
      ∧ flagFree (markStarted s 1) (begun s c) = true ∧ anyPoison (markStarted s 1) 0x100000000 8 = false
      ∧ flagCond (fcCond [BitVec.ofNat 512 p]) (readNat (markStarted s 1) 0x100000000 8) (fcValue [BitVec.ofNat 512 p]) = true)
    ∧ (let p := flagParam 1
      let c := { cmdOf 0x0305 0 (.unit (.cluster 0)) [p] with phase := .started, startedAt := some 0 }
      let s := withCmd State.reset c
      findCmd s 1 = some c ∧ hOpcode c.hdr = 0x0305 ∧ flagFree s c = true ∧ anyPoison s 0x100000000 8 = false
      ∧ flagCond (fcCond c.params) (readNat s 0x100000000 8) (fcValue c.params) = true) :=
  ⟨by decide +kernel, by decide +kernel, by decide +kernel⟩

/-- A graph of one FLAG_SET on cluster 0. -/
def graphParams : List Nat := [2 ^ 499, 0x0303 * 2 ^ 496 + uidOf (.cluster 0) * 2 ^ 384, 0]

theorem test_launches_start :
    (let s := cmdSt 0x0401 (.core 191) [0]
      let c := cmdOf 0x0401 0 (.unit (.core 191)) [0]
      StartsAt 0x0401 (.core 191) [0] ∧ launchFree s c (coresFor s c) = true ∧ checkLaunch c.params = [] ∧ holdsCores (.core 191) = true
      ∧ coresFor (markStarted s 1) (begun s c) ≠ [])
    ∧ (StartsAt 0x0402 (.die 0) graphParams
      ∧ graphOk (markStarted (cmdSt 0x0402 (.die 0) graphParams) 1) (graphOfBlocks (graphParams.map (BitVec.ofNat 512))) = true)
    ∧ (let c := { cmdOf 0x0402 0 (.unit (.die 0)) graphParams with phase := .started, graph := some ⟨[], [], []⟩ }
      let s := withCmd State.reset c
      findCmd s 1 = some c ∧ hOpcode c.hdr = 0x0402 ∧ c.graph.isSome = true) :=
  ⟨by decide +kernel, by decide +kernel, by decide +kernel⟩

/-! ### The sequence engine: a configured state -/

/-- Geometry of 16 frames, 4 pages and 1 layer, and a configuration without a lead and without a prefix tree. -/
def testGeom : BitVec 256 :=
  BitVec.ofNat 256 (0x800000000 * 2 ^ 192 + 0x900000000 * 2 ^ 128 + 16 * 2 ^ 96 + 4 * 2 ^ 80 + 2 ^ 72 + 2 ^ 56)
def testCfg (mirror : Nat) : BitVec 1024 :=
  BitVec.ofNat 1024 (0xA00000000 * 2 ^ 896 + 64 * 2 ^ 796 + mirror * 2 ^ 795 + 2 ^ 544 + 2 ^ 512 + 2 ^ 480 + 0xB00000000 * 2 ^ 384)
def testCtx (state : Nat) (verified : Bool) : CtxRec :=
  { imageCtx 0 with state := state, drmax := 4, latns := 1000000, pquota := 4, atquota := 1000, verified := verified, former := 2 }

/-- Context 0 in a state, and a command on it waiting. -/
def seqSt (op : Nat) (ps : List Nat) (ctxs : Smap (Option CtxRec)) (mirror : Nat) : State :=
  withCmd { State.reset with seq := { State.reset.seq with geom := some testGeom, cfg := some (testCfg mirror), ctxs := ctxs } }
    (cmdOf op 0 (.unit (.seqEngine 0)) ps)

/-- Whether a command on context 0 may start and its turn has come. -/
abbrev SeqStarts (op : Nat) (ps : List Nat) (s : State) : Prop :=
  Startable s 1 op (cmdOf op 0 (.unit (.seqEngine 0)) ps) (.seqEngine 0)
    ∧ seqTurn s (cmdOf op 0 (.unit (.seqEngine 0)) ps) [0] false = true

/-- The two records as parameter blocks. -/
def seqParams : List Nat :=
  [testGeom.toNat + (testCfg 0).toNat % 2 ^ 256 * 2 ^ 256, (testCfg 0).toNat / 2 ^ 256 % 2 ^ 512, (testCfg 0).toNat / 2 ^ 768]

/-- The status of the effect; the state after it is its other part. -/
theorem test_sequence_config_meets : StartsAt 0x0501 (.seqEngine 0) seqParams
    ∧ (configSeq (markStarted (cmdSt 0x0501 (.seqEngine 0) seqParams) 1) (seqParams.map (BitVec.ofNat 512))).1 = stOk :=
  ⟨by decide +kernel, by decide +kernel⟩

theorem test_sequence_commands_meet :
    (SeqStarts 0x0502 [] (seqSt 0x0502 [] [] 1)
      ∧ (createCtx (markStarted (seqSt 0x0502 [] [] 1) 1) (begun (seqSt 0x0502 [] [] 1) (cmdOf 0x0502 0 (.unit (.seqEngine 0)) []))
        testGeom (testCfg 1)).1 = stOk)
    ∧ (∀ op ∈ [0x0503, 0x0509, 0x050B, 0x050C], SeqStarts op [] (seqSt op [] [(0, some (testCtx csDecode false))] 1))
    ∧ (let s := markStarted (seqSt 0x0503 [] [(0, some (testCtx csDecode false))] 1) 1;
      (destroyCtx s 0 testGeom).1 = stOk ∧ (suspendCtx s 0 testGeom).1 = stOk ∧ (evictCtx s 0 testGeom).1 = stOk
      ∧ (publishFrom 0 s testGeom (testCfg 1) 0 0 0 none).2.1 = false
      ∧ getCtx (seqSt 0x050C [] [(0, some (testCtx csDecode false))] 1) 0 = some (testCtx csDecode false)
      ∧ admitted (testCtx csDecode false) = true)
    ∧ (let s := seqSt 0x050A [] [(0, some (testCtx csSuspended false))] 1;
      SeqStarts 0x050A [] s ∧ (resumeCtx (markStarted s 1) 0 testGeom (testCfg 1)).1 = stOk) :=
  ⟨by decide +kernel, by decide +kernel, by decide +kernel, by decide +kernel⟩

/-- A prompt of one token, a draft of one node below NEXT, the commit of that node. -/
def prefillParams : List Nat := [1, 7]
def draftParams : List Nat := [1, 7 * 2 ^ 96 + 0xFF * 2 ^ 88]
def commitParams : List Nat := [9 + 2 ^ 32, 0]
def draftedCtx : CtxRec := { testCtx csSpec true with dnodes := 1, draft := [BitVec.ofNat 128 (7 * 2 ^ 96 + 0xFF * 2 ^ 88)] }

/-- Context 0 with one token in frame 0 and the draft's sprout in frame 1, and a commit of it waiting. -/
def draftedSt : State :=
  let s := seqSt 0x0507 commitParams [(0, some { draftedCtx with len := 1, frames := 2 })] 1
  writePte (writePte s testGeom 0 0 none (mkPte 2 false 0 0 1)) testGeom 0 0 (some 0) (mkPte 1 false 0 0 0)

theorem test_sequence_tokens_meet :
    (let s := seqSt 0x0504 prefillParams [(0, some (testCtx csIdle false))] 1;
      SeqStarts 0x0504 prefillParams s
      ∧ (prefillCtx (markStarted s 1) (begun s (cmdOf 0x0504 0 (.unit (.seqEngine 0)) prefillParams)) testGeom (testCfg 1)).1 = stOk)
    ∧ (let s := seqSt 0x0506 draftParams [(0, some (testCtx csDecode false))] 1;
      SeqStarts 0x0506 draftParams s
      ∧ (draftCtx (markStarted s 1) (begun s (cmdOf 0x0506 0 (.unit (.seqEngine 0)) draftParams)) testGeom).1 = stOk)
    ∧ (let s := draftedSt;
      SeqStarts 0x0507 commitParams s
      ∧ (commitCtx (markStarted s 1) (begun s (cmdOf 0x0507 0 (.unit (.seqEngine 0)) commitParams)) testGeom (testCfg 1)).1 = stOk)
    ∧ (let s := seqSt 0x0508 [9] [(0, some draftedCtx)] 1;
      SeqStarts 0x0508 [9] s
      ∧ (commitCtx (markStarted s 1) (begun s (cmdOf 0x0508 0 (.unit (.seqEngine 0)) [9])) testGeom (testCfg 1)).1 = stOk) :=
  ⟨by decide +kernel, by decide +kernel, by decide +kernel, by decide +kernel⟩

/-- SEQ_STEP without a mirror, with a plan in cluster 0's store, and with a plan in host memory. -/
def stepParams (dev : Nat) : List Nat := [dev * 2 ^ 446 + 0x20000000 * 2 ^ 384 + dev * 0x100000000 * 2 ^ 320]

theorem test_sequence_steps_meet : ∀ x ∈ [(0, 0), (1, 1), (1, 0)],
    let ps := stepParams x.2
    let s := seqSt 0x0505 ps [] x.1
    let c := cmdOf 0x0505 0 (.unit (.seqEngine 0)) ps
    let t := markStarted s 1
    Startable s 1 0x0505 c (.seqEngine 0) ∧ seqTurn s c [] true = true ∧ isLead t (testCfg x.1) = true
    ∧ (x.1 = 0 → checkSeqStep t c.params = []) ∧ cMirror (testCfg x.1) = decide (x.1 = 1) ∧ spPlandev c.params = decide (x.2 = 1)
    ∧ (x.1 = 1 → checkSeqStep t c.params = [])
    ∧ (x.2 = 1 → devRangeOk 0x100000000 64 = true ∧ kvProtected t 0x100000000 64 = false ∧ anyPoison t 0x100000000 64 = false
      ∧ spPlan c.params = 0x100000000 ∧ bits (readNat t 0x100000000 64) 447 432 = 0) := by decide +kernel

/-! ### Fabric, ports, telemetry, global stop, groups -/

/-- Group 0 holds this device. -/
def grouped : State := { State.reset with groups := { State.reset.groups with tab := [(0, some ⟨[.unit .device], none, false, [1]⟩)] } }

/-- An ALL_REDUCE of one element over group 0 from and to cluster 0's store; armed on a flag of slot 63; its disarm. -/
def collBits (op arm slot : Nat) : Nat :=
  op * 2 ^ 508 + 2 ^ 506 + 2 ^ 502 + arm * 2 ^ 491 + slot * 2 ^ 485 + 2 ^ 479 + 2 ^ 384 + 0x100000000 * 2 ^ 336 + 0x100001000 * 2 ^ 288
    + arm * (0x100002000 * 2 ^ 240 + 2 ^ 208)

theorem test_fabric_commands_start :
    (let ps := [2 ^ 497 + 2 ^ 482, 0];
      StartsAt 0x0601 .device ps ∧ checkRouteSet (markStarted (cmdSt 0x0601 .device ps) 1) (ps.map (BitVec.ofNat 512)) = [])
    ∧ (∀ x ∈ [collBits 1 0 0, collBits 1 1 63, 2 ^ 491 + 63 * 2 ^ 485],
      let c := cmdOf 0x0602 0 (.unit .device) [x]
      let s := withCmd grouped c
      Startable s 1 0x0602 c .device ∧ checkCollective (markStarted s 1) c.params = [] ∧ earlierOrdered s c = true ∧ s.fab.insts = [])
    ∧ (coArm (BitVec.ofNat 512 (collBits 1 0 0)) = false ∧ coArm (BitVec.ofNat 512 (collBits 1 1 63)) = true
      ∧ coOp (BitVec.ofNat 512 (collBits 1 1 63)) ≠ 0 ∧ coArm (BitVec.ofNat 512 (2 ^ 491 + 63 * 2 ^ 485)) = true
      ∧ coOp (BitVec.ofNat 512 (2 ^ 491 + 63 * 2 ^ 485)) = 0)
    ∧ (∀ a ∈ [1, 2, 3, 4], StartsAt 0x0603 (.port 31) [a * 2 ^ 508]
      ∧ pcAction ([a * 2 ^ 508].map (BitVec.ofNat 512)) = a ∧ (cmdSt 0x0603 (.port 31) [a * 2 ^ 508]).lease.openL = false)
    ∧ (let s := withCmd { State.reset with lease := { State.reset.lease with openL := true } } (cmdOf 0x0603 0 (.unit (.port 31)) [4 * 2 ^ 508]);
      Startable s 1 0x0603 (cmdOf 0x0603 0 (.unit (.port 31)) [4 * 2 ^ 508]) (.port 31) ∧ s.lease.openL = true) :=
  ⟨by decide +kernel, by decide +kernel, by decide +kernel, by decide +kernel, by decide +kernel⟩

theorem test_observability_commands_start :
    (StartsAt 0x0701 .device [3 * 2 ^ 504 + 16 * 2 ^ 288]
      ∧ checkTelemRead ([3 * 2 ^ 504 + 16 * 2 ^ 288].map (BitVec.ofNat 512)) false [.device] [] = [])
    ∧ (let c := cmdOf 0x0702 0 (.unit (.die 0)) [80 * 2 ^ 288];
      let x : DumpRec := ⟨1, uidOf (.die 0), 0, false, false, []⟩
      let s := withCmd { State.reset with dumps := [x] } c
      Startable s 1 0x0702 c (.die 0) ∧ findDump (markStarted s 1) (.die 0) (paramNat c.params) = some x
      ∧ 64 + x.body.length + 16 ≤ bits (paramNat c.params) 319 288)
    ∧ StartsAt 0x0704 (.cluster 23) [0]
    ∧ (∀ x ∈ [0, 1], let p := 2 ^ 432 + x * 2 ^ 431
      StartsAt 0x0705 .device [p] ∧ checkAuditRead ([p].map (BitVec.ofNat 512)) = []
      ∧ arSign (paramNat ([p].map (BitVec.ofNat 512))) = decide (x = 1) ∧ auditRoom (markStarted (cmdSt 0x0705 .device [p]) 1) 1 = true) :=
  ⟨by decide +kernel, by decide +kernel, by decide +kernel, by decide +kernel⟩

/-- The device scrubbed, not barred by the maker, with token 7 armed until 1 ns. -/
def armedSt (c : CmdRec) : State :=
  withCmd { scrubbedSt with sec := { State.reset.sec with makerDbg := true }, stopArm := some (7, 1) } c

theorem test_global_stop_commands_start : ∀ m ∈ [1, 2, 3],
    let c := cmdOf 0x0703 0 (.unit .device) [m * 2 ^ 510 + 7 * 2 ^ 480]
    let s := armedSt c
    Startable s 1 0x0703 c .device ∧ sgMode (paramNat c.params) = m ∧ starOpen (markStarted s 1) = true
      ∧ armed (markStarted s 1) (sgToken (paramNat c.params)) = true := by decide +kernel

theorem test_group_definitions_start : ∀ far ∈ [0, 1],
    let c := cmdOf 0x0801 0 (.unit .device) [2 ^ 481 + far, uidOf .device + far * 5 * 2 ^ 48]
    let s := withCmd State.reset c
    let t := markStarted s 1
    Startable s 1 0x0801 c .device ∧ checkGroupDefine t c.params = [] ∧ blockedObj t (begun s c) = false
      ∧ ((reachOf t (parsedMembers t (paramNat c.params))).any fun m => match m with | .remote _ => true | _ => false) = decide (far = 1) := by
  decide +kernel

/-! ### How commands end -/

theorem test_commands_that_end_meet :
    (let c := cmdOf 0x0301 0 (.unit .device) [];
      findCmd (withCmd State.reset c) 1 = some c ∧ c.phase ≠ .finished ∧ c.phase ≠ .refused ∧ c.origin = .i3c ∧ c.tripRecs = [])
    ∧ (let c := { cmdOf 0x0301 0 (.unit .device) [] with phase := .finished, origin := .qp 0 };
      let s := withCmd (setQp State.reset 0 (some qp0)) c
      findCmd s 1 = some c ∧ cqTurn s c = true ∧ cqOpen s c = true)
    ∧ (let c := { cmdOf 0x0301 0 (.unit .device) [] with phase := .refused, origin := .qp 0 };
      let s := withCmd { setQp State.reset 0 (some qp0) with tb := { State.reset.tb with count := 20000 } } c
      findCmd s 1 = some c ∧ cqTurn s c = true ∧ cqOpen s c = true ∧ c.fetchedAt + 20000 ≤ now s) :=
  ⟨by decide +kernel, by decide +kernel, by decide +kernel⟩

/-- A state at the last instant of the count, where every timeout has come. -/
def lateSt (c : CmdRec) : State := withCmd { State.reset with tb := { State.reset.tb with count := -1 } } c

theorem test_timeouts_meet :
    (∀ x ∈ [(0x0305, CmdPhase.started, (none : Option Bool), 0), (0x0301, .forwarded, none, 0), (0x0301, .held, none, 0), (0x0201, .started, some true, 0),
        (0x0201, .started, none, 1), (0x0301, .accepted, none, 0)],
      let c := { cmdOf x.1 0 (.unit .device) [] with phase := x.2.1, decided := x.2.2.1, fan := List.replicate x.2.2.2 (.unit .device, 1) }
      let s := lateSt c
      findCmd s 1 = some c ∧ c.phase ≠ .finished ∧ c.phase ≠ .refused ∧ c.hung = none ∧ graphNode s c = false
      ∧ c.acceptedAt + cmdTimeout c.hdr c.acceptedAt ≤ now s ∧ hOpcode c.hdr = x.1 ∧ leading c = decide (x.2.2.2 = 1))
    ∧ (let c := cmdOf 0x0301 0 (.unit .device) []; findCmd (timeoutFar (lateSt c) 1) 1 = some c) :=
  ⟨by decide +kernel, by decide +kernel⟩

/-- A started command whose deadline of 1 has passed; one that may not start under DL_ABANDON; one of an epoch that has gone. -/
theorem test_deadlines_meet :
    (let c := { cmdOf 0x0301 0 (.unit .device) [] with hdr := hdrOf 0x0301 0 + BitVec.ofNat 512 (2 ^ 256), phase := .started, startedAt := some 0 };
      let s := lateSt c
      findCmd s 1 = some c ∧ c.startedAt.isSome = true ∧ completing stOk = true ∧ hDeadline c.hdr = 1 ∧ hDeadline c.hdr < now s)
    ∧ (∀ op ∈ [0x0101, 0x0801],
      (let c := { cmdOf op 0 (.unit .device) [] with hdr := hdrOf op 0 + BitVec.ofNat 512 (2 ^ 256 + 2 ^ 481) };
        let s := lateSt c
        waiting s 1 op = some c ∧ orderMet s c = true ∧ hAbandon c.hdr = true ∧ hDeadline c.hdr ≤ now s)
      ∧ (let c := { cmdOf op 0 (.unit .device) [] with epoch := 2 };
        let s := withCmd State.reset c
        waiting s 1 op = some c ∧ orderMet s c = true ∧ hAbandon c.hdr = false ∧ c.epoch ≠ (getUnit s .device).epoch)
      ∧ (let c := { cmdOf op 0 (.group 4095) [] with epoch := 2 };
        let s := withCmd State.reset c
        waiting s 1 op = some c ∧ orderMet s c = true ∧ hAbandon c.hdr = false ∧ c.epoch ≠ groupEpoch s 4095)) :=
  ⟨by decide +kernel, by decide +kernel⟩

/-! ### Events: states in which they act -/

/-- Power is on since time 0. -/
def onSt : State := { State.reset with rst := { State.reset.rst with porAt := some 0 } }
def ready (s : State) (u : Sys2Proof.PUnit) : State := setOwn s u .ready
def atTime (s : State) (t : BitVec 64) : State := { s with tb := { s.tb with count := t } }
def withAct (s : State) (a : DomAct) : State := { s with rst := { s.rst with acts := [a] } }

theorem test_units_become_ready :
    (let s := { ready onSt (.die 0) with sec := { onSt.sec with fwOk := true } };
      (getUnit s (.seqEngine 0)).own = .notReady ∧ dependsMet s (.seqEngine 0) = true ∧ s.rst.porAt.isSome = true)
    ∧ (let s := { ready onSt (.mgmt 0) with sec := { onSt.sec with fwOk := true }, host := { onSt.host with linkUp := true, perst := false } };
      (getUnit s .hostIf).own = .notReady ∧ dependsMet s .hostIf = true)
    ∧ (let s := ready onSt (.mgmt 0);
      isReady (getUnit s (.mgmt 0)).own = true ∧ (getUnit s (.channel 255)).own = .notReady ∧ findAct s (.channel 255) = none
      ∧ bits (1 * 2 ^ 61) 63 61 = 1 ∧ bits (2 * 2 ^ 61) 63 61 = 2 ∧ bits (3 * 2 ^ 61) 63 61 = 3)
    ∧ (let a : DomAct := ⟨.channel 255, .resetting 0 1, 2, [], 0⟩;
      let s := withAct (setOwn (ready onSt (.mgmt 0)) (.channel 255) .resetting) a
      (getUnit s (.channel 255)).own = .resetting ∧ findAct s (.channel 255) = some a) :=
  ⟨by decide +kernel, by decide +kernel, by decide +kernel, by decide +kernel⟩

theorem test_domains_act :
    (let a : DomAct := ⟨.core 0, .draining 5, 1, [], 0⟩;
      findAct (atTime (withAct onSt a) 5) (.core 0) = some a ∧ 5 ≤ now (atTime (withAct onSt a) 5)
      ∧ fenceHeld (atTime (withAct onSt a) 5) (.core 0) = false ∧ fenceHeld (atTime (withAct onSt a) 5) .device = false)
    ∧ (∀ u ∈ [Sys2Proof.PUnit.core 0, .die 1, .device],
      let s := withAct { onSt with dies := onSt.dies.map fun x => { x with awaiting := false } } ⟨u, .resetting 0 1, 1, [], 0⟩
      findAct s u = some ⟨u, .resetting 0 1, 1, [], 0⟩ ∧ awaitsPace s u = false)
    ∧ (let a : DomAct := ⟨.hostIf, .resetting 0 1, 1, [], 0⟩;
      let s := { withAct onSt a with host := { onSt.host with linkUp := true, perst := false } }
      findAct s .hostIf = some a ∧ s.host.linkUp = true ∧ s.host.perst = false)
    ∧ (let a : DomAct := ⟨.hostIf, .resetting 0 1, 2, [], 0⟩;
      findAct (atTime (withAct onSt a) 1) .hostIf = some a ∧ onSt.host.linkUp = false ∧ 1 ≤ now (atTime (withAct onSt a) 1))
    ∧ (∀ u ∈ [Sys2Proof.PUnit.core 0, .die 1, .device],
      let s := atTime (withAct onSt ⟨u, .resetting 0 1, 1, [], 0⟩) 80000000
      findAct s u = some ⟨u, .resetting 0 1, 1, [], 0⟩ ∧ 0 + 4 * resetTime u ≤ now s ∧ (nextDomain u).isSome = decide (u ≠ .device)
      ∧ (nextDomain u).any (fenceHeld s) = false ∧ fenceHeld s .device = false) :=
  ⟨by decide +kernel, by decide +kernel, by decide +kernel, by decide +kernel, by decide +kernel⟩

/-- The report of a bridge fault, with changes prepared for other leads. -/
def bridged (ps : List PrepRec) : State :=
  let s := { onSt with cmd := { onSt.cmd with prepared := ps } }
  emit (faultUnit { s with rst := { s.rst with bridge := true } } .device 0x0008 0 (uidOf .device) 0 0) (.pin "FAULT_N" false)

theorem test_channels_act :
    isReady (getUnit (ready onSt (.channel 255)) (.channel 255)).own = true
    ∧ (onSt.rst.porAt.isSome = true ∧ onSt.rst.bridge = false
      ∧ fenceHeld (bridged []) (.die 0) = false ∧ fenceHeld (bridged []) (.die 1) = false
      ∧ fenceHeld (bridged [⟨5, 9, .operator, 0, 0, hdrOf 0x0504 0, [], 1, false, 0, []⟩]) (.die 0) = true)
    ∧ (StartsAt 0x0120 (.channel 0) [] ∧ ((cmdSt 0x0120 (.channel 0) []).channels[0]).testing = none)
    ∧ (let c := { cmdOf 0x0120 0 (.unit (.channel 0)) [] with phase := .started };
      let s := withCmd State.reset c
      let s := { s with channels := s.channels.set 0 { s.channels[0] with testing := some (1, .ready, 0, 64) } }
      (s.channels[0]).testing = some (1, .ready, 0, 64) ∧ findCmd s 1 = some c ∧ findCmd State.reset 1 = none ∧ c.origin = .i3c) :=
  ⟨by decide +kernel, by decide +kernel, by decide +kernel, by decide +kernel⟩

/-- A prepared LEASE_CLOSE of device 5, due at 1 ns, in doubt or not. -/
def prepOf (doubt : Bool) : PrepRec := ⟨5, 9, .operator, 0, 0, hdrOf 0x0202 0, [], 1, doubt, 0, []⟩
def prepSt (doubt : Bool) : State :=
  atTime { onSt with cmd := { onSt.cmd with prepared := [prepOf doubt] } } 1000000

theorem test_arrivals_meet :
    mgmtReady (ready onSt (.mgmt 0)) = true
    ∧ (remoteHonoured (ready onSt (.mgmt 0)) ⟨5, 9, 0, .operator, 0, []⟩ = true
      ∧ remoteHonoured (ready onSt (.mgmt 0)) ⟨2 ^ 15 + 5, 9, 0, .operator, 1, []⟩ = false
      ∧ headerBad (hdrOf 0x0202 0) true false = [] ∧ headerBad 1 true false ≠ []
      ∧ sameLease (ready onSt (.mgmt 0)) ⟨5, 9, 7, .tenant, 0, []⟩ = false)
    ∧ (5 ≠ selfId (ready onSt (.mgmt 0)) ∧ (prepareAt (ready onSt (.mgmt 0)) ⟨5, 9, 7, .tenant, 0, []⟩).isSome = true)
    ∧ (findPrep (prepSt false) 5 9 = some (prepOf false) ∧ (prepOf false).inDoubt = false ∧ (prepOf false).deadline ≤ now (prepSt false)
      ∧ 5 ≠ selfId (prepSt false))
    ∧ (findPrep (prepSt true) 5 9 = some (prepOf true) ∧ (prepOf true).inDoubt = true
      ∧ (prepOf true).lastAsk + 1000000 ≤ now (prepSt true)) :=
  ⟨by decide +kernel, by decide +kernel, by decide +kernel, by decide +kernel, by decide +kernel⟩

/-- One entry of core 0's DMA queue, number 0, for a descriptor. -/
def entOf (d : Nat) (ph : DmaPhase) : DmaEnt :=
  ⟨0, 0, none, BitVec.ofNat 512 d, 0, ph, [], false, none, none, none, [], 0, 0, 0, [], false, false, 0⟩
def entSt (e : DmaEnt) : State := onCore onSt fun x => { x with dma := [e] }

/-- A descriptor that reads 64 bytes at page 1 of PASID 1 of the host into core 0's scratchpad. -/
def hostDesc : Nat := 2 * 2 ^ 460 + 4096 * 2 ^ 384 + 0x3000 * 2 ^ 320 + 64 * 2 ^ 288

theorem test_dma_entries_meet :
    (let e := entOf dmaBits .waiting;
      findEnt (entSt e) 0 0 = some e ∧ frozen (entSt e) = false ∧ slotsHeld (getCore (entSt e) 0) < 32
      ∧ anyBefore (getCore (entSt e) 0) e (·.phase = .waiting) = false
      ∧ (match submitCheck (entSt e) e.desc with | .inr _ => true | .inl _ => false) = true)
    ∧ (let e := entOf dmaBits .submitted;
      findEnt (entSt e) 0 0 = some e ∧ e.slots = [] ∧ mayStart (entSt e) 0 e = true ∧ hasStale e = false ∧ entOff (entSt e) 0 e = false)
    ∧ (let e := entOf (dmaBits + (0x10000000 - 0x2000) * 2 ^ 384) .submitted
      let s := { entSt e with doze := vset onSt.doze 192 { onSt.doze[0] with off := true } }
      findEnt s 0 0 = some e ∧ mayStart s 0 e = true ∧ hasStale e = false ∧ entOff s 0 e = true)
    ∧ (let e := { entOf hostDesc .submitted with slots := [{ XSlot.init 1 with filled := true, canRead := true, stale := true }] }
      findEnt (entSt e) 0 0 = some e ∧ translated e = true ∧ mayStart (entSt e) 0 e = true ∧ hasStale e = true)
    ∧ (let e := { entOf hostDesc .started with hostOut := 1, startedAt := 1 };
      findEnt (entSt e) 0 0 = some e ∧ hostReads e = true ∧ piecesLen (outPieces e) = 64)
    ∧ (∀ stale ∈ [false, true],
      let x := { XSlot.init 1 with filled := true, canRead := true, stale := stale }
      let e := { entOf hostDesc .started with slots := [x], startedAt := 1 }
      findEnt (entSt e) 0 0 = some e ∧ hostReads e = false ∧ readsLeft e = true ∧ translated e = true ∧ hasStale e = stale)
    ∧ (let e := { entOf dmaBits .started with moved := true };
      findEnt (entSt e) 0 0 = some e ∧ hostReads e = false ∧ readsLeft e = false ∧ bytesDone e = true)
    ∧ (let e := entOf (dmaBits + 3 * 2 ^ 460) .started;
      findEnt (entSt e) 0 0 = some e ∧ bytesDone e = false ∧ readsDone e = true) :=
  ⟨by decide +kernel, by decide +kernel, by decide +kernel, by decide +kernel, by decide +kernel, by decide +kernel, by decide +kernel,
    by decide +kernel⟩

/-- The entry waits for the translation of page 1, asked before an invalidation or not, its page request out or not; it comes with
no right and with both. -/
theorem test_translations_meet : ∀ gone ∈ [false, true], ∀ held ∈ [false, true],
    let q : Nat × List (Nat × Nat) := (1, if gone then [(0, 2)] else [])
    let e := { entOf hostDesc (if held then .priWait 0 5 else .submitted) with slots := [XSlot.init 1], xreqs := [q] }
    findEnt (entSt e) 0 0 = some e ∧ entEnded e = false
    ∧ ∀ b ∈ [false, true],
      let t : TransIn := ⟨1, 1, [(7, b, b)]⟩
      (e.xreqs.find? fun q => q.1 = t.asked) = some q
      ∧ (q.2.any fun v => v.1 < t.page + t.pages.length && t.page < v.1 + v.2) = gone
      ∧ ((e.slots.map (fillSlot t)).any fun y => y.filled && !slotGrants e.desc y) = !b := by decide +kernel

theorem test_page_requests_and_invalidations_meet :
    (let e := entOf hostDesc (.priWait 0 5);
      findEnt (atTime (entSt e) 5) 0 0 = some e ∧ e.phase = .priWait 0 5 ∧ 0 + 5 ≤ now (atTime (entSt e) 5)
      ∧ now (atTime (entSt e) 4) < 0 + 5 ∧ findEnt (atTime (entSt e) 4) 0 0 = some e)
    ∧ (onSt.xl.invals.length < 32 ∧ (onSt.xl.invals.any fun i => i.itag = 31) = false)
    ∧ (let i : InvalRec := ⟨31, none, 0, 1, 0, false, []⟩;
      let s := atTime { onSt with xl := { onSt.xl with invals := [i] } } 45000
      (s.xl.invals.find? fun i => i.itag = 31) = some i ∧ i.reads.any (readOut s) = false ∧ i.at_ + 45000 ≤ now s) :=
  ⟨by decide +kernel, by decide +kernel, by decide +kernel⟩

/-! ### Verdicts and replays -/

/-- A chain without stages, and core 0 waiting for the verdict of a guarded one whose guard record holds `g`. -/
def bareProg : ChainProg :=
  let t : TileDesc := ⟨0, 0, 0, 0, 0, 0, 0, 0, 0⟩
  ⟨1, 0, 0, 0, 0, false, 0, 1, 1, 0, 0, 0, t, t, none, [], true, [], none, none, []⟩
def guardPend : PendChain :=
  ⟨bareProg, ⟨false, none, false⟩, true, 0x10000000, 0, 0x6000, [], [], [], [], 0, 0⟩
def guardSt (g : Nat) (v : VerdictPhase) (es : List DmaEnt) : State :=
  onCore (writeNat State.reset 0x100000000 64 g) fun x => { x with phase := .running, pend := some guardPend, verdict := v, dma := es }

theorem test_verdicts_meet : ∀ g ∈ [0, 2 ^ 297, 2 ^ 297 + 2 ^ 302, 2 ^ 297 + 2 * 2 ^ 302],
    let s := guardSt g .open []
    let x := getCore s 0
    let ps := participants s 0 guardPend
    let ra := verdictRecord ps guardPend.record
    let cmp := tripCmp (readNat s ra 64) (combineRecs (ps.map (tensorOf s))) true
    x.pend = some guardPend ∧ awaitsVerdict x = true ∧ fencedPart s x.dispatch ps = none
    ∧ (ps.filter (presents s x.dispatch guardPend.record guardPend.ordinal)).length = ps.length ∧ anyPoison s ra 64 = false
    ∧ ps = [0] ∧ cmp = (if g = 0 then 0 else 1) ∧ bits (readNat s ra 64) 303 302 = g / 2 ^ 302 := by decide +kernel

theorem test_replays_meet :
    (let s := guardSt 0 (.replaying false 0 0 [0]) [];
      (getCore s 0).pend = some guardPend ∧ (getCore s 0).verdict = .replaying false 0 0 [0] ∧ (blockEnts (getCore s 0)).all entEnded = true
      ∧ (blockEnts (getCore s 0)) = [])
    ∧ (let e := { entOf 0 (.ended stPoisoned) with owner := some 0 }
      let s := guardSt 0 (.replaying true 0 0 [0]) [e]
      (blockEnts (getCore s 0)) = [e] ∧ (blockEnts (getCore s 0)).all entEnded = true ∧ stPoisoned ≠ stOk) :=
  ⟨by decide +kernel, by decide +kernel⟩

/-! ### Attention units and steps -/

/-- Request `q` in the ring of core 0, with page 0 of layer 0 of context 0 in frame 0 in the look-aside buffer. -/
def attnSt (q : Nat) : State :=
  let s := { onSt with
    seq := { State.reset.seq with geom := some testGeom, cfg := some (testCfg 0), ctxs := [(0, some (testCtx 2 true))] }
    clusters := onSt.clusters.set 0 { onSt.clusters[0] with lab := [⟨0, 0, some 0, BitVec.ofNat 64 (mkPte 1 false 0 0 0)⟩] } }
  writeNat (writeNat (setOwn (setOwn s (.attn 0) .ready) (.cluster 0) .ready) (mailbox 0 0) 64 q) (mailbox 0 0 + 0x400) 8 1

/-- The fields of a request that matter here. -/
def aqOf (op count rows dst dstride src sstride : Nat) : Nat :=
  op * 2 ^ 508 + count * 2 ^ 424 + rows * 2 ^ 416 + dst * 2 ^ 384 + dstride * 2 ^ 352 + src * 2 ^ 320 + sstride * 2 ^ 288

def attnMeets (q : Nat) : Bool :=
  let s := attnSt q
  let b := BitVec.ofNat 512 (readNat s (ringEntryAt 0 0 0) 64)
  ringConsumed s 0 0 == 0 && ringDoorbell s 0 0 == 1 && isReady (baseState s (.attn 0)) && !frozen s && attnAsleep s 0 (aqOp b) == [] && !anyPoison s (ringEntryAt 0 0 0) 64
    && s.seq.geom == some testGeom && attnValid testGeom 0 0 b
    && !provBlocks s ((attnRanges 0 0 (aqReads testGeom b)).getD []) ((attnRanges 0 0 (aqWrites testGeom b)).getD [])
    && withheld s 0 0 0 b ((attnRanges 0 0 (aqReads testGeom b)).getD []) == none

def attnTaken (q : Nat) : State := takeReq (demand (attnSt q) (ringEntryAt 0 0 0) 64) 0 0 0

theorem test_attention_requests_meet :
    (let q := aqOf 1 1 0 0 65536 0 0;
      attnMeets q = true ∧ (doFetch (attnTaken q) testGeom 0 0 (BitVec.ofNat 512 q)).1 = none)
    ∧ (let q := aqOf 2 1 0 0 0 0 65536;
      attnMeets q = true ∧ (doAppend (attnTaken q) testGeom 0 0 (BitVec.ofNat 512 q)).1 = none)
    ∧ (let q := aqOf 3 1 0 0 0 0 0;
      attnMeets q = true ∧ (doStage (attnTaken q) testGeom 0 0 (BitVec.ofNat 512 q)).1 = none)
    ∧ (let q := aqOf 4 0 2 0x40000 128 0 128;
      attnMeets q = true ∧ (doXpose (attnTaken q) testGeom 0 0 (BitVec.ofNat 512 q)).1 = none)
    ∧ (let q := aqOf 5 1 1 0x40000 0 0 65536;
      attnMeets q = true ∧ (doMerge (attnTaken q) testGeom 0 0 (BitVec.ofNat 512 q)).1 = none) :=
  ⟨by decide +kernel, by decide +kernel, by decide +kernel, by decide +kernel, by decide +kernel⟩

/-- An APPEND whose source a failed part withheld. -/
theorem test_withheld_append_meets :
    let q := aqOf 2 1 0 0 0 0 65536
    let b := BitVec.ofNat 512 q
    let rs := (attnRanges 0 0 (aqReads testGeom b)).getD []
    withheld (modCluster (attnSt q) 0 fun x => { x with attnHeld := [(0, 0, stPoisoned, rs)] }) 0 0 0 b rs = some stPoisoned := by
  decide +kernel

/-- A step of context 0 whose graph, of no node or of one failed, has ended. -/
def stepRun (ended : Option (Nat × Nat)) : StepRun := ⟨1, none, [⟨0, 2, 0, 0, 1⟩], [], 1, 0, 0, 0, 0, ended, [], [], []⟩
def stepCmd (bad : Bool) : CmdRec :=
  let g : GraphRun := if bad then ⟨[(0, 0)], [some 2], [some (stRefused, 0)]⟩ else ⟨[], [], []⟩
  { cmdOf 0x0508 0 (.unit (.seqEngine 0)) [] with phase := .started, graph := some g }
def stepSt (bad : Bool) : State :=
  withCmd { onSt with seq := { State.reset.seq with geom := some testGeom, cfg := some (testCfg 0), step := some (stepRun none) } } (stepCmd bad)

/-- The geometry with one staging slot. -/
def stageGeom : BitVec 256 := BitVec.ofNat 256 (testGeom.toNat + 2 ^ 45)

/-- A frame with a valid page 0 of context 0, layer 0, fetched by cluster 0 in the step, with a free staging slot. -/
def fetchSt : State :=
  let g := stageGeom
  let s := { stepSt false with
    seq := { (stepSt false).seq with geom := some g, ctxs := [(0, some { testCtx 2 true with len := 64 })] }
    clusters := onSt.clusters.set 0 { onSt.clusters[0] with fetched := [(0, 0, 0)] } }
  writePte (setOwn (setOwn s (.attn 0) .ready) (.cluster 0) .ready) g 0 0 (some 0) (mkPte 1 false 0 0 0)

theorem test_steps_meet :
    (∀ bad ∈ [false, true], let s := stepSt bad
      let t := pumpGraph 4097 s 1
      s.seq.step = some (stepRun none) ∧ s.seq.geom = some testGeom ∧ s.seq.cfg = some (testCfg 0) ∧ (stepRun none).ended = none
      ∧ findCmd t 1 = some (stepCmd bad) ∧ (stepCmd bad).phase ≠ .finished
      ∧ (stepCmd bad).graph.bind graphResult = some (if bad then stRefused else stOk, 0)
      ∧ completing (if bad then stRefused else stOk) = !bad)
    ∧ prefetchNext fetchSt stageGeom (stepRun none) = some (0, 0, 0, 0) ∧ fetchSt.seq.step = some (stepRun none)
    ∧ (fetchSt.seq.geom = some stageGeom ∧ (stepRun none).ended = none ∧ frozen fetchSt = false
      ∧ (stageOne fetchSt stageGeom 0 0 0 0).1 = none) :=
  ⟨by decide +kernel, by decide +kernel, by decide +kernel, by decide +kernel⟩

/-! ### Pace and timebase -/

/-- The device with its timebase locked, at 200 us. -/
def lockedSt : State := { atTime onSt 200000 with tb := { onSt.tb with locked := true, count := 200000 } }

theorem test_pace_meets :
    (lockedSt.tb.locked = true ∧ lockedSt.pace.lastSample ≠ some (now lockedSt / 100000 * 100000))
    ∧ (∀ b ∈ [false, true],
      let m : PaceSample := ⟨100000, 1, 1, false, false, if b then 800 else 1000, 1000, 1000, 1000, false, false⟩
      let s := { lockedSt with pace := { lockedSt.pace with sample := some m, published := true, record := BitVec.ofNat 64 (900 * 2 ^ 52) } }
      s.pace.sample = some m ∧ m.instant + 2000 ≤ now s
      ∧ (s.pace.published && decide (min m.floor0 m.floor1 + 3 < paceFloor s)) = b)
    ∧ onSt.rst.porAt.isSome = true := ⟨by decide +kernel, by decide +kernel, by decide +kernel⟩

theorem test_timebase_meets :
    (lockedSt.tb.lastSync + 1000 ≤ now lockedSt ∧ lockedSt.tb.root = false)
    ∧ ((seeRoot lockedSt 5).tb.rootSeen = some 5
      ∧ (seeRoot { lockedSt with tb := { lockedSt.tb with rootSeen := some 3 } } 5).tb.rootSeen = some 3)
    ∧ (let s := { lockedSt with tb := { lockedSt.tb with count := 10000000 } };
      s.tb.locked = true ∧ s.tb.root = false ∧ s.tb.lastValid + 10000000 ≤ now s)
    ∧ (let s := { lockedSt with tb := { lockedSt.tb with root := true } };
      s.tb.locked = true ∧ s.tb.root = true ∧ s.tb.serving = false ∧ s.tb.probe = none)
    ∧ (∀ best ∈ [0, 2 ^ 40], let s := { lockedSt with tb := { lockedSt.tb with root := true, count := 10000000, probe := some (0, best) } }
      s.tb.locked = true ∧ s.tb.root = true ∧ s.tb.probe = some (0, best) ∧ 0 + 10000000 ≤ now s) :=
  ⟨by decide +kernel, by decide +kernel, by decide +kernel, by decide +kernel, by decide +kernel⟩

/-! ### Frames -/

/-- Frame header: type, channel, plain key, source 5, this device, no lease. -/
def fhOf (ty vc : Nat) (m : Bool) : BitVec 256 :=
  BitVec.ofNat 256 (ty * 2 ^ 252 + vc * 2 ^ 250 + (if m then 2 ^ 248 else 0) + 5 * 2 ^ 224 + selfId State.reset * 2 ^ 208
    + 0x800000000 * 2 ^ 64)
def frameOf (b : FrameBody) (m : Bool) : FrameIn := ⟨0, fhOf (bodyType b).1 (bodyType b).2 m, b, true⟩

/-- A lease with a sealed link to device 5, port 0 up, and a region that grants HBM's first 64 KiB. -/
def linkOf : LinkSt := ⟨5, 0, some 0, none, .init, .init, 0, 0, true, 0, 0, 0, [], 0, [], 0, 0, none⟩
def linkSt : State :=
  { onSt with
    lease := { onSt.lease with openL := true, fabSecret := some 1, mirror := true, mirSecret := some 2 }
    sec := { onSt.sec with plain := some 3 }
    fab := { onSt.fab with links := [linkOf] }
    ports := onSt.ports.set 0 { onSt.ports[0] with phase := .up }
    xl := { onSt.xl with regions := [(0, BitVec.ofNat 256 (2 ^ 239 + 2 ^ 238 + 2 ^ 237 + 2 ^ 236 + 0x800000000 * 2 ^ 144 + 65536 * 2 ^ 96))] } }

/-- The state in which a frame acts, and whether something holds of it. -/
def taken (s : State) (f : FrameIn) (p : State → Bool) : Bool :=
  !frozen s && match recvFrame s f with
    | .ok t => p t
    | .drop _ => false
def isOk : Served → Bool
  | .ok _ _ => true
  | _ => false
def isErr : Served → Bool
  | .err _ _ => true
  | _ => false
def isAns : CollAns → Bool
  | .ans _ _ => true
  | _ => false

theorem test_requests_are_taken :
    (taken linkSt (frameOf (.read 64) false) fun t => isOk (serveRead t false (fpaLocal (frameOf (.read 64) false)) 64 0)) = true
    ∧ (taken linkSt (frameOf (.read 65537) false) fun t => isErr (serveRead t false (fpaLocal (frameOf (.read 65537) false)) 65537 0)) = true
    ∧ (let f := frameOf (.write [1, 2]) false;
      (taken linkSt f fun t => isOk (serveWrite t false (fpaLocal f) [1, 2] 0)) = true
      ∧ (taken { linkSt with xl := onSt.xl } f fun t => isErr (serveWrite t false (fpaLocal f) [1, 2] 0)) = true)
    ∧ (let f := frameOf (.flagAdd 1) false;
      (taken linkSt f fun t => isOk (serveFlag t false (fpaLocal f) 1 0)) = true
      ∧ (taken { linkSt with xl := onSt.xl } f fun t => isErr (serveFlag t false (fpaLocal f) 1 0)) = true) :=
  ⟨by decide +kernel, by decide +kernel, by decide +kernel, by decide +kernel⟩

/-- An instance of an ALL_REDUCE of group 0, begun, all its data moved. -/
def instOf (n : Nat) : CollInst := ⟨1, 1, BitVec.ofNat 512 n, none, none, true, [], [], [], [], 0, 0⟩
def collSt (n : Nat) : State :=
  { linkSt with
    groups := { linkSt.groups with tab := [(0, some ⟨[.unit .device], none, false, [1]⟩)] }
    fab := { linkSt.fab with insts := [instOf n], slots := [(63, some (BitVec.ofNat 512 n, 0))] } }

theorem test_answers_and_collective_frames_are_taken :
    (∀ b ∈ [FrameBody.readData [1], .ack, .nack 5], (taken linkSt (frameOf b false) fun t => (findReq t (frameOf b false)).isNone) = true
      ∧ ∀ k ∈ [1, 2], (taken { linkSt with fab := { linkSt.fab with reqs := [⟨0, .dma 0 0, k, 5, 0, 1, 0⟩] } } (frameOf b false)
        fun t => (findReq t (frameOf b false)).isSome) = true)
    ∧ (taken linkSt (frameOf (.collReady 1 1 0) false) fun t => isAns (takeReady t 5 1 1 0)) = true
    ∧ (taken (collSt (collBits 1 1 63)) (frameOf (.collData 1 1 false 0 0 0 []) false)
      fun t => isAns (takeData t false 1 1 false 0 0 0 [])) = true :=
  ⟨by decide +kernel, by decide +kernel, by decide +kernel⟩

theorem test_other_frames_are_taken :
    (taken linkSt (frameOf (.mgmt 7 [0]) false) fun t => (takeMessage t 5 0 7 [0]).isSome) = true
    ∧ (taken linkSt (frameOf (.mgmt 15 [0, 0, 0]) false) fun t => (takeMessage t 5 0 15 [0, 0, 0]).isNone) = true
    ∧ (∀ r ∈ [false, true], (taken { linkSt with tb := { linkSt.tb with root := r, serving := r, aligned := !r } } (frameOf (.time 0 0 false) true)
      fun t => (t.tb.root && t.tb.serving) || (!t.tb.root && t.tb.aligned)) = true)
    ∧ (taken { linkSt with tb := { linkSt.tb with everAligned := true } } (frameOf (.time 1 0 false) true) fun t => t.tb.everAligned) = true
    ∧ (taken { linkSt with tb := { linkSt.tb with probe := some (0, 0) } } (frameOf (.time 2 0 false) true) fun t => t.tb.probe.isSome) = true
    ∧ (taken linkSt (frameOf (.time 3 0 true) true) fun _ => true) = true
    ∧ (taken { linkSt with fab := { linkSt.fab with ident := BitVec.ofNat 512 (2 ^ 489) } } (frameOf (.digest 1 1 0) true)
      fun t => (mirrorKey t).isSome) = true
    ∧ (taken linkSt (frameOf (.keyx 0 0 false) true) fun t => leaseLive t && t.lease.fabSecret.isSome) = true :=
  ⟨by decide +kernel, by decide +kernel, by decide +kernel, by decide +kernel, by decide +kernel, by decide +kernel, by decide +kernel, by decide +kernel⟩

/-! ### Links, collectives, ports, the sideband -/

theorem test_links_meet :
    (∀ x ∈ [(2 ^ 48, 0), (0, 3600000000000)],
      let l := { linkOf with sendCtr := x.1 }
      let s := atTime { linkSt with fab := { linkSt.fab with links := [l] } } (BitVec.ofNat 64 x.2)
      getLink s 5 = some l ∧ l.confirmed = true ∧ l.rekeyAt = none ∧ (2 ^ 48 ≤ l.sendCtr ∨ l.setAt + 3600000000000 ≤ now s))
    ∧ (let l := { linkOf with rekeyAt := some 0 }
      let s := atTime { linkSt with fab := { linkSt.fab with links := [l] } } 10000000000
      getLink s 5 = some l ∧ l.rekeyAt = some 0 ∧ 0 + 10000000000 ≤ now s)
    ∧ (let l := { linkOf with sendCtr := 2 ^ 64 - 1 };
      getLink { linkSt with fab := { linkSt.fab with links := [l] } } 5 = some l ∧ 2 ^ 64 - 1 ≤ l.sendCtr)
    ∧ (let e : DigestEnt := ⟨1, 1, 0, 0, 0⟩
      let s := atTime { linkSt with fab := { linkSt.fab with digLocal := [e] } } 1000000000
      (s.fab.digLocal.find? fun e => e.qpn = 1 && e.seqno = 1) = some e ∧ e.at_ + 1000000000 ≤ now s) :=
  ⟨by decide +kernel, by decide +kernel, by decide +kernel, by decide +kernel⟩

theorem test_collectives_meet :
    let n := collBits 1 1 63
    let d := BitVec.ofNat 512 n
    let s := writeNat (collSt n) (coTrig d) 8 (coTrigInc d)
    frozen s = false ∧ smapGet none s.fab.slots 63 = some (d, 0) ∧ provBlocks s [⟨coTrig d, 8⟩] [] = false
    ∧ anyPoison s (coTrig d) 8 = false ∧ (0 + 1) * coTrigInc d ≤ readNat s (coTrig d) 8
    ∧ findInst (collPump s) 1 1 = some (instOf n) ∧ (instOf n).begun = true ∧ (instOf n).due = 0 ∧ (instOf n).acksOut = 0
    ∧ (instOf n).out = [] := by decide +kernel

theorem test_ports_meet : ∀ i ∈ [0, 31], let p := Fin.ofNat 32 i
    ((onSt.ports[p]).phase = .down ∧ (onSt.ports[p]).lost = false ∧ onSt.rst.porAt.isSome = true)
    ∧ (modPort onSt p fun x => { x with phase := .training }).ports[p].phase = .training
    ∧ portUp (modPort onSt p fun x => { x with phase := .up2 }) p = true
    ∧ (let x := (modPort onSt p fun x => { x with lost := true }).ports[p];
      x.phase = .down ∧ x.lost = true ∧ x.lastRetrain = none)
    ∧ (let s := modPort onSt p fun x => { x with phase := .up, replayBuf := [newFrame onSt 5 0 0 0 .ack] };
      (s.ports[p]).replayBuf[0]? = some (newFrame onSt 5 0 0 0 .ack) ∧ portUp s p = true ∧ s.rst.tripped = false)
    ∧ leaseLive linkSt = true := by decide +kernel

/-- The sideband ring open, its frames taken in. -/
def sbSt : State := ready { lockedSt with sb := { onSt.sb with bypass := false, portUp := true } } (.mgmt 0)
def sbMsg (kind dpos n : Nat) : SbIn := sbFrame kind 0 dpos (List.replicate n 1)
def sbAt (s : State) (f : SbIn) : State := { s with sb := { s.sb with lastIn := now s + sbTime f } }

theorem test_sideband_meets :
    (sbLive sbSt = true ∧ sbPos sbSt = 0 ∧ sbSt.tb.locked = true ∧ sbSt.sb.nextMark ≤ now sbSt)
    ∧ (sbTaken 1 (sbMsg 1 0 12) = true ∧ (sbMsg 1 0 12).payload.length = 12 ∧ sbTaken 1 (sbMsg 1 0 11) = true
      ∧ (sbMsg 1 0 11).payload.length ≠ 12 ∧ onSt.sb.bypass = true)
    ∧ (∀ b ∈ [false, true], let f := sbMsg 2 0 2
      let s := { sbSt with stopArm := if b then some (0x101, 2 ^ 40) else none, lease := { sbSt.lease with scrubbed := true } }
      let t := sbForward (sbAt s f) f f.payload
      sbTaken 2 f = true ∧ t.sec.halted = false
      ∧ (f.payload.length = 2 && armed t (fromLe f.payload) && starOpen t) = b)
    ∧ (∀ d ∈ [0, 0xFF], let f := sbMsg 3 d 64
      let t := sbForward (sbAt sbSt f) f f.payload
      sbTaken 3 f = true ∧ (sbBlocks f.payload).length = 1 ∧ (f.dpos = sbPos t ∨ f.dpos = 0xFF) ∧ f.payload.length % 64 = 0
      ∧ mgmtReady t = true)
    ∧ sbTaken 4 (sbMsg 4 0 32) = true :=
  ⟨by decide +kernel, by decide +kernel, by decide +kernel, by decide +kernel, by decide +kernel⟩

/-! ### Faults, doze, power -/

theorem test_faults_meet :
    (now lockedSt / 1000000 * 1000000 = 0 ∧ now { lockedSt with tb := { lockedSt.tb with count := 1000000 } } / 1000000 * 1000000
      ≠ (lockedSt.faults[1]).window)
    ∧ (∀ a ∈ [0x800000000, 0x100000000, 0x200000000 + 0x4FFFC0], ∀ errs ∈ [[], [1], [2], [83], [2, 3], [2, 3, 4, 10]],
      let s := setEcc onSt (lineOf a) ⟨errs, false, false, 0, []⟩
      let t := if isHbm (lineOf a * 64) then touchAddr s (lineOf a * 64) else s
      s.rst.porAt.isSome = true ∧ (placeOf (lineOf a * 64)).isSome = true ∧ hbmBusy s = false ∧ stackOff s (hbmChannel (lineOf a * 64)) = false
      ∧ hbmClearing s = false ∧ errsBad (lineOf a) errs = (errs.contains 1 || errs.length == 4)
      ∧ poisonSet t (lineOf a) = false ∧ (eccOf t (lineOf a)).errs = errs ∧ poisonSet (setPoison s (lineOf a) true) (lineOf a) = true)
    ∧ placeUnit (lineOf 0x800000000 * 64) = .channel 0 := ⟨by decide +kernel, by decide +kernel, by decide +kernel⟩

/-- A domain off, and waking since 0. -/
def dozed (i : Nat) (w : Option Nat) : State := { onSt with doze := vset onSt.doze i { onSt.doze[0] with off := true, wakeAt := w } }

theorem test_doze_meets :
    (∀ i ∈ [0, 255], let s := atTime { onSt with limits := { onSt.limits with cdoze := 1 } } 1000
      s.rst.porAt.isSome = true ∧ (s.doze[Fin.ofNat 256 i]).off = false ∧ dozeDue s (Fin.ofNat 256 i) = true)
    ∧ (∀ i ∈ [0, 191, 192, 216, 255], ((dozed i none).doze[Fin.ofNat 256 i]).off = true ∧ ((dozed i none).doze[Fin.ofNat 256 i]).wakeAt = none
      ∧ ((dozed i (some 0)).doze[Fin.ofNat 256 i]).wakeAt = some 0)
    ∧ (∀ i ∈ [0, 191, 192, 216], wakeReady (dozed i (some 0)) (Fin.ofNat 256 i) = true)
    ∧ wakeReady (ready (modPort (dozed 255 (some 0)) 31 fun x => { x with phase := .up }) (.port 31)) 255 = true :=
  ⟨by decide +kernel, by decide +kernel, by decide +kernel, by decide +kernel⟩

theorem test_power_meets : State.reset.rst.porAt = none ∧ onSt.rst.porAt.isSome = true
    ∧ (∀ b ∈ [false, true], ({ onSt with sec := { onSt.sec with fwOk := b } } : State).sec.fwOk = b) :=
  ⟨by decide +kernel, by decide +kernel, by decide +kernel⟩

/-! ### Lease closing, secrets, sessions -/

def closeSt (p : ClosePhase) (verify : Bool) : State :=
  atTime { onSt with lease := { onSt.lease with closing := some p, verify := verify } } 5

theorem test_closing_meets :
    (∀ p ∈ [ClosePhase.drain 5, .hwScrub 5, .askoc 5], (closeSt p false).lease.closing = some p ∧ 5 ≤ now (closeSt p false))
    ∧ (closeSt (.verify 5) true).lease.closing = some (.verify 5) := ⟨by decide +kernel, by decide +kernel⟩

theorem clearHbm_verify (s : State) : ((List.range 8).foldl (fun s i => touchDoze s (216 + i)) (clearHbm s)).lease.verify = s.lease.verify := by
  have h : ∀ (xs : List Nat) (t : State), (xs.foldl (fun s i => touchDoze s (216 + i)) t).lease = t.lease := by
    intro xs
    induction xs with
    | nil => intro t; rfl
    | cons x xs ih => intro t; exact (ih _).trans rfl
  rw [h]
  rfl

theorem test_hbm_clear_meets : ∀ b : Bool, (closeSt (.hbmClear 5) b).lease.closing = some (.hbmClear 5)
    ∧ ((List.range 8).foldl (fun s i => touchDoze s (216 + i)) (clearHbm (closeSt (.hbmClear 5) b))).lease.verify = b :=
  fun _ => ⟨rfl, clearHbm_verify _⟩

/-- A message of session 7 and of a kind, AUTHSEQ 1, for this device and its lease. -/
def vangaerMsg (kind : Nat) : VangaerIn :=
  ⟨7, leBytes 24 kind ++ leBytes 8 1 ++ List.replicate (if kind = 3 then 96 else 32) 0, 0⟩
def sessionSt (lease : Bool) (slots : Nat) : State :=
  { onSt with
    sec := { onSt.sec with sessions := [7], instSlots := slots }
    lease := { onSt.lease with openL := lease, mirror := true } }

theorem test_secrets_meet :
    (∀ k ∈ [1, 2], let s := sessionSt true 0
      serialOk s (vangaerMsg k) = true ∧ s.sec.sessions.contains (vangaerMsg k).session = true ∧ leaseLive s = true
      ∧ vgForm (vangaerMsg k) k = true ∧ vgForm (vangaerMsg k) (3 - k) = false
      ∧ vgLease (vangaerMsg k) = s.lease.id.toNat ∧ s.lease.fabSecret = none ∧ s.lease.mirSecret = none ∧ s.lease.mirror = true)
    ∧ (∀ n ∈ [0, 3, 4], ∀ k ∈ [3, 4], let s := sessionSt false n
      serialOk s (vangaerMsg k) = true ∧ s.sec.sessions.contains (vangaerMsg k).session = true ∧ s.lease.openL = false
      ∧ vgForm (vangaerMsg k) k = true ∧ vgForm (vangaerMsg k) (7 - k) = false
      ∧ s.lease.closing = none ∧ s.sec.authInst < vgAuthseq (vangaerMsg k) ∧ s.sec.instSlots = n) := ⟨by decide +kernel, by decide +kernel⟩

theorem test_installer_key_holds : let s := sessionSt false 3
    let s := { s with sec := { s.sec with instHash := Config.sha384 (leBytes 96 s.sec.instKey.toNat) } }
    installerKeyOk s = true ∧ s.sec.instSlots < 4 := ⟨by simp [installerKeyOk, sessionSt], by decide +kernel⟩

/-- The session with a key on stream 3, and a TDI in a state. -/
def streamSt (tdi : Tdi) : State :=
  let s := sessionSt true 0
  { s with
    sec := { s.sec with streams := vset s.sec.streams 3 ⟨true, 0, some 1, some 2⟩ }
    host := { s.host with tdi := tdi, nonce := some 9, bound := some (3, 7) } }

theorem test_sessions_meet :
    isReady (getUnit (ready onSt .vangaer) .vangaer).own = true
    ∧ (onSt.sec.sessions.contains 7 = false ∧ onSt.sec.sessions.length < 4)
    ∧ (∀ x ∈ [(4096, 0), (1, 3600000000000)],
      let s := atTime { onSt with audit := { onSt.audit with sinceCkpt := x.1 } } (BitVec.ofNat 64 x.2)
      4096 ≤ s.audit.sinceCkpt ∨ (0 < s.audit.sinceCkpt ∧ s.audit.ckptAt + 3600000000000 ≤ now s))
    ∧ (let s := streamSt .unlocked
      let x := vget s.sec.streams .init 3
      s.sec.sessions.contains 7 = true ∧ (∀ k ∈ [0, 1], (if k = 0 then x.key0 else if k = 1 then x.key1 else none).isSome = true)
      ∧ s.host.tdi = .unlocked ∧ leaseLive s = true ∧ x.secure = true ∧ tenantPairs s = [] ∧ s.host.wasRun = false)
    ∧ (let s := streamSt .locked;
      s.host.tdi = .locked ∧ s.host.nonce = some 9 ∧ s.host.bound.map (·.2) = some 7 ∧ s.host.bound = some (3, 7))
    ∧ (∀ e ∈ [(⟨0, 3⟩ : TdiErrorIn), ⟨1, 3⟩, ⟨2, 7⟩], (if e.cause = 2 then 7 else 3) = e.subject)
    ∧ (∀ e ∈ [(⟨1, 2⟩ : TdiErrorIn), ⟨2, 3⟩], (if e.cause = 2 then 7 else 3) ≠ e.subject)
    ∧ (let s := atTime { onSt with stopArm := some (1, 5) } 5;
      s.stopArm = some (1, 5) ∧ 5 ≤ now s) :=
  ⟨by decide +kernel, by decide +kernel, by decide +kernel, by decide +kernel, by decide +kernel, by decide +kernel, by decide +kernel, by decide +kernel⟩

/-! ### The host: resets, memory, registers, doorbells -/

def hostSt : State := { onSt with host := { onSt.host with ready := true, linkUp := true, perst := false } }
def tlp (bar off len : Nat) (write : Bool) (v : Nat) : TlpIn := ⟨false, bar, off, len, write, leBytes len v, none, false⟩

theorem test_host_resets_meet :
    hostSt.host.ready = true ∧ hostSt.host.linkUp = true ∧ hostSt.host.perst = false ∧ hostSt.rst.porAt.isSome = true
    ∧ ({ hostSt with host := { hostSt.host with perst := true } } : State).host.perst = true :=
  ⟨by decide +kernel, by decide +kernel, by decide +kernel, by decide +kernel, by decide +kernel⟩

theorem test_device_memory_meets :
    (∀ w ∈ [false, true], let t := tlp 2 0 8 w 5
      let s := ready hostSt (.channel (fin 256 (hbmChannel 0x800000000)))
      access2 s t = .admitted ∧ rangeResetting s (s.host.bar2.toNat + t.off) t.len = false ∧ t.bar = 2 ∧ t.write = w
      ∧ s.host.parkedTlp = [] ∧ rangeOff s (s.host.bar2.toNat + t.off) t.len = false
      ∧ access2 { s with host := { s.host with parkedTlp := [t] } } t = .admitted)
    ∧ (hostSt.host.linkUp = true ∧ hostSt.host.ready = true
      ∧ { hostSt.host with ready := false }.linkUp = true)
    ∧ (let s := { hostSt with lease := { hostSt.lease with openL := true } };
      access2 s (tlp 2 0 8 true 5) = .refused ∧ access0 s (tlp 0 0x10140 8 true 5) = .refused) := ⟨by decide +kernel, by decide +kernel, by decide +kernel⟩

/-- MQ_CTL and a ring's CTL with smallest rings, enabled. -/
def mqBits (sq : Nat) : Nat := 2 ^ 63 + sq * 2 ^ 57 + 7 * 2 ^ 53
def mqOn : State := { setMqCtl hostSt (2 ^ 63 + 2 ^ 62) with cmd := { onSt.cmd with qps := [(0, some (pairOf 0 .operator))] } }
def ringOn (lease : Bool) : State :=
  setRing { hostSt with lease := { hostSt.lease with openL := lease } } lease { ringOf hostSt lease with ctl := BitVec.ofNat 64 (mqBits 7 + 2 ^ 62) }

theorem test_registers_meet :
    (∀ n ∈ [4, 8], ∀ a ∈ [0x20, 0x100, 0x108, 0x140, 0x10080, 0x10040, 0x10138, 0x20000, 0x27FF8, 0x40, 0x88, 0x100D0],
      access0 hostSt (tlp 0 a n true 5) = .admitted ∧ regOf (tlp 0 a n true 5) = a ∧ regOf (tlp 0 (a + 4) 4 true 5) = a
      ∧ access0 hostSt (tlp 0 (a + 4) 4 true 5) = .admitted)
    ∧ (mqActive hostSt = false ∧ ringActive hostSt.host.mer = false ∧ hostSt.lease.openL = false)
    ∧ (∀ a ∈ [0x28, 0x80, 0x100, 0x110, 0x10080, 0x40, 0x48, 0x78], access0 hostSt (tlp 0 a 8 false 0) = .admitted
      ∧ access0 hostSt (tlp 0 a 4 false 0) = .admitted)
    ∧ (let s := { hostSt with host := { hostSt.host with snapRdy := some 5 } };
      access0 s (tlp 0 0x78 8 false 0) = .admitted ∧ s.host.snapRdy = some 5)
    ∧ (∀ sq ∈ [6, 7], let t := tlp 0 0x110 8 true (mqBits sq)
      access0 hostSt t = .admitted ∧ regOf t = 0x110 ∧ hostSt.host.mqCtl.toNat.testBit 62 = false ∧ (fromLe t.data).testBit 63 = true
      ∧ (7 ≤ bits (fromLe t.data) 60 57 ↔ sq = 7) ∧ bits (fromLe t.data) 56 53 = 7 ∧ bits (fromLe t.data) 51 32 = 0)
    ∧ (∀ cs ∈ [[], [{ cmdOf 0x0301 0 (.unit .device) [] with origin := .qp 0 }]],
      let s := { mqOn with cmd := { mqOn.cmd with inflight := cs } }
      let t := tlp 0 0x110 8 true 0
      access0 s t = .admitted ∧ s.host.mqCtl.toNat.testBit 62 = true ∧ s.host.mqCtl.toNat.testBit 63 = true
      ∧ (fromLe t.data).testBit 63 = false ∧ (getQp s 0).isSome = true
      ∧ (s.cmd.inflight.any fun c => c.origin = .qp 0 && !([0].contains c.id)) = !cs.isEmpty) :=
  ⟨by decide +kernel, by decide +kernel, by decide +kernel, by decide +kernel, by decide +kernel, by decide +kernel⟩

theorem test_rings_meet :
    (∀ size ∈ [6, 7], let t := tlp 0 0x148 8 true (2 ^ 63 + size * 2 ^ 57)
      let v := fromLe t.data
      access0 hostSt t = .admitted ∧ regOf t = 0x148 ∧ hostSt.host.mer.ctl.toNat.testBit 62 = false ∧ v.testBit 63 = true
      ∧ (7 ≤ bits v 60 57 ↔ size = 7) ∧ bits v 55 36 = 0)
    ∧ (let t := tlp 0 0x148 8 true 0;
      access0 (ringOn false) t = .admitted ∧ regOf t = 0x148 ∧ (ringOn false).host.mer.ctl.toNat.testBit 62 = true
      ∧ (fromLe t.data).testBit 63 = false)
    ∧ (∀ full ∈ [false, true], ∀ v ∈ [0, 1, 128], let t := tlp 0 0x150 4 true v
      let s := setRing (ringOn false) false { ringOf (ringOn false) false with full := full }
      let r := ringOf s false
      access0 s t = .admitted ∧ t.off = 0x150 ∧ r.ctl.toNat.testBit 62 = true ∧ fromLe t.data % 65536 = v
      ∧ (v < 2 ^ bits r.ctl.toNat 60 57 ∧ (r.full = true ∨ (v + 2 ^ bits r.ctl.toNat 60 57 - r.head) % 2 ^ bits r.ctl.toNat 60 57
        ≤ (r.tail + 2 ^ bits r.ctl.toNat 60 57 - r.head) % 2 ^ bits r.ctl.toNat 60 57) ↔ v = 0 ∨ (full = true ∧ v = 1)))
    ∧ (let t := tlp 0 0x150 4 true 0;
      access0 hostSt t = .admitted ∧ (ringOf hostSt false).ctl.toNat.testBit 62 = false) :=
  ⟨by decide +kernel, by decide +kernel, by decide +kernel, by decide +kernel⟩

/-- A lease whose TDI runs on stream 3: a trusted request is admitted to its registers. -/
def runSt : State :=
  let s := ringOn true
  { s with host := { s.host with tdi := .run, bound := some (3, 7) } }
def ttlp (off len v : Nat) : TlpIn := ⟨false, 0, off, len, true, leBytes len v, some 3, true⟩

theorem test_lease_registers_meet :
    (let t := ttlp 0x10050 4 0
      let r := ringOf runSt true
      access0 runSt t = .admitted ∧ r.ctl.toNat.testBit 62 = true ∧ runSt.lease.openL = true ∧ runSt.host.tdi = .run
      ∧ headOk (ringSize r) r.head r.tail r.full 0 = true)
    ∧ (let s := { runSt with host := { runSt.host with ler := hostSt.host.ler } };
      access0 s (ttlp 0x10040 8 4096) = .admitted ∧ s.lease.openL = true ∧ ringActive s.host.ler = false
      ∧ access0 s (ttlp 0x10048 8 (2 ^ 63 + 7 * 2 ^ 57)) = .admitted)
    ∧ (let t := ttlp 0x10048 8 0;
      access0 runSt t = .admitted ∧ runSt.host.ler.ctl.toNat.testBit 62 = true ∧ (fromLe t.data).testBit 63 = false)
    ∧ (∀ k ∈ [0, 7], access0 runSt (ttlp (0x10100 + 8 * k) 8 5) = .admitted ∧ runSt.host.bootCtl.toNat.testBit 63 = false)
    ∧ (∀ qps ∈ [[], [(1, some qp0)], [(2, some { qp0 with role := .tenant })]], ∀ p ∈ [2 ^ 504, 2 ^ 504 + 7 * 2 ^ 500 + 7 * 2 ^ 496],
      let s := { runSt with cmd := { runSt.cmd with qps := qps }, host := { runSt.host with bootRec := BitVec.ofNat 512 p } }
      let t := ttlp 0x10140 8 (2 ^ 63)
      access0 s t = .admitted ∧ s.lease.openL = true ∧ (fromLe t.data).testBit 63 = true
      ∧ (getQp s (bits s.host.bootRec.toNat 511 504)).isSome = (qps == [(1, some qp0)]) ∧ tenantPairs s = qps.map (·.1)
      ∧ auditRoom s 1 = true ∧ (checkQueueRecord s.host.bootRec.toNat).isEmpty = decide (p ≠ 2 ^ 504)) :=
  ⟨by decide +kernel, by decide +kernel, by decide +kernel, by decide +kernel, by decide +kernel⟩

/-- Pair 255 and its doorbells. -/
def pairSt : State := setQp hostSt 255 (some qp0)

theorem test_doorbells_meet :
    (∀ v ∈ [0, 2 ^ qp0.sqlog - 1, 2 ^ qp0.sqlog], let t := tlp 0 0x1FF000 4 true v
      access0 pairSt t = .admitted ∧ (t.off - 0x100000) / 0x1000 = 255 ∧ t.off % 0x1000 = 0 ∧ fromLe t.data % 65536 = v
      ∧ getQp pairSt 255 = some qp0)
    ∧ (∀ full ∈ [false, true], ∀ v ∈ [0, 1, 2 ^ qp0.cqlog], let t := tlp 0 0x1FF008 4 true v
      let s := setQp hostSt 255 (some { qp0 with cqFull := full })
      access0 s t = .admitted ∧ t.off % 0x1000 = 8 ∧ fromLe t.data % 65536 = v
      ∧ headOk (2 ^ qp0.cqlog) qp0.cqHead qp0.cqTail full v = decide (v = 0 ∨ (full = true ∧ v = 1))) := ⟨by decide +kernel, by decide +kernel⟩

/-! ### Whole-machine statements -/

/-- The device after reset with one command in its queue. -/
def queued (i : Instr) : State := { State.reset with pending := [i] }

theorem reset_epochs (i : Instr) : EpochsOk (queued i) := by
  refine ⟨fun u => ?_, fun e h => by cases h⟩
  show (unitRec UnitTab.init u).epoch ≠ 0
  rw [unitRec_init]
  decide

theorem test_invariants_meet : ∀ i ∈ [Instr.mgmtReset 1, .porNDeassert ⟨0, true, true, true⟩, .pacePublish],
    memWf (queued i).mem = true ∧ EpochsOk (queued i) ∧ ArmOk (queued i) ∧ TimeFits (queued i)
    ∧ ((queued i).pending.head? = some i ∧ ∀ l, i ≠ .powerLoss l) := by
  intro i h
  have hm : memWf (queued i).mem = true := (by decide +kernel : memWf State.reset.mem = true)
  refine ⟨hm, reset_epochs i, fun _ => rfl, ?_, rfl, ?_⟩
  · simp only [List.mem_cons, List.not_mem_nil, or_false] at h
    rcases h with rfl | rfl | rfl <;> exact ⟨by decide +kernel, trivial⟩
  · simp only [List.mem_cons, List.not_mem_nil, or_false] at h
    rcases h with rfl | rfl | rfl <;> intro l <;> simp

theorem test_reset_is_quiet : (∀ c, (getCore State.reset c).matQ = [] ∧ (getCore State.reset c).vecQ = []) ∧ State.reset.fab.parked = []
    ∧ State.reset.host.parkedTlp = [] ∧ State.reset.fab.outbox = [] ∧ State.reset.cmd.inflight = [] ∧ State.reset.rst.bridgeDue = false
    ∧ State.reset.seq.planned = none ∧ nextTurn State.reset = none ∧ State.reset.ecc.lines = [] := by decide +kernel

theorem test_step_takes_the_front : (queued .pacePublish).pending = [.pacePublish] ∧ State.reset.pending = []
    ∧ storesToMemory (.add 0 (cw 0 0 0 0 0 0)) = false ∧ smapWf 1 State.reset.groups.epoch = true :=
  ⟨rfl, rfl, rfl, rfl⟩

/-- VST of the last 64 lanes that fit the scratchpad, of one lane; FLSET and FLADD reach the first word of the cluster store. -/
def vstW (nl : Nat) : CoreWord := cw 0 1 2 0 (vctl 1 0 nl) 0

theorem test_vector_stores_meet : ∀ x ∈ [(0, 0x4FFF00, 64), (1, 0x4FFFFC, 1), (64, 0x4FFF00, 64)],
    let s := coreStateX 0x51 (vstW x.1) 1 2 (BitVec.ofNat 64 x.2.1) 0
    Starts s 0 1 0x51 ⟨0, 31, 31, 0, 0x7FFF, immAll⟩ (vstW x.1) ∧ memWf s.mem = true
    ∧ coreRange 0 x.2.1 (x.2.2 * 4) = some (0x200000000 + x.2.1) ∧ ctlBits (vstW x.1) 3 0 = 1 ∧ rmFieldOk (ctlBits (vstW x.1) 6 4) = true
    ∧ ctlBits (vstW x.1) 14 7 = x.1 ∧ blocked s 0 [] [⟨0x200000000 + x.2.1, x.2.2 * 4⟩] = false :=
  fun x h => ⟨starts_of (by revert x; decide +kernel), by revert x; decide +kernel⟩

/-- VLD of all lanes, and of one element to every lane. -/
theorem test_vector_loads_meet : ∀ x ∈ [(0, 0x4FFF00, 64), (256, 0x4FFFFC, 1)],
    let w := cw 3 1 0 0 (vctl 1 0 x.1) 0
    let s := coreStateX 0x50 w 1 2 (BitVec.ofNat 64 x.2.1) 0
    Starts s 0 1 0x50 ⟨31, 31, 0, 0, 0xFFFF, immAll⟩ w ∧ ctlBit w 15 = decide (x.1 = 256) ∧ ctlBits w 3 0 = 1
    ∧ rmFieldOk (ctlBits w 6 4) = true ∧ ctlBits w 14 7 = 0
    ∧ coreRange 0 x.2.1 (x.2.2 * 4) = some (0x200000000 + x.2.1) ∧ blocked s 0 [⟨0x200000000 + x.2.1, x.2.2 * 4⟩] [] = false
    ∧ anyPoison s (0x200000000 + x.2.1) (x.2.2 * 4) = false :=
  fun x h => ⟨starts_of (by revert x; decide +kernel), by revert x; decide +kernel⟩

/-- VLD and VST past the scratchpad's end, and off their element's alignment. -/
theorem test_vector_address_faults_meet : ∀ a ∈ [0x4FFF04, 0x4FFF02, 0x500000],
    (let w := cw 3 1 0 0 (vctl 1 0 0) 0;
      Starts (coreStateX 0x50 w 1 2 (BitVec.ofNat 64 a) 0) 0 1 0x50 ⟨31, 31, 0, 0, 0xFFFF, immAll⟩ w)
    ∧ Starts (coreStateX 0x51 (vstW 0) 1 2 (BitVec.ofNat 64 a) 0) 0 1 0x51 ⟨0, 31, 31, 0, 0x7FFF, immAll⟩ (vstW 0)
    ∧ (a % 4 ≠ 0 ∨ coreRange 0 a 256 = none) :=
  fun a h => ⟨starts_of (by revert a; decide +kernel), starts_of (by revert a; decide +kernel), by revert a; decide +kernel⟩

theorem test_address_faults_meet :
    (∀ a ∈ [0x4FFFFC, 0x500000, 0x4FFFF9],
      issuesB (coreStateX 0x14 ldW 1 2 (BitVec.ofNat 64 a) 7) 0 0x14 ⟨31, 31, 0, 0, 7, immAll⟩ ldW = true
      ∧ issuesB (coreStateX 0x15 stW 1 2 (BitVec.ofNat 64 a) 7) 0 0x15 ⟨0, 31, 31, 0, 3, immAll⟩ stW = true
      ∧ (a % 8 ≠ 0 ∨ coreRange 0 a 8 = none))
    ∧ (∀ a ∈ [0x12800000, 0x10000004, 0x23000000],
      ((a % 8 ≠ 0 ∨ coreRange 0 a 8 = none) ∧ (a % 4 ≠ 0 ∨ coreRange 0 a 256 = none ∨ a = 0x10000004))
      ∧ ∀ o ∈ [0x20, 0x21, 0x22], ∀ w ∈ [flW 0 0 0],
        issuesB (onCore (coreState o w) fun x => setX x 1 (BitVec.ofNat 64 a)) 0 o
          (if o = 0x20 then ⟨0, 31, 31, 0, 0, immAll⟩ else if o = 0x21 then ⟨31, 31, 31, 31, 3, immAll⟩ else ⟨31, 31, 31, 0, 0, immAll⟩) w = true)
    ∧ (coreRange 0 (0x500000 - 8) 8 = some (scratchAt 0 + 0x4FFFF8) ∧ coreRange 191 0x127FFFF8 8 = some (clusterStoreAt 23 + 0x27FFFF8)
      ∧ coreRange 191 0x22FFFFF8 8 = some (dieStoreAt 1 + 0x2FFFFF8)) := ⟨by decide +kernel, by decide +kernel, by decide +kernel⟩

/-- What the core finds at its program counter. -/
def findsB (n : Nat) : Bool :=
  coreRuns (wordState n) 0 && match fetchWord (wordState n) 0 with | .word k => k == n | _ => false

/-- An unused field set, a reserved value, a valid word whose guard predicate p1 is off, a reserved opcode. -/
theorem test_encodings_meet :
    (let n := wordBits 0x01 (cw 1 2 3 4 0 0);
      findsB n = true ∧ (coreInstr 0 n).isSome = true ∧ ((coreInstr 0 n).map fun i => fieldsOk (fieldsUsed i) (coreWordOf n)) = some false)
    ∧ (let n := wordBits 0x10 (cw 1 2 3 0 12 0);
      findsB n = true ∧ ((coreInstr 0 n).map fun i => fieldsOk (fieldsUsed i) (coreWordOf n)) = some true
      ∧ (coreInstr 0 n).map valuesOk = some false)
    ∧ (∀ pneg ∈ [false, true], let n := wordBits 0x01 { cw 1 2 3 0 0 0 with pred := if pneg then 0 else 1, pneg := pneg }
      findsB n = true ∧ ((coreInstr 0 n).map fun i => fieldsOk (fieldsUsed i) (coreWordOf n)) = some true
      ∧ (coreInstr 0 n).map valuesOk = some true ∧ pr (getCore (wordState n) 0) (coreWordOf n).pred = (coreWordOf n).pneg)
    ∧ (findsB 0 = true ∧ coreInstr 0 0 = none ∧ (coreInstr 0 (wordBits 0x01 (cw 1 2 3 0 0 0))).isSome = true) :=
  ⟨by decide +kernel, by decide +kernel, by decide +kernel, by decide +kernel⟩

/-- One word of each kind of the frame statement. -/
theorem test_register_instructions_meet : ∀ x ∈ [(0x01, cw 1 2 3 0 0 0), (0x0A, cw 1 2 0 0 1 5), (0x10, cw 7 2 3 0 0 0), (0x11, cw 1 2 3 0 9 0),
      (0x18, cw 0 0 0 0 0 16), (0x19, cw 1 0 0 0 0 16), (0x1A, cw 0 1 0 0 0 16), (0x28, cw 1 2 3 0 (vctl 1 0 0) 0),
      (0x2F, cw 1 2 3 0 (vctl 1 0 0) 0), (0x30, cw 1 2 0 0 (vctl 1 0 2) 0), (0x52, cw 1 0 0 0 (vctl 1 0 0) 0), (0x5F, cw 1 2 0 0 (vctl 1 0 0) 0)],
    let n := wordBits x.1 x.2
    findsB n = true ∧ ((coreInstr 0 n).map fun i => fieldsOk (fieldsUsed i) (coreWordOf n) && valuesOk i) = some true
    ∧ n / 2 ^ 120 = x.1 ∧ (engQueue (getCore (wordState n) 0) 1).any (fun q => sharePipe q.opc x.1) = false
    ∧ blocked (wordState n) 0 [accRng 0] [] = false := by decide +kernel

/-! ### Words written out from the encoding of 08_core_programming.md: OPC, PNEG and PRED, RD, RS1, RS2, RS3, CTL, IMM -/

theorem test_words_decode :
    coreInstr 0 (0b00000001_0000_11111_00010_00000_00000 * 2 ^ 96 + 0b1 * 2 ^ 64 + 5) = some (.add 0 (cw 31 2 0 0 1 5))
    ∧ coreInstr 0 (0b00010101_1010_00000_00001_00010_00000 * 2 ^ 96 + 0b11 * 2 ^ 64 + 8)
      = some (.st 0 ⟨true, 2, 0, 1, 2, 0, 3, 8⟩)
    ∧ coreInstr 191 (0b00011010_0000_00000_11111_00000_00000 * 2 ^ 96) = some (.jr 191 (cw 0 31 0 0 0 0))
    ∧ coreInstr 0 (0b00100010_0000_00100_00001_00010_00000 * 2 ^ 96) = some (.fladd 0 (cw 4 1 2 0 0 0))
    ∧ coreInstr 0 (0b00100100_0000_00011_00101_00000_00000 * 2 ^ 96 + 0b10_000000000001 * 2 ^ 64) = some (.csrSet 0 (cw 3 5 0 0 0x2001 0))
    ∧ coreInstr 0 (0b00101011_0000_00001_00010_00011_00100 * 2 ^ 96 + 0b000_0001 * 2 ^ 64) = some (.ffma 0 (cw 1 2 3 4 1 0))
    ∧ coreInstr 0 (0b01000001_0000_00000_00001_00000_00000 * 2 ^ 96) = some (.chain 0 (cw 0 1 0 0 0 0))
    ∧ coreInstr 0 (0b01010011_0000_00001_00010_00011_00000 * 2 ^ 96 + 0b01000000_000_0100 * 2 ^ 64)
      = some (.vadd 0 (cw 1 2 3 0 0x2004 0)) := by decide +kernel

/-! ### One step each, with results worked out by hand from the operation -/

def after (r : Res) (p : State → Bool) : Bool := match r with
  | .next t => p t
  | _ => false

theorem test_add_wraps :
    after (exec (.add 0 (cw 3 1 2 0 0 0)) (coreStateX 0x01 (cw 3 1 2 0 0 0) 1 2 (-1) 2)) (fun t => xr (getCore t 0) 3 == 1) = true := by
  decide +kernel

theorem test_sra_copies_the_sign :
    after (exec (.sra 0 (cw 3 1 0 0 1 67)) (coreStateX 0x0A (cw 3 1 0 0 1 67) 1 2 (-16) 0)) (fun t => xr (getCore t 0) 3 == -2) = true := by
  decide +kernel

theorem test_ld_sign_extends :
    (let w := cw 3 1 0 0 4 0;
    after (exec (.ld 0 w) (writeNat (coreStateX 0x14 w 1 2 0x1000 0) 0x200001000 1 0x80)) fun t => xr (getCore t 0) 3 == -128) = true := by
  decide +kernel

theorem test_st_stores_low_bytes_little_endian :
    (let w := cw 0 1 2 0 1 0;
    after (exec (.st 0 w) (coreStateX 0x15 w 1 2 0x1000 0xABCD1234)) fun t =>
      readByte t 0x200001000 == 0x34 && readByte t 0x200001001 == 0x12 && readByte t 0x200001002 == 0) = true := by decide +kernel

theorem test_fladd_returns_the_old_value :
    (let w := flW 0 4 0;
    after (exec (.fladd 0 w) (writeNat (flS 0x22 w) 0x100000000 8 7)) fun t =>
      xr (getCore t 0) 4 == 7 && readNat t 0x100000000 8 == 12) = true := by decide +kernel

/-- 1.5 + 2.25 = 3.75 in F32. -/
theorem test_fadd_of_f32 :
    (let w := cw 3 1 2 0 (vctl 1 0 0) 0;
    after (exec (.fadd 0 w) (coreStateX 0x28 w 1 2 0x3FC00000 0x40100000)) fun t => xr (getCore t 0) 3 == 0x40700000) = true := by
  decide +kernel

/-- Lanes of I32 wrap and keep no carry. -/
theorem test_vadd_wraps_by_lane :
    (let w := cw 3 1 2 0 (vctl 4 0 2) 0;
    after (exec (.vadd 0 w) (onCore (coreState 0x53 w) fun x => setV (setV x 1 (2 ^ 32 + 0xFFFFFFFF)) 2 (2 ^ 33 + 1))) fun t =>
      elemAt 32 (vr (getCore t 0) 3) 0 == 0 && elemAt 32 (vr (getCore t 0) 3) 1 == 3) = true := by decide +kernel

/-! ### Commands that are none -/

theorem test_ill_formed_host_requests_are_refused :
    (Instr.bar2Read ⟨false, 1, 0, 8, false, [], none, false⟩).wellFormed = false
    ∧ (Instr.bar2Read ⟨false, 2, 2 ^ 36 - 4, 8, false, [], none, false⟩).wellFormed = false
    ∧ (Instr.registerWrite ⟨false, 0, 2 ^ 24 - 4, 8, true, List.replicate 8 0, none, false⟩).wellFormed = false
    ∧ (Instr.msixUnmask ⟨false, 6, 2, 4, true, List.replicate 4 0, none, false⟩).wellFormed = false
    ∧ (Instr.bar2Read ⟨false, 2, 0, 4097, false, [], none, false⟩).wellFormed = false
    ∧ (Instr.registerWrite ⟨false, 0, 0, 8, true, [1], none, false⟩).wellFormed = false
    ∧ (Instr.registerWrite (tlp 0 0x100 8 true 1)).wellFormed = true := by decide +kernel

theorem test_overlong_commands_are_refused (n : Nat) :
    (65535 < n → (Instr.sqTailDoorbell (tlp 0 0x100000 4 true 1) [⟨false, 0, List.replicate n 0, false⟩]).wellFormed = false)
    ∧ (65536 < n → (Instr.remoteCommand ⟨24575, 0, 0, .operator, 0, List.replicate n 0⟩).wellFormed = false) := by
  constructor <;> intro h
  · simp only [Instr.wellFormed, fetchOk, List.all_cons, List.length_replicate, decide_eq_false (Nat.not_le.mpr h), Bool.false_and,
      Bool.and_false]
  · simp only [Instr.wellFormed, remoteOk, List.length_replicate, decide_eq_false (Nat.not_le.mpr h), Bool.and_false]

theorem test_ill_formed_messages_are_refused :
    (Instr.remoteCommand ⟨24576, 0, 0, .operator, 0, []⟩).wellFormed = false
    ∧ (Instr.remoteCommand ⟨2 ^ 16, 0, 0, .operator, 0, []⟩).wellFormed = false
    ∧ (Instr.remoteCommand ⟨0, 0, 2 ^ 32, .operator, 0, []⟩).wellFormed = false
    ∧ (Instr.atomicDecision 24576 0 none 0).wellFormed = false
    ∧ (Instr.rekeyTrigger 24576).wellFormed = false
    ∧ (Instr.memberStateMessage (24576 * 2 ^ 48) 0 0 0).wellFormed = false
    ∧ (Instr.memberStateMessage 0 6 0 0).wellFormed = false
    ∧ (Instr.memberStateMessage 0 0 (2 ^ 64) 0).wellFormed = false
    ∧ (Instr.memberStateMessage 0 0 0 (2 ^ 16)).wellFormed = false
    ∧ (Instr.frameWrite (frameOf (.write (List.replicate 1025 0)) false)).wellFormed = false
    ∧ (∀ f ∈ [SbIn.mk 256 0 0 0 [] 0, ⟨1, 256, 0, 0, [], 0⟩, ⟨1, 0, 256, 0, [], 0⟩, ⟨1, 0, 0, 65536, [], 0⟩, ⟨1, 0, 0, 0, [], 2 ^ 32⟩],
      (Instr.sbMark f).wellFormed = false)
    ∧ (Instr.planReceive 0 (2 ^ 32) []).wellFormed = false ∧ (Instr.planReceive 0 0 [2 ^ 512]).wellFormed = false
    ∧ (Instr.i3cCommand []).wellFormed = false := by decide +kernel

theorem test_ill_formed_events_are_refused :
    (Instr.atsTranslationCompletion 0 0 ⟨0, 0, []⟩).wellFormed = false
    ∧ (Instr.atsTranslationCompletion 0 0 ⟨1, 2, [(0, true, true)]⟩).wellFormed = false
    ∧ (Instr.atsTranslationCompletion 0 0 ⟨2 ^ 52, 2 ^ 52, [(0, true, true)]⟩).wellFormed = false
    ∧ (Instr.prgResponse 0 0 16).wellFormed = false
    ∧ (Instr.atsInvalidateRequest 32 none 0 1).wellFormed = false ∧ (Instr.atsInvalidateRequest 0 (some (2 ^ 20)) 0 1).wellFormed = false
    ∧ (Instr.atsInvalidateRequest 0 none 0 0).wellFormed = false ∧ (Instr.atsInvalidateRequest 0 none (2 ^ 52) 1).wellFormed = false
    ∧ (Instr.invalidateCompletion 32).wellFormed = false ∧ (Instr.invalidateReadExpiry 32).wellFormed = false
    ∧ (∀ m ∈ [SampleIn.mk [] [1] 0 [1] [1], ⟨[1], [], 0, [1], [1]⟩, ⟨[1], [1], 0, [], [1]⟩, ⟨[1], [1], 0, [1], []⟩],
      (Instr.canarySample m).wellFormed = false)
    ∧ (∀ r ∈ [ReportIn.mk (2 ^ 32) 0 1 0 0 0, ⟨0, 2 ^ 64, 1, 0, 0, 0⟩, ⟨0, 0, 2 ^ 16, 0, 0, 0⟩, ⟨0, 0, 1, 2 ^ 16, 0, 0⟩],
      (Instr.faultReport r).wellFormed = false)
    ∧ (Instr.digestMissingTimeout 256 0).wellFormed = false ∧ (Instr.digestMissingTimeout 0 (2 ^ 32)).wellFormed = false
    ∧ (Instr.collectiveInstanceEnd (2 ^ 32) 0).wellFormed = false ∧ (Instr.scrubRead (2 ^ 48) .clean).wellFormed = false
    ∧ (Instr.hbmVerifyEnd [(256, 0)] []).wellFormed = false ∧ (Instr.hbmVerifyEnd [] [2 ^ 48]).wellFormed = false
    ∧ (Instr.fabricSecret ⟨7, [], 0⟩).wellFormed = false ∧ (Instr.plainSecret ⟨7, List.replicate 129 0, 0⟩).wellFormed = false
    ∧ (Instr.timeExchange 1 0 ⟨24576, 0⟩).wellFormed = false
    ∧ (Instr.getMeasurements 0 ⟨256, 0⟩).wellFormed = false ∧ (Instr.kSetGo 0 5 0).wellFormed = false ∧ (Instr.kSetGo 0 0 2).wellFormed = false
    ∧ (Instr.lockInterface 0 4).wellFormed = false ∧ (Instr.keyProg 0 5 ⟨0, 0⟩).wellFormed = false ∧ (Instr.keyProg 0 0 ⟨2, 0⟩).wellFormed = false
    ∧ (Instr.startInterface 0 (2 ^ 256)).wellFormed = false ∧ (Instr.tdiError ⟨3, 0⟩).wellFormed = false
    ∧ (Instr.linkDown 7 16).wellFormed = false ∧ (Instr.perstNDeassert 6 3).wellFormed = false ∧ (Instr.linkDown 0 1).wellFormed = false
    ∧ (Instr.memTestEnd 0 ⟨0, 2 ^ 64, 0⟩).wellFormed = false ∧ (Instr.memTestEnd 0 ⟨0, 0, 2 ^ 48⟩).wellFormed = false := by decide +kernel

end Sys2Proof.Tests
end

section
/-! SUPPORT. What reports change, what every command, event and step keeps, and from these the statements about epochs
(01_architecture.md R35 to R42). -/

namespace Sys2Proof.Machine

/-! ### Reports

An event or a message about a unit goes out through the host interface or into the fabric's outbox; the rest of the device is as it
was. -/

/-- `t` is `s` but for what has gone out, the host interface and the fabric interface. -/
def ReportsOnly (s t : State) : Prop := ∃ out host fab, t = { s with out := out, host := host, fab := fab }

namespace ReportsOnly

theorem refl (s : State) : ReportsOnly s s := ⟨s.out, s.host, s.fab, rfl⟩

theorem trans {a b c : State} (h : ReportsOnly a b) (k : ReportsOnly b c) : ReportsOnly a c := by
  obtain ⟨_, _, _, rfl⟩ := h
  obtain ⟨out, host, fab, rfl⟩ := k
  exact ⟨out, host, fab, rfl⟩

theorem units {s t : State} (h : ReportsOnly s t) : t.units = s.units := by
  obtain ⟨_, _, _, rfl⟩ := h
  rfl

theorem groups {s t : State} (h : ReportsOnly s t) : t.groups = s.groups := by
  obtain ⟨_, _, _, rfl⟩ := h
  rfl

theorem getUnit {s t : State} (h : ReportsOnly s t) (u : PUnit) : Machine.getUnit t u = Machine.getUnit s u :=
  congrArg (unitRec · u) h.units

theorem groupEpoch {s t : State} (h : ReportsOnly s t) (g : Nat) : Machine.groupEpoch t g = Machine.groupEpoch s g :=
  congrArg (fun x : GroupSt => smapGet 1 x.epoch g) h.groups

end ReportsOnly

theorem reportsOnly_emit (s : State) (e : OutEv) : ReportsOnly s (emit s e) := ⟨_, _, _, rfl⟩

theorem reportsOnly_sendMsg (s : State) (own : Bool) (peer kind : Nat) (args : List Nat) :
    ReportsOnly s (sendMsg s own peer kind args) := ⟨_, _, _, rfl⟩

theorem reportsOnly_ite {p : Prop} [Decidable p] {s a b : State} (h : ReportsOnly s a) (k : ReportsOnly s b) :
    ReportsOnly s (if p then a else b) := by
  split
  · exact h
  · exact k

theorem reportsOnly_setRing (s : State) (lease : Bool) (r : RingSt) : ReportsOnly s (setRing s lease r) := by
  cases lease <;> exact ⟨_, _, _, rfl⟩

theorem reportsOnly_msixSend (s : State) (vec : Nat) : ReportsOnly s (msixSend s vec) := by
  unfold msixSend
  split <;> exact ⟨_, _, _, rfl⟩

theorem reportsOnly_msixNotify (s : State) (vec : Nat) : ReportsOnly s (msixNotify s vec) := by
  unfold msixNotify
  exact reportsOnly_ite (.refl s) (reportsOnly_msixSend s vec)

theorem reportsOnly_ringPush (s : State) (lease : Bool) (e : Event) : ReportsOnly s (ringPush s lease e) := by
  unfold ringPush
  dsimp only
  refine reportsOnly_ite ?_ ?_
  · exact (reportsOnly_emit ..).trans (reportsOnly_setRing ..)
  · exact ((reportsOnly_emit ..).trans (reportsOnly_setRing ..)).trans (reportsOnly_msixNotify ..)

theorem reportsOnly_ringLose (s : State) (lease : Bool) : ReportsOnly s (ringLose s lease) := reportsOnly_setRing ..

theorem reportsOnly_ringReport (s : State) (lease : Bool) : ReportsOnly s (ringReport s lease) := by
  unfold ringReport
  exact reportsOnly_ite (.refl s) ((reportsOnly_setRing ..).trans (reportsOnly_ringPush ..))

theorem reportsOnly_ringEvent (s : State) (lease : Bool) (e : Event) : ReportsOnly s (ringEvent s lease e) := by
  unfold ringEvent
  refine reportsOnly_ite (reportsOnly_ringLose s lease) (reportsOnly_ite (.refl s) ?_)
  exact (reportsOnly_ringReport s lease).trans (reportsOnly_ite (reportsOnly_ringLose ..) (reportsOnly_ringPush ..))

theorem reportsOnly_epochEvent (s : State) (mgmt : Bool) (uid epoch cause : Nat) :
    ReportsOnly s (epochEvent s mgmt uid epoch cause) := reportsOnly_ringEvent ..

theorem reportsOnly_tellEpoch (s : State) (u : PUnit) : ReportsOnly s (tellEpoch s u) :=
  foldl_holds (P := ReportsOnly s) (fun _ _ h => h.trans (reportsOnly_sendMsg ..)) (.refl s)

/-! ### Increments (R37) -/

theorem getUnit_bumpUnit_epoch (s : State) (mgmt : Bool) (cause : Nat) (u : PUnit) :
    (getUnit (bumpUnit s mgmt cause u) u).epoch = epochNext (getUnit s u).epoch := by
  unfold bumpUnit
  rw [(reportsOnly_epochEvent ..).getUnit, (reportsOnly_tellEpoch ..).getUnit, getUnit_modUnit, if_pos rfl]

theorem groupEpoch_bumpGroup {s : State} (h : smapWf 1 s.groups.epoch = true) (mgmt : Bool) (cause g : Nat) :
    groupEpoch (bumpGroup s mgmt cause g) g = epochNext (groupEpoch s g) := by
  unfold bumpGroup
  rw [(reportsOnly_epochEvent ..).groupEpoch]
  exact smapGet_set_same h

/-! ### What every command and event keeps -/

/-- The events that set the timebase (R65, R68, R559) or lose it (R743). -/
def setsTime : Instr → Bool
  | .timeExchange .. | .timeRootProbeExpiry | .sbMark .. | .powerLoss .. => true
  | _ => false

/-- Every command and event that does not set the time keeps what `Keeps` says, with memory where it stores nothing. -/
theorem keepsRes_exec (s : State) : ∀ i : Instr, setsTime i = false → KeepsRes (!storesToMemory i) s (exec i s)
  | .mgmtSetLimits .., _ => keeps_execMgmtSetLimits (.refl _ s)
  | .mgmtSetProfile .., _ => keeps_execMgmtSetProfile (.refl _ s)
  | .mgmtOutOfServiceTake .., _ => keeps_execMgmtOutOfServiceTake (.refl _ s)
  | .mgmtOutOfServiceRestore .., _ => keeps_execMgmtOutOfServiceRestore (.refl _ s)
  | .mgmtReset .., _ => keeps_execMgmtReset (.refl _ s)
  | .mgmtSetIdentity .., _ => keeps_execMgmtSetIdentity (.refl _ s)
  | .mgmtFirmware .., _ => keeps_execMgmtFirmware (.refl _ s)
  | .qpCreate .., _ => keeps_execQpCreate (.refl _ s)
  | .qpDelete .., _ => keeps_execQpDelete (.refl _ s)
  | .memTest .., _ => keeps_execMemTest (.refl _ s)
  | .leaseOpen .., _ => keeps_execLeaseOpen (.refl _ s)
  | .leaseClose .., _ => keeps_execLeaseClose (.refl _ s)
  | .memMap .., _ => keeps_execMemMap (.refl _ s)
  | .dmaCopy .., _ => keeps_execDmaCopy (.refl _ s)
  | .flagSet .., _ => keeps_execFlagSet (.refl _ s)
  | .flagAdd .., _ => keeps_execFlagAdd (.refl _ s)
  | .flagWait .., _ => keeps_execFlagWait (.refl _ s)
  | .kernelLaunch .., _ => keeps_execKernelLaunch (.refl _ s)
  | .graphRun .., _ => keeps_execGraphRun (.refl _ s)
  | .seqConfig .., _ => keeps_execSeqConfig (.refl _ s)
  | .seqCreate .., _ => keeps_execSeqCreate (.refl _ s)
  | .seqDestroy .., _ => keeps_execSeqDestroy (.refl _ s)
  | .seqPrefill .., _ => keeps_execSeqPrefill (.refl _ s)
  | .seqStep .., _ => keeps_execSeqStep (.refl _ s)
  | .seqDraft .., _ => keeps_execSeqDraft (.refl _ s)
  | .seqCommit .., _ => keeps_execSeqCommit (.refl _ s)
  | .seqRetract .., _ => keeps_execSeqRetract (.refl _ s)
  | .seqSuspend .., _ => keeps_execSeqSuspend (.refl _ s)
  | .seqResume .., _ => keeps_execSeqResume (.refl _ s)
  | .seqEvict .., _ => keeps_execSeqEvict (.refl _ s)
  | .prefixPublish .., _ => keeps_execPrefixPublish (.refl _ s)
  | .fabRouteSet .., _ => keeps_execFabRouteSet (.refl _ s)
  | .fabCollective .., _ => keeps_execFabCollective (.refl _ s)
  | .collectiveArm .., _ => keeps_execCollectiveArm (.refl _ s)
  | .collectiveDisarm .., _ => keeps_execCollectiveDisarm (.refl _ s)
  | .portEnable .., _ => keeps_execPortEnable (.refl _ s)
  | .portDisable .., _ => keeps_execPortDisable (.refl _ s)
  | .portRetrain .., _ => keeps_execPortRetrain (.refl _ s)
  | .portLoopback .., _ => keeps_execPortLoopback (.refl _ s)
  | .telemRead .., _ => keeps_execTelemRead (.refl _ s)
  | .dumpCollect .., _ => keeps_execDumpCollect (.refl _ s)
  | .stopGlobalArm .., _ => keeps_execStopGlobalArm (.refl _ s)
  | .stopGlobalFire .., _ => keeps_execStopGlobalFire (.refl _ s)
  | .stopGlobalDisarm .., _ => keeps_execStopGlobalDisarm (.refl _ s)
  | .traceCtl .., _ => keeps_execTraceCtl (.refl _ s)
  | .auditRead .., _ => keeps_execAuditRead (.refl _ s)
  | .groupDefine .., _ => keeps_execGroupDefine (.refl _ s)
  | .groupDissolve .., _ => keeps_execGroupDissolve (.refl _ s)
  | .permissionRefusalReply .., _ => keeps_execPermissionRefusalReply (.refl _ s)
  | .completionWrite .., _ => keeps_execCompletionWrite (.refl _ s)
  | .commandTimeout .., _ => keeps_execCommandTimeout (.refl _ s)
  | .hangDrainEnd .., _ => keeps_execHangDrainEnd (.refl _ s)
  | .resetEnd .., _ => keeps_execResetEnd (.refl _ s)
  | .resetFaultEscalate .., _ => keeps_execResetFaultEscalate (.refl _ s)
  | .unitReady .., _ => keeps_execUnitReady (.refl _ s)
  | .remoteCommand .., _ => keeps_execRemoteCommand (.refl _ s)
  | .memberStateMessage .., _ => keeps_execMemberStateMessage (.refl _ s)
  | .atomicPrepare .., _ => keeps_execAtomicPrepare (.refl _ s)
  | .atomicDecision .., _ => keeps_execAtomicDecision (.refl _ s)
  | .atomicInDoubt .., _ => keeps_execAtomicInDoubt (.refl _ s)
  | .atomicDecisionQuery .., _ => keeps_execAtomicDecisionQuery (.refl _ s)
  | .add .., _ => keeps_execAdd (.refl _ s)
  | .sub .., _ => keeps_execSub (.refl _ s)
  | .mul .., _ => keeps_execMul (.refl _ s)
  | .mulhu .., _ => keeps_execMulhu (.refl _ s)
  | .and .., _ => keeps_execAnd (.refl _ s)
  | .or .., _ => keeps_execOr (.refl _ s)
  | .xor .., _ => keeps_execXor (.refl _ s)
  | .shl .., _ => keeps_execShl (.refl _ s)
  | .shr .., _ => keeps_execShr (.refl _ s)
  | .sra .., _ => keeps_execSra (.refl _ s)
  | .cmp .., _ => keeps_execCmp (.refl _ s)
  | .plog .., _ => keeps_execPlog (.refl _ s)
  | .ld .., _ => keeps_execLd (.refl _ s)
  | .st .., _ => keeps_execSt (.refl _ s)
  | .br .., _ => keeps_execBr (.refl _ s)
  | .brl .., _ => keeps_execBrl (.refl _ s)
  | .jr .., _ => keeps_execJr (.refl _ s)
  | .halt .., _ => keeps_execHalt (.refl _ s)
  | .fence .., _ => keeps_execFence (.refl _ s)
  | .flset .., _ => keeps_execFlset (.refl _ s)
  | .flwait .., _ => keeps_execFlwait (.refl _ s)
  | .flwaitTimeout .., _ => keeps_execFlwaitTimeout (.refl _ s)
  | .fladd .., _ => keeps_execFladd (.refl _ s)
  | .csrRead .., _ => keeps_execCsrRead (.refl _ s)
  | .csrWrite .., _ => keeps_execCsrWrite (.refl _ s)
  | .csrSet .., _ => keeps_execCsrSet (.refl _ s)
  | .csrClear .., _ => keeps_execCsrClear (.refl _ s)
  | .fadd .., _ => keeps_execFadd (.refl _ s)
  | .fsub .., _ => keeps_execFsub (.refl _ s)
  | .fmul .., _ => keeps_execFmul (.refl _ s)
  | .ffma .., _ => keeps_execFfma (.refl _ s)
  | .fdiv .., _ => keeps_execFdiv (.refl _ s)
  | .fsqrt .., _ => keeps_execFsqrt (.refl _ s)
  | .fminmax .., _ => keeps_execFminmax (.refl _ s)
  | .fcmp .., _ => keeps_execFcmp (.refl _ s)
  | .fcvt .., _ => keeps_execFcvt (.refl _ s)
  | .mma .., _ => keeps_execMma (.refl _ s)
  | .chain .., _ => keeps_execChain (.refl _ s)
  | .quant .., _ => keeps_execQuant (.refl _ s)
  | .accld .., _ => keeps_execAccld (.refl _ s)
  | .vld .., _ => keeps_execVld (.refl _ s)
  | .vst .., _ => keeps_execVst (.refl _ s)
  | .vacc .., _ => keeps_execVacc (.refl _ s)
  | .vadd .., _ => keeps_execVadd (.refl _ s)
  | .vsub .., _ => keeps_execVsub (.refl _ s)
  | .vmul .., _ => keeps_execVmul (.refl _ s)
  | .vfma .., _ => keeps_execVfma (.refl _ s)
  | .vdiv .., _ => keeps_execVdiv (.refl _ s)
  | .vsqrt .., _ => keeps_execVsqrt (.refl _ s)
  | .vminmax .., _ => keeps_execVminmax (.refl _ s)
  | .vcmp .., _ => keeps_execVcmp (.refl _ s)
  | .vsel .., _ => keeps_execVsel (.refl _ s)
  | .vcvt .., _ => keeps_execVcvt (.refl _ s)
  | .vdq .., _ => keeps_execVdq (.refl _ s)
  | .vfn .., _ => keeps_execVfn (.refl _ s)
  | .vred .., _ => keeps_execVred (.refl _ s)
  | .vquant .., _ => keeps_execVquant (.refl _ s)
  | .dma .., _ => keeps_execDma (.refl _ s)
  | .waitd .., _ => keeps_execWaitd (.refl _ s)
  | .dmaEntrySubmit .., _ => keeps_execDmaEntrySubmit (.refl _ s)
  | .dmaEntryComplete .., _ => keeps_execDmaEntryComplete (.refl _ s)
  | .atsTranslationCompletion .., _ => keeps_execAtsTranslationCompletion (.refl _ s)
  | .prgResponse .., _ => keeps_execPrgResponse (.refl _ s)
  | .priWaitExpiry .., _ => keeps_execPriWaitExpiry (.refl _ s)
  | .atsInvalidateRequest .., _ => keeps_execAtsInvalidateRequest (.refl _ s)
  | .invalidateCompletion .., _ => keeps_execInvalidateCompletion (.refl _ s)
  | .invalidateReadExpiry .., _ => keeps_execInvalidateReadExpiry (.refl _ s)
  | .fabricHoldExpiry, _ => keeps_execFabricHoldExpiry (.refl _ s)
  | .guardVerdict .., _ => keeps_execGuardVerdict (.refl _ s)
  | .replayEnd .., _ => keeps_execReplayEnd (.refl _ s)
  | .fetch .., _ => keeps_execFetch (.refl _ s)
  | .append .., _ => keeps_execAppend (.refl _ s)
  | .stage .., _ => keeps_execStage (.refl _ s)
  | .xpose .., _ => keeps_execXpose (.refl _ s)
  | .merge .., _ => keeps_execMerge (.refl _ s)
  | .stepgraphComplete, _ => keeps_execStepgraphComplete (.refl _ s)
  | .planReceive .., _ => keeps_execPlanReceive (.refl _ s)
  | .runAheadPrefetch, _ => keeps_execRunAheadPrefetch (.refl _ s)
  | .canarySample .., _ => keeps_execCanarySample (.refl _ s)
  | .pacePublish, _ => keeps_execPacePublish (.refl _ s)
  | .thermalTrip .., _ => keeps_execThermalTrip (.refl _ s)
  | .tbSyncPulse, _ => keeps_execTbSyncPulse (.refl _ s)
  | .timeExchange .., h => nomatch h
  | .alignTimeout, _ => keeps_execAlignTimeout (.refl _ s)
  | .timeRootProbe, _ => keeps_execTimeRootProbe (.refl _ s)
  | .timeRootProbeExpiry, h => nomatch h
  | .frameRead .., _ => keeps_execFrameRead (.refl _ s)
  | .frameWrite .., _ => keeps_execFrameWrite (.refl _ s)
  | .frameFlagAdd .., _ => keeps_execFrameFlagAdd (.refl _ s)
  | .frameReadData .., _ => keeps_execFrameReadData (.refl _ s)
  | .frameAck .., _ => keeps_execFrameAck (.refl _ s)
  | .frameNack .., _ => keeps_execFrameNack (.refl _ s)
  | .frameColl .., _ => keeps_execFrameColl (.refl _ s)
  | .frameMgmt .., _ => keeps_execFrameMgmt (.refl _ s)
  | .frameTime .., _ => keeps_execFrameTime (.refl _ s)
  | .frameDigest .., _ => keeps_execFrameDigest (.refl _ s)
  | .frameKeyx .., _ => keeps_execFrameKeyx (.refl _ s)
  | .digestMissingTimeout .., _ => keeps_execDigestMissingTimeout (.refl _ s)
  | .rekeyTrigger .., _ => keeps_execRekeyTrigger (.refl _ s)
  | .rekeyTimeout .., _ => keeps_execRekeyTimeout (.refl _ s)
  | .frameCounterLimit .., _ => keeps_execFrameCounterLimit (.refl _ s)
  | .collectiveTrigger .., _ => keeps_execCollectiveTrigger (.refl _ s)
  | .collectiveInstanceEnd .., _ => keeps_execCollectiveInstanceEnd (.refl _ s)
  | .portTrained .., _ => keeps_execPortTrained (.refl _ s)
  | .portLinkLoss .., _ => keeps_execPortLinkLoss (.refl _ s)
  | .portRetrainTimer .., _ => keeps_execPortRetrainTimer (.refl _ s)
  | .sbMarkOriginate, _ => keeps_execSbMarkOriginate (.refl _ s)
  | .sbMark .., h => nomatch h
  | .sbStop .., _ => keeps_execSbStop (.refl _ s)
  | .sbMgmt .., _ => keeps_execSbMgmt (.refl _ s)
  | .sbReply .., _ => keeps_execSbReply (.refl _ s)
  | .sbBypassAssert, _ => keeps_execSbBypassAssert (.refl _ s)
  | .sbBypassOpen, _ => keeps_execSbBypassOpen (.refl _ s)
  | .faultReport .., _ => keeps_execFaultReport (.refl _ s)
  | .faultWindowEnd .., _ => keeps_execFaultWindowEnd (.refl _ s)
  | .scrubRead .., _ => keeps_execScrubRead (.refl _ s)
  | .channelLost .., _ => keeps_execChannelLost (.refl _ s)
  | .bridgeFault, _ => keeps_execBridgeFault (.refl _ s)
  | .hbmChannelTrained .., _ => keeps_execHbmChannelTrained (.refl _ s)
  | .domainDoze .., _ => keeps_execDomainDoze (.refl _ s)
  | .domainWake .., _ => keeps_execDomainWake (.refl _ s)
  | .domainWakeComplete .., _ => keeps_execDomainWakeComplete (.refl _ s)
  | .leaseCloseDrainEnd, _ => keeps_execLeaseCloseDrainEnd (.refl _ s)
  | .hbmClearEnd, _ => keeps_execHbmClearEnd (.refl _ s)
  | .hbmVerifyEnd .., _ => keeps_execHbmVerifyEnd (.refl _ s)
  | .fabricSecret .., _ => keeps_execFabricSecret (.refl _ s)
  | .mirrorSecret .., _ => keeps_execMirrorSecret (.refl _ s)
  | .installKey .., _ => keeps_execInstallKey (.refl _ s)
  | .plainSecret .., _ => keeps_execPlainSecret (.refl _ s)
  | .vangaerReply, _ => keeps_execVangaerReply (.refl _ s)
  | .getCertificate session, _ => keeps_execGetCertificate (_session := session) (.refl _ s)
  | .getMeasurements .., _ => keeps_execGetMeasurements (.refl _ s)
  | .kSetGo .., _ => keeps_execKSetGo (.refl _ s)
  | .lockInterface .., _ => keeps_execLockInterface (.refl _ s)
  | .startInterface .., _ => keeps_execStartInterface (.refl _ s)
  | .stopInterface .., _ => keeps_execStopInterface (.refl _ s)
  | .tdiError .., _ => keeps_execTdiError (.refl _ s)
  | .functionLevelReset, _ => keeps_execFunctionLevelReset (.refl _ s)
  | .hotReset, _ => keeps_execHotReset (.refl _ s)
  | .linkDown .., _ => keeps_execLinkDown (.refl _ s)
  | .d3hotToD0, _ => keeps_execD3hotToD0 (.refl _ s)
  | .perstNAssert, _ => keeps_execPerstNAssert (.refl _ s)
  | .perstNDeassert .., _ => keeps_execPerstNDeassert (.refl _ s)
  | .bar2Read .., _ => keeps_execBar2Read (.refl _ s)
  | .bar2Write .., _ => keeps_execBar2Write (.refl _ s)
  | .tlpRefused .., _ => keeps_execTlpRefused (.refl _ s)
  | .registerWrite .., _ => keeps_execRegisterWrite (.refl _ s)
  | .sqTailDoorbell .., _ => keeps_execSqTailDoorbell (.refl _ s)
  | .cqHeadDoorbell .., _ => keeps_execCqHeadDoorbell (.refl _ s)
  | .eventRingHeadDoorbell .., _ => keeps_execEventRingHeadDoorbell (.refl _ s)
  | .mqEnable .., _ => keeps_execMqEnable (.refl _ s)
  | .mqDisable .., _ => keeps_execMqDisable (.refl _ s)
  | .eventRingEnable .., _ => keeps_execEventRingEnable (.refl _ s)
  | .eventRingDisable .., _ => keeps_execEventRingDisable (.refl _ s)
  | .bootstrapGo .., _ => keeps_execBootstrapGo (.refl _ s)
  | .msixUnmask .., _ => keeps_execMsixUnmask (.refl _ s)
  | .porNDeassert .., _ => keeps_execPorNDeassert (.refl _ s)
  | .powerLoss .., h => nomatch h
  | .stopArmExpiry, _ => keeps_execStopArmExpiry (.refl _ s)
  | .auditCheckpoint, _ => keeps_execAuditCheckpoint (.refl _ s)
  | .portSignalDetected .., _ => keeps_execPortSignalDetected (.refl _ s)
  | .linkRetransmit .., _ => keeps_execLinkRetransmit (.refl _ s)
  | .vcCreditReturn .., _ => keeps_execVcCreditReturn (.refl _ s)
  | .injectionTokenRefill, _ => keeps_execInjectionTokenRefill (.refl _ s)
  | .keyExchange .., _ => keeps_execKeyExchange (.refl _ s)
  | .keyProg .., _ => keeps_execKeyProg (.refl _ s)
  | .memTestEnd .., _ => keeps_execMemTestEnd (.refl _ s)
  | .hardwareScrubEnd, _ => keeps_execHardwareScrubEnd (.refl _ s)
  | .askocScrubEnd, _ => keeps_execAskocScrubEnd (.refl _ s)
  | .i3cCommand .., _ => keeps_execI3cCommand (.refl _ s)
  | .getstatus, _ => keeps_execGetstatus (.refl _ s)
  | .registerSnapshotRead .., _ => keeps_execRegisterSnapshotRead (.refl _ s)

/-- Every command and event but a loss of power keeps, at the time it leaves, what `Keeps` says, with memory where it stores
nothing. -/
theorem keeps_exec_atTime {i : Instr} {s t : State} (hi : ∀ l, i ≠ .powerLoss l) (e : exec i s = .next t) :
    Keeps (!storesToMemory i) (atTime s t.tb.count) t := by
  by_cases h : setsTime i = false
  · exact ((keepsRes_exec s i h).get t e).here
  · cases i with
    | timeExchange src port x => exact keeps_execTimeExchange e
    | timeRootProbeExpiry => exact keeps_execTimeRootProbeExpiry e
    | sbMark f => exact keeps_execSbMark e
    | powerLoss l => exact absurd rfl (hi l)
    | _ => exact absurd rfl h

/-- A loss of power keeps the queue, and the state it leaves has every form. -/
theorem execPowerLoss_kept {l : LossIn} {s t : State} (e : execPowerLoss l s = .next t) :
    t.pending = s.pending ∧ memWf t.mem = true ∧ EpochsOk t ∧ ArmOk t := by
  unfold execPowerLoss at e
  cases e
  have k := afterLoss_kept s (s.rst.tripped && !(l.cause = 2 || (l.cause = 0 && l.low)))
  split
  · exact k
  · exact k

/-- What a step can do: run the command at the front of the queue, or tick the timebase while none waits. -/
theorem step_cases {s t : State} (e : step s = .next t) :
    (s.pending = [] ∧ t = tick s) ∨ ∃ i rest, s.pending = i :: rest ∧ exec i { s with pending := rest } = .next t := by
  unfold step at e
  split at e
  next h => exact .inl ⟨h, (Host.Outcome.next.inj e).symm⟩
  next i rest h => exact .inr ⟨i, rest, h, e⟩

theorem epochsOk_exec {i : Instr} {s t : State} (h : EpochsOk s) (e : exec i s = .next t) : EpochsOk t := by
  by_cases hi : ∃ l, i = .powerLoss l
  · obtain ⟨l, rfl⟩ := hi
    obtain ⟨-, -, hepochs, -⟩ := execPowerLoss_kept e
    exact hepochs
  · exact (keeps_exec_atTime (fun l hl => hi ⟨l, hl⟩) e).epochs h

theorem epochsOk_step {s t : State} (h : EpochsOk s) (e : step s = .next t) : EpochsOk t := by
  obtain ⟨-, rfl⟩ | ⟨i, rest, -, e⟩ := step_cases e
  · exact keeps_tick.epochs h
  · exact epochsOk_exec (s := { s with pending := rest }) h e

/-! ### The statement -/

theorem getUnit_reset (u : PUnit) : getUnit State.reset u = UnitRec.init := unitRec_init u

/-- Settles O44: at reset and at each increment by the equations of the tables that hold the epochs, which reports leave alone; over a
step because every command and event keeps them, and a loss of power sets them to 1. -/
theorem epochsAreNeverZero : Obligations.EpochsAreNeverZero := by
  unfold Obligations.EpochsAreNeverZero
  refine ⟨fun _ => rfl, fun u => ?_, fun _ => rfl, getUnit_bumpUnit_epoch, fun s mgmt cause g h => ?_, fun s t h e => ?_⟩
  · rw [getUnit_reset]
    rfl
  · exact groupEpoch_bumpGroup h mgmt cause g
  · exact epochsOk_step h e

end Sys2Proof.Machine
end

section
/-! SUPPORT. Fetched words and the instructions they decode to, the checks of a rounding field, FCSR under CSR accesses, and from
these the statement about reserved rounding codes (03_number_formats.md R109; 08_core_programming.md R246, R249, R255). -/

namespace Sys2Proof.Machine

/-! ### Bit fields -/

theorem bits_lt (n hi lo : Nat) : bits n hi lo < 2 ^ (hi + 1 - lo) := Nat.mod_lt _ (Nat.two_pow_pos _)

theorem bits_and (m n hi lo : Nat) : bits (m &&& n) hi lo = bits m hi lo &&& bits n hi lo := by
  rw [bits, Nat.shiftRight_and_distrib, Nat.and_mod_two_pow, bits, bits]

theorem bits_or (m n hi lo : Nat) : bits (m ||| n) hi lo = bits m hi lo ||| bits n hi lo := by
  rw [bits, Nat.shiftRight_or_distrib, Nat.or_mod_two_pow, bits, bits]

/-- The bits up to `hi` are a field's bits above those below the field. -/
theorem mod_two_pow_eq_bits (n : Nat) {hi lo : Nat} (h : lo ≤ hi + 1) :
    n % 2 ^ (hi + 1) = bits n hi lo * 2 ^ lo + n % 2 ^ lo := by
  have hsplit : 2 ^ (hi + 1) = 2 ^ lo * 2 ^ (hi + 1 - lo) := by rw [← Nat.pow_add, Nat.add_sub_cancel' h]
  rw [bits, Nat.shiftRight_eq_div_pow, hsplit, Nat.mod_mul, Nat.mul_comm, Nat.add_comm]

theorem b2n_testBit (n k : Nat) : b2n (n.testBit k) = bits n k k := by
  simp only [b2n, bits, Nat.testBit_eq_decide_div_mod_eq, Nat.shiftRight_eq_div_pow, Nat.add_sub_cancel_left, Nat.pow_one,
    decide_eq_true_eq]
  split <;> omega

/-! ### The fetched word (R242, R246) -/

/-- A word is made of its opcode and its fields. -/
theorem wordBits_coreWordOf (n : Nat) : wordBits (n / 2 ^ 120) (coreWordOf n) = n := by
  have hlow : n % 2 ^ 120 = bits n 119 119 * 2 ^ 119 + (bits n 118 116 * 2 ^ 116 + (bits n 115 111 * 2 ^ 111
      + (bits n 110 106 * 2 ^ 106 + (bits n 105 101 * 2 ^ 101 + (bits n 100 96 * 2 ^ 96 + (bits n 95 64 * 2 ^ 64
      + bits n 63 0)))))) := by
    rw [mod_two_pow_eq_bits n (hi := 119) (lo := 119) (by decide), mod_two_pow_eq_bits n (hi := 118) (lo := 116) (by decide),
      mod_two_pow_eq_bits n (hi := 115) (lo := 111) (by decide), mod_two_pow_eq_bits n (hi := 110) (lo := 106) (by decide),
      mod_two_pow_eq_bits n (hi := 105) (lo := 101) (by decide), mod_two_pow_eq_bits n (hi := 100) (lo := 96) (by decide),
      mod_two_pow_eq_bits n (hi := 95) (lo := 64) (by decide)]
    rfl
  have hrd := bits_lt n 115 111
  have hrs1 := bits_lt n 110 106
  have hrs2 := bits_lt n 105 101
  have hrs3 := bits_lt n 100 96
  have hpred := bits_lt n 118 116
  have hctl := bits_lt n 95 64
  have himm := bits_lt n 63 0
  simp only [wordBits, coreWordOf, b2n_testBit, fin, Fin.val_ofNat, BitVec.toNat_ofNat]
  omega

/-! ### Instructions that hold a reserved value (R287) -/

/-- Core `c` runs and stands at the word of opcode `o` with fields `w`. -/
structure StandsAt (s : State) (c : Fin 192) (o : Nat) (w : CoreWord) : Prop where
  runs : coreRuns s c = true
  word : fetchWord s c = .word (wordBits o w)

theorem standsAt_of_fetchWord {s : State} {c : Fin 192} {n : Nat} (hr : coreRuns s c = true) (hf : fetchWord s c = .word n) :
    StandsAt s c (n / 2 ^ 120) (coreWordOf n) := by
  refine ⟨hr, ?_⟩
  rw [wordBits_coreWordOf, hf]

section
variable {s : State} {c : Fin 192} {o : Nat} {w : CoreWord} {e : Fin 4} {u : FieldUse} {ok : Bool}

/-- An instruction whose fields hold a value that it does not allow stops its core, whatever its guard predicate. -/
theorem issue_stop_of_not_ok {body : CoreSt → CoreOut} (h : StandsAt s c o w) (hok : ok = false) :
    issue o e u ok c w s body = .next (stopCore s c 1 0) := by
  simp [issue, h.runs, h.word, hok]

theorem issueTile_stop_of_not_ok {rngs : CoreSt → TileRngs} {body : CoreSt → CoreOut} (h : StandsAt s c o w) (hok : ok = false) :
    issueTile o e u ok rngs c w s body = .next (stopCore s c 1 0) :=
  issue_stop_of_not_ok h hok

/-! ### The checks of a rounding field (R109) -/

theorem rmFieldOk_eq_false_iff (f : Nat) : rmFieldOk f = false ↔ f = 5 ∨ f = 6 := by
  simp only [rmFieldOk, Bool.and_eq_false_iff, bne_eq_false_iff_eq]

theorem fpOk_eq_false (hrm : rmFieldOk (ctlBits w 6 4) = false) : fpOk w = false := by
  rw [fpOk, hrm, Bool.and_false]

theorem vOk_eq_false (hrm : rmFieldOk (ctlBits w 6 4) = false) : vOk w = false := by
  rw [vOk, hrm, Bool.false_and]

theorem fp2_stop_of_rm {f : FFmt → FEnv → Nat → Nat → Nat × FFlags} (h : StandsAt s c o w)
    (hrm : rmFieldOk (ctlBits w 6 4) = false) : fp2 o f c w s = .next (stopCore s c 1 0) :=
  issue_stop_of_not_ok h (fpOk_eq_false hrm)

/-- Vector instructions check RM with NL beside the checks of their own (R264). -/
theorem issueTile_stop_of_rm {rngs : CoreSt → TileRngs} {body : CoreSt → CoreOut} (h : StandsAt s c o w)
    (hrm : rmFieldOk (ctlBits w 6 4) = false) : issueTile o e u (ok && vOk w) rngs c w s body = .next (stopCore s c 1 0) :=
  issueTile_stop_of_not_ok h (by rw [vOk_eq_false hrm, Bool.and_false])

theorem vIssue_stop_of_rm {f : VFun} {draws : Bool} (h : StandsAt s c o w) (hrm : rmFieldOk (ctlBits w 6 4) = false) :
    vIssue o u ok f draws c w s = .next (stopCore s c 1 0) :=
  issueTile_stop_of_rm h hrm

end

/-- Every scalar floating-point instruction, opcodes 0x28 to 0x30, checks its rounding field. -/
theorem exec_scalarFloat_stop_of_rm {s : State} {c : Fin 192} {n : Nat} {i : Instr} (hi : coreInstr c n = some i)
    (hlo : 0x28 ≤ n / 2 ^ 120) (hhi : n / 2 ^ 120 ≤ 0x30) (h : StandsAt s c (n / 2 ^ 120) (coreWordOf n))
    (hrm : rmFieldOk (ctlBits (coreWordOf n) 6 4) = false) : exec i s = .next (stopCore s c 1 0) := by
  unfold coreInstr at hi
  generalize coreWordOf n = w at *
  generalize n / 2 ^ 120 = o at *
  have ho : o = 0x28 ∨ o = 0x29 ∨ o = 0x2A ∨ o = 0x2B ∨ o = 0x2C ∨ o = 0x2D ∨ o = 0x2E ∨ o = 0x2F ∨ o = 0x30 := by
    omega
  rcases ho with rfl | rfl | rfl | rfl | rfl | rfl | rfl | rfl | rfl <;> cases hi
  · exact fp2_stop_of_rm h hrm
  · exact fp2_stop_of_rm h hrm
  · exact fp2_stop_of_rm h hrm
  · change execFfma c w s = _
    rw [execFfma, issue_stop_of_not_ok h (fpOk_eq_false hrm)]
  · exact fp2_stop_of_rm h hrm
  · change execFsqrt c w s = _
    rw [execFsqrt, issue_stop_of_not_ok h (fpOk_eq_false hrm)]
  · change execFminmax c w s = _
    rw [execFminmax, issue_stop_of_not_ok h (fpOk_eq_false hrm)]
  · change execFcmp c w s = _
    rw [execFcmp, issue_stop_of_not_ok h (by rw [fpOk_eq_false hrm, Bool.false_and])]
  · change execFcvt c w s = _
    rw [execFcvt, issue_stop_of_not_ok h (by rw [hrm, Bool.and_false])]

/-- Every vector instruction, opcodes 0x50 to 0x5F, checks its rounding field. -/
theorem exec_vector_stop_of_rm {s : State} {c : Fin 192} {n : Nat} {i : Instr} (hi : coreInstr c n = some i)
    (hlo : 0x50 ≤ n / 2 ^ 120) (hhi : n / 2 ^ 120 ≤ 0x5F) (h : StandsAt s c (n / 2 ^ 120) (coreWordOf n))
    (hrm : rmFieldOk (ctlBits (coreWordOf n) 6 4) = false) : exec i s = .next (stopCore s c 1 0) := by
  unfold coreInstr at hi
  generalize coreWordOf n = w at *
  generalize n / 2 ^ 120 = o at *
  have ho : o = 0x50 ∨ o = 0x51 ∨ o = 0x52 ∨ o = 0x53 ∨ o = 0x54 ∨ o = 0x55 ∨ o = 0x56 ∨ o = 0x57 ∨ o = 0x58 ∨ o = 0x59 ∨
      o = 0x5A ∨ o = 0x5B ∨ o = 0x5C ∨ o = 0x5D ∨ o = 0x5E ∨ o = 0x5F := by
    omega
  rcases ho with rfl | rfl | rfl | rfl | rfl | rfl | rfl | rfl | rfl | rfl | rfl | rfl | rfl | rfl | rfl | rfl <;> cases hi
  · change execVld c w s = _
    rw [execVld, issueTile_stop_of_rm h hrm]
  · change execVst c w s = _
    rw [execVst, issueTile_stop_of_rm h hrm]
  · change execVacc c w s = _
    rw [execVacc, issueTile_stop_of_rm h hrm]
  all_goals exact vIssue_stop_of_rm h hrm

/-! ### What counting and tracing leave of a core -/

@[simp] theorem getCore_traceCore (s : State) (c d : Fin 192) (etype typ data : Nat) :
    getCore (traceCore s c etype typ data) d = getCore s d := by
  unfold traceCore
  dsimp only
  split <;> rfl

@[simp] theorem getCore_fetchMet (s : State) (c d : Fin 192) : getCore (fetchMet s c) d = getCore s d := by
  unfold fetchMet
  dsimp only
  split
  · rfl
  · split
    · exact getCore_demand ..
    · rfl

@[simp] theorem getCore_traceIssue (s : State) (c d : Fin 192) (e : Fin 4) (opc off : Nat) :
    getCore (traceIssue s c e opc off) d = getCore s d := by
  rw [traceIssue, getCore_traceCore, getCore_fetchMet]

/-! ### FCSR of an engine (R107, R255) -/

/-- FCSR by its CSR number: 0 the scalar engine's, else the vector engine's. -/
def fcsrNo (n : Nat) (x : CoreSt) : BitVec 32 := if n = 0 then x.fcsrS else x.fcsrV

@[simp] theorem fcsrNo_setX (n : Nat) (x : CoreSt) (r : Fin 32) (v : BitVec 64) : fcsrNo n (setX x r v) = fcsrNo n x := by
  unfold setX
  split <;> rfl

/-- A CSR access to an FCSR writes that one. -/
theorem fcsrNo_csrWrite {n : Nat} (hn : n ≤ 1) (x : CoreSt) (v mode : Nat) :
    fcsrNo n (csrWrite x n v mode) = fcsrWrite (fcsrNo n x) v mode := by
  obtain rfl | rfl := Nat.le_one_iff_eq_zero_or_eq_one.mp hn
  · rfl
  · rfl

@[simp] theorem fcsrNo_getCore_countInstr (n : Nat) (s : State) (c : Fin 192) (e : Fin 4) :
    fcsrNo n (getCore (countInstr s c e) c) = fcsrNo n (getCore s c) := by
  rw [countInstr, getCore_modCore]
  rfl

@[simp] theorem fcsrNo_getCore_dropRebind (n : Nat) (s : State) (c : Fin 192) :
    fcsrNo n (getCore (dropRebind s c) c) = fcsrNo n (getCore s c) := by
  rw [dropRebind, getCore_modCore]
  rfl

@[simp] theorem fcsrNo_getCore_retire (n : Nat) (s : State) (c : Fin 192) (e : Fin 4) (opc off : Nat) :
    fcsrNo n (getCore (retire s c e opc off) c) = fcsrNo n (getCore s c) := by
  rw [retire, completed, getCore_traceCore]
  split <;> split <;> simp

/-- Completing leaves both FCSRs as the instruction's effect `t` left them. -/
theorem fcsrNo_getCore_retiredNext (n : Nat) (s t : State) (c : Fin 192) (e : Fin 4) (opc : Nat) :
    fcsrNo n (getCore (retiredNext s t c e opc) c) = fcsrNo n (getCore t c) := by
  rw [retiredNext, getCore_modCore, ← fcsrNo_getCore_retire n t c e opc (pcOffset (getCore s c))]
  rfl

/-- The value that a write of `v` in CSR mode 1 to 3 makes for the fields that it writes, sets or clears (R255). -/
def csrResult (old v mode : Nat) : Nat :=
  match mode with
  | 1 => v
  | 2 => old ||| v
  | _ => old &&& (2 ^ 64 - 1 - v % 2 ^ 64)

theorem fcsrRm_ofNat (x : Nat) : fcsrRm (BitVec.ofNat 32 x) = bits x 7 5 := by
  simp only [fcsrRm, bits, BitVec.toNat_ofNat, Nat.shiftRight_eq_div_pow]
  omega

/-- RW holds the bits of RM. -/
theorem bits_rm_and_fcsrRw (m : Nat) : bits (m &&& fcsrRw) 7 5 = bits m 7 5 := by
  rw [bits_and]
  exact (Nat.and_two_pow_sub_one_eq_mod _ 3).trans (Nat.mod_eq_of_lt (bits_lt m 7 5))

/-- RM is that of `o` where DAZ and FTZ come from `m`, RM from `o`, and flags join them. -/
theorem bits_rm_kept (m o : Nat) {fl : Nat} (hfl : bits fl 7 5 = 0) :
    bits ((m &&& 0x300 ||| o &&& 0xE0) ||| fl) 7 5 = bits o 7 5 := by
  have hrw : bits 0x300 7 5 = 0 := rfl
  have hrm : bits 0xE0 7 5 = 2 ^ 3 - 1 := rfl
  simp only [bits_or, bits_and, hrw, hrm, hfl, Nat.and_zero, Nat.zero_or, Nat.or_zero, Nat.and_two_pow_sub_one_eq_mod]
  exact Nat.mod_eq_of_lt (bits_lt o 7 5)

/-- The flags that a write of FCSR leaves: bits 4 to 0, cleared by 1s in modes 1 and 3 (R110, R255). -/
def flagsLeft (old v mode : Nat) : Nat := if mode = 2 then old &&& 0x1F else (old &&& 0x1F) &&& (0x1F - (v &&& 0x1F))

theorem bits_rm_flagsLeft (old v mode : Nat) : bits (flagsLeft old v mode) 7 5 = 0 := by
  have hfl : bits 0x1F 7 5 = 0 := rfl
  unfold flagsLeft
  split <;> simp only [bits_and, hfl, Nat.and_zero, Nat.zero_and]

theorem fcsrWrite_eq (old : BitVec 32) (v mode : Nat) :
    fcsrWrite old v mode =
      let m := csrResult old.toNat v mode &&& fcsrRw
      BitVec.ofNat 32 ((if bits m 7 5 > 4 then (m &&& 0x300) ||| (old.toNat &&& 0xE0) else m) ||| flagsLeft old.toNat v mode) :=
  rfl

/-- A write whose result for RM is reserved leaves RM (R109). -/
theorem fcsrRm_fcsrWrite {old : BitVec 32} {v mode : Nat} (h : 5 ≤ bits (csrResult old.toNat v mode) 7 5) :
    fcsrRm (fcsrWrite old v mode) = fcsrRm old := by
  have hres : bits (csrResult old.toNat v mode &&& fcsrRw) 7 5 > 4 := by rwa [bits_rm_and_fcsrRw]
  rw [fcsrWrite_eq]
  dsimp only
  rw [if_pos hres, fcsrRm_ofNat, bits_rm_kept _ _ (bits_rm_flagsLeft ..), fcsrRm]

/-! ### CSR accesses (R255) -/

/-- A CSR access in mode 1 to 3 that issues modifies its register and gives the old value (R255). -/
theorem csr_modifies {s : State} {c : Fin 192} {w : CoreWord} {mode : Nat} (hi : Issues s c 0x24 ⟨31, 31, 0, 0, 0x3FFF, 0⟩ w)
    (hm : ctlBits w 13 12 = mode) (h0 : mode ≠ 0) (hn : csrKnown (ctlBits w 11 0) = true)
    (hv : ctlBits w 11 0 = 1 → vecFcsrHeld (getCore s c) = false) :
    csr mode c w s = .next (retiredNext s (modCore s c fun x =>
      setX (csrWrite x (ctlBits w 11 0) (xr (getCore s c) w.rs1).toNat mode) w.rd
        (BitVec.ofNat 64 (csrRead s c (ctlBits w 11 0)))) c 2 0x24) := by
  rw [csr, if_neg (not_not_intro hm)]
  refine issue_done (by rwa [if_neg h0]) rfl hn ?_
  have hheld : (decide (ctlBits w 11 0 = 1) && vecFcsrHeld (getCore s c)) = false := by simpa using hv
  simp only [hheld, h0, if_false, Bool.false_eq_true]

/-- A CSR access to an FCSR in mode 1 to 3 whose result for RM is reserved completes and leaves RM (R109). -/
theorem csr_keeps_rm {s : State} {c : Fin 192} {w : CoreWord} {mode : Nat} (hi : Issues s c 0x24 ⟨31, 31, 0, 0, 0x3FFF, 0⟩ w)
    (hm : ctlBits w 13 12 = mode) (h0 : mode ≠ 0) (hn : ctlBits w 11 0 ≤ 1)
    (hv : ctlBits w 11 0 = 1 → vecFcsrHeld (getCore s c) = false)
    (hres : 5 ≤ bits (csrResult (fcsrNo (ctlBits w 11 0) (getCore s c)).toNat (xr (getCore s c) w.rs1).toNat mode) 7 5) :
    ∃ t, csr mode c w s = .next t
      ∧ fcsrRm (fcsrNo (ctlBits w 11 0) (getCore t c)) = fcsrRm (fcsrNo (ctlBits w 11 0) (getCore s c)) := by
  have hknown : csrKnown (ctlBits w 11 0) = true := by
    obtain h | h := Nat.le_one_iff_eq_zero_or_eq_one.mp hn
    · rw [h]
      rfl
    · rw [h]
      rfl
  refine ⟨_, csr_modifies hi hm h0 hknown hv, ?_⟩
  rw [fcsrNo_getCore_retiredNext, getCore_modCore, fcsrNo_setX, fcsrNo_csrWrite hn, fcsrRm_fcsrWrite hres]

/-! ### The statement -/

/-- Settles O52: a CSR access completes with the value of `fcsrWrite`, which keeps RM where the result for it is reserved; and each
scalar floating-point and vector instruction is issued under a check that its rounding field fails. -/
theorem reservedRoundingCodesAreRefused : Obligations.ReservedRoundingCodesAreRefused := by
  unfold Obligations.ReservedRoundingCodesAreRefused
  refine ⟨fun s c w => ?_, fun s c n i hr hf hi => ?_⟩
  · have hof (x : CoreSt) : (if ctlBits w 11 0 = 0 then x.fcsrS.toNat else x.fcsrV.toNat) = (fcsrNo (ctlBits w 11 0) x).toNat :=
      (apply_ite BitVec.toNat _ _ _).symm
    simp only [hof]
    refine fun hissues hn hv => ⟨fun hm hres => ?_, fun hm hres => ?_, fun hm hres => ?_⟩
    · exact csr_keeps_rm hissues hm (by decide) hn hv hres
    · exact csr_keeps_rm hissues hm (by decide) hn hv hres
    · rw [← Nat.mod_eq_of_lt (xr (getCore s c) w.rs1).isLt] at hres
      exact csr_keeps_rm hissues hm (by decide) hn hv hres
  · intro w o ho hrm
    have hat := standsAt_of_fetchWord hr hf
    rw [← rmFieldOk_eq_false_iff] at hrm
    rcases ho with ⟨hlo, hhi⟩ | ⟨hlo, hhi⟩
    · exact exec_scalarFloat_stop_of_rm hi hlo hhi hat hrm
    · exact exec_vector_stop_of_rm hi hlo hhi hat hrm

end Sys2Proof.Machine
end

section
/-! SUPPORT. How each core instruction is issued: the fields and values that its encoding is checked for, its guard predicate and
reserved opcodes (08_core_programming.md R246, R247, R249, R287). -/

namespace Sys2Proof.Machine

/-! ### Instructions as `issue` answers them (R246, R247, R287) -/

/-- `r` is what `issue` answers for an instruction of opcode `o` with fields `w`, for some engine and some effect. -/
def IssuedAs (o : Nat) (u : FieldUse) (ok : Bool) (c : Fin 192) (w : CoreWord) (s : State) (r : Res) : Prop :=
  ∃ e body, r = issue o e u ok c w s body

section
variable {o : Nat} {e : Fin 4} {u : FieldUse} {ok : Bool} {c : Fin 192} {w : CoreWord} {s : State} {body : CoreSt → CoreOut}

theorem issuedAs_issue : IssuedAs o u ok c w s (issue o e u ok c w s body) := ⟨e, body, rfl⟩

theorem issuedAs_issueTile {rngs : CoreSt → TileRngs} : IssuedAs o u ok c w s (issueTile o e u ok rngs c w s body) :=
  issuedAs_issue

theorem issuedAs_vIssue {f : VFun} {draws : Bool} : IssuedAs o u (ok && vOk w) c w s (vIssue o u ok f draws c w s) :=
  issuedAs_issueTile

theorem issuedAs_alu {f : BitVec 64 → BitVec 64 → BitVec 64} : IssuedAs o (aluUse 31 1 w) true c w s (alu o f c w s) :=
  issuedAs_issue

theorem issuedAs_fp2 {f : FFmt → FEnv → Nat → Nat → Nat × FFlags} :
    IssuedAs o ⟨31, 31, 31, 0, 0x7F, 0⟩ (fpOk w) c w s (fp2 o f c w s) :=
  issuedAs_issue

theorem natBeq_eq_decide (a b : Nat) : (a == b) = decide (a = b) := by
  rw [Bool.eq_iff_iff, beq_iff_eq, decide_eq_true_iff]

/-- The CSR numbers that are not reserved, as a list (R255). -/
theorem csrKnown_eq (n : Nat) : csrKnown n = decide (n ∈ [0x000, 0x001, 0x010, 0x011, 0x020, 0x021]) := by
  simp only [csrKnown, List.mem_cons, List.not_mem_nil, or_false, Bool.decide_or, natBeq_eq_decide, Bool.or_assoc]

theorem issuedAs_csr {mode : Nat} (h : ctlBits w 13 12 = mode) :
    IssuedAs 0x24 ⟨31, if mode = 0 then 0 else 31, 0, 0, 0x3FFF, 0⟩
      (decide (ctlBits w 11 0 ∈ [0x000, 0x001, 0x010, 0x011, 0x020, 0x021])) c w s (csr mode c w s) := by
  rw [csr, if_neg (not_not_intro h), csrKnown_eq]
  exact issuedAs_issue

theorem issuedAs_execFcvt : IssuedAs 0x30 (fieldsUsed (.fcvt c w)) (valuesOk (.fcvt c w)) c w s (execFcvt c w s) := by
  unfold execFcvt
  exact issuedAs_issue

theorem mmaOk_eq (w : CoreWord) : mmaOk w = valuesOk (.mma c w) := by
  simp only [mmaOk, valuesOk, bne, ne_eq, decide_not, Bool.not_and, Bool.not_not, natBeq_eq_decide]

theorem issuedAs_execMma : IssuedAs 0x40 (fieldsUsed (.mma c w)) (valuesOk (.mma c w)) c w s (execMma c w s) := by
  have hu : fieldsUsed (.mma c w) = ⟨0, if ctlBits w 7 6 = 2 then 0 else 31, 31, 0, 0xFF, 0⟩ :=
    (apply_ite (FieldUse.mk 0 · 31 0 0xFF 0) _ _ _).symm
  rw [execMma, hu, mmaOk_eq]
  exact issuedAs_issueTile

theorem issuedAs_execVquant : IssuedAs 0x60 (fieldsUsed (.vquant c w)) (valuesOk (.vquant c w)) c w s (execVquant c w s) := by
  have hok : valuesOk (.vquant c w) = vquantOk w := by
    simp only [vquantOk, valuesOk, bne, ne_eq, decide_not, natBeq_eq_decide]
  rw [execVquant, hok]
  exact issuedAs_issueTile

end

/-- Every instruction that a word decodes to is issued under the word's opcode, the fields that its row uses and the check of its
values. The cases stand in the order of the opcodes; case 55 is the CSR access, whose mode is in its word (R249, R255). -/
theorem exec_issuedAs {c : Fin 192} {n : Nat} {i : Instr} (hi : coreInstr c n = some i) (s : State) :
    IssuedAs (n / 2 ^ 120) (fieldsUsed i) (valuesOk i) c (coreWordOf n) s (exec i s) := by
  unfold coreInstr at hi
  generalize coreWordOf n = w at *
  generalize n / 2 ^ 120 = o at *
  dsimp only at hi
  split at hi
  case h_55 =>
    split at hi <;> cases hi
    case h_4 h0 h1 h2 =>
      have hlt : ctlBits w 13 12 < 2 ^ 2 := bits_lt _ _ _
      have h3 : ctlBits w 13 12 = 3 := by simp only [imp_false] at h0 h1 h2; omega
      exact issuedAs_csr h3
    all_goals exact issuedAs_csr ‹_›
  all_goals cases hi
  all_goals dsimp only [exec]
  -- integer operations, 0x01 to 0x0A
  iterate 10 exact issuedAs_alu
  -- predicates, loads and stores, control flow and flags, 0x10 to 0x22
  iterate 12 exact issuedAs_issue
  -- scalar floating point, 0x28 to 0x30
  iterate 3 exact issuedAs_fp2
  · exact issuedAs_issue
  · exact issuedAs_fp2
  iterate 3 exact issuedAs_issue
  · exact issuedAs_execFcvt
  -- matrix and vector instructions, 0x40 to 0x60
  · exact issuedAs_execMma
  iterate 6 exact issuedAs_issueTile
  iterate 13 exact issuedAs_vIssue
  · exact issuedAs_execVquant
  -- DMA and WAITD
  iterate 2 exact issuedAs_issue

/-! ### Reserved opcodes (R249) -/

theorem opcKnown_of_coreInstr {c : Fin 192} {n : Nat} {i : Instr} (h : coreInstr c n = some i) : opcKnown (n / 2 ^ 120) = true := by
  unfold coreInstr at h
  generalize n / 2 ^ 120 = o at *
  dsimp only at h
  split at h
  case h_56 => cases h
  all_goals rfl

theorem opcKnown_eq_false_of_coreInstr {c : Fin 192} {n : Nat} (h : coreInstr c n = none) : opcKnown (n / 2 ^ 120) = false := by
  unfold coreInstr at h
  generalize n / 2 ^ 120 = o at *
  dsimp only at h
  split at h
  case h_55 => split at h <;> cases h
  case h_56 =>
    simp only [imp_false] at *
    simp only [opcKnown, Bool.or_eq_false_iff, Bool.and_eq_false_iff, decide_eq_false_iff_not, beq_eq_false_iff_ne]
    omega
  all_goals cases h

section
variable {o : Nat} {u : FieldUse} {ok : Bool} {c : Fin 192} {w : CoreWord} {s : State} {r : Res}

/-- A word whose opcode is reserved stops the core, whatever instruction is asked for (R249). -/
theorem IssuedAs.stop_of_reserved {n : Nat} (h : IssuedAs o u ok c w s r) (hr : coreRuns s c = true)
    (hf : fetchWord s c = .word n) (hn : opcKnown (n / 2 ^ 120) = false) : r = .next (stopCore s c 1 0) := by
  obtain ⟨e, body, rfl⟩ := h
  simp only [issue, hr, hf, hn, Bool.not_true, Bool.not_false, Bool.false_eq_true, if_false, if_true]

/-- An instruction with an unused field that is not zero, or a reserved value in one that it uses, stops its core, whatever its
guard predicate (R246, R287). -/
theorem IssuedAs.stop_of_invalid (h : IssuedAs o u ok c w s r) (hat : StandsAt s c o w)
    (hbad : fieldsOk u w = false ∨ ok = false) : r = .next (stopCore s c 1 0) := by
  obtain ⟨e, body, rfl⟩ := h
  obtain hu | hok := hbad
  · simp [issue, hat.runs, hat.word, hu]
  · exact issue_stop_of_not_ok hat hok

/-- An instruction with a valid encoding whose guard predicate is off moves the program counter on (R247). -/
theorem IssuedAs.skip (h : IssuedAs o u ok c w s r) (hat : StandsAt s c o w) (hk : opcKnown o = true) (hu : fieldsOk u w = true)
    (hok : ok = true) (hp : pr (getCore s c) w.pred = w.pneg) :
    r = .next (modCore (fetchMet s c) c fun x => { x with pc := x.pc + 16 }) := by
  obtain ⟨e, body, rfl⟩ := h
  simp only [issue, hat.runs, hat.word, wordBits_opc, hk, hu, hok, hp, beq_self_eq_true, ne_eq, Bool.and_true, Bool.not_true,
    Bool.false_eq_true, not_true_eq_false, if_false, if_true]

end

/-! ### The statement -/

/-- Settles O50: every instruction that a word decodes to is answered by `issue`, under the fields that its row uses and the check
of its values, and a word that decodes to none has a reserved opcode. -/
theorem guardPredicateAndEncodingAreChecked : Obligations.GuardPredicateAndEncodingAreChecked := by
  unfold Obligations.GuardPredicateAndEncodingAreChecked
  intro s c n hr hf
  refine ⟨fun i hi => ?_, fun i m hn hi => ?_⟩
  · have hissued := exec_issuedAs hi s
    have hat := standsAt_of_fetchWord hr hf
    exact ⟨hissued.stop_of_invalid hat, hissued.skip hat (opcKnown_of_coreInstr hi)⟩
  · exact (exec_issuedAs hi s).stop_of_reserved hr hf (opcKnown_eq_false_of_coreInstr hn)

end Sys2Proof.Machine
end

section
/-! SUPPORT. What a core instruction leaves that completes: memory and its core's registers, the lanes of a vector result and
the flags that they raise (08_core_programming.md R243, R244, R248, R264; 03_number_formats.md R79, R110). -/

namespace Sys2Proof.Machine

/-- `t` is `s` but for the cores, the clusters' traces and the record of errors that reads meet. -/
def ApartFromCores (s t : State) : Prop :=
  ∃ cores clusters ecc, t = { s with cores := cores, clusters := clusters, ecc := ecc }

namespace ApartFromCores

theorem refl (s : State) : ApartFromCores s s := ⟨s.cores, s.clusters, s.ecc, rfl⟩

theorem trans {a b c : State} (h : ApartFromCores a b) (k : ApartFromCores b c) : ApartFromCores a c := by
  obtain ⟨_, _, _, rfl⟩ := h
  obtain ⟨cores, clusters, ecc, rfl⟩ := k
  exact ⟨cores, clusters, ecc, rfl⟩

theorem readByte {s t : State} (h : ApartFromCores s t) (a : Nat) : Machine.readByte t a = Machine.readByte s a := by
  obtain ⟨_, _, _, rfl⟩ := h
  rfl

end ApartFromCores

theorem apartFromCores_modCore (s : State) (c : Fin 192) (f : CoreSt → CoreSt) : ApartFromCores s (modCore s c f) :=
  ⟨_, _, _, rfl⟩

theorem apartFromCores_traceCore (s : State) (c : Fin 192) (etype typ data : Nat) :
    ApartFromCores s (traceCore s c etype typ data) := by
  unfold traceCore
  dsimp only
  split <;> exact ⟨_, _, _, rfl⟩

theorem apartFromCores_demand (s : State) (a n : Nat) : ApartFromCores s (demand s a n) := by
  obtain ⟨ecc, h⟩ := demand_eq s a n
  exact ⟨s.cores, s.clusters, ecc, h⟩

theorem apartFromCores_fetchMet (s : State) (c : Fin 192) : ApartFromCores s (fetchMet s c) := by
  unfold fetchMet
  dsimp only
  split
  · exact .refl s
  · split
    · exact apartFromCores_demand ..
    · exact .refl s

theorem apartFromCores_retire (s : State) (c : Fin 192) (e : Fin 4) (opc off : Nat) : ApartFromCores s (retire s c e opc off) := by
  have hcount (t : State) : ApartFromCores t (if e = 3 then t else countInstr t c e) := by
    split
    · exact .refl t
    · exact apartFromCores_modCore ..
  have hrebind : ApartFromCores s (if e = 0 then dropRebind s c else s) := by
    split
    · exact apartFromCores_modCore ..
    · exact .refl s
  exact ((hrebind.trans (apartFromCores_fetchMet ..)).trans (apartFromCores_traceCore ..)).trans
    ((hcount _).trans (apartFromCores_traceCore ..))

/-- Completing changes no byte of memory. -/
theorem readByte_retiredNext (s t : State) (c : Fin 192) (e : Fin 4) (opc a : Nat) :
    readByte (retiredNext s t c e opc) a = readByte t a :=
  ((apartFromCores_retire ..).trans (apartFromCores_modCore ..)).readByte a

theorem readNat_retiredNext (s t : State) (c : Fin 192) (e : Fin 4) (opc a n : Nat) :
    readNat (retiredNext s t c e opc) a n = readNat t a n := by
  simp only [readNat, readBytes, readByte_retiredNext]

/-- Completing changes of its core the program counter, the counts and the rebinding owed to the next chain alone. -/
theorem getCore_retiredNext (s t : State) (c : Fin 192) (e : Fin 4) (opc : Nat) :
    ∃ pc counts rebind, getCore (retiredNext s t c e opc) c
      = { getCore t c with pc := pc, counts := counts, rebind := rebind } := by
  rw [retiredNext, getCore_modCore, retire, completed, getCore_traceCore]
  have hcount (u : State) : ∃ counts,
      getCore (if e = 3 then u else countInstr u c e) c = { getCore u c with counts := counts } := by
    split
    · exact ⟨_, rfl⟩
    · exact ⟨_, getCore_modCore ..⟩
  have hrebind : ∃ rebind, getCore (if e = 0 then dropRebind t c else t) c = { getCore t c with rebind := rebind } := by
    split
    · exact ⟨_, getCore_modCore ..⟩
    · exact ⟨_, rfl⟩
  obtain ⟨rebind, hr⟩ := hrebind
  obtain ⟨counts, hc⟩ := hcount (traceIssue (if e = 0 then dropRebind t c else t) c e opc (pcOffset (getCore s c)))
  rw [hc, getCore_traceIssue, hr]
  exact ⟨_, _, _, rfl⟩

section
variable (s t : State) (c : Fin 192) (e : Fin 4) (opc : Nat)

@[simp] theorem xr_getCore_retiredNext (r : Fin 32) : xr (getCore (retiredNext s t c e opc) c) r = xr (getCore t c) r := by
  obtain ⟨_, _, _, h⟩ := getCore_retiredNext s t c e opc
  rw [h]
  rfl

@[simp] theorem pr_getCore_retiredNext (r : Fin 8) : pr (getCore (retiredNext s t c e opc) c) r = pr (getCore t c) r := by
  obtain ⟨_, _, _, h⟩ := getCore_retiredNext s t c e opc
  rw [h]
  rfl

@[simp] theorem vr_getCore_retiredNext (r : Fin 32) : vr (getCore (retiredNext s t c e opc) c) r = vr (getCore t c) r := by
  obtain ⟨_, _, _, h⟩ := getCore_retiredNext s t c e opc
  rw [h]
  rfl

@[simp] theorem fcsrS_getCore_retiredNext : (getCore (retiredNext s t c e opc) c).fcsrS = (getCore t c).fcsrS :=
  fcsrNo_getCore_retiredNext 0 s t c e opc

@[simp] theorem fcsrV_getCore_retiredNext : (getCore (retiredNext s t c e opc) c).fcsrV = (getCore t c).fcsrV :=
  fcsrNo_getCore_retiredNext 1 s t c e opc

end

/-! ### Elements of bit strings (R79) -/

theorem elemAt_eq (w s i : Nat) : elemAt w s i = s / 2 ^ (w * i) % 2 ^ w := by rw [elemAt, Nat.shiftRight_eq_div_pow]

theorem elemAt_lt (w s i : Nat) : elemAt w s i < 2 ^ w := Nat.mod_lt _ (Nat.two_pow_pos w)

theorem elemAt_zero (w s : Nat) : elemAt w s 0 = s % 2 ^ w := by rw [elemAt_eq, Nat.mul_zero, Nat.pow_zero, Nat.div_one]

theorem elemAt_succ (w s i : Nat) : elemAt w s (i + 1) = elemAt w (s / 2 ^ w) i := by
  rw [elemAt_eq, elemAt_eq, Nat.div_div_eq_div_mul, ← Nat.pow_add, Nat.mul_succ, Nat.add_comm]

/-- Bits beyond an element do not matter to it. -/
theorem elemAt_mod_two_pow {w s i m : Nat} (h : w * (i + 1) ≤ m) : elemAt w (s % 2 ^ m) i = elemAt w s i := by
  have hm : m = w * i + (m - w * i) := by rw [Nat.mul_succ] at h; omega
  have hw : w ≤ m - w * i := by rw [Nat.mul_succ] at h; omega
  rw [elemAt_eq, elemAt_eq, hm, Nat.pow_add, Nat.mod_mul_right_div_self, Nat.mod_mod_of_dvd _ (Nat.pow_dvd_pow 2 hw)]

theorem elemAt_packElems (w : Nat) (xs : List Nat) (i : Nat) : elemAt w (packElems w xs) i = xs.getD i 0 % 2 ^ w := by
  induction xs generalizing i with
  | nil => simp [packElems, elemAt_eq]
  | cons x xs ih =>
    have hpos := Nat.two_pow_pos w
    cases i with
    | zero => rw [elemAt_zero, packElems, Nat.add_mul_mod_self_left, Nat.mod_mod]; rfl
    | succ i =>
      rw [elemAt_succ, packElems, Nat.add_mul_div_left _ _ hpos, Nat.div_eq_of_lt (Nat.mod_lt _ hpos), Nat.zero_add, ih]
      rfl

/-! ### Lanes of a v register (R248, R264) -/

theorem typeBits_mul_typeLanes_le (t : Nat) : typeBits t * typeLanes t ≤ 2048 := by
  unfold typeLanes
  split
  · exact Nat.mul_div_le 2048 (typeBits t)
  · simp

theorem elemAt_ofNat {n w i : Nat} (v : Nat) (h : w * (i + 1) ≤ n) : elemAt w (BitVec.ofNat n v).toNat i = elemAt w v i := by
  rw [BitVec.toNat_ofNat, elemAt_mod_two_pow h]

/-- A lane of a register value written to a v register. -/
theorem lane_ofNat {t i : Nat} (v : Nat) (hi : i < typeLanes t) : lane t (BitVec.ofNat 2048 v).toNat i = lane t v i :=
  elemAt_ofNat v (Nat.le_trans (Nat.mul_le_mul_left _ hi) (typeBits_mul_typeLanes_le t))

/-- A lane of a vector result: an active one has its element, one above keeps what it had. -/
theorem lane_vLanes {t i : Nat} (n old : Nat) (f : Nat → Nat × FFlags) (hi : i < typeLanes t) :
    lane t (vLanes t n old f).1 i = if i < n then (f i).1 % 2 ^ typeBits t else lane t old i := by
  have hget : (((List.range (typeLanes t)).map fun i => if i < n then f i else (lane t old i, 0)).map (·.1)).getD i 0
      = if i < n then (f i).1 else lane t old i := by
    rw [List.getD_eq_getElem?_getD]
    simp only [List.map_map, List.getElem?_map, List.getElem?_range hi, Option.map_some, Option.getD_some, Function.comp_apply]
    exact apply_ite Prod.fst _ _ _
  rw [lane, vLanes, ofLanes, elemAt_packElems, hget]
  split
  · rfl
  · exact Nat.mod_eq_of_lt (elemAt_lt ..)

/-! ### Flags (R110) -/

theorem flagIf_or (a b : Bool) (fl : FFlags) : flagIf a fl ||| flagIf b fl = flagIf (a || b) fl := by
  cases a <;> cases b <;> simp [flagIf]

/-- Lanes that each raise one flag or nothing raise it together where one does. -/
theorem joinFlags_map_flagIf {α : Type} (xs : List α) (b : α → Bool) (fl : FFlags) :
    joinFlags (xs.map fun x => flagIf (b x) fl) = flagIf (xs.any b) fl := by
  have hfold (a : Bool) : (xs.map fun x => flagIf (b x) fl).foldl (· ||| ·) (flagIf a fl) = flagIf (a || xs.any b) fl := by
    induction xs generalizing a with
    | nil => simp
    | cons x xs ih => rw [List.map_cons, List.foldl_cons, flagIf_or, ih, List.any_cons, Bool.or_assoc]
  exact hfold false

/-- A vector result raises a flag that some active lane raises, where no lane raises another. -/
theorem vLanes_flags {t n old : Nat} {f : Nat → Nat × FFlags} {b : Nat → Bool} {fl : FFlags}
    (h : ∀ i, i < n → (f i).2 = flagIf (b i) fl) (hn : n ≤ typeLanes t) :
    (vLanes t n old f).2 = flagIf ((List.range n).any b) fl := by
  have hlanes : ((List.range (typeLanes t)).map fun i => if i < n then f i else (lane t old i, 0)).map (·.2)
      = (List.range (typeLanes t)).map fun i => flagIf (decide (i < n) && b i) fl := by
    rw [List.map_map]
    refine List.map_congr_left fun i _ => ?_
    by_cases hi : i < n
    · simp [hi, h i hi]
    · simp [hi, flagIf]
  have hany : ((List.range (typeLanes t)).any fun i => decide (i < n) && b i) = (List.range n).any b := by
    rw [Bool.eq_iff_iff]
    simp only [List.any_eq_true, List.mem_range, Bool.and_eq_true, decide_eq_true_eq]
    exact ⟨fun ⟨i, _, hi, hb⟩ => ⟨i, hi, hb⟩, fun ⟨i, hi, hb⟩ => ⟨i, Nat.lt_of_lt_of_le hi hn, hi, hb⟩⟩
  rw [vLanes, hlanes, joinFlags_map_flagIf, hany]

/-- A vector result raises no flag where no active lane does. -/
theorem vLanes_no_flags {t n old : Nat} {f : Nat → Nat × FFlags} (h : ∀ i, (f i).2 = 0) (hn : n ≤ typeLanes t) :
    (vLanes t n old f).2 = 0 := by
  have hall := vLanes_flags (old := old) (b := fun _ => false) (fl := flagNV) (fun i _ => h i) hn
  rw [hall, List.any_eq_false.mpr fun _ _ => Bool.false_ne_true]
  rfl

@[simp] theorem raise_zero (f : BitVec 32) : raise f 0 = f := by simp [raise]

theorem raise_flagIf_nv (f : BitVec 32) (b : Bool) : raise f (flagIf b flagNV) = if b then f ||| 0x10 else f := by
  cases b
  · exact raise_zero f
  · rfl

/-! ### Vector instructions that start (R264) -/

theorem standsAt_of_issues {s : State} {c : Fin 192} {o : Nat} {u : FieldUse} {w : CoreWord} (h : Issues s c o u w) :
    StandsAt s c o w := by
  obtain ⟨hr, hf, -, -⟩ := h
  refine ⟨hr, ?_⟩
  cases hw : fetchWord s c with
  | word n =>
    rw [hw] at hf
    rw [hf]
  | fault r a => rw [hw] at hf; exact hf.elim
  | wait => rw [hw] at hf; exact hf.elim

@[simp] theorem vr_setV_same (x : CoreSt) (r : Fin 32) (v : Nat) : vr (setV x r v) r = (BitVec.ofNat 2048 v).toNat :=
  congrArg BitVec.toNat (Vector.getElem_set_self ..)

theorem vActive_le {w : CoreWord} (h : vOk w = true) : vActive w ≤ typeLanes (vType w) := by
  simp only [vOk, Bool.and_eq_true, decide_eq_true_eq] at h
  unfold vActive
  split
  · exact Nat.le_refl _
  · exact h.2

/-- What an instruction of a core leaves that writes a vector result: the result in v[RD], its flags raised in FCSR of the vector
engine, and FCSR of the scalar engine as it was. -/
structure VectorWrites (s t : State) (c : Fin 192) (w : CoreWord) (r : Nat × FFlags) : Prop where
  reg : vr (getCore t c) w.rd = (BitVec.ofNat 2048 r.1).toNat
  fcsrV : (getCore t c).fcsrV = raise (getCore s c).fcsrV r.2
  fcsrS : (getCore t c).fcsrS = (getCore s c).fcsrS

theorem vectorWrites_retiredNext {s s' : State} {c : Fin 192} (hc : getCore s' c = getCore s c) (w : CoreWord)
    (r : Nat × FFlags) (e : Fin 4) (o : Nat) : VectorWrites s (retiredNext s (vWrite s' c w r) c e o) c w r := by
  refine ⟨?_, ?_, ?_⟩
  · rw [vr_getCore_retiredNext, vWrite, getCore_modCore, vr_setV_same]
  · rw [fcsrV_getCore_retiredNext, vWrite, getCore_modCore, hc]
    rfl
  · rw [fcsrS_getCore_retiredNext, vWrite, getCore_modCore, hc]
    rfl

/-- A vector instruction on registers alone that starts completes with the result of its function, for some free value. -/
theorem vIssue_completes {s : State} {c : Fin 192} {o : Nat} {u : FieldUse} {ok : Bool} {f : VFun} {draws : Bool} {w : CoreWord}
    (h : Starts s c 1 o u w) (hk : opcKnown o = true) (hok : (ok && vOk w) = true) :
    ∃ t d, vIssue o u ok f draws c w s = .next t ∧ VectorWrites s t c w (f w (getCore s c) d) := by
  have hcore : getCore (if draws then drawFree s else (0, s)).2 c = getCore s c := by cases draws <;> rfl
  exact ⟨_, _, issueTile_done h hk hok rfl, vectorWrites_retiredNext hcore ..⟩

/-- A lane of the result. -/
theorem VectorWrites.lane {s t : State} {c : Fin 192} {w : CoreWord} {r : Nat × FFlags} (h : VectorWrites s t c w r) {ty i : Nat}
    (hi : i < typeLanes ty) : Machine.lane ty (vr (getCore t c) w.rd) i = Machine.lane ty r.1 i := by
  rw [h.reg, lane_ofNat _ hi]

end Sys2Proof.Machine
end

section
/-! SUPPORT. Integer arithmetic on x registers and on I32 lanes wraps and raises no flag (08_core_programming.md R251, R267). -/

namespace Sys2Proof.Machine

/-! ### I32 lanes as integers (R251) -/

theorem i32_emod (a : Nat) : i32 a % 2 ^ 32 = a % 2 ^ 32 := by
  simp only [i32, sext]
  split <;> omega

theorem ofI32_of_emod {x : Int} {n : Nat} (h : x % 2 ^ 32 = n % 2 ^ 32) : ofI32 x = n % 2 ^ 32 := by
  have hx : x % 2 ^ 32 = ((n % 2 ^ 32 : Nat) : Int) := h
  change (x % 2 ^ 32).toNat = n % 2 ^ 32
  rw [hx, Int.toNat_natCast]

theorem ofI32_add (a b : Nat) : ofI32 (i32 a + i32 b) = (a + b) % 2 ^ 32 :=
  ofI32_of_emod (by rw [Int.add_emod, i32_emod, i32_emod, ← Int.add_emod, Int.natCast_add])

theorem ofI32_mul (a b : Nat) : ofI32 (i32 a * i32 b) = a * b % 2 ^ 32 :=
  ofI32_of_emod (by rw [Int.mul_emod, i32_emod, i32_emod, ← Int.mul_emod, Int.natCast_mul])

theorem ofI32_fma (a b d : Nat) : ofI32 (i32 a * i32 b + i32 d) = (a * b + d) % 2 ^ 32 :=
  ofI32_of_emod (by
    rw [Int.add_emod, Int.mul_emod, i32_emod, i32_emod, i32_emod, ← Int.mul_emod, ← Int.add_emod, Int.natCast_add,
      Int.natCast_mul])

theorem ofI32_sub (a : Nat) {b : Nat} (hb : b ≤ 2 ^ 32) : ofI32 (i32 a - i32 b) = (a + (2 ^ 32 - b)) % 2 ^ 32 := by
  refine ofI32_of_emod ?_
  rw [Int.sub_emod, i32_emod, i32_emod, ← Int.sub_emod]
  omega

theorem laneOp_int {t : Nat} (h : t = 4) (env : FEnv) (f : FFmt → FEnv → Nat → Nat → Nat × FFlags)
    (g : Int → Int → Int) (a b : Nat) : laneOp t env f g a b = (ofI32 (g (i32 a) (i32 b)), 0) := if_pos h

/-! ### Vector instructions on I32 lanes (R251) -/

/-- Both FCSRs of a core are as they were. -/
def FcsrsKept (s t : State) (c : Fin 192) : Prop :=
  (getCore t c).fcsrS = (getCore s c).fcsrS ∧ (getCore t c).fcsrV = (getCore s c).fcsrV

theorem VectorWrites.fcsrsKept {s t : State} {c : Fin 192} {w : CoreWord} {r : Nat × FFlags} (h : VectorWrites s t c w r)
    (hr : r.2 = 0) : FcsrsKept s t c :=
  ⟨h.fcsrS, by rw [h.fcsrV, hr, raise_zero]⟩

section
variable {s : State} {c : Fin 192} {w : CoreWord} {o : Nat} {u : FieldUse} {f : VFun} {draws : Bool}

theorem vArith_int (hty : vType w = 4) (hv : vOk w = true) : (vArith (vType w) && vOk w) = true := by rw [hty, hv]; rfl

/-- A vector instruction on I32 lanes whose lanes raise no flag completes with them and leaves both FCSRs. -/
theorem vIssue_int_lanes (h : Starts s c 1 o u w) (hk : opcKnown o = true) (hty : vType w = 4) (hv : vOk w = true)
    {g : Nat → Nat → Nat × FFlags}
    (hf : ∀ d, f w (getCore s c) d = vLanes (vType w) (vActive w) (vr (getCore s c) w.rd) (g d)) (hg : ∀ d i, (g d i).2 = 0) :
    ∃ t d, vIssue o u (vArith (vType w)) f draws c w s = .next t ∧ FcsrsKept s t c
      ∧ ∀ i, i < vActive w → elemAt 32 (vr (getCore t c) w.rd) i = (g d i).1 % 2 ^ 32 := by
  obtain ⟨t, d, ht, hw⟩ := vIssue_completes (f := f) (draws := draws) h hk (vArith_int hty hv)
  rw [hf] at hw
  refine ⟨t, d, ht, hw.fcsrsKept (vLanes_no_flags (hg d) (vActive_le hv)), fun i hi => ?_⟩
  have hlane := hw.lane (Nat.lt_of_lt_of_le hi (vActive_le hv))
  rw [lane_vLanes _ _ _ (Nat.lt_of_lt_of_le hi (vActive_le hv)), if_pos hi, hty] at hlane
  exact hlane

/-- An instruction's answer on I32 lanes: both FCSRs kept, and each active lane a value that wraps (R251). -/
def IntLanes (s : State) (c : Fin 192) (w : CoreWord) (r : Res) (v : Nat → Nat) : Prop :=
  ∃ t, r = .next t ∧ FcsrsKept s t c ∧ ∀ i, i < vActive w → elemAt 32 (vr (getCore t c) w.rd) i = v i % 2 ^ 32

theorem intLanes_of_vLane (h : Starts s c 1 o u w) (hk : opcKnown o = true) (hty : vType w = 4) (hv : vOk w = true)
    {g : CoreWord → CoreSt → FEnv → Nat → Nat × FFlags} {v : Nat → Nat}
    (hg : ∀ i, g w (getCore s c) (vEnv (getCore s c) w) i = (v i % 2 ^ 32, 0)) :
    IntLanes s c w (vIssue o u (vArith (vType w)) (vLane g) draws c w s) v := by
  obtain ⟨t, _, ht, hq, hl⟩ := vIssue_int_lanes (f := vLane g) (draws := draws) h hk hty hv (fun _ => rfl)
    fun _ i => by rw [hg]
  exact ⟨t, ht, hq, fun i hi => by rw [hl i hi, hg, Nat.mod_mod]⟩

theorem src_int (hty : vType w = 4) (x : CoreSt) (r : Fin 32) (i : Nat) : lane (vType w) (vr x r) i = elemAt 32 (vr x r) i := by
  rw [hty]
  rfl

end

section
variable {s : State} {c : Fin 192} {w : CoreWord} (hty : vType w = 4) (hv : vOk w = true)
include hty hv

theorem vadd_int (h : Starts s c 1 0x53 (use2 0x7FFF) w) : IntLanes s c w (exec (.vadd c w) s) fun i =>
    elemAt 32 (vr (getCore s c) w.rs1) i + elemAt 32 (vr (getCore s c) w.rs2) i :=
  intLanes_of_vLane h rfl hty hv fun i => by
    rw [laneAdd, laneOp_int hty, ofI32_add, src1, src2, src_int hty, src_int hty]

theorem vsub_int (h : Starts s c 1 0x54 (use2 0x7FFF) w) : IntLanes s c w (exec (.vsub c w) s) fun i =>
    elemAt 32 (vr (getCore s c) w.rs1) i + (2 ^ 32 - elemAt 32 (vr (getCore s c) w.rs2) i) :=
  intLanes_of_vLane h rfl hty hv fun i => by
    rw [laneOp_int hty, src1, src2, src_int hty, src_int hty, ofI32_sub _ (Nat.le_of_lt (elemAt_lt ..))]

theorem vmul_int (h : Starts s c 1 0x55 (use2 0x7FFF) w) : IntLanes s c w (exec (.vmul c w) s) fun i =>
    elemAt 32 (vr (getCore s c) w.rs1) i * elemAt 32 (vr (getCore s c) w.rs2) i :=
  intLanes_of_vLane h rfl hty hv fun i => by
    rw [laneOp_int hty, ofI32_mul, src1, src2, src_int hty, src_int hty]

theorem vfma_int (h : Starts s c 1 0x56 (use3 0x7FFF) w) : IntLanes s c w (exec (.vfma c w) s) fun i =>
    elemAt 32 (vr (getCore s c) w.rs1) i * elemAt 32 (vr (getCore s c) w.rs2) i + elemAt 32 (vr (getCore s c) w.rs3) i :=
  intLanes_of_vLane h rfl hty hv fun i => by
    rw [if_pos hty, ofI32_fma, src1, src2, src3, src_int hty, src_int hty, src_int hty]

theorem vdiv_int (h : Starts s c 1 0x57 (use2 0x7FFF) w) : ∃ t, exec (.vdiv c w) s = .next t ∧ FcsrsKept s t c := by
  obtain ⟨t, _, ht, hq, _⟩ := vIssue_int_lanes (f := vdivFn) (draws := vType w = 4) h rfl hty hv (fun _ => rfl)
    fun _ i => by rw [if_pos hty]
  exact ⟨t, ht, hq⟩

theorem vsqrt_int (h : Starts s c 1 0x58 (use1 0x7FFF) w) : ∃ t, exec (.vsqrt c w) s = .next t ∧ FcsrsKept s t c := by
  obtain ⟨t, _, ht, hq, _⟩ := vIssue_int_lanes (f := vsqrtFn) (draws := vType w = 4) h rfl hty hv (fun _ => rfl)
    fun _ i => by rw [if_pos hty]
  exact ⟨t, ht, hq⟩

theorem vminmax_int (h : Starts s c 1 0x59 (use2 0xFFFF) w) : ∃ t, exec (.vminmax c w) s = .next t ∧ FcsrsKept s t c := by
  obtain ⟨t, _, ht, hq, _⟩ := vIssue_int_lanes (f := vminmaxFn) (draws := false) h rfl hty hv (fun _ => rfl)
    fun _ i => congrArg Prod.snd (laneOp_int hty ..)
  exact ⟨t, ht, hq⟩

end

/-! ### The tree of a reduction (R267) -/

section
variable {op : Nat → Nat → Nat × FFlags} (hop : ∀ a b, (op a b).2 = 0)
include hop

/-- A tree of combinations that raise no flag raises none. -/
theorem redLevel_no_flags (xs : List (Nat × FFlags)) (h : ∀ x ∈ xs, x.2 = 0) : ∀ x ∈ redLevel op xs, x.2 = 0 := by
  induction xs using redLevel.induct op with
  | case1 a b xs ih =>
    simp only [List.forall_mem_cons] at h
    obtain ⟨ha, hb, hxs⟩ := h
    rw [redLevel, List.forall_mem_cons]
    exact ⟨by simp [ha, hb, hop], ih hxs⟩
  | case2 xs hshort =>
    rw [redLevel]
    · exact h
    · exact hshort

theorem redTree_no_flags (n : Nat) (xs : List (Nat × FFlags)) (h : ∀ x ∈ xs, x.2 = 0) :
    ∀ x ∈ redTree op n xs, x.2 = 0 := by
  induction n generalizing xs with
  | zero => exact h
  | succ n ih =>
    rw [redTree]
    split
    · exact h
    · exact ih _ (redLevel_no_flags hop xs h)

end

theorem length_redLevel (op : Nat → Nat → Nat × FFlags) (xs : List (Nat × FFlags)) :
    (redLevel op xs).length = (xs.length + 1) / 2 := by
  induction xs using redLevel.induct op with
  | case1 a b xs ih => simp only [redLevel, List.length_cons, ih]; omega
  | case2 xs hshort =>
    match xs, hshort with
    | [], _ => rfl
    | [_], _ => simp [redLevel]
    | a :: b :: xs, hshort => exact (hshort a b xs rfl).elim

/-- A tree of height `n` over at most 2 ^ n lanes leaves one result. -/
theorem length_redTree (op : Nat → Nat → Nat × FFlags) (n : Nat) (xs : List (Nat × FFlags)) (hpos : xs ≠ [])
    (h : xs.length ≤ 2 ^ n) : (redTree op n xs).length = 1 := by
  induction n generalizing xs with
  | zero => exact Nat.le_antisymm h (List.length_pos_iff.mpr hpos)
  | succ n ih =>
    have hlen := List.length_pos_iff.mpr hpos
    rw [redTree]
    split
    · omega
    · have hl := length_redLevel op xs
      refine ih _ (List.length_pos_iff.mp (by omega)) ?_
      rw [Nat.pow_succ] at h
      omega

/-- Pairwise sums that wrap keep the wrapped sum of all. -/
theorem sum_redLevel {op : Nat → Nat → Nat × FFlags} {m : Nat} (hop : ∀ a b, (op a b).1 = (a + b) % m)
    (xs : List (Nat × FFlags)) : ((redLevel op xs).map (·.1)).sum % m = (xs.map (·.1)).sum % m := by
  induction xs using redLevel.induct op with
  | case1 a b xs ih =>
    simp only [redLevel, List.map_cons, List.sum_cons, hop, ← Nat.add_assoc]
    rw [Nat.mod_add_mod, Nat.add_mod, ih, ← Nat.add_mod]
  | case2 xs hshort =>
    rw [redLevel]
    exact hshort

theorem sum_redTree {op : Nat → Nat → Nat × FFlags} {m : Nat} (hop : ∀ a b, (op a b).1 = (a + b) % m) (n : Nat)
    (xs : List (Nat × FFlags)) : ((redTree op n xs).map (·.1)).sum % m = (xs.map (·.1)).sum % m := by
  induction n generalizing xs with
  | zero => rfl
  | succ n ih =>
    rw [redTree]
    split
    · rfl
    · exact (ih _).trans (sum_redLevel hop xs)

/-- Its result: the wrapped sum of all lanes. -/
theorem headD_redTree_mod {op : Nat → Nat → Nat × FFlags} {m : Nat} (hop : ∀ a b, (op a b).1 = (a + b) % m) {n : Nat}
    {xs : List (Nat × FFlags)} (hpos : xs ≠ []) (h : xs.length ≤ 2 ^ n) (d : Nat × FFlags) :
    ((redTree op n xs).headD d).1 % m = (xs.map (·.1)).sum % m := by
  obtain ⟨y, hy⟩ := List.length_eq_one_iff.mp (length_redTree op n xs hpos h)
  have hsum := sum_redTree hop n xs
  rw [hy, List.map_singleton, List.sum_singleton] at hsum
  rw [hy]
  exact hsum

theorem redOp_int_no_flags {t : Nat} (ht : t = 4) (red : Nat) (env : FEnv) (a b : Nat) : (redOp t red env a b).2 = 0 := by
  unfold redOp
  split
  · rw [laneAdd, laneOp_int ht]
  · rw [laneMinMax, laneOp_int ht]
  · rw [laneMinMax, laneOp_int ht]

theorem redOp_int_sum {t : Nat} (ht : t = 4) (env : FEnv) (a b : Nat) : (redOp t 0 env a b).1 = (a + b) % 2 ^ 32 := by
  rw [redOp, laneAdd, laneOp_int ht, ofI32_add]

section
variable {w : CoreWord} {x : CoreSt} {d : Nat}

theorem vredFn_int_no_flags (hty : vType w = 4) : (vredFn w x d).2 = 0 := by
  have hall := redTree_no_flags (redOp_int_no_flags hty (ctlBits w 16 15) (vEnv x w)) 8
    ((List.range (vActive w)).map fun i => (src1 x w i, 0)) (by simp)
  rw [vredFn]
  cases hy : redTree (redOp (vType w) (ctlBits w 16 15) (vEnv x w)) 8 ((List.range (vActive w)).map fun i => (src1 x w i, 0)) with
  | nil => rfl
  | cons y ys => exact hall y (by rw [hy]; exact List.mem_cons_self)

theorem vActive_pos (hty : vType w = 4) : 0 < vActive w := by
  unfold vActive
  rw [hty]
  split
  · decide
  · omega

theorem vredFn_int_sum (hty : vType w = 4) (hv : vOk w = true) (hred : ctlBits w 16 15 = 0) :
    (vredFn w x d).1 % 2 ^ 32 = ((List.range (vActive w)).map (src1 x w)).sum % 2 ^ 32 := by
  have hle : vActive w ≤ 64 := Nat.le_trans (vActive_le hv) (Nat.le_of_eq (congrArg typeLanes hty))
  have hpos := vActive_pos hty
  have hsum := headD_redTree_mod (redOp_int_sum hty (vEnv x w)) (n := 8)
    (xs := (List.range (vActive w)).map fun i => (src1 x w i, 0)) (by simp; omega) (by simp; omega) (0, 0)
  rw [List.map_map] at hsum
  rw [vredFn, hred]
  exact hsum

end

theorem vred_int {s : State} {c : Fin 192} {w : CoreWord} (hty : vType w = 4) (hv : vOk w = true)
    (h : Starts s c 1 0x5F (use1 0x1FFFF) w) (hred : ctlBits w 16 15 ≤ 2) :
    ∃ t, exec (.vred c w) s = .next t ∧ FcsrsKept s t c ∧ (ctlBits w 16 15 = 0 →
      elemAt 32 (vr (getCore t c) w.rd) 0 = ((List.range (vActive w)).map (elemAt 32 (vr (getCore s c) w.rs1))).sum % 2 ^ 32) := by
  have hok : ((vArith (vType w) && decide (ctlBits w 16 15 ≤ 2)) && vOk w) = true := by simp [hty, hv, hred, vArith]
  obtain ⟨t, d, ht, hw⟩ := vIssue_completes (f := vredFn) (draws := false) h rfl hok
  have hlane := hw.lane (ty := 4) (i := 0) (by decide)
  refine ⟨t, ht, hw.fcsrsKept (vredFn_int_no_flags hty), fun h0 => ?_⟩
  have hsum := vredFn_int_sum (x := getCore s c) (d := d) hty hv h0
  have hsrc : src1 (getCore s c) w = elemAt 32 (vr (getCore s c) w.rs1) := funext (src_int hty _ _)
  rw [hsrc] at hsum
  exact hlane.trans ((elemAt_zero ..).trans hsum)

/-! ### Integer instructions on x registers (R251) -/

/-- An integer instruction that issues completes with its result and leaves both FCSRs. -/
theorem alu_gives {s : State} {c : Fin 192} {w : CoreWord} {o : Nat} {f : BitVec 64 → BitVec 64 → BitVec 64}
    (h : Issues s c o (aluUse 31 1 w) w) (hk : opcKnown o = true) :
    ∃ t, alu o f c w s = .next t ∧ FcsrsKept s t c
      ∧ (w.rd ≠ 0 → xr (getCore t c) w.rd = f (xr (getCore s c) w.rs1) (operandB (getCore s c) w)) := by
  refine ⟨_, issue_done h hk rfl rfl, ⟨?_, ?_⟩, fun hrd => ?_⟩
  · rw [fcsrS_getCore_retiredNext, getCore_modCore]
    exact fcsrNo_setX 0 ..
  · rw [fcsrV_getCore_retiredNext, getCore_modCore]
    exact fcsrNo_setX 1 ..
  · rw [xr_getCore_retiredNext, getCore_modCore, xr_setX_same _ _ hrd]

/-! ### The statement -/

/-- Settles O53: integer results are those of `BitVec` on x registers and of `ofI32` on I32 lanes, which wraps, and no lane of TYPE
I32 raises a flag. -/
theorem integerArithmeticWraps : Obligations.IntegerArithmeticWraps := by
  unfold Obligations.IntegerArithmeticWraps
  intro s c w x a b u quiet gives nl ln lanes u2
  refine ⟨fun h => ?_, fun h => ?_, fun h => ?_, fun hty hrm hnl => ?_⟩
  · obtain ⟨t, ht, hq, hx⟩ := alu_gives (f := (· + ·)) h rfl
    exact ⟨t, ht, hq, fun hrd => by rw [hx hrd, BitVec.toNat_add]; rfl⟩
  · obtain ⟨t, ht, hq, hx⟩ := alu_gives (f := (· - ·)) h rfl
    exact ⟨t, ht, hq, fun hrd => by rw [hx hrd, BitVec.toNat_sub, Nat.add_comm]; rfl⟩
  · obtain ⟨t, ht, hq, hx⟩ := alu_gives (f := (· * ·)) h rfl
    exact ⟨t, ht, hq, fun hrd => by rw [hx hrd, BitVec.toNat_mul]; rfl⟩
  · have hty : vType w = 4 := hty
    have hv : vOk w = true := by
      rw [vOk, hrm, hty]
      exact decide_eq_true hnl
    have hactive : vActive w = nl := by
      rw [vActive, hty]
      rfl
    have hlanes {r : Res} {f : Nat → Nat} : IntLanes s c w r f → lanes r f :=
      fun ⟨t, ht, hq, hl⟩ => ⟨t, ht, hq, hactive ▸ hl⟩
    exact ⟨fun h => hlanes (vadd_int hty hv h), fun h => hlanes (vsub_int hty hv h), fun h => hlanes (vmul_int hty hv h),
      fun h => hlanes (vfma_int hty hv h), vdiv_int hty hv, vsqrt_int hty hv, vminmax_int hty hv,
      hactive ▸ vred_int hty hv⟩

end Sys2Proof.Machine
end

section
/-! SUPPORT. Comparisons of floating-point data with NaN operands, and of I32 lanes as signed integers (08_core_programming.md R250;
03_number_formats.md R75, R107). -/

namespace Sys2Proof.Machine

/-! ### NaN operands (R75, R107) -/

@[simp] theorem isNaN_fDaz (f : FFmt) (daz : Bool) (v : FVal) : isNaN (fDaz f daz v) = isNaN v := by
  cases v with
  | nan _ _ _ => rfl
  | inf _ => rfl
  | fin s m e => rw [fDaz]; split <;> rfl

@[simp] theorem isSNaN_fDaz (f : FFmt) (daz : Bool) (v : FVal) : isSNaN (fDaz f daz v) = isSNaN v := by
  cases v with
  | nan _ _ _ => rfl
  | inf _ => rfl
  | fin s m e => rw [fDaz]; split <;> rfl

/-- The bits of a NaN: every bit of the exponent set and a fraction that is not zero. -/
def NaNBits (f : FFmt) (x : Nat) : Prop := bits x (f.eb + f.fb - 1) f.fb = fExpOnes f ∧ x % 2 ^ f.fb ≠ 0

theorem isNaN_fDecode (f : FFmt) (x : Nat) : isNaN (fDecode f x) = true ↔ NaNBits f x := by
  unfold fDecode NaNBits
  dsimp only
  split
  case isTrue => split <;> simp [isNaN, *]
  case isFalse he => split <;> simp [isNaN, he]

theorem isSNaN_fDecode (f : FFmt) (x : Nat) :
    isSNaN (fDecode f x) = true ↔ NaNBits f x ∧ bit (x % 2 ^ f.fb) (f.fb - 1) = false := by
  unfold fDecode NaNBits
  dsimp only
  split
  case isTrue => split <;> simp [isSNaN, *]
  case isFalse he => split <;> simp [isSNaN, he]

/-- The same as a number without its sign: above the infinity of its format. -/
theorem nanBits_iff {f : FFmt} (h : 0 < f.eb) (x : Nat) :
    NaNBits f x ↔ 2 ^ f.fb * (2 ^ f.eb - 1) < x % 2 ^ (f.eb + f.fb) := by
  have hwidth : f.eb + f.fb - 1 + 1 = f.eb + f.fb := by omega
  have hsplit := mod_two_pow_eq_bits x (hi := f.eb + f.fb - 1) (lo := f.fb) (by omega)
  have he := bits_lt x (f.eb + f.fb - 1) f.fb
  rw [hwidth] at hsplit
  rw [hwidth, Nat.add_sub_cancel] at he
  have hm := Nat.mod_lt x (Nat.two_pow_pos f.fb)
  rw [NaNBits, fExpOnes, hsplit, Nat.mul_comm]
  generalize bits x (f.eb + f.fb - 1) f.fb = e at *
  generalize x % 2 ^ f.fb = m at *
  have hpos := Nat.two_pow_pos f.eb
  generalize 2 ^ f.eb = E at *
  generalize 2 ^ f.fb = F at *
  constructor
  · rintro ⟨rfl, hm0⟩
    omega
  · intro hlt
    have hle : E - 1 ≤ e := by
      refine Nat.le_of_not_lt fun hcon => ?_
      have := Nat.mul_le_mul_right F (show e + 1 ≤ E - 1 by omega)
      rw [Nat.add_mul] at this
      omega
    obtain rfl : e = E - 1 := by omega
    omega

/-- The quiet bit of a NaN, the highest of its fraction. -/
theorem bit_fraction_top {n x : Nat} (h : 0 < n) : bit (x % 2 ^ n) (n - 1) = false ↔ x / 2 ^ (n - 1) % 2 = 0 := by
  rw [bit, Nat.testBit_mod_two_pow, Nat.testBit_eq_decide_div_mod_eq, decide_eq_true (show n - 1 < n by omega), Bool.true_and,
    decide_eq_false_iff_not]
  omega

/-! ### Comparisons of floating-point data (R250) -/

section
variable {f : FFmt} {daz : Bool} {k x y : Nat}

/-- Whether a comparison has a NaN operand. -/
def unordered (f : FFmt) (x y : Nat) : Bool := isNaN (fDecode f x) || isNaN (fDecode f y)

/-- Whether a comparison raises NV: EQ, NE and UN for a signalling NaN, the others for any. -/
def cmpNV (f : FFmt) (k x y : Nat) : Bool :=
  if k == 0 || k == 1 || k == 6 then isSNaN (fDecode f x) || isSNaN (fDecode f y) else unordered f x y

theorem fCmp_flags : (fCmp f daz k x y).2 = flagIf (cmpNV f k x y) flagNV := by
  simp only [fCmp, isNaN_fDaz, isSNaN_fDaz]
  rfl

/-- With a NaN operand NE and UN hold, and no other relation. -/
theorem fCmp_of_unordered (h : unordered f x y = true) (hk : k ≤ 6) : (fCmp f daz k x y).1 = true ↔ k = 1 ∨ k = 6 := by
  simp only [unordered] at h
  simp only [fCmp, isNaN_fDaz, h]
  match k, hk with
  | 0, _ => simp
  | 1, _ => simp
  | 2, _ => simp
  | 3, _ => simp
  | 4, _ => simp
  | 5, _ => simp
  | 6, _ => simp

end

/-! ### NaN operands of a TYPE -/

/-- A NaN of a TYPE as the statement says it: above the infinity of its format. -/
def NaNOf (ty v : Nat) : Prop := 2 ^ (typeFmt ty).fb * (2 ^ (typeFmt ty).eb - 1) < v % 2 ^ (typeBits ty - 1)

/-- A signalling one. -/
def SNaNOf (ty v : Nat) : Prop := NaNOf ty v ∧ v / 2 ^ ((typeFmt ty).fb - 1) % 2 = 0

/-- When a comparison of two elements raises NV (R250). -/
def RaisesNV (ty k v u : Nat) : Prop := if k = 0 ∨ k = 1 ∨ k = 6 then SNaNOf ty v ∨ SNaNOf ty u else NaNOf ty v ∨ NaNOf ty u

/-- An exponent, a fraction and a sign make an element of TYPE 0 to 3. -/
theorem typeFmt_shape {ty : Nat} (h : ty ≤ 3) :
    0 < (typeFmt ty).eb ∧ 0 < (typeFmt ty).fb ∧ typeBits ty - 1 = (typeFmt ty).eb + (typeFmt ty).fb := by
  match ty, h with
  | 0, _ => decide
  | 1, _ => decide
  | 2, _ => decide
  | 3, _ => decide

section
variable {ty : Nat} (hty : ty ≤ 3)
include hty

theorem nanBits_typeFmt_iff (v : Nat) : NaNBits (typeFmt ty) v ↔ NaNOf ty v := by
  obtain ⟨heb, -, hwidth⟩ := typeFmt_shape hty
  rw [nanBits_iff heb, NaNOf, hwidth]

theorem isNaN_typeFmt_iff (v : Nat) : isNaN (fDecode (typeFmt ty) v) = true ↔ NaNOf ty v := by
  rw [isNaN_fDecode, nanBits_typeFmt_iff hty]

theorem isSNaN_typeFmt_iff (v : Nat) : isSNaN (fDecode (typeFmt ty) v) = true ↔ SNaNOf ty v := by
  obtain ⟨-, hfb, -⟩ := typeFmt_shape hty
  rw [isSNaN_fDecode, nanBits_typeFmt_iff hty, bit_fraction_top hfb, SNaNOf]

theorem unordered_typeFmt_iff (v u : Nat) : unordered (typeFmt ty) v u = true ↔ NaNOf ty v ∨ NaNOf ty u := by
  rw [unordered, Bool.or_eq_true, isNaN_typeFmt_iff hty, isNaN_typeFmt_iff hty]

theorem cmpNV_typeFmt_iff (k v u : Nat) : cmpNV (typeFmt ty) k v u = true ↔ RaisesNV ty k v u := by
  unfold RaisesNV
  by_cases hk : k = 0 ∨ k = 1 ∨ k = 6
  · rw [if_pos hk, cmpNV, if_pos (by simpa [or_assoc] using hk), Bool.or_eq_true, isSNaN_typeFmt_iff hty, isSNaN_typeFmt_iff hty]
  · rw [if_neg hk, cmpNV, if_neg (by simpa [or_assoc] using hk), unordered_typeFmt_iff hty]

end

/-- FCSR once NV has been raised where a comparison calls for it. -/
theorem raise_nv_cases {P : Prop} {f g : BitVec 32} {b : Bool} (hg : g = raise f (flagIf b flagNV)) (hb : b = true ↔ P) :
    (P → g = f ||| 0x10) ∧ (¬P → g = f) := by
  rw [raise_flagIf_nv] at hg
  refine ⟨fun hp => ?_, fun hp => ?_⟩
  · rw [hg, if_pos (hb.mpr hp)]
  · rw [hg, if_neg (mt hb.mp hp)]

/-! ### FCMP (R250) -/

theorem fcmp_completes {s : State} {c : Fin 192} {w : CoreWord} (h : Issues s c 0x2F ⟨7, 31, 31, 0, 0x3FF, 0⟩ w)
    (hok : (fpOk w && decide (ctlBits w 9 7 ≤ 6)) = true) {r : Bool × FFlags}
    (hr : r = fCmp (typeFmt (fpType w)) (fpEnv (getCore s c) w).daz (ctlBits w 9 7) (fpArg (getCore s c) w w.rs1)
      (fpArg (getCore s c) w w.rs2)) :
    ∃ t, exec (.fcmp c w) s = .next t ∧ (getCore t c).fcsrS = raise (getCore s c).fcsrS r.2
      ∧ (predField w.rd ≠ 0 → pr (getCore t c) (predField w.rd) = r.1) := by
  subst hr
  change ∃ t, execFcmp c w s = _ ∧ _
  unfold execFcmp
  refine ⟨_, issue_done h rfl hok rfl, ?_, fun hp => ?_⟩
  · rw [fcsrS_getCore_retiredNext, getCore_modCore, setP]
    split <;> rfl
  · rw [pr_getCore_retiredNext, getCore_modCore, pr_setP_same _ _ hp]

/-- FCMP raises NV where its relation calls for it, and with a NaN operand gives true for NE and UN alone (R250). -/
theorem fcmp_nan {s : State} {c : Fin 192} {w : CoreWord} (h : Issues s c 0x2F ⟨7, 31, 31, 0, 0x3FF, 0⟩ w)
    (hty : fpType w ≤ 3) (hrm : rmFieldOk (ctlBits w 6 4) = true) (hk : ctlBits w 9 7 ≤ 6) {v u : Nat}
    (hv : v = fpArg (getCore s c) w w.rs1) (hu : u = fpArg (getCore s c) w w.rs2) :
    ∃ t, exec (.fcmp c w) s = .next t
      ∧ (RaisesNV (fpType w) (ctlBits w 9 7) v u → (getCore t c).fcsrS = (getCore s c).fcsrS ||| 0x10)
      ∧ (¬RaisesNV (fpType w) (ctlBits w 9 7) v u → (getCore t c).fcsrS = (getCore s c).fcsrS)
      ∧ (NaNOf (fpType w) v ∨ NaNOf (fpType w) u → predField w.rd ≠ 0 →
        (pr (getCore t c) (predField w.rd) = true ↔ ctlBits w 9 7 = 1 ∨ ctlBits w 9 7 = 6)) := by
  subst hv hu
  have hok : (fpOk w && decide (ctlBits w 9 7 ≤ 6)) = true := by
    rw [fpOk, hrm, decide_eq_true hty, decide_eq_true hk]
    rfl
  obtain ⟨t, ht, hfcsr, hp⟩ := fcmp_completes h hok rfl
  rw [fCmp_flags] at hfcsr
  obtain ⟨hraise, hkeep⟩ := raise_nv_cases hfcsr (cmpNV_typeFmt_iff hty ..)
  refine ⟨t, ht, hraise, hkeep, fun hnan hrd => ?_⟩
  rw [hp hrd]
  exact fCmp_of_unordered ((unordered_typeFmt_iff hty ..).mpr hnan) hk

/-! ### VCMP (R250) -/

theorem laneCmp_float {t : Nat} (ht : t ≤ 3) (k : Nat) (daz : Bool) (a b : Nat) : laneCmp t k daz a b =
    (if (fCmp (typeFmt t) daz k a b).1 then 2 ^ typeBits t - 1 else 0, (fCmp (typeFmt t) daz k a b).2) :=
  if_neg (by omega)

/-- The relation of COND 0 to 5 between integers. -/
abbrev IntRel (k : Nat) (v u : Int) : Prop :=
  (k = 0 ∧ v = u) ∨ (k = 1 ∧ v ≠ u) ∨ (k = 2 ∧ v < u) ∨ (k = 3 ∧ v ≤ u) ∨ (k = 4 ∧ u < v)
    ∨ (k = 5 ∧ u ≤ v)

theorem i32_eq_toInt (a : Nat) : i32 a = (BitVec.ofNat 32 a).toInt := by
  rw [BitVec.toInt_eq_toNat_cond, BitVec.toNat_ofNat, i32, sext]
  split <;> split <;> omega

theorem laneCmp_int {t k : Nat} (ht : t = 4) (hk : k ≤ 5) (daz : Bool) (a b : Nat) :
    laneCmp t k daz a b = (if IntRel k (i32 a) (i32 b) then 2 ^ 32 - 1 else 0, 0) := by
  subst ht
  match k, hk with
  | 0, _ => simp [laneCmp, IntRel, typeBits]
  | 1, _ => simp [laneCmp, IntRel, typeBits]
  | 2, _ => simp [laneCmp, IntRel, typeBits]
  | 3, _ => simp [laneCmp, IntRel, typeBits]
  | 4, _ => simp [laneCmp, IntRel, typeBits]
  | 5, _ => simp [laneCmp, IntRel, typeBits]

section
variable {s : State} {c : Fin 192} {w : CoreWord} (h : Starts s c 1 0x5A (use2 0x3FFFF) w) (hv : vOk w = true)
include h

/-- COND 6 and 7 stop the core on I32 lanes. -/
theorem vcmp_int_stop (hty : vType w = 4) (hk : 6 ≤ ctlBits w 17 15) : exec (.vcmp c w) s = .next (stopCore s c 1 0) := by
  have hbad : ((vArith (vType w) && decide (ctlBits w 17 15 ≤ if vType w = 4 then 5 else 6)) && vOk w) = false := by
    rw [if_pos hty, decide_eq_false (by omega), Bool.and_false, Bool.false_and]
  exact issuedAs_vIssue.stop_of_invalid (standsAt_of_issues h.1) (.inr hbad)

include hv

/-- VCMP completes with the comparison of each active lane. -/
theorem vcmp_completes (hty : vType w ≤ 4) (hk : ctlBits w 17 15 ≤ if vType w = 4 then 5 else 6) {daz : Bool}
    (hdaz : daz = (vEnv (getCore s c) w).daz) {b : Nat → Bool}
    (hb : ∀ i, (laneCmp (vType w) (ctlBits w 17 15) daz (src1 (getCore s c) w i) (src2 (getCore s c) w i)).2
      = flagIf (b i) flagNV) :
    ∃ t, exec (.vcmp c w) s = .next t
      ∧ (getCore t c).fcsrV = raise (getCore s c).fcsrV (flagIf ((List.range (vActive w)).any b) flagNV)
      ∧ ∀ i, i < vActive w → lane (vType w) (vr (getCore t c) w.rd) i
        = (laneCmp (vType w) (ctlBits w 17 15) daz (src1 (getCore s c) w i) (src2 (getCore s c) w i)).1
          % 2 ^ typeBits (vType w) := by
  subst hdaz
  have hok : ((vArith (vType w) && decide (ctlBits w 17 15 ≤ if vType w = 4 then 5 else 6)) && vOk w) = true := by
    rw [vArith, decide_eq_true hty, decide_eq_true hk, hv]
    rfl
  obtain ⟨t, d, ht, hw⟩ := vIssue_completes (f := vcmpFn) (draws := false) h rfl hok
  have hle := vActive_le hv
  refine ⟨t, ht, ?_, fun i hi => ?_⟩
  · rw [hw.fcsrV, vcmpFn, vLane, vLanes_flags (fun i _ => hb i) hle]
  · rw [hw.lane (Nat.lt_of_lt_of_le hi hle), vcmpFn, vLane, lane_vLanes _ _ _ (Nat.lt_of_lt_of_le hi hle), if_pos hi]

/-- VCMP on floating-point lanes: NV where a lane calls for it, and a lane with a NaN operand holds for NE and UN alone (R250). -/
theorem vcmp_float (hty : vType w ≤ 3) (hk : ctlBits w 17 15 ≤ 6) {v u : Nat → Nat} (hsrc1 : v = src1 (getCore s c) w)
    (hsrc2 : u = src2 (getCore s c) w) :
    ∃ t, exec (.vcmp c w) s = .next t
      ∧ ((∃ i, i < vActive w ∧ RaisesNV (vType w) (ctlBits w 17 15) (v i) (u i)) →
        (getCore t c).fcsrV = (getCore s c).fcsrV ||| 0x10)
      ∧ ((∀ i, i < vActive w → ¬RaisesNV (vType w) (ctlBits w 17 15) (v i) (u i)) →
        (getCore t c).fcsrV = (getCore s c).fcsrV)
      ∧ ∀ i, i < vActive w → NaNOf (vType w) (v i) ∨ NaNOf (vType w) (u i) →
        lane (vType w) (vr (getCore t c) w.rd) i
          = if ctlBits w 17 15 = 1 ∨ ctlBits w 17 15 = 6 then 2 ^ typeBits (vType w) - 1 else 0 := by
  subst hsrc1 hsrc2
  have hcond : ctlBits w 17 15 ≤ if vType w = 4 then 5 else 6 := by rwa [if_neg (by omega)]
  have hlane (i : Nat) := laneCmp_float hty (ctlBits w 17 15) (vEnv (getCore s c) w).daz (src1 (getCore s c) w i)
    (src2 (getCore s c) w i)
  obtain ⟨t, ht, hfcsr, hl⟩ := vcmp_completes h hv (Nat.le_trans hty (by decide)) hcond rfl
    fun i => (congrArg Prod.snd (hlane i)).trans fCmp_flags
  have hany : ((List.range (vActive w)).any fun i =>
        cmpNV (typeFmt (vType w)) (ctlBits w 17 15) (src1 (getCore s c) w i) (src2 (getCore s c) w i)) = true
      ↔ ∃ i, i < vActive w ∧ RaisesNV (vType w) (ctlBits w 17 15) (src1 (getCore s c) w i) (src2 (getCore s c) w i) := by
    simp only [List.any_eq_true, List.mem_range, cmpNV_typeFmt_iff hty]
  obtain ⟨hraise, hkeep⟩ := raise_nv_cases hfcsr hany
  refine ⟨t, ht, hraise, fun hnone => hkeep fun ⟨i, hi, hnv⟩ => hnone i hi hnv, fun i hi hnan => ?_⟩
  have hrel := fCmp_of_unordered (daz := (vEnv (getCore s c) w).daz) ((unordered_typeFmt_iff hty ..).mpr hnan) hk
  rw [hl i hi, hlane i, ite_congr (propext hrel) (fun _ => rfl) (fun _ => rfl), Nat.mod_eq_of_lt]
  have hpos := Nat.two_pow_pos (typeBits (vType w))
  split <;> omega

/-- VCMP on I32 lanes: the relation of the lanes as signed integers, and no flag (R250, R251). -/
theorem vcmp_int (hty : vType w = 4) (hk : ctlBits w 17 15 ≤ 5) :
    ∃ t, exec (.vcmp c w) s = .next t ∧ (getCore t c).fcsrV = (getCore s c).fcsrV
      ∧ ∀ i, i < vActive w → elemAt 32 (vr (getCore t c) w.rd) i
        = if IntRel (ctlBits w 17 15) (BitVec.ofNat 32 (src1 (getCore s c) w i)).toInt
            (BitVec.ofNat 32 (src2 (getCore s c) w i)).toInt then 2 ^ 32 - 1 else 0 := by
  have hlane (i : Nat) := laneCmp_int hty hk (vEnv (getCore s c) w).daz (src1 (getCore s c) w i) (src2 (getCore s c) w i)
  obtain ⟨t, ht, hfcsr, hl⟩ := vcmp_completes (b := fun _ => false) h hv (Nat.le_of_eq hty) (by rwa [if_pos hty]) rfl
    fun i => congrArg Prod.snd (hlane i)
  refine ⟨t, ht, ?_, fun i hi => ?_⟩
  · rw [hfcsr, List.any_eq_false.mpr fun _ _ => Bool.false_ne_true]
    exact raise_zero _
  · rw [← src_int hty, hl i hi, hlane i, hty, i32_eq_toInt, i32_eq_toInt]
    split <;> rfl

end

/-! ### The statement -/

/-- Settles O54: the flags and results of `fCmp` with NaN operands, taken to the bits of each TYPE, and the comparison of I32 lanes
as signed integers. -/
theorem comparisonsTreatNaNsAsStated : Obligations.ComparisonsTreatNaNsAsStated := by
  unfold Obligations.ComparisonsTreatNaNsAsStated
  intro s c w x nan sig quiet nv
  refine ⟨fun h hty hrm hk => fcmp_nan h hty hrm hk rfl rfl, fun h hrm hnl => ?_⟩
  have hv : vOk w = true := by
    rw [vOk, hrm, Bool.true_and]
    exact decide_eq_true hnl
  exact ⟨fun hty hk => vcmp_float h hv hty hk rfl rfl, vcmp_int_stop h, vcmp_int h hv⟩

end Sys2Proof.Machine
end

section
/-! SUPPORT. The windows of a core's local addresses (08_core_programming.md R254; 12_memory_system.md R399, R400), and what the
statement about loads and stores says of them. -/

namespace Sys2Proof.Machine

/-! ### Places of the stores (R398) -/

theorem placeOf_scratchAt {c q : Nat} (hc : c < 192) (hq : q < 0x500000) : placeOf (scratchAt c + q) = some (.scratch c q) := by
  have hdie : (scratchAt c + q) / 0x400000000 = c / 96 := by unfold scratchAt; omega
  have hoff : (scratchAt c + q) % 0x400000000 = 0x200000000 + (c / 8 % 12 * 0x8000000 + (c % 8 * 0x800000 + q)) := by
    unfold scratchAt; omega
  have hbelow : scratchAt c + q < 0x800000000 := by unfold scratchAt; omega
  rw [placeOf, if_neg (by unfold hbmBase; omega), if_pos hbelow, hdie, hoff]
  generalize hk : c / 8 % 12 = k
  generalize hr : c % 8 = r
  have h12 : k < 12 := by omega
  have h8 : r < 8 := by omega
  have hcl : (0x200000000 + (k * 0x8000000 + (r * 0x800000 + q)) - 0x200000000) / 0x8000000 = k := by omega
  have hr1 : (0x200000000 + (k * 0x8000000 + (r * 0x800000 + q)) - 0x200000000) % 0x8000000 / 0x800000 = r := by omega
  have hq1 : (0x200000000 + (k * 0x8000000 + (r * 0x800000 + q)) - 0x200000000) % 0x800000 = q := by omega
  have hcore : c / 96 * 96 + k * 8 + r = c := by omega
  dsimp only
  rw [if_neg (by omega), if_neg (by omega), if_pos (by omega), hcl, hr1, hq1, if_pos ⟨hq, h8⟩, hcore]

theorem placeOf_clusterStoreAt {k q : Nat} (hk : k < 24) (hq : q < 0x2800000) :
    placeOf (clusterStoreAt k + q) = some (.cluster k q) := by
  have hdie : (clusterStoreAt k + q) / 0x400000000 = k / 12 := by unfold clusterStoreAt; omega
  have hoff : (clusterStoreAt k + q) % 0x400000000 = 0x100000000 + (k % 12 * 0x4000000 + q) := by
    unfold clusterStoreAt; omega
  have hbelow : clusterStoreAt k + q < 0x800000000 := by unfold clusterStoreAt; omega
  have hcl : (0x100000000 + (k % 12 * 0x4000000 + q) - 0x100000000) / 0x4000000 = k % 12 := by omega
  have hq1 : (0x100000000 + (k % 12 * 0x4000000 + q) - 0x100000000) % 0x4000000 = q := by omega
  rw [placeOf, if_neg (by unfold hbmBase; omega), if_pos hbelow, hdie, hoff]
  dsimp only
  rw [if_neg (by omega), if_pos (by omega), hcl, hq1, if_pos hq, Nat.div_add_mod']

theorem placeOf_dieStoreAt {d q : Nat} (hd : d < 2) (hq : q < 0x4000000) : placeOf (dieStoreAt d + q) = some (.die d q) := by
  have hdie : (dieStoreAt d + q) / 0x400000000 = d := by unfold dieStoreAt; omega
  have hoff : (dieStoreAt d + q) % 0x400000000 = q := by unfold dieStoreAt; omega
  have hbelow : dieStoreAt d + q < 0x800000000 := by unfold dieStoreAt; omega
  rw [placeOf, if_neg (by unfold hbmBase; omega), if_pos hbelow, hdie, hoff]
  exact if_pos hq

/-! ### Windows of the local address map (R254, R399, R400) -/

section
variable {c : Fin 192} {a n p k q : Nat}

/-- A local range that starts in a scratchpad may go on to its end (R254, R399). -/
theorem coreRange_of_scratch (h : localPlace (c / 8) (some c) a = some p) (hp : placeOf p = some (.scratch k q)) :
    coreRange c a n = if n ≤ 0x500000 - q then some p else none := by
  simp only [coreRange, inStore, placeRoom, h, hp, decide_eq_true_eq]

/-- The same in a cluster's store. -/
theorem coreRange_of_cluster (h : localPlace (c / 8) (some c) a = some p) (hp : placeOf p = some (.cluster k q)) :
    coreRange c a n = if n ≤ 0x2800000 - q then some p else none := by
  simp only [coreRange, inStore, placeRoom, h, hp, decide_eq_true_eq]

/-- The same in a die's store, whose tenant part alone a core reaches (R400). -/
theorem coreRange_of_die (h : localPlace (c / 8) (some c) a = some p) (hp : placeOf p = some (.die k q)) :
    coreRange c a n = if q + n ≤ dieTenantEnd then some p else none := by
  simp only [coreRange, h, hp]

theorem coreRange_of_none (h : localPlace (c / 8) (some c) a = none) : coreRange c a n = none := by
  simp only [coreRange, h]

/-- A core's window of its own scratchpad among those of its cluster's ranks (R399). -/
theorem localPlace_own (h : 0x1000000 + c % 8 * 0x800000 ≤ a ∧ a < 0x1000000 + c % 8 * 0x800000 + 0x500000) :
    localPlace (c / 8) (some c) a = some (scratchAt c + (a - (0x1000000 + c % 8 * 0x800000))) := by
  have hrank : (a - 0x1000000) / 0x800000 = c % 8 := by omega
  have hoff : (a - 0x1000000) % 0x800000 = a - (0x1000000 + c % 8 * 0x800000) := by omega
  rw [localPlace, if_neg (by omega), if_pos (by omega), hrank, hoff]
  dsimp only
  rw [if_pos (by omega), if_pos rfl]

/-- Addresses outside the core's windows (R254, R399). -/
theorem localPlace_outside (hlow : 0x500000 ≤ a)
    (hown : ¬(0x1000000 + c % 8 * 0x800000 ≤ a ∧ a < 0x1000000 + c % 8 * 0x800000 + 0x500000))
    (hcl : ¬(0x10000000 ≤ a ∧ a < 0x12800000)) (hdie : ¬(0x20000000 ≤ a ∧ a < 0x24000000)) :
    localPlace (c / 8) (some c) a = none := by
  rw [localPlace, if_neg (Nat.not_lt.mpr hlow)]
  by_cases hranks : 0x1000000 ≤ a ∧ a < 0x1000000 + 8 * 0x800000
  · rw [if_pos hranks]
    dsimp only
    split
    · exact if_neg (by omega)
    · rfl
  · rw [if_neg hranks, if_neg hcl, if_neg hdie]

/-- The windows of a core's local address map, as ranges of at least a byte reach them (R254, R399, R400). -/
theorem coreRange_eq (hn : 0 < n) :
    coreRange c a n =
      if a + n ≤ 0x500000 then some (scratchAt c + a)
      else if 0x1000000 + c % 8 * 0x800000 ≤ a ∧ a + n ≤ 0x1000000 + c % 8 * 0x800000 + 0x500000 then
        some (scratchAt c + (a - (0x1000000 + c % 8 * 0x800000)))
      else if 0x10000000 ≤ a ∧ a + n ≤ 0x12800000 then some (clusterStoreAt (c / 8) + (a - 0x10000000))
      else if 0x20000000 ≤ a ∧ a + n ≤ 0x23000000 then some (dieStoreAt (c / 96) + (a - 0x20000000))
      else none := by
  by_cases hlow : a < 0x500000
  · have hl : localPlace (c / 8) (some c) a = some (scratchAt c + a) := by rw [localPlace, if_pos hlow]; rfl
    rw [coreRange_of_scratch hl (placeOf_scratchAt c.isLt hlow)]
    refine ite_congr (propext (by omega)) (fun _ => rfl) fun _ => ?_
    rw [if_neg (by omega), if_neg (by omega), if_neg (by omega)]
  rw [if_neg (by omega : ¬a + n ≤ 0x500000)]
  by_cases hown : 0x1000000 + c % 8 * 0x800000 ≤ a ∧ a < 0x1000000 + c % 8 * 0x800000 + 0x500000
  · rw [coreRange_of_scratch (localPlace_own hown) (placeOf_scratchAt c.isLt (by omega))]
    refine ite_congr (propext (by omega)) (fun _ => rfl) fun _ => ?_
    rw [if_neg (by omega), if_neg (by omega)]
  rw [if_neg (by omega : ¬(0x1000000 + c % 8 * 0x800000 ≤ a ∧ a + n ≤ 0x1000000 + c % 8 * 0x800000 + 0x500000))]
  by_cases hcl : 0x10000000 ≤ a ∧ a < 0x12800000
  · have hl : localPlace (c / 8) (some c) a = some (clusterStoreAt (c / 8) + (a - 0x10000000)) := by
      rw [localPlace, if_neg hlow, if_neg (by omega), if_pos hcl]
    rw [coreRange_of_cluster hl (placeOf_clusterStoreAt (by omega) (by omega))]
    refine ite_congr (propext (by omega)) (fun _ => rfl) fun _ => ?_
    rw [if_neg (by omega)]
  rw [if_neg (by omega : ¬(0x10000000 ≤ a ∧ a + n ≤ 0x12800000))]
  by_cases hdie : 0x20000000 ≤ a ∧ a < 0x24000000
  · have hl : localPlace (c / 8) (some c) a = some (dieStoreAt (c / 96) + (a - 0x20000000)) := by
      rw [localPlace, if_neg hlow, if_neg (by omega), if_neg hcl, if_pos hdie, Nat.div_div_eq_div_mul]
    rw [coreRange_of_die hl (placeOf_dieStoreAt (by omega) (by omega)), dieTenantEnd]
    exact ite_congr (propext (by omega)) (fun _ => rfl) fun _ => rfl
  · rw [coreRange_of_none (localPlace_outside (Nat.le_of_not_lt hlow) hown hcl hdie), if_neg (by omega)]

end

/-! ### The statement -/

/-- Refutes O51: the statement's `own` is a number of `Fin 192`, where 0x1000000 is 64, so that core 0's window of its own
scratchpad at 0x1000000 (R399, `coreRange_eq`), which the model reaches, lies in none of the statement's ranges. -/
theorem not_loadsAndStoresReachTheStores : ¬ Obligations.LoadsAndStoresReachTheStores := by
  unfold Obligations.LoadsAndStoresReachTheStores
  rintro ⟨hwindows, -⟩
  have hmodel : coreRange 0 0x1000000 1 = some (scratchAt 0) := (coreRange_eq Nat.one_pos).trans (by decide)
  have hstated : coreRange 0 0x1000000 1 = none := hwindows 0 0x1000000 1 Nat.one_pos
  rw [hmodel] at hstated
  exact Option.some_ne_none _ hstated

end Sys2Proof.Machine
end

section
/-! SUPPORT. Numbers in memory, reads after a write, and what LD, ST, VLD, VST and the flag instructions do at their addresses
(12_memory_system.md R396, R397; 08_core_programming.md R254, R264, R288). -/

namespace Sys2Proof.Machine

/-! ### Numbers in memory (R7) -/

theorem fromLe_take_drop (bs : List Byte) (k n : Nat) : fromLe ((bs.drop k).take n) = fromLe bs / 2 ^ (8 * k) % 2 ^ (8 * n) := by
  induction bs generalizing k n with
  | nil => simp [fromLe]
  | cons b bs ih =>
    cases k with
    | succ k =>
      have hpow : 2 ^ (8 * (k + 1)) = 256 * 2 ^ (8 * k) := by rw [Nat.mul_succ, Nat.pow_add, Nat.mul_comm]
      have hb : (b.toNat + 256 * fromLe bs) / 256 = fromLe bs := by have := b.isLt; omega
      rw [List.drop_succ_cons, ih, fromLe, hpow, ← Nat.div_div_eq_div_mul, hb]
    | zero =>
      cases n with
      | zero => simp [fromLe, Nat.mod_one]
      | succ n =>
        have hpow : 2 ^ (8 * (n + 1)) = 256 * 2 ^ (8 * n) := by rw [Nat.mul_succ, Nat.pow_add, Nat.mul_comm]
        have hb : (b.toNat + 256 * fromLe bs) / 256 = fromLe bs := by have := b.isLt; omega
        have hm : (b.toNat + 256 * fromLe bs) % 256 = b.toNat := by have := b.isLt; omega
        have ih0 := ih 0 n
        rw [List.drop_zero, Nat.mul_zero, Nat.pow_zero, Nat.div_one] at ih0
        rw [List.drop_zero, List.take_succ_cons, fromLe, fromLe, ih0, Nat.mul_zero, Nat.pow_zero, Nat.div_one, hpow, Nat.mod_mul,
          hb, hm]

/-- An element of a run of bytes. -/
theorem elemAt_fromLe (bs : List Byte) (b i : Nat) : elemAt (8 * b) (fromLe bs) i = fromLe ((bs.drop (i * b)).take b) := by
  rw [fromLe_take_drop, elemAt_eq, Nat.mul_assoc, Nat.mul_comm b i]

theorem fromLe_leBytes (n x : Nat) : fromLe (leBytes n x) = x % 2 ^ (8 * n) := by
  induction n generalizing x with
  | zero => simp [leBytes, fromLe, Nat.mod_one]
  | succ n ih =>
    have hpow : 2 ^ (8 * (n + 1)) = 256 * 2 ^ (8 * n) := by rw [Nat.mul_succ, Nat.pow_add, Nat.mul_comm]
    have hhead : (byteOf x 0).toNat = x % 256 := by simp [byteOf]
    have htail : (List.range n).map (byteOf x ∘ Nat.succ) = leBytes n (x / 256) := by
      refine List.map_congr_left fun i _ => ?_
      rw [Function.comp_apply, byteOf, byteOf, Nat.shiftRight_eq_div_pow, Nat.shiftRight_eq_div_pow, Nat.mul_succ, Nat.pow_add,
        Nat.div_div_eq_div_mul, Nat.mul_comm]
    rw [leBytes, List.range_succ_eq_map, List.map_cons, List.map_map, fromLe, htail, ih, hhead, hpow, Nat.mod_mul]

theorem readBytes_take_drop (s : State) (p : Nat) {n k b : Nat} (h : k + b ≤ n) :
    ((readBytes s p n).drop k).take b = readBytes s (p + k) b := by
  refine List.ext_getElem (by simp [readBytes]; omega) fun j h1 h2 => ?_
  simp [readBytes, Nat.add_assoc]

/-- An element of the number that a range of memory holds is the number that its bytes hold. -/
theorem elemAt_readNat (s : State) (p : Nat) {n b i : Nat} (h : i < n) :
    elemAt (8 * b) (readNat s p (n * b)) i = readNat s (p + i * b) b := by
  have hend : i * b + b ≤ n * b := by rw [← Nat.succ_mul]; exact Nat.mul_le_mul_right b h
  rw [readNat, elemAt_fromLe, readBytes_take_drop s p hend, readNat]

/-! ### Reads after a write (R396, R397) -/

theorem readByte_writeWords {s : State} (fuel a : Nat) (bs : List Byte) (d : Nat) (h : memWf s.mem = true)
    (hfuel : a % 64 + bs.length ≤ 64 * fuel) :
    readByte (writeWords s fuel a bs) d = if a ≤ d ∧ d < a + bs.length then bs.getD (d - a) 0 else readByte s d := by
  induction fuel generalizing s a bs with
  | zero =>
    obtain rfl : bs = [] := List.length_eq_zero_iff.mp (by omega)
    rw [if_neg (by simp)]
    rfl
  | succ fuel ih =>
    rw [writeWords]
    split
    case isTrue hempty =>
      obtain rfl := List.isEmpty_iff.mp hempty
      rw [if_neg (by simp)]
    case isFalse =>
      have hlen : (bs.take (64 - a % 64)).length = min (64 - a % 64) bs.length := List.length_take
      have hword : a % 64 + (bs.take (64 - a % 64)).length ≤ 64 := by omega
      have hrest : (a + (64 - a % 64)) % 64 + (bs.drop (64 - a % 64)).length ≤ 64 * fuel := by
        rw [List.length_drop]
        omega
      dsimp only
      rw [ih _ _ (memWf_writeLine _ _ h) hrest, readByte_writeLine _ _ _ h hword, hlen, List.length_drop]
      by_cases hlow : d < a + (64 - a % 64)
      · rw [if_neg (by omega)]
        refine ite_congr (propext (by omega)) (fun hd => ?_) fun _ => rfl
        rw [List.getD_eq_getElem?_getD, List.getD_eq_getElem?_getD, List.getElem?_take_of_lt (by omega)]
      · by_cases hin : d < a + bs.length
        · rw [if_pos (by omega), if_pos (by omega), List.getD_eq_getElem?_getD, List.getD_eq_getElem?_getD, List.getElem?_drop]
          congr 2
          omega
        · rw [if_neg (by omega), if_neg (by omega), if_neg (by omega)]


/-- Bytes written read back, and every other byte reads as before. -/
theorem readByte_writeNat {s : State} (p n x d : Nat) (h : memWf s.mem = true) :
    readByte (writeNat s p n x) d = if p ≤ d ∧ d < p + n then (leBytes n x).getD (d - p) 0 else readByte s d := by
  have hlen : (leBytes n x).length = n := by simp [leBytes]
  rw [writeNat, writeBytes, readByte_writeWords _ _ _ _ h (by omega), hlen]

theorem readBytes_writeNat {s : State} (p n x : Nat) (h : memWf s.mem = true) : readBytes (writeNat s p n x) p n = leBytes n x := by
  refine List.ext_getElem (by simp [readBytes, leBytes]) fun j h1 h2 => ?_
  have hj : j < n := by simpa [leBytes] using h2
  simp only [readBytes, List.getElem_map, List.getElem_range]
  rw [readByte_writeNat _ _ _ _ h, if_pos (by omega), Nat.add_sub_cancel_left, List.getD_eq_getElem?_getD,
    List.getElem?_eq_getElem h2, Option.getD_some]

/-- A number written reads back, as far as its bytes hold it. -/
theorem readNat_writeNat {s : State} (p n x : Nat) (h : memWf s.mem = true) : readNat (writeNat s p n x) p n = x % 2 ^ (8 * n) := by
  rw [readNat, readBytes_writeNat _ _ _ h, fromLe_leBytes]

/-! ### Address faults (R254, R288) -/

section
variable {s : State} {c : Fin 192} {w : CoreWord}

theorem accessAt_eq_none {a n : Nat} (h : a % n ≠ 0 ∨ coreRange c a n = none) : accessAt c a n = none := by
  unfold accessAt
  split
  · exact h.resolve_left (not_not_intro ‹_›)
  · rfl

/-- An address outside the stores, or one that is not 8-byte aligned, is no flag's, and the stop's reason is an address fault. -/
theorem flagAt_eq_none {a : Nat} (h : a % 8 ≠ 0 ∨ coreRange c a 8 = none) : flagAt c a = none ∧ flagReason c a = 2 := by
  unfold flagAt flagReason
  obtain h | h := h <;> simp [h]

/-- LD and ST at an address outside the core's stores, or one not aligned to their size, stop the core with an address fault. -/
theorem scalar_addressFault
    (ha : eaOf (getCore s c) w % accessSize w ≠ 0 ∨ coreRange c (eaOf (getCore s c) w) (accessSize w) = none) :
    (Issues s c 0x14 ⟨31, 31, 0, 0, 7, immAll⟩ w → exec (.ld c w) s = .next (stopCore s c 2 (eaOf (getCore s c) w)))
      ∧ (Issues s c 0x15 ⟨0, 31, 31, 0, 3, immAll⟩ w →
        exec (.st c w) s = .next (stopCore s c 2 (eaOf (getCore s c) w))) := by
  have hnone := accessAt_eq_none ha
  refine ⟨fun h => ?_, fun h => ?_⟩
  · change execLd c w s = _
    rw [execLd]
    exact issue_stop h rfl rfl (by simp only [hnone])
  · change execSt c w s = _
    rw [execSt]
    exact issue_stop h rfl rfl (by simp only [hnone])

/-- The same of the flag instructions. -/
theorem flag_addressFault (ha : eaOf (getCore s c) w % 8 ≠ 0 ∨ coreRange c (eaOf (getCore s c) w) 8 = none) :
    (Issues s c 0x20 ⟨0, 31, 31, 0, 0, immAll⟩ w → exec (.flset c w) s = .next (stopCore s c 2 (eaOf (getCore s c) w)))
      ∧ (Issues s c 0x21 ⟨31, 31, 31, 31, 3, immAll⟩ w →
        exec (.flwait c w) s = .next (stopCore s c 2 (eaOf (getCore s c) w))
        ∧ exec (.flwaitTimeout c w) s = .next (stopCore s c 2 (eaOf (getCore s c) w)))
      ∧ (Issues s c 0x22 ⟨31, 31, 31, 0, 0, immAll⟩ w →
        exec (.fladd c w) s = .next (stopCore s c 2 (eaOf (getCore s c) w))) := by
  obtain ⟨hnone, hreason⟩ := flagAt_eq_none ha
  refine ⟨fun h => ?_, fun h => ⟨?_, ?_⟩, fun h => ?_⟩
  · change execFlset c w s = _
    rw [execFlset]
    exact issue_stop h rfl rfl (by simp only [hnone, hreason])
  · change execFlwait c w s = _
    rw [execFlwait]
    exact issue_stop h rfl rfl (by simp only [hnone, hreason])
  · change execFlwaitTimeout c w s = _
    rw [execFlwaitTimeout]
    exact issue_stop h rfl rfl (by simp only [hnone, hreason])
  · change execFladd c w s = _
    rw [execFladd]
    exact issue_stop h rfl rfl (by simp only [hnone, hreason])

/-- A tile instruction whose start stops the core. -/
theorem issueTile_stop {o : Nat} {e : Fin 4} {u : FieldUse} {ok : Bool} {body : CoreSt → CoreOut} {rngs : CoreSt → TileRngs}
    {r a : Nat} (h : Starts s c e o u w) (hk : opcKnown o = true) (hok : ok = true) (hb : body (getCore s c) = .stop r a) :
    issueTile o e u ok rngs c w s body = .next (stopCore s c r a) := by
  unfold issueTile
  refine issue_stop h.1 hk hok ?_
  simp [h.2, hb]

end

/-! ### VLD and VST (R254, R264) -/

theorem ctlBit_eq_false_of_unused {u : FieldUse} {w : CoreWord} {k : Nat} (h : fieldsOk u w = true)
    (hk : (2 ^ 32 - 1 - u.ctl).testBit k = true) : ctlBit w k = false := by
  simp only [fieldsOk, Bool.and_eq_true, beq_iff_eq] at h
  obtain ⟨⟨-, hctl⟩, -⟩ := h
  have hbit : (w.ctl.toNat &&& (2 ^ 32 - 1 - u.ctl)).testBit k = false := by
    rw [hctl]
    exact Nat.zero_testBit k
  rwa [Nat.testBit_and, hk, Bool.and_true] at hbit

/-- Elements of TYPE 0 to 7 are whole bytes. -/
theorem typeBits_eq {t : Nat} (h : t ≤ 7) : typeBits t = 8 * (typeBits t / 8) := by
  match t, h with
  | 0, _ | 1, _ | 2, _ | 3, _ | 4, _ | 5, _ | 6, _ | 7, _ => rfl

/-- Bytes of an element of TYPE. -/
def elemBytes (w : CoreWord) : Nat := typeBits (vType w) / 8

theorem vAccess_eq (c : Fin 192) (w : CoreWord) (x : CoreSt) :
    vAccess c w x = (if eaOf x w % elemBytes w = 0 then
        coreRange c (eaOf x w) ((if ctlBit w 15 then 1 else vActive w) * elemBytes w)
      else none).map fun p => (p, (if ctlBit w 15 then 1 else vActive w) * elemBytes w) :=
  rfl

section
variable {s : State} {c : Fin 192} {w : CoreWord} {x : CoreSt} {m p : Nat}

theorem vAccess_eq_none (hm : (if ctlBit w 15 then 1 else vActive w) = m)
    (h : eaOf x w % elemBytes w ≠ 0 ∨ coreRange c (eaOf x w) (m * elemBytes w) = none) : vAccess c w x = none := by
  rw [vAccess_eq, hm, Option.map_eq_none_iff]
  split
  · exact h.resolve_left (not_not_intro ‹_›)
  · rfl

theorem vAccess_eq_some (hm : (if ctlBit w 15 then 1 else vActive w) = m) (ha : eaOf x w % elemBytes w = 0)
    (hp : coreRange c (eaOf x w) (m * elemBytes w) = some p) : vAccess c w x = some (p, m * elemBytes w) := by
  rw [vAccess_eq, hm, if_pos ha, hp]
  rfl

/-- VST leaves CTL[15], which makes VLD read one element, unused. -/
theorem vst_lanes (h : Starts s c 1 0x51 ⟨0, 31, 31, 0, 0x7FFF, immAll⟩ w) :
    (if ctlBit w 15 then 1 else vActive w) = vActive w := by
  obtain ⟨⟨-, -, hfields, -⟩, -⟩ := h
  rw [ctlBit_eq_false_of_unused hfields rfl]
  rfl

section
variable (hty : vType w ≤ 7) (hv : vOk w = true)
include hty hv

theorem vMove_ok : (decide (vType w ≤ 7) && vOk w) = true := by rw [decide_eq_true hty, hv]; rfl

/-- VLD at an address outside the core's stores, or one not aligned to its elements, stops the core with an address fault. -/
theorem vld_addressFault (h : Starts s c 1 0x50 ⟨31, 31, 0, 0, 0xFFFF, immAll⟩ w)
    (ha : eaOf (getCore s c) w % elemBytes w ≠ 0
      ∨ coreRange c (eaOf (getCore s c) w) ((if ctlBit w 15 then 1 else vActive w) * elemBytes w) = none) :
    exec (.vld c w) s = .next (stopCore s c 2 (eaOf (getCore s c) w)) := by
  have hnone := vAccess_eq_none rfl ha
  change execVld c w s = _
  rw [execVld]
  exact issueTile_stop h rfl (vMove_ok hty hv) (by simp only [vldRun, hnone])

/-- The same of VST. -/
theorem vst_addressFault (h : Starts s c 1 0x51 ⟨0, 31, 31, 0, 0x7FFF, immAll⟩ w)
    (ha : eaOf (getCore s c) w % elemBytes w ≠ 0 ∨ coreRange c (eaOf (getCore s c) w) (vActive w * elemBytes w) = none) :
    exec (.vst c w) s = .next (stopCore s c 2 (eaOf (getCore s c) w)) := by
  have hnone := vAccess_eq_none (vst_lanes h) ha
  change execVst c w s = _
  rw [execVst]
  exact issueTile_stop h rfl (vMove_ok hty hv) (by simp only [vstRun, hnone])

/-- VLD fills its active lanes with the elements that stand one after the other from its address, and leaves the lanes above. -/
theorem vld_loads (h : Starts s c 1 0x50 ⟨31, 31, 0, 0, 0xFFFF, immAll⟩ w) (hone : ctlBit w 15 = false)
    (ha : eaOf (getCore s c) w % elemBytes w = 0) (hp : coreRange c (eaOf (getCore s c) w) (vActive w * elemBytes w) = some p)
    (hfree : blocked s c [⟨p, vActive w * elemBytes w⟩] [] = false) (hclean : anyPoison s p (vActive w * elemBytes w) = false) :
    ∃ t, exec (.vld c w) s = .next t
      ∧ (∀ i, i < vActive w → lane (vType w) (vr (getCore t c) w.rd) i = readNat s (p + i * elemBytes w) (elemBytes w))
      ∧ ∀ i, vActive w ≤ i → i < typeLanes (vType w) →
        lane (vType w) (vr (getCore t c) w.rd) i = lane (vType w) (vr (getCore s c) w.rd) i := by
  have haccess := vAccess_eq_some (by rw [hone]; rfl) ha hp
  have hfree' : blockedAt s c (getCore s c).chainNext [⟨p, vActive w * elemBytes w⟩] [] = false := hfree
  have hexec : exec (.vld c w) s = .next (retiredNext s (vWrite (demand s p (vActive w * elemBytes w)) c w
      (vLanes (vType w) (vActive w) (vr (getCore s c) w.rd) fun i =>
        (elemAt (typeBits (vType w)) (readNat s p (vActive w * elemBytes w)) i, 0))) c 1 0x50) := by
    change execVld c w s = _
    rw [execVld]
    refine issueTile_done h rfl (vMove_ok hty hv) ?_
    simp only [vldRun, haccess, hfree', hclean, hone, Bool.false_eq_true, if_false]
  have hw := vectorWrites_retiredNext (getCore_demand s c p (vActive w * elemBytes w)) w
    (vLanes (vType w) (vActive w) (vr (getCore s c) w.rd) fun i =>
      (elemAt (typeBits (vType w)) (readNat s p (vActive w * elemBytes w)) i, 0)) 1 0x50
  have hle := vActive_le hv
  refine ⟨_, hexec, fun i hi => ?_, fun i hlo hi => ?_⟩
  · have hbits : typeBits (vType w) = 8 * elemBytes w := typeBits_eq hty
    rw [hw.lane (Nat.lt_of_lt_of_le hi hle), lane_vLanes _ _ _ (Nat.lt_of_lt_of_le hi hle), if_pos hi,
      Nat.mod_eq_of_lt (elemAt_lt ..), hbits, elemAt_readNat s p hi]
  · rw [hw.lane hi, lane_vLanes _ _ _ hi, if_neg (Nat.not_lt.mpr hlo)]

/-- VST writes its active lanes one after the other from its address, and no other byte. -/
theorem vst_stores (h : Starts s c 1 0x51 ⟨0, 31, 31, 0, 0x7FFF, immAll⟩ w) (hmem : memWf s.mem = true)
    (ha : eaOf (getCore s c) w % elemBytes w = 0) (hp : coreRange c (eaOf (getCore s c) w) (vActive w * elemBytes w) = some p)
    (hfree : blocked s c [] [⟨p, vActive w * elemBytes w⟩] = false) :
    ∃ t, exec (.vst c w) s = .next t
      ∧ (∀ i, i < vActive w → readNat t (p + i * elemBytes w) (elemBytes w) = lane (vType w) (vr (getCore s c) w.rs2) i)
      ∧ ∀ d, d < p ∨ p + vActive w * elemBytes w ≤ d → readByte t d = readByte s d := by
  have haccess := vAccess_eq_some (vst_lanes h) ha hp
  have hfree' : blockedAt s c (getCore s c).chainNext [] [⟨p, vActive w * elemBytes w⟩] = false := hfree
  have hexec : exec (.vst c w) s = .next (retiredNext s (writeNat s p (vActive w * elemBytes w)
      (vr (getCore s c) w.rs2 % 2 ^ (8 * (vActive w * elemBytes w)))) c 1 0x51) := by
    change execVst c w s = _
    rw [execVst]
    refine issueTile_done h rfl (vMove_ok hty hv) ?_
    simp only [vstRun, haccess, hfree', Bool.false_eq_true, if_false]
  refine ⟨_, hexec, fun i hi => ?_, fun d hd => ?_⟩
  · have hbits : typeBits (vType w) = 8 * elemBytes w := typeBits_eq hty
    have hend : 8 * elemBytes w * (i + 1) ≤ 8 * (vActive w * elemBytes w) := by
      rw [Nat.mul_assoc, Nat.mul_comm (elemBytes w)]
      exact Nat.mul_le_mul_left 8 (Nat.mul_le_mul_right (elemBytes w) hi)
    rw [readNat_retiredNext, ← elemAt_readNat _ p hi, readNat_writeNat _ _ _ hmem, Nat.mod_mod, elemAt_mod_two_pow hend,
      lane, hbits]
  · rw [readByte_retiredNext, readByte_writeNat _ _ _ _ hmem, if_neg (by omega)]

end
end

end Sys2Proof.Machine
end

section
/-! SUPPORT. How a command that is no part of another ends, and from this the statement about late commands
(14_command_interface.md R214, R479, R483). -/

namespace Sys2Proof.Machine

section
variable {s : State} {id st : Nat} {c : CmdRec}

/-- A command is found under its own name. -/
theorem id_of_findCmd (h : findCmd s id = some c) : c.id = id := by
  have hfind : s.cmd.inflight.find? (fun k => decide (k.id = id)) = some c := h
  simpa using List.find?_some hfind

/-- A command is found as it was changed, where the change keeps its name. -/
theorem findCmd_updCmd_self {f : CmdRec → CmdRec} (hf : ∀ k, (f k).id = k.id) (h : findCmd s id = some c) :
    findCmd (updCmd s id f) id = some (f c) := by
  have hfind : s.cmd.inflight.find? (fun k => decide (k.id = id)) = some c := h
  have hkeep : (fun k => decide (k.id = id)) ∘ (fun k => if k.id = id then f k else k) = fun k : CmdRec => decide (k.id = id) := by
    funext k
    by_cases hk : k.id = id <;> simp [hk, hf]
  rw [findCmd, updCmd_cmd, List.find?_map, hkeep, hfind, Option.map_some, if_pos (id_of_findCmd h)]

/-- A guard replay changes one completing status into another (R214). -/
theorem completing_of_trips (h : completing st = true) (n : Nat) :
    completing (if st = stOk ∧ n > 0 then stGuardReplayed else st) = true := by
  split
  · rfl
  · exact h

/-- The deadline outranks every completing status (R479). -/
theorem finalStatus_of_late (d : Nat) (hst : completing st = true) (hstarted : c.startedAt.isSome = true)
    (hset : hDeadline c.hdr ≠ 0) (hlate : hDeadline c.hdr < now s) : (finalStatus s c st d).1 = stDeadlineMissed := by
  rw [finalStatus, if_pos ⟨completing_of_trips hst c.trips, hstarted, hset, hlate⟩]

/-- The record of a command that ends at `t` with status and DETAIL `x`. -/
def endedAt (t : Nat) (x : Nat × Nat) (c : CmdRec) : CmdRec :=
  { c with phase := .finished, status := x.1, detail := x.2, finishedAt := t }

/-- A live command that is no part of another ends by a change of its own record alone. -/
theorem finishCmd_eq_updCmd (d : Nat) (h : findCmd s id = some c) (hfin : c.phase ≠ .finished) (href : c.phase ≠ .refused)
    (hsub : ∀ p i, c.origin ≠ .sub p i) :
    finishCmd s id st d = updCmd s id (endedAt (now s) (finalStatus s c st d)) := by
  rw [finishCmd, finishFuel, h]
  dsimp only
  rw [if_neg (not_or.mpr ⟨hfin, href⟩)]
  split
  · exact absurd ‹_› (hsub _ _)
  · rfl

end

/-- Settles O58: such a command's end changes its record alone, and its final status is ST_DEADLINE_MISSED whichever completing
status its work gave. -/
theorem lateCommandsMissTheirDeadline : Obligations.LateCommandsMissTheirDeadline := by
  unfold Obligations.LateCommandsMissTheirDeadline
  intro s id st d c h hfin href hstarted hsub hst hset hlate
  rw [finishCmd_eq_updCmd d h hfin href hsub]
  exact ⟨updCmd_mem .., updCmd_seq .., endedAt (now s) (finalStatus s c st d) c, findCmd_updCmd_self (fun _ => rfl) h, rfl,
    finalStatus_of_late d hst hstarted hset hlate, rfl⟩

end Sys2Proof.Machine
end

section
/-! SUPPORT. The prepare of LEASE_OPEN: its four conditions in order, and the failures that they give
(17_security_and_leasing.md R601; 16_host_interface.md R586). -/

namespace Sys2Proof.Machine

theorem mem_allUnits (u : PUnit) : u ∈ allUnits := by cases u <;> simp [allUnits]

section
variable (s : State) (ps : List (BitVec 512))

/-- Every field of the record of LEASE_OPEN is in range (R601). -/
def leaseParamsOk : Bool :=
  leaseProfile ps ≤ 2 && 1 ≤ leaseInjrate ps && leaseInjrate ps ≤ 3200 && bits (paramNat ps) 1008 768 == 0
    && s.limits.nextProfok.toNat.testBit (leaseProfile ps)
    && !(leaseMirror ps && !s.fab.ident.toNat.testBit 489)
    && onP384 (bits (paramNat ps) 767 384) (bits (paramNat ps) 383 0)

/-- A unit is fenced or resetting of itself. -/
def someUnitHeld : Bool := allUnits.any fun u => (getUnit s u).own = .fenced || (getUnit s u).own = .resetting

/-- The device is not ready for a lease (R586, R601). -/
def leaseBusy : Bool :=
  s.lease.openL || s.lease.closing.isSome || !s.lease.scrubbed || !(tenantPairs s).isEmpty || someUnitHeld s

/-- A channel is out of service (R413). -/
def someChannelOut : Bool := (List.finRange 256).any fun n => (getUnit s (.channel n)).own = .outOfService

theorem prepareLeaseOpen_eq : prepareLeaseOpen s ps =
    if !leaseParamsOk s ps then stBadParam
    else if leaseBusy s then stNotReady
    else if someChannelOut s then stOutOfService
    else if !auditRoom s 8192 then stNoResource
    else stOk := rfl

theorem leaseParamsOk_iff : leaseParamsOk s ps = true ↔
    leaseProfile ps ≤ 2 ∧ s.limits.nextProfok.toNat.testBit (leaseProfile ps) = true
      ∧ 1 ≤ leaseInjrate ps ∧ leaseInjrate ps ≤ 3200 ∧ bits (paramNat ps) 1008 768 = 0
      ∧ (leaseMirror ps = true → s.fab.ident.toNat.testBit 489 = true)
      ∧ onP384 (bits (paramNat ps) 767 384) (bits (paramNat ps) 383 0) = true := by
  have hmirror : (!(leaseMirror ps && !s.fab.ident.toNat.testBit 489)) = true ↔
      (leaseMirror ps = true → s.fab.ident.toNat.testBit 489 = true) := by
    cases leaseMirror ps <;> simp
  simp only [leaseParamsOk, Bool.and_eq_true, decide_eq_true_eq, beq_iff_eq, hmirror, and_assoc, and_left_comm]

theorem someUnitHeld_iff :
    someUnitHeld s = true ↔ ∃ v : PUnit, (getUnit s v).own = .fenced ∨ (getUnit s v).own = .resetting := by
  simp [someUnitHeld, mem_allUnits]

theorem leaseBusy_iff : leaseBusy s = true ↔
    s.lease.openL = true ∨ s.lease.closing.isSome = true ∨ s.lease.scrubbed = false ∨ tenantPairs s ≠ []
      ∨ ∃ v : PUnit, (getUnit s v).own = .fenced ∨ (getUnit s v).own = .resetting := by
  rw [← someUnitHeld_iff]
  simp [leaseBusy, or_assoc]

theorem someChannelOut_iff : someChannelOut s = true ↔ ∃ n : Fin 256, (getUnit s (.channel n)).own = .outOfService := by
  simp [someChannelOut]

@[simp] theorem prepOpen_status : (prepOpen s ps).status = prepareLeaseOpen s ps := by
  unfold prepOpen
  dsimp only
  split
  · rfl
  split
  · rfl
  split <;> rfl

end

section
variable {s : State} {id st : Nat} {c : CmdRec} {u : PUnit}

/-- LEASE_OPEN on a unit, with nothing in its way, does what it does on this device alone. -/
theorem exec_leaseOpen_startable (h : Startable s id 0x0201 c u) (hfree : blockedObj (markStarted s id) (begun s c) = false) :
    exec (.leaseOpen id) s = .next (openHere (markStarted s id) (begun s c)) := by
  have ⟨_, _, _, htarget, _⟩ := h
  change runLease id 0x0201 openHere s = _
  simp [runLease, startCmd_startable h, show (begun s c).target = .unit u from htarget, hfree]

/-- A prepare that fails is the command's end, and nothing else changes. -/
theorem openHere_of_fails (hst : prepareLeaseOpen s c.params = st) (hne : st ≠ stOk) :
    openHere s c = finishCmd s c.id st (prepOpen s c.params).detail := by
  rw [openHere, prepOpen_status, hst, if_pos hne]

theorem exec_leaseOpen_of_fails (h : Startable s id 0x0201 c u) (hfree : blockedObj (markStarted s id) (begun s c) = false)
    (hst : prepareLeaseOpen s c.params = st) (hne : st ≠ stOk) :
    ∃ d, exec (.leaseOpen id) s = .next (finishCmd (markStarted s id) id st d) := by
  have hid : c.id = id := id_of_findCmd (findCmd_of_waiting h.1).1
  have hopen := openHere_of_fails (s := markStarted s id) (c := begun s c) hst hne
  exact ⟨_, by rw [exec_leaseOpen_startable h hfree, hopen, show (begun s c).id = id from hid]⟩

end

/-- Settles O60: the prepare asks its conditions in the order stated, the first that fails gives the status, and a status other
than ST_OK is the command's end alone. -/
theorem leaseOpenFailsInPrepare : Obligations.LeaseOpenFailsInPrepare := by
  unfold Obligations.LeaseOpenFailsInPrepare
  intro s id c u t p good busy lost fails hstart hfree
  have hgood : leaseParamsOk s c.params = true ↔ good := leaseParamsOk_iff s c.params
  have hbusy : leaseBusy s = true ↔ busy := leaseBusy_iff s
  have hlost : someChannelOut s = true ↔ lost := someChannelOut_iff s
  have hfails : ∀ {st : Nat}, prepareLeaseOpen s c.params = st → st ≠ stOk → fails st := exec_leaseOpen_of_fails hstart hfree
  rw [← hgood, ← hbusy, ← hlost]
  refine ⟨fun hbad => ?_, fun hok hb => ?_, fun hok hb hl => ?_, fun hok hb hl hroom => ?_⟩
  · exact hfails (by simp [prepareLeaseOpen_eq, hbad]) (by decide)
  · exact hfails (by simp [prepareLeaseOpen_eq, hok, hb]) (by decide)
  · exact hfails (by simp [prepareLeaseOpen_eq, hok, hb, hl]) (by decide)
  · have hfull : auditRoom s 8192 = false := hroom
    exact hfails (by simp [prepareLeaseOpen_eq, hok, hb, hl, hfull]) (by decide)

end Sys2Proof.Machine
end

section
/-! SUPPORT. The forms that every step keeps, the queue, memory under commands that store nothing, and that every run goes on
(95_what_each_step_holds.md; 12_memory_system.md; 20_debug_and_telemetry.md R692). -/

namespace Sys2Proof.Machine

/-! ### What a step leaves -/

/-- What a step leaves: all that `Keeps` says but the time and the queue, or, after a loss of power, a state that has every form. -/
theorem step_kept {s t : State} (e : step s = .next t) :
    (∃ rest count, Keeps false (atTime { s with pending := rest } count) t)
      ∨ (memWf t.mem = true ∧ EpochsOk t ∧ ArmOk t) := by
  obtain ⟨-, rfl⟩ | ⟨i, rest, -, e⟩ := step_cases e
  · exact .inl ⟨s.pending, _, keeps_tick⟩
  · by_cases hi : ∃ l, i = .powerLoss l
    · obtain ⟨l, rfl⟩ := hi
      obtain ⟨-, hforms⟩ := execPowerLoss_kept e
      exact .inr hforms
    · exact .inl ⟨rest, _, (keeps_exec_atTime (fun l hl => hi ⟨l, hl⟩) e).weaken⟩

/-- Settles O43: what a step keeps includes memory's canonical form, and the empty memory that a loss of power leaves has it. -/
theorem everyStepKeepsMemoryCanonical : Obligations.EveryStepKeepsMemoryCanonical := by
  unfold Obligations.EveryStepKeepsMemoryCanonical
  intro s t h e
  obtain ⟨rest, count, hk⟩ | ⟨hmem, -, -⟩ := step_kept e
  · exact hk.wf h
  · exact hmem

/-- Settles O45: what a step keeps includes that no arming stands beside a lease, and a loss of power leaves no arming. -/
theorem noArmingBesideALease : Obligations.NoArmingBesideALease := by
  unfold Obligations.NoArmingBesideALease
  intro s t h e
  obtain ⟨rest, count, hk⟩ | ⟨-, -, harm⟩ := step_kept e
  · exact hk.arm h
  · exact harm

/-! ### The queue and memory -/

/-- Settles O41: every command and event but a loss of power keeps the queue with the rest of `Keeps`, and a loss of power leaves it
by itself. -/
theorem commandsKeepTheQueue : Obligations.CommandsKeepTheQueue := by
  unfold Obligations.CommandsKeepTheQueue
  intro i s t e
  by_cases hi : ∃ l, i = .powerLoss l
  · obtain ⟨l, rfl⟩ := hi
    obtain ⟨hqueue, -⟩ := execPowerLoss_kept e
    exact hqueue
  · exact (keeps_exec_atTime (fun l hl => hi ⟨l, hl⟩) e).pending

theorem lineForeign_of_not_hbm (s : State) {a : Nat} (h : isHbm a = false) : lineForeign s (lineOf a) = false := by
  rw [lineForeign, isHbm_line, h, Bool.false_and]

/-- Over one memory a byte reads alike, in HBM where its line's key generation is the same (R407, R408). -/
theorem readByte_of_mem_eq {s t : State} (hmem : t.mem = s.mem) {a : Nat}
    (hgen : isHbm a = false ∨ lineGen t (lineOf a) = lineGen s (lineOf a)) : readByte t a = readByte s a := by
  have hraw (x : Nat) : rawByte t x = rawByte s x := by rw [rawByte, hmem, rawByte]
  obtain hsram | hline := hgen
  · rw [readByte_own (lineForeign_of_not_hbm t hsram), readByte_own (lineForeign_of_not_hbm s hsram), hraw]
  · exact readByte_congr hline (by rw [hmem]) fun x _ => hraw x

/-- Settles O42: a command that stores nothing is no loss of power, and `Keeps` then gives memory itself. -/
theorem commandsThatStoreNothingKeepMemory : Obligations.CommandsThatStoreNothingKeepMemory := by
  unfold Obligations.CommandsThatStoreNothingKeepMemory
  intro i s t hstores e
  have hi (l : LossIn) : i ≠ .powerLoss l := by
    rintro rfl
    exact absurd hstores (by simp [storesToMemory])
  have hmem : t.mem = s.mem := (keeps_exec_atTime hi e).mem (by rw [hstores]; rfl)
  exact ⟨hmem, fun a hgen => readByte_of_mem_eq hmem hgen⟩

/-! ### Every run goes on -/

/-- Every command and event answers a next state, by the law of its meaning. -/
theorem exec_answers (s : State) : ∀ i : Instr, ∃ t, exec i s = .next t
  | .mgmtSetLimits .. => next_execMgmtSetLimits
  | .mgmtSetProfile .. => next_execMgmtSetProfile
  | .mgmtOutOfServiceTake .. => next_execMgmtOutOfServiceTake
  | .mgmtOutOfServiceRestore .. => next_execMgmtOutOfServiceRestore
  | .mgmtReset .. => next_execMgmtReset
  | .mgmtSetIdentity .. => next_execMgmtSetIdentity
  | .mgmtFirmware .. => next_execMgmtFirmware
  | .qpCreate .. => next_execQpCreate
  | .qpDelete .. => next_execQpDelete
  | .memTest .. => next_execMemTest
  | .leaseOpen .. => next_execLeaseOpen
  | .leaseClose .. => next_execLeaseClose
  | .memMap .. => next_execMemMap
  | .dmaCopy .. => next_execDmaCopy
  | .flagSet .. => next_execFlagSet
  | .flagAdd .. => next_execFlagAdd
  | .flagWait .. => next_execFlagWait
  | .kernelLaunch .. => next_execKernelLaunch
  | .graphRun .. => next_execGraphRun
  | .seqConfig .. => next_execSeqConfig
  | .seqCreate .. => next_execSeqCreate
  | .seqDestroy .. => next_execSeqDestroy
  | .seqPrefill .. => next_execSeqPrefill
  | .seqStep .. => next_execSeqStep
  | .seqDraft .. => next_execSeqDraft
  | .seqCommit .. => next_execSeqCommit
  | .seqRetract .. => next_execSeqRetract
  | .seqSuspend .. => next_execSeqSuspend
  | .seqResume .. => next_execSeqResume
  | .seqEvict .. => next_execSeqEvict
  | .prefixPublish .. => next_execPrefixPublish
  | .fabRouteSet .. => next_execFabRouteSet
  | .fabCollective .. => next_execFabCollective
  | .collectiveArm .. => next_execCollectiveArm
  | .collectiveDisarm .. => next_execCollectiveDisarm
  | .portEnable .. => next_execPortEnable
  | .portDisable .. => next_execPortDisable
  | .portRetrain .. => next_execPortRetrain
  | .portLoopback .. => next_execPortLoopback
  | .telemRead .. => next_execTelemRead
  | .dumpCollect .. => next_execDumpCollect
  | .stopGlobalArm .. => next_execStopGlobalArm
  | .stopGlobalFire .. => next_execStopGlobalFire
  | .stopGlobalDisarm .. => next_execStopGlobalDisarm
  | .traceCtl .. => next_execTraceCtl
  | .auditRead .. => next_execAuditRead
  | .groupDefine .. => next_execGroupDefine
  | .groupDissolve .. => next_execGroupDissolve
  | .permissionRefusalReply .. => next_execPermissionRefusalReply
  | .completionWrite .. => next_execCompletionWrite
  | .commandTimeout .. => next_execCommandTimeout
  | .hangDrainEnd .. => next_execHangDrainEnd
  | .resetEnd .. => next_execResetEnd
  | .resetFaultEscalate .. => next_execResetFaultEscalate
  | .unitReady .. => next_execUnitReady
  | .remoteCommand .. => next_execRemoteCommand
  | .memberStateMessage .. => next_execMemberStateMessage
  | .atomicPrepare .. => next_execAtomicPrepare
  | .atomicDecision .. => next_execAtomicDecision
  | .atomicInDoubt .. => next_execAtomicInDoubt
  | .atomicDecisionQuery .. => next_execAtomicDecisionQuery
  | .add .. => next_execAdd
  | .sub .. => next_execSub
  | .mul .. => next_execMul
  | .mulhu .. => next_execMulhu
  | .and .. => next_execAnd
  | .or .. => next_execOr
  | .xor .. => next_execXor
  | .shl .. => next_execShl
  | .shr .. => next_execShr
  | .sra .. => next_execSra
  | .cmp .. => next_execCmp
  | .plog .. => next_execPlog
  | .ld .. => next_execLd
  | .st .. => next_execSt
  | .br .. => next_execBr
  | .brl .. => next_execBrl
  | .jr .. => next_execJr
  | .halt .. => next_execHalt
  | .fence .. => next_execFence
  | .flset .. => next_execFlset
  | .flwait .. => next_execFlwait
  | .flwaitTimeout .. => next_execFlwaitTimeout
  | .fladd .. => next_execFladd
  | .csrRead .. => next_execCsrRead
  | .csrWrite .. => next_execCsrWrite
  | .csrSet .. => next_execCsrSet
  | .csrClear .. => next_execCsrClear
  | .fadd .. => next_execFadd
  | .fsub .. => next_execFsub
  | .fmul .. => next_execFmul
  | .ffma .. => next_execFfma
  | .fdiv .. => next_execFdiv
  | .fsqrt .. => next_execFsqrt
  | .fminmax .. => next_execFminmax
  | .fcmp .. => next_execFcmp
  | .fcvt .. => next_execFcvt
  | .mma .. => next_execMma
  | .chain .. => next_execChain
  | .quant .. => next_execQuant
  | .accld .. => next_execAccld
  | .vld .. => next_execVld
  | .vst .. => next_execVst
  | .vacc .. => next_execVacc
  | .vadd .. => next_execVadd
  | .vsub .. => next_execVsub
  | .vmul .. => next_execVmul
  | .vfma .. => next_execVfma
  | .vdiv .. => next_execVdiv
  | .vsqrt .. => next_execVsqrt
  | .vminmax .. => next_execVminmax
  | .vcmp .. => next_execVcmp
  | .vsel .. => next_execVsel
  | .vcvt .. => next_execVcvt
  | .vdq .. => next_execVdq
  | .vfn .. => next_execVfn
  | .vred .. => next_execVred
  | .vquant .. => next_execVquant
  | .dma .. => next_execDma
  | .waitd .. => next_execWaitd
  | .dmaEntrySubmit .. => next_execDmaEntrySubmit
  | .dmaEntryComplete .. => next_execDmaEntryComplete
  | .atsTranslationCompletion .. => next_execAtsTranslationCompletion
  | .prgResponse .. => next_execPrgResponse
  | .priWaitExpiry .. => next_execPriWaitExpiry
  | .atsInvalidateRequest .. => next_execAtsInvalidateRequest
  | .invalidateCompletion .. => next_execInvalidateCompletion
  | .invalidateReadExpiry .. => next_execInvalidateReadExpiry
  | .fabricHoldExpiry => next_execFabricHoldExpiry
  | .guardVerdict .. => next_execGuardVerdict
  | .replayEnd .. => next_execReplayEnd
  | .fetch .. => next_execFetch
  | .append .. => next_execAppend
  | .stage .. => next_execStage
  | .xpose .. => next_execXpose
  | .merge .. => next_execMerge
  | .stepgraphComplete => next_execStepgraphComplete
  | .planReceive .. => next_execPlanReceive
  | .runAheadPrefetch => next_execRunAheadPrefetch
  | .canarySample .. => next_execCanarySample
  | .pacePublish => next_execPacePublish
  | .thermalTrip .. => next_execThermalTrip
  | .tbSyncPulse => next_execTbSyncPulse
  | .timeExchange .. => next_execTimeExchange
  | .alignTimeout => next_execAlignTimeout
  | .timeRootProbe => next_execTimeRootProbe
  | .timeRootProbeExpiry => next_execTimeRootProbeExpiry
  | .frameRead .. => next_execFrameRead
  | .frameWrite .. => next_execFrameWrite
  | .frameFlagAdd .. => next_execFrameFlagAdd
  | .frameReadData .. => next_execFrameReadData
  | .frameAck .. => next_execFrameAck
  | .frameNack .. => next_execFrameNack
  | .frameColl .. => next_execFrameColl
  | .frameMgmt .. => next_execFrameMgmt
  | .frameTime .. => next_execFrameTime
  | .frameDigest .. => next_execFrameDigest
  | .frameKeyx .. => next_execFrameKeyx
  | .digestMissingTimeout .. => next_execDigestMissingTimeout
  | .rekeyTrigger .. => next_execRekeyTrigger
  | .rekeyTimeout .. => next_execRekeyTimeout
  | .frameCounterLimit .. => next_execFrameCounterLimit
  | .collectiveTrigger .. => next_execCollectiveTrigger
  | .collectiveInstanceEnd .. => next_execCollectiveInstanceEnd
  | .portTrained .. => next_execPortTrained
  | .portLinkLoss .. => next_execPortLinkLoss
  | .portRetrainTimer .. => next_execPortRetrainTimer
  | .sbMarkOriginate => next_execSbMarkOriginate
  | .sbMark .. => next_execSbMark
  | .sbStop .. => next_execSbStop
  | .sbMgmt .. => next_execSbMgmt
  | .sbReply .. => next_execSbReply
  | .sbBypassAssert => next_execSbBypassAssert
  | .sbBypassOpen => next_execSbBypassOpen
  | .faultReport .. => next_execFaultReport
  | .faultWindowEnd .. => next_execFaultWindowEnd
  | .scrubRead .. => next_execScrubRead
  | .channelLost .. => next_execChannelLost
  | .bridgeFault => next_execBridgeFault
  | .hbmChannelTrained .. => next_execHbmChannelTrained
  | .domainDoze .. => next_execDomainDoze
  | .domainWake .. => next_execDomainWake
  | .domainWakeComplete .. => next_execDomainWakeComplete
  | .leaseCloseDrainEnd => next_execLeaseCloseDrainEnd
  | .hbmClearEnd => next_execHbmClearEnd
  | .hbmVerifyEnd .. => next_execHbmVerifyEnd
  | .fabricSecret .. => next_execFabricSecret
  | .mirrorSecret .. => next_execMirrorSecret
  | .installKey .. => next_execInstallKey
  | .plainSecret .. => next_execPlainSecret
  | .vangaerReply => next_execVangaerReply
  | .getCertificate session => next_execGetCertificate (_session := session)
  | .getMeasurements .. => next_execGetMeasurements
  | .kSetGo .. => next_execKSetGo
  | .lockInterface .. => next_execLockInterface
  | .startInterface .. => next_execStartInterface
  | .stopInterface .. => next_execStopInterface
  | .tdiError .. => next_execTdiError
  | .functionLevelReset => next_execFunctionLevelReset
  | .hotReset => next_execHotReset
  | .linkDown .. => next_execLinkDown
  | .d3hotToD0 => next_execD3hotToD0
  | .perstNAssert => next_execPerstNAssert
  | .perstNDeassert .. => next_execPerstNDeassert
  | .bar2Read .. => next_execBar2Read
  | .bar2Write .. => next_execBar2Write
  | .tlpRefused .. => next_execTlpRefused
  | .registerWrite .. => next_execRegisterWrite
  | .sqTailDoorbell .. => next_execSqTailDoorbell
  | .cqHeadDoorbell .. => next_execCqHeadDoorbell
  | .eventRingHeadDoorbell .. => next_execEventRingHeadDoorbell
  | .mqEnable .. => next_execMqEnable
  | .mqDisable .. => next_execMqDisable
  | .eventRingEnable .. => next_execEventRingEnable
  | .eventRingDisable .. => next_execEventRingDisable
  | .bootstrapGo .. => next_execBootstrapGo
  | .msixUnmask .. => next_execMsixUnmask
  | .porNDeassert .. => next_execPorNDeassert
  | .powerLoss .. => next_execPowerLoss
  | .stopArmExpiry => next_execStopArmExpiry
  | .auditCheckpoint => next_execAuditCheckpoint
  | .portSignalDetected .. => next_execPortSignalDetected
  | .linkRetransmit .. => next_execLinkRetransmit
  | .vcCreditReturn .. => next_execVcCreditReturn
  | .injectionTokenRefill => next_execInjectionTokenRefill
  | .keyExchange .. => next_execKeyExchange
  | .keyProg .. => next_execKeyProg
  | .memTestEnd .. => next_execMemTestEnd
  | .hardwareScrubEnd => next_execHardwareScrubEnd
  | .askocScrubEnd => next_execAskocScrubEnd
  | .i3cCommand .. => next_execI3cCommand
  | .getstatus => next_execGetstatus
  | .registerSnapshotRead .. => next_execRegisterSnapshotRead


theorem step_answers (s : State) : ∃ t, step s = .next t := by
  unfold step
  split
  · exact answers
  · exact exec_answers _ _

theorem safeFor_all (n : Nat) (s : State) : safeFor n s := by
  induction n generalizing s with
  | zero => trivial
  | succ n ih =>
    obtain ⟨t, e⟩ := step_answers s
    exact ⟨t, e, ih t⟩

/-- Settles O40: each meaning answers a next state, so a step does, and a run goes on by induction on its length. -/
theorem everyRunGoesOn : Obligations.EveryRunGoesOn := by
  unfold Obligations.EveryRunGoesOn
  exact ⟨fun i s => exec_answers s i, safeFor_all⟩

/-- Settles O1: by the definition of a step. -/
theorem stepRunsTheFrontCommand : Obligations.StepRunsTheFrontCommand := by
  unfold Obligations.StepRunsTheFrontCommand
  intro s i rest h
  simp only [step, h]

end Sys2Proof.Machine
end

section
/-! SUPPORT. The time over a step: a tick, a time exchange, a mark and a probe's end move it forward alone
(02_self_timed_operation.md R64 to R68; 15_onaux_fabric.md R559). -/

namespace Sys2Proof.Machine

/-- A tick moves the count on by 0 to 2, since FREQADJ is less than half of 2^32 (R64). -/
theorem count_tbTick {t : TbSt} (h : t.count.toNat + 2 < 2 ^ 64) : t.count.toNat ≤ (tbTick t).count.toNat := by
  unfold tbTick
  split
  · exact Nat.le_refl _
  · have hfrac := t.frac.isLt
    have hlo := t.freqAdj.le_toInt
    have hhi := t.freqAdj.toInt_lt
    rw [BitVec.toNat_ofInt]
    omega

/-- A step of the count is forward (R65, R67). -/
theorem count_correctTime {t : TbSt} {exchange : Bool} {offset : Int} (h : (t.count.toNat : Int) + offset < 2 ^ 64) :
    t.count.toNat ≤ (correctTime t exchange offset).count.toNat := by
  unfold correctTime
  dsimp only
  split
  next hstep =>
    obtain ⟨hpos, -⟩ := hstep
    rw [BitVec.toNat_ofInt]
    omega
  · exact Nat.le_refl _

/-- What keeps the count keeps the time. -/
theorem Keeps.now_eq {m : Bool} {a t : State} (h : Keeps m a t) : now t = now a := congrArg BitVec.toNat h.time

theorem tick_of_unlocked {s : State} (h : s.tb.locked = false) : tick s = s := by
  rw [tick, h]
  rfl

/-- The state with the timebase one tick on. -/
def tbTicked (s : State) : State := { s with tb := tbTick s.tb }

theorem tick_of_locked {s : State} (h : s.tb.locked = true) :
    tick s = memoryTick (engineTick (traceStalls (tbTicked s) (chargeAll (tbTicked s)))) := by
  unfold tick
  rw [if_neg (by simp [h])]
  rfl

/-- Where the timebase is locked a tick moves its count, and nothing else that passes does. -/
theorem count_tick {s : State} (h : s.tb.locked = true) : (tick s).tb.count = (tbTick s.tb).count := by
  rw [tick_of_locked h]
  exact (keeps_memoryTick (keeps_engineTick (keeps_traceStalls (.refl false (tbTicked s)) (keeps_chargeAll (.refl false _))))).time

theorem now_tick {s : State} (h : now s + 2 < 2 ^ 64) : now s ≤ now (tick s) := by
  cases hlocked : s.tb.locked with
  | false => exact Nat.le_of_eq (congrArg now (tick_of_unlocked hlocked)).symm
  | true =>
    rw [now, now, count_tick hlocked]
    exact count_tbTick h

theorem now_execTimeExchange {src : BitVec 2} {port : Fin 32} {x : ExchIn} {s t : State} (h : (now s : Int) + x.offset < 2 ^ 64)
    (e : execTimeExchange src port x s = .next t) : now s ≤ now t := by
  unfold execTimeExchange at e
  split at e
  · cases e
    exact Nat.le_refl _
  · have hroot : now (seeRoot s x.root) = now s := (keeps_seeRoot (.refl true s)).now_eq
    dsimp only at e
    generalize seeRoot s x.root = u at hroot e
    rw [← hroot] at h ⊢
    split at e
    · cases e
      exact Nat.le_refl _
    · cases e
      split
      · rw [(keeps_clearAligned (.refl true _)).now_eq]
        exact count_correctTime h
      · exact count_correctTime h

theorem now_takeMark {s : State} {value : Nat} (h : value < 2 ^ 64) : now s ≤ now (takeMark s value) := by
  unfold takeMark
  split
  · exact Nat.le_refl _
  · exact count_correctTime (by unfold now; omega)

theorem now_execSbMark {f : SbIn} {s t : State} (h : markT0 f + markFwd f + sbDly s < 2 ^ 64) (e : execSbMark f s = .next t) :
    now s ≤ now t := by
  unfold execSbMark sbArrive at e
  cases e
  have hforward (u : State) (g : SbIn) (bs : List Byte) : now (sbForward u g bs) = now u := (keeps_sbForward (.refl true u)).now_eq
  dsimp only
  split
  · exact Nat.le_refl _
  · split
    · split
      · rw [hforward]
        exact Nat.le_refl _
      · have hmark := now_takeMark (s := sbForward ({ s with sb := { s.sb with lastIn := now s + sbTime f } } : State) f
          (leBytes 8 (markT0 f) ++ leBytes 4 (markFwd f + (Config.sbDelay - 1)))) h
        rwa [hforward] at hmark
    · exact Nat.le_refl _

theorem now_execTimeRootProbeExpiry {s t : State} (h : ∀ t0 best, s.tb.probe = some (t0, best) → now s + best < 2 ^ 64)
    (e : execTimeRootProbeExpiry s = .next t) : now s ≤ now t := by
  unfold execTimeRootProbeExpiry at e
  split at e
  · cases e
    exact Nat.le_refl _
  next t0 best hprobe =>
    have hfit := h t0 best hprobe
    dsimp only at e
    split at e
    · cases e
      exact Nat.le_refl _
    · cases e
      show now s ≤ (BitVec.ofNat 64 (now s + best)).toNat
      rw [BitVec.toNat_ofNat]
      omega

/-- Settles O46: a tick and the three events that set the time move it forward where it fits, and every other command and event
keeps it. -/
theorem timeNeverFalls : Obligations.TimeNeverFalls := by
  unfold Obligations.TimeNeverFalls
  intro s t hfits hloss e
  obtain ⟨hroom, hfit⟩ := hfits
  obtain ⟨-, rfl⟩ | ⟨i, rest, hq, e⟩ := step_cases e
  · exact now_tick hroom
  · rw [hq, List.head?_cons] at hfit hloss
    by_cases hset : setsTime i = false
    · exact Nat.le_of_eq ((keepsRes_exec _ i hset).get t e).now_eq.symm
    · cases i with
      | timeExchange src port x => exact now_execTimeExchange (s := { s with pending := rest }) hfit e
      | sbMark f => exact now_execSbMark (s := { s with pending := rest }) hfit e
      | timeRootProbeExpiry => exact now_execTimeRootProbeExpiry (s := { s with pending := rest }) hfit e
      | powerLoss l => exact absurd rfl (hloss l)
      | _ => exact absurd rfl hset

end Sys2Proof.Machine
end

section
/-! SUPPORT. The words of core instructions: a word's fields are the fields that it was made of (08_core_programming.md R246,
R249, R255). -/

namespace Sys2Proof.Machine

theorem testBit_wordBits_pneg (o : Nat) (w : CoreWord) : (wordBits o w).testBit 119 = w.pneg := by
  have hlow := wordLow_lt w
  have hpred := w.pred.isLt
  have hrd := w.rd.isLt
  have hrs1 := w.rs1.isLt
  have hrs2 := w.rs2.isLt
  have hrs3 := w.rs3.isLt
  have hctl := w.ctl.isLt
  have himm := w.imm.isLt
  rw [Nat.testBit_eq_decide_div_mod_eq, wordBits]
  cases hneg : w.pneg <;> simp only [b2n, Bool.false_eq_true, if_true, if_false, decide_eq_true_eq, decide_eq_false_iff_not] <;> omega

theorem coreWordOf_wordBits (o : Nat) (w : CoreWord) : coreWordOf (wordBits o w) = w := by
  have hneg := testBit_wordBits_pneg o w
  have hb := b2n_lt w.pneg
  have hpred := w.pred.isLt
  have hrd := w.rd.isLt
  have hrs1 := w.rs1.isLt
  have hrs2 := w.rs2.isLt
  have hrs3 := w.rs3.isLt
  have hctl := w.ctl.isLt
  have himm := w.imm.isLt
  obtain ⟨pneg, pred, rd, rs1, rs2, rs3, ctl, imm⟩ := w
  rw [coreWordOf, hneg]
  simp only [CoreWord.mk.injEq, true_and]
  simp only at hb hpred hrd hrs1 hrs2 hrs3 hctl himm
  simp only [← BitVec.toNat_inj, Fin.ext_iff, fin, Fin.val_ofNat, BitVec.toNat_ofNat, wordBits, bits, Nat.shiftRight_eq_div_pow]
  refine ⟨?_, ?_, ?_, ?_, ?_, ?_, ?_⟩ <;> omega

/-- Settles O49: a word is made of its opcode and its fields and gives them back, so the tables of `coreInstr` and `coreBits`, read row
by row, are inverse; the row of a CSR access is its mode. -/
theorem coreInstructionsAndTheirWordsAgree : Obligations.CoreInstructionsAndTheirWordsAgree := by
  unfold Obligations.CoreInstructionsAndTheirWordsAgree
  refine ⟨fun i c n h hwait hread hwrite hset hclear => ?_, fun i c n _ h => ?_⟩
  · unfold coreBits at h
    split at h <;> cases h
    case h_22 => exact absurd rfl (hwait _ _)
    all_goals rw [coreInstr, wordBits_opc, coreWordOf_wordBits]
    case h_24 => rw [hread _ _ rfl]; rfl
    case h_25 => rw [hwrite _ _ rfl]; rfl
    case h_26 => rw [hset _ _ rfl]; rfl
    case h_27 => rw [hclear _ _ rfl]; rfl
    all_goals rfl
  · have hword := wordBits_coreWordOf n
    unfold coreInstr at h
    generalize coreWordOf n = w at *
    generalize n / 2 ^ 120 = o at *
    subst hword
    dsimp only at h
    split at h
    case h_55 => split at h <;> (cases h; rfl)
    all_goals cases h
    all_goals rfl

end Sys2Proof.Machine
end

section
/-! SUPPORT. A tick where nothing waits (02_self_timed_operation.md R64; 08_core_programming.md R243). -/

namespace Sys2Proof.Machine

/-! ### What passes where nothing waits -/

/-- A fold whose every element leaves the start as it is ends at the start. -/
theorem foldl_of_unchanged {α β : Type} {f : α → β → α} {a : α} (h : ∀ b, f a b = a) : ∀ l : List β, l.foldl f a = a
  | [] => rfl
  | b :: l => by rw [List.foldl_cons, h b, foldl_of_unchanged h l]

theorem drainAll_of_empty {s : State} (h : ∀ c, (getCore s c).matQ = [] ∧ (getCore s c).vecQ = []) : drainAll s = s := by
  refine foldl_of_unchanged (fun c => ?_) _
  obtain ⟨hmat, hvec⟩ := h c
  simp only [drainQueues, hmat, hvec, List.foldl_nil]

theorem bridgeFence_of_not_due {s : State} (h : s.rst.bridgeDue = false) : bridgeFence s = s := by
  rw [bridgeFence, h]
  rfl

theorem serveParked_of_none {s : State} (h : s.fab.parked = []) : serveParked s = s := by
  simp [serveParked, h]

theorem serveBar2_of_none {s : State} (h : s.host.parkedTlp = []) : serveBar2 s = s := by
  have hhost : { s.host with parkedTlp := [] } = s.host := by rw [← h]
  rw [serveBar2, h, hhost]
  rfl

theorem serveMgmt_of_none {s : State} (h : s.fab.parked = []) : serveMgmt s = s := by
  have hfab : { s.fab with parked := [] } = s.fab := by rw [← h]
  rw [serveMgmt, h, List.filter_nil, List.filter_nil, hfab]
  rfl

theorem servePlan_of_none {s : State} (h : s.seq.planned = none) : servePlan s = s := by
  simp only [servePlan, h]

theorem takeCommand_of_no_turn {s : State} (h : nextTurn s = none) : takeCommand s = s := by
  simp only [takeCommand, h]

theorem sendHeld_of_none {s : State} (h : ∀ k ∈ s.cmd.inflight, k.phase ≠ .held) : sendHeld s = s := by
  have hnone : (s.cmd.inflight.filter fun c => c.phase = .held && orderMet s c) = [] := by
    rw [List.filter_eq_nil_iff]
    intro k hk
    simp [h k hk]
  rw [sendHeld, hnone]
  rfl

theorem sendOutbox_of_none {s : State} (h : s.fab.outbox = []) : sendOutbox s = s := by
  have hfab : { s.fab with outbox := [] } = s.fab := by rw [← h]
  rw [sendOutbox, h, hfab]
  rfl

theorem reportErrors_of_none {s : State} (h : s.ecc.lines = []) : reportErrors s = s := by
  rw [reportErrors, h]
  rfl

/-- Nothing waits: no instruction of a core's queues, request of a peer or of the host, management message, plan of a set, command
of a queue pair or for another device and no fence of the dies, and no error stands in memory. -/
structure NothingWaits (s : State) : Prop where
  queues : ∀ c, (getCore s c).matQ = [] ∧ (getCore s c).vecQ = []
  parked : s.fab.parked = []
  parkedTlp : s.host.parkedTlp = []
  outbox : s.fab.outbox = []
  held : ∀ k ∈ s.cmd.inflight, k.phase ≠ .held
  bridge : s.rst.bridgeDue = false
  plan : s.seq.planned = none
  turn : nextTurn s = none
  errors : s.ecc.lines = []

/-- Where nothing waits the engines send the next sideband frame and do no more. -/
theorem engineTick_of_nothing {s : State} (h : NothingWaits s) : engineTick s = sbDrain s := by
  rw [engineTick, drainAll_of_empty h.queues, bridgeFence_of_not_due h.bridge, serveParked_of_none h.parked,
    serveBar2_of_none h.parkedTlp, serveMgmt_of_none h.parked, servePlan_of_none h.plan, takeCommand_of_no_turn h.turn,
    sendHeld_of_none h.held, sendOutbox_of_none h.outbox]

theorem sbDrain_eq (s : State) : ∃ out sb, sbDrain s = { s with out := out, sb := sb } := by
  unfold sbDrain
  split
  · exact ⟨_, _, rfl⟩
  · split <;> exact ⟨_, _, rfl⟩

/-- The patrol scrubber's schedule changes the stacks' sleep alone. -/
theorem scrubWakes_eq (s : State) (is : List Nat) :
    ∃ doze, is.foldl (fun s i => scrubWake s (216 + i)) s = { s with doze := doze } := by
  induction is generalizing s with
  | nil => exact ⟨s.doze, rfl⟩
  | cons i is ih =>
    have hwake : ∃ doze, scrubWake s (216 + i) = { s with doze := doze } := by
      unfold scrubWake
      split
      · exact ⟨_, rfl⟩
      · exact ⟨s.doze, rfl⟩
    obtain ⟨doze, h⟩ := hwake
    rw [List.foldl_cons, h]
    exact ih _

theorem upsetWord_eq (s : State) : ∃ ecc, upsetWord s = { s with ecc := ecc } := by
  unfold upsetWord
  dsimp only
  split
  · exact ⟨s.ecc, rfl⟩
  · exact ⟨_, rfl⟩

theorem memoryTick_of_no_errors {s : State} (h : s.ecc.lines = []) :
    ∃ ecc doze, memoryTick s = { s with ecc := ecc, doze := doze } := by
  unfold memoryTick
  split
  · exact ⟨s.ecc, s.doze, rfl⟩
  · rw [reportErrors_of_none h]
    obtain ⟨ecc, he⟩ := upsetWord_eq s
    rw [he]
    obtain ⟨doze, hd⟩ := scrubWakes_eq { s with ecc := ecc } (List.range 8)
    exact ⟨ecc, doze, hd⟩

/-- `t` is `s` but for the clusters' traces. -/
def TraceOnly (s t : State) : Prop := ∃ clusters, t = { s with clusters := clusters }

theorem TraceOnly.refl (s : State) : TraceOnly s s := ⟨s.clusters, rfl⟩

theorem TraceOnly.trans {a b c : State} (h : TraceOnly a b) (k : TraceOnly b c) : TraceOnly a c := by
  obtain ⟨_, rfl⟩ := h
  obtain ⟨clusters, rfl⟩ := k
  exact ⟨clusters, rfl⟩

theorem traceOnly_traceCore (s : State) (c : Fin 192) (etype typ data : Nat) : TraceOnly s (traceCore s c etype typ data) := by
  unfold traceCore
  dsimp only
  split
  · exact ⟨_, rfl⟩
  · exact .refl s

theorem traceOnly_traceStall (old new s : State) (c : Fin 192) (e : Fin 4) : TraceOnly s (traceStall old new s c e) := by
  have hend (a : Nat) : TraceOnly s (if a = 0 then s else traceCore s c e 4 a) := by
    split
    · exact .refl s
    · exact traceOnly_traceCore ..
  unfold traceStall
  dsimp only
  split
  · exact .refl s
  · split
    · exact hend _
    · exact (hend _).trans (traceOnly_traceCore ..)

theorem traceOnly_traceStalls (old new : State) : TraceOnly new (traceStalls old new) :=
  foldl_holds (P := TraceOnly new) (fun _ _ h => foldl_holds (P := TraceOnly new)
    (fun _ _ k => k.trans (traceOnly_traceStall ..)) h) (.refl new)

/-- Charging the engines changes no queue of a core. -/
theorem queues_chargeAll (s : State) (c : Fin 192) :
    (getCore (chargeAll s) c).matQ = (getCore s c).matQ ∧ (getCore (chargeAll s) c).vecQ = (getCore s c).vecQ := by
  have hcore : getCore (chargeAll s) c = chargeCore s c := Vector.getElem_ofFn ..
  rw [hcore]
  exact ⟨rfl, rfl⟩

theorem tick_of_nothing {s : State} (h : NothingWaits s) (hlocked : s.tb.locked = true) :
    ∃ out ecc cores clusters doze sb, tick s = { tbTicked s with
      out := out, ecc := ecc, cores := cores, clusters := clusters, doze := doze, sb := sb } := by
  obtain ⟨clusters, htrace⟩ := traceOnly_traceStalls (tbTicked s) (chargeAll (tbTicked s))
  have hquiet : NothingWaits { chargeAll (tbTicked s) with clusters := clusters } :=
    { queues := fun c => by
        obtain ⟨hmat, hvec⟩ := queues_chargeAll (tbTicked s) c
        exact ⟨hmat.trans (h.queues c).1, hvec.trans (h.queues c).2⟩
      parked := h.parked, parkedTlp := h.parkedTlp, outbox := h.outbox, held := h.held, bridge := h.bridge, plan := h.plan
      turn := h.turn, errors := h.errors }
  rw [tick_of_locked hlocked, htrace, engineTick_of_nothing hquiet]
  obtain ⟨out, sb, hdrain⟩ := sbDrain_eq { chargeAll (tbTicked s) with clusters := clusters }
  rw [hdrain]
  obtain ⟨ecc, doze, hmem⟩ := memoryTick_of_no_errors
    (s := { chargeAll (tbTicked s) with clusters := clusters, out := out, sb := sb }) h.errors
  exact ⟨out, ecc, _, clusters, doze, sb, hmem⟩

/-- Settles O2: an empty queue's step is a tick, which moves the count of a locked timebase alone, and where nothing waits the tick's
parts leave all but records, sleep and the sideband as they were. -/
theorem emptyQueueTicksTheTimebase : Obligations.EmptyQueueTicksTheTimebase := by
  unfold Obligations.EmptyQueueTicksTheTimebase
  intro s hq
  refine ⟨tick s, by rw [step, hq], keeps_tick.pending.trans hq, tick_of_unlocked, ?_, ?_⟩
  · cases hlocked : s.tb.locked with
    | false => rw [tick_of_unlocked hlocked]; rfl
    | true => exact count_tick hlocked
  · intro hqueues hparked htlp houtbox hheld hbridge hplan hturn herrors
    have hquiet : NothingWaits s := ⟨hqueues, hparked, htlp, houtbox, hheld, hbridge, hplan, hturn, herrors⟩
    cases hlocked : s.tb.locked with
    | false =>
      rw [tick_of_unlocked hlocked]
      exact ⟨rfl, rfl, rfl, rfl, rfl, rfl⟩
    | true =>
      obtain ⟨_, _, _, _, _, _, htick⟩ := tick_of_nothing hquiet hlocked
      rw [htick]
      exact ⟨rfl, rfl, rfl, rfl, rfl, rfl⟩

end Sys2Proof.Machine
end

section
/-! SUPPORT. UIDs and the units that they name (01_architecture.md R14 to R17). -/

namespace Sys2Proof.Machine

theorem fin_of_eq {n : Nat} [NeZero n] {x : Fin n} {v : Nat} (h : v = x.val) : fin n v = x := by
  subst h
  exact Fin.ofNat_val_eq_self x

/-- The fields of a UID hold the numbers that it is made of. -/
structure UidFields (n kind die cluster core etype index : Nat) : Prop where
  lt : n < 2 ^ 32
  kind : bits n 30 27 = kind
  die : bits n 26 26 = die
  cluster : bits n 25 22 = cluster
  core : bits n 21 19 = core
  etype : bits n 18 17 = etype
  index : bits n 16 8 = index

theorem uidFields_mkUid {kind die cluster core etype index : Nat} (hkind : kind < 16 := by omega) (hdie : die < 2 := by omega)
    (hcluster : cluster < 16 := by omega) (hcore : core < 8 := by omega) (hetype : etype < 4 := by omega)
    (hindex : index < 512 := by omega) :
    UidFields (mkUid kind die cluster core etype index) kind die cluster core etype index := by
  unfold mkUid
  refine ⟨?_, ?_, ?_, ?_, ?_, ?_, ?_⟩
  · omega
  all_goals
    simp only [bits, Nat.shiftRight_eq_div_pow]
    omega

/-- A unit's UID has the fields of its kind and place, and they point at the unit. -/
theorem uidOf_names (u : PUnit) : uidOf u < 2 ^ 32 ∧ uidUnit (uidOf u) = some u := by
  cases u with
  | engine c e =>
    have h := uidFields_mkUid (kind := 0) (die := c / 96) (cluster := c / 8 % 12) (core := c % 8) (etype := e) (index := 0)
    refine ⟨h.lt, ?_⟩
    simp only [uidUnit, uidOf, h.kind, h.die, h.cluster, h.core, h.etype]
    rw [fin_of_eq (x := c) (by omega), fin_of_eq (x := e) rfl]
  | core c =>
    have h := uidFields_mkUid (kind := 1) (die := c / 96) (cluster := c / 8 % 12) (core := c % 8) (etype := 0) (index := 0)
    refine ⟨h.lt, ?_⟩
    simp only [uidUnit, uidOf, h.kind, h.die, h.cluster, h.core]
    rw [fin_of_eq (x := c) (by omega)]
  | cluster k =>
    have h := uidFields_mkUid (kind := 2) (die := k / 12) (cluster := k % 12) (core := 0) (etype := 0) (index := 0)
    refine ⟨h.lt, ?_⟩
    simp only [uidUnit, uidOf, h.kind, h.die, h.cluster]
    rw [fin_of_eq (x := k) (by omega)]
  | die d =>
    have h := uidFields_mkUid (kind := 3) (die := d) (cluster := 0) (core := 0) (etype := 0) (index := 0)
    refine ⟨h.lt, ?_⟩
    simp only [uidUnit, uidOf, h.kind, h.die]
    rw [fin_of_eq (x := d) rfl]
  | device => exact ⟨by decide, rfl⟩
  | channel n =>
    have h := uidFields_mkUid (kind := 5) (die := n / 128) (cluster := 0) (core := 0) (etype := 0) (index := n % 128)
    refine ⟨h.lt, ?_⟩
    simp only [uidUnit, uidOf, h.kind, h.die, h.index]
    rw [fin_of_eq (x := n) (by omega)]
  | port p =>
    have h := uidFields_mkUid (kind := 6) (die := p / 16) (cluster := 0) (core := 0) (etype := 0) (index := p % 16)
    refine ⟨h.lt, ?_⟩
    simp only [uidUnit, uidOf, h.kind, h.die, h.index]
    rw [fin_of_eq (x := p) (by omega)]
  | attn k =>
    have h := uidFields_mkUid (kind := 7) (die := k / 12) (cluster := k % 12) (core := 0) (etype := 0) (index := 0)
    refine ⟨h.lt, ?_⟩
    simp only [uidUnit, uidOf, h.kind, h.die, h.cluster]
    rw [fin_of_eq (x := k) (by omega)]
  | seqEngine d =>
    have h := uidFields_mkUid (kind := 8) (die := d) (cluster := 0) (core := 0) (etype := 0) (index := 0)
    refine ⟨h.lt, ?_⟩
    simp only [uidUnit, uidOf, h.kind, h.die]
    rw [fin_of_eq (x := d) rfl]
  | hostIf => exact ⟨by decide, rfl⟩
  | vangaer => exact ⟨by decide, rfl⟩
  | mgmt d =>
    have h := uidFields_mkUid (kind := 11) (die := d) (cluster := 0) (core := 0) (etype := 0) (index := 0)
    refine ⟨h.lt, ?_⟩
    simp only [uidUnit, uidOf, h.kind, h.die]
    rw [fin_of_eq (x := d) rfl]

/-- A number names a unit only where it is that unit's UID, whatever its unused fields hold (R16). -/
theorem uidOf_of_unitOfUid {n : Nat} {u : PUnit} (h : unitOfUid n = some u) : uidOf u = n := by
  unfold unitOfUid at h
  split at h
  · cases h
  · split at h
    next huid =>
      cases h
      exact huid
    · cases h

/-- Settles O56: the fields of a unit's UID point at the unit, and a number with other fields set is no unit's UID. -/
theorem uidsNameTheirUnits : Obligations.UidsNameTheirUnits := by
  unfold Obligations.UidsNameTheirUnits
  refine ⟨fun u => ?_, fun n u h => uidOf_of_unitOfUid h⟩
  obtain ⟨hlt, hunit⟩ := uidOf_names u
  refine ⟨hlt, ?_⟩
  rw [unitOfUid, hunit]
  exact if_pos rfl

end Sys2Proof.Machine
end

section
/-! SUPPORT. The state right after power-on (22_package_pins_electrical.md; 01_architecture.md R37). -/

namespace Sys2Proof.Machine

theorem getCore_reset (c : Fin 192) : getCore State.reset c = CoreSt.init := Vector.getElem_replicate ..

theorem die_reset (d : Fin 2) : State.reset.dies[d] = DiePace.init := Vector.getElem_replicate ..

theorem port_reset (p : Fin 32) : State.reset.ports[p] = PortSt.init := Vector.getElem_replicate ..

theorem instrs_init (e : Fin 4) : (CoreSt.init.counts[e]).instrs = 0 := by
  show ((Vector.replicate 4 EngCount.zero)[e.val]).instrs = 0
  rw [Vector.getElem_replicate]
  rfl

theorem epochsOk_reset : EpochsOk State.reset := by
  refine ⟨fun u => ?_, fun e he => absurd he List.not_mem_nil⟩
  rw [getUnit_reset]
  decide

/-- Settles O57: each value is the one its field has in the initial state's definition, a table's entries that of the entry it
repeats. -/
theorem resetLeavesTheStatedValues : Obligations.ResetLeavesTheStatedValues := by
  unfold Obligations.ResetLeavesTheStatedValues
  refine ⟨fun c => ?_, fun u => ?_, rfl, fun _ => rfl, rfl, rfl, rfl, rfl, rfl, fun d => ?_, fun p => ?_, rfl, rfl, rfl, rfl, rfl, rfl,
    rfl, rfl, rfl, rfl, rfl, rfl, memWf_reset, epochsOk_reset, armOk_disarmed rfl⟩
  · rw [getCore_reset]
    exact ⟨rfl, rfl, rfl, rfl, rfl, rfl, rfl, rfl, instrs_init⟩
  · rw [getUnit_reset]
    rfl
  · rw [die_reset]
    exact ⟨rfl, rfl⟩
  · rw [port_reset]
    rfl

end Sys2Proof.Machine
end

section
/-! SUPPORT. What a write of memory leaves but its bytes (12_memory_system.md R397). -/

namespace Sys2Proof.Machine

/-- `t` is `s` but for memory and the record of its errors. -/
def MemoryOnly (s t : State) : Prop := ∃ mem ecc, t = { s with mem := mem, ecc := ecc }

theorem MemoryOnly.trans {a b c : State} (h : MemoryOnly a b) (k : MemoryOnly b c) : MemoryOnly a c := by
  obtain ⟨_, _, rfl⟩ := h
  obtain ⟨mem, ecc, rfl⟩ := k
  exact ⟨mem, ecc, rfl⟩

theorem memoryOnly_adoptLine (s : State) (line : Nat) : MemoryOnly s (adoptLine s line) := by
  unfold adoptLine
  split
  · exact ⟨_, s.ecc, rfl⟩
  · exact ⟨s.mem, s.ecc, rfl⟩

theorem memoryOnly_meetError (s : State) (line : Nat) : MemoryOnly s (meetError s line) := by
  obtain ⟨ecc, h⟩ := meetError_eq s line
  exact ⟨s.mem, ecc, h⟩

theorem memoryOnly_writeLine (s : State) (a : Nat) (bs : List Byte) : MemoryOnly s (writeLine s a bs) := by
  by_cases hwhole : a % 64 = 0 ∧ bs.length = 64
  · simp only [writeLine, if_pos hwhole]
    split <;> exact ⟨_, _, rfl⟩
  · simp only [writeLine, if_neg hwhole]
    exact ((memoryOnly_adoptLine ..).trans (memoryOnly_meetError ..)).trans ⟨_, _, rfl⟩

theorem memoryOnly_writeWords (fuel : Nat) (s : State) (a : Nat) (bs : List Byte) : MemoryOnly s (writeWords s fuel a bs) := by
  induction fuel generalizing s a bs with
  | zero => exact ⟨s.mem, s.ecc, rfl⟩
  | succ fuel ih =>
    rw [writeWords]
    split
    · exact ⟨s.mem, s.ecc, rfl⟩
    · exact (memoryOnly_writeLine ..).trans (ih ..)

theorem memoryOnly_writeBytes (s : State) (a : Nat) (bs : List Byte) : MemoryOnly s (writeBytes s a bs) := memoryOnly_writeWords ..

theorem memoryOnly_writeNat (s : State) (a n v : Nat) : MemoryOnly s (writeNat s a n v) := memoryOnly_writeBytes ..

/-- Settles O47: by the equation of each byte that reads after a write, and since a write changes memory and its errors' record
alone. -/
theorem writtenBytesReadBack : Obligations.WrittenBytesReadBack := by
  unfold Obligations.WrittenBytesReadBack
  intro s a n v hmem
  refine ⟨readNat_writeNat a n v hmem, fun b hb => ?_, ?_⟩
  · rw [readByte_writeNat a n v b hmem, if_neg (by omega)]
  · obtain ⟨mem, ecc, h⟩ := memoryOnly_writeNat s a n v
    rw [h]
    exact ⟨ecc, rfl⟩

end Sys2Proof.Machine
end

section
/-! SUPPORT. Commands that may not start: their ends, and the state that each of them leaves (14_command_interface.md R476,
R477). -/

namespace Sys2Proof.Machine

section
variable {s : State} {id op : Nat} {c : CmdRec}

/-- A command that DL_ABANDON gives up ends at its start (R477). -/
theorem startCmd_of_abandoned (hwait : waiting s id op = some c) (horder : orderMet s c = true)
    (hlate : hAbandon c.hdr = true ∧ hDeadline c.hdr ≤ now s) : startCmd s id op = .ended (finishCmd s id stDeadlineMissed 0) := by
  simp only [startCmd, hwait, horder, Bool.not_true, Bool.false_eq_true, if_false]
  exact if_pos hlate

/-- A command whose unit's epoch has moved on or wrapped ends at its start (R476). -/
theorem startCmd_of_stale_unit {u : PUnit} (hwait : waiting s id op = some c) (horder : orderMet s c = true)
    (htime : ¬(hAbandon c.hdr = true ∧ hDeadline c.hdr ≤ now s)) (htarget : c.target = .unit u)
    (hstale : c.epoch ≠ (getUnit s u).epoch ∨ c.acceptedAt < (getUnit s u).lastWrap) :
    startCmd s id op = .ended (finishCmd s id stStaleEpoch (epochOf s u)) := by
  have h : staleFor s (.unit u) c.epoch c.acceptedAt = true := by
    rwa [staleFor, Bool.or_eq_true, bne_iff_ne, decide_eq_true_iff]
  simp only [startCmd, hwait, horder, htarget, h, Bool.not_true, Bool.false_eq_true, if_false, if_true]
  exact if_neg htime

/-- A command whose group's epoch has moved on or wrapped ends at its start (R476). -/
theorem startCmd_of_stale_group {g : Nat} (hwait : waiting s id op = some c) (horder : orderMet s c = true)
    (htime : ¬(hAbandon c.hdr = true ∧ hDeadline c.hdr ≤ now s)) (htarget : c.target = .group g)
    (hstale : c.epoch ≠ groupEpoch s g ∨ c.acceptedAt < smapGet 0 s.groups.wrap g) :
    startCmd s id op = .ended (finishCmd s id stStaleEpoch (groupEpoch s g).toNat) := by
  have h : staleFor s (.group g) c.epoch c.acceptedAt = true := by
    rwa [staleFor, Bool.or_eq_true, bne_iff_ne, decide_eq_true_iff]
  simp only [startCmd, hwait, horder, htarget, h, Bool.not_true, Bool.false_eq_true, if_false, if_true]
  exact if_neg htime

theorem runCmd_of_ended {t : State} {f : State → CmdRec → PUnit → State} (h : startCmd s id op = .ended t) :
    runCmd s id op f = .next t := by
  rw [runCmd, h]

theorem runLease_of_ended {t : State} {here : State → CmdRec → State} (h : startCmd s id op = .ended t) :
    runLease id op here s = .next t := by
  rw [runLease, h]

/-- A waiting command is no MEM_MAP that has started. -/
theorem mapStarted_of_waiting (h : waiting s id op = some c) : mapStarted s id = false := by
  obtain ⟨hfind, -, hphase⟩ := findCmd_of_waiting h
  simp [mapStarted, hfind, hphase]

end

/-- The commands whose opcodes R476 and R477 hold back one by one: the 17 whose effect is of one step. -/
def oneStepCommands (id : Nat) : List (Instr × Nat) :=
  [(.mgmtSetLimits id, 0x0101), (.mgmtSetProfile id, 0x0102), (.mgmtSetIdentity id, 0x0105), (.mgmtFirmware id, 0x0106),
    (.qpCreate id, 0x0110), (.qpDelete id, 0x0111), (.memTest id, 0x0120), (.leaseOpen id, 0x0201), (.leaseClose id, 0x0202),
    (.memMap id, 0x0301), (.seqConfig id, 0x0501), (.fabRouteSet id, 0x0601), (.telemRead id, 0x0701), (.dumpCollect id, 0x0702),
    (.traceCtl id, 0x0704), (.auditRead id, 0x0705), (.groupDefine id, 0x0801)]

/-- What such a command leaves that ends at its start: its end alone, and a QP_DELETE lets its pair go on (R477). -/
theorem exec_of_ended {s t : State} {id op : Nat} {i : Instr} {c : CmdRec} (hi : (i, op) ∈ oneStepCommands id)
    (hwait : waiting s id op = some c) (h : startCmd s id op = .ended t) :
    exec i s = .next (if op = 0x0111 then keepPair t id else t) := by
  simp only [oneStepCommands, List.mem_cons, Prod.mk.injEq, List.not_mem_nil, or_false] at hi
  rcases hi with ⟨rfl, rfl⟩ | ⟨rfl, rfl⟩ | ⟨rfl, rfl⟩ | ⟨rfl, rfl⟩ | ⟨rfl, rfl⟩ | ⟨rfl, rfl⟩ | ⟨rfl, rfl⟩ | ⟨rfl, rfl⟩ | ⟨rfl, rfl⟩ |
    ⟨rfl, rfl⟩ | ⟨rfl, rfl⟩ | ⟨rfl, rfl⟩ | ⟨rfl, rfl⟩ | ⟨rfl, rfl⟩ | ⟨rfl, rfl⟩ | ⟨rfl, rfl⟩ | ⟨rfl, rfl⟩
  -- 0x0101 to 0x0110
  iterate 5 exact runCmd_of_ended h
  · change execQpDelete id s = _
    rw [execQpDelete, runCmd_of_ended h]
    rfl
  · exact runCmd_of_ended h
  -- 0x0201, 0x0202
  iterate 2 exact runLease_of_ended h
  · change execMemMap id s = _
    rw [execMemMap, mapStarted_of_waiting hwait]
    exact runCmd_of_ended h
  -- 0x0501, 0x0601
  iterate 2 exact runCmd_of_ended h
  · change execTelemRead id s = _
    rw [execTelemRead, h]
    rfl
  -- 0x0702 to 0x0705
  iterate 3 exact runCmd_of_ended h
  · change execGroupDefine id s = _
    rw [execGroupDefine, h]
    rfl

/-- Settles O59: a start that DL_ABANDON or an epoch forbids ends the command, and that end is all that each of the 17 then
leaves. -/
theorem commandsThatMayNotStartEnd : Obligations.CommandsThatMayNotStartEnd := by
  unfold Obligations.CommandsThatMayNotStartEnd
  intro s id op i c end_ hi hwait horder
  have hend {st d : Nat} (h : startCmd s id op = .ended (finishCmd s id st d)) : exec i s = end_ st d :=
    exec_of_ended hi hwait h
  exact ⟨fun habandon hlate => hend (startCmd_of_abandoned hwait horder ⟨habandon, hlate⟩),
    fun u htime htarget hstale => hend (startCmd_of_stale_unit hwait horder htime htarget hstale),
    fun g htime htarget hstale => hend (startCmd_of_stale_group hwait horder htime htarget hstale)⟩

end Sys2Proof.Machine
end

section
/-! SUPPORT. Scalar instructions that issue: integer arithmetic, comparison and predicates, loads and stores, control flow,
flags and control registers (08_core_programming.md R245 to R256, R272 to R275). -/

namespace Sys2Proof.Machine

/-! ### Integers and predicates (R249) -/

section
variable {s : State} {c : Fin 192} {w : CoreWord}

theorem intCond_signed (a b : BitVec 64) :
    intCond 2 a b = decide (a.toInt < b.toInt) ∧ intCond 3 a b = decide (b.toInt ≤ a.toInt) := by
  simp [intCond, BitVec.slt_eq_decide, ← decide_not]

theorem intCond_unsigned (a b : BitVec 64) :
    intCond 4 a b = decide (a.toNat < b.toNat) ∧ intCond 5 a b = decide (b.toNat ≤ a.toNat) := by
  simp [intCond, BitVec.ult_eq_decide, ← decide_not]

/-- CMP writes the relation that its COND names. -/
theorem exec_cmp_issues (h : Issues s c 0x10 (aluUse 7 0xF w) w) (hk : ctlBits w 3 1 ≤ 5) :
    exec (.cmp c w) s = .next (retiredNext s (modCore s c fun y => setP y (predField w.rd)
      (intCond (ctlBits w 3 1) (xr (getCore s c) w.rs1) (operandB (getCore s c) w))) c 2 0x10) := by
  change execCmp c w s = _
  rw [execCmp]
  exact issue_done h rfl (decide_eq_true hk) rfl

theorem exec_plog_issues (h : Issues s c 0x11 ⟨7, 7, 7, 0, 0xF, 0⟩ w) :
    exec (.plog c w) s = .next (retiredNext s (modCore s c fun y => setP y (predField w.rd)
      (ctlBit w (2 * b2n (pr (getCore s c) (predField w.rs1)) + b2n (pr (getCore s c) (predField w.rs2))))) c 2 0x11) := by
  change execPlog c w s = _
  rw [execPlog]
  exact issue_done h rfl rfl rfl

/-- An integer instruction writes its operation of the two operands. -/
theorem alu_issues {o : Nat} {f : BitVec 64 → BitVec 64 → BitVec 64} (h : Issues s c o (aluUse 31 1 w) w)
    (hk : opcKnown o = true) :
    alu o f c w s = .next (retiredNext s (modCore s c fun x => setX x w.rd (f (xr (getCore s c) w.rs1)
      (operandB (getCore s c) w))) c 2 o) :=
  issue_done h hk rfl rfl

end

/-- Settles O3: the one equation of the integer instructions, and CMP's relation number by number. -/
theorem integerAndPredicateInstructionsComplete : Obligations.IntegerAndPredicateInstructionsComplete := by
  unfold Obligations.IntegerAndPredicateInstructionsComplete
  refine ⟨fun s c w => ?_, fun s c w => ?_⟩
  · exact ⟨fun h => alu_issues h rfl, fun h => alu_issues h rfl, fun h => alu_issues h rfl, fun h => alu_issues h rfl,
      fun h => alu_issues h rfl, fun h => alu_issues h rfl, fun h => alu_issues h rfl, fun h => alu_issues h rfl,
      fun h => alu_issues h rfl, fun h => alu_issues h rfl⟩
  · intro x a b u res
    have hcmp (k : Nat) (hle : k ≤ 5) (h : Issues s c 0x10 u w) (hk : ctlBits w 3 1 = k) :
        exec (.cmp c w) s = res 0x10 (intCond k a b) := by
      subst hk
      exact exec_cmp_issues h hle
    obtain ⟨hlt, hge⟩ := intCond_signed a b
    obtain ⟨hult, huge⟩ := intCond_unsigned a b
    exact ⟨hcmp 0 (by decide), hcmp 1 (by decide), hlt ▸ hcmp 2 (by decide), hge ▸ hcmp 3 (by decide),
      hult ▸ hcmp 4 (by decide), huge ▸ hcmp 5 (by decide), fun h => exec_plog_issues h⟩

/-! ### Loads, stores and flags (R254, R273 to R275) -/

section
variable {s : State} {c : Fin 192} {w : CoreWord} {p : Nat}

theorem accessAt_eq_some {a n : Nat} (ha : a % n = 0) (hp : coreRange c a n = some p) : accessAt c a n = some p := by
  rw [accessAt, if_pos ha, hp]

theorem vld_issues (h : Starts s c 1 0x50 ⟨31, 31, 0, 0, 0xFFFF, immAll⟩ w) (hok : (decide (vType w ≤ 7) && vOk w) = true)
    {n : Nat} (hat : vAccess c w (getCore s c) = some (p, n)) (hfree : blocked s c [⟨p, n⟩] [] = false)
    (hclean : anyPoison s p n = false) :
    exec (.vld c w) s = .next (retiredNext s (vWrite (demand s p n) c w (vLanes (vType w) (vActive w) (vr (getCore s c) w.rd)
      fun i => (elemAt (typeBits (vType w)) (readNat s p n) (if ctlBit w 15 then 0 else i), 0))) c 1 0x50) := by
  have hfree' : blockedAt s c (getCore s c).chainNext [⟨p, n⟩] [] = false := hfree
  change execVld c w s = _
  rw [execVld]
  refine issueTile_done h rfl hok ?_
  simp only [vldRun, hat, hfree', hclean, Bool.false_eq_true, if_false]

theorem vst_issues (h : Starts s c 1 0x51 ⟨0, 31, 31, 0, 0x7FFF, immAll⟩ w) (hok : (decide (vType w ≤ 7) && vOk w) = true)
    {n : Nat} (hat : vAccess c w (getCore s c) = some (p, n)) (hfree : blocked s c [] [⟨p, n⟩] = false) :
    exec (.vst c w) s = .next (retiredNext s (writeNat s p n (vr (getCore s c) w.rs2 % 2 ^ (8 * n))) c 1 0x51) := by
  have hfree' : blockedAt s c (getCore s c).chainNext [] [⟨p, n⟩] = false := hfree
  change execVst c w s = _
  rw [execVst]
  refine issueTile_done h rfl hok ?_
  simp only [vstRun, hat, hfree', Bool.false_eq_true, if_false]

end

/-! ### Bytes of a number -/

theorem byteOf_mod {n i : Nat} (x : Nat) (h : i < n) : byteOf (x % 2 ^ (8 * n)) i = byteOf x i := by
  refine BitVec.eq_of_getLsbD_eq fun j hj => ?_
  simp only [byteOf, BitVec.getLsbD_ofNat, Nat.testBit_shiftRight, Nat.testBit_mod_two_pow]
  rw [decide_eq_true (show 8 * i + j < 8 * n by omega), Bool.true_and]

theorem leBytes_mod (n x : Nat) : leBytes n (x % 2 ^ (8 * n)) = leBytes n x :=
  List.map_congr_left fun _ hi => byteOf_mod x (List.mem_range.mp hi)

theorem leBytes_add (n m x : Nat) : leBytes (n + m) x = leBytes n x ++ leBytes m (x >>> (8 * n)) := by
  rw [leBytes, List.range_add, List.map_append, List.map_map, leBytes, leBytes]
  congr 1
  refine List.map_congr_left fun i _ => ?_
  rw [Function.comp_apply, byteOf, byteOf, Nat.mul_add, Nat.shiftRight_add]

/-- The first elements of a number one after the other are its bytes. -/
theorem flatMap_elemAt (n b x : Nat) :
    ((List.range n).flatMap fun i => leBytes b (elemAt (8 * b) x i)) = leBytes (n * b) x := by
  induction n with
  | zero => rw [Nat.zero_mul]; rfl
  | succ n ih =>
    rw [List.range_succ, List.flatMap_append, ih, Nat.add_mul, Nat.one_mul, leBytes_add, List.flatMap_singleton, elemAt, leBytes_mod,
      Nat.mul_assoc, Nat.mul_comm b n]

/-! ### Vector loads and stores -/

section
variable {s : State} {c : Fin 192} {w : CoreWord} {p : Nat}

theorem joinFlags_zeros {α : Type} (xs : List α) : joinFlags (xs.map fun _ => (0 : FFlags)) = 0 := by
  induction xs with
  | nil => rfl
  | cons x xs ih => simpa [joinFlags] using ih

theorem vLanes_of_values (t n old : Nat) (f : Nat → Nat) :
    vLanes t n old (fun i => (f i, 0))
      = (packElems (typeBits t) ((List.range (typeLanes t)).map fun i => if i < n then f i else lane t old i), 0) := by
  have hpair (i : Nat) : (if i < n then (f i, (0 : FFlags)) else (lane t old i, 0)) = (if i < n then f i else lane t old i, 0) := by
    split <;> rfl
  simp only [vLanes, hpair, List.map_map, Function.comp_def, joinFlags_zeros, ofLanes]

theorem vWrite_of_no_flags (s : State) (c : Fin 192) (w : CoreWord) (v : Nat) :
    vWrite s c w (v, 0) = modCore s c fun y => setV y w.rd v := by
  simp only [vWrite, raise_zero]

end

/-- A lane of what VLD reads is the number at its own address. -/
theorem elemAt_vld {w : CoreWord} (hty : vType w ≤ 7) (s : State) (p : Nat) {i : Nat} (hi : i < vActive w) :
    elemAt (typeBits (vType w)) (readNat s p ((if ctlBit w 15 then 1 else vActive w) * elemBytes w))
        (if ctlBit w 15 then 0 else i)
      = readNat s (p + (if ctlBit w 15 then 0 else i * elemBytes w)) (elemBytes w) := by
  have hbits : typeBits (vType w) = 8 * elemBytes w := typeBits_eq hty
  rw [hbits]
  cases ctlBit w 15 with
  | true => exact (elemAt_readNat s p Nat.zero_lt_one).trans (by simp)
  | false => exact elemAt_readNat s p hi

/-- Settles O4: the access that the address allows is the whole effect, each with its width or its lanes. -/
theorem loadsStoresAndFlagInstructionsComplete : Obligations.LoadsStoresAndFlagInstructionsComplete := by
  unfold Obligations.LoadsStoresAndFlagInstructionsComplete
  refine ⟨?_, ?_, ?_⟩
  · intro s c w p n a ha hp
    have hat : accessAt c (eaOf (getCore s c) w) (accessSize w) = some p := accessAt_eq_some ha hp
    refine ⟨fun h hfree hclean => ?_, fun h hfree => ?_⟩
    · change execLd c w s = _
      rw [execLd]
      refine issue_done h rfl rfl ?_
      have hfree' : blocked s c [⟨p, accessSize w⟩] [] = false := hfree
      have hclean' : anyPoison s p (accessSize w) = false := hclean
      simp only [hat, hfree', hclean', Bool.false_eq_true, if_false]
      rfl
    · change execSt c w s = _
      rw [execSt]
      refine issue_done h rfl rfl ?_
      have hfree' : blocked s c [] [⟨p, accessSize w⟩] = false := hfree
      simp only [hat, hfree', Bool.false_eq_true, if_false]
      rfl
  · intro s c w p x ty b nl n a old hty hrm hnl ha
    have hv : vOk w = true := by
      rw [vOk, hrm, Bool.true_and]
      exact decide_eq_true hnl
    have hok := vMove_ok (w := w) hty hv
    refine ⟨fun h hp hfree hclean => ?_, fun h hp hfree => ?_⟩
    · rw [vld_issues h hok (vAccess_eq_some rfl ha hp) hfree hclean, vLanes_of_values, vWrite_of_no_flags]
      congr 3
      funext y
      congr 2
      refine List.map_congr_left fun i _ => ?_
      by_cases hi : i < vActive w
      · exact (if_pos hi).trans ((elemAt_vld hty s p hi).trans (if_pos (c := i < nl) hi).symm)
      · exact (if_neg hi).trans (if_neg (c := i < nl) hi).symm
    · have hbits : 8 * elemBytes w = typeBits (vType w) := (typeBits_eq hty).symm
      rw [vst_issues h hok (vAccess_eq_some (vst_lanes h) ha hp) hfree, writeNat, leBytes_mod, ← flatMap_elemAt, hbits]
      rfl
  · intro s c w p x a old rec_ hp
    have hat : flagAt c (eaOf (getCore s c) w) = some p := hp
    refine ⟨fun h hheld hfree => ?_, fun h hheld hfree hclean => ?_, fun h hfree hclean hcond => ?_,
      fun h hfree hclean hcond hset htime => ?_⟩
    · change execFlset c w s = _
      rw [execFlset]
      refine issue_done h rfl rfl ?_
      have hheld' : releaseHeld s (getCore s c) = false := hheld
      simp only [hat, hheld', hfree, Bool.or_self, Bool.false_eq_true, if_false]
      simp only [rec_, Nat.zero_mul, Nat.zero_add]
      rfl
    · change execFladd c w s = _
      rw [execFladd]
      refine issue_done h rfl rfl ?_
      have hheld' : releaseHeld s (getCore s c) = false := hheld
      simp only [hat, hheld', hfree, hclean, Bool.or_self, Bool.false_eq_true, if_false]
      rfl
    · change execFlwait c w s = _
      rw [execFlwait]
      refine issue_done h rfl rfl ?_
      have hcond' : flagCond (ctlBits w 1 0) (readNat s p 8) (xr (getCore s c) w.rs2).toNat = true := hcond
      simp only [hat, hfree, hclean, hcond', Bool.false_eq_true, if_false, if_true]
      rfl
    · change execFlwaitTimeout c w s = _
      rw [execFlwaitTimeout]
      refine issue_done h rfl rfl ?_
      have hcond' : flagCond (ctlBits w 1 0) (readNat s p 8) (xr (getCore s c) w.rs2).toNat = false := hcond
      have hdue : xr (getCore s c) w.rs3 ≠ 0 ∧ now s ≥ (xr (getCore s c) w.rs3).toNat := ⟨hset, htime⟩
      simp only [hat, hfree, hclean, hcond', Bool.false_eq_true, if_false]
      rw [if_pos hdue]
      rfl

/-! ### Control flow, HALT and FENCE (R245, R249, R272, R284) -/

section
variable {s : State} {c : Fin 192} {w : CoreWord}

theorem coreQuiet_of_empty {x : CoreSt} (hm : x.matQ = []) (hv : x.vecQ = []) (hd : (ownEnts x).all entEnded = true)
    (hp : x.pend = none) (hc : x.cont = none) : coreQuiet x = true := by
  simp [coreQuiet, hm, hv, hd, hp, hc]

theorem exec_halt_issues (h : Issues s c 0x1B ⟨0, 0, 0, 0, 0, 0⟩ w) (hq : coreQuiet (getCore s c) = true) :
    exec (.halt c w) s = .next (endCore (retire s c 2 0x1B (pcOffset (getCore s c))) c
      ((dmaUnreported (getCore s c)).getD stOk)) := by
  change execHalt c w s = _
  rw [execHalt]
  refine issue_ended h rfl rfl ?_
  simp only [hq, Bool.not_true, Bool.false_eq_true, if_false]

/-- FENCE goes on where none of the four things that CTL may name is open. -/
theorem exec_fence_issues (h : Issues s c 0x1C ⟨0, 0, 0, 0, 0xF, 0⟩ w)
    (hdma : ctlBit w 2 = true → (ownEnts (getCore s c)).all entEnded = true)
    (hmat : ctlBit w 0 = true → (getCore s c).matQ = [] ∧ ((getCore s c).pend.isSome = true → (getCore s c).verdict = .open))
    (hvec : ctlBit w 1 = true → (getCore s c).vecQ = [])
    (hprov : ctlBit w 3 = true → (getCore s c).pend = none ∧ (getCore s c).cont = none) :
    exec (.fence c w) s = .next (retiredNext s s c 2 0x1C) := by
  change execFence c w s = _
  rw [execFence]
  refine issue_done h rfl rfl ?_
  rw [if_neg, if_neg, if_neg, if_neg]
  · simpa using hprov
  · simpa using hvec
  · simpa using hmat
  · simpa using hdma

end

/-- Settles O5: each branch writes the counter; HALT and FENCE go on once nothing that they wait for is left. -/
theorem branchesHaltAndFenceComplete : Obligations.BranchesHaltAndFenceComplete := by
  unfold Obligations.BranchesHaltAndFenceComplete
  refine ⟨?_, ?_⟩
  · intro s c w x
    refine ⟨fun h => ?_, fun h => ?_, fun h => ?_⟩
    · change execBr c w s = _
      rw [execBr]
      exact issue_jump h rfl rfl rfl
    · change execBrl c w s = _
      rw [execBrl]
      exact issue_jump h rfl rfl rfl
    · change execJr c w s = _
      rw [execJr]
      exact issue_jump h rfl rfl rfl
  · intro s c w x
    exact ⟨fun h hm hv hd hp hc => exec_halt_issues h (coreQuiet_of_empty hm hv hd hp hc), exec_fence_issues⟩

/-! ### Control registers (R255) -/

section
variable {s : State} {c : Fin 192} {w : CoreWord} {mode : Nat}

theorem csr_reserved (hm : ctlBits w 13 12 = mode) (hn : csrKnown (ctlBits w 11 0) = false)
    (h : Issues s c 0x24 ⟨31, if mode = 0 then 0 else 31, 0, 0, 0x3FFF, 0⟩ w) :
    csr mode c w s = .next (stopCore s c 1 0) := by
  rw [csr, if_neg (not_not_intro hm)]
  exact issue_stop_of_not_ok (standsAt_of_issues h) hn

theorem csr_known (hm : ctlBits w 13 12 = mode) (hn : csrKnown (ctlBits w 11 0) = true)
    (hheld : ctlBits w 11 0 = 1 → vecFcsrHeld (getCore s c) = false)
    (h : Issues s c 0x24 ⟨31, if mode = 0 then 0 else 31, 0, 0, 0x3FFF, 0⟩ w) :
    csr mode c w s = .next (retiredNext s (modCore s c fun y =>
      setX (if mode = 0 then y else csrWrite y (ctlBits w 11 0) (xr (getCore s c) w.rs1).toNat mode) w.rd
        (BitVec.ofNat 64 (csrRead s c (ctlBits w 11 0)))) c 2 0x24) := by
  rw [csr, if_neg (not_not_intro hm)]
  refine issue_done h rfl hn ?_
  dsimp only
  rw [if_neg (by simpa using hheld)]

end

theorem csrKnown_iff (n : Nat) :
    csrKnown n = true ↔ n = 0 ∨ n = 1 ∨ n = 0x10 ∨ n = 0x11 ∨ n = 0x20 ∨ n = 0x21 := by
  simp [csrKnown_eq]

/-- A CSR's value as a choice by its number. -/
theorem csrRead_of_known (s : State) (c : Fin 192) {n : Nat}
    (hn : n = 0 ∨ n = 1 ∨ n = 0x10 ∨ n = 0x11 ∨ n = 0x20 ∨ n = 0x21) :
    csrRead s c n = if n = 0 then (getCore s c).fcsrS.toNat else if n = 1 then (getCore s c).fcsrV.toNat
      else if n = 0x10 then now s else if n = 0x11 then s.pace.record.toNat else if n = 0x20 then uidOf (.core c)
      else ((getCore s c).dma.filter fun e => !entEnded e).length := by
  rcases hn with rfl | rfl | rfl | rfl | rfl | rfl <;> rfl

theorem csrWrite_eq (x : CoreSt) (n v m : Nat) :
    csrWrite x n v m = if n = 0 then { x with fcsrS := fcsrWrite x.fcsrS v m }
      else if n = 1 then { x with fcsrV := fcsrWrite x.fcsrV v m } else x := by
  match n with
  | 0 => rfl
  | 1 => rfl
  | _ + 2 => rfl

/-- Settles O6: the access reads before its mode writes, and only the two FCSRs take a write. -/
theorem csrAccessReadsThenModifies : Obligations.CsrAccessReadsThenModifies := by
  unfold Obligations.CsrAccessReadsThenModifies
  intro s c w x n m old upd res
  refine ⟨fun hn => ?_, fun hn hheld => ?_⟩
  · have hbad : csrKnown (ctlBits w 11 0) = false := Bool.eq_false_iff.mpr (mt (csrKnown_iff _).mp hn)
    exact ⟨fun hm h => csr_reserved hm hbad h,
      fun h => ⟨fun hm => csr_reserved hm hbad h, fun hm => csr_reserved hm hbad h, fun hm => csr_reserved hm hbad h⟩⟩
  · have hgood : csrKnown (ctlBits w 11 0) = true := (csrKnown_iff _).mpr hn
    have hold : csrRead s c (ctlBits w 11 0) = old := csrRead_of_known s c hn
    have hmod {mode : Nat} (hne : mode ≠ 0) (hm : m = mode) (h : Issues s c 0x24 ⟨31, 31, 0, 0, 0x3FFF, 0⟩ w) :
        csr mode c w s = res upd := by
      rw [csr_known hm hgood hheld (by rwa [if_neg hne]), hold]
      subst hm
      simp only [if_neg hne, csrWrite_eq]
      rfl
    refine ⟨fun hm h => ?_, hmod (by decide), hmod (by decide), hmod (by decide)⟩
    exact (csr_known hm hgood hheld h).trans (by rw [hold]; rfl)

end Sys2Proof.Machine
end

section
/-! SUPPORT. Scalar floating-point and vector instructions that complete (08_core_programming.md R249 to R253, R264 to R270). -/

namespace Sys2Proof.Machine

/-! ### Scalar floating point (R249, R252, R253) -/

section
variable {w : CoreWord}

theorem fpOk_of (hty : ctlBits w 3 0 ≤ 3) (hrm : rmFieldOk (ctlBits w 6 4) = true) : fpOk w = true := by
  rw [fpOk, hrm, Bool.and_true]
  exact decide_eq_true hty

end

/-- A scalar instruction of two operands writes its result and raises its flags. -/
theorem fp2_issues {s : State} {c : Fin 192} {w : CoreWord} {o : Nat} {f : FFmt → FEnv → Nat → Nat → Nat × FFlags}
    (h : Issues s c o ⟨31, 31, 31, 0, 0x7F, 0⟩ w) (hk : opcKnown o = true) (hok : fpOk w = true) :
    fp2 o f c w s = .next (retiredNext s (fpWrite s c w (f (typeFmt (fpType w)) (fpEnv (getCore s c) w)
      (fpArg (getCore s c) w w.rs1) (fpArg (getCore s c) w w.rs2))) c 2 o) :=
  issue_done h hk hok rfl

/-- Settles O7: each instruction's effect is its one write. -/
theorem scalarFloatingPointCompletes : Obligations.ScalarFloatingPointCompletes := by
  unfold Obligations.ScalarFloatingPointCompletes
  refine ⟨?_, ?_⟩
  · intro s c w x ty f e arg res u2 hty hrm
    have hok := fpOk_of (w := w) hty hrm
    refine ⟨fun h => fp2_issues h rfl hok, fun h => fp2_issues h rfl hok, fun h => fp2_issues h rfl hok, fun h => ?_,
      fun h => fp2_issues h rfl hok, fun h => ?_, fun h => ?_⟩
    · change execFfma c w s = _
      exact issue_done h rfl hok rfl
    · change execFsqrt c w s = _
      exact issue_done h rfl hok rfl
    · change execFminmax c w s = _
      exact issue_done h rfl hok rfl
  · intro s c w x e
    refine ⟨fun h hty hrm hk => ?_, fun h hs hd hrm => ?_⟩
    · have hok : (fpOk w && decide (ctlBits w 9 7 ≤ 6)) = true := by rw [fpOk_of hty hrm, decide_eq_true hk]; rfl
      change execFcmp c w s = _
      exact issue_done h rfl hok rfl
    · have hok : (fcvtType (ctlBits w 10 7) && fcvtType (ctlBits w 3 0) && rmFieldOk (ctlBits w 6 4)) = true := by
        rw [hs, hd, hrm]; rfl
      change execFcvt c w s = _
      rw [execFcvt]
      exact issue_done h rfl hok rfl

/-! ### Vectors (R249, R264) -/

section
variable {s : State} {c : Fin 192} {w : CoreWord}

theorem vOk_of (hrm : rmFieldOk (ctlBits w 6 4) = true) (hnl : ctlBits w 14 7 ≤ typeLanes (vType w)) : vOk w = true := by
  rw [vOk, hrm, Bool.true_and]
  exact decide_eq_true hnl

/-- A vector instruction on registers alone that starts writes its result, after it has drawn its free value. -/
theorem vIssue_starts {o : Nat} {u : FieldUse} {ok : Bool} {f : VFun} {draws : Bool} (h : Starts s c 1 o u w)
    (hk : opcKnown o = true) (hok : ok = true) (hv : vOk w = true) :
    vIssue o u ok f draws c w s
      = .next (retiredNext s (vWrite (if draws then drawFree s else (0, s)).2 c w
          (f w (getCore s c) (if draws then drawFree s else (0, s)).1)) c 1 o) :=
  issueTile_done h hk (by rw [hok, hv]; rfl) rfl

end

/-- VDIV and VSQRT draw a free value on I32 lanes alone, which is the only place that they use one. -/
theorem draw_eq (s : State) (p : Prop) [Decidable p] :
    (if decide p = true then drawFree s else (0, s)).2 = if p then (drawFree s).2 else s := by
  by_cases h : p <;> simp [h]

theorem vLanes_congr {t n old : Nat} {f g : Nat → Nat × FFlags} (h : ∀ i, f i = g i) : vLanes t n old f = vLanes t n old g := by
  rw [funext h]

theorem vdivFn_draw (s : State) (w : CoreWord) (x : CoreSt) :
    vdivFn w x (if decide (vType w = 4) = true then drawFree s else (0, s)).1 = vdivFn w x (Config.free s.free) := by
  refine vLanes_congr fun i => ?_
  by_cases h : vType w = 4 <;> simp [h, drawFree]

theorem vsqrtFn_draw (s : State) (w : CoreWord) (x : CoreSt) :
    vsqrtFn w x (if decide (vType w = 4) = true then drawFree s else (0, s)).1 = vsqrtFn w x (Config.free s.free) := by
  refine vLanes_congr fun i => ?_
  by_cases h : vType w = 4 <;> simp [h, drawFree]

/-- Settles O8: each lane operation issues and writes its active lanes. -/
theorem vectorArithmeticCompletes : Obligations.VectorArithmeticCompletes := by
  unfold Obligations.VectorArithmeticCompletes
  intro s c w x ty nl e ln res u1 u2 u3 t0 free hty hrm hnl
  have hv := vOk_of (w := w) hrm hnl
  have ha : vArith (vType w) = true := decide_eq_true hty
  refine ⟨fun h => vIssue_starts h rfl ha hv, fun h => vIssue_starts h rfl ha hv, fun h => vIssue_starts h rfl ha hv,
    fun h => vIssue_starts h rfl ha hv, fun h => ?_, fun h => ?_, fun h => vIssue_starts h rfl ha hv, fun h hk => ?_,
    fun h => vIssue_starts h rfl ha hv⟩
  · refine (vIssue_starts h rfl ha hv).trans ?_
    rw [vdivFn_draw, draw_eq]
    rfl
  · refine (vIssue_starts h rfl ha hv).trans ?_
    rw [vsqrtFn_draw, draw_eq]
    rfl
  · have hok : (vArith (vType w) && decide (ctlBits w 17 15 ≤ if vType w = 4 then 5 else 6)) = true := by
      rw [ha]; exact decide_eq_true hk
    exact vIssue_starts h rfl hok hv

/-- Settles O9: each issues and writes the lanes of its part, its tree or its row. -/
theorem vectorConversionsAndReductionsComplete : Obligations.VectorConversionsAndReductionsComplete := by
  unfold Obligations.VectorConversionsAndReductionsComplete
  intro s c w x ty nl e res old hrm hnl
  have hv := vOk_of (w := w) hrm hnl
  refine ⟨fun h hs hd hp => ?_, fun h ht hlo hhi => ?_, fun h hlo hhi hf => ?_, fun h ht hr => ?_, fun h ht hfree => ?_⟩
  · have hok : vcvtOk w = true := by
      rw [vcvtOk, Bool.and_eq_true, Bool.and_eq_true]
      exact ⟨⟨decide_eq_true hs, decide_eq_true hd⟩, decide_eq_true hp⟩
    exact vIssue_starts h rfl hok hv
  · have hok : (decide (vType w = 1) && decide (0x02 ≤ ctlBits w 19 15) && decide (ctlBits w 19 15 ≤ 0x0E)) = true := by
      rw [decide_eq_true hlo, decide_eq_true hhi, decide_eq_true (p := vType w = 1) ht]; rfl
    exact vIssue_starts h rfl hok hv
  · have hok : (decide (1 ≤ vType w) && decide (vType w ≤ 3) && decide (ctlBits w 18 15 ≤ 6)) = true := by
      rw [decide_eq_true hf, decide_eq_true (p := vType w ≤ 3) hhi, decide_eq_true (p := 1 ≤ vType w) hlo]; rfl
    exact vIssue_starts h rfl hok hv
  · have hok : (vArith (vType w) && decide (ctlBits w 16 15 ≤ 2)) = true := by
      rw [decide_eq_true hr, vArith, decide_eq_true (p := vType w ≤ 4) ht]; rfl
    exact vIssue_starts h rfl hok hv
  · have hok : (decide (vType w = 1) && vOk w) = true := by
      rw [hv, decide_eq_true (p := vType w = 1) ht]; rfl
    have hfree' : blockedAt s c (getCore s c).chainNext [accRng (ctlBits w 17 15)] [] = false := hfree
    change execVacc c w s = _
    refine issueTile_done h rfl hok ?_
    simp only [vaccRun, hfree', Bool.false_eq_true, if_false]
    rfl

end Sys2Proof.Machine
end

section
/-! SUPPORT. Instructions on tiles that complete: MMA, QUANT, VQUANT, ACCLD, and the DMA instructions and CHAIN
(04_matrix_arrays.md, 05_accumulation_and_quantisation.md, 07_fused_chains.md; 08_core_programming.md R257 to R286). -/

namespace Sys2Proof.Machine

/-! ### MMA (R128 to R144) -/

section
variable {s : State} {c : Fin 192} {w : CoreWord}

/-- Under HR = OFF or LOAD the product runs once the tiles are free. -/
theorem mmaPlain_runs {o : Nat} {a b : TileDesc} (ho : o = (getCore s c).chainNext)
    (hshape : mmaShapeOk (ctlBits w 1 0) (ctlBits w 3 2) a.fmt b.fmt a.rows b.rows a.cols b.cols = true)
    (ha : tileInScratch c a = true) (hb : tileInScratch c b = true)
    (hload : ctlBits w 7 6 = 1 → ctlBits w 1 0 ≠ 3 ∧ a.cols ≤ 64) (hfree : TilesFree s c [a, b] [] [] (mmaAccs w)) :
    mmaPlain s c w o a b = .done (countInvalid (modCore (tilesRead s c [a, b]) c fun y =>
      runMma (if ctlBits w 7 6 = 1 then heldLoad (tilesRead s c [a, b]) c y a (ctlBits w 1 0) (ctlBits w 3 2) else y)
        { shape := ctlBits w 1 0, asel := ctlBits w 3 2, keep := ctlBit w 4, drain := ctlBit w 5, fa := a.fmt, fb := b.fmt, k := a.cols
          a := (List.range a.rows).map fun m => tileOpRow (tilesRead s c [a, b]) c a a.cols m
          b := (List.range b.rows).map fun n => tileOpRow (tilesRead s c [a, b]) c b a.cols n })
      c (mtCount (tilesRead s c [a, b]) c a a.cols + mtCount (tilesRead s c [a, b]) c b a.cols)) := by
  have hok : (ctlBits w 7 6 = 1 && (ctlBits w 1 0 == 3 || decide (a.cols > 64))) = false := by
    simpa using hload
  rw [mmaPlain]
  simp only [hshape, ha, hb, hok, Bool.and_self, Bool.not_true, Bool.not_false, Bool.false_eq_true, if_false]
  exact withTiles_free hfree ho

/-- Under HR = USE the product runs with the rows held. -/
theorem mmaHeld_uses {x : CoreSt} {b : TileDesc} {r : HeldRec} (ho : x.chainNext = (getCore s c).chainNext)
    (hrec : x.heldRec = some r) (hshape : ctlBits w 1 0 = r.shape) (hasel : ctlBits w 3 2 = r.asel) (hk4 : r.shape ≠ 3)
    (hok : mmaShapeOk r.shape r.asel r.fmt b.fmt r.mh b.rows r.kh b.cols = true) (hkh : r.kh ≤ 64)
    (hb : tileInScratch c b = true) (hfree : TilesFree s c [b] [] [] (mmaAccs w)) :
    mmaHeld s c w x none b = .done (countInvalid (modCore (tilesRead s c [b]) c fun y => runMma y
        { shape := r.shape, asel := r.asel, keep := ctlBit w 4, drain := ctlBit w 5, fa := r.fmt, fb := b.fmt, k := r.kh
          a := (List.range r.mh).map fun m => heldOpRow y r.fmt r.gsz (shapeBase r.shape r.asel + m) r.kh
          b := (List.range b.rows).map fun n => tileOpRow (tilesRead s c [b]) c b r.kh n })
      c (mtCount (tilesRead s c [b]) c b r.kh)) := by
  simp only [mmaHeld, hrec, hshape, hasel, hok, hb, hkh, bne_iff_ne.mpr hk4, beq_self_eq_true, decide_true, Bool.and_self,
    Bool.not_true, Bool.false_eq_true, if_false, Option.toList, List.nil_append, Nat.zero_add]
  exact withTiles_free hfree ho

/-- Under HR = SHIFT_USE the held rows are shifted first. -/
theorem mmaHeld_shifts {x : CoreSt} {a b : TileDesc} {r : HeldRec} (ho : x.chainNext = (getCore s c).chainNext)
    (hrec : x.heldRec = some r) (hshape : ctlBits w 1 0 = r.shape) (hasel : ctlBits w 3 2 = r.asel) (hk4 : r.shape ≠ 3)
    (hok : mmaShapeOk r.shape r.asel r.fmt b.fmt r.mh b.rows r.kh b.cols = true) (hkh : r.kh ≤ 64)
    (hb : tileInScratch c b = true) (hcols : a.cols = r.kh) (hrows : a.rows ≤ 1) (hfmt : a.fmt = r.fmt) (hgsz : a.gsz = r.gsz)
    (ha : tileInScratch c a = true) (hfree : TilesFree s c [a, b] [] [] (mmaAccs w)) :
    mmaHeld s c w x (some a) b = .done (countInvalid (modCore (tilesRead s c [a, b]) c fun y =>
      let z := heldShift (tilesRead s c [a, b]) c y a r
      runMma z
        { shape := r.shape, asel := r.asel, keep := ctlBit w 4, drain := ctlBit w 5, fa := r.fmt, fb := b.fmt, k := r.kh
          a := (List.range r.mh).map fun m => heldOpRow z r.fmt r.gsz (shapeBase r.shape r.asel + m) r.kh
          b := (List.range b.rows).map fun n => tileOpRow (tilesRead s c [a, b]) c b r.kh n })
      c (mtCount (tilesRead s c [a, b]) c a r.kh + mtCount (tilesRead s c [a, b]) c b r.kh)) := by
  simp only [mmaHeld, hrec, hshape, hasel, hok, ha, hb, hkh, hcols, hrows, hfmt, hgsz, bne_iff_ne.mpr hk4, beq_self_eq_true,
    decide_true, Bool.and_self, Bool.not_true, Bool.false_eq_true, if_false, Option.toList, List.cons_append, List.nil_append]
  exact withTiles_free hfree ho

theorem mmaOk_of {shape asel fa fb m n ka kb : Nat} (hshape : ctlBits w 1 0 = shape) (hasel : ctlBits w 3 2 = asel)
    (hok : mmaShapeOk shape asel fa fb m n ka kb = true) (hk4 : ctlBits w 7 6 ≠ 0 → shape ≠ 3) : mmaOk w = true := by
  have hle : asel ≤ aselMax shape := by
    simp only [mmaShapeOk, Bool.and_eq_true, decide_eq_true_eq] at hok
    exact hok.1.1.1.1.1.1
  rw [mmaOk, hshape, hasel, decide_eq_true hle, Bool.true_and]
  by_cases h0 : ctlBits w 7 6 = 0
  · simp [h0]
  · simpa [h0] using hk4 h0

end

/-- Settles O10: one equation for each way in which tile A is found, given what the descriptors read. -/
theorem matrixMultiplyCompletes : Obligations.MatrixMultiplyCompletes := by
  unfold Obligations.MatrixMultiplyCompletes
  refine ⟨?_, ?_⟩
  · intro s c w pa pb a b x shape asel load s1 s2 t h hhr hpend hcont hta htb hshape ha hb hload hfree
    have hok : mmaOk w = true := mmaOk_of rfl rfl hshape fun h0 => (hload (show ctlBits w 7 6 = 1 by omega)).1
    have hheld : matrixHeld (getCore s c) = false := matrixHeld_false hpend hcont
    have h2 : ctlBits w 7 6 ≠ 2 := by omega
    have h3 : ctlBits w 7 6 ≠ 3 := by omega
    change execMma c w s = _
    rw [execMma, if_neg h2]
    refine issueTile_done h rfl hok ?_
    rw [mmaRun]
    simp only [hheld, Bool.false_eq_true, if_false, if_neg h2, if_neg h3]
    rw [withTile_at hta rfl, withTile_at htb (by rw [getCore_demand])]
    exact mmaPlain_runs (by rw [getCore_demand, getCore_demand]) hshape ha hb hload hfree
  · intro s c w pb b r x run hpend hcont hrec hshape hasel hk4 hmm hkh hb
    have hok : mmaOk w = true := mmaOk_of hshape hasel hmm fun _ => hk4
    have hheld : matrixHeld (getCore s c) = false := matrixHeld_false hpend hcont
    refine ⟨?_, ?_⟩
    · intro s1 t h hhr htb hfree
      change execMma c w s = _
      rw [execMma, if_pos hhr]
      refine issueTile_done h rfl hok ?_
      rw [mmaRun]
      simp only [hheld, Bool.false_eq_true, if_false, if_pos hhr]
      rw [withTile_at htb rfl]
      exact mmaHeld_uses (by rw [getCore_demand]) hrec hshape hasel hk4 hmm hkh hb hfree
    · intro pa a s1 s2 t h hhr hta htb hcols hrows hfmt hgsz ha hfree
      have h2 : ctlBits w 7 6 ≠ 2 := by omega
      change execMma c w s = _
      rw [execMma, if_neg h2]
      refine issueTile_done h rfl hok ?_
      rw [mmaRun]
      simp only [hheld, Bool.false_eq_true, if_false, if_neg h2, if_pos hhr]
      rw [withTile_at hta rfl, withTile_at htb (by rw [getCore_demand])]
      exact mmaHeld_shifts (by rw [getCore_demand, getCore_demand]) hrec hshape hasel hk4 hmm hkh hb hcols hrows hfmt hgsz ha hfree

/-! ### QUANT and VQUANT (R169 to R186, R261, R263) -/

/-- What a check has let pass. -/
theorem if_not_of_true {α : Type} {b : Bool} {x y : α} (h : b = true) : (if !b then x else y) = y := by rw [h]; rfl

section
variable {s : State} {c : Fin 192} {w : CoreWord} {q : QCtl} {d : TileDesc}

/-- QUANT runs once its descriptor and its ranges are free and its operands pass their checks. -/
theorem quantRun_completes {pd : Nat} (hheld : matrixHeld (getCore s c) = false)
    (htd : TileAt s c (xr (getCore s c) w.rs2).toNat pd d) (hq : qctlOf w.ctl.toNat = q)
    (hok : (q.fmt == d.fmt && q.gsz == d.gsz && decide (quantCount w * quantPer w ≤ d.rows)
      && decide (1 ≤ min 64 (d.cols - quantDcol w)) && (q.gsz == 0 || quantDcol w % gszLen q.gsz == 0)
      && statsOk c q d (quantCount w * quantPer w) (quantStatsAt (getCore s c) w)) = true)
    (hfree : TilesFree (demand s pd 32) c [] [d] (quantAccs w)
      (statsRanges c q d (quantCount w * quantPer w) (quantStatsAt (getCore s c) w)))
    (hclean : quantPoison (tilesRead (demand s pd 32) c []) c q d q.sinit (quantStatsAt (getCore s c) w) = none) :
    quantRun c w s (getCore s c) = .done (quantRows (demandAll (tilesRead (demand s pd 32) c [])
        (quantReads c q d q.sinit (quantStatsAt (getCore s c) w))) c q (quantRm (getCore s c) q) d (quantDcol w)
      (quantStatsAt (getCore s c) w) q.sinit
      ((List.range (quantCount w * quantPer w)).map fun i => (List.range (min 64 (d.cols - quantDcol w))).map fun j =>
        let t := accGet (getCore s c) (w.rs1.val % 8 + i / quantPer w) (i % quantPer w) j
        if q.fmt = 0x14 then (totDecode t, t.toNat) else wideOf t)).1 := by
  subst hq
  rw [quantRun]
  simp only [hheld, Bool.false_eq_true, if_false]
  rw [withTile_at htd rfl, if_not_of_true hok, withTiles_free hfree (by rw [getCore_demand])]
  simp only [hclean]

/-- VQUANT runs once its descriptors and its ranges are free and its operands pass their checks. -/
theorem vquantRun_completes {pt pd : Nat} {t : TileDesc} (htt : TileAt s c (xr (getCore s c) w.rs1).toNat pt t)
    (htd : TileAt (demand s pt 32) c (xr (getCore s c) w.rs2).toNat pd d) (hq : qctlOf w.ctl.toNat = q)
    (hok : (q.fmt == d.fmt && q.gsz == d.gsz && (t.fmt == 0x0F || t.fmt == 0x01 || t.fmt == 0x00) && tileLocal c t
      && tileLocal c d && decide (t.rows ≤ d.rows) && decide (quantDcol w + t.cols ≤ d.cols)
      && (q.gsz == 0 || quantDcol w % gszLen q.gsz == 0) && statsOk c q d t.rows (quantStatsAt (getCore s c) w)) = true)
    (hfree : TilesFree (demand (demand s pt 32) pd 32) c [t] [d] [] (statsRanges c q d t.rows (quantStatsAt (getCore s c) w)))
    (hclean : quantPoison (tilesRead (demand (demand s pt 32) pd 32) c [t]) c q d q.sinit (quantStatsAt (getCore s c) w) = none) :
    vquantRun c w s (getCore s c) = .done (quantRows (demandAll (tilesRead (demand (demand s pt 32) pd 32) c [t])
        (quantReads c q d q.sinit (quantStatsAt (getCore s c) w))) c q (quantRm (getCore s c) q) d (quantDcol w)
      (quantStatsAt (getCore s c) w) q.sinit
      ((List.range t.rows).map fun m =>
        (rowElems (tilesRead (demand (demand s pt 32) pd 32) c [t]) c t m 0 t.cols).map fun e => (elemDecode t.fmt e, 0))).1 := by
  subst hq
  rw [vquantRun, withTile_at htt rfl, withTile_at htd (by rw [getCore_demand]), if_not_of_true hok,
    withTiles_free hfree (by rw [getCore_demand, getCore_demand])]
  simp only [hclean]

end

/-- Settles O11: the descriptors that pass their checks leave the conversion as the whole effect. -/
theorem quantisersComplete : Obligations.QuantisersComplete := by
  unfold Obligations.QuantisersComplete
  intro s c w pd pt d t x q a dcol first nt per nc reads hgroup
  have hgroup' : (q.gsz == 0 || dcol % gszLen q.gsz == 0) = true := by simpa using hgroup
  refine ⟨?_, ?_⟩
  · intro s1 r h hpend hcont htd hfmt hgsz hvalid hset hrows hcols hstats hfree hclean
    have hok : quantOk w = true := by
      rw [← hfmt, ← hgsz] at hvalid
      have hset' : first / 4 = (first + w.rs1.val / 8) / 4 := hset.trans (by rw [show first + nt - 1 = first + w.rs1.val / 8 by omega])
      rw [quantOk, Bool.and_eq_true]
      exact ⟨hvalid, beq_iff_eq.mpr hset'⟩
    change execQuant c w s = _
    rw [execQuant]
    refine issueTile_done h rfl hok (quantRun_completes (matrixHeld_false hpend hcont) htd rfl ?_ hfree hclean)
    change (q.fmt == d.fmt && q.gsz == d.gsz && decide (nt * per ≤ d.rows) && decide (1 ≤ nc)
        && (q.gsz == 0 || dcol % gszLen q.gsz == 0) && statsOk c q d (nt * per) a) = true
    rw [hgroup', hstats, decide_eq_true hrows, decide_eq_true hcols, beq_iff_eq.mpr hfmt, beq_iff_eq.mpr hgsz]
    rfl
  · intro s1 s2 r h htt htd hfmt hgsz hvalid htfmt htl hdl hrows hcols hne hstats hfree hclean
    have hok : vquantOk w = true := by
      rw [← hfmt, ← hgsz] at hvalid
      rw [vquantOk, Bool.and_eq_true]
      exact ⟨hvalid, bne_iff_ne.mpr hne⟩
    have htfmt' : (t.fmt == 0x0F || t.fmt == 0x01 || t.fmt == 0x00) = true := by simpa [or_assoc] using htfmt
    change execVquant c w s = _
    rw [execVquant]
    refine issueTile_done h rfl hok (vquantRun_completes htt htd rfl ?_ hfree hclean)
    change (q.fmt == d.fmt && q.gsz == d.gsz && (t.fmt == 0x0F || t.fmt == 0x01 || t.fmt == 0x00) && tileLocal c t
      && tileLocal c d && decide (t.rows ≤ d.rows) && decide (dcol + t.cols ≤ d.cols)
      && (q.gsz == 0 || dcol % gszLen q.gsz == 0) && statsOk c q d t.rows a) = true
    rw [hgroup', hstats, htfmt', htl, hdl, decide_eq_true hrows, decide_eq_true hcols, beq_iff_eq.mpr hfmt, beq_iff_eq.mpr hgsz]
    rfl

/-! ### ACCLD, WAITD and DMA (R262, R276 to R286) -/

section
variable {s : State} {c : Fin 192} {w : CoreWord}

theorem accldRun_completes {p : Nat} {t : TileDesc} (hheld : matrixHeld (getCore s c) = false)
    (ht : TileAt s c (xr (getCore s c) w.rs1).toNat p t) (hrows : t.rows = 64) (hcols : t.cols = 64)
    (hfmt : t.fmt = 0x0F ∨ t.fmt = 0x14) (hfree : TilesFree (demand s p 32) c [t] [] [] [accRng (ctlBits w 2 0)]) :
    accldRun c w s (getCore s c) = .done (modCore (tilesRead (demand s p 32) c [t]) c fun y => (List.range 64).foldl (fun y i =>
      let es := (rowElems (tilesRead (demand s p 32) c [t]) c t i 0 64).map fun e => if t.fmt = 0x0F then totOfF32 e else totOfAcc48 e
      { y with acc := smapSetRun 0 y.acc (accKey (ctlBits w 2 0) i 0) es }) y) := by
  have hok : (t.rows == 64 && t.cols == 64 && (t.fmt == 0x0F || t.fmt == 0x14)) = true := by simpa [hrows, hcols] using hfmt
  rw [accldRun]
  simp only [hheld, Bool.false_eq_true, if_false]
  rw [withTile_at ht rfl, if_not_of_true hok, withTiles_free hfree (by rw [getCore_demand])]

theorem exec_dma_issues {ds : List (BitVec 512)} (h : Issues s c 0x70 ⟨0, 31, 0, 0, 0, 0⟩ w) (hroom : liveEnts (getCore s c) < 32)
    (hfree : blocked s c ((chainAddrs 16 s c (xr (getCore s c) w.rs1).toNat).map fun a => ⟨devAt c a, 64⟩) [] = false)
    (hread : readChain 16 s c (xr (getCore s c) w.rs1).toNat = .ok ds) (hok : ds.all (descOk c) = true)
    (htrack : trackerFull c (getCore s c) ((chainReads c ds).length + (chainWrites c ds).length) = false) :
    exec (.dma c w) s = .next (retiredNext s (queueChain (demandAll s
      ((chainAddrs 16 s c (xr (getCore s c) w.rs1).toNat).map fun a => ⟨devAt c a, 64⟩)) c none ds) c 3 0x70) := by
  change execDma c w s = _
  rw [execDma]
  refine issue_done h rfl rfl ?_
  simp only [hfree, decide_eq_false (Nat.not_le.mpr hroom), Bool.or_self, hread, hok, htrack, Bool.not_true, Bool.false_eq_true, if_false]

end

/-- Settles O12: the loads and tags that are ready leave their one effect; a DMA with room queues its parts. -/
theorem accumulatorLoadAndDmaInstructionsComplete : Obligations.AccumulatorLoadAndDmaInstructionsComplete := by
  unfold Obligations.AccumulatorLoadAndDmaInstructionsComplete
  refine ⟨?_, ?_⟩
  · intro s c w x
    refine ⟨?_, ?_⟩
    · intro p t r h hpend hcont ht hrows hcols hfmt hfree
      change execAccld c w s = _
      rw [execAccld]
      exact issueTile_done h rfl rfl (accldRun_completes (matrixHeld_false hpend hcont) ht hrows hcols hfmt hfree)
    · intro hit h hended
      have hnone : ((ownEnts x).any fun e => hit (dTag e.desc) && !entEnded e) = false := by
        rw [List.any_eq_false]
        intro e he hbusy
        obtain ⟨hhit, hlive⟩ := Bool.and_eq_true_iff.mp hbusy
        have hone := List.all_eq_true.mp hended e he
        rw [hhit, (Bool.not_eq_true' _).mp hlive] at hone
        exact Bool.false_ne_true hone
      change execWaitd c w s = _
      rw [execWaitd]
      refine issue_done h rfl rfl ?_
      exact if_neg (by rw [show ((ownEnts (getCore s c)).any fun e => (ctlBit w 0 || dTag e.desc == immBits w 15 0) && !entEnded e)
        = false from hnone]; exact Bool.false_ne_true)
  · intro s c w ds x a rs h hroom hfree hread hok htrack
    exact exec_dma_issues h hroom hfree hread hok htrack

/-! ### CHAIN (R217 to R240) -/

section
variable {s : State} {c : Fin 192} {w : CoreWord} {p : ChainProg}

/-- The ordinal record of a chain's guard, and the state of its core once the chain has run. -/
def chainRec (p : ChainProg) : Nat := match guardIdx p with | some g => (stageAt p.stages g).addr0 | none => 0

/-- The core after a chain has run: the guard's ordinal advances, and the verdict opens or the continuation is kept. -/
def chainLeaves (p : ChainProg) (x : CoreSt) (pc : PendChain) (y : CoreSt) : CoreSt :=
  let n := smapGet 0 x.guardSeq (chainRec p)
  let y := if (guardIdx p).isSome then { y with guardSeq := smapSet 0 y.guardSeq (chainRec p) (n + 1) } else y
  if x.pend.isSome then { y with cont := some pc }
  else if (guardIdx p).isSome then { y with pend := some pc, verdict := .open }
  else y

theorem chainLeaves_unguarded {x : CoreSt} (pc : PendChain) (hpend : x.pend = none) (hguard : guardIdx p = none) :
    chainLeaves p x pc = fun y => y := by
  funext y
  simp only [chainLeaves, hpend, hguard, Option.isSome_none, Bool.false_eq_true, if_false]

theorem chainLeaves_guarded {x : CoreSt} {g : Nat} (pc : PendChain) (hpend : x.pend = none) (hguard : guardIdx p = some g) :
    chainLeaves p x pc = fun y => { y with
      guardSeq := smapSet 0 y.guardSeq (chainRec p) (smapGet 0 x.guardSeq (chainRec p) + 1), pend := some pc, verdict := .open } := by
  funext y
  simp only [chainLeaves, hpend, hguard, Option.isSome_none, Option.isSome_some, Bool.false_eq_true, if_false, if_true]

theorem chainLeaves_continues {x : CoreSt} {q : PendChain} (pc : PendChain) (hpend : x.pend = some q) :
    chainLeaves p x pc = fun y => { y with
      guardSeq := if (guardIdx p).isSome then smapSet 0 y.guardSeq (chainRec p) (smapGet 0 x.guardSeq (chainRec p) + 1) else y.guardSeq
      cont := some pc } := by
  funext y
  cases hguard : guardIdx p <;> simp only [chainLeaves, hpend, hguard, Option.isSome_none, Option.isSome_some,
    Bool.false_eq_true, if_false, if_true]

/-- The state in which a chain runs: what its issue and its stages read has been read. -/
def chainReadState (s : State) (c : Fin 192) (w : CoreWord) (p : ChainProg) : State :=
  demandAll (demandAll s (issueRanges s c (xr (getCore s c) w.rs1).toNat)) (chainDemand c p ⟨false, (getCore s c).rebind, false⟩)

/-- What must be free for a chain to run at once (R285, R286). -/
structure ChainFree (s : State) (c : Fin 192) (w : CoreWord) (p : ChainProg) : Prop where
  cont : (getCore s c).cont = none
  flight : flightBlocks c (getCore s c) (getCore s c).chainNext (issueRanges s c (xr (getCore s c) w.rs1).toNat) [] = false
  prov : provBlocks s (issueRanges s c (xr (getCore s c) w.rs1).toNat) [] = false
  prog : readChainProg s c (xr (getCore s c) w.rs1).toNat = .ok p
  ok : chainOk s c p = true
  tiles : flightBlocks c (getCore s c) (getCore s c).chainNext
    (modeReadRngs c p ⟨false, (getCore s c).rebind, false⟩ ++ inoutRngs c p) (chainOutRngs c p ++ inoutRngs c p ++ chainAccs p) = false
  others : othersBlock s c
    (modeReadRngs c p ⟨false, (getCore s c).rebind, false⟩ ++ inoutRngs c p) (chainOutRngs c p ++ inoutRngs c p ++ chainAccs p) = false
  clean : chainPoison s c p ⟨false, (getCore s c).rebind, false⟩ = none

/-- CHAIN runs where it is free, with no verdict open or as its continuation. -/
theorem exec_chain_free (h : Starts s c 0 0x41 ⟨0, 31, 0, 0, 0, 0⟩ w) (hf : ChainFree s c w p)
    (hopen : ∀ q, (getCore s c).pend = some q → (getCore s c).verdict = .open ∧ mayContinue c p q = true) :
    exec (.chain c w) s = .next (retiredNext s (modCore (runChain (chainReadState s c w p) c p ⟨false, (getCore s c).rebind, false⟩) c
      (chainLeaves p (getCore s c) (pendOf (chainReadState s c w p) c p ⟨false, (getCore s c).rebind, false⟩
        (smapGet 0 (getCore s c).guardSeq (chainRec p)) (pcOffset (getCore s c)) (getCore s c).chainNext))) c 0 0x41) := by
  obtain ⟨hcont, hflight, hprov, hprog, hok, htiles, hothers, hclean⟩ := hf
  have hwait : ((getCore s c).cont.isSome || ((getCore s c).pend.isSome && decide ((getCore s c).verdict ≠ .open))) = false := by
    cases hp : (getCore s c).pend with
    | none => simp [hcont]
    | some q => simp [hcont, (hopen q hp).1]
  change execChain c w s = _
  rw [execChain]
  refine issueTile_done h rfl rfl ?_
  rw [chainRun]
  simp only [hwait, hflight, hprov, hprog, hok, htiles, hothers, hclean, Bool.or_self, Bool.or_false, Bool.not_true,
    Bool.false_eq_true, if_false]
  refine (if_neg ?_).trans ?_
  · cases hp : (getCore s c).pend with
    | none => exact Bool.false_ne_true
    | some q => simp [(hopen q hp).2]
  · rw [modCore_modCore]
    rfl

end

/-- Settles O13: the equation of `exec_chain_free` in each of the three cases of the core after the chain. -/
theorem chainCompletes : Obligations.ChainCompletes := by
  unfold Obligations.ChainCompletes
  intro s c w p x a o mode rs ws r h hcont hflight hprov hprog hok htiles hothers hclean
  have hf : ChainFree s c w p := ⟨hcont, hflight, hprov, hprog, hok, htiles, hothers, hclean⟩
  have hnone (hpend : (getCore s c).pend = none) (q : PendChain) (hq : (getCore s c).pend = some q) :
      (getCore s c).verdict = .open ∧ mayContinue c p q = true :=
    absurd (hpend.symm.trans hq) (Option.some_ne_none q).symm
  refine ⟨fun hpend hguard => ?_, fun g hpend hguard => ?_, fun q hpend hverdict hmay => ?_⟩
  · rw [exec_chain_free h hf (hnone hpend), chainLeaves_unguarded _ hpend hguard, modCore_id]
    rfl
  · have hrec : chainRec p = (stageAt p.stages g).addr0 := by rw [chainRec, hguard]
    rw [exec_chain_free h hf (hnone hpend), chainLeaves_guarded _ hpend hguard, hrec]
    rfl
  · have hopen (q' : PendChain) (hq : (getCore s c).pend = some q') :
        (getCore s c).verdict = .open ∧ mayContinue c p q' = true := by
      obtain rfl : q = q' := Option.some.inj (hpend.symm.trans hq)
      exact ⟨hverdict, hmay⟩
    rw [exec_chain_free h hf hopen, chainLeaves_continues _ hpend]
    rfl

end Sys2Proof.Machine
end

section
/-! SUPPORT. Commands that start and complete: how they end and are answered, management, queue pairs and leases, memory, flags and
launches (14_command_interface.md, 17_security_and_leasing.md, 18_bring_up_reset_recovery.md). -/

namespace Sys2Proof.Machine

/-! ### Ends, answers and timeouts (R465, R481, R485, R511) -/

section
variable {s : State} {id : Nat} {c : CmdRec}

theorem exec_completionWrite_of_finished (h : findCmd s id = some c) (hph : c.phase = .finished) (hturn : cqTurn s c = true)
    (hopen : cqOpen s c = true) :
    exec (.completionWrite id) s = .next (answerCmd { s with cmd := { s.cmd with
      decisions := s.cmd.decisions.filter fun d => d.1 ≠ id || c.status = stTimeout } } c) := by
  change execCompletionWrite id s = _
  rw [execCompletionWrite, h]
  exact if_pos ⟨hph, hturn, hopen⟩

theorem exec_permissionRefusalReply_of_refused (h : findCmd s id = some c) (hph : c.phase = .refused)
    (hdue : c.fetchedAt + 20000 ≤ now s) (hturn : cqTurn s c = true) (hopen : cqOpen s c = true) :
    exec (.permissionRefusalReply id) s = .next (answerCmd s c) := by
  change execPermissionRefusalReply id s = _
  rw [execPermissionRefusalReply, h]
  exact if_pos ⟨hph, hdue, hturn, hopen⟩

/-- What COMMAND_TIMEOUT does to a live command whose time has come. -/
theorem exec_commandTimeout_due (h : findCmd s id = some c) (hfin : c.phase ≠ .finished) (href : c.phase ≠ .refused)
    (hhung : c.hung = none) (hgraph : graphNode s c = false) (hdue : c.acceptedAt + cmdTimeout c.hdr c.acceptedAt ≤ now s) :
    exec (.commandTimeout id) s =
      if hOpcode c.hdr = 0x0305 ∧ c.fan.isEmpty then .next (finishCmd s id stTimeout (memberUid c.target))
      else if c.phase = .forwarded ∨ c.phase = .held then .next (finishCmd s id stTimeout (memberUid c.target))
      else if c.decided.isSome then
        .next (finishCmd (stampSet s c) id stTimeout (2 ^ 31 + (if c.decided = some true then 2 ^ 30 else 0)))
      else if leading c then .next (abortAtomic s c)
      else match findCmd (timeoutFar s id) id with
        | none => .next (timeoutFar s id)
        | some d => if d.phase = .finished then .next (timeoutFar s id) else .next (fenceWork (timeoutFar s id) d) := by
  have hlive : ¬(c.phase = .finished ∨ c.phase = .refused ∨ c.hung.isSome = true ∨ graphNode s c = true
      ∨ now s < c.acceptedAt + cmdTimeout c.hdr c.acceptedAt) := by
    simp [hfin, href, hhung, hgraph, Nat.not_lt.mpr hdue]
  change execCommandTimeout id s = _
  rw [execCommandTimeout, h]
  exact if_neg hlive

end

/-- Settles O14: what a command ends with is decided by its phase and opcode, case by case. -/
theorem commandsFinishAndAreAnswered : Obligations.CommandsFinishAndAreAnswered := by
  unfold Obligations.CommandsFinishAndAreAnswered
  refine ⟨fun s id st d c h hfin href hsub _ => finishCmd_eq_updCmd d h hfin href hsub, fun s id c h hturn hopen => ?_,
    fun s id c h hfin href hhung hgraph hdue => ?_⟩
  · exact ⟨fun hph => exec_completionWrite_of_finished h hph hturn hopen,
      fun hph hdue => exec_permissionRefusalReply_of_refused h hph hdue hturn hopen⟩
  · rw [exec_commandTimeout_due h hfin href hhung hgraph hdue]
    refine ⟨fun hop hfan => if_pos ⟨hop, List.isEmpty_iff.mpr hfan⟩, fun hop => ?_⟩
    rw [if_neg fun x => hop x.1]
    refine ⟨fun hph => if_pos hph, fun b hfwd hheld hdec => ?_, fun hfwd hheld hdec hlead => ?_,
      fun d hfwd hheld hdec hlead hfar hd => ?_⟩
    · rw [if_neg (not_or.mpr ⟨hfwd, hheld⟩), hdec]
      cases b <;> rfl
    · rw [if_neg (not_or.mpr ⟨hfwd, hheld⟩), hdec, hlead]
      rfl
    · rw [if_neg (not_or.mpr ⟨hfwd, hheld⟩), hdec, hlead, hfar]
      exact if_neg hd

/-! ### Management -/

section
variable {s : State} {id : Nat} {c : CmdRec} {u : PUnit}

theorem findCmd_of_startable {op : Nat} (h : Startable s id op c u) : findCmd s id = some c := (findCmd_of_waiting h.1).1

theorem fenceHeld_of_no_prepared (root : PUnit) (h : s.cmd.prepared = []) : fenceHeld s root = false := by
  rw [fenceHeld, h]
  rfl

end

/-- A check that finds nothing lets a command go on. -/
theorem if_not_isEmpty_of_nil {α β : Type} {l : List α} {x y : β} (h : l = []) : (if !l.isEmpty then x else y) = y := by
  rw [h]
  rfl

/-- A check that finds something ends a command. -/
theorem if_not_isEmpty_of_ne_nil {α β : Type} {l : List α} {x y : β} (h : l ≠ []) : (if !l.isEmpty then x else y) = x := by
  cases l with
  | nil => exact absurd rfl h
  | cons a l => rfl

section
variable {s : State} {id : Nat} {c : CmdRec} {u : PUnit}

theorem otherChange_iff (s : State) (id d : Nat) :
    otherChange s id d = true ↔ (dieOf s d).changing.isSome = true ∧ (dieOf s d).changing ≠ some id := by
  rw [otherChange]
  cases (dieOf s d).changing <;> simp

/-- MGMT_SET_PROFILE where no die is changed by another command. -/
theorem exec_mgmtSetProfile_free (h : Startable s id 0x0102 c u)
    (hfree : ∀ d ∈ profileDies u, otherChange s id d = false) :
    exec (.mgmtSetProfile id) s =
      (let v := bits (paramNat c.params) 511 510
       let ds := profileDies u
       let falls := ds.filter fun d => profileTarget s d v < (dieOf s d).vcore
       let t := ds.foldl (fun s d => setDie (setProfile s d v) d
         { dieOf (setProfile s d v) d with changing := if falls.contains d then some id else none }) (markStarted s id)
       .next (if falls.isEmpty then finishCmd t id stOk 0 else t)) := by
  have hfind : (profileDies u).find? (otherChange (markStarted s id) id) = none :=
    List.find?_eq_none.mpr fun d hd => by rw [show otherChange (markStarted s id) id d = false from hfree d hd]; exact Bool.false_ne_true
  refine (runCmd_startable _ h).trans ?_
  simp only [hfind]
  rfl

/-- MGMT_SET_PROFILE where another command still changes a die. -/
theorem exec_mgmtSetProfile_busy {d : Nat} {rest : List Nat} (h : Startable s id 0x0102 c u) (hds : profileDies u = d :: rest)
    (hbusy : otherChange s id d = true) :
    exec (.mgmtSetProfile id) s = .next (finishCmd (markStarted s id) id stNotReady (uidOf (.die (fin 2 d)))) := by
  have hfind : (profileDies u).find? (otherChange (markStarted s id) id) = some d := by
    rw [hds]
    exact List.find?_cons_of_pos hbusy
  refine (runCmd_startable _ h).trans ?_
  simp only [hfind]

theorem exec_mgmtSetIdentity_valid (h : Startable s id 0x0105 c u) (hok : checkSetIdentity (markStarted s id) c.params = []) :
    exec (.mgmtSetIdentity id) s =
      .next (finishCmd (bumpUnits { markStarted s id with
        fab := { s.fab with ident := c.params.headD 0 }, sec := { s.sec with flashIdent := c.params.headD 0 }
        tb := designate s.tb ((c.params.headD 0).toNat.testBit 495) } false 1 allUnits []) id stOk 0) := by
  refine (runCmd_startable _ h).trans (congrArg Host.Outcome.next ?_)
  exact if_not_isEmpty_of_nil hok

end

/-! #### Out of service and resets -/

section
variable {s : State} {id : Nat} {c : CmdRec} {u : PUnit}

theorem exec_take_free (h : Startable s id 0x0103 c u) (htake : (paramNat c.params).testBit 511 = true) (hheld : takeHeld s u = false) :
    exec (.mgmtOutOfServiceTake id) s = .next (finishCmd (takeOut (fenceOut (markStarted s id) u [id]) u) id stOk 0) := by
  have ⟨hwait, _, _, htarget, _⟩ := h
  change execMgmtOutOfServiceTake id s = _
  rw [execMgmtOutOfServiceTake, hwait]
  refine (if_neg ?_).trans (runCmd_startable _ h)
  rw [htake, htarget]
  simp [hheld]

theorem now_restorePort (s : State) (u : PUnit) : now (restorePort s u) = now s := by cases u <;> rfl

/-- The state in which a unit that was taken out starts again. -/
def startsAgain (s : State) (u : PUnit) : State :=
  restorePort (modUnit s u fun r => { r with own := .notReady, cause := 4, startAt := now s }) u

theorem exec_restore (h : Startable s id 0x0103 c u) (htake : (paramNat c.params).testBit 511 = false) :
    exec (.mgmtOutOfServiceRestore id) s = .next (
      if (getUnit s u).own ≠ .outOfService then finishCmd (markStarted s id) id stOk 0
      else if u = .device then
        finishCmd (beginReset (setOwn (answerDomain (backInService (markStarted s id) u) .device stFenced [id]) .device .ready) .device 4 []
          (now (backInService (markStarted s id) u))) id stOk 0
      else
        let r := startsAgain (backInService (markStarted s id) u) u
        finishCmd (tellState (checkAllReady r 4 (now r)) u) id stOk 0) := by
  have ⟨hwait, _⟩ := h
  change execMgmtOutOfServiceRestore id s = _
  rw [execMgmtOutOfServiceRestore, hwait]
  simp only [startsAgain, now_restorePort]
  exact (if_neg (by rw [htake]; exact Bool.false_ne_true)).trans (runCmd_startable _ h)

/-- The domain that a reset of a unit is of. -/
def resetRoot (u : PUnit) : PUnit := match u with | .seqEngine d => .die d | u => u

/-- What a reset of a domain leaves: it joins a larger domain's, or answers the domain's commands and begins. -/
def resetNow (s : State) (id : Nat) (root : PUnit) : State :=
  match largerAct s root with
  | some a => { s with rst := { s.rst with acts := s.rst.acts.map fun b =>
      if b.root = a.root then { b with cmds := b.cmds ++ [id] } else b } }
  | none => beginReset (answerDomain s root stFenced [id]) root 2 [id] (now (answerDomain s root stFenced [id]))

/-- MGMT_RESET where no prepared command holds back its domain. -/
theorem exec_mgmtReset_free (h : Startable s id 0x0104 c u) (hprep : s.cmd.prepared = []) :
    exec (.mgmtReset id) s = .next (resetNow (markStarted s id) id (resetRoot u)) := by
  have ⟨hwait, _, _, htarget, _⟩ := h
  change execMgmtReset id s = _
  rw [execMgmtReset, (findCmd_of_waiting hwait).1]
  refine (if_neg ?_).trans (runCmd_startable _ h)
  rw [Option.any_some, htarget]
  exact ne_true_of_eq_false (fenceHeld_of_no_prepared _ hprep)

end

/-- Settles O16: a command that may start runs its own rule, and the tests of that rule hold by hypothesis. -/
theorem managementCommandsComplete : Obligations.ManagementCommandsComplete := by
  unfold Obligations.ManagementCommandsComplete
  refine ⟨?_, ?_⟩
  · intro s id c u p t ds v falls set other
    have hfree (hother : ∀ d ∈ ds, ¬other d) (d : Nat) (hd : d ∈ profileDies u) : otherChange s id d = false :=
      Bool.eq_false_iff.mpr (mt (otherChange_iff s id d).mp (hother d hd))
    refine ⟨fun h => ?_, fun h hother hfalls => ?_, fun h hother hfalls => ?_, fun d rest h hds hd => ?_, fun h hcheck => ?_, fun h => ?_⟩
    · exact runCmd_startable _ h
    · exact (exec_mgmtSetProfile_free h (hfree hother)).trans (congrArg Host.Outcome.next (if_pos (List.isEmpty_iff.mpr hfalls)))
    · exact (exec_mgmtSetProfile_free h (hfree hother)).trans (congrArg Host.Outcome.next (if_neg (mt List.isEmpty_iff.mp hfalls)))
    · exact exec_mgmtSetProfile_busy h hds ((otherChange_iff s id d).mpr hd)
    · exact exec_mgmtSetIdentity_valid h hcheck
    · refine (runCmd_startable _ h).trans (congrArg Host.Outcome.next ?_)
      by_cases hcheck : checkFirmware t c.params = []
      · exact (if_not_isEmpty_of_nil hcheck).trans (if_neg (not_not_intro hcheck)).symm
      · exact (if_not_isEmpty_of_ne_nil hcheck).trans (if_pos hcheck).symm
  · intro s id c u t root back
    refine ⟨fun h htake hheld => ?_, fun h htake hin => ?_, fun h htake hout hdev => ?_, fun hdev h htake hout => ?_,
      fun h hprep hlarger => ?_, fun a h hprep hlarger => ?_⟩
    · exact exec_take_free h htake hheld
    · exact (exec_restore h htake).trans (congrArg Host.Outcome.next (if_pos hin))
    · rw [exec_restore h htake, if_neg (not_not_intro hout), if_neg hdev, startsAgain]
      change Host.Outcome.next (let r := restorePort (modUnit back u fun r => { r with own := .notReady, cause := 4, startAt := now back }) u
        finishCmd (tellState (checkAllReady r 4 (now r)) u) id stOk 0) = _
      generalize modUnit back u (fun r => { r with own := .notReady, cause := 4, startAt := now back }) = r
      cases u <;> rfl
    · subst hdev
      rw [exec_restore h htake, if_neg (not_not_intro hout), if_pos rfl]
    · rw [exec_mgmtReset_free h hprep, resetNow, show largerAct (markStarted s id) (resetRoot u) = none from hlarger]
      rfl
    · rw [exec_mgmtReset_free h hprep, resetNow, show largerAct (markStarted s id) (resetRoot u) = some a from hlarger]
      rfl

/-! ### Queue pairs and leases -/

section
variable {s : State} {id : Nat} {c : CmdRec} {u : PUnit} {g op : Nat} {here : State → CmdRec → State}

/-- LEASE_OPEN and LEASE_CLOSE on a unit, with nothing in their way, do what they do on this device alone. -/
theorem runLease_startable (h : Startable s id op c u) (hfree : blockedObj (markStarted s id) (begun s c) = false) :
    runLease id op here s = .next (here (markStarted s id) (begun s c)) := by
  have ⟨_, _, _, htarget, _⟩ := h
  simp [runLease, startCmd_startable h, show (begun s c).target = .unit u from htarget, hfree]

/-- On a group they lead an atomic command. -/
theorem runLease_startableGroup (h : StartableGroup s id op c g) :
    runLease id op here s = .next (leadAtomic (markStarted s id) (begun s c) g) := by
  have ⟨_, _, _, htarget, _⟩ := h
  simp [runLease, startCmd_startableGroup h, show (begun s c).target = .group g from htarget]

/-- A prepare that succeeds is committed under a new identifier. -/
theorem openHere_of_ok (h : (prepOpen s c.params).status = stOk) :
    openHere s c = finishCmd (commitLeaseOpen (drawRandom s).2 c.params (leaseIdOf (drawRandom s).1)) c.id stOk
      (leaseIdOf (drawRandom s).1) := by
  rw [openHere, h]
  exact if_neg (not_not_intro rfl)

theorem closeHere_of_free (h : s.lease.closing = none) :
    closeHere s c = commitLeaseClose s c.id (c.role = .tenant) (closeVerify c.params) := by
  have hst : prepareLeaseClose s = stOk := by rw [prepareLeaseClose, h]; rfl
  rw [closeHere, hst]
  exact if_neg (not_not_intro rfl)

theorem exec_qpDelete_startable (h : Startable s id 0x0111 c u) :
    exec (.qpDelete id) s = .next (keepPair
      (if (getQp s (bits (paramNat c.params) 511 504)).isNone then finishCmd (markStarted s id) id stOk 0
        else tryDeletePair (markStarted s id) (bits (paramNat c.params) 511 504)) id) := by
  change execQpDelete id s = _
  rw [execQpDelete, runCmd_startable _ h]
  rfl

theorem onAccepted_qpDelete {q : QpSt} (hop : hOpcode c.hdr = 0x0111) (hlive : ¬(hAbandon c.hdr = true ∧ hDeadline c.hdr ≤ now s))
    (hq : getQp s (bits (paramNat c.params) 511 504) = some q) :
    onAccepted s c = setQp s (bits (paramNat c.params) 511 504) (some { q with deleting := q.deleting ++ [c.id] }) := by
  rw [onAccepted, if_neg (by rw [hop]; decide), if_neg (by rw [hop]; decide), if_pos hop, if_neg (by simpa using hlive), stopPair, hq]

theorem nextCmdOf_of_deleting {q : QpSt} (h : q.deleting ≠ []) : nextCmdOf q = none := by
  have hdel : q.deleting.isEmpty = false := by simpa using h
  rw [nextCmdOf, hdel]
  simp

end

/-- Settles O17: a command that may start runs its own rule; over a group it leads an atomic command. -/
theorem queuePairAndLeaseCommandsComplete : Obligations.QueuePairAndLeaseCommandsComplete := by
  unfold Obligations.QueuePairAndLeaseCommandsComplete
  refine ⟨?_, ?_⟩
  · intro s id c u p n t
    refine ⟨fun h hq => ?_, fun q hop hlive hq => onAccepted_qpDelete hop hlive hq, fun q hq => nextCmdOf_of_deleting hq,
      fun q h hq => ?_, fun h hq => ?_⟩
    · refine (runCmd_startable _ h).trans (congrArg Host.Outcome.next (if_neg ?_))
      rw [show getQp (markStarted s id) (bits (paramNat (begun s c).params) 511 504) = none from hq]
      exact Bool.false_ne_true
    · rw [exec_qpDelete_startable h, show getQp s (bits (paramNat c.params) 511 504) = some q from hq]
      rfl
    · rw [exec_qpDelete_startable h, show getQp s (bits (paramNat c.params) 511 504) = none from hq]
      rfl
  · intro s id c t d
    refine ⟨fun u h hfree hok => ?_, fun u h hfree hclosing => ?_, fun g h => runLease_startableGroup h,
      fun g h => runLease_startableGroup h⟩
    · exact (runLease_startable h hfree).trans (congrArg Host.Outcome.next (openHere_of_ok hok))
    · exact (runLease_startable h hfree).trans (congrArg Host.Outcome.next (closeHere_of_free hclosing))

/-! ### Memory and flags -/

section
variable {s : State} {id : Nat} {c : CmdRec} {u : PUnit}

theorem not_mapStarted_of_accepted (h : findCmd s id = some c) (hph : c.phase = .accepted) : mapStarted s id = false := by
  simp [mapStarted, h, hph]

theorem onAccepted_memMap (hop : hOpcode c.hdr = 0x0301) (hlive : ¬(hAbandon c.hdr = true ∧ hDeadline c.hdr ≤ now s)) :
    onAccepted s c = acceptMap (if orderMet s c then markStarted s c.id else s) c.id c.params := by
  rw [onAccepted, if_pos hop, if_neg (by simpa using hlive)]

theorem exec_memMap_started (h : findCmd s id = some c) (hop : hOpcode c.hdr = 0x0301) (hph : c.phase = .started) :
    exec (.memMap id) s = .next (settleMaps s) := by
  have hstarted : mapStarted s id = true := by simp [mapStarted, h, hop, hph]
  change execMemMap id s = _
  rw [execMemMap, if_pos hstarted]

theorem exec_memMap_startable (h : Startable s id 0x0301 c u) : exec (.memMap id) s = .next (settleMaps (markStarted s id)) := by
  have ⟨hfind, _, hph⟩ := findCmd_of_waiting h.1
  change execMemMap id s = _
  rw [execMemMap, if_neg (by rw [not_mapStarted_of_accepted hfind hph]; exact Bool.false_ne_true)]
  exact runCmd_startable _ h

theorem exec_dmaCopy_startable {k : Fin 192} {e : Fin 4} (h : Startable s id 0x0302 c (.engine k e))
    (hon : (vget s.doze .init k.val).off = false) (hok : checkDmaCopy k c.params = []) :
    exec (.dmaCopy id) s = .next (queueChain (markStarted s id) k (some id) c.params) := by
  have ⟨hwait, _, _, htarget, _⟩ := h
  have hoff : engineOff s id = false := by
    rw [engineOff, (findCmd_of_waiting hwait).1]
    dsimp only
    rw [htarget]
    exact hon
  change execDmaCopy id s = _
  rw [execDmaCopy, hoff]
  refine (runCmd_startable _ h).trans (congrArg Host.Outcome.next ?_)
  exact if_pos (List.isEmpty_iff.mpr hok)

theorem flagCmd_startable {op : Nat} {add : Bool} (h : Startable s id op c u) (hfree : flagFree s c = true) :
    flagCmd add id op s = .next (flagEffect add (markStarted s id) (begun s c) u) := by
  rw [flagCmd, h.1]
  exact (if_pos hfree).trans (runCmd_startable _ h)

theorem flagEffect_set (hok : checkFlag (hOpcode c.hdr) (.unit u) c.params = []) :
    flagEffect false s c u = finishCmd (writeNat (touchAddr s (fcAddr c.params)) (fcAddr c.params) 8 (fcValue c.params)) c.id stOk 0 := by
  rw [flagEffect]
  exact if_not_isEmpty_of_nil hok

theorem flagEffect_add (hok : checkFlag (hOpcode c.hdr) (.unit u) c.params = [])
    (hclean : anyPoison (touchAddr s (fcAddr c.params)) (fcAddr c.params) 8 = false) :
    flagEffect true s c u =
      (let r := touchAddr s (fcAddr c.params)
       let old := readNat r (fcAddr c.params) 8
       finishCmd (writeNat (demand r (fcAddr c.params) 8) (fcAddr c.params) 8 ((old + fcValue c.params) % 2 ^ 64)) c.id stOk
        (old % 2 ^ 32)) := by
  rw [flagEffect]
  dsimp only
  rw [if_not_isEmpty_of_nil hok, hclean]
  rfl

theorem flagWaitCheck_holds (hok : checkFlag 0x0305 (.unit u) c.params = []) (hfree : flagFree s c = true)
    (hclean : anyPoison s (fcAddr c.params) 8 = false)
    (hcond : flagCond (fcCond c.params) (readNat s (fcAddr c.params) 8) (fcValue c.params) = true) :
    flagWaitCheck s c u = finishCmd s c.id stOk 0 := by
  rw [flagWaitCheck]
  rw [if_not_isEmpty_of_nil hok, hfree, hclean, hcond]
  rfl

theorem exec_flagWait_startable (h : Startable s id 0x0305 c u) :
    exec (.flagWait id) s = .next (flagWaitCheck (markStarted s id) (begun s c) u) := by
  have ⟨hfind, _, hph⟩ := findCmd_of_waiting h.1
  change execFlagWait id s = _
  rw [execFlagWait, hfind]
  dsimp only
  rw [if_neg (by simp [hph])]
  exact runCmd_startable _ h

theorem exec_flagWait_started (h : findCmd s id = some c) (hop : hOpcode c.hdr = 0x0305) (hph : c.phase = .started)
    (htarget : c.target = .unit u) : exec (.flagWait id) s = .next (flagWaitCheck s c u) := by
  change execFlagWait id s = _
  rw [execFlagWait, h]
  dsimp only
  rw [if_pos (by simp [hop, hph]), htarget]

end

/-- Settles O18: a command that may start runs its own rule, and a wait ends where its comparison holds. -/
theorem memoryAndFlagCommandsComplete : Obligations.MemoryAndFlagCommandsComplete := by
  unfold Obligations.MemoryAndFlagCommandsComplete
  intro s id c u t d a v r ends
  refine ⟨fun hop hlive => onAccepted_memMap hop hlive, fun h => exec_memMap_startable h,
    fun h hop hph => exec_memMap_started h hop hph, fun k e h hon hok => exec_dmaCopy_startable h hon hok,
    fun h hfree hok => ?_, fun h hfree hok hclean => ?_, fun h hok hfree hclean hcond => ?_,
    fun h hop hph htarget hok hfree hclean hcond => ?_⟩
  · have hop : hOpcode c.hdr = 0x0303 := (findCmd_of_waiting h.1).2.1
    exact (flagCmd_startable h hfree).trans (congrArg Host.Outcome.next (flagEffect_set (by rw [← hop] at hok; exact hok)))
  · have hop : hOpcode c.hdr = 0x0304 := (findCmd_of_waiting h.1).2.1
    exact (flagCmd_startable h hfree).trans (congrArg Host.Outcome.next (flagEffect_add (by rw [← hop] at hok; exact hok) hclean))
  · exact (exec_flagWait_startable h).trans (congrArg Host.Outcome.next (flagWaitCheck_holds hok hfree hclean hcond))
  · exact (exec_flagWait_started h hop hph htarget).trans (congrArg Host.Outcome.next (flagWaitCheck_holds hok hfree hclean hcond))

/-! ### Launches and graphs (R484, R494, R498, R499) -/

section
variable {s : State} {id : Nat} {c : CmdRec} {u : PUnit}

theorem exec_kernelLaunch_startable (h : Startable s id 0x0401 c u) (hfree : launchFree s c (coresFor s c) = true)
    (hok : checkLaunch c.params = []) (hholds : holdsCores u = true) (hcores : coresFor (markStarted s id) (begun s c) ≠ []) :
    exec (.kernelLaunch id) s
      = .next (startCores (markStarted s id) (begun s c) (coresFor (markStarted s id) (begun s c))) := by
  have ⟨hwait, _, _, htarget, _⟩ := h
  have hsome : (coresFor (markStarted s id) (begun s c)).isEmpty = false := by simpa using hcores
  change execKernelLaunch id s = _
  rw [execKernelLaunch, hwait]
  dsimp only
  rw [if_not_of_true hfree, startCmd_startable h]
  dsimp only
  rw [show (begun s c).target = .unit u from htarget]
  dsimp only
  rw [if_not_isEmpty_of_nil (show checkLaunch (begun s c).params = [] from hok), if_not_of_true hholds, hsome]
  rfl

theorem exec_kernelLaunch_startableGroup {g : Nat} (h : StartableGroup s id 0x0401 c g)
    (hfree : launchFree s c (coresFor s c) = true) :
    exec (.kernelLaunch id) s = .next (startGroupLaunch (markStarted s id) (begun s c) g) := by
  have ⟨hwait, _, _, htarget, _⟩ := h
  change execKernelLaunch id s = _
  rw [execKernelLaunch, hwait]
  dsimp only
  rw [if_not_of_true hfree, startCmd_startableGroup h]
  dsimp only
  rw [show (begun s c).target = .group g from htarget]

theorem exec_graphRun_startable (h : Startable s id 0x0402 c u) (hok : graphOk (markStarted s id) (graphOfBlocks c.params) = true) :
    exec (.graphRun id) s = .next (driveGraph (updCmd (markStarted s id) id fun k =>
      { k with graph := some (startGraph (markStarted s id) (graphOfBlocks c.params).2) }) id) := by
  have ⟨hfind, _, hph⟩ := findCmd_of_waiting h.1
  change execGraphRun id s = _
  rw [execGraphRun, hfind]
  dsimp only
  rw [if_neg (by simp [hph])]
  exact (runCmd_startable _ h).trans (congrArg Host.Outcome.next (if_pos hok))

theorem exec_graphRun_started (h : findCmd s id = some c) (hop : hOpcode c.hdr = 0x0402) (hph : c.phase = .started)
    (hgraph : c.graph.isSome = true) : exec (.graphRun id) s = .next (driveGraph s id) := by
  change execGraphRun id s = _
  rw [execGraphRun, h]
  exact if_pos (by simp [hop, hph, hgraph])

end

/-- Settles O19: a launch that finds its cores idle starts them, and a graph is driven from its start or from where it waits. -/
theorem launchCommandsComplete : Obligations.LaunchCommandsComplete := by
  unfold Obligations.LaunchCommandsComplete
  intro s id c t d x
  exact ⟨fun u h hfree hok hholds hcores => exec_kernelLaunch_startable h hfree hok hholds hcores,
    fun g h hfree => exec_kernelLaunch_startableGroup h hfree, fun u h hok => exec_graphRun_startable h hok,
    fun h hop hph hgraph => exec_graphRun_started h hop hph hgraph⟩

end Sys2Proof.Machine
end

section
/-! SUPPORT. Commands that start and complete: the sequence engine, the fabric and its ports, observability, STOP_GLOBAL and groups
(11_sequence_engine.md, 15_onaux_fabric.md, 20_debug_and_telemetry.md, 01_architecture.md). -/

namespace Sys2Proof.Machine

/-! ### The sequence engine -/

section
variable {s r : State} {id op : Nat} {c : CmdRec} {u : PUnit} {g : BitVec 256} {f : BitVec 1024}
  {eff : State → CmdRec → BitVec 256 → BitVec 1024 → Nat × Nat × State}

/-- The turn of a command of one context is no turn beside a step of it or an open prepare on it. -/
theorem heldCtx_of_seqTurn {ctx : Nat} (h : seqTurn s c [ctx] false = true) : heldCtx s ctx = false := by
  simp only [seqTurn, Bool.false_eq_true, if_false, Bool.and_eq_true, List.any_cons, List.any_nil, Bool.or_false] at h
  cases hh : heldCtx s ctx
  · rfl
  · simp [hh] at h

/-- A sequence command whose effect succeeds ends ST_OK in the state that it gives. -/
theorem seqCtxCmd_completes {also : CmdRec → List Nat} (h : Startable s id op c u) (hturn : seqTurn s c (hCtx c.hdr :: also c) false = true)
    (hg : s.seq.geom = some g) (hf : s.seq.cfg = some f) (heff : eff (markStarted s id) (begun s c) g f = (stOk, 0, r)) :
    seqCtxCmd id op s also eff = .next (finishCmd r id stOk 0) := by
  have ⟨hwait, _, _, htarget, _⟩ := h
  rw [seqCtxCmd, hwait]
  dsimp only
  rw [htarget]
  refine (if_pos hturn).trans ((runCmd_startable _ h).trans (congrArg Host.Outcome.next ?_))
  rw [show (markStarted s id).seq.geom = some g from hg, show (markStarted s id).seq.cfg = some f from hf]
  dsimp only
  rw [heff]
  rfl

/-- On a unit SEQ_PREFILL, SEQ_COMMIT and SEQ_RETRACT are commands of their context alone. -/
theorem seqAtomic_startable (h : Startable s id op c u) (hturn : seqTurn s c [hCtx c.hdr] false = true) :
    seqAtomic id op s eff = seqCtxCmd id op s (fun _ => []) eff := by
  have ⟨hwait, _, _, htarget, _⟩ := h
  rw [seqAtomic, hwait]
  dsimp only
  rw [htarget]
  refine if_neg ?_
  rw [heldCtx_of_seqTurn hturn, Bool.and_false]
  exact Bool.false_ne_true

theorem seqAtomic_completes (h : Startable s id op c u) (hturn : seqTurn s c [hCtx c.hdr] false = true)
    (hg : s.seq.geom = some g) (hf : s.seq.cfg = some f) (heff : eff (markStarted s id) (begun s c) g f = (stOk, 0, r)) :
    seqAtomic id op s eff = .next (finishCmd r id stOk 0) :=
  (seqAtomic_startable h hturn).trans (seqCtxCmd_completes h hturn hg hf heff)

/-- To a set they lead an atomic command. -/
theorem seqAtomic_startableGroup {n : Nat} (h : StartableGroup s id op c n) (hturn : seqTurn s c [hCtx c.hdr] false = true) :
    seqAtomic id op s eff = .next (leadAtomic (markStarted s id) (begun s c) n) := by
  have ⟨hwait, _, _, htarget, _⟩ := h
  rw [seqAtomic, hwait]
  dsimp only
  rw [htarget]
  dsimp only
  rw [if_neg (by rw [hturn]; simp), startCmd_startableGroup h]

theorem outcome_of_eq {x : Nat × State} (h : x = (stOk, r)) : outcome x = (stOk, 0, r) := by rw [h]; rfl

theorem exec_prefixPublish_completes {x : CtxRec} {n : Nat} (h : Startable s id 0x050C c u)
    (hturn : seqTurn s c [hCtx c.hdr] false = true) (hg : s.seq.geom = some g) (hf : s.seq.cfg = some f)
    (hctx : getCtx s (hCtx c.hdr) = some x) (hstate : admitted x = true ∨ x.state = csSuspended)
    (hpub : publishFrom (pubCount c.params) (markStarted s id) g f (hCtx c.hdr) 0 0 none = (n, false, r)) :
    exec (.prefixPublish id) s = .next (finishCmd r id stOk 0) := by
  refine seqCtxCmd_completes h hturn hg hf ?_
  rw [show getCtx (markStarted s id) (hCtx (begun s c).hdr) = some x from hctx]
  dsimp only
  rw [if_not_of_true (by simpa using hstate),
    show publishFrom (pubCount (begun s c).params) (markStarted s id) g f (hCtx (begun s c).hdr) 0 0 none = (n, false, r) from hpub]
  rfl

/-- SEQ_STEP that starts on the lead device plans its step. -/
theorem exec_seqStep_startable {d : HostData} (h : Startable s id 0x0505 c u) (hturn : seqTurn s c [] true = true) :
    exec (.seqStep id d) s = .next (seqStepOn d (markStarted s id) (begun s c)) := by
  have ⟨hfind, _, hph⟩ := findCmd_of_waiting h.1
  change execSeqStep id d s = _
  rw [execSeqStep, hfind]
  dsimp only
  rw [if_neg (by simp [hph]), h.1]
  exact (if_pos hturn).trans (runCmd_startable _ h)

section
variable {d : HostData} (hg : s.seq.geom = some g) (hf : s.seq.cfg = some f) (hlead : isLead s f = true)
  (hok : checkSeqStep s c.params = [])
include hg hf hlead hok

theorem seqStepOn_valid :
    seqStepOn d s c = if !cMirror f then planStep s c g f
      else if spPlandev c.params then
        let a := spPlan c.params
        let n := bits (readNat s a 64) 447 432
        if !devRangeOk a (64 + 16 * n) || kvProtected s a (64 + 16 * n) then finishCmd s c.id stBadParam (badDetail [])
        else if anyPoison s a (64 + 16 * n) then finishCmd (demand s a (64 + 16 * n)) c.id stPoisoned (uidOf (placeUnit a))
        else hostStep (demand s a (64 + 16 * n)) c g f (wordsOf (readBytes s a (64 + 16 * n)))
      else if d.err then finishCmd s c.id stXlateFault 0
      else hostStep s c g f (wordsOf d.bytes) := by
  rw [seqStepOn, hg, hf]
  refine if_neg ?_
  rw [hlead, hok]
  exact Bool.false_ne_true

theorem seqStepOn_plans (hmirror : cMirror f = false) : seqStepOn d s c = planStep s c g f := by
  rw [seqStepOn_valid hg hf hlead hok, hmirror]
  rfl

theorem seqStepOn_device (hmirror : cMirror f = true) (hdev : spPlandev c.params = true)
    (hrange : devRangeOk (spPlan c.params) (64 + 16 * bits (readNat s (spPlan c.params) 64) 447 432) = true)
    (hkv : kvProtected s (spPlan c.params) (64 + 16 * bits (readNat s (spPlan c.params) 64) 447 432) = false)
    (hclean : anyPoison s (spPlan c.params) (64 + 16 * bits (readNat s (spPlan c.params) 64) 447 432) = false) :
    seqStepOn d s c = hostStep (demand s (spPlan c.params) (64 + 16 * bits (readNat s (spPlan c.params) 64) 447 432)) c g f
      (wordsOf (readBytes s (spPlan c.params) (64 + 16 * bits (readNat s (spPlan c.params) 64) 447 432))) := by
  rw [seqStepOn_valid hg hf hlead hok]
  simp only [hmirror, hdev, hrange, hkv, hclean, Bool.not_true, Bool.or_self, Bool.false_eq_true, if_false, if_true]

theorem seqStepOn_host (hmirror : cMirror f = true) (hdev : spPlandev c.params = false) (herr : d.err = false) :
    seqStepOn d s c = hostStep s c g f (wordsOf d.bytes) := by
  rw [seqStepOn_valid hg hf hlead hok]
  simp only [hmirror, hdev, herr, Bool.not_true, Bool.false_eq_true, if_false]

end
end

/-- Settles O20: a sequence command whose turn it is runs its effect; on a set it leads an atomic command. -/
theorem sequenceCommandsComplete : Obligations.SequenceCommandsComplete := by
  unfold Obligations.SequenceCommandsComplete
  refine ⟨?_, ?_, ?_⟩
  · intro s r id c u g f t d ctx out
    refine ⟨fun h hcfg => ?_, fun hg hf hturn h heff => ?_, fun hg hf hturn => ?_⟩
    · refine (runCmd_startable _ h).trans (congrArg Host.Outcome.next ?_)
      rw [show configSeq (markStarted s id) (begun s c).params = (stOk, r) from hcfg]
      rfl
    · exact seqCtxCmd_completes h hturn hg hf (outcome_of_eq heff)
    · exact ⟨fun h heff => seqCtxCmd_completes h hturn hg hf (outcome_of_eq heff),
        fun h heff => seqAtomic_completes h hturn hg hf (outcome_of_eq heff),
        fun h heff => seqCtxCmd_completes h hturn hg hf (outcome_of_eq heff),
        fun h heff => seqAtomic_completes h hturn hg hf (outcome_of_eq heff),
        fun h heff => seqAtomic_completes h hturn hg hf (outcome_of_eq heff),
        fun h heff => seqCtxCmd_completes h hturn hg hf (outcome_of_eq heff),
        fun h heff => seqCtxCmd_completes h hturn hg hf (outcome_of_eq heff),
        fun h heff => seqCtxCmd_completes h hturn hg hf (outcome_of_eq heff),
        fun x n h hctx hstate hpub => exec_prefixPublish_completes h hturn hg hf hctx hstate hpub⟩
  · intro s id g c out hturn
    exact ⟨fun h => seqAtomic_startableGroup h hturn, fun h => seqAtomic_startableGroup h hturn,
      fun h => seqAtomic_startableGroup h hturn⟩
  · intro s id h c u g f t d a n hs hturn hg hf hlead hok
    refine ⟨fun hmirror => ?_, fun hmirror hdev hrange hkv hclean => ?_, fun hmirror hdev herr => ?_⟩
    · exact (exec_seqStep_startable hs hturn).trans (congrArg Host.Outcome.next (seqStepOn_plans hg hf hlead hok hmirror))
    · exact (exec_seqStep_startable hs hturn).trans
        (congrArg Host.Outcome.next (seqStepOn_device hg hf hlead hok hmirror hdev hrange hkv hclean))
    · exact (exec_seqStep_startable hs hturn).trans (congrArg Host.Outcome.next (seqStepOn_host hg hf hlead hok hmirror hdev herr))

/-! ### The fabric and its ports -/

section
variable {s : State} {id : Nat} {c : CmdRec} {u : PUnit}

theorem exec_fabRouteSet_valid (h : Startable s id 0x0601 c u) (hok : checkRouteSet (markStarted s id) c.params = []) :
    exec (.fabRouteSet id) s = .next (flushHeld (finishCmd (setFab (markStarted s id) { s.fab with
      routes := smapSetRun 0 s.fab.routes (rtFirst c.params)
        ((List.range (rtCount c.params)).map fun i => BitVec.ofNat 32 (rtSet c.params i)) }) id stOk 0)) :=
  (runCmd_startable _ h).trans (congrArg Host.Outcome.next (if_not_isEmpty_of_nil hok))

/-- A form of FAB_COLLECTIVE that its descriptor picks acts once it is ready. -/
theorem fabCollCmd_acts {pick : BitVec 512 → Bool} {ready : State → CmdRec → Bool} {act : State → CmdRec → BitVec 512 → State}
    (h : Startable s id 0x0602 c u) (hok : checkCollective (markStarted s id) c.params = [])
    (hpick : pick (c.params.headD 0) = true) (hready : ready s c = true) :
    fabCollCmd pick ready act id s = .next (act (markStarted s id) (begun s c) (c.params.headD 0)) := by
  have ⟨hwait, _⟩ := h
  rw [fabCollCmd, hwait]
  dsimp only
  rw [if_neg (by rw [hpick, hready]; exact Bool.false_ne_true)]
  exact (runCmd_startable _ h).trans (congrArg Host.Outcome.next (if_pos (List.isEmpty_iff.mpr hok)))

/-- FAB_PORT_CTL on a port has the effect of its action. -/
theorem portCtl_acts {action : Nat} {eff : State → CmdRec → Fin 32 → State} {p : Fin 32} (h : Startable s id 0x0603 c (.port p))
    (haction : pcAction c.params = action) :
    portCtl action eff id s = .next (eff (markStarted s id) (begun s c) p) := by
  have ⟨hwait, _⟩ := h
  rw [portCtl, hwait]
  exact (if_neg (not_not_intro haction)).trans (runCmd_startable _ h)

end

/-- Settles O21: a command that may start runs its own rule, and a port action the one of its phase. -/
theorem fabricAndPortCommandsComplete : Obligations.FabricAndPortCommandsComplete := by
  unfold Obligations.FabricAndPortCommandsComplete
  refine ⟨?_, ?_⟩
  · intro s id c u t d
    refine ⟨fun h hok => exec_fabRouteSet_valid h hok, fun h hok => ⟨fun harm hready => ?_, fun harm hop => ?_, fun harm hop hinst => ?_⟩⟩
    · have hpick : (!coArm d) = true := congrArg (! ·) harm
      change execFabCollective id s = _
      rw [execFabCollective]
      exact fabCollCmd_acts h hok hpick hready
    · have hpick : (coArm d && coOp d != 0) = true := by rw [harm, bne_iff_ne.mpr hop]; rfl
      change execCollectiveArm id s = _
      rw [execCollectiveArm]
      exact fabCollCmd_acts h hok hpick rfl
    · have hpick : (coArm d && coOp d == 0) = true := by rw [harm, beq_iff_eq.mpr hop]; rfl
      change execCollectiveDisarm id s = _
      rw [execCollectiveDisarm]
      exact fabCollCmd_acts h hok hpick (congrArg (! ·) hinst)
  · intro s id c p t ph h
    refine ⟨fun ha => ?_, fun ha => ?_, fun ha => ?_, fun ha hopen => ?_, fun ha hopen => ?_⟩
    · exact portCtl_acts h ha
    · exact portCtl_acts h ha
    · exact portCtl_acts h ha
    · exact (portCtl_acts h ha).trans (congrArg Host.Outcome.next (if_neg (ne_true_of_eq_false hopen)))
    · exact (portCtl_acts h ha).trans (congrArg Host.Outcome.next (if_pos hopen))

/-! ### Observability -/

section
variable {s : State} {id : Nat} {c : CmdRec} {u : PUnit}

theorem exec_telemRead_startable (h : Startable s id 0x0701 c u) (hok : checkTelemRead c.params false [u] [] = []) :
    exec (.telemRead id) s = .next (finishCmd (telemRun (markStarted s id) (begun s c) [u]).2 id stOk
      (telemRun (markStarted s id) (begun s c) [u]).1) := by
  have ⟨_, _, _, htarget, _⟩ := h
  change execTelemRead id s = _
  rw [execTelemRead, startCmd_startable h]
  dsimp only
  rw [show (begun s c).target = .unit u from htarget]
  exact if_not_isEmpty_of_nil hok

theorem exec_dumpCollect_startable {x : DumpRec} (h : Startable s id 0x0702 c u)
    (hfind : findDump (markStarted s id) u (paramNat c.params) = some x)
    (hfit : 64 + x.body.length + 16 ≤ bits (paramNat c.params) 319 288) :
    exec (.dumpCollect id) s =
      (let r := hostWriteCmd (markStarted s id) (begun s c) (bits (paramNat c.params) 383 320) (dumpBytes (markStarted s id) x)
       let ds := if bit (paramNat c.params) 479 then r.dumps.filter (· ≠ x)
         else r.dumps.map fun e => if e = x then { e with collected := true } else e
       .next (finishCmd { r with dumps := ds } id stOk (dumpOut x))) := by
  refine (runCmd_startable _ h).trans ?_
  dsimp only
  rw [show findDump (markStarted s id) u (paramNat (begun s c).params) = some x from hfind]
  exact congrArg Host.Outcome.next (if_neg (Nat.not_lt.mpr hfit))

theorem exec_auditRead_startable (h : Startable s id 0x0705 c u) (hok : checkAuditRead c.params = [])
    (hroom : (arSign (paramNat c.params) && !auditRoom (markStarted s id) 1) = false) :
    exec (.auditRead id) s =
      (let p := paramNat c.params
       let s := if arSign p then auditCheckpoint (markStarted s id) else markStarted s id
       let es := auditRange s c.role (arFirst p) (arCount p)
       let x := if arSign p then checkpointRecord s else ([], s)
       let r := hostWriteCmd x.2 (begun s c) (bits p 383 320) (es.flatMap (fun e => leBytes 128 e.toNat) ++ x.1)
       .next (finishCmd (if arArchive p then archiveRange r es else r) id stOk es.length)) := by
  exact (runCmd_startable _ h).trans
    (congrArg Host.Outcome.next ((if_not_isEmpty_of_nil hok).trans (if_neg (ne_true_of_eq_false hroom))))

end

/-- Settles O22: a command that may start runs its own rule and answers ST_OK. -/
theorem observabilityCommandsComplete : Obligations.ObservabilityCommandsComplete := by
  unfold Obligations.ObservabilityCommandsComplete
  intro s id c p t d
  refine ⟨fun u h hok => exec_telemRead_startable h hok, fun u x h hfind hfit => exec_dumpCollect_startable h hfind hfit,
    fun k h => runCmd_startable _ h, fun u h hok hsign => ?_, fun u h hok hsign hroom => ?_⟩
  · have hsign' : arSign (paramNat c.params) = false := hsign
    rw [exec_auditRead_startable h hok (by rw [hsign', Bool.false_and])]
    simp only [hsign', Bool.false_eq_true, if_false, List.append_nil]
    rfl
  · have hsign' : arSign (paramNat c.params) = true := hsign
    have hroom' : auditRoom (markStarted s id) 1 = true := hroom
    rw [exec_auditRead_startable h hok (by rw [hroom', Bool.not_true, Bool.and_false])]
    simp only [hsign', if_true]
    rfl

/-! ### STOP_GLOBAL and groups -/

section
variable {s : State} {id : Nat} {c : CmdRec} {u : PUnit}

theorem stopCmd_acts {mode : Nat} {f : State → CmdRec → State} (h : Startable s id 0x0703 c u)
    (hmode : sgMode (paramNat c.params) = mode) : stopCmd id mode s f = .next (f (markStarted s id) (begun s c)) := by
  have ⟨hwait, _⟩ := h
  rw [stopCmd, hwait]
  exact (if_pos hmode).trans (runCmd_startable _ h)

end

/-- Settles O23: a command that may start runs its own rule, its tests met by hypothesis. -/
theorem globalStopAndGroupCommandsComplete : Obligations.GlobalStopAndGroupCommandsComplete := by
  unfold Obligations.GlobalStopAndGroupCommandsComplete
  refine ⟨?_, ?_⟩
  · intro s id c u p t h
    refine ⟨fun hmode hopen => ?_, fun hmode hopen harmed => ?_, fun hmode => stopCmd_acts h hmode⟩
    · exact (stopCmd_acts h hmode).trans (congrArg Host.Outcome.next (if_not_of_true hopen))
    · exact (stopCmd_acts h hmode).trans (congrArg Host.Outcome.next ((if_not_of_true hopen).trans (if_not_of_true harmed)))
  · intro s id c t d ms far
    refine ⟨fun u h hok hfree => ?_, fun g h hasked hparents => ?_⟩
    · have hexec : exec (.groupDefine id) s = if far then .next (leadDefine t d ms)
          else .next (finishCmd (commitGroupDefine t c.params) id stOk (newVecSize t ms)) := by
        change execGroupDefine id s = _
        rw [execGroupDefine, startCmd_startable h]
        exact (if_not_isEmpty_of_nil hok).trans (if_neg (ne_true_of_eq_false hfree))
      exact ⟨fun hfar => hexec.trans (if_neg (ne_true_of_eq_false hfar)), fun hfar => hexec.trans (if_pos hfar)⟩
    · have ⟨hfind, _⟩ := findCmd_of_waiting h.1
      have ⟨_, _, _, htarget, _⟩ := h
      change execGroupDissolve id s = _
      rw [execGroupDissolve, hfind]
      refine (if_neg ?_).trans ?_
      · rw [Option.any_some, htarget]
        exact ne_true_of_eq_false hasked
      · rw [startCmd_startableGroup h]
        dsimp only
        rw [show (begun s c).target = .group g from htarget]
        exact if_pos (List.isEmpty_iff.mpr hparents)

end Sys2Proof.Machine
end

section
/-! SUPPORT. Events of units: readiness, channel training, hangs and resets, losses and memory tests
(18_bring_up_reset_recovery.md; 12_memory_system.md). -/

namespace Sys2Proof.Machine

section
variable {s : State} {u root : PUnit} {a : DomAct} {n : Fin 256} {rec : BitVec 64}

theorem exec_unitReady_met (hpor : s.rst.porAt.isSome = true) (hown : (getUnit s u).own = .notReady) (hmet : dependsMet s u = true) :
    exec (.unitReady u) s
      = .next (becomeReady (if u = .hostIf then { s with host := { s.host with ready := true } } else s) u) := by
  change execUnitReady u s = _
  rw [execUnitReady]
  refine if_neg ?_
  simp [Option.isNone_eq_false_iff.mpr hpor, hown, hmet]

/-- A channel that trains where the security processor is ready and the channel waits for it. -/
theorem exec_hbmChannelTrained_of (hpor : s.rst.porAt.isSome = true) (hmgmt : isReady (getUnit s (.mgmt 0)).own = true)
    (hown : (getUnit s (.channel n)).own = .notReady ∨ (getUnit s (.channel n)).own = .resetting) :
    exec (.hbmChannelTrained n rec) s =
      if bits rec.toNat 63 61 = 1 ∨ bits rec.toNat 63 61 = 2 then
        match findAct s (.channel n) with
        | some a => .next (endReset (trainChannel s n rec) a)
        | none => .next (becomeReady (trainChannel s n rec) (.channel n))
      else
        let s' := { s with channels := s.channels.set n { s.channels[n] with train := failedRecord s.channels[n] rec } }
        let s' := bumpUnits (setOwn (dropAct s' (.channel n)) (.channel n) .outOfService) false 3 [.channel n] []
        let s' := match findAct s (.channel n) with | some a => endResetCmds s' (.channel n) a.cmds true | none => s'
        .next (checkAllReady (checkScrubbed s') 0 (getUnit s' (.channel n)).startAt) := by
  change execHbmChannelTrained n rec s = _
  rw [execHbmChannelTrained]
  refine if_neg ?_
  rcases hown with h | h <;> simp [Option.isNone_eq_false_iff.mpr hpor, hmgmt, h]

/-- A hang's drain that nothing holds ends in a dump, a report and a reset. -/
theorem exec_hangDrainEnd_due {t : Nat} (hact : findAct s root = some a) (hph : a.phase = .draining t) (hdue : t ≤ now s)
    (hheld : fenceHeld s root = false) (hdev : endsDevice s root = true → fenceHeld s .device = false) :
    exec (.hangDrainEnd root) s =
      (let hung := s.cmd.inflight.filter fun c => c.hung = some root && c.phase ≠ .finished
       let r := (hung.map (·.id)).foldl (fun s id => finishCmd s id stTimeout (uidOf root)) (answerDomain s root stTimeout [])
       let x := captureDump r root
       let info := match s.cmd.inflight.find? fun c => c.hung = some root && c.phase ≠ .finished with
         | some c => hTag c.hdr + (match cmdQp x.2 c with | some q => q | none => 0) * 2 ^ 16
         | none => 0
       let r := faultReport x.2 (concentratorOf root) (fuidOf x.2 (uidOf root)) (getUnit x.2 root).epoch 0x0002 0
         (uidOf root) x.1 0 info
       .next (escalate (beginReset r root a.cause a.cmds a.startAt) root)) := by
  have hgo : (decide (now s < t) || fenceHeld s root || (endsDevice s root && fenceHeld s .device)) = false := by
    rw [decide_eq_false (Nat.not_lt.mpr hdue), hheld]
    cases hends : endsDevice s root
    · rfl
    · rw [hdev hends]; rfl
  change execHangDrainEnd root s = _
  rw [execHangDrainEnd, hact]
  dsimp only
  rw [hph]
  exact if_neg (ne_true_of_eq_false hgo)

/-- The end of a reset of a domain other than the host interface and a channel. -/
theorem exec_resetEnd_of {t b : Nat} (hact : findAct s root = some a) (hph : a.phase = .resetting t b) (hhost : root ≠ .hostIf)
    (hchan : ∀ n, root ≠ .channel n) (hpace : awaitsPace s root = false) : exec (.resetEnd root) s = .next (endReset s a) := by
  change execResetEnd root s = _
  rw [execResetEnd, hact]
  dsimp only
  rw [hph]
  cases root with
  | hostIf => exact absurd rfl hhost
  | channel n => exact absurd rfl (hchan n)
  | _ => exact if_neg (ne_true_of_eq_false hpace)

/-- The end of a reset of the host interface, by the state of its link. -/
theorem exec_resetEnd_hostIf {t b : Nat} (hact : findAct s .hostIf = some a) (hph : a.phase = .resetting t b) :
    exec (.resetEnd .hostIf) s =
      if s.host.linkUp && !s.host.perst then .next (endReset { s with host := { s.host with ready := true } } a)
      else if now s < b || !a.cmds.isEmpty then .next s
      else .next (tellState (setOwn (dropAct s .hostIf) .hostIf .notReady) .hostIf) := by
  change execResetEnd .hostIf s = _
  rw [execResetEnd, hact]
  dsimp only
  rw [hph]

/-- A reset that overruns goes to the next larger domain, or takes the device out of service. -/
theorem exec_resetFaultEscalate_due {t b : Nat} (hact : findAct s root = some a) (hph : a.phase = .resetting t b)
    (hdue : t + 4 * resetTime root ≤ now s)
    (hnext : (nextDomain root).any (fun r => fenceHeld s r || (endsDevice s r && fenceHeld s .device)) = false)
    (hdev : root = .device → fenceHeld s .device = false) :
    exec (.resetFaultEscalate root) s = match nextDomain root with
      | some r =>
        let x := captureDump (faultUnit s root 0x0010 0 (uidOf root) 0 (uidOf root)) r
        .next (escalate (beginReset (answerDomain x.2 r stFenced a.cmds) r 3 a.cmds a.startAt) r)
      | none =>
        if root = .device then
          let s := fenceOut (answerDomain s .device stFenced a.cmds) .device a.cmds
          .next (endResetCmds (auditEscalation (takeOut (dropAct s .device) .device) .device) .device a.cmds true)
        else .next s := by
  have hgo : (decide (now s < t + 4 * resetTime root)
      || (nextDomain root).any (fun r => fenceHeld s r || (endsDevice s r && fenceHeld s .device))
      || (decide (root = .device) && fenceHeld s .device)) = false := by
    rw [decide_eq_false (Nat.not_lt.mpr hdue), hnext]
    by_cases h : root = .device
    · rw [hdev h, Bool.and_false]; rfl
    · rw [decide_eq_false h]; rfl
  change execResetFaultEscalate root s = _
  rw [execResetFaultEscalate, hact]
  dsimp only
  rw [hph]
  exact if_neg (ne_true_of_eq_false hgo)

theorem exec_channelLost_ready (hready : isReady (getUnit s (.channel n)).own = true) :
    exec (.channelLost n) s =
      (let r := setOwn (fenceOut s (.channel n) []) (.channel n) .outOfService
       let r := { r with channels := r.channels.set n { r.channels[n] with lost := true } }
       let r := bumpUnits r false 3 [.channel n] []
       let r := unitEvent r 0x000B (uidOf (.channel n)) (epochOf r (.channel n)) 0 1 0
       .next (checkAllReady (channelDamage r n) 0 (now r))) := by
  change execChannelLost n s = _
  rw [execChannelLost]
  exact if_not_of_true hready

/-- The fence of the dies is due. -/
def bridgeWaits (s : State) : State := { s with rst := { s.rst with bridgeDue := true } }

/-- What a bridge fault tells before it fences the dies. -/
def bridgeTold (s : State) : State :=
  emit (faultUnit { s with rst := { s.rst with bridge := true } } .device 0x0008 0 (uidOf .device) 0 0) (.pin "FAULT_N" false)

theorem exec_bridgeFault_first (hpor : s.rst.porAt.isSome = true) (hfirst : s.rst.bridge = false) :
    exec .bridgeFault s
      = .next (bridgeFence (bridgeWaits (bridgeTold s))) := by
  change execBridgeFault s = _
  rw [execBridgeFault]
  exact if_neg (by simp [Option.isNone_eq_false_iff.mpr hpor, hfirst])

theorem expandAll_bridgeWaits (fuel : Nat) (s : State) (g : Nat) : expandAll fuel (bridgeWaits s) g = expandAll fuel s g := by
  induction fuel generalizing g with
  | zero => rfl
  | succ f ih =>
    have hrec : groupRec (bridgeWaits s) g = groupRec s g := rfl
    simp only [expandAll, hrec, ih]

theorem prepUnits_bridgeWaits (s : State) (p : PrepRec) : prepUnits (bridgeWaits s) p = prepUnits s p := by
  have hself : selfId (bridgeWaits s) = selfId s := rfl
  have hparsed (n : Nat) : parsedMembers (bridgeWaits s) n = parsedMembers s n := rfl
  simp only [prepUnits, reachOf, expansion, expandAll_bridgeWaits, hself, hparsed]

theorem fenceHeld_bridgeWaits (s : State) (root : PUnit) : fenceHeld (bridgeWaits s) root = fenceHeld s root := by
  have hprep : (bridgeWaits s).cmd.prepared = s.cmd.prepared := rfl
  simp only [fenceHeld, hprep, prepUnits_bridgeWaits]

theorem bridgeFence_held (h : fenceHeld s (.die 0) = true ∨ fenceHeld s (.die 1) = true) : bridgeFence (bridgeWaits s) = bridgeWaits s := by
  rw [bridgeFence, fenceHeld_bridgeWaits, fenceHeld_bridgeWaits]
  refine if_pos ?_
  rcases h with h | h <;> simp [h]

theorem bridgeFence_due (h0 : fenceHeld s (.die 0) = false) (h1 : fenceHeld s (.die 1) = false) :
    bridgeFence (bridgeWaits s) =
      (let s := { s with rst := { s.rst with bridgeDue := false } }
       let s := answerDomain (answerDomain s (.die 0) stFenced []) (.die 1) stFenced []
       let s := endDieActs (endDieActs s 0) 1
       let s := setOwn (setOwn s (.die 0) .fenced) (.die 1) .fenced
       checkAllReady s 3 (now s)) := by
  have hdue : (bridgeWaits s).rst.bridgeDue = true := rfl
  rw [bridgeFence, fenceHeld_bridgeWaits, fenceHeld_bridgeWaits, h0, h1, hdue]
  exact if_neg Bool.false_ne_true

/-- MEM_TEST takes its channel. -/
theorem exec_memTest_free {id : Nat} {c : CmdRec} (h : Startable s id 0x0120 c (.channel n)) (hfree : (s.channels[n]).testing = none) :
    exec (.memTest id) s =
      (let t := markStarted s id
       .next (checkAllReady { t with channels := t.channels.set n { t.channels[n] with
         testing := some (id, (getUnit t (.channel n)).own, bits (paramNat c.params) 175 144, bits (paramNat c.params) 143 112) } } 2
         (now t))) := by
  refine (runCmd_startable _ h).trans (congrArg Host.Outcome.next (if_neg ?_))
  rw [show (markStarted s id).channels[n].testing = none from hfree]
  exact Bool.false_ne_true

/-- The state after a memory test has cleared what it tested. -/
def testedState (s : State) (n : Fin 256) (a len : Nat) : State :=
  touchDoze (clearTested { s with channels := s.channels.set n { s.channels[n] with testing := none } } n a len) (216 + n / 32)

theorem findCmd_testedState (s : State) (n : Fin 256) (a len id : Nat) : findCmd (testedState s n a len) id = findCmd s id := rfl

theorem exec_memTestEnd_gone {id b len : Nat} {o : UState} {r : TestIn} (htest : (s.channels[n]).testing = some (id, o, b, len))
    (hgone : findCmd s id = none) :
    exec (.memTestEnd n r) s = .next (checkAllReady (testedState s n b len) 2 (now (testedState s n b len))) := by
  have hnone : findCmd (testedState s n b len) id = none := hgone
  rw [testedState] at hnone ⊢
  change execMemTestEnd n r s = _
  rw [execMemTestEnd, htest]
  dsimp only
  rw [hnone]

/-- The result record of a memory test (R423). -/
def testResult (s : State) (c : CmdRec) (r : TestIn) : Nat :=
  r.lanes.toNat * 2 ^ 174 + min r.errors 0xFFFFFFFF * 2 ^ 142 + (if r.errors > 0 then r.firstOff % 2 ^ 32 * 2 ^ 110 else 0)
    + (now s - c.startedAt.getD (now s)) % 2 ^ 64 * 2 ^ 32 + stOk * 2 ^ 16

theorem exec_memTestEnd_found {id b len : Nat} {o : UState} {r : TestIn} {c : CmdRec}
    (htest : (s.channels[n]).testing = some (id, o, b, len)) (hfind : findCmd s id = some c) (horigin : ∀ q i, c.origin ≠ .sub q i) :
    exec (.memTestEnd n r) s =
      (let t := testedState s n b len
       let lost := hMvbuf c.hdr ≠ 0 && hostWriteFails t c (hMvbuf c.hdr) 32
       let u := if hMvbuf c.hdr = 0 then t
         else updCmd (hostWriteCmd t c (hMvbuf c.hdr) (leBytes 32 (testResult t c r))) id fun x =>
           if lost then x else { x with mvptr := hMvbuf x.hdr }
       .next (checkAllReady (finishCmd u id (if lost then stXlateFault else stOk) 0) 2 (c.startedAt.getD (now t)))) := by
  have hsome : findCmd (testedState s n b len) id = some c := hfind
  rw [testedState] at hsome
  change execMemTestEnd n r s = _
  rw [execMemTestEnd, htest]
  dsimp only
  rw [hsome]
  dsimp only
  cases horig : c.origin with
  | sub q i => exact absurd horig (horigin q i)
  | _ => rfl

end

/-- Settles O24: each event past its guards leaves the state that its rule builds. -/
theorem unitAndResetEventsComplete : Obligations.UnitAndResetEventsComplete := by
  unfold Obligations.UnitAndResetEventsComplete
  refine ⟨?_, ?_, ?_, ?_⟩
  · intro s hpor
    refine ⟨fun u hown hmet => exec_unitReady_met hpor hown hmet, fun n rec hmgmt hown => ?_⟩
    have hexec := exec_hbmChannelTrained_of (rec := rec) hpor hmgmt hown
    refine ⟨fun hok => ⟨fun hact => ?_, fun a hact => ?_⟩, fun h1 h2 hact => ?_, fun a h1 h2 hact => ?_⟩
    · rw [hexec, if_pos hok, hact]
    · rw [hexec, if_pos hok, hact]
    · rw [hexec, if_neg (not_or.mpr ⟨h1, h2⟩), hact]
    · rw [hexec, if_neg (not_or.mpr ⟨h1, h2⟩), hact]
      rfl
  · intro s root a hact
    refine ⟨fun t hph hdue hheld hdev => exec_hangDrainEnd_due hact hph hdue hheld hdev,
      fun t b hph hhost hchan hpace => exec_resetEnd_of hact hph hhost hchan hpace, fun t b hph hroot hup hperst => ?_,
      fun t b hph hroot hdown hdue hcmds => ?_, fun t b r hph hdue hnext hheld hdev => ?_, fun t b hph hdue hroot hheld => ?_⟩
    · subst hroot
      rw [exec_resetEnd_hostIf hact hph, hup, hperst]
      rfl
    · subst hroot
      have hlink : (s.host.linkUp && !s.host.perst) = false := by rcases hdown with h | h <;> simp [h]
      rw [exec_resetEnd_hostIf hact hph, hlink, decide_eq_false (Nat.not_lt.mpr hdue), hcmds]
      rfl
    · have hany : (nextDomain root).any (fun r => fenceHeld s r || (endsDevice s r && fenceHeld s .device)) = false := by
        rw [hnext, Option.any_some, hheld]
        cases hends : endsDevice s r
        · rfl
        · rw [hdev hends]; rfl
      have hroot : root ≠ .device := fun h => by
        rw [h] at hnext
        exact Option.some_ne_none r hnext.symm
      rw [exec_resetFaultEscalate_due hact hph hdue hany fun h => absurd h hroot, hnext]
    · subst hroot
      rw [exec_resetFaultEscalate_due hact hph hdue rfl fun _ => hheld]
      rfl
  · intro s
    refine ⟨fun n hready => exec_channelLost_ready hready, ?_⟩
    intro r hpor hfirst
    refine ⟨fun hheld => ?_, fun h0 h1 => ?_⟩
    · exact (exec_bridgeFault_first hpor hfirst).trans
        (congrArg Host.Outcome.next (bridgeFence_held (s := bridgeTold s) hheld))
    · exact (exec_bridgeFault_first hpor hfirst).trans
        (congrArg Host.Outcome.next (bridgeFence_due (s := bridgeTold s) h0 h1))
  · intro s id c n
    refine ⟨fun h hfree => exec_memTest_free h hfree, fun o a len r htest hgone => ?_, fun o a len r htest hfind horigin => ?_⟩
    · exact exec_memTestEnd_gone htest hgone
    · exact exec_memTestEnd_found htest hfind horigin

end Sys2Proof.Machine
end

section
/-! SUPPORT. Commands that arrive over other paths, messages of a set, DMA entries and their translations
(14_command_interface.md; 08_core_programming.md; 13_address_translation.md). -/

namespace Sys2Proof.Machine

/-! ### Arrivals and messages of a set -/

section
variable {s : State} {m : RemoteIn} {lead key : Nat} {p : PrepRec}

/-- What is made of a command from another device once the security processor is ready. -/
theorem exec_remoteCommand_ready (h : mgmtReady s = true) :
    exec (.remoteCommand m) s =
      (let c := newCmd s (.remote m.peer m.tid) m.role m.hdr m.params
       let xs := headerBad m.hdr true false
       if m.role = .tenant && !sameLease s m then .next (staleRemote s c)
       else if !remoteHonoured s m then .next (if xs.isEmpty then refuseNew s c 3 3 else failCmd s c stBadParam (badDetail xs))
       else .next (arrive s (.remote m.peer m.tid) m.role 3 true false m.hdr m.params)) := by
  change execRemoteCommand m s = _
  rw [execRemoteCommand]
  exact if_not_of_true h

/-- A command that is honoured here is not one of the tenant's from outside the lease in force. -/
theorem not_stale_of_honoured (h : remoteHonoured s m = true) : (m.role = .tenant && !sameLease s m) = false := by
  by_cases hr : m.role = .tenant
  · rw [remoteHonoured, if_pos hr] at h
    rw [h, Bool.not_true, Bool.and_false]
  · rw [decide_eq_false hr, Bool.false_and]

theorem exec_remoteCommand_honoured (h : mgmtReady s = true) (hh : remoteHonoured s m = true) :
    exec (.remoteCommand m) s = .next (arrive s (.remote m.peer m.tid) m.role 3 true false m.hdr m.params) := by
  rw [exec_remoteCommand_ready h]
  exact (if_neg (ne_true_of_eq_false (not_stale_of_honoured hh))).trans (if_not_of_true hh)

theorem exec_remoteCommand_stale (h : mgmtReady s = true) (hr : m.role = .tenant) (hl : sameLease s m = false) :
    exec (.remoteCommand m) s = .next (staleRemote s (newCmd s (.remote m.peer m.tid) m.role m.hdr m.params)) := by
  rw [exec_remoteCommand_ready h]
  exact if_pos (by rw [hl, decide_eq_true hr]; rfl)

theorem exec_remoteCommand_unhonoured (h : mgmtReady s = true) (hr : m.role ≠ .tenant) (hh : remoteHonoured s m = false) :
    exec (.remoteCommand m) s =
      (let c := newCmd s (.remote m.peer m.tid) m.role m.hdr m.params
       .next (if (headerBad m.hdr true false).isEmpty then refuseNew s c 3 3
        else failCmd s c stBadParam (badDetail (headerBad m.hdr true false)))) := by
  rw [exec_remoteCommand_ready h]
  exact (if_neg (by rw [decide_eq_false hr, Bool.false_and]; exact Bool.false_ne_true)).trans (if_pos (congrArg (! ·) hh))

theorem exec_i3cCommand_ready {h : BitVec 512} {ps : List (BitVec 512)} (hready : mgmtReady s = true) :
    exec (.i3cCommand (h :: ps)) s = .next (arrive s .i3c .operator 1 true true h ps) := by
  change execI3cCommand (h :: ps) s = _
  exact if_pos hready

theorem exec_atomicPrepare_votes {t : State} (hpeer : m.peer ≠ selfId s) (hprep : prepareAt s m = some t) :
    exec (.atomicPrepare m) s = .next t := by
  change execAtomicPrepare m s = _
  rw [execAtomicPrepare, if_neg hpeer, hprep]

theorem exec_atomicDecision_applies {dec : Option Bool} {hits : Nat} (hlead : lead ≠ selfId s) (hp : findPrep s lead key = some p) :
    exec (.atomicDecision lead key dec hits) s = .next (applyDecision s p dec hits) := by
  change execAtomicDecision lead key dec hits s = _
  rw [execAtomicDecision, if_neg hlead, takeDecision, hp]

theorem exec_atomicInDoubt_due (hp : findPrep s lead key = some p) (hlead : lead ≠ selfId s) (hsure : p.inDoubt = false)
    (hdue : p.deadline ≤ now s) :
    exec (.atomicInDoubt lead key) s
      = .next (doubtEvent (modPrep s lead key fun q => { q with inDoubt := true, lastAsk := now s }) p 0x0012 0) := by
  change execAtomicInDoubt lead key s = _
  rw [execAtomicInDoubt, hp]
  refine if_neg ?_
  rw [decide_eq_false hlead, hsure, decide_eq_false (Nat.not_lt.mpr hdue)]
  exact Bool.false_ne_true

theorem exec_atomicDecisionQuery_due (hp : findPrep s lead key = some p) (hdoubt : p.inDoubt = true)
    (hdue : p.lastAsk + 1000000 ≤ now s) :
    exec (.atomicDecisionQuery lead key) s = .next (sendMsg (modPrep s lead key fun q => { q with lastAsk := now s })
      (atomOwn p.role (hOpcode p.hdr)) lead 13 [key]) := by
  change execAtomicDecisionQuery lead key s = _
  rw [execAtomicDecisionQuery, hp]
  refine if_neg ?_
  rw [hdoubt, decide_eq_false (Nat.not_lt.mpr hdue)]
  exact Bool.false_ne_true

end

/-- Settles O25: each arrival past its guards leaves the state that its rule builds. -/
theorem arrivalsAndSetMessagesComplete : Obligations.ArrivalsAndSetMessagesComplete := by
  unfold Obligations.ArrivalsAndSetMessagesComplete
  refine ⟨fun s h => ?_, fun s => ?_⟩
  · refine ⟨fun m hh => exec_remoteCommand_honoured h hh, fun m hr hl => exec_remoteCommand_stale h hr hl, ?_,
      fun x ps => exec_i3cCommand_ready h⟩
    intro m hr hh c
    refine ⟨fun hgood => ?_, fun hbad => ?_⟩
    · exact (exec_remoteCommand_unhonoured h hr hh).trans (congrArg Host.Outcome.next (if_pos (List.isEmpty_iff.mpr hgood)))
    · exact (exec_remoteCommand_unhonoured h hr hh).trans (congrArg Host.Outcome.next (if_neg (mt List.isEmpty_iff.mp hbad)))
  · exact ⟨fun _ _ _ _ => rfl, fun m t hpeer hprep => exec_atomicPrepare_votes hpeer hprep,
      fun lead key dec hits p hlead hp => exec_atomicDecision_applies hlead hp,
      fun lead key p hp hlead hsure hdue => exec_atomicInDoubt_due hp hlead hsure hdue,
      fun lead key p hp hdoubt hdue => exec_atomicDecisionQuery_due hp hdoubt hdue⟩

/-! ### DMA entries -/

section
variable {s : State} {c : Fin 192} {seq : Nat} {e : DmaEnt} {h : HostData} (hent : findEnt s c seq = some e)
include hent

theorem exec_dmaEntrySubmit_first {a b f : Option Nat} (hlive : frozen s = false) (hph : e.phase = .waiting)
    (hroom : slotsHeld (getCore s c) < 32) (hfirst : anyBefore (getCore s c) e (·.phase = .waiting) = false)
    (hcheck : submitCheck s e.desc = .inr (a, b, f)) :
    exec (.dmaEntrySubmit c seq) s =
      (let slots := if dHost e.desc then (partPages e.desc e.part).map XSlot.init else []
       let r := updEnt s c seq fun e => { e with phase := .submitted, slots := slots, srcFpa := a, dstFpa := b, flagFpa := f }
       .next (askTranslations (traceCore r c 3 10 (dTag e.desc)) c seq)) := by
  change execDmaEntrySubmit c seq s = _
  rw [execDmaEntrySubmit, hent]
  refine (if_neg ?_).trans ?_
  · rw [hlive, hfirst, decide_eq_false (not_not_intro hph), decide_eq_false (Nat.not_le.mpr hroom)]
    exact Bool.false_ne_true
  · rw [hcheck]

/-- What a submitted entry does. -/
theorem exec_dmaEntryComplete_submitted (hlive : frozen s = false) (hph : e.phase = .submitted) (htrans : translated e = true)
    (hstart : mayStart s c e = true) :
    exec (.dmaEntryComplete c seq h) s =
      if hasStale e then .next (refresh s c seq)
      else if entOff s c e then .next (entTouch s c e)
      else .next (startEnt (entTouch s c e) c e) := by
  change execDmaEntryComplete c seq h s = _
  rw [execDmaEntryComplete, hent]
  dsimp only
  rw [hlive, hph, htrans, hstart]
  rfl

/-- What a started entry does. -/
theorem exec_dmaEntryComplete_started (hlive : frozen s = false) (hph : e.phase = .started) :
    exec (.dmaEntryComplete c seq h) s =
      if hostReads e then
        if h.err then .next (endEnt s c seq stXlateFault)
        else if h.bytes.length ≠ piecesLen (outPieces e) then .next s
        else .next (takeReads s c e h.bytes)
      else if readsLeft e then
        if !translated e then .next s
        else if hasStale e then .next (refresh s c seq)
        else .next (issueReads s c e)
      else if bytesDone e then .next (finishEnt s c e)
      else if readsDone e then .next (deliverRead s c e)
      else .next s := by
  change execDmaEntryComplete c seq h s = _
  rw [execDmaEntryComplete, hent]
  dsimp only
  rw [hlive, hph]
  rfl

/-! ### Translations -/

/-- What an entry does with a translation completion that it asked for. -/
theorem exec_atsTranslationCompletion_asked {t : TransIn} {q : Nat × List (Nat × Nat)} (hlive : entEnded e = false)
    (hask : (e.xreqs.find? fun q => q.1 = t.asked) = some q) :
    exec (.atsTranslationCompletion c seq t) s =
      (let left := { e with xreqs := e.xreqs.filter fun q => q.1 ≠ t.asked }
       let d := { left with slots := left.slots.map (fillSlot t) }
       if q.2.any fun v => v.1 < t.page + t.pages.length && t.page < v.1 + v.2 then
         .next (askTranslations (updEnt s c seq fun _ => left) c seq)
       else if !(match e.phase with | .priWait _ _ => true | _ => false) && d.slots.any (fun x => x.filled && !slotGrants d.desc x) then
         .next (denied (updEnt s c seq fun _ => d) c d)
       else .next (updEnt s c seq fun _ => d)) := by
  change execAtsTranslationCompletion c seq t s = _
  rw [execAtsTranslationCompletion, hent]
  dsimp only
  rw [hlive, hask]
  rfl

theorem exec_prgResponse_waiting {a b code : Nat} (hph : e.phase = .priWait a b) :
    exec (.prgResponse c seq code) s =
      if code ≠ 0 || now s ≥ a + b then .next (endEnt s c seq stXlateFault)
      else .next (askTranslations (updEnt s c seq fun g => { g with
        phase := if e.startedAt = 0 then .submitted else .started, retried := true
        slots := g.slots.map fun x => if slotGrants g.desc x then x else XSlot.init x.page }) c seq) := by
  change execPrgResponse c seq code s = _
  rw [execPrgResponse, hent]
  dsimp only
  rw [hph]

theorem exec_priWaitExpiry_due {a b : Nat} (hph : e.phase = .priWait a b) (hdue : a + b ≤ now s) :
    exec (.priWaitExpiry c seq) s = .next (endEnt s c seq stXlateFault) := by
  change execPriWaitExpiry c seq s = _
  rw [execPriWaitExpiry, hent]
  dsimp only
  rw [hph]
  exact if_pos hdue

end

/-! ### Invalidations -/

section
variable {s : State} {itag : Nat} {i : InvalRec}

theorem exec_invalidateCompletion_quiet (hfind : (s.xl.invals.find? fun i => i.itag = itag) = some i)
    (hquiet : i.reads.any (readOut s) = false) :
    exec (.invalidateCompletion itag) s
      = .next (emit { s with xl := { s.xl with invals := s.xl.invals.filter fun j => j.itag ≠ itag } } (.invalComplete itag)) := by
  change execInvalidateCompletion itag s = _
  rw [execInvalidateCompletion, hfind]
  exact if_neg (ne_true_of_eq_false hquiet)

theorem exec_invalidateReadExpiry_due (hfind : (s.xl.invals.find? fun i => i.itag = itag) = some i)
    (hdue : i.at_ + 45000 ≤ now s) :
    exec (.invalidateReadExpiry itag) s
      = .next ((i.reads.filter (readOut s)).foldl (fun s r => endEnt s (fin 192 r.1) r.2.1 stFenced) s) := by
  change execInvalidateReadExpiry itag s = _
  rw [execInvalidateReadExpiry, hfind]
  exact if_neg (Nat.not_lt.mpr hdue)

end

/-- Settles O26: the phase of an entry or a request selects its case, and the guards of that case hold by hypothesis. -/
theorem dmaEntriesAndTranslationsComplete : Obligations.DmaEntriesAndTranslationsComplete := by
  unfold Obligations.DmaEntriesAndTranslationsComplete
  refine ⟨?_, ?_, ?_⟩
  · intro s c seq e h hent hlive
    refine ⟨fun a b f hph hroom hfirst hcheck => exec_dmaEntrySubmit_first hent hlive hph hroom hfirst hcheck,
      fun hph htrans hstart => ?_, fun hph hreads => ?_, fun hph hreads hleft htrans => ?_, fun hph hreads hleft hdone => ?_,
      fun hph hdone hread => ?_⟩
    · rw [exec_dmaEntryComplete_submitted hent hlive hph htrans hstart]
      refine ⟨fun hstale => if_pos hstale, fun hstale hoff => ?_, fun hstale hoff => ?_⟩
      · rw [hstale, hoff]
        rfl
      · rw [hstale, hoff]
        rfl
    · rw [exec_dmaEntryComplete_started hent hlive hph, hreads]
      refine ⟨fun herr => if_pos herr, fun herr hlen => ?_⟩
      rw [herr]
      exact if_neg (not_not_intro hlen)
    · rw [exec_dmaEntryComplete_started hent hlive hph, hreads, hleft, htrans]
      exact ⟨fun hstale => if_pos hstale, fun hstale => if_neg (ne_true_of_eq_false hstale)⟩
    · rw [exec_dmaEntryComplete_started hent hlive hph, hreads, hleft, hdone]
      rfl
    · have ⟨hreads, hleft⟩ : hostReads e = false ∧ readsLeft e = false := by
        simp only [readsDone, Bool.and_eq_true, Bool.not_eq_true'] at hread
        exact ⟨hread.1.1.1.2, hread.1.1.2⟩
      rw [exec_dmaEntryComplete_started hent hlive hph, hreads, hleft, hdone, hread]
      rfl
  · intro s c seq e hent
    refine ⟨?_, fun a b hph => ⟨fun hin => ?_, fun code hbad => ?_, fun hdue => exec_priWaitExpiry_due hent hph hdue⟩⟩
    · intro t q left gone d hlive hask held refused
      have hexec : exec (.atsTranslationCompletion c seq t) s =
          if gone then .next (askTranslations (updEnt s c seq fun _ => left) c seq)
          else if !held && refused then .next (denied (updEnt s c seq fun _ => d) c d)
          else .next (updEnt s c seq fun _ => d) := exec_atsTranslationCompletion_asked hent hlive hask
      rw [hexec]
      refine ⟨fun hgone => if_pos hgone, fun hgone => ⟨fun hheld href => ?_, fun hor => ?_⟩⟩
      · rw [hgone, hheld, href]
        rfl
      · have hgo : (!held && refused) = false := by rcases hor with h | h <;> simp [h]
        rw [hgone, hgo]
        rfl
    · rw [exec_prgResponse_waiting hent hph]
      exact if_neg (by simpa using hin)
    · rw [exec_prgResponse_waiting hent hph]
      exact if_pos (by simpa using hbad)
  · intro s itag
    refine ⟨?_, fun i hfind => ⟨fun hquiet => exec_invalidateCompletion_quiet hfind hquiet,
      fun hdue => exec_invalidateReadExpiry_due hfind hdue⟩⟩
    intro pasid page n hroom hfresh hit mine mark reads
    change execAtsInvalidateRequest itag pasid page n s = _
    rw [execAtsInvalidateRequest]
    have hspace : ¬s.xl.invals.length ≥ atsInvalDepth := Nat.not_le.mpr hroom
    exact if_neg (by rw [hfresh, decide_eq_false hspace]; exact Bool.false_ne_true)

end Sys2Proof.Machine
end

section
/-! SUPPORT. Guard verdicts and replays, attention requests and the steps of the sequence engine
(06_guarded_narrow_arithmetic.md; 10_attention_and_kv.md; 11_sequence_engine.md). -/

namespace Sys2Proof.Machine

/-! ### Verdicts and replays -/

section
variable {s : State} {c : Fin 192} {p : PendChain}

/-- The statistics that the participants of a verdict present, combined. -/
def verdictStats (s : State) (c : Fin 192) (p : PendChain) : Combined := combineRecs ((participants s c p).map (tensorOf s))

/-- The guard record of a verdict as it stands. -/
def verdictGuard (s : State) (c : Fin 192) (p : PendChain) : Nat := readNat s (verdictRecord (participants s c p) p.record) 64

/-- The state after a verdict has written its guard record and its trace. -/
def verdictWritten (s : State) (c : Fin 192) (p : PendChain) : State :=
  let ra := verdictRecord (participants s c p) p.record
  let trip := tripCmp (verdictGuard s c p) (verdictStats s c p) true ≠ 0
  traceVerdict (writeNat (demand s ra 64) ra 64 (grVerdict (verdictGuard s c p) (verdictStats s c p) trip)) (participants s c p)
    p.record trip

/-- What a verdict does once it has been written: without a trip and under policy 0 the cores go on, under the others they replay. -/
def verdictActs (s : State) (c : Fin 192) (p : PendChain) (t : State) : State :=
  let ps := participants s c p
  let g := verdictGuard s c p
  let cmp := tripCmp g (verdictStats s c p) true
  let note := fun (n : List Nat) (b : BitVec 4) =>
    noteTrip (bumpGuards t n) (getCore s c).launch (ps.headD 0 / 8) p.record (bits g 319 304) 1 cmp b
  if !decide (cmp ≠ 0) then resolveAll (bumpGuards t [0]) ps
  else if bits g 303 302 = 0 then resolveAll (note [0, 1] 1) ps
  else
    let wide := bits g 303 302 == 2
    ps.foldl (fun s d => beginReplay s (fin 192 d) wide g ps) (note (if wide then [0, 1, 2, 3] else [0, 1, 2]) (if wide then 6 else 2))

/-- A verdict is reached once every participant presents its part. -/
theorem exec_guardVerdict_presented (hpend : (getCore s c).pend = some p) (hwait : awaitsVerdict (getCore s c) = true)
    (hfence : fencedPart s (getCore s c).dispatch (participants s c p) = none)
    (hall : ((participants s c p).filter (presents s (getCore s c).dispatch p.record p.ordinal)).length = (participants s c p).length)
    (hclean : anyPoison s (verdictRecord (participants s c p) p.record) 64 = false) :
    exec (.guardVerdict c) s = .next (verdictActs s c p (verdictWritten s c p)) := by
  change execGuardVerdict c s = _
  rw [execGuardVerdict]
  dsimp only
  rw [hpend]
  dsimp only
  rw [if_not_of_true hwait, hfence]
  dsimp only
  rw [if_neg (not_not_intro hall), hclean]
  simp only [Bool.false_eq_true, if_false, verdictActs, apply_ite Host.Outcome.next]
  rfl

/-- The failure of a replay's transfers, if one of them failed. -/
def replayFailure (x : CoreSt) : Option Nat :=
  (blockEnts x).findSome? fun e => match e.phase with
    | .ended st => if st ≠ stOk then some st else none
    | _ => none

/-- The state at the end of a replay's transfers, before its program runs again. -/
def replayRead (s : State) (c : Fin 192) (since : Nat) (ps : List Nat) : State :=
  let t := modCore s c fun x => { x with dma := x.dma.filter fun e => e.owner ≠ some x.launch }
  noteReplay t (getCore s c).launch (now t - since) (ps.headD 0 = c.val)

/-- What a core does at the end of its replay's transfers. -/
def replayResult (s : State) (c : Fin 192) (p : PendChain) (wide : Bool) (g : Nat) (ps : List Nat) (r : State) (bad : Option Nat) :
    State :=
  match bad with
  | some st => endReplays (failPart r c st) (getCore s c).dispatch (getCore s c).launch p.record p.ordinal g ps
  | none => endReplays (rerun r c p wide g ps) (getCore s c).dispatch (getCore s c).launch p.record p.ordinal g ps

theorem exec_replayEnd_ended {wide : Bool} {since g : Nat} {ps : List Nat} (hpend : (getCore s c).pend = some p)
    (hverdict : (getCore s c).verdict = .replaying wide since g ps) (hended : (blockEnts (getCore s c)).all entEnded = true) :
    exec (.replayEnd c) s = .next (replayResult s c p wide g ps (replayRead s c since ps) (replayFailure (getCore s c))) := by
  change execReplayEnd c s = _
  rw [execReplayEnd]
  dsimp only
  rw [hpend, hverdict]
  dsimp only
  rw [if_not_of_true hended]
  change (match replayFailure (getCore s c) with
    | some st => Host.Outcome.next _
    | none => Host.Outcome.next _) = _
  cases replayFailure (getCore s c) <;> rfl

end

/-- Settles O27: a verdict that all present acts by its trip and policy, and a replay by the first failure of its transfers. -/
theorem guardVerdictsAndReplaysComplete : Obligations.GuardVerdictsAndReplaysComplete := by
  unfold Obligations.GuardVerdictsAndReplaysComplete
  refine ⟨?_, ?_⟩
  · intro s c p x ps ra g k cmp pol t note hpend hwait hfence hall hclean
    have hexec := exec_guardVerdict_presented hpend hwait hfence hall hclean
    refine ⟨fun h0 => ?_, fun h0 hpol => ?_, fun h0 hpol => ?_, fun h0 hpol hpol2 => ?_⟩
    · exact hexec.trans (congrArg Host.Outcome.next (if_pos (congrArg (! ·) (decide_eq_false (not_not_intro h0)))))
    · exact hexec.trans (congrArg Host.Outcome.next ((if_not_of_true (decide_eq_true h0)).trans (if_pos hpol)))
    · have hne : pol ≠ 0 := by omega
      have hwide : (pol == 2) = true := beq_iff_eq.mpr hpol
      refine hexec.trans (congrArg Host.Outcome.next ((if_not_of_true (decide_eq_true h0)).trans ((if_neg hne).trans ?_)))
      dsimp only
      rw [show (bits (verdictGuard s c p) 303 302 == 2) = true from hwide]
      rfl
    · have hwide : (pol == 2) = false := beq_eq_false_iff_ne.mpr hpol2
      refine hexec.trans (congrArg Host.Outcome.next ((if_not_of_true (decide_eq_true h0)).trans ((if_neg hpol).trans ?_)))
      dsimp only
      rw [show (bits (verdictGuard s c p) 303 302 == 2) = false from hwide]
      rfl
  · intro s c p wide since g ps x r bad hpend hverdict hended
    have hexec := exec_replayEnd_ended hpend hverdict hended
    have hsame : replayFailure (getCore s c) = bad := rfl
    refine ⟨fun hbad => ?_, fun st hbad => ?_⟩
    · rw [hexec, hsame, hbad]
      rfl
    · rw [hexec, hsame, hbad]
      rfl

/-! ### Attention requests -/

section
variable {s t : State} {k : Fin 24} {r : Fin 8} {g : BitVec 256} {mine : Nat → Bool} {n : Nat} {q : BitVec 512}
  {act : State → BitVec 256 → Fin 24 → Nat → BitVec 512 → Option AttnFail × State}

/-- The unit takes the request at the head of a ring where it is ready and awake. -/
theorem attnReq_takes (hn : ringConsumed s k r = n) (hq : BitVec.ofNat 512 (readNat s (ringEntryAt k r n) 64) = q)
    (hbell : n < ringDoorbell s k r) (hready : isReady (baseState s (.attn k)) = true) (hlive : frozen s = false)
    (hawake : attnAsleep s k (aqOp q) = []) (hmine : mine (aqOp q) = true) :
    attnReq k r mine s act = .next (startReq k r n q s act) := by
  subst hn hq
  rw [attnReq]
  refine (if_neg ?_).trans (if_not_isEmpty_of_nil hawake)
  rw [decide_eq_false (Nat.not_le.mpr hbell), hready, hlive, hmine]
  exact Bool.false_ne_true

/-- A valid request that its unit has read fails with the status of what is withheld, or acts where no verdict holds it. -/
theorem startReq_valid (hclean : anyPoison s (ringEntryAt k r n) 64 = false) (hg : s.seq.geom = some g)
    (hvalid : attnValid g k r q = true) :
    startReq k r n q s act =
      (let t := takeReq (demand s (ringEntryAt k r n) 64) k r n
       let rs := (attnRanges k r (aqReads g q)).getD []
       match withheld s k r n q rs with
       | some st => attnFail t k r q n (plainFail st)
       | none =>
         if provBlocks s rs ((attnRanges k r (aqWrites g q)).getD []) then s
         else match (act t g k r q).1 with
           | some e => attnFail (act t g k r q).2 k r q n e
           | none => attnDone (act t g k r q).2 k r q) := by
  rw [startReq]
  dsimp only
  rw [hclean, hg]
  exact (if_neg Bool.false_ne_true).trans (if_not_of_true hvalid)

theorem startReq_withheld {st : Nat} (hclean : anyPoison s (ringEntryAt k r n) 64 = false) (hg : s.seq.geom = some g)
    (hvalid : attnValid g k r q = true) (hheld : withheld s k r n q ((attnRanges k r (aqReads g q)).getD []) = some st) :
    startReq k r n q s act = attnFail (takeReq (demand s (ringEntryAt k r n) 64) k r n) k r q n (plainFail st) := by
  rw [startReq_valid hclean hg hvalid]
  dsimp only
  rw [hheld]

theorem startReq_acts (hclean : anyPoison s (ringEntryAt k r n) 64 = false) (hg : s.seq.geom = some g)
    (hvalid : attnValid g k r q = true) (hheld : withheld s k r n q ((attnRanges k r (aqReads g q)).getD []) = none)
    (hprov : provBlocks s ((attnRanges k r (aqReads g q)).getD []) ((attnRanges k r (aqWrites g q)).getD []) = false)
    (hact : act (takeReq (demand s (ringEntryAt k r n) 64) k r n) g k r q = (none, t)) :
    startReq k r n q s act = attnDone t k r q := by
  rw [startReq_valid hclean hg hvalid]
  dsimp only
  rw [hheld, hprov, hact]
  rfl

/-- Only an APPEND is withheld. -/
theorem aqOp_of_withheld {rs : List Rng} {st : Nat} (h : withheld s k r n q rs = some st) : aqOp q = 2 := by
  refine Decidable.byContradiction fun hne => ?_
  rw [withheld, if_pos hne] at h
  exact Option.some_ne_none st h.symm

end

/-! ### Steps -/

section
variable {s : State} {g : BitVec 256} {f : BitVec 1024} {r : StepRun}

/-- A step whose graph has a result applies its results, or closes without them. -/
theorem exec_stepgraphComplete_ended {c : CmdRec} {st d : Nat} (hstep : s.seq.step = some r) (hg : s.seq.geom = some g)
    (hf : s.seq.cfg = some f) (hopen : r.ended = none) (hfind : findCmd (pumpGraph 4097 s r.cmd) r.cmd = some c)
    (hfin : c.phase ≠ .finished) (hres : c.graph.bind graphResult = some (st, d)) :
    exec .stepgraphComplete s =
      if completing st then
        let x := applyStep (pumpGraph 4097 s r.cmd) g f r
        .next (closeStep { x.2 with seq := { x.2.seq with step := some { r with done := x.1 } } }
          (if c.trips > 0 then stGuardReplayed else stOk) (guardSummary c))
      else .next (closeStep (pumpGraph 4097 s r.cmd) st d) := by
  change execStepgraphComplete s = _
  rw [execStepgraphComplete, hstep, hg, hf]
  dsimp only
  rw [hopen, hfind]
  dsimp only
  rw [if_neg hfin, hres]
  rfl

/-- Run-ahead stages the next page that a step will read. -/
theorem exec_runAheadPrefetch_next {k : Fin 24} {c l p : Nat} (hstep : s.seq.step = some r) (hg : s.seq.geom = some g)
    (hopen : r.ended = none) (hlive : frozen s = false) (hnext : prefetchNext s g r = some (k, c, l, p)) :
    exec .runAheadPrefetch s = .next (match (stageOne s g k c l p).1 with
      | some e => attnReport (stageOne s g k c l p).2 k c 0 e
      | none => (stageOne s g k c l p).2) := by
  change execRunAheadPrefetch s = _
  rw [execRunAheadPrefetch, hstep, hg]
  dsimp only
  rw [hopen, hlive, hnext]
  rfl

end

/-- Settles O28: a request at the head of its ring ends by what its operation answers, a step by how its graph ended. -/
theorem attentionRequestsAndStepsComplete : Obligations.AttentionRequestsAndStepsComplete := by
  unfold Obligations.AttentionRequestsAndStepsComplete
  refine ⟨?_, ?_⟩
  · intro s t k r g n a q taken rs out hbell hready hlive hawake hclean hg hvalid
    have hn : ringConsumed s k r = n := rfl
    have hq : BitVec.ofNat 512 (readNat s (ringEntryAt k r n) 64) = q := rfl
    have htake {mine : Nat → Bool} {act : State → BitVec 256 → Fin 24 → Nat → BitVec 512 → Option AttnFail × State}
        (hmine : mine (aqOp q) = true) : attnReq k r mine s act = .next (startReq k r n q s act) :=
      attnReq_takes hn hq hbell hready hlive hawake hmine
    refine ⟨fun st hheld => ?_, fun hheld hprov => ?_⟩
    · have hmine : decide (aqOp q = 2) = true := decide_eq_true (aqOp_of_withheld hheld)
      change execAppend k r s = _
      rw [execAppend, htake hmine]
      exact congrArg Host.Outcome.next (startReq_withheld hclean hg hvalid hheld)
    · have hreq {mine : Nat → Bool} {act : State → BitVec 256 → Fin 24 → Nat → BitVec 512 → Option AttnFail × State}
          (hmine : mine (aqOp q) = true) (hact : act taken g k r q = (none, t)) : attnReq k r mine s act = out := by
        rw [htake hmine]
        exact congrArg Host.Outcome.next (startReq_acts hclean hg hvalid hheld hprov hact)
      refine ⟨fun hop hact => ?_, fun hop hact => ?_, fun hop hact => ?_, fun hop hact => ?_, fun hop hact => ?_⟩
      · change execFetch k r s = out
        rw [execFetch]
        exact hreq (by simpa using hop) hact
      · change execAppend k r s = out
        rw [execAppend]
        exact hreq (decide_eq_true hop) hact
      · change execStage k r s = out
        rw [execStage]
        exact hreq (decide_eq_true hop) hact
      · change execXpose k r s = out
        rw [execXpose]
        exact hreq (decide_eq_true hop) hact
      · change execMerge k r s = out
        rw [execMerge]
        exact hreq (decide_eq_true hop) hact
  · intro s g f r t
    refine ⟨fun c st d hstep hg hf hopen hfind hfin hres => ?_, fun _ _ _ => rfl, fun k c l p hstep hg hopen hlive hnext => ?_⟩
    · have hexec := exec_stepgraphComplete_ended hstep hg hf hopen hfind hfin hres
      exact ⟨fun hst => hexec.trans (if_pos hst), fun hst => hexec.trans (if_neg (ne_true_of_eq_false hst))⟩
    · have hexec := exec_runAheadPrefetch_next hstep hg hopen hlive hnext
      refine ⟨fun t hstage => ?_, fun e t hstage => ?_⟩
      · rw [hexec, hstage]
      · rw [hexec, hstage]

end Sys2Proof.Machine
end

section
/-! SUPPORT. The pace sensors' events and the timebase's (19_power_and_thermal.md; 02_self_timed_operation.md). -/

namespace Sys2Proof.Machine

section
variable {s : State}

/-! ### Canary samples, publications and thermal trips -/

/-- A canary sample is taken once at its instant. -/
theorem exec_canarySample_due {m : SampleIn} {a b : State × Nat × Nat × Bool} (hlock : s.tb.locked = true)
    (hlast : s.pace.lastSample ≠ some (now s / 100000 * 100000))
    (ha : sampleDie (takeSample s m (now s / 100000 * 100000)) 0 m.implied0 m.temps0
      (takeSample s m (now s / 100000 * 100000)).pace.pavg (now s / 100000 * 100000) = a)
    (hb : sampleDie a.1 1 m.implied1 m.temps1 (takeSample s m (now s / 100000 * 100000)).pace.pavg (now s / 100000 * 100000) = b) :
    exec (.canarySample m) s = .next (endProfileChanges s (noteCap b.1
      { instant := now s / 100000 * 100000, profile0 := (dieOf s 0).profile, profile1 := (dieOf s 1).profile
        skip0 := false, skip1 := false, floor0 := a.2.1, floor1 := b.2.1
        pace0 := a.2.2.1, pace1 := b.2.2.1, fb0 := a.2.2.2, fb1 := b.2.2.2 })) := by
  change execCanarySample m s = _
  rw [execCanarySample]
  dsimp only
  rw [if_neg (by simp [hlock, hlast]), ha]
  rw [hb]

end

/-- Settles O29: each event that is due passes its guards and leaves the state that its rule builds. -/
theorem paceAndTimebaseEventsComplete : Obligations.PaceAndTimebaseEventsComplete := by
  unfold Obligations.PaceAndTimebaseEventsComplete
  refine ⟨fun s => ⟨?_, ?_, ?_⟩, fun s hlock => ⟨?_, ?_, ?_, ?_, ?_⟩⟩
  · intro m hlock hlast
    exact exec_canarySample_due hlock hlast rfl rfl
  · intro m hm hdue
    change execPacePublish s = _
    rw [execPacePublish, hm]
    dsimp only
    rw [if_neg (Nat.not_lt.mpr hdue)]
    rfl
  · intro d sensor hpor
    change execThermalTrip d sensor s = _
    rw [execThermalTrip, if_neg (by simp [Option.isNone_eq_false_iff.mpr hpor])]
  · intro hdue
    change execTbSyncPulse s = _
    rw [execTbSyncPulse, if_neg (by simp [hlock, hdue])]
  · intro src port x hroot hsrc q good y t
    have hguard : ¬ (!s.tb.locked || s.tb.root || !(src = 1 || src = 2)) = true := by
      rw [hlock, hroot]
      rcases hsrc with rfl | rfl <;> decide
    have hexec : exec (.timeExchange src port x) s =
        if q.tb.rootSeen ≠ some x.root then .next q else .next (if x.offset.natAbs > 8 then clearAligned t else t) := by
      change execTimeExchange src port x s = _
      rw [execTimeExchange, if_neg hguard]
    exact ⟨fun h => hexec.trans (if_neg (not_not_intro h)), fun h => hexec.trans (if_pos h)⟩
  · intro hroot hdue
    change execAlignTimeout s = _
    rw [execAlignTimeout, if_neg (by simp [hlock, hroot, hdue])]
  · intro hroot hserv hprobe
    change execTimeRootProbe s = _
    rw [execTimeRootProbe, if_neg (by simp [hlock, hroot, hserv, hprobe])]
  · intro t0 best hroot hprobe hdue
    change execTimeRootProbeExpiry s = _
    rw [execTimeRootProbeExpiry, hprobe]
    dsimp only
    rw [if_neg (by simp [hroot, hdue])]

end Sys2Proof.Machine
end

section
/-! SUPPORT. Frames of the fabric (15_onaux_fabric.md). -/

namespace Sys2Proof.Machine

section
variable {s t : State} {f : FrameIn} {act : State → State}

/-- A frame that is received is acted on. -/
theorem onFrame_received (hfrozen : frozen s = false) (hrecv : recvFrame s f = .ok t) : onFrame f s act = .next (act t) := by
  rw [onFrame, if_neg (by simp [hfrozen]), hrecv]

/-! ### Requests -/

theorem exec_frameRead_received {n : Nat} (hfrozen : frozen s = false) (hrecv : recvFrame s f = .ok t) (hbody : f.body = .read n) :
    exec (.frameRead f) s = .next (answerServed f .readData (serveRead t false (fpaLocal f) n (fhCtx f.hdr))) := by
  change execFrameRead f s = _
  rw [execFrameRead, hbody]
  dsimp only
  rw [onFrame_received hfrozen hrecv, serveReq, hbody]

theorem exec_frameWrite_received {bs : List Byte} (hfrozen : frozen s = false) (hrecv : recvFrame s f = .ok t)
    (hbody : f.body = .write bs) :
    exec (.frameWrite f) s = .next (answerServed f (fun _ => .ack) (serveWrite t false (fpaLocal f) bs (fhCtx f.hdr))) := by
  change execFrameWrite f s = _
  rw [execFrameWrite, hbody]
  dsimp only
  rw [onFrame_received hfrozen hrecv, serveReq, hbody]

theorem exec_frameFlagAdd_received {v : Nat} (hfrozen : frozen s = false) (hrecv : recvFrame s f = .ok t)
    (hbody : f.body = .flagAdd v) :
    exec (.frameFlagAdd f) s = .next (answerServed f (fun _ => .ack) (serveFlag t false (fpaLocal f) v (fhCtx f.hdr))) := by
  change execFrameFlagAdd f s = _
  rw [execFrameFlagAdd, hbody]
  dsimp only
  rw [onFrame_received hfrozen hrecv, serveReq, hbody]

/-! ### Answers -/

theorem exec_frameReadData_received {bs : List Byte} (hfrozen : frozen s = false) (hrecv : recvFrame s f = .ok t)
    (hbody : f.body = .readData bs) :
    exec (.frameReadData f) s = .next (match findReq t f with
      | some r => if r.kind = 1 && bs.length = r.len then takeAnswer t r stOk bs else t
      | none => t) := by
  change execFrameReadData f s = _
  rw [execFrameReadData, hbody]
  exact onFrame_received hfrozen hrecv

theorem exec_frameAck_received (hfrozen : frozen s = false) (hrecv : recvFrame s f = .ok t) (hbody : f.body = .ack) :
    exec (.frameAck f) s = .next (match findReq t f with
      | some r => if r.kind ≠ 1 then takeAnswer t r stOk [] else t
      | none => t) := by
  change execFrameAck f s = _
  rw [execFrameAck, hbody]
  exact onFrame_received hfrozen hrecv

theorem exec_frameNack_received {st : Nat} (hfrozen : frozen s = false) (hrecv : recvFrame s f = .ok t)
    (hbody : f.body = .nack st) :
    exec (.frameNack f) s = .next (match findReq t f with
      | some r => takeAnswer t r (if st = stOk then stRefused else st) []
      | none => t) := by
  change execFrameNack f s = _
  rw [execFrameNack, hbody]
  exact onFrame_received hfrozen hrecv

/-! ### Collective frames -/

theorem exec_frameColl_ready {id inst h} (hfrozen : frozen s = false) (hrecv : recvFrame s f = .ok t)
    (hbody : f.body = .collReady id inst h) :
    exec (.frameColl f) s = .next (collReply t f (takeReady t (fhSrc f.hdr) id inst h)) := by
  change execFrameColl f s = _
  rw [execFrameColl, hbody]
  dsimp only
  rw [onFrame_received hfrozen hrecv, serveReq, hbody]

theorem exec_frameColl_data {id inst g chunk rank off bs} (hfrozen : frozen s = false)
    (hrecv : recvFrame s f = .ok t) (hbody : f.body = .collData id inst g chunk rank off bs) :
    exec (.frameColl f) s = .next (collReply t f (takeData t false id inst g chunk rank off bs)) := by
  change execFrameColl f s = _
  rw [execFrameColl, hbody]
  dsimp only
  rw [onFrame_received hfrozen hrecv, serveReq, hbody]

/-! ### Management, time, digest and key exchange frames -/

theorem exec_frameMgmt_received {k : Nat} {args : List Nat} (hfrozen : frozen s = false) (hrecv : recvFrame s f = .ok t)
    (hbody : f.body = .mgmt k args) :
    exec (.frameMgmt f) s = .next ((takeMessage t (fhSrc f.hdr) (fhLease f.hdr) k args).getD (park t f)) := by
  change execFrameMgmt f s = _
  rw [execFrameMgmt, hbody]
  dsimp only
  rw [onFrame_received hfrozen hrecv, takeMgmt, hbody]

/-- What a received time frame of each kind does (R67, R68). -/
def timeAct (f : FrameIn) (v : Nat) (root : Bool) (kind : Nat) (t : State) : State :=
  match kind with
  | 0 => if (t.tb.root && t.tb.serving) || (!t.tb.root && t.tb.aligned) then respond t f (.time 3 (now t) t.tb.root) else t
  | 1 => if t.tb.everAligned then respond t f (.time 2 (now t) t.tb.root) else t
  | 2 => match t.tb.probe with
    | some (t0, best) =>
      { t with tb := { t.tb with probe := some (t0, max best (v + bits f.hdr.toNat 31 0 / 1000 - now t)) } }
    | none => t
  | _ => if root then seeRoot t (fhSrc f.hdr) else t

theorem timeAct_root (v : Nat) : timeAct f v true 3 t = seeRoot t (fhSrc f.hdr) := rfl

theorem exec_frameTime_received {kind v : Nat} {root : Bool} (hfrozen : frozen s = false) (hrecv : recvFrame s f = .ok t)
    (hbody : f.body = .time kind v root) : exec (.frameTime f) s = .next (timeAct f v root kind t) := by
  change execFrameTime f s = _
  rw [execFrameTime, hbody]
  exact onFrame_received hfrozen hrecv

theorem exec_frameDigest_received {qpn n g} (hfrozen : frozen s = false) (hrecv : recvFrame s f = .ok t)
    (hbody : f.body = .digest qpn n g) (hkey : (mirrorKey t).isSome = true) :
    exec (.frameDigest f) s = .next (digestPartner t ⟨qpn, n, g, 0, now t⟩) := by
  change execFrameDigest f s = _
  rw [execFrameDigest, hbody]
  dsimp only
  rw [onFrame_received hfrozen hrecv, Option.isNone_eq_false_iff.mpr hkey, if_neg Bool.false_ne_true]

theorem exec_frameKeyx_received {nonce g inst} (hfrozen : frozen s = false) (hrecv : recvFrame s f = .ok t)
    (hbody : f.body = .keyx nonce g inst) (hlease : leaseLive t = true) (hsecret : t.lease.fabSecret.isSome = true) :
    exec (.frameKeyx f) s = .next (flushHeld (takeKeyx t (fhSrc f.hdr) nonce g inst)) := by
  change execFrameKeyx f s = _
  rw [execFrameKeyx, hbody]
  dsimp only
  rw [onFrame_received hfrozen hrecv, hlease, Option.isNone_eq_false_iff.mpr hsecret]
  exact congrArg _ (if_neg Bool.false_ne_true)

end

/-- Settles O30: a frame that is received is acted on by its body, and what serves it decides the answer. -/
theorem framesAreServedAndAnswered : Obligations.FramesAreServedAndAnswered := by
  unfold Obligations.FramesAreServedAndAnswered
  refine ⟨fun s t u f bs hfrozen hrecv => ⟨fun n hbody => ?_, fun ws hbody => ?_, fun v hbody => ?_⟩,
    fun s t f hfrozen hrecv => ⟨fun bs hbody => ?_, fun hbody => ?_, fun st hbody => ?_, ?_, ?_⟩,
    fun s t f hfrozen hrecv => ⟨?_, ?_, ?_, ?_, ?_, ?_, ?_, ?_⟩⟩
  · rw [exec_frameRead_received hfrozen hrecv hbody]
    exact ⟨fun h => by rw [h, answerServed], fun st h => by rw [h, answerServed]⟩
  · rw [exec_frameWrite_received hfrozen hrecv hbody]
    exact ⟨fun h => by rw [h, answerServed], fun st h => by rw [h, answerServed]⟩
  · rw [exec_frameFlagAdd_received hfrozen hrecv hbody]
    exact ⟨fun h => by rw [h, answerServed], fun st h => by rw [h, answerServed]⟩
  · exact exec_frameReadData_received hfrozen hrecv hbody
  · exact exec_frameAck_received hfrozen hrecv hbody
  · exact exec_frameNack_received hfrozen hrecv hbody
  · intro u st id inst h hbody hans
    rw [exec_frameColl_ready hfrozen hrecv hbody, hans, collReply]
  · intro u st id inst g chunk rank off bs hbody hans
    rw [exec_frameColl_data hfrozen hrecv hbody, hans, collReply]
  · intro u k args hbody htake
    rw [exec_frameMgmt_received hfrozen hrecv hbody, htake, Option.getD_some]
  · intro k args hbody htake
    rw [exec_frameMgmt_received hfrozen hrecv hbody, htake, Option.getD_none]
  · intro v root hbody hserves
    rw [exec_frameTime_received hfrozen hrecv hbody]
    exact congrArg _ (if_pos hserves)
  · intro v root hbody halign
    rw [exec_frameTime_received hfrozen hrecv hbody]
    exact congrArg _ (if_pos halign)
  · intro v root t0 best hbody hprobe
    rw [exec_frameTime_received hfrozen hrecv hbody]
    rw [timeAct, hprobe]
  · intro v hbody
    rw [exec_frameTime_received hfrozen hrecv hbody, timeAct_root]
  · intro qpn n g hbody hkey
    exact exec_frameDigest_received hfrozen hrecv hbody hkey
  · intro nonce g inst hbody hlease hsecret
    exact exec_frameKeyx_received hfrozen hrecv hbody hlease hsecret

end Sys2Proof.Machine
end

section
/-! SUPPORT. Links, held frames, digests and collectives over time (15_onaux_fabric.md). -/

namespace Sys2Proof.Machine

section
variable {s : State}

/-! ### Links -/

section
variable {peer : Nat} {l : LinkSt} (hlink : getLink s peer = some l)
include hlink

theorem exec_rekeyTrigger_due (hconf : l.confirmed = true) (hidle : l.rekeyAt = none)
    (hdue : 2 ^ 48 ≤ l.sendCtr ∨ l.setAt + 3600000000000 ≤ now s) :
    exec (.rekeyTrigger peer) s = .next (sendKeyx (putLink (drawNonce s).2
      { l with gen := l.gen + 1, myNonce := (drawNonce s).1, rekeyAt := some (now (drawNonce s).2) }) peer (drawNonce s).1 (l.gen + 1)
      false) := by
  change execRekeyTrigger peer s = _
  rw [execRekeyTrigger, hlink]
  dsimp only
  rw [hconf, hidle, ← Bool.decide_or, decide_eq_true (p := l.sendCtr ≥ 2 ^ 48 ∨ now s ≥ l.setAt + 3600000000000) hdue]
  exact if_neg Bool.false_ne_true

theorem exec_rekeyTimeout_due {t : Nat} (hrekey : l.rekeyAt = some t) (hdue : t + 10000000000 ≤ now s) :
    exec (.rekeyTimeout peer) s = .next (closeLink s peer) := by
  change execRekeyTimeout peer s = _
  rw [execRekeyTimeout, hlink]
  dsimp only
  rw [hrekey]
  exact if_neg (Nat.not_lt.mpr hdue)

theorem exec_frameCounterLimit_reached (hctr : 2 ^ 64 - 1 ≤ l.sendCtr) :
    exec (.frameCounterLimit peer) s = .next (closeLink s peer) := by
  change execFrameCounterLimit peer s = _
  rw [execFrameCounterLimit, hlink]
  exact if_pos hctr

end

/-! ### Digests and collectives -/

theorem exec_digestMissingTimeout_due {qpn seqno : Nat} {e : DigestEnt}
    (hfind : (s.fab.digLocal.find? fun e => e.qpn = qpn && e.seqno = seqno) = some e) (hdue : e.at_ + 1000000000 ≤ now s) :
    exec (.digestMissingTimeout qpn seqno) s = .next (mirrorEvent
      (setDigs s (s.fab.digLocal.erase e) s.fab.digPartner) 1 e.tag 1 e.digest.toNat 0 qpn seqno) := by
  change execDigestMissingTimeout qpn seqno s = _
  rw [execDigestMissingTimeout, hfind]
  exact if_neg (Nat.not_lt.mpr hdue)

theorem exec_collectiveTrigger_reached {slot : Fin 64} {d f} (hfrozen : frozen s = false)
    (hslot : smapGet none s.fab.slots slot = some (d, f)) (hprov : provBlocks s [⟨coTrig d, 8⟩] [] = false)
    (hclean : anyPoison s (coTrig d) 8 = false) (hflag : (f + 1) * coTrigInc d ≤ readNat s (coTrig d) 8) :
    exec (.collectiveTrigger slot) s = .next (startInst
      (setFab s { s.fab with slots := smapSet none s.fab.slots slot (some (d, f + 1)) }) d none (some slot.val)) := by
  change execCollectiveTrigger slot s = _
  rw [execCollectiveTrigger, hslot]
  dsimp only
  rw [hfrozen, hprov, hclean, decide_eq_false (Nat.not_lt.mpr hflag)]
  exact if_neg Bool.false_ne_true

theorem exec_collectiveInstanceEnd_moved {collid inst : Nat} {i : CollInst} (hfrozen : frozen s = false)
    (hfind : findInst (collPump s) collid inst = some i) (hbegun : i.begun = true) (hdue : i.due = 0) (hacks : i.acksOut = 0)
    (hout : i.out = []) :
    exec (.collectiveInstanceEnd collid inst) s = .next (collPump (endInst (collPump s) i stOk)) := by
  change execCollectiveInstanceEnd collid inst s = _
  rw [execCollectiveInstanceEnd, hfrozen, if_neg Bool.false_ne_true]
  dsimp only
  rw [hfind]
  dsimp only
  rw [hbegun, decide_eq_true hdue, decide_eq_true hacks, hout]
  exact if_pos rfl

end

/-- Settles O31: each event that is due passes its guards, and a trigger or a collective under way by what stands in memory and in its counts.
-/
theorem linkAndCollectiveEventsComplete : Obligations.LinkAndCollectiveEventsComplete := by
  unfold Obligations.LinkAndCollectiveEventsComplete
  refine ⟨fun s peer => ⟨fun l hlink => ⟨?_, ?_, ?_⟩, ?_, ?_⟩, fun s hfrozen => ⟨?_, ?_⟩⟩
  · exact exec_rekeyTrigger_due hlink
  · intro t
    exact exec_rekeyTimeout_due hlink
  · exact exec_frameCounterLimit_reached hlink
  · intro due peers t
    change execFabricHoldExpiry s = _
    rfl
  · intro qpn seqno e
    exact exec_digestMissingTimeout_due
  · intro slot d f
    exact exec_collectiveTrigger_reached hfrozen
  · intro collid inst i
    exact exec_collectiveInstanceEnd_moved hfrozen

end Sys2Proof.Machine
end

section
/-! SUPPORT. Ports and the sideband (15_onaux_fabric.md; 22_package_pins_electrical.md). -/

namespace Sys2Proof.Machine

section
variable {s : State}

/-! ### Ports -/

section
variable {p : Fin 32}

theorem exec_portSignalDetected_down (hpor : s.rst.porAt.isSome = true) (hphase : (s.ports[p]).phase = .down)
    (hlost : (s.ports[p]).lost = false) :
    exec (.portSignalDetected p) s = .next { s with ports := s.ports.set p { s.ports[p] with phase := .training } } := by
  change execPortSignalDetected p s = _
  rw [execPortSignalDetected]
  dsimp only
  rw [Option.isNone_eq_false_iff.mpr hpor, decide_eq_false (not_not_intro hphase), hlost]
  exact if_neg Bool.false_ne_true

/-- The state in which a training port has come up, before what depends on it is made ready. -/
def portTrainedState (s : State) (p : Fin 32) (full : Bool) : State :=
  { s with ports := s.ports.set p { s.ports[p] with phase := if full then .up else .up2, lost := false } }

theorem exec_portTrained_training {full : Bool} (hpor : s.rst.porAt.isSome = true) (hphase : (s.ports[p]).phase = .training) :
    exec (.portTrained p full) s = .next (flushHeld
      (if (getUnit (portTrainedState s p full) (.port p)).own = .notReady && dependsMet (portTrainedState s p full) (.port p)
        then becomeReady (portTrainedState s p full) (.port p) else portTrainedState s p full)) := by
  change execPortTrained p full s = _
  rw [execPortTrained]
  dsimp only
  rw [Option.isNone_eq_false_iff.mpr hpor, decide_eq_false (not_not_intro hphase)]
  exact if_neg Bool.false_ne_true

theorem exec_portLinkLoss_up (hup : (s.ports[p]).phase = .up ∨ (s.ports[p]).phase = .up2) :
    exec (.portLinkLoss p) s = .next (movePort (modPort s p fun x => { x with lost := true }) p .down 3) := by
  change execPortLinkLoss p s = _
  rw [execPortLinkLoss]
  exact if_neg fun h => hup.elim h.1 h.2

/-- A port that fell is retrained once a second has passed since the last time. -/
theorem exec_portRetrainTimer_due (hphase : (s.ports[p]).phase = .down) (hlost : (s.ports[p]).lost = true)
    (hdue : ∀ t, (s.ports[p]).lastRetrain = some t → t + 1000000000 ≤ now s) :
    exec (.portRetrainTimer p) s = .next (retrainPort (modPort s p fun x => { x with lastRetrain := some (now s) }) p 3) := by
  change execPortRetrainTimer p s = _
  rw [execPortRetrainTimer]
  rw [decide_eq_false (not_not_intro hphase), hlost]
  refine if_neg ?_
  cases hlast : (s.ports[p]).lastRetrain with
  | none => exact Bool.false_ne_true
  | some t =>
    dsimp only
    rw [decide_eq_false (Nat.not_lt.mpr (hdue t hlast))]
    exact Bool.false_ne_true

theorem exec_linkRetransmit_up {i : Nat} {f : FrameRec} (hframe : (s.ports[p]).replayBuf[i]? = some f) (hup : portUp s p = true)
    (htrip : s.rst.tripped = false) :
    exec (.linkRetransmit p i) s =
      (let again := ((s.ports[p]).replayBuf.drop i).filter fun g => fhVc g.hdr = fhVc f.hdr
       .next (again.foldl (fun s g => emit s (.frame p g))
         (modPort s p fun x => { x with replay := sat32 (x.replay + again.length) }))) := by
  change execLinkRetransmit p i s = _
  rw [execLinkRetransmit]
  dsimp only
  rw [hframe]
  dsimp only
  rw [hup, htrip]
  exact if_neg Bool.false_ne_true

theorem exec_vcCreditReturn_up {vc : Fin 4} {n : Nat} (hup : portUp s p = true) :
    exec (.vcCreditReturn p vc n) s = .next (flushPort (modPort s p fun x => { x with
      credits := vset x.credits vc (vget x.credits 0 vc + n), replayBuf := dropAcked vc n x.replayBuf }) p) := by
  change execVcCreditReturn p vc n s = _
  rw [execVcCreditReturn]
  exact if_not_of_true hup

end

theorem exec_injectionTokenRefill_live (hlease : leaseLive s = true) :
    exec .injectionTokenRefill s = .next (flushWaiting (setFab s { s.fab with
      tokens := min 65536 (s.fab.tokens + s.lease.injrate * (now s - s.fab.tokenAt)), tokenAt := now s })) := by
  change execInjectionTokenRefill s = _
  rw [execInjectionTokenRefill]
  exact if_not_of_true hlease

/-! ### Sideband -/

theorem exec_sbMarkOriginate_due (hlive : sbLive s = true) (hpos : sbPos s = 0) (hlock : s.tb.locked = true)
    (hroot : s.tb.root = true → s.tb.serving = true) (hdue : s.sb.nextMark ≤ now s) :
    exec .sbMarkOriginate s = .next (sbSend { s with sb := { s.sb with nextMark := now s + 10000 } }
      (sbFrame 1 0 0 (leBytes 8 (now s) ++ leBytes 4 0))) := by
  have hserves : (s.tb.root && !s.tb.serving) = false := by
    cases hr : s.tb.root with
    | false => rfl
    | true => rw [hroot hr]; rfl
  change execSbMarkOriginate s = _
  rw [execSbMarkOriginate, hlive, decide_eq_false (not_not_intro hpos), hlock, hserves, decide_eq_false (Nat.not_lt.mpr hdue)]
  exact if_neg Bool.false_ne_true

section
variable {kind : Nat} {f : SbIn} {act : State → State}

/-- The state that has noted when a frame at SB_IN ends. -/
def sbNoted (s : State) (f : SbIn) : State := { s with sb := { s.sb with lastIn := now s + sbTime f } }

theorem sbArrive_of_bypass (h : s.sb.bypass = true) : sbArrive s kind f act = emit (sbNoted s f) (.sideband f) := if_pos h

theorem sbArrive_of_taken (hlive : sbLive s = true) (htaken : sbTaken kind f = true) :
    sbArrive s kind f act = act (sbNoted s f) := by
  have hparts := hlive
  rw [sbLive, Bool.and_eq_true, Bool.not_eq_true'] at hparts
  have hbypass : ¬ (sbNoted s f).sb.bypass = true := by
    rw [show (sbNoted s f).sb.bypass = false from hparts.1]
    exact Bool.false_ne_true
  have hboth : (sbLive (sbNoted s f) && sbTaken kind f) = true := by
    rw [show sbLive (sbNoted s f) = true from hlive, htaken]
    rfl
  exact (if_neg hbypass).trans (if_pos hboth)

end

theorem exec_sbBypassOpen_on (hpor : s.rst.porAt.isSome = true) :
    exec .sbBypassOpen s = .next { s with sb := { s.sb with
      pinLow := false, portUp := true, bypass := s.sb.bypass && decide (now s < s.sb.lastIn + 29300) } } := by
  change execSbBypassOpen s = _
  rw [execSbBypassOpen, Option.isNone_eq_false_iff.mpr hpor]
  exact if_neg Bool.false_ne_true

/-- A mark is passed on, its forwarding time counted where it is a mark's 12 bytes (R559). -/
theorem exec_sbMark_taken {f : SbIn} (hlive : sbLive s = true) (htaken : sbTaken 1 f = true) :
    exec (.sbMark f) s = .next (if f.payload.length ≠ 12 then sbForward (sbNoted s f) f f.payload
      else takeMark (sbForward (sbNoted s f) f (leBytes 8 (markT0 f) ++ leBytes 4 (markFwd f + (Config.sbDelay - 1))))
        (markT0 f + markFwd f + sbDly (sbNoted s f))) := by
  change execSbMark f s = _
  rw [execSbMark, sbArrive_of_taken hlive htaken]

/-- What a sideband stop does once it has been forwarded (R560). -/
theorem exec_sbStop_taken {f : SbIn} (hlive : sbLive s = true) (htaken : sbTaken 2 f = true)
    (hhalted : (sbForward (sbNoted s f) f f.payload).sec.halted = false) :
    exec (.sbStop f) s =
      (let t := sbForward (sbNoted s f) f f.payload
       .next (if f.payload.length = 2 && armed t (fromLe f.payload) && starOpen t then stopDevice t
         else { t with sb := { t.sb with stopFails := t.sb.stopFails + 1 } })) := by
  change execSbStop f s = _
  rw [execSbStop, sbArrive_of_taken hlive htaken]
  dsimp only
  rw [hhalted]
  exact congrArg _ (if_neg Bool.false_ne_true)

theorem exec_sbMgmt_taken {f : SbIn} {h ps} (hlive : sbLive s = true) (htaken : sbTaken 3 f = true)
    (hblocks : sbBlocks f.payload = h :: ps) (hdpos : f.dpos = sbPos (sbForward (sbNoted s f) f f.payload) ∨ f.dpos = 0xFF)
    (hlen : f.payload.length % 64 = 0) (hready : mgmtReady (sbForward (sbNoted s f) f f.payload) = true) :
    exec (.sbMgmt f) s = .next (arrive (sbForward (sbNoted s f) f f.payload) .sideband .operator 2 true true h ps) := by
  change execSbMgmt f s = _
  rw [execSbMgmt, sbArrive_of_taken hlive htaken]
  dsimp only
  rw [hblocks]
  dsimp only
  rw [← Bool.decide_or, decide_eq_true hdpos, decide_eq_true hlen, hready]
  exact congrArg _ (if_pos rfl)

end

/-- Settles O32: a port event goes by the phase of its port, a sideband frame by the bypass and by the checks of its kind. -/
theorem portAndSidebandEventsComplete : Obligations.PortAndSidebandEventsComplete := by
  unfold Obligations.PortAndSidebandEventsComplete
  refine ⟨fun s => ⟨?_, exec_injectionTokenRefill_live⟩, fun s => ?_⟩
  · intro p x
    refine ⟨exec_portSignalDetected_down, ?_, exec_portLinkLoss_up, exec_portRetrainTimer_due, ?_, ?_⟩
    · intro full
      exact exec_portTrained_training
    · intro i f
      exact exec_linkRetransmit_up
    · intro vc n
      exact exec_vcCreditReturn_up
  · intro at_
    refine ⟨exec_sbMarkOriginate_due, ?_, ?_, ?_, ?_, ?_, ?_, rfl, exec_sbBypassOpen_on⟩
    · intro f hbypass
      exact ⟨congrArg _ (sbArrive_of_bypass hbypass), congrArg _ (sbArrive_of_bypass hbypass),
        congrArg _ (sbArrive_of_bypass hbypass), congrArg _ (sbArrive_of_bypass hbypass)⟩
    · intro f hlive htaken hlen
      exact (exec_sbMark_taken hlive htaken).trans (congrArg _ (if_pos hlen))
    · intro f hlive htaken hlen
      exact (exec_sbMark_taken hlive htaken).trans (congrArg _ (if_neg (not_not_intro hlen)))
    · intro f hlive htaken t hhalted
      have hexec := exec_sbStop_taken hlive htaken hhalted
      exact ⟨fun h => hexec.trans (congrArg _ (if_pos h)),
        fun h => hexec.trans (congrArg _ (if_neg (Bool.eq_false_iff.mp h)))⟩
    · intro f h ps hlive htaken hblocks t
      exact exec_sbMgmt_taken hlive htaken hblocks
    · intro f hlive htaken
      exact congrArg _ (sbArrive_of_taken hlive htaken)

end Sys2Proof.Machine
end

section
/-! SUPPORT. Fault reports, their summaries and scrub reads (20_debug_and_telemetry.md; 12_memory_system.md). -/

namespace Sys2Proof.Machine

section
variable {s : State}

theorem exec_faultReport_on {r : ReportIn} (hpor : s.rst.porAt.isSome = true) (hlow : 1 ≤ r.cls) (hhigh : r.cls ≤ 0x10) :
    exec (.faultReport r) s = .next (faultReport s (concentratorOf ((unitOfUid r.reporter).getD .device)) r.subject
      (if isLocalFuid s r.subject then (getUnit s ((unitOfUid (r.subject % 2 ^ 32)).getD .device)).epoch
        else memberEpoch s (.remote r.subject)) r.cls r.reason r.reporter 0 r.addr r.info) := by
  change execFaultReport r s = _
  rw [execFaultReport]
  rw [Option.isNone_eq_false_iff.mpr hpor, decide_eq_false (Nat.one_le_iff_ne_zero.mp hlow),
    decide_eq_false (Nat.not_lt.mpr hhigh)]
  exact if_neg Bool.false_ne_true

theorem exec_faultWindowEnd_due {d : Fin 2} (hnew : now s / 1000000 * 1000000 ≠ (s.faults[d]).window) :
    exec (.faultWindowEnd d) s =
      (let f := s.faults[d]
       let told := if f.summary then f.sums else []
       let kept := f.kept ++ told
       let t := { s with
         faults := s.faults.set d { f with
           window := now s / 1000000 * 1000000, unmatched := 0, sums := [], summary := f.summary && decide (f.unmatched ≥ 256)
           kept := kept.drop (kept.length - 64) }
         host := { s.host with newFault := s.host.newFault || !told.isEmpty } }
       .next (told.foldl (fun s x => ringEvent s s.lease.openL
         ⟨0x000E, fuidOf s (uidOf (.die d)), epochOf s (.die d), 0, x.reports, sumBits x⟩) t)) := by
  change execFaultWindowEnd d s = _
  rw [execFaultWindowEnd]
  exact if_neg hnew

/-! ### Scrub reads -/

/-- The state in which a scrub reads a line. -/
def scrubbing (s : State) (line : Nat) : State := if isHbm (line * 64) then touchAddr s (line * 64) else s

/-- What a scrub does with the line that it reads. -/
def scrubResult (t : State) (line : Nat) (e : EccIn) : State :=
  if poisonSet t line then t
  else if (scrubMeets t line e).isEmpty then t
  else if errsBad line (scrubMeets t line e) then reportPoison (setPoison t line true) line 0
  else (scrubMeets t line e).eraseDups.foldl (fun s k => countFixed s (line * 64) (k - 2)) (setEcc t line (freshEcc (eccOf t line)))

/-- A scrub reads a line whose channel is neither being cleared, busy nor off. -/
theorem exec_scrubRead_reads {addr : Nat} {e : EccIn} (hpor : s.rst.porAt.isSome = true)
    (hplace : (placeOf (lineOf addr * 64)).isSome = true) (hclear : hbmClearing s = false)
    (hhbm : isHbm (lineOf addr * 64) = true → hbmBusy s = false ∧ stackOff s (hbmChannel (lineOf addr * 64)) = false) :
    exec (.scrubRead addr e) s = .next (scrubResult (scrubbing s (lineOf addr)) (lineOf addr) e) := by
  have hidle : (isHbm (lineOf addr * 64) && hbmBusy s) = false := by
    cases h : isHbm (lineOf addr * 64) with
    | false => rfl
    | true => rw [(hhbm h).1]; rfl
  have hawake : (isHbm (lineOf addr * 64) && stackOff s (hbmChannel (lineOf addr * 64))) = false := by
    cases h : isHbm (lineOf addr * 64) with
    | false => rfl
    | true => rw [(hhbm h).2]; rfl
  change execScrubRead addr e s = _
  rw [execScrubRead]
  dsimp only
  rw [Option.isNone_eq_false_iff.mpr hpor, Option.isNone_eq_false_iff.mpr hplace, hclear, hidle,
    Bool.or_false, Bool.or_false, Bool.or_false, if_neg Bool.false_ne_true, hawake, if_neg Bool.false_ne_true,
    show (if isHbm (lineOf addr * 64) then touchAddr s (lineOf addr * 64) else s) = scrubbing s (lineOf addr) from rfl, scrubResult]
  generalize scrubbing s (lineOf addr) = t
  simp only [apply_ite Host.Outcome.next]

/-- A word without an error is not past correction. -/
theorem errsBad_nil (line : Nat) : errsBad line [] = false := by simp [errsBad]

end

/-- Settles O33: a report and a window pass their guards, and a scrub goes by the errors that its word meets. -/
theorem faultEventsComplete : Obligations.FaultEventsComplete := by
  unfold Obligations.FaultEventsComplete
  intro s
  refine ⟨?_, ?_, ?_⟩
  · intro r
    exact exec_faultReport_on
  · intro d f w
    exact exec_faultWindowEnd_due
  · intro addr a t counted bad errs hpor hplace hclear hhbm
    have hexec := fun e => exec_scrubRead_reads (e := e) hpor hplace hclear hhbm
    refine ⟨fun e hpois => (hexec e).trans (congrArg _ (if_pos hpois)), fun e hpois => ?_⟩
    have hread : scrubResult (scrubbing s (lineOf addr)) (lineOf addr) e = _ := if_neg (Bool.eq_false_iff.mp hpois)
    refine ⟨fun hnone => ?_, fun hbad => ?_, fun hsome hgood => ?_⟩
    · exact (hexec e).trans (congrArg _ (hread.trans (if_pos (List.isEmpty_iff.mpr hnone))))
    · have hsome : ¬ (errs e).isEmpty = true := fun h =>
        Bool.eq_false_iff.mp (errsBad_nil (lineOf addr)) (List.isEmpty_iff.mp h ▸ hbad)
      exact (hexec e).trans (congrArg _ (hread.trans ((if_neg hsome).trans (if_pos hbad))))
    · refine (hexec e).trans (congrArg _ (hread.trans ((if_neg fun h => hsome (List.isEmpty_iff.mp h)).trans
        ((if_neg (Bool.eq_false_iff.mp hgood)).trans ?_))))
      rfl

end Sys2Proof.Machine
end

section
/-! SUPPORT. Domains that doze and power that comes and goes (19_power_and_thermal.md; 22_package_pins_electrical.md;
18_bring_up_reset_recovery.md). -/

namespace Sys2Proof.Machine

section
variable {s : State}

section
variable {i : Fin 256}

theorem exec_domainDoze_due (hpor : s.rst.porAt.isSome = true) (hon : (s.doze[i]).off = false) (hdue : dozeDue s i = true) :
    exec (.domainDoze i) s = .next (setDoze (dozeTrace s i 5 0) i { (dozeTrace s i 5 0).doze[i] with
      off := true, wakeAt := none, offAt := now (dozeTrace s i 5 0), dozes := ((dozeTrace s i 5 0).doze[i]).dozes + 1 }) := by
  change execDomainDoze i s = _
  rw [execDomainDoze, Option.isNone_eq_false_iff.mpr hpor, hon, hdue]
  exact if_neg Bool.false_ne_true

theorem startWake_of_off {d : DozeSt} (t : Nat) (hoff : d.off = true) (hwake : d.wakeAt = none) :
    startWake t d = { d with wakeAt := some t, dozeNs := d.dozeNs + (t - d.offAt) } :=
  if_pos (by rw [hoff, hwake]; rfl)

theorem exec_domainWake_off (hoff : (s.doze[i]).off = true) (hwake : (s.doze[i]).wakeAt = none) :
    exec (.domainWake i) s = .next (setDoze s i { s.doze[i] with
      wakeAt := some (now s), dozeNs := (s.doze[i]).dozeNs + (now s - (s.doze[i]).offAt) }) := by
  have hsleeps : ¬ (!(s.doze[i]).off || (s.doze[i]).wakeAt.isSome) = true := by
    rw [hoff, hwake]
    exact Bool.false_ne_true
  change execDomainWake i s = _
  rw [execDomainWake, startWake_of_off (now s) hoff hwake]
  exact if_neg hsleeps

/-- A domain whose wake has run its time is awake; a cluster's trace is synchronised again. -/
theorem exec_domainWakeComplete_ready {w : Nat} (hwake : (s.doze[i]).wakeAt = some w) (hready : wakeReady s i = true) :
    exec (.domainWakeComplete i) s =
      (let t := setDoze s i { s.doze[i] with off := false, wakeAt := none, idleAt := now s, wakeNs := (s.doze[i]).wakeNs + (now s - w) }
       let t := dozeTrace t i 6 (now t - w)
       .next (if 192 ≤ i.val ∧ i.val < 216 then
           { t with clusters := t.clusters.set (fin 24 (i.val - 192)) (traceSync (now t) (t.clusters[fin 24 (i.val - 192)])) }
         else t)) := by
  change execDomainWakeComplete i s = _
  rw [execDomainWakeComplete]
  dsimp only
  rw [hwake]
  exact if_not_of_true hready

end

/-- Where no firmware was accepted, GETSTATUS answers 5AH. -/
theorem exec_getstatus_noFirmware (hpor : s.rst.porAt.isSome = true) (hfw : s.sec.fwOk = false) :
    exec .getstatus s = .next (emit s (.i3c [0x5A])) := by
  change execGetstatus s = _
  rw [execGetstatus, Option.isNone_eq_false_iff.mpr hpor, hfw, if_neg Bool.false_ne_true]
  exact if_pos rfl

theorem exec_getstatus_firmware (hpor : s.rst.porAt.isSome = true) (hfw : s.sec.fwOk = true) :
    exec .getstatus s = .next (emit { s with free := s.free + 1 } (.i3c [BitVec.ofNat 8 (Config.free s.free)])) := by
  change execGetstatus s = _
  rw [execGetstatus, Option.isNone_eq_false_iff.mpr hpor, hfw, if_neg Bool.false_ne_true]
  exact if_neg Bool.false_ne_true

end

/-- Settles O34: each event past its guards leaves the state that its rule builds. -/
theorem dozeAndPowerEventsComplete : Obligations.DozeAndPowerEventsComplete := by
  unfold Obligations.DozeAndPowerEventsComplete
  refine ⟨fun s i => ?_, fun s => ⟨?_, ?_, exec_getstatus_noFirmware, exec_getstatus_firmware⟩⟩
  · intro d
    exact ⟨exec_domainDoze_due, exec_domainWake_off, fun w => exec_domainWakeComplete_ready⟩
  · intro p hpor
    change execPorNDeassert p s = _
    rw [execPorNDeassert, hpor]
    exact if_neg Bool.false_ne_true
  · intro l
    rfl

end Sys2Proof.Machine
end

section
/-! SUPPORT. The closing of a lease, and the messages that set secrets and keys (17_security_and_leasing.md). -/

namespace Sys2Proof.Machine

section
variable {s : State} {m : VangaerIn}

/-! ### The closing of a lease -/

theorem exec_leaseCloseDrainEnd_due {t : Nat} (hphase : s.lease.closing = some (.drain t)) (hdue : t ≤ now s) :
    exec .leaseCloseDrainEnd s = .next { hardwareScrub s with
      lease := { (hardwareScrub s).lease with closing := some (.hwScrub (now (hardwareScrub s) + 220000)) } } := by
  change execLeaseCloseDrainEnd s = _
  rw [execLeaseCloseDrainEnd, hphase]
  exact if_neg (Nat.not_lt.mpr hdue)

theorem exec_hardwareScrubEnd_due {t : Nat} (hphase : s.lease.closing = some (.hwScrub t)) (hdue : t ≤ now s) :
    exec .hardwareScrubEnd s = .next { s with lease := { s.lease with closing := some (.askoc (now s + 3000000)) } } := by
  change execHardwareScrubEnd s = _
  rw [execHardwareScrubEnd, hphase]
  exact if_neg (Nat.not_lt.mpr hdue)

theorem exec_askocScrubEnd_due {t : Nat} (hphase : s.lease.closing = some (.askoc t)) (hdue : t ≤ now s) :
    exec .askocScrubEnd s =
      (let r := askocScrub s
       .next (checkAllReady { r with lease := { r.lease with closing := some (.hbmClear (now r + 28000000)) } } 2 (now r))) := by
  change execAskocScrubEnd s = _
  rw [execAskocScrubEnd, hphase]
  exact if_neg (Nat.not_lt.mpr hdue)

/-- The state with HBM cleared and its stacks touched. -/
def hbmCleared (s : State) : State := (List.range 8).foldl (fun s i => touchDoze s (216 + i)) (clearHbm s)

theorem exec_hbmClearEnd_clearing {t : Nat} (hphase : s.lease.closing = some (.hbmClear t)) :
    exec .hbmClearEnd s = if (hbmCleared s).lease.verify then
        .next { hbmCleared s with lease := { (hbmCleared s).lease with closing := some (.verify (now (hbmCleared s) + 28000000)) } }
      else .next (finishClose (hbmCleared s)) := by
  change execHbmClearEnd s = _
  rw [execHbmClearEnd, hphase]
  rfl

theorem exec_hbmVerifyEnd_verifying {t : Nat} {repairs : List (Nat × Nat)} {bad : List Nat}
    (hphase : s.lease.closing = some (.verify t)) :
    exec (.hbmVerifyEnd repairs bad) s = .next (finishClose (bad.foldl (fun s a =>
      repairRows s (fin 256 (hbmChannel a)) 1 (a / 64 * 64)) (repairs.foldl (fun s r =>
      repairRows { s with free := s.free + 1 } (fin 256 r.1) r.2
        (hbmAddr (r.1 % 256) (Config.free s.free % 0x60000000 / 64 * 64))) s))) := by
  change execHbmVerifyEnd repairs bad s = _
  rw [execHbmVerifyEnd, hphase]
  rfl

/-! ### Messages -/

section
variable (hserial : serialOk s m = true) (hsession : s.sec.sessions.contains m.session = true)
include hserial hsession

/-- A message of the tenant of the lease in force is accepted where its signature verifies. -/
theorem tenantMsgOk_of_form {kind : Nat} (hlease : leaseLive s = true) (hid : vgLease m = s.lease.id.toNat)
    (hform : vgForm m kind = true) : tenantMsgOk s m kind = Config.ecdsaOk s.lease.tenant (vangaerDigest m) m.sig := by
  rw [tenantMsgOk, hform, hlease, hid, hserial, hsession, beq_self_eq_true]
  rfl

/-- A message of the installer is accepted outside a lease, with a later AUTHSEQ, where its signature verifies. -/
theorem installerMsgOk_of_form {kind : Nat} {key : BitVec 768} (hopen : s.lease.openL = false) (hclosing : s.lease.closing = none)
    (hseq : s.sec.authInst < vgAuthseq m) (hform : vgForm m kind = true) :
    installerMsgOk s m kind key = Config.ecdsaOk key (vangaerDigest m) m.sig := by
  rw [installerMsgOk, hform, hopen, hclosing, hserial, hsession, decide_eq_true (p := vgAuthseq m > s.sec.authInst) hseq]
  rfl

theorem exec_fabricSecret_form (hlease : leaseLive s = true) (hid : vgLease m = s.lease.id.toNat) (hform : vgForm m 1 = true)
    (hnone : s.lease.fabSecret = none) :
    exec (.fabricSecret m) s = .next (vangaerDone s 3 1 (Config.ecdsaOk s.lease.tenant (vangaerDigest m) m.sig) fun s =>
      { s with lease := { s.lease with fabSecret := some (vgSecret m) } }) := by
  change execFabricSecret m s = _
  rw [execFabricSecret, tenantMsgOk_of_form hserial hsession hlease hid hform, hnone]
  dsimp only
  rw [Option.isNone_none, Bool.and_true]

theorem exec_mirrorSecret_form (hlease : leaseLive s = true) (hid : vgLease m = s.lease.id.toNat) (hform : vgForm m 2 = true)
    (hnone : s.lease.mirSecret = none) (hmirror : s.lease.mirror = true) :
    exec (.mirrorSecret m) s = .next (vangaerDone s 3 2 (Config.ecdsaOk s.lease.tenant (vangaerDigest m) m.sig) fun s =>
      { s with lease := { s.lease with mirSecret := some (vgSecret m) } }) := by
  change execMirrorSecret m s = _
  rw [execMirrorSecret, tenantMsgOk_of_form hserial hsession hlease hid hform, hnone, hmirror]
  dsimp only
  rw [Option.isNone_none, Bool.and_true, Bool.and_true]

section
variable (hopen : s.lease.openL = false) (hclosing : s.lease.closing = none) (hseq : s.sec.authInst < vgAuthseq m)
include hopen hclosing hseq

theorem exec_installKey_form (hform : vgForm m 3 = true) (hslots : s.sec.instSlots < 4)
    (hkey : s.sec.instSlots = 0 ∨ installerKeyOk s = true) :
    exec (.installKey m) s = .next (vangaerDone s 1 3
      (Config.ecdsaOk (if s.sec.instSlots = 0 then vgKey m else s.sec.instKey) (vangaerDigest m) m.sig) fun s =>
      { s with sec := { s.sec with
        instSlots := s.sec.instSlots + 1, instKey := vgKey m, instHash := Config.sha384 (leBytes 96 (vgKey m).toNat)
        authInst := vgAuthseq m } }) := by
  have hmay : (decide (s.sec.instSlots < 4) && (decide (s.sec.instSlots = 0) || installerKeyOk s)) = true := by
    rw [decide_eq_true hslots, Bool.true_and, Bool.or_eq_true, decide_eq_true_eq]
    exact hkey
  change execInstallKey m s = _
  rw [execInstallKey, installerMsgOk_of_form hserial hsession hopen hclosing hseq hform, hmay]
  dsimp only
  rw [Bool.true_and]

theorem exec_plainSecret_form (hform : vgForm m 4 = true) (hkey : installerKeyOk s = true) :
    exec (.plainSecret m) s = .next (vangaerDone s 1 4 (Config.ecdsaOk s.sec.instKey (vangaerDigest m) m.sig) fun s =>
      { s with sec := { s.sec with plain := some (vgSecret m), authInst := vgAuthseq m } }) := by
  change execPlainSecret m s = _
  rw [execPlainSecret, installerMsgOk_of_form hserial hsession hopen hclosing hseq hform, hkey]
  dsimp only
  rw [Bool.true_and]

end
end

/-! A message that is not of its kind's form is refused. -/

theorem tenantMsgOk_of_not_form {kind : Nat} (h : vgForm m kind = false) : tenantMsgOk s m kind = false := by
  rw [tenantMsgOk, h]
  rfl

theorem installerMsgOk_of_not_form {kind : Nat} {key : BitVec 768} (h : vgForm m kind = false) :
    installerMsgOk s m kind key = false := by
  rw [installerMsgOk, h]
  rfl

theorem vangaerDone_false {role kind : Nat} {f : State → State} :
    vangaerDone s role kind false f = vangaerReply (auditRefusal s role 3 0 0 0 10 0) 1 := rfl

theorem exec_fabricSecret_refused (h : vgForm m 1 = false) :
    exec (.fabricSecret m) s = .next (vangaerReply (auditRefusal s 3 3 0 0 0 10 0) 1) := by
  change execFabricSecret m s = _
  rw [execFabricSecret, tenantMsgOk_of_not_form h]
  dsimp only
  rw [Bool.false_and, vangaerDone_false]

theorem exec_mirrorSecret_refused (h : vgForm m 2 = false) :
    exec (.mirrorSecret m) s = .next (vangaerReply (auditRefusal s 3 3 0 0 0 10 0) 1) := by
  change execMirrorSecret m s = _
  rw [execMirrorSecret, tenantMsgOk_of_not_form h]
  dsimp only
  rw [Bool.false_and, Bool.false_and, vangaerDone_false]

theorem exec_installKey_refused (h : vgForm m 3 = false) :
    exec (.installKey m) s = .next (vangaerReply (auditRefusal s 1 3 0 0 0 10 0) 1) := by
  change execInstallKey m s = _
  rw [execInstallKey, installerMsgOk_of_not_form h]
  dsimp only
  rw [Bool.and_false, vangaerDone_false]

theorem exec_plainSecret_refused (h : vgForm m 4 = false) :
    exec (.plainSecret m) s = .next (vangaerReply (auditRefusal s 1 3 0 0 0 10 0) 1) := by
  change execPlainSecret m s = _
  rw [execPlainSecret, installerMsgOk_of_not_form h]
  dsimp only
  rw [Bool.and_false, vangaerDone_false]

end

/-- Settles O35: the phase of a closing selects its event, and a message of the right form is accepted where its signature
verifies. -/
theorem leaseClosingAndSecretsComplete : Obligations.LeaseClosingAndSecretsComplete := by
  unfold Obligations.LeaseClosingAndSecretsComplete
  refine ⟨fun s => ⟨fun t => exec_leaseCloseDrainEnd_due, fun t => exec_hardwareScrubEnd_due, fun t => exec_askocScrubEnd_due,
    ?_, fun t repairs bad => exec_hbmVerifyEnd_verifying⟩, fun s m hserial hsession => ?_⟩
  · intro t hphase r
    have hexec := exec_hbmClearEnd_clearing hphase
    exact ⟨fun h => hexec.trans (if_pos h), fun h => hexec.trans (if_neg (Bool.eq_false_iff.mp h))⟩
  · intro by_ refused
    refine ⟨fun hlease hid => ⟨exec_fabricSecret_form hserial hsession hlease hid, exec_mirrorSecret_form hserial hsession hlease hid⟩,
      fun hopen hclosing hseq => ⟨exec_installKey_form hserial hsession hopen hclosing hseq,
        exec_plainSecret_form hserial hsession hopen hclosing hseq⟩,
      exec_fabricSecret_refused, exec_mirrorSecret_refused, exec_installKey_refused, exec_plainSecret_refused⟩

end Sys2Proof.Machine
end

section
/-! SUPPORT. SPDM, IDE and TDISP requests, audit checkpoints and the end of an arming (16_host_interface.md;
17_security_and_leasing.md). -/

namespace Sys2Proof.Machine

section
variable {s : State}

/-! ### SPDM -/

section
variable (hready : isReady (getUnit s .vangaer).own = true)
include hready

theorem exec_getCertificate_ready (session : Nat) : exec (.getCertificate session) s = .next (emit s (.spdm 5 Config.certChain)) := by
  change execGetCertificate session s = _
  rw [execGetCertificate, if_pos hready]

/-- The blocks that a measurement request names. -/
def measured (s : State) (index : Nat) : List Byte :=
  if index = 0xFF then (List.range 9).flatMap fun i => dmtfBlock s (i + 1) else dmtfBlock s index

theorem exec_getMeasurements_named {session : Nat} {y : MeasureIn} (hindex : (1 ≤ y.index ∧ y.index ≤ 9) ∨ y.index = 0xFF) :
    exec (.getMeasurements session y) s = .next (emit (drawRandom s).2 (.spdm 6 (measured s y.index ++ leBytes 96
      (Config.deviceSign (Config.spdmHash session (leBytes 32 y.nonce.toNat ++ measured s y.index)) (drawRandom s).1).toNat))) := by
  change execGetMeasurements session y s = _
  rw [execGetMeasurements, if_not_of_true hready, ← Bool.decide_and, ← Bool.decide_or, decide_eq_true hindex]
  exact if_neg Bool.false_ne_true

/-- A key exchange opens a session while fewer than four are open. -/
theorem exec_keyExchange_free {session : Nat} (hnew : s.sec.sessions.contains session = false) (hroom : s.sec.sessions.length < 4) :
    exec (.keyExchange session) s =
      (let r := drawRandom s
       let q := drawRandom r.2
       let key := leBytes 96 (Config.ephemeralPub r.1).toNat
       .next (emit { q.2 with sec := { q.2.sec with sessions := q.2.sec.sessions ++ [session] } } (.spdm 1
         (key ++ leBytes 96 (Config.deviceSign (Config.spdmHash session key) q.1).toNat)))) := by
  change execKeyExchange session s = _
  rw [execKeyExchange, hready, hnew, decide_eq_false (Nat.not_le.mpr hroom)]
  exact if_neg Bool.false_ne_true

theorem exec_auditCheckpoint_due
    (hdue : 4096 ≤ s.audit.sinceCkpt ∨ (0 < s.audit.sinceCkpt ∧ s.audit.ckptAt + 3600000000000 ≤ now s)) :
    exec .auditCheckpoint s = .next (auditCheckpoint s) := by
  change execAuditCheckpoint s = _
  rw [execAuditCheckpoint]
  refine if_pos ?_
  rw [hready, ← Bool.decide_and, ← Bool.decide_or, Bool.true_and]
  exact decide_eq_true hdue

end

/-! ### IDE and TDISP -/

/-- Whether a stream holds the key of a set. -/
def hasKey (x : StreamSt) (k : Nat) : Bool := if k = 0 then x.key0.isSome else if k = 1 then x.key1.isSome else false

theorem hasKey_eq (x : StreamSt) (k : Nat) :
    hasKey x k = (if k = 0 then x.key0 else if k = 1 then x.key1 else none).isSome := by
  rw [hasKey]
  split
  · rfl
  · split <;> rfl

section
variable {session stream : Nat}

section
variable (hsession : s.sec.sessions.contains session = true) (hstream : stream < 5)
include hsession hstream

theorem exec_keyProg_named {k : StreamKeyIn} (hset : k.keySet < 2) :
    exec (.keyProg session stream k) s =
      (let x := vget s.sec.streams .init stream
       let t := setStream s stream (if k.keySet = 0 then { x with key0 := some k.key } else { x with key1 := some k.key })
       .next (emit { t with sec := { t.sec with
         ideSessions := t.sec.ideSessions ++ (if t.sec.ideSessions.contains session then [] else [session]) } } (.spdm 2 []))) := by
  change execKeyProg session stream k s = _
  rw [execKeyProg, hsession, decide_eq_false (Nat.not_le.mpr hstream), decide_eq_false (Nat.not_le.mpr hset)]
  exact if_neg Bool.false_ne_true

theorem exec_kSetGo_held {k : Nat} (hkey : hasKey (vget s.sec.streams .init stream) k = true) :
    exec (.kSetGo session stream k) s =
      .next (emit (setStream s stream { vget s.sec.streams .init stream with secure := true, keySet := k }) (.spdm 3 [])) := by
  have hmay : (!s.sec.sessions.contains session || decide (stream ≥ 5) || !hasKey (vget s.sec.streams .init stream) k) = false := by
    rw [hsession, decide_eq_false (Nat.not_le.mpr hstream), hkey]
    rfl
  change execKSetGo session stream k s = _
  rw [execKSetGo]
  exact if_neg (Bool.eq_false_iff.mp hmay)

end

section
variable (hsession : s.sec.sessions.contains session = true)
include hsession

/-- The TDI is locked to a secure stream below 4 of a lease that it has not run for and has no pairs of the tenant. -/
theorem exec_lockInterface_free (hlow : stream < 4) (htdi : s.host.tdi = .unlocked) (hlease : leaseLive s = true)
    (hsecure : (vget s.sec.streams .init stream).secure = true) (hpairs : tenantPairs s = []) (hrun : s.host.wasRun = false) :
    exec (.lockInterface session stream) s =
      (let r := drawRandom s
       let t := setTdi { r.2 with host := { r.2.host with bound := some (stream, session), nonce := some r.1 } } .locked
       .next (emit t (.tdisp true r.1))) := by
  change execLockInterface session stream s = _
  rw [execLockInterface, decide_eq_true htdi, hlease, hsession, hsecure, decide_eq_true hlow, hpairs, hrun]
  exact if_neg Bool.false_ne_true

end

theorem exec_startInterface_locked {nonce : Nat} (htdi : s.host.tdi = .locked) (hnonce : s.host.nonce = some nonce)
    (hbound : s.host.bound.map (·.2) = some session) :
    exec (.startInterface session nonce) s =
      .next (emit (setTdi { s with host := { s.host with nonce := none, wasRun := true } } .run) (.tdisp true 0)) := by
  have hmay : (decide (s.host.tdi = .locked) && decide (s.host.nonce = some nonce)
      && decide (s.host.bound.map (·.2) = some session)) = true := by
    rw [decide_eq_true htdi, decide_eq_true hnonce, decide_eq_true hbound]
    rfl
  change execStartInterface session nonce s = _
  rw [execStartInterface]
  exact if_not_of_true hmay

theorem exec_stopInterface_open (hsession : s.sec.sessions.contains session = true) :
    exec (.stopInterface session) s = .next (emit { moveTdi s .unlocked with
      host := { (moveTdi s .unlocked).host with bound := none, nonce := none } } (.tdisp true 0)) := by
  change execStopInterface session s = _
  rw [execStopInterface]
  exact if_not_of_true hsession

end

/-- The state in which what a TDI error names, a stream or a session, is no longer secure. -/
def tdiLapsed (s : State) (e : TdiErrorIn) : State :=
  if e.cause = 1 then setStream s e.subject { vget s.sec.streams .init e.subject with secure := false }
  else if e.cause = 2 then { s with sec := { s.sec with
    sessions := s.sec.sessions.filter (· ≠ e.subject), ideSessions := s.sec.ideSessions.filter (· ≠ e.subject) } }
  else s

theorem tdiLapsed_host (e : TdiErrorIn) : (tdiLapsed s e).host = s.host := by
  rw [tdiLapsed]
  split
  · rfl
  · split <;> rfl

/-- Whether a TDI error concerns what the TDI is bound to. -/
def tdiConcerns (e : TdiErrorIn) : Option (Nat × Nat) → Bool
  | none => false
  | some (stream, session) => if e.cause = 2 then e.subject = session else e.subject = stream

theorem tdiConcerns_some {e : TdiErrorIn} {a b : Nat} :
    tdiConcerns e (some (a, b)) = true ↔ (if e.cause = 2 then b else a) = e.subject := by
  rw [tdiConcerns]
  split <;> rw [decide_eq_true_eq, eq_comm]

theorem exec_tdiError (e : TdiErrorIn) :
    exec (.tdiError e) s = .next (if tdiConcerns e s.host.bound then tdiFail (tdiLapsed s e) else tdiLapsed s e) := by
  rw [← tdiLapsed_host e]
  rfl

theorem exec_stopArmExpiry_due {tok t : Nat} (harm : s.stopArm = some (tok, t)) (hdue : t ≤ now s) :
    exec .stopArmExpiry s = .next { s with stopArm := none } := by
  change execStopArmExpiry s = _
  rw [execStopArmExpiry, harm]
  exact if_pos hdue

end

/-- Settles O36: each request past its conditions leaves the state that its rule builds. -/
theorem secureSessionsComplete : Obligations.SecureSessionsComplete := by
  unfold Obligations.SecureSessionsComplete
  intro s session stream r x
  refine ⟨rfl, fun hready => ⟨exec_getCertificate_ready hready session, ?_, exec_keyExchange_free hready,
    exec_auditCheckpoint_due hready⟩, fun hsession hstream => ⟨?_, ?_, ?_⟩, fun nonce => exec_startInterface_locked,
    exec_stopInterface_open, ?_, fun tok t => exec_stopArmExpiry_due⟩
  · intro y b
    exact exec_getMeasurements_named hready
  · intro k
    exact exec_keyProg_named hsession hstream
  · intro k hkey
    exact exec_kSetGo_held hsession hstream ((hasKey_eq _ k).trans hkey)
  · exact exec_lockInterface_free hsession
  · intro e t
    refine ⟨fun a b hbound hsubject => ?_, fun hother => ?_⟩
    · refine (exec_tdiError e).trans (congrArg _ (if_pos ?_))
      rw [hbound]
      exact tdiConcerns_some.mpr hsubject
    · refine (exec_tdiError e).trans (congrArg _ (if_neg ?_))
      cases hbound : s.host.bound with
      | none => exact Bool.false_ne_true
      | some x => exact fun h => hother x.1 x.2 hbound (tdiConcerns_some.mp h)

end Sys2Proof.Machine
end

section
/-! SUPPORT. Resets of the host function, requests to BAR2 and configuration requests (16_host_interface.md). -/

namespace Sys2Proof.Machine

section
variable {s : State}

/-! ### Resets -/

theorem exec_functionLevelReset_ready (h : s.host.ready = true) : exec .functionLevelReset s = .next (hostReset s true) := if_pos h

theorem exec_d3hotToD0_ready (h : s.host.ready = true) : exec .d3hotToD0 s = .next (hostReset s true) := if_pos h

theorem exec_hotReset_linkUp (h : s.host.linkUp = true) : exec .hotReset s = .next (hostReset s true) := if_pos h

theorem exec_linkDown_linkUp {rate width : Nat} (h : s.host.linkUp = true) :
    exec (.linkDown rate width) s = .next (trainLink (hostReset s false) rate width) := if_not_of_true h

theorem exec_perstNAssert_high (hperst : s.host.perst = false) (hpor : s.rst.porAt.isSome = true) :
    exec .perstNAssert s = .next { hostReset s false with host := { (hostReset s false).host with perst := true, linkUp := false } } := by
  change execPerstNAssert s = _
  rw [execPerstNAssert, hperst, Option.isNone_eq_false_iff.mpr hpor]
  exact if_neg Bool.false_ne_true

theorem exec_perstNDeassert_low {rate width : Nat} (hperst : s.host.perst = true) :
    exec (.perstNDeassert rate width) s = .next (trainLink { s with host := { s.host with perst := false } } rate width) :=
  if_not_of_true hperst

/-! ### BAR2 -/

section
variable {t : TlpIn}

theorem exec_bar2Read_bar2 (hbar : t.bar = 2) (hread : t.write = false) : exec (.bar2Read t) s = .next (onBar2 s t) := by
  change execBar2Read t s = _
  rw [execBar2Read, hread, decide_eq_false (not_not_intro hbar)]
  exact if_neg Bool.false_ne_true

theorem exec_bar2Write_bar2 (hbar : t.bar = 2) (hwrite : t.write = true) : exec (.bar2Write t) s = .next (onBar2 s t) := by
  change execBar2Write t s = _
  rw [execBar2Write, hwrite, decide_eq_false (not_not_intro hbar)]
  exact if_neg Bool.false_ne_true

section
variable (hadmit : access2 s t = .admitted)
include hadmit

/-- An admitted request whose stack is off, or behind one that waits, waits. -/
theorem onBar2_waits (hwait : s.host.parkedTlp ≠ [] ∨ rangeOff s (bar2Addr s t) t.len = true) :
    onBar2 s t = { touchRange s (bar2Addr s t) t.len with
      host := { (touchRange s (bar2Addr s t) t.len).host with
        parkedTlp := (touchRange s (bar2Addr s t) t.len).host.parkedTlp ++ [t] } } := by
  rw [onBar2, hadmit]
  refine if_pos ?_
  rw [Bool.or_eq_true, Bool.not_eq_true', List.isEmpty_eq_false_iff]
  exact hwait

theorem onBar2_serves (hnone : s.host.parkedTlp = []) (hon : rangeOff s (bar2Addr s t) t.len = false) :
    onBar2 s t = serveBar2One s t := by
  rw [onBar2, hadmit]
  dsimp only
  rw [hnone, hon]
  exact if_neg Bool.false_ne_true

end

theorem serveBar2One_write (hfree : rangeResetting s (bar2Addr s t) t.len = false) (hwrite : t.write = true) :
    serveBar2One s t = writeBytes (touchRange s (bar2Addr s t) t.len) (bar2Addr s t) (t.data.take t.len) :=
  (if_neg (Bool.eq_false_iff.mp hfree)).trans (if_pos hwrite)

/-- Which completions of a read hold a poisoned line (R575). -/
def bar2Marks (s : State) (t : TlpIn) (rcb : Nat) : List Bool :=
  (List.range (if t.len = 0 then 0 else (bar2Addr s t + t.len - 1) / rcb + 1 - bar2Addr s t / rcb)).map fun i =>
    anyPoison s (max (bar2Addr s t) ((bar2Addr s t / rcb + i) * rcb))
      (min (bar2Addr s t + t.len) ((bar2Addr s t / rcb + i + 1) * rcb) - max (bar2Addr s t) ((bar2Addr s t / rcb + i) * rcb))

theorem serveBar2One_read (hfree : rangeResetting s (bar2Addr s t) t.len = false) (hread : t.write = false) :
    serveBar2One s t =
      (let ep := bar2Marks s t (if t.rcb128 then 128 else 64)
       let x := if ep.any id then drawFree s else (0, s)
       emit (demand (touchRange x.2 (bar2Addr s t) t.len) (bar2Addr s t) t.len)
         (.readReply (bar2Bytes x.2 (bar2Addr s t) t.len x.1) false ep)) :=
  (if_neg (Bool.eq_false_iff.mp hfree)).trans (if_neg (Bool.eq_false_iff.mp hread))

/-! ### Configuration requests -/

theorem onConfig_notReady {f : State → State} (hlink : s.host.linkUp = true) (hready : s.host.ready = false) :
    onConfig s f = .next (emit s .configRetry) := by
  rw [onConfig, hlink, hready]
  rfl

theorem onConfig_ready {f : State → State} (hlink : s.host.linkUp = true) (hready : s.host.ready = true) :
    onConfig s f = .next (f s) := by
  rw [onConfig, hlink, hready]
  rfl

section
variable (hbar : t.bar = 6)
include hbar

theorem exec_msixUnmask_config (hwrite : t.write = true) :
    exec (.msixUnmask t) s =
      onConfig s fun s => flushPending { s with host := { s.host with fmask := (fromLe t.data).testBit 0 } } :=
  (if_not_of_true hwrite).trans (if_pos hbar)

theorem exec_registerWrite_config (hwrite : t.write = true) :
    exec (.registerWrite t) s = onConfig s fun s => writeConfig s t.off (fromLe t.data) :=
  (if_not_of_true hwrite).trans (if_pos hbar)

theorem exec_registerSnapshotRead_config (hread : t.write = false) :
    exec (.registerSnapshotRead t) s = onConfig s fun s => emit s (.readReply (leBytes 4 (configReg s t.off)) false []) :=
  (if_neg (Bool.eq_false_iff.mp hread)).trans (if_pos hbar)

end

theorem exec_tlpRefused_refused (h : (if t.bar = 2 then access2 s t else access0 s t) = .refused) :
    exec (.tlpRefused t) s = .next (refuseTlp s t) := by
  change execTlpRefused t s = _
  rw [execTlpRefused, h]

end
end

/-- Settles O37: resets pass their guards, and a request goes by what its window or the function answers it. -/
theorem hostResetsAndDeviceMemoryComplete : Obligations.HostResetsAndDeviceMemoryComplete := by
  unfold Obligations.HostResetsAndDeviceMemoryComplete
  refine ⟨fun s => ⟨?_, exec_hotReset_linkUp, fun rate width => exec_linkDown_linkUp, exec_perstNAssert_high,
    fun rate width => exec_perstNDeassert_low⟩, fun s t => ?_⟩
  · exact fun h => ⟨exec_functionLevelReset_ready h, exec_d3hotToD0_ready h⟩
  · intro a rcb
    refine ⟨fun hbar hadmit hwait => ?_, fun hbar hadmit hnone hon hfree => ?_, fun hbar hlink => ?_, exec_tlpRefused_refused⟩
    · have hwaits := onBar2_waits hadmit hwait
      exact ⟨fun h => (exec_bar2Read_bar2 hbar h).trans (congrArg _ hwaits),
        fun h => (exec_bar2Write_bar2 hbar h).trans (congrArg _ hwaits)⟩
    · have hserves := onBar2_serves hadmit hnone hon
      exact ⟨fun h => (exec_bar2Read_bar2 hbar h).trans (congrArg _ (hserves.trans (serveBar2One_read hfree h))),
        fun h => (exec_bar2Write_bar2 hbar h).trans (congrArg _ (hserves.trans (serveBar2One_write hfree h)))⟩
    · refine ⟨fun hready => ⟨fun h => ⟨?_, ?_⟩, fun h => ?_⟩, fun hready => ⟨fun h => ⟨?_, ?_⟩, fun h => ?_⟩⟩
      · exact (exec_msixUnmask_config hbar h).trans (onConfig_notReady hlink hready)
      · exact (exec_registerWrite_config hbar h).trans (onConfig_notReady hlink hready)
      · exact (exec_registerSnapshotRead_config hbar h).trans (onConfig_notReady hlink hready)
      · exact (exec_msixUnmask_config hbar h).trans (onConfig_ready hlink hready)
      · exact (exec_registerWrite_config hbar h).trans (onConfig_ready hlink hready)
      · exact (exec_registerSnapshotRead_config hbar h).trans (onConfig_ready hlink hready)

end Sys2Proof.Machine
end

section
/-! SUPPORT. A table of pairs that is out of order, and the disabling of pair 0 in it (21_registers.md R713). -/

namespace Sys2Proof.Machine

/-- A state whose table of queue pairs is not in canonical form: pair 1 stands before pair 0. Pair 0 is enabled and ACTIVE. -/
def pairsOutOfOrder : State :=
  { State.reset with
    host := { State.reset.host with ready := true, mqCtl := BitVec.ofNat 64 (2 ^ 63 + 2 ^ 62) }
    cmd := { State.reset.cmd with qps := [(1, some (pairOf 0 .operator)), (0, some (pairOf 0 .operator))] } }

/-- A write of 0 to MQ_CTL, which clears ENABLE. -/
def clearEnable : TlpIn :=
  { rcb128 := false, bar := 0, off := 0x110, len := 8, write := true, data := [], stream := none, tbit := false }

/-- The numbers of the pairs in the table of an outcome's state. -/
def pairNumbers : Res → List Nat
  | .next s => s.cmd.qps.map (·.1)
  | _ => []

theorem pairNumbers_mqDisable : pairNumbers (exec (.mqDisable clearEnable) pairsOutOfOrder) = [1, 0] := by decide

/-- Refutes O38: where the table of pairs is out of order, pair 0 after another, MQ_DISABLE marks pair 0 as deleting by an entry
put in front and takes that entry out again, so the old entry of pair 0 stays; the statement has the pair taken out of the table. It
names no canonical form of the table. -/
theorem not_registerRequestsComplete : ¬ Obligations.RegisterRequestsComplete := by
  unfold Obligations.RegisterRequestsComplete
  intro h
  obtain ⟨_, _, _, hmq, _⟩ := h pairsOutOfOrder clearEnable (by decide)
  obtain ⟨_, _, hdisable⟩ := hmq rfl (by decide)
  obtain ⟨_, hidle⟩ := hdisable (pairOf 0 .operator) (by decide) (by decide) (by decide) rfl
  have hnumbers := congrArg pairNumbers (hidle rfl)
  rw [pairNumbers_mqDisable] at hnumbers
  exact absurd hnumbers (by decide)

end Sys2Proof.Machine
end

section
/-! SUPPORT. Doorbells and the bootstrap window (21_registers.md R716, R717, R723, R724; 14_command_interface.md). -/

namespace Sys2Proof.Machine

section
variable {s : State} {t : TlpIn}

theorem onBar0_admitted {f : State → State} (hadmit : access0 s t = .admitted) : onBar0 s t f = .next (f s) := by
  rw [onBar0, hadmit]

theorem doorbellIndex_aligned (h : t.off % 8 = 0) : doorbellIndex t = some (fromLe t.data % 65536) := if_pos h

theorem headOk_iff {size head tail v : Nat} {full : Bool} : headOk size head tail full v = true ↔
    v < size ∧ (full = true ∨ (v + size - head) % size ≤ (tail + size - head) % size) := by
  simp [headOk]

/-! ### Doorbells of a pair -/

section
variable {q : QpSt} (hadmit : access0 s t = .admitted) (hwrite : t.write = true) (hlow : 0x100000 ≤ t.off) (hhigh : t.off < 0x200000)
  (hpair : getQp s (doorbellPair t.off) = some q)
include hadmit hwrite hlow hhigh hpair

theorem exec_sqTailDoorbell_pair {fs : List FetchIn} (hreg : t.off % 0x1000 = 0) :
    exec (.sqTailDoorbell t fs) s = .next (if fromLe t.data % 65536 < 2 ^ q.sqlog then
        setQp s (doorbellPair t.off) (some { q with sqTail := fromLe t.data % 65536, ring := q.ring ++ fs })
      else doorbellError s (doorbellPair t.off) q.role (fromLe t.data % 65536)) := by
  have hindex := doorbellIndex_aligned (t := t) (by omega)
  change execSqTailDoorbell t fs s = _
  rw [execSqTailDoorbell, hwrite, decide_eq_true hlow, decide_eq_true hhigh, decide_eq_false (by omega), if_neg (by decide),
    onBar0_admitted hadmit]
  dsimp only
  rw [hindex, hpair]
  dsimp only
  by_cases hv : fromLe t.data % 65536 < 2 ^ q.sqlog
  · rw [if_pos hv, if_neg (Nat.not_le.mpr hv)]
  · rw [if_neg hv, if_pos (Nat.not_lt.mp hv)]

theorem exec_cqHeadDoorbell_pair (hreg : t.off % 0x1000 = 8) :
    exec (.cqHeadDoorbell t) s = .next (if headOk (2 ^ q.cqlog) q.cqHead q.cqTail q.cqFull (fromLe t.data % 65536) then
        endOutstanding (setQp s (doorbellPair t.off) (some { q with cqHead := fromLe t.data % 65536, cqFull := false })) q.vec
      else doorbellError s (doorbellPair t.off) q.role (fromLe t.data % 65536)) := by
  have hindex := doorbellIndex_aligned (t := t) (by omega)
  change execCqHeadDoorbell t s = _
  rw [execCqHeadDoorbell, hwrite, decide_eq_true hlow, decide_eq_true hhigh, decide_eq_false (by omega), if_neg (by decide),
    onBar0_admitted hadmit, hindex, hpair]

end

/-! ### Doorbell of an event ring -/

/-- What a head value does to a ring: space returns, and what was lost is reported, where the ring may be written (R717). -/
def headMoved (s : State) (lease : Bool) (v : Nat) : State :=
  let r := ringOf s lease
  let t := endOutstanding (setRing s lease { r with head := v, full := false }) (ringVec r)
  if lease = true ∧ s.host.tdi ≠ .run then t else ringReport t lease

/-- Whether a head value moves a ring. -/
def headMoves (s : State) (lease : Bool) (v : Nat) : Bool :=
  let r := ringOf s lease
  ringActive r && headOk (ringSize r) r.head r.tail r.full v

/-- The doorbell's guards and its report, for a ring that may be written. -/
theorem headMoved_of_guards {lease : Bool} {v : Nat} (hopen : (lease && !s.lease.openL) = false) :
    (let r := ringOf s lease
     if !ringActive r || (lease && !s.lease.openL) || !headOk (ringSize r) r.head r.tail r.full v then s
     else
       let t := endOutstanding (setRing s lease { r with head := v, full := false }) (ringVec r)
       if lease && t.host.tdi ≠ .run then t else ringReport t lease) =
      if headMoves s lease v then headMoved s lease v else s := by
  have hguards : (!ringActive (ringOf s lease) || !headOk (ringSize (ringOf s lease)) (ringOf s lease).head (ringOf s lease).tail
      (ringOf s lease).full v) = !headMoves s lease v := (Bool.not_and ..).symm
  have htdi : ∀ r, (endOutstanding (setRing s lease r) (ringVec (ringOf s lease))).host.tdi = s.host.tdi := by
    cases lease <;> exact fun _ => rfl
  dsimp only
  rw [hopen, Bool.or_false, hguards]
  cases headMoves s lease v with
  | false => rfl
  | true =>
    refine (if_neg Bool.false_ne_true).trans ?_
    rw [htdi]
    simp only [headMoved, Bool.and_eq_true, decide_eq_true_eq, if_true]

theorem exec_eventRingHeadDoorbell_ring (hadmit : access0 s t = .admitted) (hwrite : t.write = true)
    (hring : t.off = 0x150 ∨ (t.off = 0x10050 ∧ s.lease.openL = true)) :
    exec (.eventRingHeadDoorbell t) s = .next (if headMoves s (decide (t.off = 0x10050)) (fromLe t.data % 65536) then
      headMoved s (decide (t.off = 0x10050)) (fromLe t.data % 65536) else s) := by
  have hindex := doorbellIndex_aligned (t := t) (by omega)
  have hreg : regOf t = t.off := by rw [regOf]; omega
  have hnamed : (decide (t.off = 0x150) || decide (t.off = 0x10050)) = true := by
    rw [← Bool.decide_or]
    exact decide_eq_true (hring.imp_right And.left)
  have hopen : (decide (t.off = 0x10050) && !s.lease.openL) = false := by
    rcases hring with hoff | ⟨_, hopen⟩
    · rw [hoff]; rfl
    · rw [hopen, Bool.not_true, Bool.and_false]
  change execEventRingHeadDoorbell t s = _
  rw [execEventRingHeadDoorbell, hwrite, onBar0_admitted hadmit, hindex, hreg, hnamed]
  exact (if_neg Bool.false_ne_true).trans (congrArg _ (headMoved_of_guards hopen))

/-! ### The bootstrap window -/

/-- The status of a bootstrap on a record (R724). -/
def bootStatus (s : State) (p : Nat) : Nat :=
  if !(checkQueueRecord p).isEmpty then stBadParam
  else if !auditRoom s 1 || (getQp s (bits p 511 504)).isSome then stNoResource
  else if !(tenantPairs s).isEmpty then stBadParam else stOk

/-- The state that has answered a bootstrap on a record with a status, its audit entry left. -/
def bootAnswered (s : State) (p st : Nat) : State :=
  auditPut { s with host := { s.host with bootCtl := BitVec.ofNat 64 (st * 2 ^ 48 + 2 ^ 47) } } 0x0002 3 0 true { AuditPriv.zero with
    qpn := bits p 511 504, opcode := 0x0110, status := st, target := uidOf .hostIf
    pdigest := BitVec.ofNat 256 ((Config.sha384 (leBytes 64 p)).toNat >>> 128) }

theorem exec_bootstrapGo_go (hadmit : access0 s t = .admitted) (hwrite : t.write = true) (hoff : t.off = 0x10140) (hlen : t.len = 8)
    (hopen : s.lease.openL = true) (hgo : (fromLe t.data).testBit 63 = true) :
    exec (.bootstrapGo t) s =
      (let p := s.host.bootRec.toNat
       let st := bootStatus s p
       .next (bootAnswered (if st = stOk then setQp s (bits p 511 504) (some (pairOf p .tenant)) else s) p st)) := by
  have hreg : regOf t = 0x10140 := by rw [regOf, hoff]
  have hvalue : writeValue t 0 = fromLe t.data := if_pos hlen
  change execBootstrapGo t s = _
  rw [execBootstrapGo, hwrite, hreg, if_neg (by decide), onBar0_admitted hadmit, hopen, hvalue, hgo]
  refine congrArg Host.Outcome.next ((if_neg Bool.false_ne_true).trans ?_)
  rfl

/-! The results of a bootstrap, in the order in which it looks: the record, room and the number, other pairs. -/

section
variable {p : Nat}

theorem bootStatus_of_bad (h : checkQueueRecord p ≠ []) : bootStatus s p = stBadParam := if_not_isEmpty_of_ne_nil h

section
variable (hrecord : checkQueueRecord p = [])
include hrecord

theorem bootStatus_of_full (h : auditRoom s 1 = false ∨ (getQp s (bits p 511 504)).isSome = true) :
    bootStatus s p = stNoResource := by
  refine (if_not_isEmpty_of_nil hrecord).trans (if_pos ?_)
  rw [Bool.or_eq_true, Bool.not_eq_true']
  exact h

theorem bootStatus_of_room (hroom : auditRoom s 1 = true) (hfree : getQp s (bits p 511 504) = none) :
    bootStatus s p = if !(tenantPairs s).isEmpty then stBadParam else stOk := by
  refine (if_not_isEmpty_of_nil hrecord).trans (if_neg ?_)
  rw [hroom, hfree]
  exact Bool.false_ne_true

end
end
end

/-- Settles O39: an index is always there for an aligned doorbell, and a bootstrap answers with the first status that its order of
tests finds. -/
theorem doorbellsComplete : Obligations.DoorbellsComplete := by
  unfold Obligations.DoorbellsComplete
  intro s t hadmit hwrite v quiet
  refine ⟨fun hlow hhigh haligned q hpair => ?_, fun hring => ?_, fun hoff hlen hopen hgo => ?_⟩
  · intro n err
    refine ⟨fun fs hreg => ?_, fun hreg => ?_⟩
    · refine (exec_sqTailDoorbell_pair hadmit hwrite hlow hhigh hpair hreg).trans ?_
      exact apply_ite _ _ _ _
    · refine (exec_cqHeadDoorbell_pair hadmit hwrite hlow hhigh hpair hreg).trans ?_
      simp only [headOk_iff]
      exact apply_ite _ _ _ _
  · intro lease r size moved good
    have hexec := exec_eventRingHeadDoorbell_ring hadmit hwrite hring
    have hmoves : headMoves s lease v = true ↔ r.ctl.toNat.testBit 62 = true ∧ good :=
      Bool.and_eq_true_iff.trans (and_congr Iff.rfl headOk_iff)
    refine ⟨fun hactive hgood => ?_, fun hbad => ?_⟩
    · exact hexec.trans (congrArg _ (if_pos (hmoves.mpr ⟨hactive, hgood⟩)))
    · refine hexec.trans (congrArg _ (if_neg fun h => ?_))
      obtain ⟨hactive, hgood⟩ := hmoves.mp h
      exact hbad.elim (Bool.eq_false_iff.mp · hactive) (· hgood)
  · intro p n audit
    have hexec := exec_bootstrapGo_go hadmit hwrite hoff hlen hopen hgo
    have hanswer : ∀ st, bootStatus s p = st → st ≠ stOk → exec (.bootstrapGo t) s = audit s st := by
      intro st hst hne
      rw [hexec]
      dsimp only
      rw [hst, if_neg hne]
      rfl
    refine ⟨fun hrecord => ?_, fun hrecord hfull => ?_, fun hrecord hroom hfree hpairs => ?_, fun hrecord hroom hfree hpairs => ?_⟩
    · exact hanswer _ (bootStatus_of_bad hrecord) (by decide)
    · exact hanswer _ (bootStatus_of_full hrecord hfull) (by decide)
    · exact hanswer _ ((bootStatus_of_room hrecord hroom hfree).trans (if_not_isEmpty_of_ne_nil hpairs)) (by decide)
    · have hst : bootStatus s p = stOk := (bootStatus_of_room hrecord hroom hfree).trans (if_not_isEmpty_of_nil hpairs)
      rw [hexec]
      dsimp only
      rw [hst, if_pos rfl]
      rfl

end Sys2Proof.Machine
end
